-- ==== Sys2Proof/Word.lean ====
section
/-! DEFINITION. The words of the module: bytes and 64-bit register words. -/

namespace Sys2Proof

/-- One byte of any memory of the module. -/
abbrev Byte := BitVec 8

/-- A register of the control space, a sequencer register or an instruction word (R338, R58, R85). -/
abbrev Word := BitVec 64

end Sys2Proof
end

