-- ==== Sys2Proof/Syntax.lean ====
section
/-! DEFINITION. The commands of the block, one constructor of `Instr` for each row of the table of operations and
events, and the data their operands carry. The table gives its rows no operands and no bits: the operands here
are the model's choice (DESIGN CHOICE, log 2): each carries what the sender must say for the step to be
determined (which unit acts, what arrived, what was measured). -/

namespace Sys2Proof

/-- A beat marker (R31). -/
structure Marker where
  beat : BitVec 64
  log2 : Nat
  hops : Nat
  master : Nat
  corr : Int
  planTag : BitVec 32
deriving DecidableEq, Repr

/-- A packet of the fabric with its header fields (R248) and the channel it travels on. -/
structure Pkt where
  vc : Nat
  dst : Nat
  src : Nat
  op : Nat
  flagged : Bool
  esc : Bool
  circ : Bool
  hops : Nat
  addr : Nat
  circuit : Nat
  epoch : Nat
  ctx : Nat
  tag : Nat
  seq : Nat
  pairSeq : Nat
  aux : Nat
  payload : List Byte
deriving DecidableEq, Repr

/-- A link flit as it arrives (R223): header, 240 payload bytes and CRC. -/
structure Flit where
  header : BitVec 64
  payload : List Byte
  crc : BitVec 64
deriving DecidableEq, Repr

/-- What the code of R203 finds in a 64-byte access (R203, R204, R206). -/
inductive EccError
  | clean
  | corrected
  | uncorrectable
deriving DecidableEq, Repr

/-- What an access to a tile's storage finds (R61): no error; a single-bit error in a storage word; a parity error of an L1
tag; an uncorrectable error in a storage word. Words are physical words of the tile (R406): those of the scratchpad from 0, those
of the L1 data array from 20,480. -/
inductive StoreEcc
  | ok
  | corrected (word : Nat)
  | tagParity
  | uncorrectable (word : Nat)
deriving DecidableEq, Repr

/-- What a RoCEv2 packet of a reliable connection carries (R238): parts of a message, with whether this is its first and its last; a
request to read; part of the answer; an acknowledgement; a negative one, with its syndrome; a congestion notification. -/
inductive RoceOp
  | send (first last : Bool) (data : List Byte)
  | write (first last : Bool) (rkey addr len : Nat) (data : List Byte)
  | readReq (rkey addr len : Nat)
  | readResp (data : List Byte)
  | ack
  | nak (syndrome : Nat)
  | cnp
deriving DecidableEq, Repr

/-- A RoCEv2 packet (R238): the other end's address, in the IPv6 form of R506; the ECN mark of congestion experienced; the
destination queue pair, the packet sequence number, and the operation. -/
structure Roce where
  ip : List Byte
  ce : Bool
  qp : Nat
  psn : Nat
  op : RoceOp
deriving DecidableEq, Repr

/-- What an Ethernet frame carries (R238): a priority pause with the time of each priority it names, in quanta; a RoCEv2 packet;
anything else. -/
inductive EthBody
  | pause (times : List (Nat × Nat))
  | roce (r : Roce)
  | other (data : List Byte)
deriving DecidableEq, Repr

/-- An Ethernet frame of a storage port (R238): addresses, 802.1Q tag (priority, VLAN ID), length in bytes, contents. -/
structure EthFrame where
  dmac : Nat
  smac : Nat
  tag : Option (Nat × Nat)
  len : Nat
  body : EthBody
deriving DecidableEq, Repr

/-- A command in flight, named by function, queue and cmd_id (R328). Functions are numbered as views are:
0-3 function 0 of host link n, 4-19 the function of deckle n - 4 (R343, R354). -/
structure CmdRef where
  fn : Nat
  queue : Nat
  cmdId : Nat
deriving DecidableEq, Repr

/-- The header of a Duntus message from the board controller (R443). -/
structure DHdr where
  ver : Nat
  code : Nat
  resp : Bool
  event : Bool
  rsv : Nat
  status : Nat
  seq : Nat
  len : Nat
  /-- the MCTP endpoint it comes from -/
  src : Nat
deriving DecidableEq, Repr

/-- A job plan (R230, R244, R246, R253, R254, R256, R260, R261, R264, R267, R296). The spec gives the entries' layouts
but not the plan's own: its parts are fields here (DESIGN CHOICE, log 11). -/
structure Plan where
  planSeq : Nat
  jobHash : List Byte
  rack : Nat
  slot : Nat
  endpoints : List Nat
  own0 : Nat
  own1 : Nat
  master : Option Nat
  ports : List (BitVec 128)
  weights : List Nat
  windowUnits : Nat
  sources : Nat
  strict : BitVec 4
  escEn : Bool
  /-- (I/O die, destination endpoint, route entry) -/
  routes : List (Nat × Nat × BitVec 32)
  /-- (port, slot, circuit) -/
  slots : List (Nat × Nat × Nat)
  /-- (I/O die, tree, entry in the layout of COLL_TREE_DATA) -/
  trees : List (Nat × Nat × BitVec 32)
  ring0 : Nat
  ring1 : Nat
  /-- (endpoint, ring successor endpoint) -/
  ring : List (Nat × Nat)
  collector : Nat
  /-- the job uses circuits, sealed mode or Gealmub collectives -/
  needsGealmub : Bool
  /-- some member is reached only through S7-mode ports -/
  s7Only : Bool
  /-- (I/O die, source endpoint) of pairs that their source had found unreachable and that start afresh (R263) -/
  restarts : List (Nat × Nat)
  /-- endpoints of modules whose package has been recovered since the last plan (R269) -/
  resets : List Nat
deriving DecidableEq, Repr

/-- Predicted input power of an operating point in watts, working and idle beat (R385, R386): divisor, memory share in
sixteenths, watts of a working beat, watts of an idle beat. -/
structure PointPower where
  d : Nat
  m : Nat
  work : Nat
  idle : Nat
deriving DecidableEq, Repr

/-- What one compute die measured of one phase in the ending beat (R384): tiles that ran it, its stall fraction in 1/256,
the die's measured power in milliwatts, and the tiles expected to run it in the next beat. -/
structure PhaseStall where
  die : Nat
  phase : Nat
  tiles : Nat
  stall : Nat
  dieMw : Nat
  next : Nat
deriving DecidableEq, Repr

/-- What a stack or an I/O die measured in the ending beat (R378, R384): stack i as i, I/O die j as 12 + j; its power in
milliwatts, and its load. -/
structure LoadPower where
  unit : Nat
  mw : Nat
  load : Nat
deriving DecidableEq, Repr

/-- One sensor's answer in a sample (R393): SENS_ instance 0-6, or 8 + i for stack i; point; the reading in quarter
degrees Celsius, none when it did not answer. -/
structure TempReading where
  inst : Nat
  point : Nat
  value : Option Int
deriving DecidableEq, Repr

/-- What a control unit found in the NOR device while it booted (R457, R459, R460, R462, R465, R466): what verified, the
128-byte header of the image it loaded, and the factory entries of the broke map (kind, location). -/
structure BootResult where
  factoryOk : Bool
  pufOk : Bool
  regionAOk : Bool
  regionBOk : Bool
  verRecordOk : Bool
  mapOk : Bool
  keysOk : Bool
  header : List Byte
  factoryMap : List (Nat × Nat)
deriving DecidableEq, Repr

/-- The commands. -/
inductive Instr
  /-- BEAT_BOUNDARY (R22): The beat generator reaches the end of a beat and applies the pending boundary actions in their fixed order. `silent`
names the control units that have stopped since their last boundary (R435). -/
  | beatBoundary (silent : List Nat)
  /-- PLACEMENT_FREEZE (R171): Placement for the next beat is frozen 64 REFCLK cycles before the boundary. -/
  | placementFreeze (decided : Bool)
  /-- MARKER (R33): A beat marker link control flit is received, checked, timestamped and used for alignment. -/
  | marker (port : Nat) (m : Marker) (arrival : Nat) (replayed : Bool)
  /-- ALIGN_TIMEOUT (R35): No accepted marker for 256 bt while SEEKING raises align_timeout. -/
  | alignTimeout
  /-- MARKER_TIMEOUT (R35): No accepted marker for 64 bt while LOCKED sends the module to HOLDOVER. -/
  | markerTimeout
  /-- SHEET_PROGRAM_FETCH (R63): A sheet's program is fetched into the instruction buffer while the sheet is next on its tile. -/
  | sheetProgramFetch (tile : Nat)
  /-- SHEET_START (R44): A due sheet starts once its tile is free and its references and start gate are satisfied. -/
  | sheetStart (tile : Nat)
  /-- SHEET_COMPLETE (R45): A sheet completes after END, descriptor completion and L1 write-back. -/
  | sheetComplete (tile : Nat)
  /-- SHEET_WAIT_TIMEOUT (R52): A sheet due for more than wait_limit beats faults its context with TIMEOUT. -/
  | sheetWaitTimeout (ctx inst : Nat)
  /-- TILE_FENCE (R90): A tile is fenced: injections stop, in-flight writes drain, and its sheet is lost. -/
  | tileFence (tile : Nat) (cause : Nat)
  /-- TILE_FENCED (R90): A draining tile has no write outstanding and enters FENCED. -/
  | tileFenced (tile : Nat)
  /-- FENCE_DRAIN_TIMEOUT (R90): A tile not FENCED within 2 µs faults its contexts with MEMBER_FENCED. -/
  | fenceDrainTimeout (tile : Nat)
  /-- TILE_DEADLOCK (R69): A tile blocked with no token possible for 1,024 tile cycles faults its context. -/
  | tileDeadlock (tile : Nat)
  /-- ADD (R86): Sequencer adds two registers. -/
  | seqAdd (tile : Nat)
  /-- SUB (R86): Sequencer subtracts two registers. -/
  | seqSub (tile : Nat)
  /-- MUL (R86): Sequencer multiplies two registers keeping the low 64 bits. -/
  | seqMul (tile : Nat)
  /-- AND (R86): Sequencer bitwise AND of two registers. -/
  | and_ (tile : Nat)
  /-- OR (R86): Sequencer bitwise OR of two registers. -/
  | or_ (tile : Nat)
  /-- XOR (R86): Sequencer bitwise XOR of two registers. -/
  | xor_ (tile : Nat)
  /-- SHL (R86): Sequencer shift left by register. -/
  | shl (tile : Nat)
  /-- SHR (R86): Sequencer logical shift right by register. -/
  | shr (tile : Nat)
  /-- SRA (R86): Sequencer arithmetic shift right by register. -/
  | sra (tile : Nat)
  /-- MIN (R86): Sequencer signed minimum. -/
  | min_ (tile : Nat)
  /-- MAX (R86): Sequencer signed maximum. -/
  | max_ (tile : Nat)
  /-- SLT (R86): Sequencer signed less-than compare. -/
  | slt (tile : Nat)
  /-- SLTU (R86): Sequencer unsigned less-than compare. -/
  | sltu (tile : Nat)
  /-- SEQ (R86): Sequencer equality compare. -/
  | seq (tile : Nat)
  /-- ADDI (R86): Sequencer add immediate. -/
  | addi (tile : Nat)
  /-- ANDI (R86): Sequencer AND immediate. -/
  | andi (tile : Nat)
  /-- ORI (R86): Sequencer OR immediate. -/
  | ori (tile : Nat)
  /-- XORI (R86): Sequencer XOR immediate. -/
  | xori (tile : Nat)
  /-- SHLI (R86): Sequencer shift left by immediate. -/
  | shli (tile : Nat)
  /-- SHRI (R86): Sequencer logical shift right by immediate. -/
  | shri (tile : Nat)
  /-- SRAI (R86): Sequencer arithmetic shift right by immediate. -/
  | srai (tile : Nat)
  /-- SLTI (R86): Sequencer signed compare with immediate. -/
  | slti (tile : Nat)
  /-- LIL (R86): Sequencer loads a zero-extended immediate. -/
  | lil (tile : Nat)
  /-- LIH (R86): Sequencer loads an immediate into the upper half. -/
  | lih (tile : Nat)
  /-- LDS (R86): Sequencer loads from scratchpad. -/
  | lds (tile : Nat) (ecc : StoreEcc)
  /-- STS (R86): Sequencer stores to scratchpad. -/
  | sts (tile : Nat) (ecc : StoreEcc)
  /-- LDG (R122): Sequencer loads from local HBM through the L1. -/
  | ldg (tile : Nat) (ecc : StoreEcc)
  /-- STG (R122): Sequencer stores to local HBM through the L1, evicting a line if needed. -/
  | stg (tile : Nat) (ecc : StoreEcc)
  /-- L1_FILL_DONE (R122): A line fill for an L1 miss returns from the home and the stalled access completes. -/
  | l1FillDone (tile : Nat) (errs : List (Nat × Nat))
  /-- BEQ (R86): Branch if equal. -/
  | beq (tile : Nat)
  /-- BNE (R86): Branch if not equal. -/
  | bne (tile : Nat)
  /-- BLT (R86): Branch if signed less than. -/
  | blt (tile : Nat)
  /-- BGE (R86): Branch if signed greater or equal. -/
  | bge (tile : Nat)
  /-- BLTU (R86): Branch if unsigned less than. -/
  | bltu (tile : Nat)
  /-- BGEU (R86): Branch if unsigned greater or equal. -/
  | bgeu (tile : Nat)
  /-- JMP (R86): Branch unconditionally. -/
  | jmp (tile : Nat)
  /-- CALL (R86): Push the return address and branch. -/
  | call_ (tile : Nat)
  /-- RET (R86): Pop the return address and branch. -/
  | ret_ (tile : Nat)
  /-- ISSUE (R65): Copy and check a descriptor and place it in an engine queue. -/
  | issue (tile : Nat) (ecc : StoreEcc)
  /-- SIG (R67): Add 1 to a sync token. -/
  | sig (tile : Nat)
  /-- WAIT (R67): Wait until a token reaches a count and consume it. -/
  | wait (tile : Nat)
  /-- FENCE (R128): Wait for issued descriptors, and with func 1 for remote completion. -/
  | fence (tile : Nat) (readBack : Bool)
  /-- CINV (R123): Invalidate L1 lines over a range, discarding dirty data. -/
  | cinv (tile : Nat)
  /-- CWB (R123): Write back dirty L1 lines over a range and wait. -/
  | cwb (tile : Nat)
  /-- CWBI (R123): Write back then invalidate L1 lines over a range. -/
  | cwbi (tile : Nat)
  /-- MOVS (R88): Read a special value selected by an immediate. -/
  | movs (tile : Nat)
  /-- END (R64): End the program and begin the sheet's completion sequence. -/
  | end_ (tile : Nat)
  /-- DESCRIPTOR_START (R67): A queue head descriptor starts once its token count is met, consuming it. -/
  | descriptorStart (tile queue : Nat)
  /-- DESCRIPTOR_COMPLETE (R68): A descriptor completes and signals its token. -/
  | descriptorComplete (tile queue : Nat)
  /-- MATRIX_MULTIPLY (R70): The matrix engine executes a matrix descriptor. -/
  | matrixMultiply (tile : Nat) (ecc : StoreEcc)
  /-- VEC_ADD (R77): Vector elementwise add. -/
  | vecAdd (tile : Nat) (ecc : StoreEcc)
  /-- VEC_SUB (R77): Vector elementwise subtract. -/
  | vecSub (tile : Nat) (ecc : StoreEcc)
  /-- VEC_MUL (R77): Vector elementwise multiply. -/
  | vecMul (tile : Nat) (ecc : StoreEcc)
  /-- VEC_FMA (R77): Vector fused multiply-add. -/
  | vecFma (tile : Nat) (ecc : StoreEcc)
  /-- VEC_MAX (R77): Vector elementwise maximum. -/
  | vecMax (tile : Nat) (ecc : StoreEcc)
  /-- VEC_MIN (R77): Vector elementwise minimum. -/
  | vecMin (tile : Nat) (ecc : StoreEcc)
  /-- ABS (R77): Vector absolute value. -/
  | abs_ (tile : Nat) (ecc : StoreEcc)
  /-- NEG (R77): Vector negation. -/
  | neg_ (tile : Nat) (ecc : StoreEcc)
  /-- SCALE (R77): Vector multiply by immediate. -/
  | scale (tile : Nat) (ecc : StoreEcc)
  /-- EXP2 (R77): Vector power of two. -/
  | exp2 (tile : Nat) (ecc : StoreEcc)
  /-- LOG2 (R77): Vector base-2 logarithm. -/
  | log2 (tile : Nat) (ecc : StoreEcc)
  /-- RECIP (R77): Vector reciprocal. -/
  | recip (tile : Nat) (ecc : StoreEcc)
  /-- RSQRT (R77): Vector reciprocal square root. -/
  | rsqrt (tile : Nat) (ecc : StoreEcc)
  /-- SQRT (R77): Vector square root. -/
  | vecSqrt (tile : Nat) (ecc : StoreEcc)
  /-- CVT (R107): Vector format conversion. -/
  | cvt (tile : Nat) (ecc : StoreEcc)
  /-- QMX (R111): Vector quantisation to an MX format with scales. -/
  | qmx (tile : Nat) (ecc : StoreEcc)
  /-- DQMX (R112): Vector dequantisation from an MX format. -/
  | dqmx (tile : Nat) (ecc : StoreEcc)
  /-- RSUM (R78): Vector row sum in fixed order. -/
  | rsum (tile : Nat) (ecc : StoreEcc)
  /-- RMAX (R77): Vector row maximum. -/
  | rmax (tile : Nat) (ecc : StoreEcc)
  /-- RMIN (R77): Vector row minimum. -/
  | rmin (tile : Nat) (ecc : StoreEcc)
  /-- DMA_TRANSFER (R82): The DMA engine starts a DMA descriptor and cuts its rows into bursts. -/
  | dmaTransfer (tile queue : Nat)
  /-- DMA_BURST_ISSUE (R509): One burst is checked and issued in queue rotation when an in-flight slot is free. -/
  | dmaBurstIssue (tile : Nat) (ecc : StoreEcc)
  /-- DMA_BURST_DONE (R509): A burst is locally complete or its read data returns. -/
  | dmaBurstDone (tile burst : Nat) (data : List Byte) (errs : List (Nat × Nat))
  /-- CHEST_TRANSFER (R147): A DMA descriptor on space 0x3 reads or writes chest blocks. -/
  | chestTransfer (tile queue : Nat) (errs : List (Nat × Nat)) (lost : List Nat)
  /-- CHEST_WRITE_PLACED (R148): A chest write is placed at its home in T1 and the descriptor switches. -/
  | chestWritePlaced (tile queue : Nat)
  /-- CHEST_SPACE_TIMEOUT (R150): A chest write still lacking arena space after 64 bt faults with RESOURCE. -/
  | chestSpaceTimeout (tile queue : Nat)
  /-- SCREEN_QUERY (R153): A query record is passed to the screen port and queued at the base dies. -/
  | screenQuery (tile queue : Nat)
  /-- SCREEN_QUERY_DONE (R156): The merged selection list is written and the query descriptor completes. -/
  | screenQueryDone (tile queue : Nat) (errs : List (Nat × Nat))
  /-- BLOCK_MOVE_DONE (R185): A headbox block move completes or is abandoned and the location switches. -/
  | blockMoveDone (ctx block : Nat) (ok : Bool)
  /-- HOST_MEM_READ (R310): A host CXL.mem read of the deckle's HDM range. -/
  | hostMemRead (deckle addr len : Nat) (errs : List (Nat × Nat))
  /-- HOST_MEM_WRITE (R310): A host CXL.mem write of the deckle's HDM range. -/
  | hostMemWrite (deckle addr : Nat) (data : List Byte)
  /-- SCRUB (R206): The patrol scrubber reads, corrects and writes back one unit. -/
  | scrub (stack channel symbols : Nat)
  /-- ROW_REPAIR (R207): A scheduled row repair takes the memory-repair lock and starts. -/
  | rowRepair (stack row : Nat)
  /-- ROW_REPAIR_DONE (R207): A soft row repair completes and is recorded in the broke map. -/
  | rowRepairDone (stack row : Nat)
  /-- REFRESH_RATE_CHANGE (R209): The stack temperature crosses a refresh threshold or stays below it for 100 ms. -/
  | refreshRateChange (stack : Nat) (cooled : Bool)
  /-- MEMORY_TRAINING_START (R210): Memory training starts once MEM_EN has been stable for 10 ms. -/
  | memoryTrainingStart
  /-- MEMORY_TRAINING_DONE (R210): Memory training ends with each stack ACTIVE or FAILED. -/
  | memoryTrainingDone (failed : List Nat) (ms : Nat) (spare : List (Nat × Nat))
  /-- HALF_STACK_FAIL (R215): A channel fails in service and the deckles owning its half stack lose their HBM. -/
  | halfStackFail (stack half : Nat)
  /-- SIGNAL_DETECT (R227): Signal appears on at least 2 lanes of a port in DETECT. -/
  | signalDetect (port : Nat) (lanes : BitVec 4)
  /-- SIGNAL_LOSS (R227): A port loses signal and returns to DETECT. -/
  | signalLoss (port : Nat)
  /-- DETECT_TIMEOUT (R227): No signal within 100 ms sends a port to ABSENT. -/
  | detectTimeout (port : Nat)
  /-- LANES_LOCKED (R227): At least 2 lanes reach CDR and FEC lock and the port enters IDENTIFY. -/
  | lanesLocked (port : Nat) (lanes inverted : BitVec 4) (reversed : Bool)
  /-- PHY_TRAIN_TIMEOUT (R227): Fewer than 2 lanes locked within 2,400 ms sends a port to ABSENT. -/
  | phyTrainTimeout (port : Nat)
  /-- IDENTIFY_TIMEOUT (R227): No verified identity set within 300 ms holds the port with AUTH_FAIL. -/
  | identifyTimeout (port : Nat)
  /-- SEAL_TIMEOUT (R227): Key agreement not complete within 100 ms holds the port. -/
  | sealTimeout (port : Nat)
  /-- RETRAIN_TIMEOUT (R227): Lock not regained within 5 ms in RETRAIN sends the port to DETECT. -/
  | retrainTimeout (port : Nat)
  /-- ABSENT_RETRY (R227): An ABSENT port retries DETECT every 1 s. -/
  | absentRetry (port : Nat)
  /-- IDENTITY_SET_SIGN (R229): The module signs a new identity set after a plan delivery or at bring-up. -/
  | identitySetSign
  /-- FLIT_RECEIVE (R225): A flit is received, CRC-checked, accepted in seq order, and acks, naks and credits applied. -/
  | flitReceive (port : Nat) (f : Flit) (csym : Nat) (ucw : List Nat)
  /-- REPLAY_TIMEOUT (R225): No ack for 4 µs makes the sender replay from the oldest unacknowledged flit. -/
  | replayTimeout (port : Nat)
  /-- ID_SEG (R230): A segment of the partner's identity set arrives; the whole set is verified and checked against the plan. -/
  | idSeg (port sender offset : Nat) (seg : List Byte)
  /-- ECHO (R232): An echo request or reply is handled for link latency measurement. -/
  | echo (port : Nat) (request : Bool) (stamp turnaround now : Nat)
  /-- WIDTH (R235): A lane-width proposal or acceptance is exchanged to retire a lane. -/
  | width (port : Nat) (mask : BitVec 4) (proposal : Nat) (accept : Bool)
  /-- SEAL_KEY (R233): A sealed-mode ciphertext segment or rekey request is received. -/
  | sealKey (port : Nat) (rekey : Bool) (seg : List Byte)
  /-- HOLD (R231): A partner's hold report is received. -/
  | hold_ (port status : Nat) (miswire : BitVec 32)
  /-- SEAL_TAG (R233): A seal tag flit verifies or fails the span it covers. -/
  | sealTag (port : Nat) (span : Nat) (tag : List Byte)
  /-- SEAL_REKEY (R233): After 2^24 spans the lower-serial end starts a rekey. -/
  | sealRekey (port : Nat)
  /-- LANE_LOCK_LOSS (R234): A lane loses lock and the port pauses to relock it. -/
  | laneLockLoss (port lane : Nat)
  /-- LANE_RELOCK_TIMEOUT (R234): A lane not relocked within 5 ms is retired. -/
  | laneRelockTimeout (port lane : Nat)
  /-- LANE_CSR_LIMIT (R234): A lane's corrected symbol rate stays above its limit for 1 s. -/
  | laneCsrLimit (port lane : Nat)
  /-- ETH_LINK_UP (R238): An Ethernet storage port's link comes up and the port is ACTIVE. -/
  | ethLinkUp (port : Nat)
  /-- ETH_LINK_TIMEOUT (R238): An Ethernet storage port without link for 3 s becomes ABSENT. -/
  | ethLinkTimeout (port : Nat)
  /-- ETH_FRAME (R238): An Ethernet or RoCEv2 frame is received on a storage port. -/
  | ethFrame (port : Nat) (f : EthFrame)
  /-- S7_HELLO (R239): The S7 link hello is received and checked against the plan. -/
  | s7Hello (port serial partnerPort : Nat)
  /-- S7_HELLO_TIMEOUT (R239): No S7 hello within 300 ms makes the port ABSENT. -/
  | s7HelloTimeout (port : Nat)
  /-- PACKET_ROUTE (R247): A packet at the head of a router queue chooses an output by route or tree table. -/
  | packetRoute (iod pos slot idle : Nat)
  /-- ESCAPE_DIVERT (R257): A packet waiting 2 µs without credit is diverted to VC7. -/
  | escapeDivert (iod pos : Nat)
  /-- PACKET_INJECT (R260): A packet is injected once the pair's window and credit allow. -/
  | packetInject (iod : Nat)
  /-- WRITE (R261): A WRITE packet is placed at its destination home in pair order. -/
  | pktWrite (iod : Nat) (p : Pkt)
  /-- READ_REQ (R249): A read request packet is served at the destination. -/
  | readReq (iod : Nat) (p : Pkt)
  /-- READ_RSP (R249): A read response returns data to the requester. -/
  | readRsp (iod : Nat) (p : Pkt)
  /-- NOTICE (R47): A stamp notice updates a producer slot of an ext region. -/
  | notice (iod : Nat) (p : Pkt)
  /-- STAMP_NOTICE_SEND (R46): After a sheet's remote writes are complete, stamp notices are sent to peer regions. -/
  | stampNoticeSend (ctx inst : Nat)
  /-- ACK (R262): An end-to-end ACK advances accepted, placed and window values of a pair. -/
  | ack (iod : Nat) (p : Pkt)
  /-- ACK_SEND (R262): The destination sends an ACK after 64 placed flits or 1 µs. -/
  | ackSend (iod src vc : Nat)
  /-- CHEST_WR (R249): A remote chest write into lent T2 space arrives. -/
  | chestWr (iod : Nat) (p : Pkt)
  /-- CHEST_RD (R249): A remote chest read of lent T2 space arrives. -/
  | chestRd (iod : Nat) (p : Pkt)
  /-- CMAP (R267): A congestion map packet arrives at the collector. -/
  | cmap (iod : Nat) (p : Pkt)
  /-- CMAP_CLOSE (R267): The congestion map interval closes and the map is stored and sent. -/
  | cmapClose (iod : Nat)
  /-- PAIR_UNREACHABLE (R263): A pair whose oldest packet is unplaced for 10 ms is declared unreachable. -/
  | pairUnreachable (iod dst : Nat)
  /-- HASH (R284): A member's step hash reaches rank 0, which decides GO or ABORT once all arrive. -/
  | collHash (iod : Nat) (p : Pkt)
  /-- GO (R284): Rank 0's GO lets members send data. -/
  | collGo (iod : Nat) (p : Pkt)
  /-- DATA (R289): One slice of a contribution reaches its owner's reduction engine. -/
  | collData (iod : Nat) (p : Pkt)
  /-- RESULT (R287): A slice of output is checked and placed in the receiver's output range. -/
  | collResult (iod : Nat) (p : Pkt)
  /-- RESEND (R294): An owner asks members to send a chunk again in a new pass. -/
  | resend (iod : Nat) (p : Pkt)
  /-- PULL (R295): A zero-copy request is answered with a DATA slice. -/
  | pull (iod : Nat) (p : Pkt)
  /-- DONE (R284): A member's DONE reaches rank 0, which sends FINISH when all are done. -/
  | done_ (iod : Nat) (p : Pkt)
  /-- FINISH (R284): FINISH brings a member's step to COMPLETE. -/
  | finish (iod : Nat) (p : Pkt)
  /-- COLL_ABORT (R298): A collective ABORT fails the step at the receiving member. -/
  | collAbort (iod : Nat) (p : Pkt)
  /-- CHUNK_COMPLETE (R294): A reduced chunk passes or fails its residue checks. -/
  | chunkComplete (ctx step chunk : Nat) (residueOk : Bool) (corrected : Nat)
  /-- COLL_STEP_TIMEOUT (R286): A step in HASH or RUN exceeds its timeout and fails. -/
  | collStepTimeout (ctx step : Nat)
  /-- HOST_LINK_UP (R481): A CXL host link becomes active. -/
  | hostLinkUp (link width rate : Nat) (ide : Bool)
  /-- HOST_LINK_DOWN (R307): A host link leaves its active state, ending its sessions and queues. -/
  | hostLinkDown (link : Nat)
  /-- PERST (R495): A PERST pin held low takes its host link down and holds it in Detect. -/
  | perst (link : Nat)
  /-- CONFIG_REQUEST (R489): A CXL configuration request to a function is answered by its state. -/
  | configRequest (link fn : Nat) (flr : Bool)
  /-- SQ_TAIL_DOORBELL (R319): A submission tail write passes descriptors to the module. -/
  | sqTailDoorbell (fn queue value : Nat)
  /-- CQ_HEAD_DOORBELL (R319): A completion head write frees completion entries. -/
  | cqHeadDoorbell (fn queue value : Nat)
  /-- COMMAND_FETCH (R322): A descriptor is fetched by weighted round robin within the in-flight limit. -/
  | commandFetch (fn queue : Nat) (desc : List Byte)
  /-- COMMAND_TIMEOUT (R324): A command exceeds its timeout and completes with TIMEOUT. -/
  | commandTimeout (c : CmdRef)
  /-- REPLAY_WINDOW_END (R420): A suspect not cleared within its window is convicted. -/
  | replayWindowEnd
  /-- SESSION_NONCE (R315): Write a fresh session nonce to host memory. -/
  | sessionNonce (c : CmdRef) (nonce : List Byte)
  /-- SESSION_OPEN (R315): Open a session on a tag computed from the nonce and key. -/
  | sessionOpen (c : CmdRef)
  /-- SESSION_CLOSE (R317): End the session. -/
  | sessionClose (c : CmdRef)
  /-- QUEUE_CREATE (R318): Create a command queue. -/
  | queueCreate (c : CmdRef)
  /-- QUEUE_DELETE (R326): Delete a queue once its commands complete. -/
  | queueDelete (c : CmdRef)
  /-- BUF_REGISTER (R326): Register a host buffer. -/
  | bufRegister (c : CmdRef)
  /-- BUF_UNREGISTER (R326): Unregister a host buffer. -/
  | bufUnregister (c : CmdRef)
  /-- ABORT (R328): Abort a command in flight by a single completion transition. -/
  | abortCmd (c : CmdRef)
  /-- CTX_CREATE (R330): Create a context with a new handle. -/
  | ctxCreate (c : CmdRef)
  /-- REAM_LOAD (R507): Read and check a ream and its collective table. -/
  | reamLoad (c : CmdRef)
  /-- CTX_START (R177): Start or resume a context, binding tiles for the next freeze. -/
  | ctxStart (c : CmdRef)
  /-- CTX_STOP (R330): Stop a context, optionally releasing its tiles. -/
  | ctxStop (c : CmdRef)
  /-- CTX_STATUS (R326): Return and optionally clear a context's status and flags. -/
  | ctxStatus (c : CmdRef)
  /-- CTX_WAIT (R508): Complete when the context leaves RUNNING. -/
  | ctxWait (c : CmdRef)
  /-- CTX_TEARDOWN (R331): Fence, drain and revoke a context. -/
  | ctxTeardown (c : CmdRef)
  /-- TEARDOWN_DRAIN_LIMIT (R331): Remote writes not sent by drain_ms are discarded. -/
  | teardownDrainLimit (ctx : Nat)
  /-- TEARDOWN_COMPLETE (R331): A teardown's outstanding count reaches zero and it completes. -/
  | teardownComplete (ctx : Nat)
  /-- TEARDOWN_ESCALATE (R331): A teardown not complete by teardown_ms escalates. -/
  | teardownEscalate (ctx : Nat)
  /-- COLL_GROUP (R274): Register a collective group on a context. -/
  | collGroup (c : CmdRef)
  /-- CHEST_CREATE (R160): Create chest block descriptors. -/
  | chestCreate (c : CmdRef)
  /-- CHEST_FREE (R160): Free chest blocks. -/
  | chestFree (c : CmdRef)
  /-- CHEST_REENCODE (R160): Re-encode chest blocks. -/
  | chestReencode (c : CmdRef)
  /-- CHEST_READ_DESC (R160): Write block descriptors to host memory. -/
  | chestReadDesc (c : CmdRef)
  /-- CHEST_EXPORT (R160): Export blocks and descriptors. -/
  | chestExport (c : CmdRef)
  /-- CHEST_IMPORT (R160): Import blocks from an export. -/
  | chestImport (c : CmdRef) (source : List Byte) (sameVersion : Bool)
  /-- CHEST_ADOPT (R160): Move an orphaned chest to a new context. -/
  | chestAdopt (c : CmdRef)
  /-- HEADBOX_PIN (R186): Move blocks to a tier and pin them. -/
  | headboxPin (c : CmdRef)
  /-- HEADBOX_UNPIN (R186): Clear pins on blocks. -/
  | headboxUnpin (c : CmdRef)
  /-- HEADBOX_MOVE (R186): Move blocks to a tier in manual mode. -/
  | headboxMove (c : CmdRef)
  /-- HEADBOX_TIER (R186): Register T2 and T3 space. -/
  | headboxTier (c : CmdRef)
  /-- HEADBOX_LEND (R186): Lend arena space as T2 to a borrower. -/
  | headboxLend (c : CmdRef)
  /-- HEADBOX_REPLAY (R191): Start the next ream in journal replay. -/
  | headboxReplay (c : CmdRef)
  /-- STOR_QP_CREATE (R326): Create a RoCEv2 queue pair. -/
  | storQpCreate (c : CmdRef)
  /-- STOR_QP_MODIFY (R326): Modify a queue pair. -/
  | storQpModify (c : CmdRef)
  /-- STOR_QP_DESTROY (R326): Destroy a queue pair. -/
  | storQpDestroy (c : CmdRef)
  /-- STOR_POST (R326): Post a storage work request. -/
  | storPost (c : CmdRef) (source : List Byte)
  /-- DECKLE_CREATE (R312): Create and zero a deckle. -/
  | deckleCreate (c : CmdRef)
  /-- DECKLE_DESTROY (R314): Destroy a deckle and return its resources. -/
  | deckleDestroy (c : CmdRef)
  /-- PROFILE_SELECT (R469): Select a profile by command. -/
  | profileSelect (c : CmdRef)
  /-- REGISTER_WRITE (R348): A write to a register field with no behaviour of its own. -/
  | registerWrite (view off bytes : Nat) (data : Word)
  /-- SPLIT_LOW_READ (R349): A 4-byte low-half read latches the high half. -/
  | splitLowRead (view off bytes : Nat)
  /-- SPLIT_HIGH_READ (R349): A 4-byte high-half read returns and empties the latch. -/
  | splitHighRead (view off bytes : Nat)
  /-- SPLIT_LOW_WRITE (R349): A 4-byte low-half write is held for the high half. -/
  | splitLowWrite (view off : Nat) (data : BitVec 32)
  /-- SPLIT_HIGH_WRITE (R349): A 4-byte high-half write applies with any held low half. -/
  | splitHighWrite (view off : Nat) (data : BitVec 32)
  /-- CTRL_WRITE (R344): A write of CTRL or EVENT_EN may deliver an interrupt and sets counter freeze. -/
  | ctrlWrite (view off bytes : Nat) (data : Word)
  /-- FLOG_IDX_WRITE (R355): Copy a fault record into the view's window. -/
  | flogIdxWrite (view off bytes : Nat) (data : Word)
  /-- BROKE_IDX_WRITE (R409): Copy a broke-map entry into the view's window. -/
  | brokeIdxWrite (view off bytes : Nat) (data : Word)
  /-- DUMP_DATA_READ (R428): Read a dump word and advance the index. -/
  | dumpDataRead (view off bytes : Nat)
  /-- DUMP_VALID_CLEAR (R422): Free the dump buffer. -/
  | dumpValidClear (view off bytes : Nat) (data : Word)
  /-- RPT_DATA_READ (R476): Read an attestation report word and advance the index. -/
  | rptDataRead (view off bytes : Nat)
  /-- MEAS_IDX_WRITE (R476): Copy a measurement into the view's data registers. -/
  | measIdxWrite (view off bytes : Nat) (data : Word)
  /-- CALENDER_PEAK_READ (R401): Read and clear the peak power bucket. -/
  | calenderPeakRead (view off bytes : Nat) (same : Bool)
  /-- CXLP_AQ_WRITE (R488): Set the module admin queue of the arriving link without a session. -/
  | cxlpAqWrite (view off bytes : Nat) (data : Word)
  /-- DECKLE_AQ_WRITE (R488): Set a deckle's admin queue without a session. -/
  | deckleAqWrite (view off bytes : Nat) (data : Word)
  /-- DECKLE_AQ_RESET (R319): Empty and restart queue 0. -/
  | deckleAqReset (view off bytes : Nat) (data : Word)
  /-- HEADBOX_JRNL_BASE_WRITE (R190): Place the journal ring, refused if misplaced. -/
  | headboxJrnlBaseWrite (view off bytes : Nat) (data : Word)
  /-- HEADBOX_JRNL_CFG_WRITE (R190): Size the journal ring and reset its head. -/
  | headboxJrnlCfgWrite (view off bytes : Nat) (data : Word)
  /-- PORT_RETRAIN (R236): Send a port to DETECT, optionally bringing back retired lanes. -/
  | portRetrain (view off bytes : Nat) (data : Word)
  /-- PORT_ENABLE_WRITE (R241): Enable a port or send it to OFF at once. -/
  | portEnableWrite (view off bytes : Nat) (data : Word)
  /-- MDIO_READ (R241): Read a Clause 45 register. -/
  | mdioRead (view off bytes : Nat) (data : Word)
  /-- MDIO_WRITE (R241): Write a Clause 45 register. -/
  | mdioWrite (view off bytes : Nat) (data : Word)
  /-- MDIO_ADDRESS (R241): Set the register address within the MMD. -/
  | mdioAddress (view off bytes : Nat) (data : Word)
  /-- CLKCTL_SRC_WRITE (R363): Switch a domain's clock source to a ready root. -/
  | clkctlSrcWrite (view off bytes : Nat) (data : Word)
  /-- CLKCTL_EN_WRITE (R373): Enable or gate a block's clock, refused while in use. -/
  | clkctlEnWrite (view off bytes : Nat) (data : Word)
  /-- CALENDER_DLIM_WRITE (R390): Set a deckle's power limit. -/
  | calenderDlimWrite (view off bytes : Nat) (data : Word)
  /-- TILE_FENCE_REQUEST (R411): Software fences a tile. -/
  | tileFenceRequest (view off bytes : Nat) (data : Word)
  /-- TILE_RETURN (R411): Software returns a fenced tile through self-test. -/
  | tileReturn (view off bytes : Nat) (data : Word)
  /-- TILE_SELF_TEST_DONE (R411): A returned tile passes to IDLE or fails to RETIRED. -/
  | tileSelfTestDone (tile : Nat) (pass : Bool)
  /-- CD_RESET (R412): Software requests a compute-domain reset. -/
  | cdReset (view off bytes : Nat) (data : Word)
  /-- PKG_RECOVERY (R412): Software requests package recovery. -/
  | pkgRecovery (view off bytes : Nat) (data : Word)
  /-- DUMP (R422): Software requests a crash dump. -/
  | dumpRequest (view off bytes : Nat) (data : Word)
  /-- COMPUTE_DOMAIN_RESET (R415): A fault starts a compute-domain reset and fences the domain. -/
  | computeDomainReset (cause status : Nat)
  /-- PACKAGE_RECOVERY (R416): A fault or return event starts package recovery. -/
  | packageRecovery (cause status : Nat)
  /-- DRAIN_LIMIT (R417): Outstanding requests at a fenced edge are answered at the drain limit. -/
  | drainLimit (requests : Nat)
  /-- DUMP_DONE (R422): The crash dump is written and valid set. `unreachable` lists (kind, subject, stop) of the sections
an access of which was not answered. -/
  | dumpDone (unreachable : List (Nat × Nat × Nat))
  /-- CD_RESET_READY (R415): A compute-domain reset reaches READY. -/
  | cdResetReady (ms : Nat)
  /-- PKG_RECOVERY_READY (R416): Package recovery reaches READY. -/
  | pkgRecoveryReady (ms : Nat)
  /-- CD_RESET_ESCALATE (R412): A compute-domain reset not READY in 40 ms escalates. -/
  | cdResetEscalate
  /-- PKG_RECOVERY_TIMEOUT (R412): Package recovery not READY in 6 s puts the module in FAILED. -/
  | pkgRecoveryTimeout
  /-- BROKE_MAP_PERSIST (R407): The broke map is written to the stored image after a change. -/
  | brokeMapPersist
  /-- REFCLK_LOSS (R357): REFCLK is declared lost and domains are fenced. -/
  | refclkLoss
  /-- REFCLK_RETURN (R359): REFCLK present 10 ms with a ready root starts package recovery. -/
  | refclkReturn
  /-- ROOT_LOCK (R358): A root PLL achieves lock. -/
  | rootLock (root : Nat)
  /-- ROOT_READY (R358): A root held in lock for 100 µs becomes ready. -/
  | rootReady (root : Nat)
  /-- ROOT_LOCK_LOSS (R364): A root loses lock and its domains switch or stop. -/
  | rootLockLoss (root : Nat)
  /-- DROOP_TRIGGER (R368): A droop detector slows its die's TILE divisor. -/
  | droopTrigger (die rail : Nat)
  /-- DROOP_END (R370): A droop response ends after 256 cycles and the divider restarts aligned. -/
  | droopEnd (die : Nat)
  /-- ENERGY_BUCKET_CLOSE (R380): A 1 ms energy bucket closes and the window credit updates. -/
  | energyBucketClose (mj : Nat)
  /-- CALENDER_DECISION (R385): The calender learns phases and chooses the next operating point in the closing span. -/
  | calenderDecision (beatW : Nat) (pred : List PointPower) (stalls : List PhaseStall) (loads : List LoadPower) (meters : List Nat)
  /-- TEMP_SAMPLE (R393): All temperature sensors are sampled and spots computed. -/
  | tempSample (readings : List TempReading) (power : List (Nat × Nat))
  /-- THERMTRIP_RELEASE (R397): All spots below throttle for 10 s start package recovery and release the pin. -/
  | thermtripRelease
  /-- LEAK_SAMPLE (R399): The leak loop is measured and its state changed after 3 readings. -/
  | leakSample (ohms : Nat)
  /-- SLACK_REPORT (R391): The slack interval closes and a power report is sent. -/
  | slackReport
  /-- STATE_COPY (R433): The standby applies and acknowledges a state copy. -/
  | stateCopy (beat : Word) (crcOk : Bool)
  /-- COPY_FAILURE (R434): A missing acknowledgement or bad copy sends the standby to SYNC. -/
  | copyFailure
  /-- SYNC_COMPLETE (R434): The standby finishes its full copy and re-enters STANDBY. -/
  | syncComplete
  /-- PIN_PATH_SILENT (R435): No reported toggle of a unit's pin for 32 bt marks its pin path silent. -/
  | pinPathSilent (unit : Nat)
  /-- ISLAND_RESET (R440): 64 bt after a takeover the silent unit's island is reset. -/
  | islandReset (unit : Nat)
  /-- UNIT_BOOT_DONE (R466): A control unit ends BOOT with firmware verified. -/
  | unitBootDone (unit : Nat) (b : BootResult)
  /-- BOOT_TIMEOUT (R440): A unit not through BOOT within 1.5 s fails. -/
  | bootTimeout (unit : Nat)
  /-- MGT_SESSION_NONCE (R445): Duntus request for a session nonce. -/
  | mgtSessionNonce (h : DHdr) (nonce : List Byte)
  /-- MGT_SESSION_OPEN (R445): Duntus management session opening. -/
  | mgtSessionOpen (h : DHdr) (tag : List Byte)
  /-- MGT_SESSION_CLOSE (R445): Duntus management session close. -/
  | mgtSessionClose (h : DHdr)
  /-- STATUS_GET (R445): Duntus status query. -/
  | statusGet (h : DHdr)
  /-- LIVENESS (R435): Duntus report of heartbeat pin toggles. -/
  | liveness (h : DHdr) (hba hbb : Bool)
  /-- REG_READ (R445): Duntus register read. -/
  | regRead (h : DHdr) (off bytes : Nat)
  /-- REG_WRITE (R445): Duntus register write. -/
  | regWrite (h : DHdr) (off bytes : Nat) (data : Word)
  /-- CAP_SET (R448): Duntus delivery or clearing of the rack cap. -/
  | capSet (h : DHdr) (capW : Nat) (clear : Bool)
  /-- POWER_REPORT_GET (R445): Duntus power report query. -/
  | powerReportGet (h : DHdr)
  /-- POWEROFF_NOTICE (R450): Duntus power-off notice starting the grace period. -/
  | poweroffNotice (h : DHdr)
  /-- POWEROFF_GRACE_END (R450): The grace period ends and POWEROFF_READY is sent. -/
  | poweroffGraceEnd
  /-- PLAN_DELIVER (R445): Duntus delivery of a job plan segment. -/
  | planDeliver (h : DHdr) (offset total len : Nat) (last : Bool) (plan : Plan)
  /-- PLAN_WITHDRAW (R445): Duntus withdrawal of the job plan. -/
  | planWithdraw (h : DHdr) (planSeq : Nat)
  /-- RESET_REQ (R445): Duntus request for a reset tier. -/
  | resetReq (h : DHdr) (kind : Nat)
  /-- DUMP_REQ (R422): Duntus request for a crash dump. -/
  | dumpReq (h : DHdr)
  /-- DUMP_READ (R445): Duntus read of the dump buffer. -/
  | dumpRead (h : DHdr) (word len : Nat)
  /-- SET_ENDPOINT_ID (R444): MCTP control message assigning the endpoint ID. -/
  | setEndpointId (eid src : Nat)
  /-- GET_ENDPOINT_ID (R442): MCTP control message reading the endpoint ID. -/
  | getEndpointId
  /-- GET_MCTP_VERSION_SUPPORT (R442): MCTP version support query. -/
  | getMctpVersionSupport
  /-- GET_MESSAGE_TYPE_SUPPORT (R442): MCTP message type support query. -/
  | getMessageTypeSupport
  /-- GET_VENDOR_MESSAGE_SUPPORT (R442): MCTP vendor defined message support query. -/
  | getVendorMessageSupport
  /-- ENEC (R442): I3C enable events command. -/
  | enec (events : Byte)
  /-- DISEC (R442): I3C disable events command. -/
  | disec (events : Byte)
  /-- RSTDAA (R442): I3C reset dynamic address command. -/
  | rstdaa
  /-- ENTDAA (R442): I3C dynamic address assignment. -/
  | entdaa (addr : Nat)
  /-- SETMWL (R442): I3C set maximum write length. -/
  | setmwl (len : Nat)
  /-- SETMRL (R442): I3C set maximum read length. -/
  | setmrl (len : Nat)
  /-- GETPID (R442): I3C get provisioned ID. -/
  | getpid
  /-- GETBCR (R442): I3C get bus characteristics. -/
  | getbcr
  /-- GETDCR (R442): I3C get device characteristics. -/
  | getdcr
  /-- GETSTATUS (R442): I3C get status. -/
  | getstatus
  /-- GETMWL (R442): I3C get maximum write length. -/
  | getmwl
  /-- GETMRL (R442): I3C get maximum read length. -/
  | getmrl
  /-- POWER_ON (R479): STBY_EN asserts and bring-up begins. -/
  | powerOn (sel1 sel0 : Bool)
  /-- RAIL_ASSERT (R446): A requested rail is sensed high in order. -/
  | railAssert (rail : Nat)
  /-- RAIL_REQ_RETRY (R480): A rail not asserted within 1 s is requested again. -/
  | railReqRetry
  /-- RAIL_LOSS (R447): A rail falls out of order with standby present. -/
  | railLoss (rail : Nat)
  /-- PRSNT_REMOVAL (R494): PRSNT_N goes high and all rails are removed together. -/
  | prsntRemoval
  /-- INPUT_FAULT (R499): A 54 V input fault opens the input switch. -/
  | inputFault
  /-- OVERCURRENT (R500): Input current above 80 A for 2 µs forces droop on every die. -/
  | overcurrent
  /-- COMPUTE_DIE_TEST_DONE (R485): The compute-die test ends, passing, retiring tiles, repeating or failing. -/
  | computeDieTestDone (badTiles : List Nat) (unitOk ioOk : Bool)
  /-- BRINGUP_READY (R482): All bring-up conditions hold and the module enters READY. -/
  | bringupReady (ms : Nat)
  /-- HOST_LINK_WINDOW_END (R481): A host link's 1 s training window ends. -/
  | hostLinkWindowEnd (link : Nat)
  /-- BRINGUP_WATCHDOG (R483): Not READY 7,500 ms after IO_EN puts the module in FAILED. -/
  | bringupWatchdog
  /-- ERASE (R476): NVM erase of a 64 KiB block. -/
  | nvmErase (view off bytes : Nat) (data : Word)
  /-- PROGRAM (R476): NVM program from the window. -/
  | nvmProgram (view off bytes : Nat) (data : Word)
  /-- READ (R476): NVM read into the window. -/
  | nvmRead (view off bytes : Nat) (data : Word)
  /-- BEGIN (R471): Begin a FIRMWARE activity. -/
  | nvmBegin (view off bytes : Nat) (data : Word)
  /-- VERIFY (R465): Verify a firmware region. -/
  | nvmVerify (view off bytes : Nat) (data : Word)
  /-- SWITCH (R471): Boot the standby onto the new firmware. -/
  | nvmSwitch (view off bytes : Nat) (data : Word)
  /-- NEXT_BOOT (R472): Point the next power-on at the verified region. -/
  | nextBoot (view off bytes : Nat) (data : Word)
  /-- NVM_END (R476): End the FIRMWARE activity. -/
  | nvmEnd (view off bytes : Nat) (data : Word)
  /-- CFG_COMMIT (R470): Commit the inactive configuration slot. -/
  | cfgCommit (view off bytes : Nat) (data : Word)
  /-- KEY_LOAD (R463): Load or clear a session key. -/
  | keyLoad (view off bytes : Nat) (data : Word)
  /-- ENROL (R462): Enrol the owner keys. -/
  | enrol (view off bytes : Nat) (data : Word)
  /-- RELEASE (R463): Return the module to transport state. -/
  | nvmRelease (view off bytes : Nat) (data : Word)
  /-- ATTEST (R474): Build a signed attestation report. -/
  | attest (view off bytes : Nat) (data : Word)
  /-- NVM_OP_DONE (R476): An NVM operation finishes and busy clears with its result. -/
  | nvmOpDone (fail : Bool)
  /-- UPDATE_SECOND_UNIT (R471): 64 bt after the update handover the other unit enters UPDATING. -/
  | updateSecondUnit
  /-- UPDATE_ABANDON (R472): The first unit not in STANDBY within 3 s abandons the update. -/
  | updateAbandon
  /-- NVM_PROFILE_SEL_WRITE (R469): Select a profile by register write. -/
  | nvmProfileSelWrite (view off bytes : Nat) (data : Word)
  /-- RESERVED_OPCODE (R87): The sequencer reaches an instruction with a reserved opcode, or runs on past its last instruction, and faults the context with INVALID. -/
  | reservedOpcode (tile : Nat)
  /-- LANE_RELOCK (R234): A lane that lost lock regains it, ending the port's pause or letting a port in RETRAIN return to ACTIVE or to the full check. -/
  | laneRelock (port lane : Nat)
  /-- SUMMARY_REBUILD_DONE (R164): A base die finishes rebuilding a damaged key-value summary from block data, clearing SCREEN_STATE.rebuilding and counting SCREEN_REBUILD_CNT. -/
  | summaryRebuildDone (ctx block : Nat)
  /-- CLOCK_ENABLE_DONE (R372): A block whose clock enable was written starts or stops its clock, setting or clearing STATUS.ready within 10 µs. -/
  | clockEnableDone (page : Nat)
  /-- DECKLE_ZEROING_DONE (R312): Zeroing of a deckle's HBM entries and tile scratchpads ends, DECKLE_STATE leaves ZEROING and DECKLE_CREATE completes. -/
  | deckleZeroingDone (deckle : Nat)
  /-- RAIL_REMOVAL (R446): The board controller removes IO_EN, CORE_EN, MEM_EN and STBY_EN in the order of R446, sending ports to OFF and ending with power-off. -/
  | railRemoval (rail : Nat)
  /-- PERST_RELEASE (R495): A PERSTh_N pin is released and host link h leaves Detect to train. -/
  | perstRelease (link : Nat)
  /-- MALFORMED_DUNTUS_MESSAGE (R443): A Duntus message with a reserved code or field, a len that disagrees with its body, or a repeated seq is answered with INVALID or discarded, and counted in MGT_MSG_ERR_CNT. -/
  | malformedDuntusMessage (h : DHdr) (bodyLen : Nat)
  /-- S7_FRAME (R239): A frame of the S7 network named by s7_net is received on a port in S7 compatibility mode. -/
  | s7Frame (port net : Nat) (frame : List Byte)
  /-- REGISTER_READ_REFUSED (R345): A host register read that is misaligned, or that targets a gated page or a fenced domain's page, is answered with a completer abort and writes a fault record. -/
  | registerReadRefused (view off bytes : Nat)
deriving DecidableEq, Repr

end Sys2Proof
end

