-- ==== Sys2Proof/Config.lean ====
section
/-! DEFINITION. The free values of the model: what the spec leaves open, and the cryptographic primitives it names
but does not define. Every constant here is opaque: no proof can see a value of it (log 10, log 14). -/

namespace Sys2Proof.Config

/-- SHAKE256 of a byte string with an output length in bytes (R466, R474), as an uninterpreted function. -/
opaque shake256 : List Byte → Nat → List Byte
/-- KMAC256 of key, data, output length in bytes and a customisation number standing for the string (R315). -/
opaque kmac256 : List Byte → List Byte → Nat → Nat → List Byte
/-- SLH-DSA verification: public key, message, signature (R229, R465). -/
opaque slhVerify : List Byte → List Byte → List Byte → Bool
/-- SLH-DSA signature: secret key, message (R229, R474). -/
opaque slhSign : List Byte → List Byte → List Byte
/-- ML-KEM decapsulation of a ciphertext by the module's key (R233). -/
opaque mlkemDecaps : List Byte → List Byte → List Byte
/-- ML-KEM encapsulation to a partner's key with a fresh seed: ciphertext and shared secret (R233). -/
opaque mlkemEncaps : List Byte → Nat → List Byte × List Byte
/-- Tag of a sealed span: key, span number, bytes of the span (R233). -/
opaque sealTag : List Byte → Nat → List Byte → List Byte
/-- The module's serial (R228), from its watermark certificate. -/
opaque serial : Word
/-- The Kenkiys root public keys of the factory region, none where its digest is not the ROM's (R460). -/
opaque rootKey : Nat → Option (List Byte)
/-- The module's watermark certificate and its secret key (R459, R460). -/
opaque certificate : List Byte
opaque watermark : List Byte
/-- The transport key and the factory header (R462, R473). -/
opaque transportKey : List Byte
opaque factoryHeader : List Byte
/-- Bytes of the factory region of the NOR device (R456), by address, and the header of its recovery firmware (R466). -/
opaque factoryByte : Nat → Byte
opaque recoveryHeader : List Byte
/-- A byte of a sealed area of the NOR device (R457): address, and a count that tells one writing of it from another. -/
opaque sealedByte : Nat → Nat → Byte
/-- A byte of the control-unit section of a crash dump (R423, opaque by the spec): a count for the dump, the offset. -/
opaque controlByte : Nat → Nat → Byte
/-- A fresh ML-KEM-1024 key pair for each value of the counter: encapsulation key, decapsulation key (R229). -/
opaque mlkemKeys : Nat → List Byte × List Byte
/-- Factory calibration (R384): worst-case watts of one tile in a phase and idle watts of a die, in mW, by phase or
die and by divisor code. -/
opaque worstPower : Nat → Nat → Nat
opaque idlePower : Nat → Nat → Nat
/-- Factory watts of a stack or an I/O die per unit of load, in mW (R384): stack i as i, I/O die j as 12 + j. -/
opaque loadPower : Nat → Nat
/-- The Kenkiys IANA enterprise number (R453) and the provisioned ID of the I3C target (R442). -/
opaque iana : Nat
opaque provisionedId : Nat
/-- A fresh byte of the module's random source (R315, R459), one for each value of the counter. -/
opaque freshByte : Nat → Byte
/-- A value the spec leaves open, one for each value of the counter. -/
opaque freeWord : Nat → Word
/-- Which neighbour the engine gives where R77 allows an error of 1 or 2 ulp: operation code, in_fmt, operand bits. -/
opaque ulpChoice : Nat → Nat → Nat → Nat
/-- The FP32 bits of the mean of one element of a block's 64 keys, from their FP32 bits: R152 gives neither the order
of its additions nor their roundings. -/
opaque chestMean : List Nat → Nat
/-- FP32 bits of a result that a rule rounds toward +infinity throughout without fixing the steps (R152, R155): which
rule, and the FP32 bits of the operands. The model takes it where it is not below the exact result. -/
opaque roundedUp : Nat → List Nat → Nat
/-- The code of an element of a B4R group that holds NaN or infinity (R144 fixes only the scale), by element index. -/
opaque b4rNanCode : Nat → Nat

/-- The two MAC addresses of each storage port, in the factory region (R238). -/
opaque portMac : Nat → Nat → Nat

/-- Bytes that no rule gives: a count that tells one use from another, and the byte's place. -/
opaque openByte : Nat → Nat → Byte

/-- Where a block lies, in the descriptor's opaque loc field (R140): tier and wgen. -/
opaque blockLoc : Nat → Nat → Nat

end Sys2Proof.Config
end

