-- ==== Sys2Proof/Machine/Flags.lean ====
section
/-! DEFINITION. The arithmetic flag byte (R114) and values that carry the flags raised in making them. -/

namespace Sys2Proof.Machine

/-- The sheet flag byte (R114). -/
abbrev Flags := BitVec 8

def Flags.invalid : Flags := 0x01
def Flags.nanIn : Flags := 0x02
def Flags.overflow : Flags := 0x04
def Flags.underflow : Flags := 0x08
def Flags.intSat : Flags := 0x10
def Flags.scaleClamp : Flags := 0x20
def Flags.divZero : Flags := 0x40

/-- `f` when `c` holds, otherwise no flag. -/
def Flags.when (c : Bool) (f : Flags) : Flags := if c then f else 0

/-- A value together with the flags raised in making it. Flags are sticky: they are ORed (R114). -/
abbrev Flagged (α : Type) := α × Flags

def Flagged.map {α β : Type} (f : α → β) (x : Flagged α) : Flagged β := (f x.1, x.2)

def Flagged.bind {α β : Type} (x : Flagged α) (f : α → Flagged β) : Flagged β :=
  let y := f x.1
  (y.1, x.2 ||| y.2)

/-- All values of a list, with the flags of all of them. -/
def Flagged.all {α : Type} (l : List (Flagged α)) : Flagged (List α) :=
  (l.map Prod.fst, l.foldl (fun f x => f ||| x.2) 0)

end Sys2Proof.Machine
end

