-- ==== Sys2Proof/Machine/Numeric.lean ====
section
/-! DEFINITION. The number formats (R95, R96), rounding (R101, R102), conversion (R105-R107), exact arithmetic on
values (R97, R113) and the stochastic rounding generator (R103). -/

namespace Sys2Proof.Machine

/-- A value of any format: (-1)^neg * m * 2^e, an infinity, or NaN (R95-R97). -/
inductive Num
  | nan
  | inf (neg : Bool)
  | fin (neg : Bool) (m : Nat) (e : Int)
deriving DecidableEq, Repr

/-- Which special encodings a floating-point format has (R96). -/
inductive Specials
  | ieee
  | nanOnly
  | none
deriving DecidableEq, Repr

/-- The layout of an element (R95). MXINT8 is an integer scaled by 2^-6. -/
inductive Elem
  | float (eb mb bias : Nat) (sp : Specials)
  | int (w : Nat)
  | mxint
deriving DecidableEq, Repr

def Elem.fp32 : Elem := .float 8 23 127 .ieee
def Elem.bf16 : Elem := .float 8 7 127 .ieee
def Elem.fp16 : Elem := .float 5 10 15 .ieee
def Elem.e4m3 : Elem := .float 4 3 7 .nanOnly
def Elem.e5m2 : Elem := .float 5 2 15 .ieee
def Elem.e3m2 : Elem := .float 3 2 3 .none
def Elem.e2m3 : Elem := .float 2 3 1 .none
def Elem.e2m1 : Elem := .float 2 1 1 .none
def Elem.int8 : Elem := .int 8
def Elem.int32 : Elem := .int 32

/-- The format codes (R71). -/
def elemOf : Nat → Option Elem
  | 0x0 => some .fp32
  | 0x1 => some .bf16
  | 0x2 => some .fp16
  | 0x3 => some .e4m3
  | 0x4 => some .e5m2
  | 0x5 => some .int8
  | 0x6 => some .int32
  | 0x8 => some .e4m3
  | 0x9 => some .e5m2
  | 0xA => some .e3m2
  | 0xB => some .e2m3
  | 0xC => some .e2m1
  | 0xD => some .mxint
  | _ => none

/-- The MX formats among the codes of R71. -/
def isMx (fmt : Nat) : Bool := decide (0x8 ≤ fmt) && decide (fmt ≤ 0xD)

/-- The formats of R71 that are not MX. -/
def isPlain (fmt : Nat) : Bool := decide (fmt ≤ 0x6)

def Elem.width : Elem → Nat
  | .float eb mb _ _ => 1 + eb + mb
  | .int w => w
  | .mxint => 8

/-- The value of `w` low bits of `b` in two's complement. -/
def toSigned (w b : Nat) : Int :=
  if b % 2 ^ w < 2 ^ (w - 1) then Int.ofNat (b % 2 ^ w) else Int.ofNat (b % 2 ^ w) - Int.ofNat (2 ^ w)

/-- `w` bits holding `i` in two's complement. -/
def ofSigned (w : Nat) (i : Int) : Nat := (i % Int.ofNat (2 ^ w)).toNat

/-- The value an element's bits stand for (R95, R96). -/
def Elem.decode : Elem → Nat → Num
  | .int w, b => let i := toSigned w b; .fin (decide (i < 0)) i.natAbs 0
  | .mxint, b => let i := toSigned 8 b; .fin (decide (i < 0)) i.natAbs (-6)
  | .float eb mb bias sp, b =>
    let neg := b.testBit (eb + mb)
    let ex := b / 2 ^ mb % 2 ^ eb
    let man := b % 2 ^ mb
    if ex == 0 then .fin neg man (1 - Int.ofNat bias - Int.ofNat mb)
    else if sp == .ieee && ex == 2 ^ eb - 1 then (if man == 0 then .inf neg else .nan)
    else if sp == .nanOnly && ex == 2 ^ eb - 1 && man == 2 ^ mb - 1 then .nan
    else .fin neg (2 ^ mb + man) (Int.ofNat ex - Int.ofNat bias - Int.ofNat mb)

/-- m1 * 2^e1 > m2 * 2^e2. -/
def magGt (m1 : Nat) (e1 : Int) (m2 : Nat) (e2 : Int) : Bool :=
  let lo := min e1 e2
  decide (m1 * 2 ^ (e1 - lo).toNat > m2 * 2 ^ (e2 - lo).toNat)

/-- The largest finite magnitude (R96), for the sign. -/
def Elem.maxMag : Elem → Bool → Nat × Int
  | .int w, neg => (if neg then 2 ^ (w - 1) else 2 ^ (w - 1) - 1, 0)
  | .mxint, _ => (127, -6)
  | .float eb mb bias .ieee, _ => (2 ^ (mb + 1) - 1, Int.ofNat (2 ^ eb - 2) - Int.ofNat bias - Int.ofNat mb)
  | .float eb mb bias .nanOnly, _ => (2 ^ (mb + 1) - 2, Int.ofNat (2 ^ eb - 1) - Int.ofNat bias - Int.ofNat mb)
  | .float eb mb bias .none, _ => (2 ^ (mb + 1) - 1, Int.ofNat (2 ^ eb - 1) - Int.ofNat bias - Int.ofNat mb)

/-- The exponent of the last place of a magnitude rounded toward zero into the format (R102's ulp). At or beyond 2^(emax + 1) it goes on
as if the exponent had no limit (DESIGN CHOICE, log 103). -/
def Elem.quantum (el : Elem) (m : Nat) (e : Int) : Int :=
  match el with
  | .int _ => 0
  | .mxint => -6
  | .float _ mb bias _ => max (1 - Int.ofNat bias - Int.ofNat mb) (Int.ofNat m.log2 + e - Int.ofNat mb)

/-- A magnitude rounded to a multiple of 2^q: the multiple, whether it moved away from zero, and whether it is
inexact. Modes as in the rnd fields: 0 nearest even, 1 toward zero, 2 stochastic with a 16-bit draw (R101, R102). -/
def roundMag (mode draw m : Nat) (e q : Int) : Nat × Bool × Bool :=
  if q ≤ e then (m * 2 ^ (e - q).toNat, false, false)
  else
    let d := (q - e).toNat
    let lo := m / 2 ^ d
    let rem := m % 2 ^ d
    let up := match mode with
      | 0 => decide (2 * rem > 2 ^ d) || (decide (2 * rem = 2 ^ d) && lo % 2 == 1)
      | 2 => decide (65536 ≤ 65536 * rem / 2 ^ d + draw)
      | _ => false
    (if up then lo + 1 else lo, up, rem != 0)

/-- A value rounded into a format that is not an MX element (R101, R102, R105, R106), with its flags. nan_in is
raised where a NaN operand is read, not here. -/
def Elem.convert (el : Elem) (mode draw : Nat) : Num → Flagged Num
  | .nan =>
    match el with
    | .float .. => (.nan, 0)
    | _ => (.fin false 0 0, Flags.invalid)
  | .inf neg =>
    match el with
    | .float _ _ _ .ieee => (.inf neg, 0)
    | .float _ _ _ .nanOnly => (.nan, Flags.invalid)
    | _ => let t := el.maxMag neg; (.fin neg t.1 t.2, Flags.invalid)
  | .fin neg m e =>
    let isInt := match el with | .float .. => false | _ => true
    if m == 0 then (.fin (neg && !isInt) 0 0, 0)
    else
      let q := el.quantum m e
      let r := roundMag mode draw m e q
      let top := el.maxMag neg
      if magGt r.1 q top.1 top.2 then
        match el with
        | .float _ _ _ sp =>
          -- FP32, BF16 and FP16 overflow to infinity; the FP8 formats saturate (R105)
          if sp == .ieee && !(el == .e5m2) && (mode == 0 || (mode == 2 && r.2.1)) then (.inf neg, Flags.overflow)
          else (.fin neg top.1 top.2, Flags.overflow)
        | _ => (.fin neg top.1 top.2, Flags.intSat)
      else
        let small := match el with
          | .float _ _ bias _ => r.2.2 && magGt 1 (1 - Int.ofNat bias) r.1 q
          | _ => false
        (.fin (neg && !(isInt && r.1 == 0)) r.1 q, Flags.when (r.1 == 0 || small) Flags.underflow)

/-- The bits of a value that the format holds; NaN as R97 writes it. -/
def Elem.encode (el : Elem) (x : Num) : Nat :=
  match el with
  | .int w =>
    match x with
    | .fin neg m e => ofSigned w ((if neg then -1 else 1) * Int.ofNat (m * 2 ^ e.toNat))
    | _ => 0
  | .mxint =>
    match x with
    | .fin neg m e => ofSigned 8 ((if neg then -1 else 1) * Int.ofNat (m * 2 ^ (e + 6).toNat))
    | _ => 0
  | .float eb mb bias sp =>
    let sgn (n : Bool) : Nat := if n then 2 ^ (eb + mb) else 0
    match x with
    | .nan => if sp == .nanOnly then 2 ^ (eb + mb) - 1 else (2 ^ eb - 1) * 2 ^ mb + 2 ^ (mb - 1)
    | .inf n => sgn n + (2 ^ eb - 1) * 2 ^ mb
    | .fin n m e =>
      if m == 0 then sgn n
      else
        let q := el.quantum m e
        let r := if q ≤ e then m * 2 ^ (e - q).toNat else m / 2 ^ (q - e).toNat
        let emin := 1 - Int.ofNat bias - Int.ofNat mb
        if r < 2 ^ mb then sgn n + r
        else sgn n + ((q - emin).toNat + 1) * 2 ^ mb + (r - 2 ^ mb)

/-- A value converted to a format's bits. -/
def Elem.put (el : Elem) (mode draw : Nat) (x : Num) : Flagged Nat :=
  (el.convert mode draw x).map el.encode

/-- The exact sum; NaN and infinities under R97 and R113. -/
def Num.add : Num → Num → Flagged Num
  | .nan, _ => (.nan, 0)
  | _, .nan => (.nan, 0)
  | .inf a, .inf b => if a == b then (.inf a, 0) else (.nan, Flags.invalid)
  | .inf a, .fin .. => (.inf a, 0)
  | .fin .., .inf b => (.inf b, 0)
  | .fin n1 m1 e1, .fin n2 m2 e2 =>
    let lo := min e1 e2
    let a1 : Int := Int.ofNat (m1 * 2 ^ (e1 - lo).toNat)
    let a2 : Int := Int.ofNat (m2 * 2 ^ (e2 - lo).toNat)
    let s := (if n1 then -a1 else a1) + (if n2 then -a2 else a2)
    if s == 0 then (.fin (m1 == 0 && m2 == 0 && n1 && n2) 0 0, 0)
    else (.fin (decide (s < 0)) s.natAbs lo, 0)

/-- The exact product; zero times infinity is NaN (R97, R110, R113). -/
def Num.mul : Num → Num → Flagged Num
  | .nan, _ => (.nan, 0)
  | _, .nan => (.nan, 0)
  | .inf a, .inf b => (.inf (a != b), 0)
  | .inf a, .fin n m _ => if m == 0 then (.nan, Flags.invalid) else (.inf (a != n), 0)
  | .fin n m _, .inf b => if m == 0 then (.nan, Flags.invalid) else (.inf (n != b), 0)
  | .fin n1 m1 e1, .fin n2 m2 e2 => (.fin (n1 != n2) (m1 * m2) (e1 + e2), 0)

def Num.neg : Num → Num
  | .nan => .nan
  | .inf n => .inf (!n)
  | .fin n m e => .fin (!n) m e

def Num.abs : Num → Num
  | .nan => .nan
  | .inf _ => .inf false
  | .fin _ m e => .fin false m e

/-- x < y for values that are not NaN; zeros are equal. -/
def Num.lt : Num → Num → Bool
  | .nan, _ => false
  | _, .nan => false
  | .inf a, .inf b => a && !b
  | .inf a, .fin .. => a
  | .fin .., .inf b => !b
  | .fin n1 m1 e1, .fin n2 m2 e2 =>
    if m1 == 0 && m2 == 0 then false
    else if m1 == 0 then !n2
    else if m2 == 0 then n1
    else if n1 && !n2 then true
    else if !n1 && n2 then false
    else if n1 then magGt m1 e1 m2 e2 else magGt m2 e2 m1 e1

def Num.isZero : Num → Bool
  | .fin _ m _ => m == 0
  | _ => false

def Num.isNan (x : Num) : Bool := x == .nan

/-- Negative, -0 included. -/
def Num.isNeg : Num → Bool
  | .fin n _ _ => n
  | .inf n => n
  | .nan => false

/-- Maximum and minimum (R113): NaN wins, MAX(-0, +0) is +0 and MIN(-0, +0) is -0. -/
def Num.max (x y : Num) : Num :=
  if x.isNan || y.isNan then .nan
  else if x.isZero && y.isZero then (if x.isNeg then y else x)
  else if x.lt y then y else x

def Num.min (x y : Num) : Num :=
  if x.isNan || y.isNan then .nan
  else if x.isZero && y.isZero then (if x.isNeg then x else y)
  else if y.lt x then y else x

/-- floor(sqrt n), from 2^k bits down. -/
def sqrtBits : Nat → Nat → Nat → Nat
  | 0, _, acc => acc
  | k + 1, n, acc =>
    let t := acc + 2 ^ k
    sqrtBits k n (if t * t ≤ n then t else acc)

def natSqrt (n : Nat) : Nat := sqrtBits (n.log2 / 2 + 1) n 0

/-- A magnitude in [lo, lo + 1) * 2^q, given by lo and whether it is exact, as one of the values within 1 ulp of
it: which one is open (R77), so `pick` chooses. -/
def withinUlp (pick lo : Nat) (q : Int) (neg exact : Bool) : Num :=
  if exact then .fin neg (lo + pick % 3 - 1) q else .fin neg (lo + pick % 2) q

/-- num / den * 2^e to the precision of the compute format: lo, q and exactness. -/
def divFloor (el : Elem) (num den : Nat) (e : Int) : Nat × Int × Bool :=
  -- enough bits for the quotient to have more than the format's precision
  let sh := den.log2 + 40
  let n := num * 2 ^ sh
  let quo := n / den
  let q := el.quantum quo (e - Int.ofNat sh)
  let d := (q - (e - Int.ofNat sh)).toNat
  let lo := quo / 2 ^ d
  (lo, q, lo * 2 ^ d * den == n)

/-- The square root of m * 2^e to the precision of the compute format: lo, q and exactness. -/
def sqrtFloor (el : Elem) (m : Nat) (e : Int) : Nat × Int × Bool :=
  let odd := e % 2 == 1
  let m' := (if odd then 2 * m else m) * 2 ^ 120
  let e' := (if odd then e - 1 else e) - 120
  let r := natSqrt m'
  let q := el.quantum r (e' / 2)
  let d := (q - e' / 2).toNat
  let lo := r / 2 ^ d
  (lo, q, lo * 2 ^ d * (lo * 2 ^ d) == m')

/-- 1 / sqrt(m * 2^e) likewise: sqrt of 2^(2k) / m. -/
def rsqrtFloor (el : Elem) (m : Nat) (e : Int) : Nat × Int × Bool :=
  let odd := e % 2 == 1
  let m' := if odd then 2 * m else m
  let e' := if odd then e - 1 else e
  let k := m'.log2 + 120
  let k' := k + k % 2
  let r := natSqrt (2 ^ k' / m')
  let e2 : Int := -(e' / 2) - Int.ofNat (k' / 2)
  let q := el.quantum r e2
  let d := (q - e2).toNat
  let lo := r / 2 ^ d
  (lo, q, lo * 2 ^ d * (lo * 2 ^ d) * m' == 2 ^ k')

/-- A magnitude in [lo, lo + 1) * 2^q as one of the values within 2 ulp of it (R77); `pick` chooses. -/
def within2Ulp (pick lo : Nat) (q : Int) (neg exact : Bool) : Num :=
  if exact then .fin neg (lo + pick % 5 - 2) q else .fin neg (lo + pick % 4 - 1) q

/-- The product of 2^(2^-i) over the bits of a fraction of `n` bits, most significant first, with 128 fractional
bits: `root` is 2^(2^-i) for the bit at hand. -/
def expBits : Nat → Nat → Nat → Nat → Nat
  | 0, _, _, acc => acc
  | n + 1, frac, root, acc =>
    let acc := if frac.testBit n then acc * root / 2 ^ 128 else acc
    expBits n frac (natSqrt (root * 2 ^ 128)) acc

/-- 2^x for x = (-1)^neg * m * 2^e to the precision of the compute format: lo, q and exactness. A magnitude of 2048
or more is beyond every format either way and stands for all larger ones. -/
def exp2Floor (el : Elem) (neg : Bool) (m : Nat) (e : Int) : Nat × Int × Bool :=
  let big := magGt m e 2047 0
  let mag := if 0 ≤ e + 80 then m * 2 ^ (min (e + 80) 200).toNat else m / 2 ^ (-(e + 80)).toNat
  let rest := decide (e + 80 < 0) && mag * 2 ^ (-(e + 80)).toNat != m
  let x : Int :=
    if big then (if neg then -2048 else 2048) * 2 ^ 80
    else if neg then -Int.ofNat (if rest then mag + 1 else mag) else Int.ofNat mag
  let frac := (x % 2 ^ 80).toNat
  let p := expBits 80 frac (natSqrt (2 * 2 ^ 256)) (2 ^ 128)
  let ep := x / 2 ^ 80 - 128
  let q := el.quantum p ep
  let d := (q - ep).toNat
  let lo := p / 2 ^ d
  (lo, q, frac == 0 && !rest && !big && lo * 2 ^ d == p)

/-- Fraction bits of log2 y by repeated squaring, for y in [1, 2) with 200 fractional bits. -/
def logBits : Nat → Nat → Nat → Nat
  | 0, _, acc => acc
  | n + 1, y, acc =>
    let z := y * y / 2 ^ 200
    if 2 ^ 201 ≤ z then logBits n (z / 2) (2 * acc + 1) else logBits n z (2 * acc)

/-- log2 of m * 2^e, m > 0, to the precision of the compute format: sign, lo, q and exactness. -/
def log2Floor (el : Elem) (m : Nat) (e : Int) : Bool × Nat × Int × Bool :=
  let exact := m == 2 ^ m.log2
  let t : Int := (Int.ofNat m.log2 + e) * 2 ^ 70 + Int.ofNat (logBits 70 (m * 2 ^ 200 / 2 ^ m.log2) 0)
  let mag := if decide (t < 0) && !exact then t.natAbs - 1 else t.natAbs
  let q := if mag = 0 then el.quantum 0 (-1000) else el.quantum mag (-70)
  let d := (q + 70).toNat
  (decide (t < 0), mag / 2 ^ d, q, exact)

/-- The result picked near an exact one: underflow where it is below the normal numbers of the compute formats and
is not the exact result (R114). -/
def picked (x : Num) (lo : Nat) (exact : Bool) : Flagged Num :=
  match x with
  | .fin _ m e => (x, Flags.when (magGt 1 (-126) m e && !(exact && m == lo)) Flags.underflow)
  | _ => (x, 0)

/-- EXP2, LOG2, RECIP, RSQRT and SQRT in the compute format (R77, R113), by the operation's code. The operand
selects the open choice. A result beyond the range of the compute format keeps its exponent until it is written (DESIGN CHOICE,
log 103). -/
def transcend (op fmt bits : Nat) (x : Num) : Flagged Num :=
  let el := if fmt = 1 then Elem.bf16 else Elem.fp32
  let pick := Config.ulpChoice op fmt bits
  match op, x with
  | _, .nan => (.nan, 0)
  | 0x10, .inf n => if n then (.fin false 0 0, 0) else (.inf false, 0)
  | 0x10, .fin n m e =>
    let r := exp2Floor el n m e
    picked (within2Ulp pick r.1 r.2.1 false r.2.2) r.1 r.2.2
  | 0x11, .inf n => if n then (.nan, Flags.invalid) else (.inf false, 0)
  | 0x11, .fin n m e =>
    if m == 0 then (.inf true, Flags.divZero)
    else if n then (.nan, Flags.invalid)
    else
      let r := log2Floor el m e
      -- an exact result of 0 has no unit in the last place to be wrong by (DEDUCED, log 103)
      if r.2.1 == 0 && r.2.2.2 then (.fin false 0 0, 0)
      else picked (within2Ulp pick r.2.1 r.2.2.1 r.1 r.2.2.2) r.2.1 r.2.2.2
  | 0x12, .inf n => (.fin n 0 0, 0)
  | 0x12, .fin n m e =>
    if m == 0 then (.inf n, Flags.divZero)
    else let r := divFloor el 1 m (-e); picked (withinUlp pick r.1 r.2.1 n r.2.2) r.1 r.2.2
  | 0x13, .inf n => if n then (.nan, Flags.invalid) else (.fin false 0 0, 0)
  | 0x13, .fin n m e =>
    if m == 0 then (.inf n, Flags.divZero)
    else if n then (.nan, Flags.invalid)
    else let r := rsqrtFloor el m e; picked (withinUlp pick r.1 r.2.1 false r.2.2) r.1 r.2.2
  | _, .inf n => if n then (.nan, Flags.invalid) else (.inf false, 0)
  | _, .fin n m e =>
    if m == 0 then (.fin n 0 0, 0)
    else if n then (.nan, Flags.invalid)
    else let r := sqrtFloor el m e; picked (withinUlp pick r.1 r.2.1 false r.2.2) r.1 r.2.2

/-! The stochastic rounding generator (R103). -/

/-- A generator stream: its state and the draws left over. -/
structure Stream where
  s : Word
  left : List Nat
deriving DecidableEq, Repr

/-- The two streams of a sheet, matrix and vector, at its start (R103). -/
def seedStreams (seed : Word) (iteration : Nat) : Stream × Stream :=
  let mix : Word := BitVec.ofNat 64 iteration * 0x9E3779B97F4A7C15
  let sm := seed ^^^ mix
  let sv := sm ^^^ 0xD1B54A32D192ED03
  (⟨if sm = 0 then 1 else sm, []⟩, ⟨if sv = 0 then 1 else sv, []⟩)

/-- One step of the generator: the new state and the value it yields. -/
def rngNext (s : Word) : Word × Word :=
  let a := s ^^^ (s <<< 13)
  let b := a ^^^ (a >>> 7)
  let c := b ^^^ (b <<< 17)
  (c, c * 0x2545F4914F6CDD1D)

/-- The next 16-bit draw. -/
def Stream.draw (st : Stream) : Nat × Stream :=
  match st.left with
  | d :: r => (d, { st with left := r })
  | [] =>
    let p := rngNext st.s
    let v := p.2.toNat
    (v % 65536, ⟨p.1, [v / 65536 % 65536, v / 2 ^ 32 % 65536, v / 2 ^ 48]⟩)

/-- Values written in order to one format, drawing from the stream where the mode is stochastic and the conversion
is not from integer to integer (R104). -/
def putAll (el : Elem) (mode : Nat) (draws : Bool) : List Num → Stream → Flagged (List Nat) × Stream
  | [], st => (([], 0), st)
  | x :: r, st =>
    let p := if draws then st.draw else (0, st)
    let b := el.put (if mode == 2 && !draws then 0 else mode) p.1 x
    let t := putAll el mode draws r p.2
    ((b.1 :: t.1.1, b.2 ||| t.1.2), t.2)

end Sys2Proof.Machine
end

