-- ==== Sys2Proof/Machine/Regs.lean ====
section
/-! DEFINITION. The register map: page bases (R340), every register of the control space with its access
masks and reset value, its fields, its counters and its event bits, taken from the register tables of the
chapters (R24, R54, R55, R92, ...). A key of the register file is selector * 2^25 + page * 4096 + offset. -/

namespace Sys2Proof.Machine

/-- A field of a register: the first page of its block, its offset, its lowest bit and its width. -/
structure Fld where
  page : Nat
  off : Nat
  lo : Nat
  w : Nat
deriving DecidableEq, Repr

/-- A statistics counter (R55): the first page of its block and its offset. -/
structure Cnt where
  page : Nat
  off : Nat
deriving DecidableEq, Repr

/-- An event: the first page of its block and the bit of EVENT it sets. -/
structure Ev where
  page : Nat
  bit : Nat
deriving DecidableEq, Repr

/-- A register of the map. `n` pages carry it, from `page` on; `sel` says which copy a view reaches:
0 one copy, 1 one copy a view (R343), 2 one copy a deckle (R165, R195, R333), 3 one copy a host link (R336).
`rw` and `w1c` are the masks of its RW and W1C bits. -/
structure RegSpec where
  page : Nat
  n : Nat
  off : Nat
  bytes : Nat
  rw : Nat
  w1c : Nat
  sel : Nat
  reset : Nat
deriving DecidableEq, Repr

/-! First page of each block (R340). -/
def Page.MOD : Nat := 0x0
def Page.CLKCTL : Nat := 0x1
def Page.RSTCTL : Nat := 0x2
def Page.BEAT : Nat := 0x3
def Page.CALENDER : Nat := 0x4
def Page.MGT : Nat := 0x5
def Page.NVM : Nat := 0x6
def Page.CXLP : Nat := 0x7
def Page.DECKLE : Nat := 0x8
def Page.HEADBOX : Nat := 0x9
def Page.CHEST : Nat := 0xA
def Page.SCREEN : Nat := 0x10
def Page.HBMC : Nat := 0x20
def Page.TILE : Nat := 0x30
def Page.PORT : Nat := 0x60
def Page.ROUTE : Nat := 0x80
def Page.COLL : Nat := 0x88
def Page.SENS : Nat := 0x90

/-! Fields, by register name and field name. -/
def F.MOD_TOPO_cd_count : Fld := ⟨0x0, 0x80, 0, 4⟩
def F.MOD_TOPO_iod_positions : Fld := ⟨0x0, 0x80, 4, 4⟩
def F.MOD_TOPO_ctl_units : Fld := ⟨0x0, 0x80, 8, 4⟩
def F.MOD_TOPO_tile_rows : Fld := ⟨0x0, 0x80, 16, 7⟩
def F.MOD_TOPO_tile_cols : Fld := ⟨0x0, 0x80, 23, 7⟩
def F.MOD_TILE_spad_banks : Fld := ⟨0x0, 0x84, 0, 8⟩
def F.MOD_TILE_spad_bank_log2 : Fld := ⟨0x0, 0x84, 8, 4⟩
def F.MOD_TILE_l1_log2 : Fld := ⟨0x0, 0x84, 12, 4⟩
def F.MOD_TILE_mx_dim_log2 : Fld := ⟨0x0, 0x84, 16, 4⟩
def F.MOD_TILE_vec_lanes_log2 : Fld := ⟨0x0, 0x84, 20, 4⟩
def F.MOD_TILE_dma_queues : Fld := ⟨0x0, 0x84, 24, 4⟩
def F.MOD_GROUP_group_log2 : Fld := ⟨0x0, 0x88, 0, 4⟩
def F.MOD_GROUP_group_count : Fld := ⟨0x0, 0x88, 4, 8⟩
def F.MOD_GROUP_groups_per_die : Fld := ⟨0x0, 0x88, 12, 4⟩
def F.MOD_GROUP_tiles_healthy : Fld := ⟨0x0, 0x88, 16, 14⟩
def F.MOD_STACK_stack_present : Fld := ⟨0x0, 0x8C, 0, 12⟩
def F.MOD_STACK_stack_positions : Fld := ⟨0x0, 0x8C, 12, 4⟩
def F.MOD_STACK_stack_gib : Fld := ⟨0x0, 0x8C, 16, 8⟩
def F.MOD_STACK_hbm_rate : Fld := ⟨0x0, 0x8C, 24, 8⟩
def F.MOD_PORT_port_present : Fld := ⟨0x0, 0x90, 0, 26⟩
def F.MOD_PORT_iod_present : Fld := ⟨0x0, 0x90, 26, 2⟩
def F.MOD_LIMITS_deckles_max : Fld := ⟨0x0, 0x94, 0, 5⟩
def F.MOD_LIMITS_contexts_max : Fld := ⟨0x0, 0x94, 5, 11⟩
def F.MOD_LIMITS_contexts_per_deckle : Fld := ⟨0x0, 0x94, 16, 7⟩
def F.MOD_BEAT_beat_min_log2 : Fld := ⟨0x0, 0x98, 0, 4⟩
def F.MOD_BEAT_beat_max_log2 : Fld := ⟨0x0, 0x98, 4, 4⟩
def F.MOD_BEAT_cxl_lanes : Fld := ⟨0x0, 0x98, 16, 5⟩
def F.MOD_BEAT_cxl_splits : Fld := ⟨0x0, 0x98, 21, 3⟩
def F.BEAT_CFG_beat_log2 : Fld := ⟨0x3, 0x80, 0, 4⟩
def F.BEAT_CFG_master : Fld := ⟨0x3, 0x80, 4, 1⟩
def F.BEAT_ALIGN_state : Fld := ⟨0x3, 0x84, 0, 3⟩
def F.BEAT_ALIGN_hops : Fld := ⟨0x3, 0x84, 4, 4⟩
def F.BEAT_ALIGN_port : Fld := ⟨0x3, 0x84, 8, 5⟩
def F.BEAT_ALIGN_master_id : Fld := ⟨0x3, 0x84, 16, 16⟩
def F.BEAT_PHASE_cycle : Fld := ⟨0x3, 0x88, 0, 12⟩
def F.BEAT_PHASE_last_err : Fld := ⟨0x3, 0x88, 16, 16⟩
def F.BEAT_COUNT_count : Fld := ⟨0x3, 0x90, 0, 64⟩
def F.TILE_HEALTH0_out : Fld := ⟨0x30, 0x80, 0, 32⟩
def F.TILE_HEALTH1_out : Fld := ⟨0x30, 0x84, 0, 32⟩
def F.TILE_HEALTH2_out : Fld := ⟨0x30, 0x88, 0, 32⟩
def F.TILE_HEALTH3_out : Fld := ⟨0x30, 0x8C, 0, 32⟩
def F.TILE_HEALTH4_out : Fld := ⟨0x30, 0x90, 0, 32⟩
def F.TILE_HEALTH5_out : Fld := ⟨0x30, 0x94, 0, 32⟩
def F.TILE_HEALTH6_out : Fld := ⟨0x30, 0x98, 0, 32⟩
def F.TILE_HEALTH7_out : Fld := ⟨0x30, 0x9C, 0, 32⟩
def F.TILE_SEL_index : Fld := ⟨0x30, 0xA0, 0, 8⟩
def F.TILE_STATE_state : Fld := ⟨0x30, 0xA4, 0, 3⟩
def F.TILE_STATE_ctx_valid : Fld := ⟨0x30, 0xA4, 3, 1⟩
def F.TILE_STATE_ctx : Fld := ⟨0x30, 0xA4, 16, 16⟩
def F.TILE_SEQ_seq : Fld := ⟨0x30, 0xA8, 0, 32⟩
def F.TILE_VTILE_vtile : Fld := ⟨0x30, 0xAC, 0, 14⟩
def F.CHEST_ARENA_SEL_deckle : Fld := ⟨0xA, 0x80, 0, 4⟩
def F.CHEST_ARENA_free_mib : Fld := ⟨0xA, 0x84, 0, 24⟩
def F.CHEST_ARENA_SIZE_size_mib : Fld := ⟨0xA, 0x88, 0, 24⟩
def F.CHEST_ARENA_LOW_low_mib : Fld := ⟨0xA, 0x8C, 0, 24⟩
def F.CHEST_ORPHANS_count : Fld := ⟨0xA, 0x90, 0, 11⟩
def F.SCREEN_CFG_share : Fld := ⟨0x10, 0x80, 0, 5⟩
def F.SCREEN_STATE_queued : Fld := ⟨0x10, 0x84, 0, 7⟩
def F.SCREEN_STATE_rebuilding : Fld := ⟨0x10, 0x84, 7, 1⟩
def F.HEADBOX_SEL_deckle : Fld := ⟨0x9, 0x80, 0, 4⟩
def F.HEADBOX_BUDGET_kib : Fld := ⟨0x9, 0x84, 0, 24⟩
def F.HEADBOX_SPARE_reserve : Fld := ⟨0x9, 0x88, 0, 14⟩
def F.HEADBOX_SPARE_free : Fld := ⟨0x9, 0x88, 16, 14⟩
def F.HEADBOX_T0_banks : Fld := ⟨0x9, 0x8C, 0, 4⟩
def F.HEADBOX_T0_reads : Fld := ⟨0x9, 0x8C, 4, 4⟩
def F.HEADBOX_POLICY_manual : Fld := ⟨0x9, 0x90, 0, 1⟩
def F.HEADBOX_POLICY_demote_mib : Fld := ⟨0x9, 0x90, 8, 24⟩
def F.HEADBOX_JRNL_BASE_base : Fld := ⟨0x9, 0x98, 0, 48⟩
def F.HEADBOX_JRNL_CFG_size_log2 : Fld := ⟨0x9, 0xA0, 0, 5⟩
def F.HEADBOX_JRNL_HEAD_written : Fld := ⟨0x9, 0xA8, 0, 64⟩
def F.HBMC_STATE_state : Fld := ⟨0x20, 0x80, 0, 3⟩
def F.HBMC_STATE_failed : Fld := ⟨0x20, 0x80, 4, 2⟩
def F.HBMC_STATE_refresh : Fld := ⟨0x20, 0x80, 6, 2⟩
def F.HBMC_STATE_train_ms : Fld := ⟨0x20, 0x80, 16, 16⟩
def F.HBMC_TEMP_stack_t : Fld := ⟨0x20, 0x84, 0, 10⟩
def F.HBMC_TEMP_base_t : Fld := ⟨0x20, 0x84, 16, 10⟩
def F.HBMC_SCRUB_period_h : Fld := ⟨0x20, 0x88, 0, 8⟩
def F.HBMC_REPAIR_spare_min : Fld := ⟨0x20, 0x8C, 0, 3⟩
def F.HBMC_REPAIR_soft_pending : Fld := ⟨0x20, 0x8C, 8, 8⟩
def F.HBMC_REPAIR_ce_row_limit : Fld := ⟨0x20, 0x8C, 16, 8⟩
def F.HBMC_ERR_LOC_channel : Fld := ⟨0x20, 0x90, 0, 5⟩
def F.HBMC_ERR_LOC_pc : Fld := ⟨0x20, 0x90, 5, 1⟩
def F.HBMC_ERR_LOC_sid : Fld := ⟨0x20, 0x90, 6, 2⟩
def F.HBMC_ERR_LOC_bg : Fld := ⟨0x20, 0x90, 8, 2⟩
def F.HBMC_ERR_LOC_bank : Fld := ⟨0x20, 0x90, 10, 2⟩
def F.HBMC_ERR_LOC_row : Fld := ⟨0x20, 0x90, 12, 13⟩
def F.HBMC_ERR_LOC_column : Fld := ⟨0x20, 0x90, 25, 6⟩
def F.HBMC_ERR_LOC_valid : Fld := ⟨0x20, 0x90, 31, 1⟩
def F.PORT_CFG_mode : Fld := ⟨0x60, 0x80, 0, 2⟩
def F.PORT_CFG_enable : Fld := ⟨0x60, 0x80, 2, 1⟩
def F.PORT_CFG_sealed : Fld := ⟨0x60, 0x80, 3, 1⟩
def F.PORT_CFG_s7_net : Fld := ⟨0x60, 0x80, 4, 1⟩
def F.PORT_STATE_state : Fld := ⟨0x60, 0x84, 0, 4⟩
def F.PORT_STATE_lanes : Fld := ⟨0x60, 0x84, 4, 4⟩
def F.PORT_STATE_cause : Fld := ⟨0x60, 0x84, 8, 5⟩
def F.PORT_STATE_seal_on : Fld := ⟨0x60, 0x84, 13, 1⟩
def F.PORT_CTRL_retrain : Fld := ⟨0x60, 0x88, 0, 1⟩
def F.PORT_CTRL_clear_retired : Fld := ⟨0x60, 0x88, 1, 1⟩
def F.PORT_VER_own : Fld := ⟨0x60, 0x8C, 0, 16⟩
def F.PORT_VER_running : Fld := ⟨0x60, 0x8C, 16, 16⟩
def F.PORT_PARTNER_SN_serial : Fld := ⟨0x60, 0x90, 0, 64⟩
def F.PORT_PARTNER_rack : Fld := ⟨0x60, 0x98, 0, 16⟩
def F.PORT_PARTNER_slot : Fld := ⟨0x60, 0x98, 16, 6⟩
def F.PORT_PARTNER_port : Fld := ⟨0x60, 0x98, 22, 5⟩
def F.PORT_MISWIRE_exp_slot : Fld := ⟨0x60, 0x9C, 0, 6⟩
def F.PORT_MISWIRE_exp_port : Fld := ⟨0x60, 0x9C, 6, 5⟩
def F.PORT_MISWIRE_found_slot : Fld := ⟨0x60, 0x9C, 16, 6⟩
def F.PORT_MISWIRE_found_port : Fld := ⟨0x60, 0x9C, 22, 5⟩
def F.PORT_MISWIRE_valid : Fld := ⟨0x60, 0x9C, 31, 1⟩
def F.PORT_LATENCY_one_way : Fld := ⟨0x60, 0xA0, 0, 16⟩
def F.PORT_LANE_CFG_csr_limit : Fld := ⟨0x60, 0xA4, 0, 16⟩
def F.PORT_LANE_STATE_locked0 : Fld := ⟨0x60, 0xA8, 0, 1⟩
def F.PORT_LANE_STATE_locked1 : Fld := ⟨0x60, 0xA8, 8, 1⟩
def F.PORT_LANE_STATE_locked2 : Fld := ⟨0x60, 0xA8, 16, 1⟩
def F.PORT_LANE_STATE_locked3 : Fld := ⟨0x60, 0xA8, 24, 1⟩
def F.PORT_LANE_STATE_retired0 : Fld := ⟨0x60, 0xA8, 1, 1⟩
def F.PORT_LANE_STATE_retired1 : Fld := ⟨0x60, 0xA8, 9, 1⟩
def F.PORT_LANE_STATE_retired2 : Fld := ⟨0x60, 0xA8, 17, 1⟩
def F.PORT_LANE_STATE_retired3 : Fld := ⟨0x60, 0xA8, 25, 1⟩
def F.PORT_LANE_STATE_inverted0 : Fld := ⟨0x60, 0xA8, 2, 1⟩
def F.PORT_LANE_STATE_inverted1 : Fld := ⟨0x60, 0xA8, 10, 1⟩
def F.PORT_LANE_STATE_inverted2 : Fld := ⟨0x60, 0xA8, 18, 1⟩
def F.PORT_LANE_STATE_inverted3 : Fld := ⟨0x60, 0xA8, 26, 1⟩
def F.PORT_LANE_STATE_phys0 : Fld := ⟨0x60, 0xA8, 3, 2⟩
def F.PORT_LANE_STATE_phys1 : Fld := ⟨0x60, 0xA8, 11, 2⟩
def F.PORT_LANE_STATE_phys2 : Fld := ⟨0x60, 0xA8, 19, 2⟩
def F.PORT_LANE_STATE_phys3 : Fld := ⟨0x60, 0xA8, 27, 2⟩
def F.PORT_ETH_MDIO_data : Fld := ⟨0x60, 0xAC, 0, 16⟩
def F.PORT_ETH_MDIO_dev : Fld := ⟨0x60, 0xAC, 16, 5⟩
def F.PORT_ETH_MDIO_rd : Fld := ⟨0x60, 0xAC, 21, 1⟩
def F.PORT_ETH_MDIO_wr : Fld := ⟨0x60, 0xAC, 22, 1⟩
def F.PORT_ETH_MDIO_busy : Fld := ⟨0x60, 0xAC, 23, 1⟩
def F.ROUTE_ID_endpoint : Fld := ⟨0x80, 0x80, 0, 16⟩
def F.ROUTE_ID_valid : Fld := ⟨0x80, 0x80, 16, 1⟩
def F.ROUTE_ID_ring_port : Fld := ⟨0x80, 0x80, 17, 5⟩
def F.ROUTE_CFG_strict : Fld := ⟨0x80, 0x84, 0, 4⟩
def F.ROUTE_CFG_esc_en : Fld := ⟨0x80, 0x84, 4, 1⟩
def F.ROUTE_VC_WEIGHT_w0 : Fld := ⟨0x80, 0x88, 0, 8⟩
def F.ROUTE_VC_WEIGHT_w1 : Fld := ⟨0x80, 0x88, 8, 8⟩
def F.ROUTE_VC_WEIGHT_w2 : Fld := ⟨0x80, 0x88, 16, 8⟩
def F.ROUTE_VC_WEIGHT_w3 : Fld := ⟨0x80, 0x88, 24, 8⟩
def F.ROUTE_WINDOW_units : Fld := ⟨0x80, 0x8C, 0, 10⟩
def F.ROUTE_WINDOW_sources : Fld := ⟨0x80, 0x8C, 16, 16⟩
def F.ROUTE_TBL_IDX_index : Fld := ⟨0x80, 0x90, 0, 16⟩
def F.ROUTE_TBL_DATA_entry : Fld := ⟨0x80, 0x94, 0, 32⟩
def F.ROUTE_SLOT_IDX_slot : Fld := ⟨0x80, 0x98, 0, 8⟩
def F.ROUTE_SLOT_IDX_port : Fld := ⟨0x80, 0x98, 8, 5⟩
def F.ROUTE_SLOT_DATA_circuit : Fld := ⟨0x80, 0x9C, 0, 8⟩
def F.ROUTE_POOL_free : Fld := ⟨0x80, 0xA0, 0, 16⟩
def F.ROUTE_POOL_eject : Fld := ⟨0x80, 0xA0, 16, 16⟩
def F.ROUTE_CMAP_CFG_interval : Fld := ⟨0x80, 0xA4, 0, 16⟩
def F.ROUTE_CMAP_CFG_collector : Fld := ⟨0x80, 0xA4, 16, 16⟩
def F.ROUTE_UNREACH_endpoint : Fld := ⟨0x80, 0xA8, 0, 16⟩
def F.ROUTE_UNREACH_valid : Fld := ⟨0x80, 0xA8, 31, 1⟩
def F.COLL_CFG_timeout : Fld := ⟨0x88, 0x80, 0, 16⟩
def F.COLL_CFG_zcopy : Fld := ⟨0x88, 0x80, 16, 1⟩
def F.COLL_ENGINES_healthy : Fld := ⟨0x88, 0x84, 0, 8⟩
def F.COLL_ENGINES_busy : Fld := ⟨0x88, 0x84, 8, 8⟩
def F.COLL_ENGINES_retired : Fld := ⟨0x88, 0x84, 16, 8⟩
def F.COLL_RMEM_free : Fld := ⟨0x88, 0x88, 0, 10⟩
def F.COLL_RMEM_open : Fld := ⟨0x88, 0x88, 16, 7⟩
def F.COLL_TREE_IDX_tree : Fld := ⟨0x88, 0x90, 0, 8⟩
def F.COLL_TREE_DATA_valid : Fld := ⟨0x88, 0x94, 0, 1⟩
def F.COLL_TREE_DATA_eject : Fld := ⟨0x88, 0x94, 1, 1⟩
def F.COLL_TREE_DATA_ports : Fld := ⟨0x88, 0x94, 2, 26⟩
def F.COLL_LAST_FAIL_status : Fld := ⟨0x88, 0x98, 0, 8⟩
def F.COLL_LAST_FAIL_rank : Fld := ⟨0x88, 0x98, 8, 8⟩
def F.COLL_LAST_FAIL_group : Fld := ⟨0x88, 0x98, 16, 6⟩
def F.COLL_LAST_FAIL_valid : Fld := ⟨0x88, 0x98, 31, 1⟩
def F.COLL_LAST_CTAG_ctag : Fld := ⟨0x88, 0x9C, 0, 32⟩
def F.DECKLE_SEL_deckle : Fld := ⟨0x8, 0x80, 0, 4⟩
def F.DECKLE_STATE_state : Fld := ⟨0x8, 0x84, 0, 2⟩
def F.DECKLE_STATE_link : Fld := ⟨0x8, 0x84, 2, 2⟩
def F.DECKLE_STATE_session : Fld := ⟨0x8, 0x84, 4, 1⟩
def F.DECKLE_STATE_contexts : Fld := ⟨0x8, 0x84, 5, 7⟩
def F.DECKLE_STATE_ctx_max : Fld := ⟨0x8, 0x84, 12, 7⟩
def F.DECKLE_GROUPS_groups : Fld := ⟨0x8, 0x88, 0, 48⟩
def F.DECKLE_RES_hbm : Fld := ⟨0x8, 0x90, 0, 24⟩
def F.DECKLE_PORTS_ports : Fld := ⟨0x8, 0x94, 0, 26⟩
def F.DECKLE_CFG_cmd_timeout : Fld := ⟨0x8, 0x98, 0, 20⟩
def F.DECKLE_CFG_power_w : Fld := ⟨0x8, 0x98, 20, 12⟩
def F.DECKLE_TIMERS_drain_ms : Fld := ⟨0x8, 0x9C, 0, 8⟩
def F.DECKLE_TIMERS_teardown_ms : Fld := ⟨0x8, 0x9C, 8, 16⟩
def F.DECKLE_AQ_base : Fld := ⟨0x8, 0xA0, 0, 48⟩
def F.DECKLE_AQ_e : Fld := ⟨0x8, 0xA0, 48, 4⟩
def F.DECKLE_AQ_reset : Fld := ⟨0x8, 0xA0, 52, 1⟩
def F.CXLP_SPLIT_split : Fld := ⟨0x7, 0x80, 0, 2⟩
def F.CXLP_LINK0_state : Fld := ⟨0x7, 0x84, 0, 2⟩
def F.CXLP_LINK0_width : Fld := ⟨0x7, 0x84, 2, 5⟩
def F.CXLP_LINK0_rate : Fld := ⟨0x7, 0x84, 7, 2⟩
def F.CXLP_LINK0_ide : Fld := ⟨0x7, 0x84, 9, 1⟩
def F.CXLP_LINK0_owner : Fld := ⟨0x7, 0x84, 10, 1⟩
def F.CXLP_LINK1_state : Fld := ⟨0x7, 0x88, 0, 2⟩
def F.CXLP_LINK1_width : Fld := ⟨0x7, 0x88, 2, 5⟩
def F.CXLP_LINK1_rate : Fld := ⟨0x7, 0x88, 7, 2⟩
def F.CXLP_LINK1_ide : Fld := ⟨0x7, 0x88, 9, 1⟩
def F.CXLP_LINK1_owner : Fld := ⟨0x7, 0x88, 10, 1⟩
def F.CXLP_LINK2_state : Fld := ⟨0x7, 0x8C, 0, 2⟩
def F.CXLP_LINK2_width : Fld := ⟨0x7, 0x8C, 2, 5⟩
def F.CXLP_LINK2_rate : Fld := ⟨0x7, 0x8C, 7, 2⟩
def F.CXLP_LINK2_ide : Fld := ⟨0x7, 0x8C, 9, 1⟩
def F.CXLP_LINK2_owner : Fld := ⟨0x7, 0x8C, 10, 1⟩
def F.CXLP_LINK3_state : Fld := ⟨0x7, 0x90, 0, 2⟩
def F.CXLP_LINK3_width : Fld := ⟨0x7, 0x90, 2, 5⟩
def F.CXLP_LINK3_rate : Fld := ⟨0x7, 0x90, 7, 2⟩
def F.CXLP_LINK3_ide : Fld := ⟨0x7, 0x90, 9, 1⟩
def F.CXLP_LINK3_owner : Fld := ⟨0x7, 0x90, 10, 1⟩
def F.CLKCTL_ROOT_a_lock : Fld := ⟨0x1, 0x80, 0, 1⟩
def F.CLKCTL_ROOT_a_ready : Fld := ⟨0x1, 0x80, 1, 1⟩
def F.CLKCTL_ROOT_b_lock : Fld := ⟨0x1, 0x80, 2, 1⟩
def F.CLKCTL_ROOT_b_ready : Fld := ⟨0x1, 0x80, 3, 1⟩
def F.CLKCTL_ROOT_refclk_ok : Fld := ⟨0x1, 0x80, 4, 1⟩
def F.CLKCTL_ROOT_bypass : Fld := ⟨0x1, 0x80, 5, 1⟩
def F.CLKCTL_SRC_tile : Fld := ⟨0x1, 0x84, 0, 1⟩
def F.CLKCTL_SRC_fab : Fld := ⟨0x1, 0x84, 1, 1⟩
def F.CLKCTL_SRC_memc : Fld := ⟨0x1, 0x84, 2, 1⟩
def F.CLKCTL_SRC_ctl_a : Fld := ⟨0x1, 0x84, 3, 1⟩
def F.CLKCTL_SRC_ctl_b : Fld := ⟨0x1, 0x84, 4, 1⟩
def F.CLKCTL_SRC_mgt : Fld := ⟨0x1, 0x84, 5, 1⟩
def F.CLKCTL_TILE_div_cd0 : Fld := ⟨0x1, 0x88, 0, 3⟩
def F.CLKCTL_TILE_div_cd1 : Fld := ⟨0x1, 0x88, 4, 3⟩
def F.CLKCTL_TILE_div_cd2 : Fld := ⟨0x1, 0x88, 8, 3⟩
def F.CLKCTL_TILE_div_cd3 : Fld := ⟨0x1, 0x88, 12, 3⟩
def F.CLKCTL_TILE_droop_cd0 : Fld := ⟨0x1, 0x88, 3, 1⟩
def F.CLKCTL_TILE_droop_cd1 : Fld := ⟨0x1, 0x88, 7, 1⟩
def F.CLKCTL_TILE_droop_cd2 : Fld := ⟨0x1, 0x88, 11, 1⟩
def F.CLKCTL_TILE_droop_cd3 : Fld := ⟨0x1, 0x88, 15, 1⟩
def F.CLKCTL_TILE_pending : Fld := ⟨0x1, 0x88, 16, 3⟩
def F.CLKCTL_TILE_held : Fld := ⟨0x1, 0x88, 19, 1⟩
def F.CLKCTL_EN_TILE_group : Fld := ⟨0x1, 0x90, 0, 48⟩
def F.CLKCTL_EN_STACK_hbmc : Fld := ⟨0x1, 0x98, 0, 12⟩
def F.CLKCTL_EN_STACK_screen : Fld := ⟨0x1, 0x98, 16, 12⟩
def F.CLKCTL_EN_PORT_port : Fld := ⟨0x1, 0x9C, 0, 26⟩
def F.CLKCTL_EN_MISC_cxlp : Fld := ⟨0x1, 0xA0, 0, 1⟩
def F.CLKCTL_EN_MISC_deckle : Fld := ⟨0x1, 0xA0, 1, 1⟩
def F.CLKCTL_EN_MISC_headbox : Fld := ⟨0x1, 0xA0, 2, 1⟩
def F.CLKCTL_EN_MISC_chest : Fld := ⟨0x1, 0xA0, 3, 1⟩
def F.CLKCTL_EN_MISC_route : Fld := ⟨0x1, 0xA0, 4, 2⟩
def F.CLKCTL_EN_MISC_coll : Fld := ⟨0x1, 0xA0, 6, 2⟩
def F.CLKCTL_EN_MISC_sens : Fld := ⟨0x1, 0xA0, 8, 7⟩
def F.CALENDER_CAP_cap_w : Fld := ⟨0x4, 0x80, 0, 12⟩
def F.CALENDER_CAP_source : Fld := ⟨0x4, 0x80, 12, 2⟩
def F.CALENDER_CAP_rack_w : Fld := ⟨0x4, 0x80, 16, 12⟩
def F.CALENDER_CFG_window_s : Fld := ⟨0x4, 0x84, 0, 4⟩
def F.CALENDER_CFG_prof_cap_w : Fld := ⟨0x4, 0x84, 8, 12⟩
def F.CALENDER_CFG_leak_cap_w : Fld := ⟨0x4, 0x84, 20, 12⟩
def F.CALENDER_STATE_mode : Fld := ⟨0x4, 0x88, 0, 3⟩
def F.CALENDER_STATE_div : Fld := ⟨0x4, 0x88, 3, 3⟩
def F.CALENDER_STATE_work : Fld := ⟨0x4, 0x88, 6, 4⟩
def F.CALENDER_STATE_mem_share : Fld := ⟨0x4, 0x88, 10, 5⟩
def F.CALENDER_STATE_thermal : Fld := ⟨0x4, 0x88, 15, 1⟩
def F.CALENDER_STATE_unattainable : Fld := ⟨0x4, 0x88, 16, 1⟩
def F.CALENDER_PEAK_peak_w : Fld := ⟨0x4, 0x8C, 0, 16⟩
def F.CALENDER_PWR_beat_w : Fld := ⟨0x4, 0x90, 0, 16⟩
def F.CALENDER_PWR_avg_w : Fld := ⟨0x4, 0x90, 16, 16⟩
def F.CALENDER_LEAK_state : Fld := ⟨0x4, 0x94, 0, 2⟩
def F.CALENDER_LEAK_ohms_100 : Fld := ⟨0x4, 0x94, 8, 16⟩
def F.CALENDER_SLACK_CFG_interval : Fld := ⟨0x4, 0x98, 0, 16⟩
def F.CALENDER_SPAIR_disagree0 : Fld := ⟨0x4, 0xA0, 0, 1⟩
def F.CALENDER_SPAIR_disagree1 : Fld := ⟨0x4, 0xA0, 3, 1⟩
def F.CALENDER_SPAIR_disagree2 : Fld := ⟨0x4, 0xA0, 6, 1⟩
def F.CALENDER_SPAIR_disagree3 : Fld := ⟨0x4, 0xA0, 9, 1⟩
def F.CALENDER_SPAIR_disagree4 : Fld := ⟨0x4, 0xA0, 12, 1⟩
def F.CALENDER_SPAIR_disagree5 : Fld := ⟨0x4, 0xA0, 15, 1⟩
def F.CALENDER_SPAIR_disagree6 : Fld := ⟨0x4, 0xA0, 18, 1⟩
def F.CALENDER_SPAIR_disagree7 : Fld := ⟨0x4, 0xA0, 21, 1⟩
def F.CALENDER_SPAIR_disagree8 : Fld := ⟨0x4, 0xA0, 24, 1⟩
def F.CALENDER_SPAIR_disagree9 : Fld := ⟨0x4, 0xA0, 27, 1⟩
def F.CALENDER_SPAIR_disagree10 : Fld := ⟨0x4, 0xA0, 30, 1⟩
def F.CALENDER_SPAIR_disagree11 : Fld := ⟨0x4, 0xA0, 33, 1⟩
def F.CALENDER_SPAIR_stack_bad0 : Fld := ⟨0x4, 0xA0, 1, 1⟩
def F.CALENDER_SPAIR_stack_bad1 : Fld := ⟨0x4, 0xA0, 4, 1⟩
def F.CALENDER_SPAIR_stack_bad2 : Fld := ⟨0x4, 0xA0, 7, 1⟩
def F.CALENDER_SPAIR_stack_bad3 : Fld := ⟨0x4, 0xA0, 10, 1⟩
def F.CALENDER_SPAIR_stack_bad4 : Fld := ⟨0x4, 0xA0, 13, 1⟩
def F.CALENDER_SPAIR_stack_bad5 : Fld := ⟨0x4, 0xA0, 16, 1⟩
def F.CALENDER_SPAIR_stack_bad6 : Fld := ⟨0x4, 0xA0, 19, 1⟩
def F.CALENDER_SPAIR_stack_bad7 : Fld := ⟨0x4, 0xA0, 22, 1⟩
def F.CALENDER_SPAIR_stack_bad8 : Fld := ⟨0x4, 0xA0, 25, 1⟩
def F.CALENDER_SPAIR_stack_bad9 : Fld := ⟨0x4, 0xA0, 28, 1⟩
def F.CALENDER_SPAIR_stack_bad10 : Fld := ⟨0x4, 0xA0, 31, 1⟩
def F.CALENDER_SPAIR_stack_bad11 : Fld := ⟨0x4, 0xA0, 34, 1⟩
def F.CALENDER_SPAIR_base_bad0 : Fld := ⟨0x4, 0xA0, 2, 1⟩
def F.CALENDER_SPAIR_base_bad1 : Fld := ⟨0x4, 0xA0, 5, 1⟩
def F.CALENDER_SPAIR_base_bad2 : Fld := ⟨0x4, 0xA0, 8, 1⟩
def F.CALENDER_SPAIR_base_bad3 : Fld := ⟨0x4, 0xA0, 11, 1⟩
def F.CALENDER_SPAIR_base_bad4 : Fld := ⟨0x4, 0xA0, 14, 1⟩
def F.CALENDER_SPAIR_base_bad5 : Fld := ⟨0x4, 0xA0, 17, 1⟩
def F.CALENDER_SPAIR_base_bad6 : Fld := ⟨0x4, 0xA0, 20, 1⟩
def F.CALENDER_SPAIR_base_bad7 : Fld := ⟨0x4, 0xA0, 23, 1⟩
def F.CALENDER_SPAIR_base_bad8 : Fld := ⟨0x4, 0xA0, 26, 1⟩
def F.CALENDER_SPAIR_base_bad9 : Fld := ⟨0x4, 0xA0, 29, 1⟩
def F.CALENDER_SPAIR_base_bad10 : Fld := ⟨0x4, 0xA0, 32, 1⟩
def F.CALENDER_SPAIR_base_bad11 : Fld := ⟨0x4, 0xA0, 35, 1⟩
def F.CALENDER_SLACK_min_cyc : Fld := ⟨0x4, 0xA8, 0, 32⟩
def F.CALENDER_SLACK_mean_cyc : Fld := ⟨0x4, 0xA8, 32, 32⟩
def F.CALENDER_SLACK_N_steps : Fld := ⟨0x4, 0xB0, 0, 16⟩
def F.CALENDER_SLACK_N_idle : Fld := ⟨0x4, 0xB0, 16, 16⟩
def F.CALENDER_DLIM0_limit_w : Fld := ⟨0x4, 0x100, 0, 12⟩
def F.CALENDER_DLIM0_used_w : Fld := ⟨0x4, 0x100, 16, 12⟩
def F.CALENDER_DLIM1_limit_w : Fld := ⟨0x4, 0x104, 0, 12⟩
def F.CALENDER_DLIM1_used_w : Fld := ⟨0x4, 0x104, 16, 12⟩
def F.CALENDER_DLIM2_limit_w : Fld := ⟨0x4, 0x108, 0, 12⟩
def F.CALENDER_DLIM2_used_w : Fld := ⟨0x4, 0x108, 16, 12⟩
def F.CALENDER_DLIM3_limit_w : Fld := ⟨0x4, 0x10C, 0, 12⟩
def F.CALENDER_DLIM3_used_w : Fld := ⟨0x4, 0x10C, 16, 12⟩
def F.CALENDER_DLIM4_limit_w : Fld := ⟨0x4, 0x110, 0, 12⟩
def F.CALENDER_DLIM4_used_w : Fld := ⟨0x4, 0x110, 16, 12⟩
def F.CALENDER_DLIM5_limit_w : Fld := ⟨0x4, 0x114, 0, 12⟩
def F.CALENDER_DLIM5_used_w : Fld := ⟨0x4, 0x114, 16, 12⟩
def F.CALENDER_DLIM6_limit_w : Fld := ⟨0x4, 0x118, 0, 12⟩
def F.CALENDER_DLIM6_used_w : Fld := ⟨0x4, 0x118, 16, 12⟩
def F.CALENDER_DLIM7_limit_w : Fld := ⟨0x4, 0x11C, 0, 12⟩
def F.CALENDER_DLIM7_used_w : Fld := ⟨0x4, 0x11C, 16, 12⟩
def F.CALENDER_DLIM8_limit_w : Fld := ⟨0x4, 0x120, 0, 12⟩
def F.CALENDER_DLIM8_used_w : Fld := ⟨0x4, 0x120, 16, 12⟩
def F.CALENDER_DLIM9_limit_w : Fld := ⟨0x4, 0x124, 0, 12⟩
def F.CALENDER_DLIM9_used_w : Fld := ⟨0x4, 0x124, 16, 12⟩
def F.CALENDER_DLIM10_limit_w : Fld := ⟨0x4, 0x128, 0, 12⟩
def F.CALENDER_DLIM10_used_w : Fld := ⟨0x4, 0x128, 16, 12⟩
def F.CALENDER_DLIM11_limit_w : Fld := ⟨0x4, 0x12C, 0, 12⟩
def F.CALENDER_DLIM11_used_w : Fld := ⟨0x4, 0x12C, 16, 12⟩
def F.CALENDER_DLIM12_limit_w : Fld := ⟨0x4, 0x130, 0, 12⟩
def F.CALENDER_DLIM12_used_w : Fld := ⟨0x4, 0x130, 16, 12⟩
def F.CALENDER_DLIM13_limit_w : Fld := ⟨0x4, 0x134, 0, 12⟩
def F.CALENDER_DLIM13_used_w : Fld := ⟨0x4, 0x134, 16, 12⟩
def F.CALENDER_DLIM14_limit_w : Fld := ⟨0x4, 0x138, 0, 12⟩
def F.CALENDER_DLIM14_used_w : Fld := ⟨0x4, 0x138, 16, 12⟩
def F.CALENDER_DLIM15_limit_w : Fld := ⟨0x4, 0x13C, 0, 12⟩
def F.CALENDER_DLIM15_used_w : Fld := ⟨0x4, 0x13C, 16, 12⟩
def F.CALENDER_PH_SEL_phase : Fld := ⟨0x4, 0x140, 0, 8⟩
def F.CALENDER_PH_SEL_div : Fld := ⟨0x4, 0x140, 8, 3⟩
def F.CALENDER_PH_DATA_mw : Fld := ⟨0x4, 0x144, 0, 16⟩
def F.CALENDER_PH_DATA_stall : Fld := ⟨0x4, 0x144, 16, 8⟩
def F.SENS_SEL_point : Fld := ⟨0x90, 0x80, 0, 6⟩
def F.SENS_POINT_temp : Fld := ⟨0x90, 0x84, 0, 10⟩
def F.SENS_POINT_stuck : Fld := ⟨0x90, 0x84, 10, 1⟩
def F.SENS_POINT_unusable : Fld := ⟨0x90, 0x84, 11, 1⟩
def F.SENS_HOT_spot : Fld := ⟨0x90, 0x88, 0, 10⟩
def F.SENS_HOT_pair : Fld := ⟨0x90, 0x88, 10, 6⟩
def F.SENS_HOT_throttle : Fld := ⟨0x90, 0x88, 16, 8⟩
def F.SENS_HOT_trip : Fld := ⟨0x90, 0x88, 24, 8⟩
def F.SENS_DROOP_pct : Fld := ⟨0x90, 0x90, 0, 4⟩
def F.RSTCTL_STATE_state : Fld := ⟨0x2, 0x80, 0, 3⟩
def F.RSTCTL_STATE_tier : Fld := ⟨0x2, 0x80, 3, 2⟩
def F.RSTCTL_STATE_cause : Fld := ⟨0x2, 0x80, 8, 4⟩
def F.RSTCTL_STATE_last_ms : Fld := ⟨0x2, 0x80, 16, 16⟩
def F.RSTCTL_RESET_cd_reset : Fld := ⟨0x2, 0x84, 0, 1⟩
def F.RSTCTL_RESET_pkg_recovery : Fld := ⟨0x2, 0x84, 1, 1⟩
def F.RSTCTL_RESET_dump : Fld := ⟨0x2, 0x84, 2, 1⟩
def F.RSTCTL_CFG_drain_us : Fld := ⟨0x2, 0x88, 0, 16⟩
def F.RSTCTL_CFG_dump_auto : Fld := ⟨0x2, 0x88, 16, 1⟩
def F.RSTCTL_TFENCE_tile : Fld := ⟨0x2, 0x8C, 0, 14⟩
def F.RSTCTL_TFENCE_op : Fld := ⟨0x2, 0x8C, 16, 2⟩
def F.RSTCTL_BROKE_count : Fld := ⟨0x2, 0x90, 0, 16⟩
def F.RSTCTL_BROKE_gen : Fld := ⟨0x2, 0x90, 16, 16⟩
def F.RSTCTL_BROKE_IDX_index : Fld := ⟨0x2, 0x94, 0, 14⟩
def F.RSTCTL_BROKE_DATA0_data : Fld := ⟨0x2, 0x98, 0, 64⟩
def F.RSTCTL_BROKE_DATA1_data : Fld := ⟨0x2, 0xA0, 0, 64⟩
def F.RSTCTL_DUMP_kib : Fld := ⟨0x2, 0xA8, 0, 12⟩
def F.RSTCTL_DUMP_unreach : Fld := ⟨0x2, 0xA8, 16, 8⟩
def F.RSTCTL_DUMP_valid : Fld := ⟨0x2, 0xA8, 31, 1⟩
def F.RSTCTL_SUSPECT_ctx : Fld := ⟨0x2, 0xAC, 0, 16⟩
def F.RSTCTL_SUSPECT_remaining : Fld := ⟨0x2, 0xAC, 16, 8⟩
def F.RSTCTL_SUSPECT_state : Fld := ⟨0x2, 0xAC, 24, 2⟩
def F.RSTCTL_DUMP_IDX_word : Fld := ⟨0x2, 0x840, 0, 18⟩
def F.RSTCTL_DUMP_DATA_data : Fld := ⟨0x2, 0x848, 0, 64⟩
def F.MGT_CU_active : Fld := ⟨0x5, 0x80, 0, 1⟩
def F.MGT_CU_a_state : Fld := ⟨0x5, 0x80, 1, 3⟩
def F.MGT_CU_b_state : Fld := ⟨0x5, 0x80, 4, 3⟩
def F.MGT_CU_in_sync : Fld := ⟨0x5, 0x80, 7, 1⟩
def F.MGT_CU_couch_ok : Fld := ⟨0x5, 0x80, 8, 1⟩
def F.MGT_HB_ondie_age : Fld := ⟨0x5, 0x84, 0, 8⟩
def F.MGT_HB_pin_age : Fld := ⟨0x5, 0x84, 8, 8⟩
def F.MGT_HB_pin_unknown : Fld := ⟨0x5, 0x84, 16, 1⟩
def F.MGT_I3C_dyn_addr : Fld := ⟨0x5, 0x88, 0, 7⟩
def F.MGT_I3C_addr_valid : Fld := ⟨0x5, 0x88, 7, 1⟩
def F.MGT_I3C_eid : Fld := ⟨0x5, 0x88, 8, 8⟩
def F.MGT_I3C_session : Fld := ⟨0x5, 0x88, 16, 1⟩
def F.MGT_OFF_grace_s : Fld := ⟨0x5, 0x8C, 0, 5⟩
def F.MGT_OFF_pending : Fld := ⟨0x5, 0x8C, 5, 1⟩
def F.MGT_OFF_ready : Fld := ⟨0x5, 0x8C, 6, 1⟩
def F.MGT_OFF_remaining_ms : Fld := ⟨0x5, 0x8C, 8, 16⟩
def F.MGT_RAILS_stby : Fld := ⟨0x5, 0x90, 0, 1⟩
def F.MGT_RAILS_mem : Fld := ⟨0x5, 0x90, 1, 1⟩
def F.MGT_RAILS_core : Fld := ⟨0x5, 0x90, 2, 1⟩
def F.MGT_RAILS_io : Fld := ⟨0x5, 0x90, 3, 1⟩
def F.MGT_RAILS_req : Fld := ⟨0x5, 0x90, 4, 4⟩
def F.MGT_ID_iana : Fld := ⟨0x5, 0x94, 0, 32⟩
def F.NVM_STATE_boot : Fld := ⟨0x6, 0x80, 0, 2⟩
def F.NVM_STATE_factory_cfg : Fld := ⟨0x6, 0x80, 2, 1⟩
def F.NVM_STATE_enrolled : Fld := ⟨0x6, 0x80, 3, 1⟩
def F.NVM_STATE_cfg_slot : Fld := ⟨0x6, 0x80, 4, 1⟩
def F.NVM_STATE_busy : Fld := ⟨0x6, 0x80, 5, 1⟩
def F.NVM_STATE_map_lost : Fld := ⟨0x6, 0x80, 6, 1⟩
def F.NVM_STATE_ver_rebuilt : Fld := ⟨0x6, 0x80, 7, 1⟩
def F.NVM_STATE_result : Fld := ⟨0x6, 0x80, 8, 8⟩
def F.NVM_STATE_floor : Fld := ⟨0x6, 0x80, 16, 16⟩
def F.NVM_OP_op : Fld := ⟨0x6, 0x84, 0, 4⟩
def F.NVM_OP_target : Fld := ⟨0x6, 0x84, 4, 5⟩
def F.NVM_ADDR_addr : Fld := ⟨0x6, 0x88, 0, 28⟩
def F.NVM_LEN_len : Fld := ⟨0x6, 0x8C, 0, 24⟩
def F.NVM_PROFILE_sel : Fld := ⟨0x6, 0x90, 0, 2⟩
def F.NVM_PROFILE_pins : Fld := ⟨0x6, 0x90, 2, 2⟩
def F.NVM_PROFILE_by_cmd : Fld := ⟨0x6, 0x90, 4, 1⟩
def F.NVM_PROFILE_pend_cd : Fld := ⟨0x6, 0x90, 5, 1⟩
def F.NVM_PROFILE_pend_pkg : Fld := ⟨0x6, 0x90, 6, 1⟩
def F.NVM_FW_version : Fld := ⟨0x6, 0x94, 0, 32⟩
def F.NVM_MEAS_IDX_index : Fld := ⟨0x6, 0x100, 0, 3⟩
def F.NVM_RPT_IDX_word : Fld := ⟨0x6, 0x160, 0, 13⟩
def F.RSTCTL_BRINGUP_phase : Fld := ⟨0x2, 0xB0, 0, 4⟩
def F.RSTCTL_BRINGUP_fail_step : Fld := ⟨0x2, 0xB0, 4, 4⟩
def F.RSTCTL_BRINGUP_fail_status : Fld := ⟨0x2, 0xB0, 8, 8⟩
def F.RSTCTL_BRINGUP_ms : Fld := ⟨0x2, 0xB0, 16, 16⟩
def F.RSTCTL_FLOG_HEAD_written : Fld := ⟨0x2, 0x800, 0, 64⟩
def F.RSTCTL_FLOG_IDX_index : Fld := ⟨0x2, 0x808, 0, 12⟩
def F.RSTCTL_FLOG_DATA0_data : Fld := ⟨0x2, 0x810, 0, 64⟩
def F.RSTCTL_FLOG_DATA1_data : Fld := ⟨0x2, 0x818, 0, 64⟩
def F.RSTCTL_FLOG_DATA2_data : Fld := ⟨0x2, 0x820, 0, 64⟩
def F.RSTCTL_FLOG_DATA3_data : Fld := ⟨0x2, 0x828, 0, 64⟩
def F.CXLP_AQ_SEL_link : Fld := ⟨0x7, 0x94, 0, 2⟩
def F.CXLP_AQ_base : Fld := ⟨0x7, 0x98, 0, 48⟩
def F.CXLP_AQ_e : Fld := ⟨0x7, 0x98, 48, 4⟩
def F.CXLP_AQ_reset : Fld := ⟨0x7, 0x98, 52, 1⟩
def F.NVM_MEAS_DATA0_data : Fld := ⟨0x6, 0x108, 0, 64⟩
def F.NVM_MEAS_DATA1_data : Fld := ⟨0x6, 0x110, 0, 64⟩
def F.NVM_MEAS_DATA2_data : Fld := ⟨0x6, 0x118, 0, 64⟩
def F.NVM_MEAS_DATA3_data : Fld := ⟨0x6, 0x120, 0, 64⟩
def F.NVM_NONCE0_data : Fld := ⟨0x6, 0x140, 0, 64⟩
def F.NVM_NONCE1_data : Fld := ⟨0x6, 0x148, 0, 64⟩
def F.NVM_NONCE2_data : Fld := ⟨0x6, 0x150, 0, 64⟩
def F.NVM_NONCE3_data : Fld := ⟨0x6, 0x158, 0, 64⟩
def F.NVM_RPT_DATA_data : Fld := ⟨0x6, 0x168, 0, 64⟩

/-! Statistics counters. -/
def C.BEAT_OVERRUN_CNT : Cnt := ⟨0x3, 0xA0⟩
def C.BEAT_LATE_CNT : Cnt := ⟨0x3, 0xA8⟩
def C.BEAT_STAMPWAIT_CNT : Cnt := ⟨0x3, 0xB0⟩
def C.BEAT_TILEWAIT_CNT : Cnt := ⟨0x3, 0xB8⟩
def C.BEAT_MARKER_ERR_CNT : Cnt := ⟨0x3, 0xC0⟩
def C.BEAT_IDLE_CNT : Cnt := ⟨0x3, 0xC8⟩
def C.BEAT_NOTICE_DROP_CNT : Cnt := ⟨0x3, 0xD0⟩
def C.TILE_ECC_CE_CNT : Cnt := ⟨0x30, 0xC0⟩
def C.TILE_ECC_UE_CNT : Cnt := ⟨0x30, 0xC8⟩
def C.TILE_DEADLOCK_CNT : Cnt := ⟨0x30, 0xD0⟩
def C.TILE_CONFINE_CNT : Cnt := ⟨0x30, 0xD8⟩
def C.TILE_TOKEN_OVF_CNT : Cnt := ⟨0x30, 0xE0⟩
def C.CHEST_RD_CNT : Cnt := ⟨0xA, 0xC0⟩
def C.CHEST_WR_CNT : Cnt := ⟨0xA, 0xC8⟩
def C.CHEST_UE_CNT : Cnt := ⟨0xA, 0xD0⟩
def C.CHEST_DEAD_DROP_CNT : Cnt := ⟨0xA, 0xD8⟩
def C.CHEST_SPACE_WAIT_CNT : Cnt := ⟨0xA, 0xE0⟩
def C.CHEST_RESID_FULL_CNT : Cnt := ⟨0xA, 0xE8⟩
def C.SCREEN_QUERY_CNT : Cnt := ⟨0x10, 0xC0⟩
def C.SCREEN_SCORED_CNT : Cnt := ⟨0x10, 0xC8⟩
def C.SCREEN_OVF_CNT : Cnt := ⟨0x10, 0xD0⟩
def C.SCREEN_REBUILD_CNT : Cnt := ⟨0x10, 0xD8⟩
def C.SCREEN_UNBOUNDED_CNT : Cnt := ⟨0x10, 0xE0⟩
def C.HEADBOX_REPLACE_CNT : Cnt := ⟨0x9, 0xC0⟩
def C.HEADBOX_NOSPARE_CNT : Cnt := ⟨0x9, 0xC8⟩
def C.HEADBOX_PROMOTE_CNT : Cnt := ⟨0x9, 0xD0⟩
def C.HEADBOX_DEMOTE_CNT : Cnt := ⟨0x9, 0xD8⟩
def C.HEADBOX_DEFER_CNT : Cnt := ⟨0x9, 0xE0⟩
def C.HEADBOX_CARRY_CNT : Cnt := ⟨0x9, 0xE8⟩
def C.HEADBOX_JRNL_WRAP_CNT : Cnt := ⟨0x9, 0xF0⟩
def C.HEADBOX_REPLAY_DIV_CNT : Cnt := ⟨0x9, 0xF8⟩
def C.HBMC_CE_CNT : Cnt := ⟨0x20, 0xC0⟩
def C.HBMC_UE_CNT : Cnt := ⟨0x20, 0xC8⟩
def C.HBMC_SCRUB_CE_CNT : Cnt := ⟨0x20, 0xD0⟩
def C.HBMC_POISON_RD_CNT : Cnt := ⟨0x20, 0xD8⟩
def C.HBMC_REPAIR_CNT : Cnt := ⟨0x20, 0xE0⟩
def C.HBMC_TRAIN_FAIL_CNT : Cnt := ⟨0x20, 0xE8⟩
def C.PORT_CRC_ERR_CNT : Cnt := ⟨0x60, 0xC0⟩
def C.PORT_REPLAY_CNT : Cnt := ⟨0x60, 0xC8⟩
def C.PORT_REPLAY_EXH_CNT : Cnt := ⟨0x60, 0xD0⟩
def C.PORT_FEC_CSYM_CNT : Cnt := ⟨0x60, 0xD8⟩
def C.PORT_FEC_UCW_CNT : Cnt := ⟨0x60, 0xE0⟩
def C.PORT_LOCK_LOSS_CNT : Cnt := ⟨0x60, 0xE8⟩
def C.PORT_LANE_RETIRE_CNT : Cnt := ⟨0x60, 0xF0⟩
def C.PORT_SEAL_FAIL_CNT : Cnt := ⟨0x60, 0xF8⟩
def C.PORT_ID_REJECT_CNT : Cnt := ⟨0x60, 0x100⟩
def C.ROUTE_ESC_DIV_CNT : Cnt := ⟨0x80, 0xC0⟩
def C.ROUTE_DUP_DROP_CNT : Cnt := ⟨0x80, 0xC8⟩
def C.ROUTE_EPOCH_DROP_CNT : Cnt := ⟨0x80, 0xD0⟩
def C.ROUTE_UNREACH_DROP_CNT : Cnt := ⟨0x80, 0xD8⟩
def C.ROUTE_BAD_PKT_CNT : Cnt := ⟨0x80, 0xE0⟩
def C.ROUTE_HOP_LIMIT_CNT : Cnt := ⟨0x80, 0xE8⟩
def C.ROUTE_WIN_STALL_CNT : Cnt := ⟨0x80, 0xF0⟩
def C.ROUTE_REROUTE_CNT : Cnt := ⟨0x80, 0xF8⟩
def C.ROUTE_CIRC_DEMOTE_CNT : Cnt := ⟨0x80, 0x100⟩
def C.COLL_STEP_CNT : Cnt := ⟨0x88, 0xC0⟩
def C.COLL_FAIL_CNT : Cnt := ⟨0x88, 0xC8⟩
def C.COLL_MISMATCH_CNT : Cnt := ⟨0x88, 0xD0⟩
def C.COLL_RESIDUE_CNT : Cnt := ⟨0x88, 0xD8⟩
def C.COLL_ENGINE_RETIRE_CNT : Cnt := ⟨0x88, 0xE0⟩
def C.COLL_RMEM_CE_CNT : Cnt := ⟨0x88, 0xE8⟩
def C.COLL_DROP_CNT : Cnt := ⟨0x88, 0xF0⟩
def C.COLL_BRANCH_DROP_CNT : Cnt := ⟨0x88, 0xF8⟩
def C.DECKLE_CMD_CNT : Cnt := ⟨0x8, 0xC0⟩
def C.DECKLE_TIMEOUT_CNT : Cnt := ⟨0x8, 0xC8⟩
def C.DECKLE_AUTH_FAIL_CNT : Cnt := ⟨0x8, 0xD0⟩
def C.DECKLE_DEAD_DROP_CNT : Cnt := ⟨0x8, 0xD8⟩
def C.DECKLE_MEM_REFUSE_CNT : Cnt := ⟨0x8, 0xE0⟩
def C.DECKLE_INFLIGHT_STALL_CNT : Cnt := ⟨0x8, 0xE8⟩
def C.DECKLE_LOST_CPL_CNT : Cnt := ⟨0x8, 0xF0⟩
def C.CXLP_WR_REFUSE_CNT : Cnt := ⟨0x7, 0xC0⟩
def C.CXLP_AUTH_FAIL_CNT : Cnt := ⟨0x7, 0xC8⟩
def C.CXLP_BUS_ERR_CNT : Cnt := ⟨0x7, 0xD0⟩
def C.CXLP_POISON_CNT : Cnt := ⟨0x7, 0xD8⟩
def C.CLKCTL_DROOP_CNT : Cnt := ⟨0x1, 0xC0⟩
def C.CLKCTL_SWITCH_CNT : Cnt := ⟨0x1, 0xC8⟩
def C.CLKCTL_LOCK_LOSS_CNT : Cnt := ⟨0x1, 0xD0⟩
def C.CLKCTL_REFCLK_LOSS_CNT : Cnt := ⟨0x1, 0xD8⟩
def C.CLKCTL_GATE_REFUSE_CNT : Cnt := ⟨0x1, 0xE0⟩
def C.CALENDER_CAPCHG_CNT : Cnt := ⟨0x4, 0xC0⟩
def C.CALENDER_UNATT_CNT : Cnt := ⟨0x4, 0xC8⟩
def C.CALENDER_DIDLE_CNT : Cnt := ⟨0x4, 0xD0⟩
def C.CALENDER_THROTTLE_CNT : Cnt := ⟨0x4, 0xD8⟩
def C.CALENDER_LEAK_FAULT_CNT : Cnt := ⟨0x4, 0xE0⟩
def C.CALENDER_SPAIR_CNT : Cnt := ⟨0x4, 0xE8⟩
def C.RSTCTL_CDRESET_CNT : Cnt := ⟨0x2, 0xC0⟩
def C.RSTCTL_PKGREC_CNT : Cnt := ⟨0x2, 0xC8⟩
def C.RSTCTL_TFENCE_CNT : Cnt := ⟨0x2, 0xD0⟩
def C.RSTCTL_SUSPECT_CNT : Cnt := ⟨0x2, 0xD8⟩
def C.RSTCTL_CONVICT_CNT : Cnt := ⟨0x2, 0xE0⟩
def C.RSTCTL_DRAIN_TO_CNT : Cnt := ⟨0x2, 0xE8⟩
def C.RSTCTL_LOCK_BUSY_CNT : Cnt := ⟨0x2, 0xF0⟩
def C.RSTCTL_DUMP_SKIP_CNT : Cnt := ⟨0x2, 0xF8⟩
def C.RSTCTL_BROKE_DROP_CNT : Cnt := ⟨0x2, 0x100⟩
def C.MGT_TAKEOVER_CNT : Cnt := ⟨0x5, 0xC0⟩
def C.MGT_FAILBACK_CNT : Cnt := ⟨0x5, 0xC8⟩
def C.MGT_HB_SINGLE_CNT : Cnt := ⟨0x5, 0xD0⟩
def C.MGT_COPY_FAIL_CNT : Cnt := ⟨0x5, 0xD8⟩
def C.MGT_MSG_ERR_CNT : Cnt := ⟨0x5, 0xE0⟩
def C.MGT_AUTH_FAIL_CNT : Cnt := ⟨0x5, 0xE8⟩
def C.NVM_VERIFY_FAIL_CNT : Cnt := ⟨0x6, 0xC0⟩
def C.NVM_UPDATE_CNT : Cnt := ⟨0x6, 0xC8⟩
def C.NVM_ABANDON_CNT : Cnt := ⟨0x6, 0xD0⟩
def C.NVM_DEV_ERR_CNT : Cnt := ⟨0x6, 0xD8⟩
def C.SENS_STUCK_CNT : Cnt := ⟨0x90, 0xC0⟩
def C.SENS_THROTTLE_CNT : Cnt := ⟨0x90, 0xC8⟩

/-! Event bits. -/
def E.BEAT_overrun : Ev := ⟨0x3, 0⟩
def E.BEAT_align_timeout : Ev := ⟨0x3, 1⟩
def E.BEAT_holdover : Ev := ⟨0x3, 2⟩
def E.BEAT_marker_mismatch : Ev := ⟨0x3, 3⟩
def E.BEAT_counter_overflow : Ev := ⟨0x3, 4⟩
def E.TILE_ecc_uncorrectable : Ev := ⟨0x30, 0⟩
def E.TILE_deadlock : Ev := ⟨0x30, 1⟩
def E.TILE_confine : Ev := ⟨0x30, 2⟩
def E.TILE_token_overflow : Ev := ⟨0x30, 3⟩
def E.TILE_counter_overflow : Ev := ⟨0x30, 4⟩
def E.CHEST_ecc_uncorrectable : Ev := ⟨0xA, 0⟩
def E.CHEST_arena_low : Ev := ⟨0xA, 1⟩
def E.CHEST_space_timeout : Ev := ⟨0xA, 2⟩
def E.CHEST_dead_drop : Ev := ⟨0xA, 3⟩
def E.CHEST_counter_overflow : Ev := ⟨0xA, 4⟩
def E.SCREEN_overflow : Ev := ⟨0x10, 0⟩
def E.SCREEN_rebuild : Ev := ⟨0x10, 1⟩
def E.SCREEN_counter_overflow : Ev := ⟨0x10, 2⟩
def E.HEADBOX_replace : Ev := ⟨0x9, 0⟩
def E.HEADBOX_no_spare : Ev := ⟨0x9, 1⟩
def E.HEADBOX_carry_forward : Ev := ⟨0x9, 2⟩
def E.HEADBOX_journal_wrap : Ev := ⟨0x9, 3⟩
def E.HEADBOX_replay_divergence : Ev := ⟨0x9, 4⟩
def E.HEADBOX_counter_overflow : Ev := ⟨0x9, 5⟩
def E.HBMC_ecc_uncorrectable : Ev := ⟨0x20, 0⟩
def E.HBMC_repair : Ev := ⟨0x20, 1⟩
def E.HBMC_no_spare : Ev := ⟨0x20, 2⟩
def E.HBMC_channel_failed : Ev := ⟨0x20, 3⟩
def E.HBMC_refresh_change : Ev := ⟨0x20, 4⟩
def E.HBMC_counter_overflow : Ev := ⟨0x20, 5⟩
def E.PORT_state_change : Ev := ⟨0x60, 0⟩
def E.PORT_lane_retired : Ev := ⟨0x60, 1⟩
def E.PORT_port_retired : Ev := ⟨0x60, 2⟩
def E.PORT_miswire : Ev := ⟨0x60, 3⟩
def E.PORT_hold : Ev := ⟨0x60, 4⟩
def E.PORT_seal_fail : Ev := ⟨0x60, 5⟩
def E.PORT_counter_overflow : Ev := ⟨0x60, 6⟩
def E.ROUTE_escape : Ev := ⟨0x80, 0⟩
def E.ROUTE_unreachable : Ev := ⟨0x80, 1⟩
def E.ROUTE_reroute : Ev := ⟨0x80, 2⟩
def E.ROUTE_circuit_degraded : Ev := ⟨0x80, 3⟩
def E.ROUTE_bad_packet : Ev := ⟨0x80, 4⟩
def E.ROUTE_counter_overflow : Ev := ⟨0x80, 5⟩
def E.COLL_step_fail : Ev := ⟨0x88, 0⟩
def E.COLL_mismatch : Ev := ⟨0x88, 1⟩
def E.COLL_residue : Ev := ⟨0x88, 2⟩
def E.COLL_engine_retired : Ev := ⟨0x88, 3⟩
def E.COLL_branch_drop : Ev := ⟨0x88, 4⟩
def E.COLL_counter_overflow : Ev := ⟨0x88, 5⟩
def E.DECKLE_queue_error : Ev := ⟨0x8, 0⟩
def E.DECKLE_auth_fail : Ev := ⟨0x8, 1⟩
def E.DECKLE_teardown_escalated : Ev := ⟨0x8, 2⟩
def E.DECKLE_command_timeout : Ev := ⟨0x8, 3⟩
def E.DECKLE_counter_overflow : Ev := ⟨0x8, 4⟩
def E.CLKCTL_droop : Ev := ⟨0x1, 0⟩
def E.CLKCTL_root_lock_loss : Ev := ⟨0x1, 1⟩
def E.CLKCTL_root_switch : Ev := ⟨0x1, 2⟩
def E.CLKCTL_refclk_loss : Ev := ⟨0x1, 3⟩
def E.CLKCTL_gate_refused : Ev := ⟨0x1, 4⟩
def E.CLKCTL_counter_overflow : Ev := ⟨0x1, 5⟩
def E.CALENDER_cap_change : Ev := ⟨0x4, 0⟩
def E.CALENDER_unattainable : Ev := ⟨0x4, 1⟩
def E.CALENDER_thermal : Ev := ⟨0x4, 2⟩
def E.CALENDER_sensor_disagree : Ev := ⟨0x4, 3⟩
def E.CALENDER_leak_wet : Ev := ⟨0x4, 4⟩
def E.CALENDER_leak_fault : Ev := ⟨0x4, 5⟩
def E.CALENDER_deckle_idle : Ev := ⟨0x4, 6⟩
def E.CALENDER_counter_overflow : Ev := ⟨0x4, 7⟩
def E.SENS_stuck : Ev := ⟨0x90, 0⟩
def E.SENS_throttle : Ev := ⟨0x90, 1⟩
def E.SENS_trip : Ev := ⟨0x90, 2⟩
def E.SENS_counter_overflow : Ev := ⟨0x90, 3⟩
def E.RSTCTL_fence : Ev := ⟨0x2, 0⟩
def E.RSTCTL_cd_reset : Ev := ⟨0x2, 1⟩
def E.RSTCTL_pkg_recovery : Ev := ⟨0x2, 2⟩
def E.RSTCTL_suspect : Ev := ⟨0x2, 3⟩
def E.RSTCTL_convicted : Ev := ⟨0x2, 4⟩
def E.RSTCTL_broke_change : Ev := ⟨0x2, 5⟩
def E.RSTCTL_dump : Ev := ⟨0x2, 6⟩
def E.RSTCTL_lock_busy : Ev := ⟨0x2, 7⟩
def E.RSTCTL_counter_overflow : Ev := ⟨0x2, 8⟩
def E.MGT_takeover : Ev := ⟨0x5, 0⟩
def E.MGT_failback : Ev := ⟨0x5, 1⟩
def E.MGT_hb_single : Ev := ⟨0x5, 2⟩
def E.MGT_copy_fail : Ev := ⟨0x5, 3⟩
def E.MGT_unit_failed : Ev := ⟨0x5, 4⟩
def E.MGT_poweroff_notice : Ev := ⟨0x5, 5⟩
def E.MGT_auth_fail : Ev := ⟨0x5, 6⟩
def E.MGT_counter_overflow : Ev := ⟨0x5, 7⟩
def E.NVM_update_done : Ev := ⟨0x6, 0⟩
def E.NVM_update_abandoned : Ev := ⟨0x6, 1⟩
def E.NVM_verify_fail : Ev := ⟨0x6, 2⟩
def E.NVM_cfg_commit : Ev := ⟨0x6, 3⟩
def E.NVM_factory_cfg : Ev := ⟨0x6, 4⟩
def E.NVM_key_change : Ev := ⟨0x6, 5⟩
def E.NVM_counter_overflow : Ev := ⟨0x6, 6⟩

/-- Registers of the MOD_ page (R24). -/
def regsMOD0 : List RegSpec := [
  ⟨0x0, 1, 0x80, 4, 0x0, 0x0, 0, 0x20300224⟩,
  ⟨0x0, 1, 0x84, 4, 0x0, 0x0, 0, 0x8545314⟩,
  ⟨0x0, 1, 0x88, 4, 0x0, 0x0, 0, 0x3000C308⟩,
  ⟨0x0, 1, 0x8C, 4, 0x0, 0x0, 0, 0x8060CFFF⟩,
  ⟨0x0, 1, 0x90, 4, 0x0, 0x0, 0, 0xFFFFFFF⟩,
  ⟨0x0, 1, 0x94, 4, 0x0, 0x0, 0, 0x408010⟩,
  ⟨0x0, 1, 0x98, 4, 0x0, 0x0, 0, 0xF000C8⟩]

/-- Registers of the BEAT_ page (R54). -/
def regsBEAT0 : List RegSpec := [
  ⟨0x3, 1, 0x80, 4, 0x0, 0x0, 0, 0xA⟩,
  ⟨0x3, 1, 0x84, 4, 0x0, 0x0, 0, 0x0⟩,
  ⟨0x3, 1, 0x88, 4, 0x0, 0x0, 0, 0x0⟩,
  ⟨0x3, 1, 0x90, 8, 0x0, 0x0, 0, 0x0⟩]

/-- Registers of the TILE_ page (R92). -/
def regsTILE0 : List RegSpec := [
  ⟨0x30, 48, 0x80, 4, 0x0, 0x0, 0, 0x0⟩,
  ⟨0x30, 48, 0x84, 4, 0x0, 0x0, 0, 0x0⟩,
  ⟨0x30, 48, 0x88, 4, 0x0, 0x0, 0, 0x0⟩,
  ⟨0x30, 48, 0x8C, 4, 0x0, 0x0, 0, 0x0⟩,
  ⟨0x30, 48, 0x90, 4, 0x0, 0x0, 0, 0x0⟩,
  ⟨0x30, 48, 0x94, 4, 0x0, 0x0, 0, 0x0⟩,
  ⟨0x30, 48, 0x98, 4, 0x0, 0x0, 0, 0x0⟩,
  ⟨0x30, 48, 0x9C, 4, 0x0, 0x0, 0, 0x0⟩,
  ⟨0x30, 48, 0xA0, 4, 0xFF, 0x0, 0, 0x0⟩,
  ⟨0x30, 48, 0xA4, 4, 0x0, 0x0, 0, 0x0⟩,
  ⟨0x30, 48, 0xA8, 4, 0x0, 0x0, 0, 0x0⟩,
  ⟨0x30, 48, 0xAC, 4, 0x0, 0x0, 0, 0x0⟩]

/-- Registers of the CHEST_ page (R165). -/
def regsCHEST0 : List RegSpec := [
  ⟨0xA, 1, 0x80, 4, 0xF, 0x0, 0, 0x0⟩,
  ⟨0xA, 1, 0x84, 4, 0x0, 0x0, 2, 0x0⟩,
  ⟨0xA, 1, 0x88, 4, 0x0, 0x0, 2, 0x0⟩,
  ⟨0xA, 1, 0x8C, 4, 0xFFFFFF, 0x0, 2, 0x0⟩,
  ⟨0xA, 1, 0x90, 4, 0x0, 0x0, 0, 0x0⟩]

/-- Registers of the SCREEN_ page (R168). -/
def regsSCREEN0 : List RegSpec := [
  ⟨0x10, 12, 0x80, 4, 0x1F, 0x0, 0, 0x8⟩,
  ⟨0x10, 12, 0x84, 4, 0x0, 0x0, 0, 0x0⟩]

/-- Registers of the HEADBOX_ page (R195). -/
def regsHEADBOX0 : List RegSpec := [
  ⟨0x9, 1, 0x80, 4, 0xF, 0x0, 0, 0x0⟩,
  ⟨0x9, 1, 0x84, 4, 0xFFFFFF, 0x0, 2, 0x1000⟩,
  ⟨0x9, 1, 0x88, 4, 0x3FFF, 0x0, 2, 0x10⟩,
  ⟨0x9, 1, 0x8C, 4, 0xFF, 0x0, 2, 0x20⟩,
  ⟨0x9, 1, 0x90, 4, 0xFFFFFF01, 0x0, 2, 0x40000⟩,
  ⟨0x9, 1, 0x98, 8, 0xFFFFFFFFFFFF, 0x0, 2, 0x0⟩,
  ⟨0x9, 1, 0xA0, 4, 0x1F, 0x0, 2, 0x0⟩,
  ⟨0x9, 1, 0xA8, 8, 0x0, 0x0, 2, 0x0⟩]

/-- Registers of the HBMC_ page (R218). -/
def regsHBMC0 : List RegSpec := [
  ⟨0x20, 12, 0x80, 4, 0x0, 0x0, 0, 0x0⟩,
  ⟨0x20, 12, 0x84, 4, 0x0, 0x0, 0, 0x0⟩,
  ⟨0x20, 12, 0x88, 4, 0xFF, 0x0, 0, 0x18⟩,
  ⟨0x20, 12, 0x8C, 4, 0xFF0000, 0x0, 0, 0x100003⟩,
  ⟨0x20, 12, 0x90, 4, 0x0, 0x80000000, 0, 0x0⟩]

/-- Registers of the PORT_ page (R241). -/
def regsPORT0 : List RegSpec := [
  ⟨0x60, 26, 0x80, 4, 0x4, 0x0, 0, 0x4⟩,
  ⟨0x60, 26, 0x84, 4, 0x0, 0x0, 0, 0x0⟩,
  ⟨0x60, 26, 0x88, 4, 0x0, 0x0, 0, 0x0⟩,
  ⟨0x60, 26, 0x8C, 4, 0x0, 0x0, 0, 0x0⟩,
  ⟨0x60, 26, 0x90, 8, 0x0, 0x0, 0, 0x0⟩,
  ⟨0x60, 26, 0x98, 4, 0x0, 0x0, 0, 0x0⟩,
  ⟨0x60, 26, 0x9C, 4, 0x0, 0x80000000, 0, 0x0⟩,
  ⟨0x60, 26, 0xA0, 4, 0x0, 0x0, 0, 0x0⟩,
  ⟨0x60, 26, 0xA4, 4, 0xFFFF, 0x0, 0, 0x3E8⟩,
  ⟨0x60, 26, 0xA8, 4, 0x0, 0x0, 0, 0x0⟩,
  ⟨0x60, 26, 0xAC, 4, 0x1FFFFF, 0x0, 0, 0x0⟩]

/-- Registers of the ROUTE_ page (R270). -/
def regsROUTE0 : List RegSpec := [
  ⟨0x80, 2, 0x80, 4, 0x0, 0x0, 0, 0xFFFF⟩,
  ⟨0x80, 2, 0x84, 4, 0x0, 0x0, 0, 0xF⟩,
  ⟨0x80, 2, 0x88, 4, 0x0, 0x0, 0, 0x10306060⟩,
  ⟨0x80, 2, 0x8C, 4, 0x0, 0x0, 0, 0x80⟩,
  ⟨0x80, 2, 0x90, 4, 0xFFFF, 0x0, 0, 0x0⟩,
  ⟨0x80, 2, 0x94, 4, 0x0, 0x0, 0, 0x0⟩,
  ⟨0x80, 2, 0x98, 4, 0x1FFF, 0x0, 0, 0x0⟩,
  ⟨0x80, 2, 0x9C, 4, 0x0, 0x0, 0, 0x0⟩,
  ⟨0x80, 2, 0xA0, 4, 0x0, 0x0, 0, 0x4000⟩,
  ⟨0x80, 2, 0xA4, 4, 0xFFFF, 0x0, 0, 0xFFFF0040⟩,
  ⟨0x80, 2, 0xA8, 4, 0x0, 0x80000000, 0, 0x0⟩]

/-- Registers of the COLL_ page (R302). -/
def regsCOLL0 : List RegSpec := [
  ⟨0x88, 2, 0x80, 4, 0x1FFFF, 0x0, 0, 0xC350⟩,
  ⟨0x88, 2, 0x84, 4, 0x0, 0x0, 0, 0xFF⟩,
  ⟨0x88, 2, 0x88, 4, 0x0, 0x0, 0, 0x200⟩,
  ⟨0x88, 2, 0x90, 4, 0xFF, 0x0, 0, 0x0⟩,
  ⟨0x88, 2, 0x94, 4, 0x0, 0x0, 0, 0x0⟩,
  ⟨0x88, 2, 0x98, 4, 0x0, 0x80000000, 0, 0x0⟩,
  ⟨0x88, 2, 0x9C, 4, 0x0, 0x0, 0, 0x0⟩]

/-- Registers of the DECKLE_ page (R333). -/
def regsDECKLE0 : List RegSpec := [
  ⟨0x8, 1, 0x80, 4, 0xF, 0x0, 0, 0x0⟩,
  ⟨0x8, 1, 0x84, 4, 0x0, 0x0, 2, 0x0⟩,
  ⟨0x8, 1, 0x88, 8, 0x0, 0x0, 2, 0x0⟩,
  ⟨0x8, 1, 0x90, 4, 0x0, 0x0, 2, 0x0⟩,
  ⟨0x8, 1, 0x94, 4, 0x0, 0x0, 2, 0x0⟩,
  ⟨0x8, 1, 0x98, 4, 0xFFFFF, 0x0, 2, 0x30D40⟩,
  ⟨0x8, 1, 0x9C, 4, 0xFFFFFF, 0x0, 2, 0x640A⟩,
  ⟨0x8, 1, 0xA0, 8, 0xFFFFFFFFFFFFF, 0x0, 2, 0x0⟩]

/-- Registers of the CXLP_ page (R336). -/
def regsCXLP0 : List RegSpec := [
  ⟨0x7, 1, 0x80, 4, 0x0, 0x0, 0, 0x0⟩,
  ⟨0x7, 1, 0x84, 4, 0x0, 0x0, 0, 0x0⟩,
  ⟨0x7, 1, 0x88, 4, 0x0, 0x0, 0, 0x0⟩,
  ⟨0x7, 1, 0x8C, 4, 0x0, 0x0, 0, 0x0⟩,
  ⟨0x7, 1, 0x90, 4, 0x0, 0x0, 0, 0x0⟩,
  ⟨0x7, 1, 0x94, 4, 0x3, 0x0, 0, 0x0⟩,
  ⟨0x7, 1, 0x98, 8, 0xFFFFFFFFFFFFF, 0x0, 3, 0x0⟩]

/-- Registers of the CLKCTL_ page (R375). -/
def regsCLKCTL0 : List RegSpec := [
  ⟨0x1, 1, 0x80, 4, 0x0, 0x0, 0, 0x0⟩,
  ⟨0x1, 1, 0x84, 4, 0x27, 0x0, 0, 0x10⟩,
  ⟨0x1, 1, 0x88, 4, 0x0, 0x0, 0, 0x44444⟩,
  ⟨0x1, 1, 0x90, 8, 0xFFFFFFFFFFFF, 0x0, 0, 0x0⟩,
  ⟨0x1, 1, 0x98, 4, 0xFFF0FFF, 0x0, 0, 0x0⟩,
  ⟨0x1, 1, 0x9C, 4, 0x3FFFFFF, 0x0, 0, 0x0⟩,
  ⟨0x1, 1, 0xA0, 4, 0x7FFF, 0x0, 0, 0x0⟩]

/-- Registers of the CALENDER_ page (R401). -/
def regsCALENDER0 : List RegSpec := [
  ⟨0x4, 1, 0x80, 4, 0x0, 0x0, 0, 0xBB8⟩,
  ⟨0x4, 1, 0x84, 4, 0xF, 0x0, 0, 0x5DCBB804⟩,
  ⟨0x4, 1, 0x88, 4, 0x0, 0x0, 0, 0x4221⟩,
  ⟨0x4, 1, 0x8C, 4, 0x0, 0x0, 0, 0x0⟩,
  ⟨0x4, 1, 0x90, 4, 0x0, 0x0, 0, 0x0⟩,
  ⟨0x4, 1, 0x94, 4, 0x0, 0x0, 0, 0xFFFF02⟩,
  ⟨0x4, 1, 0x98, 4, 0xFFFF, 0x0, 0, 0x400⟩,
  ⟨0x4, 1, 0xA0, 8, 0x0, 0x0, 0, 0x0⟩,
  ⟨0x4, 1, 0xA8, 8, 0x0, 0x0, 0, 0xFFFFFFFF⟩,
  ⟨0x4, 1, 0xB0, 4, 0x0, 0x0, 0, 0x0⟩,
  ⟨0x4, 1, 0x100, 4, 0xFFF, 0x0, 0, 0x0⟩,
  ⟨0x4, 1, 0x104, 4, 0xFFF, 0x0, 0, 0x0⟩,
  ⟨0x4, 1, 0x108, 4, 0xFFF, 0x0, 0, 0x0⟩,
  ⟨0x4, 1, 0x10C, 4, 0xFFF, 0x0, 0, 0x0⟩,
  ⟨0x4, 1, 0x110, 4, 0xFFF, 0x0, 0, 0x0⟩,
  ⟨0x4, 1, 0x114, 4, 0xFFF, 0x0, 0, 0x0⟩,
  ⟨0x4, 1, 0x118, 4, 0xFFF, 0x0, 0, 0x0⟩,
  ⟨0x4, 1, 0x11C, 4, 0xFFF, 0x0, 0, 0x0⟩,
  ⟨0x4, 1, 0x120, 4, 0xFFF, 0x0, 0, 0x0⟩,
  ⟨0x4, 1, 0x124, 4, 0xFFF, 0x0, 0, 0x0⟩]

/-- Registers of the CALENDER_ page (R401). -/
def regsCALENDER1 : List RegSpec := [
  ⟨0x4, 1, 0x128, 4, 0xFFF, 0x0, 0, 0x0⟩,
  ⟨0x4, 1, 0x12C, 4, 0xFFF, 0x0, 0, 0x0⟩,
  ⟨0x4, 1, 0x130, 4, 0xFFF, 0x0, 0, 0x0⟩,
  ⟨0x4, 1, 0x134, 4, 0xFFF, 0x0, 0, 0x0⟩,
  ⟨0x4, 1, 0x138, 4, 0xFFF, 0x0, 0, 0x0⟩,
  ⟨0x4, 1, 0x13C, 4, 0xFFF, 0x0, 0, 0x0⟩,
  ⟨0x4, 1, 0x140, 4, 0x7FF, 0x0, 0, 0x0⟩,
  ⟨0x4, 1, 0x144, 4, 0x0, 0x0, 0, 0x0⟩]

/-- Registers of the SENS_ page (R404). -/
def regsSENS0 : List RegSpec := [
  ⟨0x90, 7, 0x80, 4, 0x3F, 0x0, 0, 0x0⟩,
  ⟨0x90, 7, 0x84, 4, 0x0, 0x0, 0, 0x0⟩,
  -- throttle and trip limits of the compute dies, then of the I/O dies and the control die (R393)
  ⟨0x90, 4, 0x88, 4, 0x0, 0x0, 0, 0x73690000⟩,
  ⟨0x94, 3, 0x88, 4, 0x0, 0x0, 0, 0x6E640000⟩,
  ⟨0x90, 4, 0x90, 4, 0xF, 0x0, 0, 0x6⟩]

/-- Registers of the RSTCTL_ page (R355, R428, R492). -/
def regsRSTCTL0 : List RegSpec := [
  ⟨0x2, 1, 0x80, 4, 0x0, 0x0, 0, 0x0⟩,
  ⟨0x2, 1, 0x84, 4, 0x0, 0x0, 0, 0x0⟩,
  ⟨0x2, 1, 0x88, 4, 0x1FFFF, 0x0, 0, 0x103E8⟩,
  ⟨0x2, 1, 0x8C, 4, 0x0, 0x0, 0, 0x0⟩,
  ⟨0x2, 1, 0x90, 4, 0x0, 0x0, 0, 0x0⟩,
  ⟨0x2, 1, 0x94, 4, 0x3FFF, 0x0, 1, 0x0⟩,
  ⟨0x2, 1, 0x98, 8, 0x0, 0x0, 1, 0x0⟩,
  ⟨0x2, 1, 0xA0, 8, 0x0, 0x0, 1, 0x0⟩,
  ⟨0x2, 1, 0xA8, 4, 0x0, 0x80000000, 0, 0x0⟩,
  ⟨0x2, 1, 0xAC, 4, 0x0, 0x0, 0, 0x0⟩,
  ⟨0x2, 1, 0x840, 4, 0x3FFFF, 0x0, 1, 0x0⟩,
  ⟨0x2, 1, 0x848, 8, 0x0, 0x0, 1, 0x0⟩,
  ⟨0x2, 1, 0xB0, 4, 0x0, 0x0, 0, 0x0⟩,
  ⟨0x2, 1, 0x800, 8, 0x0, 0x0, 0, 0x0⟩,
  ⟨0x2, 1, 0x808, 4, 0xFFF, 0x0, 1, 0x0⟩,
  ⟨0x2, 1, 0x810, 8, 0x0, 0x0, 1, 0x0⟩,
  ⟨0x2, 1, 0x818, 8, 0x0, 0x0, 1, 0x0⟩,
  ⟨0x2, 1, 0x820, 8, 0x0, 0x0, 1, 0x0⟩,
  ⟨0x2, 1, 0x828, 8, 0x0, 0x0, 1, 0x0⟩]

/-- Registers of the MGT_ page (R453). -/
def regsMGT0 : List RegSpec := [
  ⟨0x5, 1, 0x80, 4, 0x0, 0x0, 0, 0x18⟩,
  ⟨0x5, 1, 0x84, 4, 0x0, 0x0, 0, 0x10000⟩,
  ⟨0x5, 1, 0x88, 4, 0x0, 0x0, 0, 0x0⟩,
  ⟨0x5, 1, 0x8C, 4, 0x0, 0x0, 0, 0xA⟩,
  ⟨0x5, 1, 0x90, 4, 0x0, 0x0, 0, 0x11⟩,
  ⟨0x5, 1, 0x94, 4, 0x0, 0x0, 0, 0x0⟩]

/-- Registers of the NVM_ page (R476). -/
def regsNVM0 : List RegSpec := [
  ⟨0x6, 1, 0x80, 4, 0x0, 0x0, 0, 0x0⟩,
  ⟨0x6, 1, 0x84, 4, 0x0, 0x0, 0, 0x0⟩,
  ⟨0x6, 1, 0x88, 4, 0xFFFFFFF, 0x0, 0, 0x0⟩,
  ⟨0x6, 1, 0x8C, 4, 0xFFFFFF, 0x0, 0, 0x0⟩,
  ⟨0x6, 1, 0x90, 4, 0x3, 0x0, 0, 0x0⟩,
  ⟨0x6, 1, 0x94, 4, 0x0, 0x0, 0, 0x0⟩,
  ⟨0x6, 1, 0x100, 4, 0x7, 0x0, 1, 0x0⟩,
  ⟨0x6, 1, 0x160, 4, 0x1FFF, 0x0, 1, 0x0⟩,
  ⟨0x6, 1, 0x108, 8, 0x0, 0x0, 1, 0x0⟩,
  ⟨0x6, 1, 0x110, 8, 0x0, 0x0, 1, 0x0⟩,
  ⟨0x6, 1, 0x118, 8, 0x0, 0x0, 1, 0x0⟩,
  ⟨0x6, 1, 0x120, 8, 0x0, 0x0, 1, 0x0⟩,
  ⟨0x6, 1, 0x140, 8, 0xFFFFFFFFFFFFFFFF, 0x0, 0, 0x0⟩,
  ⟨0x6, 1, 0x148, 8, 0xFFFFFFFFFFFFFFFF, 0x0, 0, 0x0⟩,
  ⟨0x6, 1, 0x150, 8, 0xFFFFFFFFFFFFFFFF, 0x0, 0, 0x0⟩,
  ⟨0x6, 1, 0x158, 8, 0xFFFFFFFFFFFFFFFF, 0x0, 0, 0x0⟩,
  ⟨0x6, 1, 0x168, 8, 0x0, 0x0, 1, 0x0⟩]

/-- Every register with a named field (NVM_WIN and ROUTE_CMAP_LAST, arrays of words, are served apart). -/
def regTable : List RegSpec :=
  regsMOD0 ++ regsBEAT0 ++ regsTILE0 ++ regsCHEST0 ++ regsSCREEN0 ++ regsHEADBOX0 ++ regsHBMC0 ++ regsPORT0 ++ regsROUTE0 ++ regsCOLL0 ++ regsDECKLE0 ++ regsCXLP0 ++ regsCLKCTL0 ++ regsCALENDER0 ++ regsCALENDER1 ++ regsSENS0 ++ regsRSTCTL0 ++ regsMGT0 ++ regsNVM0

/-- Number of statistics counters on a block page and the offset of the first (CNT_INFO, R342): first page,
number of pages, count, first. -/
def counterPages : List (Nat × Nat × Nat × Nat) := [
  (0x1, 1, 5, 0xC0),
  (0x2, 1, 9, 0xC0),
  (0x3, 1, 7, 0xA0),
  (0x4, 1, 6, 0xC0),
  (0x5, 1, 6, 0xC0),
  (0x6, 1, 4, 0xC0),
  (0x7, 1, 4, 0xC0),
  (0x8, 1, 7, 0xC0),
  (0x9, 1, 8, 0xC0),
  (0xA, 1, 6, 0xC0),
  (0x10, 12, 5, 0xC0),
  (0x20, 12, 6, 0xC0),
  (0x30, 48, 5, 0xC0),
  (0x60, 26, 9, 0xC0),
  (0x80, 2, 9, 0xC0),
  (0x88, 2, 8, 0xC0),
  (0x90, 7, 2, 0xC0)]

end Sys2Proof.Machine
end

