-- ==== Sys2Proof/Machine/Sparse.lean ====
section
/-! DEFINITION. Sparse maps as plain data: a list of key and value pairs in ONE canonical form (keys strictly
rising, no entry equal to what its key reads as when unlisted), so that equal maps are equal lists. Every memory
and every numbered resource of the module is one. -/

namespace Sys2Proof.Machine

/-- A sparse map: listed keys and their values. -/
abbrev Sparse (α : Type) := List (Nat × α)

/-- The value at a key; `d` is what an unlisted key reads as. -/
def Sparse.get {α : Type} (d : Nat → α) : Sparse α → Nat → α
  | [], k => d k
  | (k', v) :: r, k => if k = k' then v else Sparse.get d r k

/-- The map without a key. -/
def Sparse.unlist {α : Type} : Sparse α → Nat → Sparse α
  | [], _ => []
  | (k', v) :: r, k => if k' = k then Sparse.unlist r k else (k', v) :: Sparse.unlist r k

/-- A key listed with its value, before the first key above it. -/
def Sparse.enlist {α : Type} : Sparse α → Nat → α → Sparse α
  | [], k, v => [(k, v)]
  | (k', v') :: r, k, v => if k < k' then (k, v) :: (k', v') :: r else (k', v') :: Sparse.enlist r k v

/-- The map with a key's value replaced, in canonical form. -/
def Sparse.set {α : Type} [DecidableEq α] (d : Nat → α) (m : Sparse α) (k : Nat) (v : α) : Sparse α :=
  if v = d k then m.unlist k else (m.unlist k).enlist k v

/-- The map with every key for which `p` holds back at its unlisted value. -/
def Sparse.clear {α : Type} (p : Nat → Bool) (m : Sparse α) : Sparse α := m.filter fun kv => !p kv.1

/-- The map with every listed value changed, in canonical form. -/
def Sparse.mapVals {α : Type} [DecidableEq α] (d : Nat → α) (f : Nat → α → α) (m : Sparse α) : Sparse α :=
  (m.map fun p => (p.1, f p.1 p.2)).filter fun p => decide (p.2 ≠ d p.1)

/-- Canonical form from a lowest key on. -/
def Sparse.wfFrom {α : Type} [DecidableEq α] (d : Nat → α) : Nat → Sparse α → Bool
  | _, [] => true
  | lo, (k, v) :: r => decide (lo ≤ k) && decide (v ≠ d k) && Sparse.wfFrom d (k + 1) r

/-- The map is in canonical form. -/
def Sparse.wf {α : Type} [DecidableEq α] (d : Nat → α) (m : Sparse α) : Bool := Sparse.wfFrom d 0 m

/-- `n` consecutive values from key `a` on. -/
def Sparse.getRange {α : Type} (d : Nat → α) (m : Sparse α) : Nat → Nat → List α
  | _, 0 => []
  | a, n + 1 => m.get d a :: Sparse.getRange d m (a + 1) n

/-- Values written to consecutive keys from `a` on. -/
def Sparse.setRange {α : Type} [DecidableEq α] (d : Nat → α) : Sparse α → Nat → List α → Sparse α
  | m, _, [] => m
  | m, a, v :: r => Sparse.setRange d (m.set d a v) (a + 1) r

/-- Little-endian value of bytes (R8). -/
def leNat : List Byte → Nat
  | [] => 0
  | b :: r => b.toNat + 256 * leNat r

/-- `n` bytes of a value, little-endian (R8). -/
def leBytes : Nat → Nat → List Byte
  | 0, _ => []
  | n + 1, v => BitVec.ofNat 8 v :: leBytes n (v / 256)

/-- Bits [lo + w - 1 : lo] of a number. -/
def bits (v lo w : Nat) : Nat := v / 2 ^ lo % 2 ^ w

/-- A number with bits [lo + w - 1 : lo] replaced. -/
def setBits (v lo w x : Nat) : Nat := v - bits v lo w * 2 ^ lo + x % 2 ^ w * 2 ^ lo

/-- Bits of the 32- or 64-bit little-endian field at a byte offset of a record. -/
def fieldAt (rec : List Byte) (off lo w : Nat) : Nat := bits (leNat ((rec.drop off).take 8)) lo w

end Sys2Proof.Machine
end

