-- ==== Sys2Proof/Machine/Types.lean ====
section
/-! DEFINITION. The parts of the machine's state, family by family, as plain data. -/

namespace Sys2Proof.Machine

/-- A memory: listed addresses and their bytes. -/
abbrev Memory := Sparse Byte

/-- The memory is in canonical form, with `blank` what an unlisted address reads as. -/
def Memory.wf (blank : Byte) (m : Memory) : Bool := Sparse.wf (fun _ => blank) m

/-! Fault records and the broke map (R353, R408). -/

/-- A fault record (R353). -/
structure FaultRec where
  status : Nat
  block : Nat
  inst : Nat
  vtile : Nat
  tile : Nat
  beat : Word
  ctx : Option Nat
  deckle : Nat
  kind : Nat
  a : Nat
  b : Nat
deriving DecidableEq, Repr

/-- A broke-map entry (R408). -/
structure Broke where
  kind : Nat
  loc : Nat
  retired : Bool
  factory : Bool
  cause : Nat
  boot : Nat
  beat : Nat
deriving DecidableEq, Repr

/-- A change of the broke map waiting for step 3 of the boundary (R409): an entry made, or one removed. -/
inductive BrokeChange
  | add (e : Broke)
  | remove (kind loc : Nat)
deriving DecidableEq, Repr

/-- A maintenance lock held (R352, R424). -/
structure Lock where
  cls : Nat
  inst : Nat
  holderKind : Nat
  holder : Nat
  tag : Nat
  since : Nat
deriving DecidableEq, Repr

/-! Tiles (R58, R62, R84-R92). -/

/-- TILE_STATE.state (R92). -/
inductive TileState
  | idle
  | running
  | draining
  | fenced
  | retired
deriving DecidableEq, Repr

def TileState.code : TileState → Nat
  | .idle => 0
  | .running => 1
  | .draining => 2
  | .fenced => 3
  | .retired => 4

/-- Why the sequencer does not go on (R69). -/
inductive Blocked
  | no
  | wait
  | fence
  | issue
  | miss
  | ended
  | faulted
deriving DecidableEq, Repr

/-- A write to another module that is followed to its remote completion (R129): its pair, the channel's number in the pair, its
pair_seq, and how often the pair had started afresh. -/
structure RWrite where
  iod : Nat
  dst : Nat
  vc : Nat
  seq : Nat
  flagged : Bool
  gen : Nat
deriving DecidableEq, Repr

/-- A burst of a DMA descriptor (R82): spaces, selectors, addresses, size; a fill has a pattern and no source. -/
structure Burst where
  src : Nat
  ssel : Nat
  saddr : Nat
  dst : Nat
  dsel : Nat
  daddr : Nat
  size : Nat
  vc : Nat
  flagged : Bool
  fill : Option Word
deriving DecidableEq, Repr

/-- A descriptor in an engine queue (R65): its 64 bytes, the offset of its ISSUE, whether it has started, whether its
engine has acted, and, for DMA, the bursts not yet issued, the number in flight, whether it waits for arena space
(R150), and the pair_seq of the WRITE packet its last burst went into (R250). -/
structure QDesc where
  bytes : List Byte
  off : Nat
  started : Bool
  acted : Bool
  bursts : List Burst
  flying : Nat
  waiting : Bool
  pkt : Option Nat
deriving DecidableEq, Repr

/-- A DMA burst in flight (R509). -/
structure Flight where
  id : Nat
  queue : Nat
  b : Burst
deriving DecidableEq, Repr

/-- A line of the L1 (R58, R122): its address in the deckle's local HBM, its bytes, the mask of dirty bytes. -/
structure Line where
  addr : Nat
  data : List Byte
  mask : BitVec 128
deriving DecidableEq, Repr

/-- A program fetched ahead for the sheet that is next (R63): context index, sheet instance, the words, and the
failure of the fetch if it failed (status and address). -/
structure Fetched where
  ctx : Nat
  q : Nat
  sheet : Nat
  prog : List Word
  fail : Option (Nat × Nat)
deriving DecidableEq, Repr

/-- A tile (R58). `running` and `draining` name a sheet by context, sequence number and sheet index. General register n is key n of `g`, token n key n of `t`, word (row, column) of accumulator set a
key 256 a + 16 row + column of `acc`; queue key 0 is the matrix queue, 1 the vector queue, 2-9 q0-q7. The first
line of `l1` is the most recently used. -/
structure Tile where
  state : TileState
  bind : Option (Nat × Nat)
  running : Option (Nat × Nat × Nat)
  next : Option Fetched
  pc : Nat
  g : Sparse Word
  stack : List Nat
  t : Sparse Nat
  acc : Sparse (BitVec 32)
  prog : List Word
  blocked : Blocked
  queues : Sparse (List QDesc)
  flights : List Flight
  flightId : Nat
  rotor : Nat
  dmaStop : Bool
  l1 : List Line
  flags : Flags
  sm : Stream
  sv : Stream
  remote : List RWrite
  behind : Nat
  t0banks : Nat
  errFences : Nat
  hangs : Nat
  draining : Option (Nat × Nat × Nat)
  selfTest : Bool
  /-- software fenced it, and the lock of its group is held until it has drained (R411) -/
  asked : Bool
  /-- writes to other modules by the tile's earlier sheets, not known to be remote-complete (R128) -/
  earlier : List RWrite
  /-- it was not FENCED within 2 us of its fence (R90) -/
  overdue : Bool
  /-- units of engine writes not yet in place (R121), oldest first: queue key of the engine, address, bytes -/
  landing : List (Nat × Nat × List Byte)
deriving DecidableEq, Repr

/-- A tile after power-on (R62, R92, R413). -/
def Tile.reset : Tile where
  state := .idle
  bind := none
  running := none
  next := none
  pc := 0
  g := []
  stack := []
  t := []
  acc := []
  prog := []
  blocked := .no
  queues := []
  flights := []
  flightId := 0
  rotor := 0
  dmaStop := false
  l1 := []
  flags := 0
  sm := ⟨0, []⟩
  sv := ⟨0, []⟩
  remote := []
  behind := 0
  t0banks := 0
  errFences := 0
  hangs := 0
  draining := none
  selfTest := false
  asked := false
  earlier := []
  overdue := false
  landing := []

/-! Reams, sheets and contexts (R37-R49, R173, R330). -/

/-- A region table entry (R38). -/
structure Region where
  base : Nat
  space : Nat
  static : Bool
  ext : Bool
  len : Nat
  sel : Nat
  rctx : Nat
  rregion : Nat
  slot : Nat
  writers : Nat
deriving DecidableEq, Repr

/-- A region reference (R39). -/
structure Ref where
  region : Nat
  dir : Nat
  lag : Nat
  off : Nat
  len : Nat
deriving DecidableEq, Repr

/-- A sheet record (R39). -/
structure Sheet where
  acc : Bool
  pin : Bool
  vtile : Nat
  rbeat : Nat
  cycles : Nat
  phase : Nat
  affinity : Nat
  code : Nat
  codeLen : Nat
  seed : Word
  refs : List Ref
deriving DecidableEq, Repr

/-- A collective table entry (R276). -/
structure CollEntry where
  op : Nat
  red : Nat
  dtype : Nat
  fixed : Bool
  zcopy : Bool
  rbeat : Nat
  span : Nat
  group : Nat
  count : Nat
  inRegion : Nat
  inLag : Nat
  inOff : Nat
  outRegion : Nat
  outOff : Nat
  arg : Nat
  timeout : Nat
  ctag : Nat
deriving DecidableEq, Repr

/-- A ream (R37). -/
structure Ream where
  length : Nat
  rep : Nat
  nv : Nat
  waitLimit : Nat
  regions : List Region
  sheets : List Sheet
  colls : List CollEntry
deriving DecidableEq, Repr

/-- State of a sheet that is due and has not published (R44, R45, R49). -/
inductive InstState
  | due
  | running
  | complete
  | lost
deriving DecidableEq, Repr

/-- A sheet instance: absolute sequence number q (its sequence number is q mod 2^32), index of its sheet, beats it has
been due without starting (R52), boundaries since it fell due, overrun counted (R50), flag byte (R114), remote writes (R46). -/
structure Inst where
  q : Nat
  sheet : Nat
  st : InstState
  waited : Nat
  age : Nat
  counted : Bool
  flags : Flags
  writes : List RWrite
deriving DecidableEq, Repr

/-- Stamp notices to be sent for a published sheet (R46): the I/O die that sends them, the peer regions it wrote. -/
structure NoticeDue where
  q : Nat
  iod : Nat
  peers : List Region
  writes : List RWrite
deriving DecidableEq, Repr

/-- Context states (R330), in the codes of R423. -/
inductive CtxState
  | free
  | idle
  | loaded
  | running
  | stopping
  | stopped
  | faulted
  | suspect
  | teardown
deriving DecidableEq, Repr

def CtxState.code : CtxState → Nat
  | .free => 0
  | .idle => 1
  | .loaded => 2
  | .running => 3
  | .stopping => 4
  | .stopped => 5
  | .faulted => 6
  | .suspect => 7
  | .teardown => 8

/-- A binding decided at a freeze point, applied at step 3 of the next boundary (R171, R177-R179): virtual tile, the tile it
had, the tile it gets, the cause in the journal's code (R189). With no new tile it is a fence for which none is chosen yet. -/
structure Place where
  v : Nat
  old : Option Nat
  new : Option Nat
  cause : Nat
deriving DecidableEq, Repr

/-- A region range of space 0x1 lost with a tile (R49): the virtual tile, and the ranges written since. -/
structure LostTile where
  v : Nat
  since : List (Nat × Nat)
deriving DecidableEq, Repr

/-! The chest (R140-R161, R182-R191). -/

/-- A chest block: the descriptor's fields (R140), its stored bytes, its summary (R151, empty for recurrent blocks),
where a T0 copy is held (virtual tile), the T2 lender that holds it (endpoint, lend tag), the beats in which virtual
tiles read it (R183), and errors found in its data and its summary (R164). -/
structure Block where
  valid : Bool
  kind : Nat
  enc : Nat
  xenc : Nat
  hd : Nat
  tier : Nat
  t0 : Option Nat
  pin : Bool
  unbounded : Bool
  wgen : Nat
  firstTok : Nat
  slab : Nat
  nres : Nat
  errTarget : Nat
  errMax : Nat
  uses : Nat
  lastBeat : Nat
  data : List Byte
  summary : List Byte
  lender : Option (Nat × Nat)
  reads : List (Nat × Nat)
  bad : Bool
  badSummary : Bool
  /-- an error found in the first or the second copy of its descriptor, not yet rewritten (R164) -/
  bad1 : Bool
  bad2 : Bool
deriving DecidableEq, Repr

/-- A block move of the headbox (R183-R186): destination tier, virtual tile for T0, cause (R189), pin when it ends; decided
at a freeze point, and started at the boundary after it. -/
structure Move where
  block : Nat
  tier : Nat
  v : Nat
  cause : Nat
  pin : Bool
  decided : Bool
  started : Bool
  /-- beat of its trigger, and its place among the moves proposed in one beat (R183) -/
  since : Nat
  ord : Nat
  /-- the T2 lender a demotion goes to: endpoint, lend tag -/
  lender : Option (Nat × Nat)
deriving DecidableEq, Repr

/-- A move that HEADBOX_PIN or HEADBOX_MOVE asked for. -/
def Move.command (m : Move) : Bool := m.cause == 4 || m.cause == 5

/-- A screen query in progress (R153): tile, queue, and the record. -/
structure Query where
  tile : Nat
  queue : Nat
  record : List Byte
deriving DecidableEq, Repr

/-! Collective groups and steps (R273-R301). -/

/-- A group registered on a context (R273). -/
structure Group where
  id : Nat
  rank : Nat
  /-- ep0, ep1, ctx, tree of each rank -/
  members : List (Nat × Nat × Nat × Nat)
  hash : Word
deriving DecidableEq, Repr

/-- Step states (R286). -/
inductive StepState
  | wait
  | hash
  | run
  | complete
deriving DecidableEq, Repr

/-- A slice of a contribution at its owner (R289). -/
structure Slice where
  pass : Nat
  rank : Nat
  addr : Nat
  data : List Byte
deriving DecidableEq, Repr

/-- An open collective step (R280-R295). `fresh` while the beat at whose start it fell due runs; `waited` as for a sheet; `age`
counts beats since HASH. -/
structure Step where
  q : Nat
  entry : Nat
  st : StepState
  fresh : Bool
  waited : Nat
  age : Nat
  hash : Word
  /-- rank 0: hashes and DONEs held -/
  hashes : List (Nat × Word)
  dones : List Nat
  /-- contributions held at this member -/
  slices : List Slice
  /-- pass of each chunk that has left pass 0, and chunks whose results are out -/
  passes : Sparse Nat
  finished : List Nat
  /-- bytes of the output range placed, by the rank they came from -/
  placedBy : Sparse Nat
  doneSent : Bool
  flags : Flags
  /-- highest outstanding result packets of this member -/
  sent : List RWrite
  /-- chunks that an engine holds, with the mode they started in, true for zero copy (R288, R295) -/
  holding : List (Nat × Bool)
  /-- slices finished of a chunk in zero-copy mode (R295) -/
  sliceAt : Sparse Nat
  /-- contributions in the order they reached the engine in pass 0: address, rank (R291, R294) -/
  order : List (Nat × Nat)
deriving DecidableEq, Repr

/-! Contexts (R330). -/

/-- A context index. `gen` is the generation of the handle last issued, 0 when none was (R330). -/
structure Ctx where
  gen : Nat
  st : CtxState
  deckle : Nat
  ream : Option Ream
  cursor : Nat
  /-- sheets at the cursor have fallen due at least once -/
  primed : Bool
  /-- CTX_START accepted, binding not yet decided: the state it started from -/
  startFrom : Option CtxState
  /-- CTX_STOP asked for release -/
  release : Bool
  insts : List Inst
  steps : List Step
  notices : List NoticeDue
  /-- slot values of ext regions: region, slot, sequence number (R47) -/
  ext : List (Nat × Nat × Nat)
  bind : List (Nat × Nat)
  places : List Place
  lostTiles : List LostTile
  flags : Flags
  overruns : Nat
  lastStatus : Nat
  marker : Option Nat
  groups : List Group
  blocks : Sparse (Option Block)
  moves : List Move
  /-- blocks that a use asks to promote, with the beat of the trigger (R183) -/
  promote : List (Nat × Nat)
  /-- T0 copies to be dropped at step 3 of the next boundary (R171): block, virtual tile -/
  drops : List (Nat × Nat)
  queries : List Query
  /-- entries that HEADBOX_REPLAY gave for the next ream (R191) -/
  replay : Option (List (List Byte))
  /-- the ream runs in replay, and the entries not yet applied -/
  inReplay : Bool
  journal : List (List Byte)
  /-- writes to other modules awaited by a teardown (R331) -/
  away : List RWrite
  /-- the teardown has marked the generation dead at both I/O dies (R331) -/
  revoked : Bool
  /-- milliseconds at which the index became free (R330), at which its teardown began, and at which the local drain ended (R331) -/
  freedAt : Option Nat
  torn : Nat
  drainedAt : Option Nat
  /-- low words of the hashes of steps for which ABORT has been sent (R298) -/
  aborts : List Nat
deriving DecidableEq, Repr

def Ctx.reset : Ctx where
  gen := 0
  st := .free
  deckle := 0
  ream := none
  cursor := 0
  primed := false
  startFrom := none
  release := false
  insts := []
  steps := []
  notices := []
  ext := []
  bind := []
  places := []
  lostTiles := []
  flags := 0
  overruns := 0
  lastStatus := 0
  marker := none
  groups := []
  blocks := []
  moves := []
  promote := []
  drops := []
  queries := []
  replay := none
  inReplay := false
  journal := []
  away := []
  revoked := false
  freedAt := none
  torn := 0
  drainedAt := none
  aborts := []

/-! Deckles, queues, commands and sessions (R311-R329, R186). -/

/-- A registered host buffer (R326). -/
structure Buf where
  id : Nat
  addr : Nat
  size : Nat
deriving DecidableEq, Repr

/-- Arena lent to a borrower as T2 (R186): what the borrower has placed there. -/
structure Lend where
  tag : Nat
  borrower : Nat
  job : List Byte
  mib : Nat
  store : Memory
deriving DecidableEq, Repr

/-- A work request posted to a queue pair (R506): number, operation, local space, address, length, remote key, address; the bytes it
sends; its first packet sequence number and how many it takes, and how many answers to a read have come; the command that waits. -/
structure Work where
  num : Nat
  op : Nat
  space : Nat
  addr : Nat
  len : Nat
  rkey : Nat
  raddr : Nat
  data : List Byte
  psn : Nat
  count : Nat
  got : Nat
  cmd : CmdRef
deriving DecidableEq, Repr

/-- A RoCEv2 queue pair of a storage port (R506). -/
structure Qp where
  num : Nat
  port : Nat
  sendDepth : Nat
  recvDepth : Nat
  state : Nat
  remote : Nat
  mtu : Nat
  vlan : Nat
  ip : List Byte
  mac : Nat
  posted : Nat
  work : List Work
  /-- the next packet sequence number to send; the one awaited, none before the first; a gap has been reported -/
  sendPsn : Nat
  awaitPsn : Option Nat
  gap : Bool
  /-- the part of a message that has come, and messages received, oldest first -/
  part : List Byte
  inbox : List (List Byte)
  /-- sending rate in kb/s -/
  rate : Nat
deriving DecidableEq, Repr

/-- What a deckle holds beside its registers. -/
structure Deckle where
  half : Bool
  lost : Bool
  bufs : List Buf
  nextBuf : Nat
  t3 : Option (Nat × Nat)
  /-- endpoint, lend tag, MiB -/
  lenders : List (Nat × Nat × Nat)
  lends : List Lend
  qps : List Qp
  nextQp : Nat
  orphans : List (Nat × Sparse (Option Block))
  /-- watts and beats of the meter (R389) -/
  meter : Nat
deriving DecidableEq, Repr

def Deckle.reset : Deckle where
  half := false
  lost := false
  bufs := []
  nextBuf := 0
  t3 := none
  lenders := []
  lends := []
  qps := []
  nextQp := 0
  orphans := []
  meter := 0

/-- Queue states. -/
inductive QueueState
  | stopped
  | running
  | error
deriving DecidableEq, Repr

/-- A command queue (R318, R319). `passed`, `fetched`, `written` and `freed` count descriptors and records since the queue was
made; ring indices are these modulo 2^e. -/
structure Queue where
  state : QueueState
  e : Nat
  weight : Nat
  vector : Nat
  sq : Nat
  cq : Nat
  passed : Nat
  fetched : Nat
  written : Nat
  freed : Nat
  deleting : Bool
  /-- the hold of the descriptor at the head has been counted (R323) -/
  stalled : Bool
deriving DecidableEq, Repr

def Queue.reset : Queue := ⟨.stopped, 0, 0, 0, 0, 0, 0, 0, 0, 0, false, false⟩

/-- A command in flight (R322-R328): its descriptor, whether a session was open when it was fetched (R317), whether its
queue has stopped since (R307), whether it has begun, and the moves it planned then (R329), and the writes to another module that it
waits for (R134), and the boundaries that have passed since its fetch (R324). -/
structure Cmd where
  fn : Nat
  queue : Nat
  desc : List Byte
  authed : Bool
  lost : Bool
  begun : Bool
  planned : Nat
  sent : List RWrite
  age : Nat
deriving DecidableEq, Repr

/-- The session of a function (R315, R316); times are milliseconds of State.ms. -/
structure Session where
  opened : Bool
  /-- nonces issued and not used, with the time of issue -/
  nonces : List (List Byte × Nat)
  /-- the nonce that opened the session, and key loads made in it (R463) -/
  used : List Byte
  loads : Nat
  /-- times of openings that failed, and the time until which none is checked (R316) -/
  fails : List Nat
  barred : Nat
deriving DecidableEq, Repr

def Session.reset : Session := ⟨false, [], [], 0, [], 0⟩

/-- Where fetching stands (R322): the function served last, and for each function the queue whose turn it is and the descriptors
left of that turn. -/
structure Fetch where
  fn : Nat
  turns : Sparse (Nat × Nat)
deriving DecidableEq, Repr

def Fetch.reset : Fetch := ⟨0, []⟩

/-! Memory stacks (R206-R215). -/

/-- What a stack holds beside its registers: rows scheduled for repair, rows under repair, spares used. -/
structure Stack where
  scheduled : List Nat
  repairing : Option Nat
  repaired : List Nat
  unrepaired : List Nat
  /-- corrected errors of the last 24 h: row, millisecond (R207) -/
  rowErrs : List (Nat × Nat)
  /-- units found uncorrectable within the last second, with the millisecond (R215) -/
  ues : List (Nat × Nat)
  /-- the unit of each channel that the patrol scrubber reads next (R206) -/
  scrub : Sparse Nat
  /-- banks whose training row has moved to a spare, once for each move (R217) -/
  moved : List Nat
deriving DecidableEq, Repr

def Stack.reset : Stack := ⟨[], none, [], [], [], [], [], []⟩

/-! Routers (R244-R267). -/

/-- One channel of a pair at its source: next pair_seq, and one past accepted-through and placed-through (R261, R262). `vc` is the
channel, or 256 x t for the packets of multicast tree t, which have a sequence of their own (log 107). -/
structure TxChan where
  vc : Nat
  next : Nat
  accepted : Nat
  placed : Nat
deriving DecidableEq, Repr

/-- A pair at its source (R260-R263): destination, epoch, unreachable, flits sent and the window limit, channels, and how often it
has started afresh. -/
structure TxPair where
  dst : Nat
  epoch : Nat
  unreachable : Bool
  sent : Nat
  limit : Nat
  chans : List TxChan
  gen : Nat
deriving DecidableEq, Repr

/-- A packet accepted and not yet placed: its number in the order of acceptance at its I/O die, and the deckle of its context if
that was live then (R131, R135). -/
structure Held where
  p : Pkt
  no : Nat
  deckle : Option Nat
deriving DecidableEq, Repr

/-- One channel of a pair at its destination: pair_seqs received, one past accepted-through and placed-through,
packets accepted and not yet placed, pair_seqs placed ahead of order, flits placed since the last ACK (R262). -/
structure RxChan where
  vc : Nat
  got : List Nat
  accepted : Nat
  placed : Nat
  ahead : List Nat
  held : List Held
  due : Nat
deriving DecidableEq, Repr

/-- A pair at its destination: source, epoch, flits placed, channels. -/
structure RxPair where
  src : Nat
  epoch : Nat
  flits : Nat
  chans : List RxChan
deriving DecidableEq, Repr

/-- A packet in a router: the port it came in on, none for one of this module's own, and the channel it came on; the route entry it
read at the head of its queue where a plan has since written another (R246); whether it was a circuit packet and has been sent
on in packet mode (R255); and, of a tree packet, the branches still to be sent, none before it has been looked at (R296). -/
structure Queued where
  port : Option Nat
  ch : Nat
  p : Pkt
  entry : Option (BitVec 32)
  demoted : Bool
  branches : Option (List Nat)
deriving DecidableEq, Repr

/-- A read this module has asked of a peer (R249): request tag and what waits for the answer. -/
structure ReadOut where
  tag : Nat
  dst : Nat
  tile : Nat
  burst : Nat
  parts : List (Nat × List Byte)
  bytes : Nat
deriving DecidableEq, Repr

/-- The router of an I/O die. -/
structure Router where
  routes : Sparse (BitVec 32)
  slots : Sparse Nat
  trees : Sparse (BitVec 32)
  tx : List TxPair
  rx : List RxPair
  inject : List Pkt
  outst : List Pkt
  queue : List Queued
  reads : List ReadOut
  nextTag : Nat
  occ : Sparse Nat
  used : Sparse Nat
  esc : Sparse Nat
  poolMin : Nat
  /-- beats of the map interval in force (R270) -/
  mapIval : Nat
  mapLast : List Byte
  cmaps : List (List Byte)
  /-- millisecond of the last residue mismatch of each engine (R294) -/
  mismatch : Sparse (Option Nat)
  /-- next pair_seq of this die's packets on each tree, and the endpoints of those not yet injected: tree, pair_seq, endpoints
  (R296) -/
  treeSeq : Sparse Nat
  mcast : List (Nat × Nat × List Nat)
  /-- packets accepted so far -/
  accepts : Nat
deriving DecidableEq, Repr

def Router.reset : Router := ⟨[], [], [], [], [], [], [], [], [], 0, [], [], [], 0x4000, 64, [], [], [], [], [], 0⟩

/-! The beat generator (R28-R36, R171, R386). -/

/-- What the beat generator and the freeze hold beside the BEAT_ registers. -/
structure Beat where
  frozen : Bool
  accepted : Nat
  since : Nat
  raised : Bool
  /-- what the beat number gains at the next boundary: 1, but for a re-phase (R34) -/
  advance : Nat
  hops : Sparse (Option Nat)
  lengthen : Nat
  idle : Bool
  deckleIdle : List Nat
  /-- the REFCLK cycle of the beat that is known to have been reached (R54) -/
  cycle : Nat
  /-- a marker from the selected source waits to be relayed at the next boundary (R33) -/
  relay : Bool
deriving DecidableEq, Repr

def Beat.reset : Beat := ⟨false, 0, 0, false, 1, [], 0, false, [], 0, false⟩

/-! Fabric ports (R221-R243). -/

/-- A flit kept in a retry buffer (R225): its sequence number, the flit, the packet whose last flit it is, and how
often it has been replayed. -/
structure TxFlit where
  seq : Nat
  f : Flit
  pkt : Option Queued
  replays : Nat
deriving DecidableEq, Repr

/-- The arbiter of an output port (R252-R255): the deficits of VC0-VC3 in flits, the channel whose turn it is, flit times since the
last VC4 flit, up to 32, the slot last used by its circuit (beat, slot) and the flits sent in it. -/
structure Arb where
  deficit : List Nat
  turn : Nat
  vc4 : Nat
  slot : Nat × Nat
  slotFlits : Nat
deriving DecidableEq, Repr

def Arb.reset : Arb := ⟨[0, 0, 0, 0], 0, 32, (0, 0), 0⟩

/-- What waits for room in a retry buffer, in order (R225, R233): a link control payload, or the transmit key that applies
behind those before it. -/
inductive LinkCtl
  | flit (payload : List Byte)
  | key (k : List Byte)
deriving DecidableEq, Repr

/-- What a port holds beside its registers. Channels are keys of `sent` (flits sent), `limit` (credit limit received),
`taken` (flits received), `freed` (flits whose buffers are free again) and `granted` (credit limit advertised). -/
structure Port where
  txNext : Nat
  retry : List TxFlit
  waitCtl : List LinkCtl
  rxNext : Nat
  rxAny : Bool
  sent : Sparse Nat
  limit : Sparse Nat
  taken : Sparse Nat
  freed : Sparse Nat
  granted : Sparse Nat
  /-- channels whose limit is to be advertised -/
  creditDue : List Nat
  /-- payload so far of the packet being received on a channel -/
  partials : List (Nat × List Byte)
  /-- channels whose packet in progress is discarded (R251) -/
  dropping : List Nat
  /-- identity set as received so far, the set last accepted, and the partner's port number -/
  idBuf : List Byte
  /-- the sending port that those segments name -/
  idFrom : Nat
  accepted : List Byte
  partner : Nat
  echoes : Nat
  best : Option Nat
  /-- PORT_LATENCY holds the value for the link as it is (R232) -/
  fresh : Bool
  keyTx : List Byte
  keyRx : List Byte
  /-- ciphertext received so far, and the keys that apply from the next span (R233) -/
  ct : List Byte
  nextTx : Option (List Byte)
  nextRx : Option (List Byte)
  txSpan : List Flit
  txSpanNo : Nat
  rxSpan : List Flit
  rxSpanNo : Nat
  /-- first flit received and not yet verified on a sealed port -/
  rxHeld : Option Nat
  /-- the number of the next span received is taken as it comes, once, after a retrain -/
  rxSync : Bool
  spanFailed : Bool
  /-- lanes that lost lock and are being relocked (R234) -/
  relock : List Nat
  /-- losses of lock of the last 10 s: lane, millisecond (R234) -/
  losses : List (Nat × Nat)
  /-- uncorrectable codewords of each lane while the oldest unacknowledged flit has been the same (R234) -/
  ucw : Sparse Nat
  /-- the width exchange in progress: proposed mask and proposal number (R235) -/
  width : Option (Nat × Nat)
  proposals : Nat
  /-- ms of the last replay exhaustion with no lane to blame (R234) -/
  exhausted : Option Nat
  degraded : Bool
  /-- retrain with clear_retired in progress (R236) -/
  clearing : Bool
  /-- register address within the MMD (R241) -/
  mdioAddr : Nat
  /-- the partner's last hold report: status and PORT_MISWIRE (R231) -/
  peerHold : Option (Nat × Nat)
  /-- frames received in Ethernet or S7 use (R238, R239) -/
  frames : List (List Byte)
  /-- beats for which the partner has paused the storage priority, and frames that wait to be sent (R238) -/
  paused : Nat
  ethHeld : List EthFrame
  arb : Arb
deriving DecidableEq, Repr

def Port.reset : Port where
  txNext := 0
  retry := []
  waitCtl := []
  rxNext := 0
  rxAny := false
  sent := []
  limit := []
  taken := []
  freed := []
  granted := []
  creditDue := []
  partials := []
  dropping := []
  idBuf := []
  idFrom := 0
  accepted := []
  partner := 0
  echoes := 0
  best := none
  fresh := false
  keyTx := []
  keyRx := []
  ct := []
  nextTx := none
  nextRx := none
  txSpan := []
  txSpanNo := 0
  rxSpan := []
  rxSpanNo := 0
  rxHeld := none
  rxSync := false
  spanFailed := false
  relock := []
  losses := []
  ucw := []
  width := none
  proposals := 0
  exhausted := none
  degraded := false
  clearing := false
  mdioAddr := 0
  peerHold := none
  frames := []
  paused := 0
  ethHeld := []
  arb := Arb.reset

/-- The identity set last signed (R229), the decapsulation key that belongs to it, and the plan it was signed for. -/
structure Ident where
  set : List Byte
  kem : List Byte
  plan : Option Nat
deriving DecidableEq, Repr

/-! Clocks (R357-R375). -/

/-- What CLKCTL_ holds beside its registers: the divisor code each die returns to after its droop response, the TILE
source waiting for a boundary, and clock enables written and not yet done (page, on). -/
structure Clk where
  /-- one more than the code, 0 where no response is active -/
  before : Sparse Nat
  /-- the root, and the view that asked -/
  tileSrc : Option (Nat × Nat)
  enables : List (Nat × Bool)
  /-- domains have stopped for want of a root (R364) -/
  stopped : Bool
  /-- compute dies whose TILE clock is still on the source before, for a droop response (R374) -/
  lag : List Nat
  /-- lock losses of the last hour: root, milliseconds (R406) -/
  losses : List (Nat × Nat)
deriving DecidableEq, Repr

def Clk.reset : Clk := ⟨[], none, [], false, [], []⟩

/-! Power and temperature (R378-R400). -/

/-- A throttle step taken (R396): a die's divisor code, the module's w, a stack's memory share in sixteenths, the part in
percent of their flit times that an I/O die's ports have. -/
inductive Throttle
  | die (die code : Nat)
  | work (w : Nat)
  | share (stack m : Nat)
  | ports (iod pct : Nat)
deriving DecidableEq, Repr

/-- A temperature sensor (R393, R394): last reading in quarter degrees, samples without an answer, stuck, unusable. -/
structure Sensor where
  value : Option Int
  missed : Nat
  stuck : Bool
  bad : Bool
  /-- samples for which the reading has not moved, up to 60 s of them -/
  same : Nat
deriving DecidableEq, Repr

def Sensor.reset : Sensor := ⟨none, 0, false, false, 0⟩

/-- The power of a die or stack over the last minute (R394): averages of whole seconds in mW, latest first; of the second that runs, the sum
and the samples. -/
structure PowerTrace where
  avgs : List Nat
  sum : Nat
  n : Nat
deriving DecidableEq, Repr

def PowerTrace.reset : PowerTrace := ⟨[], 0, 0⟩

/-- An operating point: divisor code, memory share in sixteenths, working beats in each 8 (R381). -/
structure Point where
  div : Nat
  share : Nat
  work : Nat
deriving DecidableEq, Repr

/-- A throttled resource: 0-3 a compute die, 4-5 an I/O die, 6 the control die, 8 + i stack i; boundaries to its next step
up, boundaries since it became cool, boundaries spent at its floor. -/
structure Hot where
  res : Nat
  up : Nat
  cool : Nat
  floor : Nat
deriving DecidableEq, Repr

/-- What the calender holds beside its registers. Energies are millijoules; `w` holds learned watts of phase p at
divisor code d at key 8 p + d in 1/65536 mW, `stall` learned fractions in 1/65536. -/
structure Cal where
  buckets : List Nat
  /-- window_s as the last decision took it (R380); 0 before the first -/
  window : Nat
  w : Sparse (Option Int)
  stall : Sparse Int
  /-- learned watts of stacks and I/O dies per unit of load, in 1/65536 mW (R384) -/
  perLoad : Sparse (Option Int)
  /-- the point decided for the next boundary -/
  decided : Option Point
  /-- a decision has been made in this beat -/
  made : Bool
  missed : Nat
  /-- the effective cap has fallen since the last decision (R386) -/
  fell : Bool
  /-- mode before HELD -/
  prev : Nat
  /-- place in the group of 8 beats; 7 while no pattern applies -/
  pos : Nat
  /-- a decision asks for a new group at the next boundary -/
  restart : Bool
  /-- the divisor code whose voltage is in force (R382) -/
  volt : Nat
  /-- throttle steps, the last taken first, each with the resource it was taken for -/
  steps : List (Nat × Throttle)
  hot : List Hot
  leak : Nat × Nat
  sensors : Sparse Sensor
  traces : Sparse PowerTrace
  /-- samples in a row at which every spot was below its throttle limit, up to 10 s of them (R397) -/
  calm : Nat
  /-- samples in a row a spot has read at or above its trip limit -/
  trips : Sparse Nat
  disagree : Sparse Nat
  agree : Sparse Nat
  slackMin : Nat
  slackSum : Nat
  slackN : Nat
  slackIdle : Nat
  slackOver : Nat
  slackAge : Nat
  /-- metered window average of each deckle, in W (R389) -/
  deckleMeter : Sparse Nat
  /-- deckles over their allowance at the last decision (R389, R401) -/
  excess : List Nat
deriving DecidableEq, Repr

def Cal.reset : Cal where
  buckets := []
  window := 0
  w := []
  stall := []
  perLoad := []
  decided := none
  made := false
  missed := 0
  fell := false
  prev := 1
  pos := 7
  restart := false
  volt := 4
  steps := []
  hot := []
  leak := (2, 0)
  sensors := []
  traces := []
  calm := 0
  trips := []
  disagree := []
  agree := []
  slackMin := 0xFFFFFFFF
  slackSum := 0
  slackN := 0
  slackIdle := 0
  slackOver := 0
  slackAge := 0
  deckleMeter := []
  excess := []

/-! Recovery (R412-R427). -/

/-- A suspect set (R418-R421): the command that timed out, contexts held and not yet replayed, the one replaying with
the beat its replay started, contexts convicted, tiles that ran abandoned sheets, and whether the engine concerned is
in the compute domain. -/
structure SuspectSet where
  cmd : Cmd
  waiting : List Nat
  replaying : Option (Nat × Nat)
  convicted : Nat
  tiles : List Nat
  compute : Bool
deriving DecidableEq, Repr

/-- What recovery holds: the suspect set, milliseconds at which package recoveries started, the crash dump, a dump
waiting to be written (cause status, tier), domains fenced by other causes than a tier, and the tile of a self-test. -/
structure Rst where
  suspects : Option SuspectSet
  recoveries : List Nat
  dump : List Byte
  dumping : Option (Nat × Nat)
  /-- the dump to be taken once the tier has drained -/
  dumpDue : Option (Nat × Nat)
  refLost : Bool
  /-- a rail is missing, the tier holds in FENCING (R447) -/
  railHold : Bool
  tripped : Bool
  /-- corrected errors of tile storage in the last 24 h (R406): tile, word where one is known, millisecond -/
  ces : List (Nat × Option Nat × Nat)
  /-- who asked for a second dump while one is written (R427) -/
  dumpAgain : Option (Nat × Nat)
  /-- tiles with bursts of before the compute domain's fence, and the context each ran for (R417) -/
  landing : List (Nat × Ctx)
deriving DecidableEq, Repr

def Rst.reset : Rst := ⟨none, [], [], none, none, false, false, false, [], none, []⟩

/-! Control units and management (R431-R455). -/

/-- What the control complex holds beside MGT_: units whose clock has stopped, boundaries since each unit's on-die
counter changed, bt since each pin was seen to toggle, bt since the last LIVENESS, an hb_single episode, whether the
standby holds a full copy, the beat of the last copy acknowledged, bt A has been in STANDBY, the unit to be reset and
the bt left, milliseconds of each unit's failures, the heartbeat pins' levels, and the units both of whose paths are silent. -/
structure Ctl where
  halted : List Nat
  ondie : Nat × Nat
  pin : Nat × Nat
  live : Nat
  single : Bool
  full : Bool
  copied : Nat
  stand : Nat
  isle : Option (Nat × Nat)
  fails : List (Nat × Nat)
  hba : Bool
  hbb : Bool
  /-- a takeover is asked for the next boundary -/
  change : Bool
  quiet : List Nat
deriving DecidableEq, Repr

def Ctl.reset : Ctl := ⟨[], (0, 0), (0, 0), 32, false, false, 0, 0, none, [], false, false, false, []⟩

/-- A Duntus message that waits in the control inbox (R431), as its row gives it. -/
inductive Waiting
  | malformedDuntusMessage (h : DHdr) (bodyLen : Nat)
  | mgtSessionNonce (h : DHdr) (nonce : List Byte)
  | mgtSessionOpen (h : DHdr) (tag : List Byte)
  | mgtSessionClose (h : DHdr)
  | statusGet (h : DHdr)
  | regRead (h : DHdr) (off bytes : Nat)
  | regWrite (h : DHdr) (off bytes : Nat) (data : Word)
  | capSet (h : DHdr) (capW : Nat) (clear : Bool)
  | powerReportGet (h : DHdr)
  | poweroffNotice (h : DHdr)
  | planDeliver (h : DHdr) (offset total len : Nat) (last : Bool) (plan : Plan)
  | planWithdraw (h : DHdr) (planSeq : Nat)
  | resetReq (h : DHdr) (kind : Nat)
  | dumpReq (h : DHdr)
  | dumpRead (h : DHdr) (word len : Nat)
deriving DecidableEq, Repr

/-- What the management port holds: sequence number of the next message, of the last accepted from each endpoint, the endpoints that
opened the session and assigned the EID, I3C maximum lengths, enabled events, bytes of a plan received so far with its
total, and whether a grace period runs. -/
structure Mgt where
  txSeq : Nat
  rxSeq : Sparse (Option Nat)
  assigner : Nat
  mwl : Nat
  mrl : Nat
  events : Nat
  plan : Option (Nat × Nat)
  grace : Bool
  /-- the endpoint that opened the session -/
  opener : Nat
  /-- the control inbox's Duntus messages that no unit has taken yet, with the BEAT_COUNT and millisecond of their arrival (R431) -/
  inbox : List (Waiting × Nat × Nat)
deriving DecidableEq, Repr

/-- I3C lengths start at the transport's MTU of 64 bytes (R442). -/
def Mgt.reset : Mgt := ⟨0, [], 0, 64, 64, 0, none, false, 0, []⟩

/-! The stored image (R456-R478). -/

/-- A key entry (R461): salt and key. -/
structure KeyEntry where
  salt : List Byte
  key : List Byte
deriving DecidableEq, Repr

/-- The key table (R461); entry 0 is the owner session key, 1 + d deckle d's. -/
structure KeyTable where
  enrolled : Bool
  seq : Nat
  owner : List Byte
  entries : Sparse (Option KeyEntry)
deriving DecidableEq, Repr

def KeyTable.reset : KeyTable := ⟨false, 0, [], []⟩

/-- An operation in progress (R476): its code, address, length and data latched from the registers, and its result where
that is known from the start. -/
structure NvmOp where
  code : Nat
  addr : Nat
  len : Nat
  data : List Byte
  result : Nat
deriving DecidableEq, Repr

/-- Steps of a live update (R471). -/
inductive UpdatePhase
  | none
  | first
  | handover
  | second
deriving DecidableEq, Repr

/-- What the NVM block holds beside its registers: the NOR device, the key table, the region each unit runs (0 A, 1 B,
2 recovery) and that image's header, the boot pointer, the view that holds the FIRMWARE activity, the operation in
progress, the region verified in this activity, the update's phase with the bt left of it, profile records in force with
their configuration's sequence number, the attestation report, and the stored copy of the broke map (R407). -/
structure Nvm where
  nor : Memory
  keys : KeyTable
  unitA : Nat
  unitB : Nat
  headA : List Byte
  headB : List Byte
  pointer : Nat
  activity : Option Nat
  op : Option NvmOp
  verified : Bool
  phase : UpdatePhase
  wait : Nat
  profiles : List (List Byte)
  cfgSeq : Nat
  /-- profile record whose package-reset fields are in force (R468) -/
  inForce : List Byte
  /-- live fields of the selected profile wait for the next boundary (R468) -/
  liveDue : Bool
  report : List Byte
  mapCopy : List Broke
deriving DecidableEq, Repr

def Nvm.reset : Nvm where
  nor := []
  keys := KeyTable.reset
  unitA := 0
  unitB := 0
  headA := []
  headB := []
  pointer := 0
  activity := none
  op := none
  verified := false
  phase := .none
  wait := 0
  profiles := []
  cfgSeq := 0
  inForce := []
  liveDue := false
  report := []
  mapCopy := []

/-! Bring-up and pins (R479-R505). -/

/-- What bring-up holds: powered at all, units that ended BOOT, memory trained, compute-die test passed and whether it
has been repeated, host links whose window has ended, levels of the profile pins, PERST pins held low, the THERMTRIP_N
pin asserted, the input switch open. -/
structure Bring where
  powered : Bool
  booted : List Nat
  mem : Bool
  test : Bool
  repeated : Bool
  windows : List Nat
  sel : Nat
  perst : List Nat
  thermtrip : Bool
  opened : Bool
deriving DecidableEq, Repr

def Bring.reset : Bring := ⟨false, [], false, false, false, [], 0, [], false, false⟩

end Sys2Proof.Machine
end

