-- ==== Sys2Proof/Machine/State.lean ====
section
/-! DEFINITION. The state of the module: every register, memory, queue and piece of hidden state the spec gives it,
as plain data; the reasons a step can stop; the state at reset. -/

namespace Sys2Proof.Machine

/-- Why the model stops without a next state. -/
inductive Fault
  /-- Raised by a command that names a unit the spec says does not exist or the part does not carry (R18, R25, R306,
  R340): the sender asks for something no hardware can do. Safe: no behaviour of a fitted unit is lost. -/
  | noSuchUnit
deriving DecidableEq, Repr

/-- Why the model has no meaning to offer. -/
inductive Refusal
  /-- Raised by a command of the table that has no meaning in the model yet, by its mnemonic. Safe: the model stops
  where the hardware goes on. -/
  | notModelled (mnemonic : String)
deriving DecidableEq, Repr

/-- What the module sends out, oldest first (log 8). -/
inductive Out
  /-- a completion record written to host memory (R321) -/
  | completion (fn queue : Nat) (record : List Byte)
  /-- an MSI-X message (R318, R344) -/
  | msix (fn vector : Nat)
  /-- bytes written to host memory -/
  | hostWrite (addr : Nat) (data : List Byte)
  /-- the data a host read returned, or poison -/
  | hostData (data : List Byte) (poison : Bool)
  /-- a register read's answer: view, offset, value -/
  | regData (view off : Nat) (value : Word)
  /-- an access answered with a completer abort, or an error status on the management port -/
  | regAbort (view off status : Nat)
  /-- a Duntus message to an endpoint (R443, R445) -/
  | duntus (dest code : Nat) (resp event : Bool) (status seq : Nat) (body : List Byte)
  /-- an MCTP or I3C answer (R442) -/
  | mctp (code : Nat) (body : List Byte)
  /-- a link flit sent on a port (R223) -/
  | flit (port : Nat) (f : Flit)
  /-- an Ethernet or S7 frame on a port -/
  | frame (port : Nat) (data : List Byte)
  /-- a frame on a storage port in Ethernet use (R238) -/
  | eth (port : Nat) (f : EthFrame)
  /-- the S7 link hello sent on a port: this module's serial and port number (R239) -/
  | s7Hello (port serial own : Nat)
  /-- an answer to a configuration request (R489) -/
  | config (link fn status : Nat)
deriving DecidableEq, Repr


/-- A split-read latch or a held low half (R349): view, page, offset of the register, the half held. -/
structure Half where
  view : Nat
  page : Nat
  off : Nat
  val : Nat
deriving DecidableEq, Repr

/-- The counters of a page as a view's cnt_freeze holds them (R351): view, page, the words from CNT_INFO.first on. -/
structure Frozen where
  view : Nat
  page : Nat
  vals : List Word
deriving DecidableEq, Repr

/-- The module. `regs` holds every register of the control space (keys of Regs.lean); the rest is the state the rules
name that no register holds, the memories, what has been sent out, and the queue of waiting commands. -/
structure State where
  regs : Sparse Word
  latches : List Half
  held : List Half
  frozen : List Frozen
  flog : Sparse (Option FaultRec)
  broke : List Broke
  brokeDue : List BrokeChange
  locks : List Lock
  beat : Beat
  tiles : Sparse Tile
  spad : Memory
  hbm : Memory
  poison : Sparse Bool
  ctxs : Sparse Ctx
  deckles : Sparse Deckle
  queues : Sparse Queue
  sessions : Sparse Session
  cmds : List Cmd
  fetching : Fetch
  stackTab : Sparse Stack
  routers : Sparse Router
  ports : Sparse Port
  ident : Ident
  plan : Option Plan
  clk : Clk
  cal : Cal
  rst : Rst
  ctl : Ctl
  mgt : Mgt
  nvm : Nvm
  bring : Bring
  /-- power-on count (R408) -/
  boots : Nat
  /-- milliseconds since power-on, counted by the closes of energy buckets (R378) -/
  ms : Nat
  out : List Out
  /-- commands waiting, first in first out (the model's queue) -/
  pending : List Instr
  /-- the model's own counter: each use of a free value advances it (log 14) -/
  freeCtr : Nat
deriving DecidableEq, Repr

/-- The module at reset, before POWER_ON (log 6): every register at its reset value, memories blank. -/
def State.reset : State where
  regs := []
  latches := []
  held := []
  frozen := []
  flog := []
  broke := []
  brokeDue := []
  locks := []
  beat := Beat.reset
  tiles := []
  spad := []
  hbm := []
  poison := []
  ctxs := []
  deckles := []
  queues := []
  sessions := []
  cmds := []
  fetching := Fetch.reset
  stackTab := []
  routers := []
  ports := []
  ident := ⟨[], [], none⟩
  plan := none
  clk := Clk.reset
  cal := Cal.reset
  rst := Rst.reset
  ctl := Ctl.reset
  mgt := Mgt.reset
  nvm := Nvm.reset
  bring := Bring.reset
  boots := 0
  ms := 0
  out := []
  pending := []
  freeCtr := 0

end Sys2Proof.Machine
end

