-- ==== Sys2Proof/Machine/Ops.lean ====
section
/-! DEFINITION. The named operations over registers, counters, events, fault records and memories: each says once
what the rules say of it, and the commands' meanings are written over them. -/

namespace Sys2Proof.Machine

/-! The register file (R338-R342). -/

/-- The blocks of the page map (R340): first page, number of pages, block code, clock-gated at reset, carries a
maintenance lock (R424). -/
def pageMap : List (Nat × Nat × Nat × Bool × Bool) := [
  (0x0, 1, 0x01, false, false), (0x1, 1, 0x02, false, false), (0x2, 1, 0x03, false, true), (0x3, 1, 0x04, false, false),
  (0x4, 1, 0x05, false, false), (0x5, 1, 0x06, false, false), (0x6, 1, 0x07, false, true), (0x7, 1, 0x08, true, false),
  (0x8, 1, 0x09, true, true), (0x9, 1, 0x0A, true, false), (0xA, 1, 0x0B, true, false), (0x10, 12, 0x0C, true, false),
  (0x20, 12, 0x0D, true, true), (0x30, 48, 0x0E, true, true), (0x60, 26, 0x0F, true, true), (0x80, 2, 0x10, true, false),
  (0x88, 2, 0x11, true, false), (0x90, 7, 0x12, true, false)]

/-- The block that owns a page, with the page's instance. -/
def pageOf (page : Nat) : Option ((Nat × Nat × Nat × Bool × Bool) × Nat) :=
  (pageMap.find? fun r => decide (r.1 ≤ page) && decide (page < r.1 + r.2.1)).map fun r => (r, page - r.1)

/-- A key of the register file: which copy, page, offset. -/
def regKey (sel page off : Nat) : Nat := sel * 2 ^ 25 + page * 4096 + off

/-- Copy of a banked register in a view (R343). -/
def bank (view : Nat) : Nat := 1 + view

/-- Copy of a register that a deckle selects (R165, R195, R333). -/
def ofDeckle (d : Nat) : Nat := 32 + d

/-- Copy of a register that a host link selects (R336). -/
def ofLink (l : Nat) : Nat := 48 + l

/-- Reset value of a register of a page's body, by the tables. -/
def tableReset (page off : Nat) : Nat :=
  match regTable.find? fun r => decide (r.page ≤ page) && decide (page < r.page + r.n) && r.off == off with
  | some r => r.reset
  | none => 0

/-- What a register reads as until something writes it (R340, R342 and the register tables). -/
def regReset (key : Nat) : Word :=
  let page := key / 4096 % 8192
  let off := key % 4096
  match pageOf page with
  | none => 0
  | some (r, inst) =>
    if off == 0x00 then BitVec.ofNat 64 (r.2.2.1 + inst * 2 ^ 8 + page * 2 ^ 16)
    else if off == 0x04 then 0x01B0
    else if off == 0x08 then BitVec.ofNat 64 ((if r.2.2.2.2 then 2 ^ 48 else 0) + (if r.2.2.2.1 then 2 ^ 49 else 0))
    else if off == 0x3C then
      match counterPages.find? fun c => decide (c.1 ≤ page) && decide (page < c.1 + c.2.1) with
      | some c => BitVec.ofNat 64 (c.2.2.1 + c.2.2.2 * 2 ^ 8)
      | none => 0
    else BitVec.ofNat 64 (tableReset page off)

/-- A register's value. -/
def State.reg (s : State) (sel page off : Nat) : Nat := (s.regs.get regReset (regKey sel page off)).toNat

/-- The state with a register's value replaced. -/
def State.setReg (s : State) (sel page off v : Nat) : State :=
  { s with regs := s.regs.set regReset (regKey sel page off) (BitVec.ofNat 64 v) }

/-- A field's value, on page `inst` of its block, in copy `sel`. -/
def State.fget (s : State) (f : Fld) (inst : Nat := 0) (sel : Nat := 0) : Nat :=
  bits (s.reg sel (f.page + inst) f.off) f.lo f.w

/-- The state with a field replaced (the value taken modulo the field's width). -/
def State.fset (s : State) (f : Fld) (v : Nat) (inst : Nat := 0) (sel : Nat := 0) : State :=
  s.setReg sel (f.page + inst) f.off (setBits (s.reg sel (f.page + inst) f.off) f.lo f.w v)

/-- A field set to an integer in two's complement. -/
def State.fsetInt (s : State) (f : Fld) (v : Int) (inst : Nat := 0) (sel : Nat := 0) : State :=
  s.fset f (ofSigned f.w v) inst sel

/-- A flag field. -/
def State.flag (s : State) (f : Fld) (inst : Nat := 0) (sel : Nat := 0) : Bool := s.fget f inst sel != 0

/-! Beats and the free counter. -/

/-- REFCLK cycles of the current beat (R30, R34). -/
def State.beatLen (s : State) : Nat := 2 ^ s.fget F.BEAT_CFG_beat_log2 + s.beat.lengthen

/-- BEAT_PHASE.cycle (R54): a cycle of the current beat, not before one already reached, and on the side of the freeze point
that the beat is on (R30); which of them is a free value (log 65). The count stands still without REFCLK. -/
def State.cycleNow (s : State) : Nat :=
  let hi := if s.beat.frozen then s.beatLen else s.beatLen - 64
  if !s.bring.powered ∨ s.rst.refLost ∨ hi ≤ s.beat.cycle then s.beat.cycle
  else s.beat.cycle + (Config.freeWord s.freeCtr).toNat % (hi - s.beat.cycle)

/-- BEAT_COUNT (R28). -/
def State.beatCount (s : State) : Nat := s.fget F.BEAT_COUNT_count

/-- A use of the free counter: its value, and the state that has used it. -/
def State.free (s : State) : Nat × State := (s.freeCtr, { s with freeCtr := s.freeCtr + 1 })

def State.emit (s : State) (o : Out) : State := { s with out := s.out ++ [o] }

/-- The state after a list of things, each in turn. -/
def State.each {α : Type} (l : List α) (f : State → α → State) (s : State) : State := l.foldl f s

def State.when (s : State) (c : Bool) (f : State → State) : State := if c then f s else s

/-! What is fitted (R25) and who owns what (R311). -/

def State.stackFitted (s : State) (i : Nat) : Bool := decide (i < 12) && (s.fget F.MOD_STACK_stack_present).testBit i
def State.portFitted (s : State) (p : Nat) : Bool := decide (p < 26) && (s.fget F.MOD_PORT_port_present).testBit p
def State.iodFitted (s : State) (i : Nat) : Bool := decide (i < 2) && (s.fget F.MOD_PORT_iod_present).testBit i

/-- The three variants (R3, R25). -/
inductive Variant
  | c12l2
  | c12l1
  | c08l2
deriving DecidableEq, Repr

/-- The per-variant capability values of R25: stacks, ports and I/O dies fitted. -/
def Variant.present : Variant → Nat × Nat × Nat
  | .c12l2 => (0xFFF, 0x3FFFFFF, 3)
  | .c12l1 => (0xFFF, 0x1000FFF, 1)
  | .c08l2 => (0x6DB, 0x3FFFFFF, 3)

/-- The module at reset of a variant (R24, R25); State.reset is that of KS-S9M-C12L2. -/
def State.resetOf (v : Variant) : State :=
  let p := v.present
  ((State.reset.fset F.MOD_STACK_stack_present p.1).fset F.MOD_PORT_port_present p.2.1).fset F.MOD_PORT_iod_present p.2.2

/-- The registers fixed at manufacture (R24): MOD_STACK and MOD_PORT, in which the variants differ. -/
def manufactured (key : Nat) : Bool := key == regKey 0 Page.MOD 0x8C || key == regKey 0 Page.MOD 0x90

/-- A page of a fitted position (R341). -/
def State.pageFitted (s : State) (page : Nat) : Bool :=
  if 0x10 ≤ page ∧ page < 0x1C then s.stackFitted (page - 0x10)
  else if 0x20 ≤ page ∧ page < 0x2C then s.stackFitted (page - 0x20)
  else if 0x60 ≤ page ∧ page < 0x7A then s.portFitted (page - 0x60)
  else if page = 0x81 ∨ page = 0x89 ∨ page = 0x95 then s.iodFitted 1
  else true

/-- A deckle exists (R333). -/
def State.deckleExists (s : State) (d : Nat) : Bool := decide (d < 16) && s.fget F.DECKLE_STATE_state 0 (ofDeckle d) != 0

def State.allDeckles (s : State) : List Nat := (List.range 16).filter s.deckleExists

def State.deckle (s : State) (d : Nat) : Deckle := s.deckles.get (fun _ => Deckle.reset) d
def State.setDeckle (s : State) (d : Nat) (x : Deckle) : State :=
  { s with deckles := s.deckles.set (fun _ => Deckle.reset) d x }

def State.ownsGroup (s : State) (d g : Nat) : Bool := (s.fget F.DECKLE_GROUPS_groups 0 (ofDeckle d)).testBit g
def State.ownsPort (s : State) (d p : Nat) : Bool := (s.fget F.DECKLE_PORTS_ports 0 (ofDeckle d)).testBit p
def State.ownsHalf (s : State) (d stack half : Nat) : Bool :=
  (s.fget F.DECKLE_RES_hbm 0 (ofDeckle d)).testBit (2 * stack + half)
def State.ownsStack (s : State) (d stack : Nat) : Bool := s.ownsHalf d stack 0 || s.ownsHalf d stack 1

def State.ownersOfGroup (s : State) (g : Nat) : List Nat := s.allDeckles.filter fun d => s.ownsGroup d g
def State.ownersOfStack (s : State) (i : Nat) : List Nat := s.allDeckles.filter fun d => s.ownsStack d i
def State.ownersOfPort (s : State) (p : Nat) : List Nat := s.allDeckles.filter fun d => s.ownsPort d p

/-- How a deckle view shows a page (R340, R347). -/
inductive ViewClass
  | shared
  | selected
  | owned
  | hidden
deriving DecidableEq, Repr

def viewClass (page : Nat) : ViewClass :=
  if page ≤ 0x4 then .shared
  else if page ≤ 0x7 then .hidden
  else if page ≤ 0xA then .selected
  else if 0x10 ≤ page ∧ page < 0x1C then .owned
  else if 0x20 ≤ page ∧ page < 0x2C then .owned
  else if 0x30 ≤ page ∧ page < 0x7A then .owned
  else if page = 0x80 ∨ page = 0x81 ∨ page = 0x88 ∨ page = 0x89 then .shared
  else if 0x90 ≤ page ∧ page < 0x97 then .shared
  else .hidden

/-- The deckle owns all or part of the page's instance (R347). -/
def State.ownsPart (s : State) (d page : Nat) : Bool :=
  if 0x10 ≤ page ∧ page < 0x1C then s.ownsStack d (page - 0x10)
  else if 0x20 ≤ page ∧ page < 0x2C then s.ownsStack d (page - 0x20)
  else if 0x30 ≤ page ∧ page < 0x60 then s.ownsGroup d (page - 0x30)
  else if 0x60 ≤ page ∧ page < 0x7A then s.ownsPort d (page - 0x60)
  else false

/-- The deckle owns the whole instance (R347). -/
def State.ownsWhole (s : State) (d page : Nat) : Bool :=
  if 0x10 ≤ page ∧ page < 0x1C then s.ownsHalf d (page - 0x10) 0 && s.ownsHalf d (page - 0x10) 1
  else if 0x20 ≤ page ∧ page < 0x2C then s.ownsHalf d (page - 0x20) 0 && s.ownsHalf d (page - 0x20) 1
  else s.ownsPart d page

/-- A deckle's view shows the page. -/
def State.shows (s : State) (d page : Nat) : Bool :=
  match viewClass page with
  | .shared => true
  | .selected => true
  | .owned => s.ownsPart d page
  | .hidden => false

/-! Events (R344). -/

/-- A Duntus message of the module's own, numbered in its turn (R443, R444): an event to the endpoint that opened the session,
RAIL_REQ, POWER_EVENT, POWEROFF_READY and ALARM to the one that assigned the EID (R445; of the first and third by inference, for they
need no session). -/
def State.duntus (s : State) (code : Nat) (body : List Byte) : State :=
  let dest := if [0x06, 0x23, 0x25, 0x51].contains code then s.mgt.assigner else s.mgt.opener
  { s with
    mgt := { s.mgt with txSeq := (s.mgt.txSeq + 1) % 2 ^ 16 }
    out := s.out ++ [.duntus dest code false true 0 s.mgt.txSeq body] }

/-- A Duntus event, sent only while a management session is open (R445). -/
def State.duntusEvent (s : State) (code : Nat) (body : List Byte) : State :=
  if s.flag F.MGT_I3C_session then s.duntus code body else s

/-- Delivery of pending events of a page in a view: MSI-X vector 0 of the view's function, or a Duntus REG_EVENT with
the page and the EVENT bits in the management view (R344, R445). -/
def State.notify (s : State) (page view : Nat) : State :=
  if view = 20 then s.duntusEvent 0x50 (leBytes 2 page ++ leBytes 4 (s.reg (bank view) page 0x18))
  else s.emit (.msix view 0)

/-- An EVENT bit set in one view, delivered when that makes (EVENT and EVENT_EN) non-zero with ev_irq set. -/
def State.raiseIn (s : State) (page bit view : Nat) : State :=
  let ev := s.reg (bank view) page 0x18
  let en := s.reg (bank view) page 0x1C
  let ev' := ev ||| 2 ^ bit
  let s' := s.setReg (bank view) page 0x18 ev'
  if (ev &&& en) == 0 && (ev' &&& en) != 0 && (s.reg (bank view) page 0x10).testBit 0 then
    s'.notify page view
  else s'

/-- The views that always see a condition: function 0 of each link, and the management port (R344). -/
def wideViews : List Nat := [0, 1, 2, 3, 20]

/-- The views a condition is set in: the wide ones and those deckles of `att` whose view shows the page. -/
def State.viewsFor (s : State) (page : Nat) (att : List Nat) : List Nat :=
  wideViews ++ ((att.filter fun d => s.deckleExists d && s.shows d page).map (4 + ·))

/-- A bit of EVENT set on a page, attributed to the deckles `att`. -/
def State.raiseBit (s : State) (page bit : Nat) (att : List Nat) : State :=
  (s.viewsFor page att).foldl (fun s v => s.raiseIn page bit v) s

/-- An event of a block, attributed to the given deckles. -/
def State.raiseTo (s : State) (e : Ev) (att : List Nat) (inst : Nat := 0) : State :=
  s.raiseBit (e.page + inst) e.bit att

/-- An event attributed to every deckle. -/
def State.raise (s : State) (e : Ev) (inst : Nat := 0) : State := s.raiseTo e s.allDeckles inst

/-! The CRC-64 of R223: polynomial of ECMA-182, initial value all ones, result inverted, most significant bit first
(the order of bits is the model's reading). -/

def crcBit (c : Nat) : Nat := if c / 2 ^ 63 % 2 = 1 then (c * 2 % 2 ^ 64) ^^^ 0x42F0E1EBA9EA3693 else c * 2 % 2 ^ 64
def crcByte (c : Nat) (b : Byte) : Nat := Nat.repeat crcBit 8 (c ^^^ (b.toNat * 2 ^ 56))
def crc64 (d : List Byte) : Word := BitVec.ofNat 64 (2 ^ 64 - 1 - d.foldl crcByte (2 ^ 64 - 1))

/-! Statistics counters (R55). -/

/-- The counter_overflow event's bit on a block's first page. -/
def overflowBit (page : Nat) : Nat :=
  if page = 0x1 then 5 else if page = 0x2 then 8 else if page = 0x3 then 4 else if page = 0x4 then 7
  else if page = 0x5 then 7 else if page = 0x6 then 6 else if page = 0x7 then 29 else if page = 0x8 then 4
  else if page = 0x9 then 5 else if page = 0xA then 4 else if page = 0x10 then 2 else if page = 0x20 then 5
  else if page = 0x30 then 4 else if page = 0x60 then 6 else if page = 0x80 then 5 else if page = 0x88 then 5 else 3

/-- A counter's count. -/
def State.count (s : State) (c : Cnt) (inst : Nat := 0) : Nat := s.reg 0 (c.page + inst) c.off % 2 ^ 48

/-- `n` added to a counter, which stops at 2^48 - 1 and sets ovf as it reaches that (R55); counter_overflow is raised as ovf
goes from 0 to 1 (DEDUCED, log 98). -/
def State.bumpBy (s : State) (c : Cnt) (n : Nat) (inst : Nat := 0) : State :=
  let v := s.reg 0 (c.page + inst) c.off
  let k := v % 2 ^ 48 + n
  if n = 0 then s
  else if k < 2 ^ 48 - 1 then s.setReg 0 (c.page + inst) c.off (v - v % 2 ^ 48 + k)
  else
    let s' := s.setReg 0 (c.page + inst) c.off (2 ^ 63 + (2 ^ 48 - 1))
    if c.page = 0x7 ∨ v.testBit 63 = true then s' else s'.raiseBit (c.page + inst) (overflowBit c.page) s.allDeckles

def State.bump (s : State) (c : Cnt) (inst : Nat := 0) : State := s.bumpBy c 1 inst

/-! Fault records (R353-R355). -/

/-- The four words of a record (R353). -/
def FaultRec.words (f : FaultRec) : List Nat :=
  [ 0x01 + f.status * 2 ^ 8 + f.block * 2 ^ 16 + f.inst * 2 ^ 24 + f.vtile * 2 ^ 32 + f.tile * 2 ^ 48,
    f.beat.toNat,
    f.ctx.getD 0 + f.deckle * 2 ^ 16 + (if f.ctx.isSome then 2 ^ 21 else 0) + f.kind * 2 ^ 24 + f.a * 2 ^ 32,
    f.b ]

/-- A record kept in one view's FAULT and FAULT_INFO, with EVENT.fault_logged (R342). -/
def State.noteFault (s : State) (page status idx view : Nat) : State :=
  let n := min 0xFFFF (bits (s.reg (bank view) page 0x20) 0 16 + 1)
  ((s.setReg (bank view) page 0x20 (n + status * 2 ^ 16)).setReg (bank view) page 0x24 (idx + 2 ^ 31)).raiseIn page 31 view

/-- A fault record written by the block of a page (R353-R355), attributed by its deckle field. -/
def State.logFault (s : State) (page : Nat) (f : FaultRec) : State :=
  let head := s.fget F.RSTCTL_FLOG_HEAD_written
  let idx := head % 4096
  let s1 := { s with flog := s.flog.set (fun _ => none) idx (some f) }
  let s2 := s1.fset F.RSTCTL_FLOG_HEAD_written (head + 1)
  let att := if f.deckle < 16 then [f.deckle] else s.allDeckles
  (s2.viewsFor page att).foldl (fun s v => s.noteFault page f.status idx v) s2

/-- A record of the detecting page with no context, tile or sheet. -/
def State.faultRec (s : State) (page status deckle kind a b : Nat) : FaultRec :=
  let p := pageOf page
  { status, block := (p.map fun r => r.1.2.2.1).getD 0, inst := (p.map (·.2)).getD 0, vtile := 0x3FFF, tile := 0x3FFF,
    beat := BitVec.ofNat 64 s.beatCount, ctx := none, deckle, kind, a, b }

/-- A fault record of kind register (R354): offset, size, write, view. -/
def State.regFault (s : State) (view off bytes : Nat) (write : Bool) (status : Nat) : State :=
  let page := off / 4096
  let d := if 4 ≤ view ∧ view < 20 then view - 4 else 0x1F
  let pg := if (pageOf page).isSome then page else Page.RSTCTL
  s.logFault pg (s.faultRec pg status d 0x09 (off % 2 ^ 25) (bytes % 16 + (if write then 16 else 0) + view * 2 ^ 5))

/-! Tiles and the scratchpad (R18, R58). -/

def State.tile (s : State) (t : Nat) : Tile := s.tiles.get (fun _ => Tile.reset) t
def State.setTile (s : State) (t : Nat) (x : Tile) : State := { s with tiles := s.tiles.set (fun _ => Tile.reset) t x }

def groupOf (t : Nat) : Nat := t / 256
def dieOf (t : Nat) : Nat := t / 3072
def rowOf (t : Nat) : Nat := t % 3072 / 64
def colOf (t : Nat) : Nat := t % 64

/-- Bytes of scratchpad, 160 KiB. -/
def spadBytes : Nat := 0x28000

def State.spadRead (s : State) (t a n : Nat) : List Byte := s.spad.getRange (fun _ => 0) (t * spadBytes + a) n
def State.spadWrite (s : State) (t a : Nat) (d : List Byte) : State :=
  { s with spad := s.spad.setRange (fun _ => 0) (t * spadBytes + a) d }
/-- Every byte of a tile's scratchpad set to 0 (R173, R411, R413). -/
def State.spadZero (s : State) (t : Nat) : State := { s with spad := s.spad.clear fun k => k / spadBytes == t }

/-! HBM (R198-R205). -/

/-- The entries of a deckle in the order of R138: stack, and half for half-stack entries. -/
def State.entries (s : State) (d : Nat) : List (Nat × Nat) :=
  if (s.deckle d).half then
    ((List.range 24).filter fun b => s.ownsHalf d (b / 2) (b % 2)).map fun b => (b / 2, b % 2)
  else ((List.range 12).filter fun i => s.ownsHalf d i 0).map fun i => (i, 0)

/-- Bytes of one entry: 96 GiB, or 48 GiB for a half stack (R199). -/
def State.entryBytes (s : State) (d : Nat) : Nat := if (s.deckle d).half then 48 * 2 ^ 30 else 96 * 2 ^ 30

/-- Bytes of a deckle's local HBM. -/
def State.localSize (s : State) (d : Nat) : Nat := (s.entries d).length * s.entryBytes d

/-- A byte of HBM is keyed by stack, channel and channel offset. -/
def hbmKey (stack channel choff : Nat) : Nat := (stack * 32 + channel) * 2 ^ 32 + choff

/-- Channel and channel offset of an address within an entry (R202). -/
def entryMap (half : Bool) (h x : Nat) : Nat × Nat :=
  let u := x / 256
  if half then (16 * h + (bits u 0 4 ^^^ bits u 4 4 ^^^ bits u 8 4), u / 16 * 256 + x % 256)
  else (bits u 0 5 ^^^ bits u 5 5 ^^^ bits u 10 5, u / 32 * 256 + x % 256)

/-- The key of a local address (R202). -/
def State.localKey (s : State) (d a : Nat) : Nat :=
  let es := s.entries d
  let n := es.length
  let g := a / 4096
  let e := es.getD (g % n) (0, 0)
  let m := entryMap (s.deckle d).half e.2 (g / n * 4096 + a % 4096)
  hbmKey e.1 m.1 m.2

/-- The chest arena lies at the top of the deckle's local HBM (R137; its place is the model's choice, log 15). -/
def State.arenaBytes (s : State) (d : Nat) : Nat := s.fget F.CHEST_ARENA_SIZE_size_mib 0 (ofDeckle d) * 2 ^ 20
def State.arenaBase (s : State) (d : Nat) : Nat := s.localSize d - s.arenaBytes d

/-- A range overlaps the chest arena (R137, R310). -/
def State.inArena (s : State) (d a n : Nat) : Bool := decide (s.arenaBase d < a + n) && decide (0 < s.arenaBytes d)

/-- `n` bytes at local addresses from `a`. -/
def State.localRead (s : State) (d a n : Nat) : List Byte :=
  (List.range n).map fun i => s.hbm.get (fun _ => 0) (s.localKey d (a + i))

/-- A 64-byte unit at a local address is poisoned (R204). -/
def State.isPoisoned (s : State) (d a : Nat) : Bool := s.poison.get (fun _ => false) (s.localKey d (a / 64 * 64) / 64)

/-- The first address in a local range that cannot be read, with the status of R204 or R215. -/
def State.localBad (s : State) (d a n : Nat) : Option (Nat × Nat) :=
  if n = 0 then none
  else if (s.deckle d).lost then some (0x12, a)
  else ((List.range ((a + n - 1) / 64 - a / 64 + 1)).find? fun i => s.isPoisoned d ((a / 64 + i) * 64)).map
    fun i => (0x0D, max a ((a / 64 + i) * 64))

/-- Bytes written at local addresses from `a`; a unit covered whole loses its poison (R205). -/
def State.localWrite (s : State) (d a : Nat) (data : List Byte) : State :=
  let cells := data.zipIdx.map fun p => (s.localKey d (a + p.2), p.1)
  let hbm := cells.foldl (fun m c => m.set (fun _ => (0 : Byte)) c.1 c.2) s.hbm
  let first := (a + 63) / 64
  let units := (List.range ((a + data.length) / 64 - first)).map fun i => s.localKey d ((first + i) * 64) / 64
  { s with hbm, poison := units.foldl (fun m u => m.set (fun _ => false) u false) s.poison }

/-- Counts each poisoned unit read (R204) on its stack's page. -/
def State.countPoison (s : State) (d a : Nat) : State :=
  s.bump C.HBMC_POISON_RD_CNT (s.localKey d a / 2 ^ 37)

/-- Counts every poisoned unit of a range read. -/
def State.countPoisons (s : State) (d a n : Nat) : State :=
  s.each ((List.range ((a + n - 1) / 64 - a / 64 + 1)).map fun i => (a / 64 + i) * 64) fun s u =>
    s.when (s.isPoisoned d u) (·.countPoison d u)

/-- The row of a unit as HBMC_ERR_LOC and the broke map lay it out (R200, R218): channel, pseudo-channel, SID, bank group, bank,
row. -/
def rowOf' (channel choff : Nat) : Nat :=
  channel + bits choff 6 1 * 2 ^ 5 + bits choff 17 2 * 2 ^ 6 + bits choff 15 2 * 2 ^ 8 + bits choff 13 2 * 2 ^ 10 +
    bits choff 19 13 * 2 ^ 12

/-- HBMC_ERR_LOC of a unit (R218). -/
def errLoc (channel choff : Nat) : Nat := rowOf' channel choff + bits choff 7 6 * 2 ^ 25 + 2 ^ 31

/-! Contexts (R330). -/

def State.ctx (s : State) (c : Nat) : Ctx := s.ctxs.get (fun _ => Ctx.reset) c
def State.setCtx (s : State) (c : Nat) (x : Ctx) : State := { s with ctxs := s.ctxs.set (fun _ => Ctx.reset) c x }
def State.modCtx (s : State) (c : Nat) (f : Ctx → Ctx) : State := s.setCtx c (f (s.ctx c))

/-- The handle of a context: index in [9:0], generation in [15:10]. -/
def State.handle (s : State) (c : Nat) : Nat := c + (s.ctx c).gen * 1024

/-- The context a handle names, when its generation is current and it is not free. -/
def State.live (s : State) (h : Nat) : Option Nat :=
  let c := h % 1024
  if (s.ctx c).st = .free ∨ (s.ctx c).gen ≠ h / 1024 then none else some c

/-- The context a packet's handle names: live, and not revoked at the I/O dies (R313, R331). -/
def State.liveIn (s : State) (h : Nat) : Option Nat := (s.live h).filter fun c => !(s.ctx c).revoked

/-- Indices of contexts that are not FREE. -/
def State.ctxList (s : State) : List Nat := (s.ctxs.filter fun p => decide (p.2.st ≠ .free)).map Prod.fst

def State.ctxsOf (s : State) (d : Nat) : List Nat := s.ctxList.filter fun c => (s.ctx c).deckle == d

/-! Queues and completion records (R318-R321). -/

def queueKey (fn q : Nat) : Nat := fn * 64 + q
def State.queue (s : State) (fn q : Nat) : Queue := s.queues.get (fun _ => Queue.reset) (queueKey fn q)
def State.setQueue (s : State) (fn q : Nat) (x : Queue) : State :=
  { s with queues := s.queues.set (fun _ => Queue.reset) (queueKey fn q) x }

def Cmd.opcode (c : Cmd) : Nat := fieldAt c.desc 0 0 8
def Cmd.ordered (c : Cmd) : Bool := fieldAt c.desc 0 8 1 == 1
def Cmd.ctx (c : Cmd) : Nat := fieldAt c.desc 0 16 16
def Cmd.id (c : Cmd) : Nat := fieldAt c.desc 4 0 32

/-- A field of a command's operands (R506). -/
def Cmd.op (c : Cmd) (off lo w : Nat) : Nat := fieldAt c.desc off lo w

/-- The host link of a function: link n for function 0 of link n, the deckle's link otherwise. -/
def State.linkOf (s : State) (fn : Nat) : Nat :=
  if fn < 4 then fn else s.fget F.DECKLE_STATE_link 0 (ofDeckle (fn - 4))

/-- The state register field of a host link. -/
def linkStateF (l : Nat) : Fld := ⟨Page.CXLP, 0x84 + 4 * l, 0, 2⟩
def linkWidthF (l : Nat) : Fld := ⟨Page.CXLP, 0x84 + 4 * l, 2, 5⟩
def linkRateF (l : Nat) : Fld := ⟨Page.CXLP, 0x84 + 4 * l, 7, 2⟩
def linkIdeF (l : Nat) : Fld := ⟨Page.CXLP, 0x84 + 4 * l, 9, 1⟩
def linkOwnerF (l : Nat) : Fld := ⟨Page.CXLP, 0x84 + 4 * l, 10, 1⟩

def State.linkActive (s : State) (l : Nat) : Bool := s.fget (linkStateF l) == 2

/-- A completion record (R321). `sq_head` is the ring index one past the last descriptor fetched. -/
def State.record (s : State) (c : Cmd) (q : Queue) (status detail result : Nat) : List Byte :=
  let phase := if q.written / 2 ^ q.e % 2 = 0 then 2 ^ 8 else 0
  leBytes 4 c.id ++ leBytes 4 (status + phase + c.queue * 2 ^ 9 + c.ctx * 2 ^ 16) ++
    leBytes 4 detail ++ leBytes 4 (q.fetched % 2 ^ q.e) ++ leBytes 8 result ++ leBytes 8 s.beatCount

/-- The result of CTX_START, CTX_STOP and CTX_WAIT is the state of the context at completion (R506, R508). -/
def State.resultOf (s : State) (c : Cmd) (status result : Nat) : Nat :=
  if (c.opcode == 0x12 || c.opcode == 0x13 || c.opcode == 0x15) && status != 0x08 then
    match s.live c.ctx with
    | some i => if (s.ctx i).deckle + 4 = c.fn then (s.ctx i).st.code else 0
    | none => 0
  else result

/-- A command completes: its one transition (R328), its record and its MSI-X vector (R321, R318). A record of a queue
that stopped with its link is discarded and counted (R307). Queue 64 is the model's number for commands whose admin queue has
been reset (R319): their records go nowhere. -/
def State.close (s : State) (c : Cmd) (status detail result : Nat) : State :=
  let s1 := ({ s with cmds := s.cmds.erase c }).bump C.DECKLE_CMD_CNT
  let q := s1.queue c.fn c.queue
  if c.lost then s1.bump C.DECKLE_LOST_CPL_CNT
  else if q.state = .stopped ∨ 64 ≤ c.queue then s1
  else
    let s2 := (s1.setQueue c.fn c.queue { q with written := q.written + 1 }).emit
      (.completion c.fn c.queue (s1.record c q status detail (s.resultOf c status result)))
    s2.emit (.msix c.fn q.vector)

/-- A queue being deleted goes with its last command, and QUEUE_DELETE completes (R326). -/
def State.dropQueue (s : State) (fn queue : Nat) : State :=
  if (s.queue fn queue).deleting && !(s.cmds.any fun k => !k.lost && k.fn == fn && k.queue == queue) then
    let s1 := s.setQueue fn queue Queue.reset
    match s1.cmds.find? fun k => k.begun && k.fn == fn && k.opcode == 0x05 && k.op 0x10 0 6 == queue with
    | some k => s1.close k 0 0 0
    | none => s1
  else s

/-- A command in flight completes with a status, a detail and a result; one that is closed already is left alone. -/
def State.finish (s : State) (c : Cmd) (status : Nat) (detail : Nat := 0) (result : Nat := 0) : State :=
  if s.cmds.contains c then (s.close c status detail result).dropQueue c.fn c.queue else s

/-- Every command in flight that satisfies `p` completes with a status. -/
def State.finishAll (s : State) (p : Cmd → Bool) (status : Nat) (result : Nat := 0) : State :=
  (s.cmds.filter p).foldl (fun s c => s.finish c status 0 result) s

/-! RSTCTL_STATE (R428). -/

def rsReady : Nat := 0
def rsFencing : Nat := 1
def rsDumping : Nat := 2
def rsResetting : Nat := 3
def rsTraining : Nat := 4
def rsFailed : Nat := 5

def State.rsState (s : State) : Nat := s.fget F.RSTCTL_STATE_state

/-- The compute domain is in service: READY, with REFCLK, running domains and no thermal trip (R359, R364, R397). -/
def State.inService (s : State) : Bool := s.rsState == rsReady && !s.rst.refLost && !s.rst.tripped && !s.clk.stopped

/-- READY has been reached since power-on (R484). -/
def State.upDone (s : State) : Bool := s.fget F.RSTCTL_BRINGUP_phase == 4

end Sys2Proof.Machine
end

