-- ==== Sys2Proof/Machine/Operands.lean ====
section
/-! DEFINITION. Every operand form: sequencer instructions (R85, R86), descriptors (R65-R83), reams and sheets
(R37-R40), element packing (R99), journal entries (R189) and blocks of the command records. -/

namespace Sys2Proof.Machine

/-! Sequencer instructions. -/

/-- The formats of R85. -/
inductive SeqFormat
  | a
  | i
  | b
  | t
deriving DecidableEq, Repr

/-- The format of each opcode (R86); all others are reserved. -/
def seqFormat (op : Nat) : Option SeqFormat :=
  if 0x10 ≤ op ∧ op ≤ 0x1D then some .a
  else if op = 0x20 ∨ (0x23 ≤ op ∧ op ≤ 0x28) ∨ op = 0x2B ∨ op = 0x2E ∨ op = 0x2F then some .i
  else if 0x30 ≤ op ∧ op ≤ 0x33 then some .i
  else if (0x40 ≤ op ∧ op ≤ 0x46) ∨ op = 0x48 ∨ op = 0x49 then some .b
  else if op = 0x50 ∨ (0x53 ≤ op ∧ op ≤ 0x56) ∨ op = 0x7F then some .a
  else if op = 0x51 ∨ op = 0x52 then some .t
  else if op = 0x60 then some .i
  else none

/-- A sequencer instruction's fields (R85). `imm` is the sign-extended immediate, or the branch offset. -/
structure SeqInstr where
  op : Nat
  rd : Nat
  rs1 : Nat
  rs2 : Nat
  func : Nat
  width : Nat
  imm : Int
  tok : Nat
  cnt : Nat
deriving DecidableEq, Repr

/-- The selectors of R88. -/
def movsOk (sel : Int) : Bool :=
  decide (0 ≤ sel ∧ sel ≤ 8) || decide (0x100 ≤ sel ∧ sel ≤ 0x10F) || decide (0x200 ≤ sel ∧ sel ≤ 0x20F)

/-- The instruction a word encodes; none for a reserved opcode, field or value (R85-R88). -/
def decodeSeq (word : Word) : Option SeqInstr :=
  let w := word.toNat
  let op := bits w 0 8
  match seqFormat op with
  | none => none
  | some .a =>
    let x : SeqInstr := ⟨op, bits w 8 5, bits w 13 5, bits w 18 5, bits w 23 9, 0, 0, 0, 0⟩
    if bits w 32 32 != 0 || (op == 0x50 && decide (9 < x.func)) || (op == 0x53 && decide (1 < x.func)) then none
    else some x
  | some .i =>
    let x : SeqInstr := ⟨op, bits w 8 5, bits w 13 5, 0, 0, bits w 18 2, toSigned 32 (bits w 32 32), 0, 0⟩
    if bits w 20 12 != 0 || (op == 0x60 && !movsOk x.imm) then none else some x
  | some .b =>
    if bits w 18 14 != 0 then none
    else some ⟨op, 0, bits w 8 5, bits w 13 5, 0, 0, toSigned 32 (bits w 32 32), 0, 0⟩
  | some .t =>
    let cnt := bits w 12 8
    if bits w 20 44 != 0 || (op == 0x51 && cnt != 0) || (op == 0x52 && cnt == 0) then none
    else some ⟨op, 0, 0, 0, 0, 0, 0, bits w 8 4, cnt⟩

/-! Element packing (R99): element i of a row lies at bit i * width of the row's little-endian value. -/

/-- Bytes of `n` packed elements of width `w`. -/
def packedBytes (w n : Nat) : Nat := w * n / 8

def unpackBits (w n : Nat) (row : List Byte) : List Nat :=
  let v := leNat row
  (List.range n).map fun i => v / 2 ^ (w * i) % 2 ^ w

/-- The value of packed elements. -/
def packValue (w : Nat) : List Nat → Nat
  | [] => 0
  | x :: r => x % 2 ^ w + 2 ^ w * packValue w r

def packBits (w : Nat) (xs : List Nat) : List Byte := leBytes (packedBytes w xs.length) (packValue w xs)

/-! Descriptors (R65, R66). -/

def descKind (d : List Byte) : Nat := fieldAt d 0 0 8
def tailWaitTok (d : List Byte) : Nat := fieldAt d 0x38 0 4
def tailWaitCnt (d : List Byte) : Nat := fieldAt d 0x38 4 8
def tailWaitEn (d : List Byte) : Bool := fieldAt d 0x38 12 1 == 1
def tailSigTok (d : List Byte) : Nat := fieldAt d 0x38 13 4
def tailSigEn (d : List Byte) : Bool := fieldAt d 0x38 17 1 == 1

/-- The tail's own rules: reserved bits 0, a count of 1-255 when the descriptor waits (R66). -/
def tailOk (d : List Byte) : Bool :=
  fieldAt d 0x38 18 46 == 0 && (!tailWaitEn d || tailWaitCnt d != 0)

/-- A range of scratchpad rows: start, bytes, rows, stride. -/
structure Span where
  addr : Nat
  len : Nat
  rows : Nat
  stride : Nat
deriving DecidableEq, Repr

/-- The lowest address at or above `lim` that a range touches (R59). -/
def Span.refused (lim : Nat) (p : Span) : Option Nat :=
  if p.len = 0 then none
  else
    let starts := (List.range p.rows).map fun i => p.addr + i * p.stride
    (starts.filter fun a => decide (lim < a + p.len)).foldl
      (fun m a => let x := max a lim; some (match m with | none => x | some y => min x y)) none

/-- The lowest refused address of several ranges. -/
def refusedAddr (lim : Nat) (ps : List Span) : Option Nat :=
  ps.foldl (fun m p =>
    match m, p.refused lim with
    | none, r => r
    | some x, none => some x
    | some x, some y => some (min x y)) none

/-! The matrix descriptor (R70-R74). -/

structure MatrixDesc where
  aFmt : Nat
  bFmt : Nat
  acc : Nat
  init : Bool
  wb : Bool
  outFmt : Nat
  rnd : Nat
  nomul : Bool
  k : Nat
  a : Nat
  b : Nat
  sa : Nat
  sb : Nat
  out : Nat
  stride : Nat
deriving DecidableEq, Repr

def matrixDesc (d : List Byte) : MatrixDesc where
  aFmt := fieldAt d 0 8 5
  bFmt := fieldAt d 0 13 5
  acc := fieldAt d 0 18 2
  init := fieldAt d 0 20 1 == 1
  wb := fieldAt d 0 21 1 == 1
  outFmt := fieldAt d 0 22 5
  rnd := fieldAt d 0 27 2
  nomul := fieldAt d 0 29 1 == 1
  k := fieldAt d 4 0 16
  a := fieldAt d 8 0 18
  b := fieldAt d 0xC 0 18
  sa := fieldAt d 0x10 0 18
  sb := fieldAt d 0x14 0 18
  out := fieldAt d 0x18 0 18
  stride := fieldAt d 0x1C 0 16

/-- The operand pairs of R72: whether the accumulator is INT32, and the multiple k must be of. -/
def matrixPair (a b : Nat) : Option (Bool × Nat) :=
  if (a = 1 ∧ b = 1) ∨ (a = 2 ∧ b = 2) then some (false, 16)
  else if (a = 3 ∨ a = 4) ∧ (b = 3 ∨ b = 4) then some (false, 16)
  else if a = 5 ∧ b = 5 then some (true, 16)
  else if isMx a ∧ isMx b then some (false, 32)
  else none

def fmtWidth (f : Nat) : Nat := ((elemOf f).map Elem.width).getD 8

/-- Scratchpad ranges of a matrix descriptor (R73). -/
def MatrixDesc.spans (m : MatrixDesc) : List Span :=
  (if m.nomul then [] else
    [⟨m.a, packedBytes (fmtWidth m.aFmt) 16 * m.k, 1, 0⟩, ⟨m.b, packedBytes (fmtWidth m.bFmt) 16 * m.k, 1, 0⟩,
     ⟨m.sa, if isMx m.aFmt then m.k / 32 * 16 else 0, 1, 0⟩, ⟨m.sb, if isMx m.bFmt then m.k / 32 * 16 else 0, 1, 0⟩]) ++
  (if m.wb then [⟨m.out, packedBytes (fmtWidth m.outFmt) 16, 16, m.stride⟩] else [])

/-- The rules of R70-R74 that a matrix descriptor's bytes decide. -/
def matrixOk (d : List Byte) : Bool :=
  let m := matrixDesc d
  let clean := fieldAt d 0 30 2 == 0 && fieldAt d 4 16 16 == 0 && fieldAt d 8 18 14 == 0 && fieldAt d 0xC 18 14 == 0 &&
    fieldAt d 0x10 18 14 == 0 && fieldAt d 0x14 18 14 == 0 && fieldAt d 0x18 18 14 == 0 && fieldAt d 0x1C 16 16 == 0 &&
    ((d.drop 0x20).take 0x18).all (· == 0)
  match matrixPair m.aFmt m.bFmt with
  | none => false
  | some (isInt, step) =>
    clean && m.rnd != 3 &&
    (if m.nomul then m.k == 0 && m.wb && m.a == 0 && m.b == 0 && m.sa == 0 && m.sb == 0
     else decide (16 ≤ m.k ∧ m.k ≤ 16384 ∧ m.k % step = 0) && decide (m.a % 64 = 0 ∧ m.b % 64 = 0) &&
       (isMx m.aFmt || m.sa == 0) && (isMx m.bFmt || m.sb == 0)) &&
    (if m.wb then
      (if isInt then m.outFmt == 6 || m.outFmt == 5 else decide (m.outFmt ≤ 4)) &&
        decide (m.out % 64 = 0 ∧ m.stride % 16 = 0 ∧ packedBytes (fmtWidth m.outFmt) 16 ≤ m.stride)
     else m.outFmt == 0 && m.rnd == 0 && m.out == 0 && m.stride == 0)

/-! The vector descriptor (R76, R77). -/

structure VectorDesc where
  op : Nat
  inFmt : Nat
  outFmt : Nat
  rnd : Nat
  bcast : Bool
  cols : Nat
  rows : Nat
  a : Nat
  b : Nat
  c : Nat
  d : Nat
  as : Nat
  bs : Nat
  cs : Nat
  ds : Nat
  imm : Nat
deriving DecidableEq, Repr

def vectorDesc (d : List Byte) : VectorDesc where
  op := fieldAt d 0 8 8
  inFmt := fieldAt d 0 16 5
  outFmt := fieldAt d 0 21 5
  rnd := fieldAt d 0 26 2
  bcast := fieldAt d 0 28 1 == 1
  cols := fieldAt d 4 0 16
  rows := fieldAt d 4 16 16
  a := fieldAt d 8 0 18
  b := fieldAt d 0xC 0 18
  c := fieldAt d 0x10 0 18
  d := fieldAt d 0x14 0 18
  as := fieldAt d 0x18 0 16
  bs := fieldAt d 0x18 16 16
  cs := fieldAt d 0x1C 0 16
  ds := fieldAt d 0x1C 16 16
  imm := fieldAt d 0x20 0 32

/-- Operands a vector operation uses: b, c, imm (R76, R77); none for a reserved code. -/
def vectorUses (op : Nat) : Option (Bool × Bool × Bool) :=
  if op = 0x01 ∨ op = 0x02 ∨ op = 0x03 ∨ op = 0x05 ∨ op = 0x06 then some (true, false, false)
  else if op = 0x04 then some (true, true, false)
  else if op = 0x09 then some (false, false, true)
  else if op = 0x07 ∨ op = 0x08 ∨ (0x10 ≤ op ∧ op ≤ 0x14) ∨ op = 0x20 ∨ (0x30 ≤ op ∧ op ≤ 0x32) then
    some (false, false, false)
  else if op = 0x21 ∨ op = 0x22 then some (false, true, false)
  else none

def isMxOp (op : Nat) : Bool := op == 0x21 || op == 0x22
def isReduce (op : Nat) : Bool := decide (0x30 ≤ op ∧ op ≤ 0x32)

/-- Row bytes of the destination. -/
def VectorDesc.rowOut (v : VectorDesc) : Nat :=
  if isReduce v.op then packedBytes (fmtWidth v.outFmt) 1 else packedBytes (fmtWidth v.outFmt) v.cols

def VectorDesc.rowIn (v : VectorDesc) : Nat := packedBytes (fmtWidth v.inFmt) v.cols
def VectorDesc.rowC (v : VectorDesc) : Nat := if isMxOp v.op then v.cols / 32 else v.rowIn

def VectorDesc.spans (v : VectorDesc) : List Span :=
  match vectorUses v.op with
  | none => []
  | some (ub, uc, _) =>
    [⟨v.a, v.rowIn, v.rows, v.as⟩, ⟨v.d, v.rowOut, v.rows, v.ds⟩] ++
      (if ub then [⟨v.b, v.rowIn, if v.bcast then 1 else v.rows, v.bs⟩] else []) ++
      (if uc then [⟨v.c, v.rowC, v.rows, v.cs⟩] else [])

/-- Alignment of rows: the element size, or 8 bytes for MX rows (R76, R100). -/
def rowAlign (f : Nat) : Nat := if isMx f then 8 else fmtWidth f / 8

def alignedRows (al addr stride rows : Nat) : Bool := addr % al == 0 && (decide (rows ≤ 1) || stride % al == 0)

/-- The rules of R76, R77, R107 and R112 that a vector descriptor's bytes decide. With bcast = 1 b_stride is not held to be 0, the
rules not saying whether the operation uses it (DESIGN CHOICE, log 102). -/
def vectorOk (d : List Byte) : Bool :=
  let v := vectorDesc d
  let clean := fieldAt d 0 29 3 == 0 && fieldAt d 8 18 14 == 0 && fieldAt d 0xC 18 14 == 0 && fieldAt d 0x10 18 14 == 0 &&
    fieldAt d 0x14 18 14 == 0 && ((d.drop 0x24).take 0x14).all (· == 0)
  match vectorUses v.op with
  | none => false
  | some (ub, uc, ui) =>
    clean && v.rnd != 3 &&
    (if v.op == 0x21 then isPlain v.inFmt && isMx v.outFmt
     else if v.op == 0x22 then isMx v.inFmt && decide (v.outFmt ≤ 2)
     else isPlain v.inFmt && isPlain v.outFmt) &&
    decide (1 ≤ v.cols ∧ v.cols ≤ 4096 ∧ 1 ≤ v.rows) && (!isMxOp v.op || v.cols % 32 == 0) &&
    (ub || (v.b == 0 && v.bs == 0 && !v.bcast)) && (uc || (v.c == 0 && v.cs == 0)) && (ui || v.imm == 0) &&
    alignedRows (rowAlign v.inFmt) v.a v.as v.rows && alignedRows (rowAlign v.outFmt) v.d v.ds v.rows &&
    (!ub || alignedRows (rowAlign v.inFmt) v.b v.bs (if v.bcast then 1 else v.rows)) &&
    (!uc || isMxOp v.op || alignedRows (rowAlign v.inFmt) v.c v.cs v.rows)

/-! The DMA descriptor (R80-R82, R147, R153). -/

structure DmaDesc where
  src : Nat
  dst : Nat
  vc : Nat
  flagged : Bool
  fill : Bool
  ssel : Nat
  dsel : Nat
  sa : Nat
  da : Nat
  rowLen : Nat
  rows : Nat
  ss : Nat
  ds : Nat
  pattern : Nat
deriving DecidableEq, Repr

def dmaDesc (d : List Byte) : DmaDesc where
  src := fieldAt d 0 8 4
  dst := fieldAt d 0 12 4
  vc := fieldAt d 0 16 2
  flagged := fieldAt d 0 18 1 == 1
  fill := fieldAt d 0 19 1 == 1
  ssel := fieldAt d 4 0 16
  dsel := fieldAt d 4 16 16
  sa := fieldAt d 8 0 48
  da := fieldAt d 0x10 0 48
  rowLen := fieldAt d 0x18 0 32
  rows := fieldAt d 0x1C 0 16
  ss := fieldAt d 0x20 0 32
  ds := fieldAt d 0x24 0 32
  pattern := fieldAt d 0x28 0 64

/-- The screen port (R136, R153). -/
def screenPort : Nat := 0xFFFFFFFFFF00

def DmaDesc.isQuery (x : DmaDesc) : Bool := x.dst == 3 && x.da == screenPort
def DmaDesc.isChest (x : DmaDesc) : Bool := (x.src == 3 && !x.fill) || x.dst == 3

/-- The rules of R80, R81, R147 and R153 that a DMA descriptor's bytes decide. -/
def dmaOk (d : List Byte) : Bool :=
  let x := dmaDesc d
  let clean := fieldAt d 0 20 12 == 0 && fieldAt d 8 48 16 == 0 && fieldAt d 0x10 48 16 == 0 &&
    fieldAt d 0x1C 16 16 == 0 && fieldAt d 0x30 0 64 == 0
  let selOk (sp sel : Nat) : Bool := sp == 1 || sp == 2 || sel == 0
  let peer := x.src == 2 || x.dst == 2
  clean && decide (x.src ≤ 4 ∧ x.dst ≤ 4) && x.vc != 0 && (peer || (x.vc == 1 && !x.flagged)) &&
    selOk x.src x.ssel && selOk x.dst x.dsel && decide (1 ≤ x.rows) &&
    (if x.isQuery then
      x.src == 1 && !x.fill && x.rowLen == 1 && x.rows == 1 && x.ss == 0 && x.ds == 0 && x.sa % 64 == 0
     else if x.isChest then
      !x.fill && !(x.src == 3 && x.dst == 3) && decide (x.src = 3 ∨ x.src ≤ 1) && decide (x.dst = 3 ∨ x.dst ≤ 1) &&
        decide (1 ≤ x.rowLen ∧ x.rowLen ≤ 4096) &&
        (if x.src == 3 then decide (x.sa < 2 ^ 28) && x.da % 64 == 0 else decide (x.da < 2 ^ 28) && x.sa % 64 == 0)
     else
      decide (64 ≤ x.rowLen ∧ x.rowLen ≤ 16777216) && x.rowLen % 64 == 0 && x.da % 64 == 0 && x.ds % 64 == 0 &&
        (if x.fill then x.src == 0 && x.ssel == 0 && x.sa == 0 && x.ss == 0 else x.sa % 64 == 0 && x.ss % 64 == 0))

/-- The largest burst that fits the remaining length and both alignments (R82): 512 halved as often as needed. -/
def burstSize (s d n : Nat) : Nat → Nat → Nat
  | 0, size => size
  | k + 1, size => if n < size ∨ s % size ≠ 0 ∨ d % size ≠ 0 then burstSize s d n k (size / 2) else size

/-- The bursts of one row (R82), as (offset in the row, size); `fuel` bounds their number. -/
def cutRow (s d n : Nat) : Nat → Nat → List (Nat × Nat)
  | 0, _ => []
  | fuel + 1, off =>
    if n ≤ off then []
    else
      let size := burstSize (s + off) (d + off) (n - off) 3 512
      (off, size) :: cutRow s d n fuel (off + size)

/-- All bursts of a DMA descriptor in address order, row by row (R82); the last carries the flag (R80). -/
def dmaBursts (x : DmaDesc) : List Burst :=
  let rows := (List.range x.rows).map fun r =>
    let d := x.da + r * x.ds
    let s := if x.fill then d else x.sa + r * x.ss
    (cutRow s d x.rowLen (x.rowLen / 64) 0).map fun c =>
      ({ src := x.src, ssel := x.ssel, saddr := s + c.1, dst := x.dst, dsel := x.dsel, daddr := d + c.1, size := c.2,
         vc := x.vc, flagged := false, fill := if x.fill then some (BitVec.ofNat 64 x.pattern) else none } : Burst)
  let all := rows.flatten
  if x.flagged then
    match all.reverse with
    | [] => []
    | b :: r => ({ b with flagged := true } :: r).reverse
  else all

/-! Reams and sheets (R37-R39). -/

def parseRegion (e : List Byte) : Region where
  base := fieldAt e 0 0 48
  space := fieldAt e 0 48 4
  static := fieldAt e 0 52 1 == 1
  ext := fieldAt e 0 53 1 == 1
  len := fieldAt e 8 0 32
  sel := fieldAt e 0xC 0 16
  rctx := fieldAt e 0xC 16 16
  rregion := fieldAt e 0x10 0 12
  slot := fieldAt e 0x10 12 4
  writers := fieldAt e 0x10 16 4

def parseRef (e : List Byte) : Ref where
  region := fieldAt e 0 0 12
  dir := fieldAt e 0 12 2
  lag := fieldAt e 0 16 16
  off := fieldAt e 4 0 32
  len := fieldAt e 8 0 32

def parseSheet (h : List Byte) (refs : List Byte) : Sheet where
  acc := fieldAt h 0 8 1 == 1
  pin := fieldAt h 0 9 1 == 1
  vtile := fieldAt h 0 16 14
  rbeat := fieldAt h 4 0 32
  cycles := fieldAt h 8 0 20
  phase := fieldAt h 8 20 8
  affinity := fieldAt h 0xC 16 16
  code := fieldAt h 0x10 0 64
  codeLen := fieldAt h 0x18 0 32
  seed := BitVec.ofNat 64 (fieldAt h 0x20 0 64)
  refs := (List.range (fieldAt h 0xC 0 5)).map fun i => parseRef ((refs.drop (16 * i)).take 16)

def parseColl (e : List Byte) : CollEntry where
  op := fieldAt e 0 8 4
  red := fieldAt e 0 12 2
  dtype := fieldAt e 0 14 5
  fixed := fieldAt e 0 19 1 == 1
  zcopy := fieldAt e 0 20 1 == 1
  rbeat := fieldAt e 4 0 32
  span := fieldAt e 8 0 16
  group := fieldAt e 8 16 6
  count := fieldAt e 0xC 0 32
  inRegion := fieldAt e 0x10 0 12
  inLag := fieldAt e 0x10 16 16
  inOff := fieldAt e 0x14 0 32
  outRegion := fieldAt e 0x18 0 12
  outOff := fieldAt e 0x1C 0 32
  arg := fieldAt e 0x20 0 16
  timeout := fieldAt e 0x20 16 16
  ctag := fieldAt e 0x24 0 32

/-- A resolved range: space, selector (virtual tile or endpoint), start, length in bytes or blocks (R38, R39). -/
structure Range where
  space : Nat
  sel : Nat
  start : Nat
  len : Nat
deriving DecidableEq, Repr

def Region.null : Region := ⟨0, 0, false, false, 0, 0, 0, 0, 0, 0⟩

def Ream.region (r : Ream) (i : Nat) : Region := r.regions.getD i Region.null

/-- The range of a reference. -/
def Ream.range (r : Ream) (x : Ref) : Range :=
  let g := r.region x.region
  ⟨g.space, if g.space = 1 ∨ g.space = 2 then g.sel else 0, g.base + x.off, x.len⟩

def Range.overlaps (a b : Range) : Bool :=
  a.space == b.space && a.sel == b.sel && decide (0 < a.len ∧ 0 < b.len ∧ a.start < b.start + b.len ∧ b.start < a.start + a.len)

/-- Bytes or blocks [start, start + n) of a space lie inside the range. -/
def Range.covers (a : Range) (space sel start n : Nat) : Bool :=
  a.space == space && a.sel == sel && decide (a.start ≤ start ∧ start + n ≤ a.start + a.len)

def Ref.reads (x : Ref) : Bool := x.dir == 1 || x.dir == 3
def Ref.writes (x : Ref) : Bool := x.dir == 2 || x.dir == 3

/-- Ranges a sheet reads and writes. -/
def Ream.readsOf (r : Ream) (h : Sheet) : List Range := (h.refs.filter Ref.reads).map r.range
def Ream.writesOf (r : Ream) (h : Sheet) : List Range := (h.refs.filter Ref.writes).map r.range

def Sheet.null : Sheet := ⟨false, false, 0, 0, 0, 0, 0, 0, 0, 0, []⟩
def Ream.sheet (r : Ream) (i : Nat) : Sheet := r.sheets.getD i Sheet.null

def CollEntry.null : CollEntry := ⟨0, 0, 0, false, false, 0, 0, 0, 0, 0, 0, 0, 0, 0, 0, 0, 0⟩
def Ream.coll (r : Ream) (i : Nat) : CollEntry := r.colls.getD i CollEntry.null

/-- The number of sequence numbers of the ream, none when it repeats without end (R37). -/
def Ream.total (r : Ream) : Option Nat := if r.rep = 0 then none else some (r.rep * r.length)

def ceilDiv (a b : Nat) : Nat := a / b + (if a % b = 0 then 0 else 1)

end Sys2Proof.Machine
end

