-- ==== Sys2Proof/Machine/Faults.lean ====
section
/-! DEFINITION. Packets handed to their source I/O die (R244, R245, R248-R250, R260-R263), the collective messages of a
member (R282, R283), and how a context faults (R298, R330, R508). -/

namespace Sys2Proof.Machine

/-- A at or after B modulo 2^32 (R42). -/
def atOrAfter (a b : Nat) : Bool := decide ((a % 2 ^ 32 + 2 ^ 32 - b % 2 ^ 32) % 2 ^ 32 < 2 ^ 31)

def State.router (s : State) (iod : Nat) : Router := s.routers.get (fun _ => Router.reset) iod
def State.setRouter (s : State) (iod : Nat) (r : Router) : State :=
  { s with routers := s.routers.set (fun _ => Router.reset) iod r }
def State.modRouter (s : State) (iod : Nat) (f : Router → Router) : State := s.setRouter iod (f (s.router iod))

/-- The I/O die at which a tile injects (R245). -/
def State.injectDie (s : State) (tile : Nat) : Nat := if dieOf tile < 2 then 0 else if s.iodFitted 1 then 1 else 0

/-- An I/O die's endpoint ID (R244); 0xFFFF is none. -/
def State.endpoint (s : State) (iod : Nat) : Nat := s.fget F.ROUTE_ID_endpoint iod

/-- The I/O die of this module with an endpoint ID. -/
def State.dieOfEndpoint (s : State) (ep : Nat) : Option Nat :=
  [0, 1].find? fun i => s.iodFitted i && s.endpoint i == ep && ep != 0xFFFF

/-- Flits of a packet (R248, R223): header and payload in 240-byte payloads. -/
def pktFlits (p : Pkt) : Nat := ceilDiv (32 + p.payload.length) 240

/-- Operation codes (R249). -/
def opWrite : Nat := 0x01
def opReadReq : Nat := 0x02
def opReadRsp : Nat := 0x03
def opNotice : Nat := 0x04
def opAck : Nat := 0x05
def opColl : Nat := 0x06
def opChestWr : Nat := 0x07
def opChestRd : Nat := 0x08
def opCmap : Nat := 0x09

/-- A packet with every field 0 but destination, channel and operation. -/
def Pkt.blank (vc dst op : Nat) : Pkt := ⟨vc, dst, 0, op, false, false, false, 0, 0, 0, 0, 0, 0, 0, 0, 0, []⟩

/-- The window of a pair in flits: ROUTE_WINDOW.units x 4 KiB in flits of 256 bytes (R260). -/
def State.windowFlits (s : State) (iod : Nat) : Nat := s.fget F.ROUTE_WINDOW_units iod * 16

def State.txPair (s : State) (iod dst : Nat) : TxPair :=
  ((s.router iod).tx.find? fun p => p.dst == dst).getD ⟨dst, 0, false, 0, s.windowFlits iod, [], 0⟩

def State.setTxPair (s : State) (iod : Nat) (p : TxPair) : State :=
  s.modRouter iod fun r => { r with tx := p :: (r.tx.filter fun x => x.dst != p.dst) }

def TxPair.chan (p : TxPair) (vc : Nat) : TxChan := (p.chans.find? fun c => c.vc == vc).getD ⟨vc, 0, 0, 0⟩
def TxPair.setChan (p : TxPair) (c : TxChan) : TxPair :=
  { p with chans := c :: (p.chans.filter fun x => x.vc != c.vc) }

/-- The endpoints against whose windows a packet of this die counts: its destination, or, of a tree packet not yet injected, every
member's (R260, R296). -/
def Router.destsOf (r : Router) (p : Pkt) : List Nat :=
  if p.dst = 0xFFFF then
    ((r.mcast.find? fun m => m.1 == bits p.tag 8 8 && m.2.1 == p.pairSeq).map fun m => m.2.2).getD []
  else [p.dst]

/-- Flits waiting at the source for a pair's window. -/
def Router.waiting (r : Router) (dst : Nat) : Nat :=
  ((r.inject.filter fun p => p.op != opAck && (r.destsOf p).contains dst).map pktFlits).foldl (· + ·) 0

/-- The window of the pair lets `n` more flits be sent (R260, R262). -/
def TxPair.room (p : TxPair) (n : Nat) : Bool := atOrAfter p.limit (p.sent + n)

/-- A windowed packet handed to its source I/O die: it takes its channel's next pair_seq and the pair's epoch (R261),
and waits to be injected; a wait for the window is counted once (R260). None for an unreachable pair, whose new
packets are discarded and counted (R263). -/
def State.post (s : State) (iod : Nat) (p : Pkt) : State × Option Nat :=
  let pair := s.txPair iod p.dst
  if pair.unreachable then (s.bump C.ROUTE_UNREACH_DROP_CNT iod, none)
  else
    let ch := pair.chan p.vc
    let p' := { p with src := s.endpoint iod, epoch := pair.epoch, pairSeq := ch.next % 2 ^ 32 }
    let full := !pair.room ((s.router iod).waiting p.dst + pktFlits p')
    let s1 := s.setTxPair iod (pair.setChan { ch with next := ch.next + 1 })
    let s2 := s1.modRouter iod fun r => { r with inject := r.inject ++ [p'] }
    (s2.when full (·.bump C.ROUTE_WIN_STALL_CNT iod), some ch.next)

/-- What follows a packet to its remote completion, in its pair as it stands. -/
def State.follow (s : State) (iod dst vc seq : Nat) (flagged : Bool) : RWrite :=
  ⟨iod, dst, vc, seq, flagged, (s.txPair iod dst).gen⟩

/-- A write to another module is remote-complete (R129, R262), as the source's pair knows it; a pair whose state was
cleared, or that has started afresh, holds nothing back. -/
def State.remoteDone (s : State) (w : RWrite) : Bool :=
  match (s.router w.iod).tx.find? fun p => p.dst == w.dst with
  | none => true
  | some p =>
    match p.chans.find? fun ch => ch.vc == w.vc with
    | none => p.unreachable || p.gen != w.gen
    | some ch => p.unreachable || p.gen != w.gen || decide (w.seq < if w.flagged then ch.placed else ch.accepted)

/-! Collective messages. -/

def Ream.null : Ream := ⟨1, 1, 0, 0, [], [], []⟩

def Ctx.group (x : Ctx) (id : Nat) : Option Group := x.groups.find? fun g => g.id == id

/-- A context's ream, the empty ream when none is loaded. -/
def Ctx.reamOf (x : Ctx) : Ream := x.ream.getD Ream.null

/-- The group of a step. -/
def Ctx.groupOf (x : Ctx) (p : Step) : Group := (x.group (x.reamOf.coll p.entry).group).getD ⟨0, 0, [], 0⟩

/-- A COLL packet's fields (R282). The owner's flags of a RESULT travel in addr[47:40], which no element offset reaches (R293; the
place is the model's choice, log 47). -/
def collPkt (dst ctx sub tree : Nat) (hash : Word) (group rank pass addr flags : Nat) (payload : List Byte) : Pkt :=
  { Pkt.blank 0 dst opColl with
    ctx, seq := hash.toNat % 2 ^ 32, tag := sub + tree * 2 ^ 8, addr := addr % 2 ^ 40 + flags * 2 ^ 40
    aux := rank + group * 2 ^ 8 + pass * 2 ^ 14, payload }

/-- The endpoint of a member's I/O die of a number, or of its IOD0 (R288). -/
def Group.endpoint (g : Group) (rank die : Nat) : Nat :=
  let m := g.members.getD rank (0xFFFF, 0xFFFF, 0, 0)
  if die = 1 ∧ m.2.1 ≠ 0xFFFF then m.2.1 else m.1

/-- A message of the step of a hash from this member's I/O die `iod` to the member of rank `dest`, at its I/O die `die`. The pair_seq
it took, none when the pair is unreachable. -/
def State.collTo (s : State) (g : Group) (hash : Word) (iod die dest sub pass addr flags : Nat) (payload : List Byte) :
    State × Option (Nat × Nat) :=
  let m := g.members.getD dest (0xFFFF, 0xFFFF, 0, 0)
  let ep := g.endpoint dest die
  let r := s.post iod (collPkt ep m.2.2.1 sub 0 hash g.id g.rank pass addr flags payload)
  (r.1, r.2.map fun q => (ep, q))

/-- The ranks of a group other than this member's. -/
def Group.others (g : Group) : List Nat := (List.range g.members.length).filter fun r => r != g.rank

/-- A tree packet handed to its root (R296): it takes the next number of its tree, and waits until the window of every member's
pair takes it; a wait is counted once (R260). It goes to the members whose pair can be reached. -/
def State.postTree (s : State) (iod tree : Nat) (dests : List Nat) (p : Pkt) : State × Nat :=
  let r := s.router iod
  let seq := r.treeSeq.get (fun _ => 0) tree
  let p' := { p with src := s.endpoint iod, pairSeq := seq % 2 ^ 32 }
  let full := dests.any fun d => !(s.txPair iod d).room (r.waiting d + pktFlits p')
  let s1 := s.setRouter iod { r with
    treeSeq := r.treeSeq.set (fun _ => 0) tree (seq + 1), inject := r.inject ++ [p']
    mcast := r.mcast ++ [(tree, seq % 2 ^ 32, dests)] }
  (s1.when full (·.bump C.ROUTE_WIN_STALL_CNT iod), seq)

/-- A message to every other member: on the sender's tree when it has one, by unicast otherwise (R284, R289). The ranks
whose pair is unreachable, and the packets to follow. A tree ejects at a member's I/O die of the root's number, or at its IOD0
(the model's choice, log 107). -/
def State.collToAll (s : State) (g : Group) (hash : Word) (iod die sub pass addr flags : Nat) (payload : List Byte) :
    State × List Nat × List RWrite :=
  let tree := (g.members.getD g.rank (0, 0, 0, 0)).2.2.2
  if tree ≠ 0 then
    let lost := g.others.filter fun r => (s.txPair iod (g.endpoint r iod)).unreachable
    let dests := ((g.others.filter fun r => !lost.contains r).map fun r => g.endpoint r iod).eraseDups
    if dests.isEmpty then (s, lost, [])
    else
      let r := s.postTree iod tree dests (collPkt 0xFFFF 0 sub tree hash g.id g.rank pass addr flags payload)
      (r.1, lost, dests.map fun d => s.follow iod d (256 * tree) r.2 true)
  else
    g.others.foldl (fun a dest =>
      let r := a.1.collTo g hash iod die dest sub pass addr flags payload
      match r.2 with
      | none => (r.1, a.2.1 ++ [dest], a.2.2)
      | some (ep, q) => (r.1, a.2.1, a.2.2 ++ [s.follow iod ep 0 q true])) (s, [], [])

/-- ABORT with a status and a rank to every other member of a group, once for a step (R298). -/
def State.abortAll (s : State) (c : Nat) (g : Group) (hash : Word) (status rank : Nat) : State :=
  if (s.ctx c).aborts.contains (hash.toNat % 2 ^ 32) then s
  else
    (s.collToAll g hash 0 0 0x09 0 0 0 [BitVec.ofNat 8 status, BitVec.ofNat 8 rank]).1.modCtx c fun x =>
      { x with aborts := hash.toNat % 2 ^ 32 :: x.aborts }

/-- A step of a context fails (R298): ABORT to every other member, the step closed, counted and shown in COLL_LAST_FAIL. -/
def State.closeStep (s : State) (c : Nat) (p : Step) (status rank : Nat) : State :=
  let x := s.ctx c
  let e := x.reamOf.coll p.entry
  let s1 := s.abortAll c (x.groupOf p) p.hash status rank
  let s2 := s1.modCtx c fun x => { x with steps := x.steps.filter fun q => q != p }
  let s3 := (s2.bump C.COLL_FAIL_CNT).raiseTo E.COLL_step_fail [x.deckle]
  let s4 := s3.setReg 0 Page.COLL 0x98 (status + rank * 2 ^ 8 + e.group * 2 ^ 16 + 2 ^ 31)
  s4.setReg 0 Page.COLL 0x9C e.ctag

/-! Faults of a context (R330, R508). -/

/-- A command that names context `c` by its live handle. -/
def State.names (s : State) (c : Nat) (k : Cmd) : Bool := k.ctx == s.handle c && k.ctx != 0

/-- The open steps of a context that is lost fail with MEMBER_FENCED naming this member (R297, R301). -/
def State.closeSteps (s : State) (c : Nat) : State :=
  (s.ctx c).steps.foldl (fun s p => s.closeStep c p 0x05 ((s.ctx c).groupOf p).rank) s

/-- The context leaves its running states with a fault: FAULTED, its last status, its open CTX_START and CTX_STOP
completed with it, its CTX_WAIT completed (R330, R508). Nothing happens to a context that cannot fault. -/
def State.faultCtx (s : State) (c status : Nat) : State :=
  let x := s.ctx c
  if x.st = .free ∨ x.st = .faulted ∨ x.st = .teardown then s
  else
    let s0 := s.closeSteps c
    let s1 := s0.setCtx c { s0.ctx c with st := .faulted, lastStatus := status, startFrom := none }
    let s2 := s1.finishAll (fun k => k.begun && s.names c k && (k.opcode == 0x12 || k.opcode == 0x13)) status 6
    s2.finishAll (fun k => k.begun && s.names c k && k.opcode == 0x15) 0 6

/-- As faultCtx, with a fault record of the page that detects it, naming sheet, tile and subject (R353, R354). -/
def State.faultWith (s : State) (page c status kind a b vtile tile : Nat) : State :=
  let x := s.ctx c
  if x.st = .free ∨ x.st = .faulted ∨ x.st = .teardown then s
  else
    let r := { s.faultRec page status x.deckle kind a b with vtile, tile, ctx := some (s.handle c) }
    (s.logFault page r).faultCtx c status

/-- A step fails and with it its context (R298): the record names the ctag, the rank and the group. -/
def State.failStep (s : State) (c : Nat) (p : Step) (status rank : Nat) : State :=
  let e := (s.ctx c).reamOf.coll p.entry
  (s.closeStep c p status rank).faultWith Page.COLL c status 0x05 e.ctag (rank + e.group * 2 ^ 8) 0x3FFF 0x3FFF

end Sys2Proof.Machine
end

