-- ==== Sys2Proof/Machine/Sheets.lean ====
section
/-! DEFINITION. Sheets on tiles: which sheet a tile runs, confinement (R48), the gates of a start (R42, R44), program
fetch (R63), start (R62), completion (R64, R45), and losing a sheet with its tile (R49, R90). -/

namespace Sys2Proof.Machine

/-- The outcome of a command on units that must exist (R18, R25): the fault noSuchUnit where one does not. -/
def guardUnit (ok : Bool) (s : State) : Host.Outcome State Fault Refusal :=
  if ok then .next s else .fault .noSuchUnit

def tileOk (t : Nat) : Bool := decide (t < 12288)

/-- The divisor code of a die's TILE clock in CLKCTL_DIV (R375), as the divisor 2, 3, 4, 6 or 8. -/
def divisorOf : Nat → Nat
  | 0 => 2
  | 1 => 3
  | 2 => 4
  | 3 => 6
  | _ => 8

/-- A sheet running on a tile. -/
structure Run where
  c : Nat
  q : Nat
  sheet : Nat
  x : Ctx
  ream : Ream
  h : Sheet
deriving DecidableEq, Repr

def State.runOf (s : State) (r : Nat × Nat × Nat) : Run :=
  let x := s.ctx r.1
  let ream := x.ream.getD Ream.null
  ⟨r.1, r.2.1, r.2.2, x, ream, ream.sheet r.2.2⟩

def Run.seq (r : Run) : Nat := r.q % 2 ^ 32
def Run.iteration (r : Run) : Nat := r.q / r.ream.length
def Run.rbeat (r : Run) : Nat := r.q % r.ream.length

def tilePage (t : Nat) : Nat := Page.TILE + groupOf t

/-- The sheet stops where it is: its context faults with a record of kind Instruction naming an offset (R87, R354). -/
def State.seqFault (s : State) (t : Nat) (r : Run) (status off : Nat) : State :=
  let s1 := s.setTile t { s.tile t with blocked := .faulted }
  s1.faultWith (tilePage t) r.c status 0x02 r.seq off r.h.vtile t

/-- As seqFault with a record of kind Access naming a space and an address (R48, R59). -/
def State.accessFault (s : State) (t : Nat) (r : Run) (status space addr : Nat) : State :=
  let s1 := s.setTile t { s.tile t with blocked := .faulted, dmaStop := true }
  s1.faultWith (tilePage t) r.c status 0x01 r.seq (addr % 2 ^ 48 + space * 2 ^ 48) r.h.vtile t

/-- A tile read that cannot be served, of `n` bytes from `a` and first refused at `at_`. In local HBM every poisoned unit of it is
counted, and the record, from the page of the stack, is of kind Memory naming the unit (R204, R354; DEDUCED, log 99); any other
is an access fault. -/
def State.readFault (s : State) (t : Nat) (r : Run) (status space a n at_ : Nat) : State :=
  if space = 0 ∧ status = 0x0D then
    let key := s.localKey r.x.deckle at_
    let s1 := (s.countPoisons r.x.deckle a n).setTile t { s.tile t with blocked := .faulted, dmaStop := true }
    s1.faultWith (Page.HBMC + key / 2 ^ 37) r.c status 0x07 0 (errLoc (key / 2 ^ 32 % 32) (key % 2 ^ 32) + key / 2 ^ 37 * 2 ^ 32)
      r.h.vtile t
  else s.accessFault t r status space at_

/-- An access outside the declared ranges (R48): counted, raised, and the context faults with INVALID. -/
def State.confineFault (s : State) (t : Nat) (r : Run) (space addr : Nat) : State :=
  let s1 := (s.bump C.TILE_CONFINE_CNT (groupOf t)).raiseTo E.TILE_confine [r.x.deckle] (groupOf t)
  s1.accessFault t r 0x0B space addr

/-- An access of a running sheet lies inside a range it declares for that direction (R48). -/
def Run.allowed (r : Run) (write : Bool) (space sel start n : Nat) : Bool :=
  (r.h.refs.filter fun x => if write then x.writes else true).any fun x => (r.ream.range x).covers space sel start n

/-- First scratchpad address of a tile that its sheet's engines may not use (R59, R182). -/
def Tile.limit (t : Tile) : Nat := (20 - t.t0banks) * 0x2000

/-! Gates (R42, R44). -/

/-- Instance `i` of a context still stands in the way of a region's stamp reaching `upTo` (R41). -/
def Inst.blocks (ream : Ream) (region upTo : Nat) (i : Inst) : Bool :=
  decide (i.q ≤ upTo) && (ream.sheet i.sheet).refs.any fun x => x.writes && x.region == region

/-- A step counts as a sheet of its end number (R280). -/
def Step.last (ream : Ream) (p : Step) : Nat := p.q + (ream.coll p.entry).span - 1

def Step.blocks (ream : Ream) (region upTo : Nat) (p : Step) : Bool :=
  decide (p.last ream ≤ upTo) && (ream.coll p.entry).op != 7 && (ream.coll p.entry).outRegion == region

/-- Highest sequence number received in a slot of an ext region; each slot starts at 0xFFFF_FFFF (R47). -/
def Ctx.slot (x : Ctx) (region slot : Nat) : Nat :=
  ((x.ext.find? fun e => e.1 == region && e.2.1 == slot).map fun e => e.2.2).getD 0xFFFFFFFF

/-- A region as published at sequence number q - lag satisfies a reference (R41, R42, R47). -/
def Ctx.satisfied (x : Ctx) (ream : Ream) (q region lag : Nat) : Bool :=
  let g := ream.region region
  if g.static then true
  else if g.ext then
    (List.range (g.writers + 1)).all fun k => atOrAfter (x.slot region k) (q % 2 ^ 32 + 2 ^ 32 - lag)
  else if q < lag then true
  else !(x.insts.any fun i => i.blocks ream region (q - lag)) && !(x.steps.any fun p => p.blocks ream region (q - lag))

/-- The output range of a step at its member and the input it reads (R277); bytes of one element. -/
def elemBytes (fmt : Nat) : Nat := fmtWidth fmt / 8

def shardStart (r count n : Nat) : Nat := r * count / n
def shardLen (r count n : Nat) : Nat := shardStart (r + 1) count n - shardStart r count n

/-- Elements a member reads and writes in a step (R277): operation, rank, members, count, root. -/
def collIn (e : CollEntry) (rank n : Nat) : Nat :=
  if e.op = 4 then shardLen rank e.count n
  else if e.op = 6 then (if rank = e.arg then e.count else 0)
  else if e.op = 7 then 0 else e.count
def collOut (e : CollEntry) (rank n : Nat) : Nat :=
  if e.op = 3 then shardLen rank e.count n else if e.op = 7 then 0 else e.count

/-- Input and output ranges of a step at this member (R280). -/
def Ctx.stepIn (x : Ctx) (ream : Ream) (e : CollEntry) : Range :=
  match x.group e.group with
  | none => ⟨0, 0, 0, 0⟩
  | some g => ⟨0, 0, (ream.region e.inRegion).base + e.inOff, collIn e g.rank g.members.length * elemBytes e.dtype⟩
def Ctx.stepOut (x : Ctx) (ream : Ream) (e : CollEntry) : Range :=
  match x.group e.group with
  | none => ⟨0, 0, 0, 0⟩
  | some g => ⟨0, 0, (ream.region e.outRegion).base + e.outOff, collOut e g.rank g.members.length * elemBytes e.dtype⟩

/-- The third condition of R44: a range written overlaps one used by an unpublished sheet or step of lower number. -/
def Ctx.gateHeld (x : Ctx) (ream : Ream) (q : Nat) (writes : List Range) : Bool :=
  let hit (r : Range) : Bool := writes.any fun w => w.overlaps r
  (x.insts.any fun i => decide (i.q < q) &&
      (((ream.sheet i.sheet).refs.map ream.range).any hit)) ||
    (x.steps.any fun p => decide (p.q < q) && (hit (x.stepIn ream (ream.coll p.entry)) || hit (x.stepOut ream (ream.coll p.entry))))

/-- A due sheet is held by a reference or by the third condition (R44, R51). -/
def Ctx.held (x : Ctx) (ream : Ream) (i : Inst) : Bool :=
  let h := ream.sheet i.sheet
  !(h.refs.all fun r => !r.reads || x.satisfied ream i.q r.region r.lag) || x.gateHeld ream i.q (ream.writesOf h)

/-- A due step is held by its input reference or by the third condition (R280, R281). -/
def Ctx.stepHeld (x : Ctx) (ream : Ream) (p : Step) : Bool :=
  let e := ream.coll p.entry
  ((x.stepIn ream e).len != 0 && !x.satisfied ream p.q e.inRegion e.inLag) || x.gateHeld ream p.q [x.stepOut ream e]

/-- The beat is an idle beat for a context: of the module (R386) or of its deckle (R389). -/
def State.idleFor (s : State) (d : Nat) : Bool := s.beat.idle || s.beat.deckleIdle.contains d

/-! Program fetch (R63). -/

def chunk8 : Nat → List Byte → List Word
  | 0, _ => []
  | n + 1, l => BitVec.ofNat 64 (leNat (l.take 8)) :: chunk8 n (l.drop 8)

/-- The program of a sheet as the tile would fetch it now; one that reaches into the chest arena cannot be fetched (R137). -/
def State.fetch (s : State) (c q sheet : Nat) : Fetched :=
  let x := s.ctx c
  let h := (x.ream.getD Ream.null).sheet sheet
  { ctx := c, q, sheet, prog := chunk8 (h.codeLen / 8) (s.localRead x.deckle h.code h.codeLen),
    fail := if s.inArena x.deckle h.code h.codeLen ∧ h.codeLen ≠ 0 then some (0x0B, max h.code (s.arenaBase x.deckle))
      else s.localBad x.deckle h.code h.codeLen }

/-- Unstarted sheets that are due on a virtual tile, lowest sequence number first. -/
def Ctx.duesOn (x : Ctx) (ream : Ream) (v : Nat) : List Inst :=
  (x.insts.filter fun i => (i.st == .due || i.st == .lost) && (ream.sheet i.sheet).vtile == v).mergeSort
    fun i j => decide (i.q ≤ j.q)

/-- The first sheet of a virtual tile at sequence number `q` or later, looking ahead at most `fuel` numbers. -/
def Ream.firstFrom (ream : Ream) (v : Nat) : Nat → Nat → Option (Nat × Nat)
  | 0, _ => none
  | fuel + 1, q =>
    if (match ream.total with | some n => decide (n ≤ q) | none => false) then none
    else
      match ream.sheets.findIdx? fun h => h.vtile == v && h.rbeat == q % ream.length with
      | some i => some (q, i)
      | none => Ream.firstFrom ream v fuel (q + 1)

/-- The sheet that is next on a virtual tile (R43, R178). -/
def Ctx.nextOn (x : Ctx) (v : Nat) : Option (Nat × Nat) :=
  let ream := x.ream.getD Ream.null
  match x.duesOn ream v with
  | i :: _ => some (i.q, i.sheet)
  | [] => ream.firstFrom v ream.length (if x.primed then x.cursor + 1 else x.cursor)

/-- SHEET_PROGRAM_FETCH (R63): the program of the sheet that is next on the tile goes into the buffer kept for it. -/
def execSheetProgramFetch (tile : Nat) (s : State) : Host.Outcome State Fault Refusal :=
  guardUnit (tileOk tile) <|
    let t := s.tile tile
    match t.bind with
    | none => s
    | some (c, v) =>
      match (s.ctx c).nextOn v with
      | none => s
      | some (q, sh) => s.setTile tile { t with next := some (s.fetch c q sh) }

/-! Starting a sheet. -/

/-- Poisoned units met by a failing read are counted (R204). -/
def State.notePoison (s : State) (d status a : Nat) : State := s.when (status == 0x0D) (·.countPoison d a)

/-- The tile's state as a sheet starts (R62); scratchpad is not part of it. -/
def Tile.started (t : Tile) (r : Nat × Nat × Nat) (prog : List Word) (seed : Word) (iteration : Nat) : Tile :=
  let st := seedStreams seed iteration
  { Tile.reset with
    state := .running, bind := t.bind, running := some r, prog, sm := st.1, sv := st.2
    t0banks := t.t0banks, errFences := t.errFences, hangs := t.hangs, earlier := t.earlier, behind := t.behind
    flightId := t.flightId }

/-- A context whose sheets may start: RUNNING, or the suspect that replays (R420). -/
def State.ctxRuns (s : State) (c : Nat) : Bool :=
  (s.ctx c).st == .running ||
    ((s.ctx c).st == .suspect && ((s.rst.suspects.bind (·.replaying)).map Prod.fst) == some c)

/-- The sheet waiting on a tile that could start now (R44); a lost sheet waits until the fenced tile has drained (R180). -/
def State.startable (s : State) (tile : Nat) : Option (Nat × Inst) :=
  let t := s.tile tile
  match t.bind with
  | none => none
  | some (c, v) =>
    let x := s.ctx c
    let ream := x.ream.getD Ream.null
    if t.state ≠ .idle ∨ !s.ctxRuns c ∨ s.idleFor x.deckle then none
    else
      let draining (i : Inst) : Bool := s.tiles.any fun p => p.2.state == .draining && p.2.draining == some (c, i.q, i.sheet)
      ((x.duesOn ream v).find? fun i => !x.held ream i && !draining i).map fun i => (c, i)

/-- A range of space 0x1 whose data was lost with its tile and not written since (R49). -/
def Ctx.lostRange (x : Ctx) (r : Range) : Bool :=
  r.space == 1 && x.lostTiles.any fun l =>
    l.v == r.sel && !((List.range ((r.len + 63) / 64)).all fun k =>
      l.since.any fun w => decide (w.1 ≤ r.start + 64 * k ∧ r.start + 64 * k + 64 ≤ w.1 + w.2))

/-- Replace an instance of a context. -/
def Ctx.setInst (x : Ctx) (q sheet : Nat) (f : Inst → Inst) : Ctx :=
  { x with insts := x.insts.map fun i => if i.q == q && i.sheet == sheet then f i else i }

/-- The sheet waiting on a tile starts, if it can (R44, R62, R63); late starts are counted (R51). -/
def State.startSheet (s : State) (tile : Nat) (late : Bool) : State :=
  match s.startable tile with
  | none => s
  | some (c, i) =>
    let t := s.tile tile
    let x := s.ctx c
    let ream := x.ream.getD Ream.null
    let h := ream.sheet i.sheet
    let seq := i.q % 2 ^ 32
    let f := match t.next with
      | some n => if n.ctx = c ∧ n.q = i.q ∧ n.sheet = i.sheet then n else s.fetch c i.q i.sheet
      | none => s.fetch c i.q i.sheet
    match f.fail with
    | some (status, a) =>
      (s.notePoison x.deckle status a).faultWith (tilePage tile) c status 0x01 seq (a % 2 ^ 48) h.vtile tile
    | none =>
      if (ream.readsOf h).any x.lostRange then
        s.faultWith (tilePage tile) c 0x05 0x01 seq 0 h.vtile tile
      else
        let s1 := s.setTile tile (t.started (c, i.q, i.sheet) f.prog h.seed (i.q / ream.length))
        let s2 := s1.setCtx c (x.setInst i.q i.sheet fun j => { j with st := .running })
        s2.when late (·.bump C.BEAT_LATE_CNT)

/-- SHEET_START (R44): a due sheet starts within a beat, late, once its tile is free and its gates are open. -/
def execSheetStart (tile : Nat) (s : State) : Host.Outcome State Fault Refusal :=
  guardUnit (tileOk tile) (s.startSheet tile true)

/-! The L1's write-backs (R121-R123). -/

/-- The runs of dirty bytes of a line: offset and bytes. -/
def Line.runs (l : Line) : List (Nat × List Byte) :=
  (l.data.zipIdx.filter fun p => l.mask.getLsbD p.2).foldr (fun p acc =>
    match acc with
    | [] => [(p.2, [p.1])]
    | r :: rest => if r.1 = p.2 + 1 then (p.2, p.1 :: r.2) :: rest else (p.2, [p.1]) :: r :: rest) []

/-- Dirty bytes of a line placed at the home as one write (R121, R122): a unit dirty as a whole loses its poison (R205). -/
def State.writeBack (s : State) (d : Nat) (l : Line) : State :=
  l.runs.foldl (fun s r => s.localWrite d (l.addr + r.1) r.2) s

/-- Every dirty line of a list written back in ascending address (R123). -/
def State.writeBackAll (s : State) (d : Nat) (ls : List Line) : State :=
  (ls.mergeSort fun a b => decide (a.addr ≤ b.addr)).foldl (fun s l => s.writeBack d l) s

/-- All queues of the tile are empty. -/
def Tile.quiet (t : Tile) : Bool := t.queues.all (fun p => p.2.isEmpty) && t.flights.isEmpty

/-- SHEET_COMPLETE (R45, R64): END retired, every descriptor complete: dirty lines go home, the L1 empties, and the
sheet is complete. Its outputs in space 0x1 count as written since any loss of their tile (R49). -/
def execSheetComplete (tile : Nat) (s : State) : Host.Outcome State Fault Refusal :=
  guardUnit (tileOk tile) <|
    let t := s.tile tile
    match t.running with
    | none => s
    | some r =>
      if t.blocked ≠ .ended ∨ !t.quiet then s
      else
        let run := s.runOf r
        let s1 := s.writeBackAll run.x.deckle t.l1
        let x := (s1.ctx run.c).setInst run.q run.sheet fun i => { i with st := .complete, flags := t.flags, writes := t.remote }
        let outs := (run.ream.writesOf run.h).filter fun w => w.space == 1
        let lost := x.lostTiles.map fun l =>
          { l with since := l.since ++ ((outs.filter fun w => w.sel == l.v).map fun w => (w.start, w.len)) }
        let s2 := s1.setCtx run.c { x with lostTiles := lost }
        s2.setTile tile { Tile.reset with
          bind := t.bind, t0banks := t.t0banks, errFences := t.errFences, hangs := t.hangs
          next := t.next, flightId := t.flightId, behind := t.behind
          earlier := (t.earlier ++ t.remote).filter fun w => !s2.remoteDone w }

/-- SHEET_WAIT_TIMEOUT (R52): a sheet due for more than wait_limit beats, held by a reference or by the third condition
of R44, faults its context with TIMEOUT; a step so held fails (R280, R286). `inst` is its place among the context's
unpublished sheets, and after them its open steps. -/
def execSheetWaitTimeout (c inst : Nat) (s : State) : Host.Outcome State Fault Refusal :=
  guardUnit (decide (c < 1024)) <|
    let x := s.ctx c
    let ream := x.ream.getD Ream.null
    match x.insts[inst]? with
    | none =>
      match x.steps[inst - x.insts.length]? with
      | none => s
      | some p =>
        if p.st == .wait && x.stepHeld ream p && decide (ream.waitLimit < p.waited) then s.failStep c p 0x03 (x.groupOf p).rank
        else s
    | some i =>
      let h := ream.sheet i.sheet
      if (i.st == .due || i.st == .lost) && x.held ream i && decide (ream.waitLimit < i.waited) then
        let bad := h.refs.findIdx? fun r => r.reads && !x.satisfied ream i.q r.region r.lag
        let k := match bad with
          | some k => k
          | none => (h.refs.findIdx? fun r => r.writes && x.gateHeld ream i.q [ream.range r]).getD 0
        let region := (h.refs.getD k ⟨0, 0, 0, 0, 0⟩).region
        s.faultWith Page.BEAT c 0x03 0x03 (i.q % 2 ^ 32) (region + k * 2 ^ 12) h.vtile 0x3FFF
      else s

/-! The journal (R189). -/

/-- A journal entry's fields: kind, cause, context handle, sequence number, beat, subject, from, to, bytes. -/
structure JEntry where
  kind : Nat
  cause : Nat
  ctx : Nat
  seq : Nat
  beat : Nat
  subject : Nat
  src : Nat
  dst : Nat
  bytes : Nat
deriving DecidableEq, Repr

def JEntry.encode (e : JEntry) : List Byte :=
  leBytes 4 (e.kind + e.cause * 2 ^ 8 + e.ctx * 2 ^ 16) ++ leBytes 4 (e.seq % 2 ^ 32) ++ leBytes 8 e.beat ++
    leBytes 4 e.subject ++ leBytes 4 (e.src + e.dst * 2 ^ 16) ++ leBytes 4 e.bytes ++ leBytes 4 0

/-- An entry written to the deckle's ring, if the journal is on; each wrap is counted (R189). -/
def State.journal (s : State) (d : Nat) (e : JEntry) : State :=
  let n := s.fget F.HEADBOX_JRNL_CFG_size_log2 0 (ofDeckle d)
  if n = 0 ∨ (s.deckle d).lost then s
  else
    let i := s.fget F.HEADBOX_JRNL_HEAD_written 0 (ofDeckle d)
    let s1 := s.localWrite d (s.fget F.HEADBOX_JRNL_BASE_base 0 (ofDeckle d) + 32 * (i % 2 ^ n)) e.encode
    let s2 := s1.fset F.HEADBOX_JRNL_HEAD_written (i + 1) 0 (ofDeckle d)
    s2.when (i != 0 && i % 2 ^ n == 0) fun s => (s.bump C.HEADBOX_JRNL_WRAP_CNT).raiseTo E.HEADBOX_journal_wrap [d]

/-- The entry of a tile decision of a context, applied at BEAT_COUNT `beat`. -/
def State.tileEntry (s : State) (c kind cause seq beat v : Nat) (src dst : Option Nat) : State :=
  s.journal (s.ctx c).deckle ⟨kind, cause, s.handle c, seq, beat, v, src.getD 0xFFFF, dst.getD 0xFFFF, 0⟩

/-- The entry of a T0 copy dropped, applied at BEAT_COUNT `beat`. -/
def State.dropEntry (s : State) (c cause beat i : Nat) : State :=
  let x := s.ctx c
  s.journal x.deckle ⟨0x06, cause, s.handle c, x.cursor, beat, i, 0, 0xFFFF, 0⟩

/-- Blocks with a T0 copy in the tile of a virtual tile that `p` picks. -/
def Ctx.t0Held (x : Ctx) (p : Nat → Bool) : List Nat :=
  x.blocks.filterMap fun b => match b.2.bind (·.t0) with | some v => if p v then some b.1 else none | none => none

/-- A context without the T0 copies of the virtual tiles that `p` picks; moves that would make one end, those of a command wait. -/
def Ctx.loseT0 (x : Ctx) (p : Nat → Bool) : Ctx :=
  { x with
    blocks := x.blocks.map fun b => (b.1, b.2.map fun y => if (y.t0.map p).getD false then { y with t0 := none } else y)
    drops := x.drops.filter fun d => !p d.2
    moves := x.moves.filterMap fun m =>
      if m.tier = 0 ∧ p m.v then (if m.command then some { m with decided := false, started := false } else none) else some m }

/-! Losing a tile (R49, R90, R181, R410). -/

/-- A broke-map change waiting for step 3 of the boundary (R409). -/
def State.brokeAdd (s : State) (kind loc cause : Nat) (retired : Bool) : State :=
  { s with brokeDue := s.brokeDue ++
      [.add { kind, loc, retired, factory := false, cause, boot := s.boots, beat := s.beatCount % 2 ^ 32 }] }

/-- The sheet of a fenced tile is lost (R49): its context faults at once where it cannot run again. -/
def State.loseSheet (s : State) (tile : Nat) (r : Nat × Nat × Nat) : State :=
  let run := s.runOf r
  let s1 := s.setCtx run.c (run.x.setInst run.q run.sheet fun i => { i with st := .lost, writes := [] })
  if run.h.acc || (run.ream.readsOf run.h).any (s1.ctx run.c).lostRange then
    s1.faultWith Page.HEADBOX run.c 0x05 0x00 0 0 run.h.vtile tile
  else s1

/-- The binding of a tile is lost, and with it the virtual tile's space 0x1 and its T0 copies (R49, R179); the virtual tile
needs a tile again. Each copy dropped is journalled for the next boundary (R189, R194). -/
def State.unbindLost (s : State) (tile c v : Nat) : State :=
  let s1 := s.each ((s.ctx c).t0Held (· == v)) fun s i => s.dropEntry c 1 (s.beatCount + 1) i
  s1.modCtx c fun x =>
    { x.loseT0 (· == v) with
      bind := x.bind.filter fun b => !(b.1 == v && b.2 == tile)
      places := (x.places.filter fun p => p.v != v) ++ [⟨v, some tile, none, 1⟩]
      lostTiles := ⟨v, []⟩ :: (x.lostTiles.filter fun l => l.v != v) }

/-- An error fence of a tile (R90, R410): nothing more is injected, the sheet is lost, the change goes to the broke
map. A second error fence since power-on retires the tile (R406). A fenced or retired tile is left as it is. -/
def State.fenceTile (s : State) (tile cause : Nat) (error : Bool) : State :=
  let t := s.tile tile
  if t.state ≠ .idle ∧ t.state ≠ .running then s
  else
    let again := error && decide (1 ≤ t.errFences)
    let t' := { Tile.reset with
      state := .draining, running := none, draining := t.running, flights := t.flights
      flightId := t.flightId, remote := t.remote, earlier := t.earlier, behind := t.behind, t0banks := 0, hangs := t.hangs
      errFences := if error then t.errFences + 1 else t.errFences }
    let s1 := (s.setTile tile t').brokeAdd 0x1 tile cause again
    let s2 := (s1.bump C.RSTCTL_TFENCE_CNT).raiseTo E.RSTCTL_fence (s.ownersOfGroup (groupOf tile))
    let s3 := match t.bind with | some (c, v) => s2.unbindLost tile c v | none => s2
    match t.running with
    | some r => s3.loseSheet tile r
    | none => s3

/-- An error fence of a tile that is in service, with its fault record; `ue` when an uncorrectable error of its storage is the
reason (R61). -/
def State.errorFence (s : State) (tile cause : Nat) (ue : Bool) : State :=
  let ok := (s.tile tile).state == .idle || (s.tile tile).state == .running
  let s1 := s.when (ok && ue) fun s =>
    (s.bump C.TILE_ECC_UE_CNT (groupOf tile)).raiseTo E.TILE_ecc_uncorrectable (s.ownersOfGroup (groupOf tile)) (groupOf tile)
  let owner := (s.ownersOfGroup (groupOf tile)).headD 0x1F
  let s2 := s1.when (ok && cause != 0) fun s =>
    s.logFault (tilePage tile) { s.faultRec (tilePage tile) cause owner 0x04 0 0 with tile }
  s2.fenceTile tile cause true

/-- TILE_FENCE (R90, R61, R406): the module fences a tile for an error of the given status: ECC_UNCORRECTABLE for its
storage, TIMEOUT for a second hang charge. -/
def execTileFence (tile cause : Nat) (s : State) : Host.Outcome State Fault Refusal :=
  guardUnit (tileOk tile) (s.errorFence tile cause (cause == 0x0D))

/-- A corrected error of a tile's storage (R61, R406): counted, and the tile fenced by its fourth in one word within 24 h or its
256th within 1 s. `word` is none for a tag. -/
def State.corrected (s : State) (tile : Nat) (word : Option Nat) : State :=
  let ces := (tile, word, s.ms) :: (s.rst.ces.filter fun c => decide (s.ms < c.2.2 + 86400000))
  let s1 := ({ s with rst := { s.rst with ces } }).bump C.TILE_ECC_CE_CNT (groupOf tile)
  let ofWord := (ces.filter fun c => c.1 == tile && c.2.1 == word && word.isSome).length
  let ofTile := (ces.filter fun c => c.1 == tile && decide (s.ms < c.2.2 + 1000)).length
  if 4 ≤ ofWord ∨ 256 ≤ ofTile then s1.errorFence tile 0x0D false else s1

/-- A scratchpad access `f` with what it finds (R61): a single-bit error is corrected in it and counted; an uncorrectable one
fences the tile. -/
def State.withEcc (s : State) (tile : Nat) (ecc : StoreEcc) (f : State → State) : State :=
  match ecc with
  | .ok => f s
  | .tagParity => f s
  | .corrected w => (f s).corrected tile (some w)
  | .uncorrectable _ => s.errorFence tile 0x0D true

/-- The broke map, with the changes waiting, holds a tile as retired. -/
def State.tileRetired (s : State) (tile : Nat) : Bool :=
  (s.broke.any fun b => b.kind == 1 && b.loc == tile && b.retired) ||
    s.brokeDue.any fun c => match c with
      | .add e => e.kind == 1 && e.loc == tile && e.retired
      | .remove .. => false

/-- The broke map, with the changes waiting, holds a tile. -/
def State.tileMapped (s : State) (tile : Nat) : Bool :=
  (s.broke.any fun b => b.kind == 1 && b.loc == tile) ||
    s.brokeDue.any fun c => match c with
      | .add e => e.kind == 1 && e.loc == tile
      | .remove .. => false

/-- FENCE_DRAIN_TIMEOUT (R90, R181): a tile not FENCED within 2 us faults the context whose sheet it lost. -/
def execFenceDrainTimeout (tile : Nat) (s : State) : Host.Outcome State Fault Refusal :=
  guardUnit (tileOk tile) <|
    let t := s.tile tile
    match t.state, t.draining with
    | .draining, some r =>
      if t.overdue then s
      else (s.setTile tile { t with overdue := true }).faultWith (tilePage tile) r.1 0x05 0x04 0 0 (s.runOf r).h.vtile tile
    | _, _ => s

end Sys2Proof.Machine
end

