-- ==== Sys2Proof/Machine/Locks.lean ====
section
/-! DEFINITION. Maintenance locks (R352, R424-R426). -/

namespace Sys2Proof.Machine

/-- What a conflict depends on (R425): nothing, the same instance, an overlap with a deckle, always. -/
inductive Clash
  | none
  | same
  | overlap
  | all
deriving DecidableEq, Repr

/-- The conflict matrix (R425), by lock classes 1 TILE, 2 PORT, 3 DECKLE, 4 MEMREPAIR, 5 FIRMWARE, 6 CDRESET, 7 PKGREC,
8 DUMP. -/
def clash (a b : Nat) : Clash :=
  if a = 7 ∨ b = 7 then .all
  else if a = b then (if a ≤ 4 then .same else .all)
  else if a = 6 ∨ b = 6 then (if a = 2 ∨ b = 2 then .none else .all)
  else if a = 5 ∨ b = 5 then (if a = 1 ∨ b = 1 ∨ a = 4 ∨ b = 4 then .none else .all)
  else if a = 8 ∨ b = 8 then .none
  else if a = 3 ∨ b = 3 then .overlap
  else .none

/-- The resources a deckle activity holds or is given: masks of tile groups, ports and half stacks. -/
structure Given where
  groups : Nat
  ports : Nat
  hbm : Nat
deriving DecidableEq, Repr

def Given.none : Given := ⟨0, 0, 0⟩

/-- What deckle `d` owns. -/
def State.holds (s : State) (d : Nat) : Given :=
  ⟨s.fget F.DECKLE_GROUPS_groups 0 (ofDeckle d), s.fget F.DECKLE_PORTS_ports 0 (ofDeckle d),
    s.fget F.DECKLE_RES_hbm 0 (ofDeckle d)⟩

/-- An instance of a class is among the resources. -/
def Given.has (g : Given) (cls inst : Nat) : Bool :=
  if cls = 1 then g.groups.testBit inst
  else if cls = 2 then g.ports.testBit inst
  else if cls = 4 then g.hbm.testBit (2 * inst) || g.hbm.testBit (2 * inst + 1)
  else false

/-- The held lock that an activity of a class on an instance conflicts with; `g` is what a deckle activity is given. -/
def State.conflict (s : State) (cls inst : Nat) (g : Given := Given.none) : Option Lock :=
  s.locks.find? fun l =>
    match clash l.cls cls with
    | .none => false
    | .all => true
    | .same => l.inst == inst
    | .overlap =>
      if cls = 3 then g.has l.cls l.inst || (s.holds inst).has l.cls l.inst
      else (s.holds l.inst).has cls inst

/-- The page that shows a lock (R424). -/
def lockPage (cls inst : Nat) : Nat :=
  if cls = 1 then Page.TILE + inst
  else if cls = 2 then Page.PORT + inst
  else if cls = 3 then Page.DECKLE
  else if cls = 4 then Page.HBMC + inst
  else if cls = 5 then Page.NVM
  else Page.RSTCTL

/-- Deckles a lock's page event is attributed to (R344). -/
def State.lockOwners (s : State) (cls inst : Nat) : List Nat :=
  if cls = 1 then s.ownersOfGroup inst
  else if cls = 2 then s.ownersOfPort inst
  else if cls = 3 then [inst]
  else if cls = 4 then s.ownersOfStack inst
  else s.allDeckles

/-- LOCK as a lock shows it (R342). -/
def Lock.word (l : Lock) : Nat :=
  1 + l.cls * 2 + l.holderKind * 2 ^ 5 + l.holder * 2 ^ 8 + l.tag * 2 ^ 16 + l.since * 2 ^ 32

/-- Holder kind and holder of a view (R342). -/
def holderOf (view : Nat) : Nat × Nat := if view < 4 then (1, view) else if view < 20 then (2, view - 4) else (3, 0)

def State.takeLock (s : State) (cls inst : Nat) (holder : Nat × Nat) (tag : Nat) : State :=
  { s with locks := s.locks ++ [⟨cls, inst, holder.1, holder.2, tag % 2 ^ 16, s.beatCount % 2 ^ 32⟩] }

/-- A lock let go, with lock_freed on its page (R342). -/
def State.freeLock (s : State) (cls inst : Nat) : State :=
  if s.locks.any fun l => l.cls == cls && l.inst == inst then
    ({ s with locks := s.locks.filter fun l => !(l.cls == cls && l.inst == inst) }).raiseBit (lockPage cls inst) 30
      (s.lockOwners cls inst)
  else s

def State.modRst (s : State) (f : Rst → Rst) : State := { s with rst := f s.rst }

/-- A refusal by a lock is counted and raised (R425). -/
def State.lockBusy (s : State) : State := (s.bump C.RSTCTL_LOCK_BUSY_CNT).raise E.RSTCTL_lock_busy

end Sys2Proof.Machine
end

