-- ==== Sys2Proof/Machine/Hbm.lean ====
section
/-! DEFINITION. Errors of HBM as every read may find them (R203, R204, R207): corrected and counted, or poisoned; what they do to the
chest (R138, R164), and the loss of a half stack (R211, R215, R216). -/

namespace Sys2Proof.Machine

/-- HBMC_STATE.state (R218). -/
def memOff : Nat := 0
def memTraining : Nat := 1
def memActive : Nat := 2
def memRefresh : Nat := 3
def memFailed : Nat := 4

def State.memState (s : State) (i : Nat) : Nat := s.fget F.HBMC_STATE_state i

def State.stack (s : State) (i : Nat) : Stack := s.stackTab.get (fun _ => Stack.reset) i
def State.modStack (s : State) (i : Nat) (f : Stack → Stack) : State :=
  { s with stackTab := s.stackTab.set (fun _ => Stack.reset) i (f (s.stack i)) }

def State.raiseStack (s : State) (e : Ev) (i : Nat) : State := s.raiseTo e (s.ownersOfStack i) i

/-- A row scheduled for repair (R207). -/
def State.scheduleRow (s : State) (stack row : Nat) : State :=
  s.modStack stack fun x =>
    if x.scheduled.contains row || x.unrepaired.contains row || x.repairing == some row then x
    else { x with scheduled := x.scheduled ++ [row] }

/-! The chest's blocks and their homes. -/

/-- Head dimension and number of elements (R140, R141). -/
def Block.d (b : Block) : Nat := if b.hd = 1 then 128 else 64
def Block.elems (b : Block) : Nat := if b.kind = 0 then 128 * b.d else b.slab * 1024

/-- Stored bytes before padding, and stored size in units of 256 bytes (R142). -/
def Block.storedBytes (b : Block) : Nat :=
  if b.enc = 0 then 2 * b.elems else if b.enc = 1 ∨ b.enc = 2 then b.elems
  else if b.enc = 3 then b.elems / 2 + b.elems / 32 else b.elems / 2 + b.elems / 16 + 8 * b.nres
def Block.units (b : Block) : Nat := ceilDiv b.storedBytes 256

/-- The stack of a block's home (R138). -/
def State.homeStack (s : State) (d b : Nat) : Nat :=
  let es := s.entries d
  (es.getD (b % es.length) (0, 0)).1

/-- A summary of a block whose home is at a stack is damaged and waits to be rebuilt (R164). -/
def State.rebuildsAt (s : State) (stack : Nat) : Bool :=
  s.ctxList.any fun c => (s.ctx c).blocks.any fun p =>
    (p.2.map (·.badSummary)).getD false && s.homeStack (s.ctx c).deckle p.1 == stack

/-- SCREEN_STATE.rebuilding of a stack (R168). -/
def State.showRebuild (s : State) (stack : Nat) : State :=
  s.fset F.SCREEN_STATE_rebuilding (if s.rebuildsAt stack then 1 else 0) stack

/-- The stacks of a deckle that take part in queries. -/
def State.queryStacks (s : State) (d : Nat) : List Nat := ((s.entries d).map Prod.fst).eraseDups

/-! Damage to the chest (R164). -/

/-- The local address of a byte of HBM within a deckle's entries: the inverse of R202. -/
def State.localOf (s : State) (d stack channel choff : Nat) : Option Nat :=
  let es := s.entries d
  let half := (s.deckle d).half
  match es.findIdx? fun e => e.1 == stack && (!half || e.2 == channel / 16) with
  | none => none
  | some i =>
    let k := choff / 256
    let u := if half then k * 16 + (channel % 16 ^^^ bits k 0 4 ^^^ bits k 4 4)
      else k * 32 + (channel ^^^ bits k 0 5 ^^^ bits k 5 5)
    let x := u * 256 + choff % 256
    some ((x / 4096 * es.length + i) * 4096 + x % 4096)

/-- What the arena keeps of a block. -/
inductive Part
  | desc1
  | desc2
  | summary
  | data
deriving DecidableEq, Repr

/-- What entry `e` of `n` keeps of block `i`, with its bytes (R138): the descriptor and the summary at the block's home, the second
copy of the descriptor at the next entry; its T1 data at the home too (the model's place for it, log 15). -/
def Block.partsIn (b : Block) (n e i : Nat) : List (Part × Nat) :=
  (if i % n = e then (.desc1, 64) :: (if b.kind = 0 then [(.summary, 144)] else []) else []) ++
    (if (i + 1) % n = e then [(.desc2, 64)] else []) ++
    (if i % n = e ∧ b.valid ∧ b.tier = 1 then [(.data, b.units * 256)] else [])

/-- The part at an offset, or the offset past them all. -/
def partAt : List (Part × Nat) → Nat → Part ⊕ Nat
  | [], o => .inr o
  | (p, n) :: r, o => if o < n then .inl p else partAt r (o - n)

/-- The block of a chest, and the part of it, that an offset of entry `e` of the arena falls in; or the offset past the chest. Blocks
lie one after another by index (the model's layout, log 15). -/
def blockAt (n e : Nat) : Sparse (Option Block) → Nat → (Nat × Part) ⊕ Nat
  | [], o => .inr o
  | (_, none) :: r, o => blockAt n e r o
  | (i, some b) :: r, o =>
    match partAt (b.partsIn n e i) o with
    | .inl p => .inl (i, p)
    | .inr o => blockAt n e r o

/-- A part of a block is hurt (R164): with both copies of its descriptor damaged a block is as under uncorrectable data. -/
def Block.hurt (b : Block) : Part → Block
  | .desc1 => { b with bad1 := true, bad := b.bad || b.bad2 }
  | .desc2 => { b with bad2 := true, bad := b.bad || b.bad1 }
  | .summary => { b with badSummary := true }
  | .data => { b with bad := true }

/-- Entry of a local address of the arena, and its offset among the arena's bytes in that entry. -/
def State.arenaPlace (s : State) (d a : Nat) : Nat × Nat :=
  let n := (s.entries d).length
  let page := a / 4096
  let base := s.arenaBase d / 4096
  let first := base + (page % n + n - base % n) % n
  (page % n, (page - first) / n * 4096 + a % 4096)

/-- The part of a block of a deckle's chests at a local address of the arena is hurt; a damaged summary is rebuilt (R164). -/
def State.hurtArena (s : State) (d a : Nat) : State :=
  let n := (s.entries d).length
  let at_ := s.arenaPlace d a
  let hurt (m : Sparse (Option Block)) (i : Nat) (p : Part) : Sparse (Option Block) :=
    m.map fun q => if q.1 = i then (i, q.2.map (·.hurt p)) else q
  let r := (s.ctxsOf d).foldl (fun (a : State × Option Nat) c =>
    match a.2 with
    | none => a
    | some o =>
      match blockAt n at_.1 (s.ctx c).blocks o with
      | .inl (i, p) => (a.1.modCtx c fun x => { x with blocks := hurt x.blocks i p }, none)
      | .inr o => (a.1, some o)) (s, some at_.2)
  match r.2 with
  | none => r.1.each (r.1.queryStacks d) State.showRebuild
  | some o =>
    let x := s.deckle d
    let q := x.orphans.foldl (fun (a : List (Nat × Sparse (Option Block)) × Option Nat) g =>
      match a.2 with
      | none => (a.1 ++ [g], none)
      | some o =>
        match blockAt n at_.1 g.2 o with
        | .inl (i, p) => (a.1 ++ [(g.1, hurt g.2 i p)], none)
        | .inr o => (a.1 ++ [g], some o)) ([], some o)
    r.1.setDeckle d { x with orphans := q.1 }

/-! Losing a half stack (R211, R215, R216). -/

/-- A deckle loses its local HBM: its contexts fault with UNREACHABLE, its chests and orphans are lost, and with them what
it lent (R215, R216). -/
def State.loseHbm (s : State) (d stack : Nat) : State :=
  let x := s.deckle d
  let s1 := s.setDeckle d { x with lost := true, orphans := [], lends := x.lends.map fun l => { l with store := [] } }
  let b := s.reg 0 (Page.HBMC + stack) 0x90 + stack * 2 ^ 32
  s1.each (s.ctxsOf d) fun s c =>
    (s.modCtx c fun x => { x with blocks := [], moves := [], drops := [], queries := [] }).faultWith (Page.HBMC + stack) c 0x12 0x07 0 b
      0x3FFF 0x3FFF

/-- A half stack fails: recorded, raised, and lost to every deckle that owns it. -/
def State.failHalf (s : State) (stack half : Nat) : State :=
  let f := s.fget F.HBMC_STATE_failed stack
  if f.testBit half then s
  else
    let owners := s.allDeckles.filter fun d => s.ownsHalf d stack half && !(s.deckle d).lost
    let s1 := (s.fset F.HBMC_STATE_failed (f ||| 2 ^ half) stack).brokeAdd 0x6 (stack + half * 16) 0x12 true
    let s2 := (s1.when ((f ||| 2 ^ half) == 3) (·.fset F.HBMC_STATE_state memFailed stack)).raiseStack
      E.HBMC_channel_failed stack
    s2.each owners fun s d => s.loseHbm d stack

/-! Errors found. -/

/-- Distinct units of a channel found uncorrectable within the last second (R215). -/
def State.uesOf (s : State) (stack channel : Nat) : Nat :=
  (((s.stack stack).ues.filter fun u => u.1 / 2 ^ 26 == stack * 32 + channel && decide (s.ms < u.2 + 1000)).map
    Prod.fst).eraseDups.length

/-- An uncorrectable error in a unit (R204, R207): poisoned and counted, its place held in HBMC_ERR_LOC, its row scheduled
for repair, and what the chest kept there damaged. A channel with 1,024 of them within a second fails (R215). -/
def State.poisonUnit (s : State) (stack channel choff : Nat) : State :=
  let unit := hbmKey stack channel choff / 64
  let s0 := s.modStack stack fun x => { x with ues := (unit, s.ms) :: x.ues.filter fun u => decide (s.ms < u.2 + 1000) }
  let s1 := { s0 with poison := s0.poison.set (fun _ => false) unit true }
  let s2 := (s1.bump C.HBMC_UE_CNT stack).setReg 0 (Page.HBMC + stack) 0x90 (errLoc channel choff)
  let s3 := (s2.raiseStack E.HBMC_ecc_uncorrectable stack).scheduleRow stack (rowOf' channel choff)
  let s4 := s3.each (s.ownersOfStack stack) fun s d =>
    match s.localOf d stack channel choff with
    | some a => if s.arenaBase d ≤ a ∧ a < s.localSize d then s.hurtArena d a else s
    | none => s
  s4.when (s4.memState stack == memActive && decide (1024 ≤ s4.uesOf stack channel)) (·.failHalf stack (channel / 16))

/-- A day in milliseconds. -/
def dayMs : Nat := 86400000

/-- A corrected error counted against its row (R207). -/
def State.rowError (s : State) (stack row : Nat) : State :=
  let s1 := s.modStack stack fun x =>
    { x with rowErrs := (row, s.ms) :: x.rowErrs.filter fun e => decide (s.ms < e.2 + dayMs) }
  let limit := s.fget F.HBMC_REPAIR_ce_row_limit stack
  let n := ((s1.stack stack).rowErrs.filter fun e => e.1 == row).length
  s1.when (limit != 0 && decide (limit ≤ n)) (·.scheduleRow stack row)

/-- What a read finds in a 64-byte access of 72 symbols with errors in `symbols` of them (R203): the code corrects two and detects six;
what it makes of more the spec leaves open, and it is free. -/
def State.eccFound (s : State) (symbols : Nat) : EccError × State :=
  if symbols = 0 then (.clean, s)
  else if symbols ≤ 2 then (.corrected, s)
  else if symbols ≤ 6 then (.uncorrectable, s)
  else
    let f := s.free
    (match (Config.freeWord f.1).toNat % 3 with | 0 => .clean | 1 => .corrected | _ => .uncorrectable, f.2)

/-- A demand read of a unit at a local address (R204): a corrected error is counted, also against its row (R207); an uncorrectable one
poisons the unit. A poisoned unit is as it was. -/
def State.demandUnit (s : State) (d a symbols : Nat) : State :=
  let key := s.localKey d a
  let stack := key / 2 ^ 37
  let channel := key / 2 ^ 32 % 32
  let choff := key % 2 ^ 32 / 64 * 64
  if s.isPoisoned d a then s
  else
    let f := s.eccFound symbols
    match f.1 with
    | .clean => f.2
    | .corrected => (f.2.bump C.HBMC_CE_CNT stack).rowError stack (rowOf' channel choff)
    | .uncorrectable => f.2.poisonUnit stack channel choff

/-- A demand read of `n` bytes of a deckle's local HBM from `a`. `errs` lists the symbols in error of units of it, by local address. -/
def State.demandRead (s : State) (d a n : Nat) (errs : List (Nat × Nat)) : State :=
  let units := ((errs.map fun e => e.1 / 64).eraseDups).filter fun u => decide (0 < n ∧ a / 64 ≤ u ∧ u * 64 < a + n)
  if (s.deckle d).lost then s
  else s.each units fun s u => s.demandUnit d (u * 64) (((errs.find? fun e => e.1 / 64 == u).map Prod.snd).getD 0)

end Sys2Proof.Machine
end

