-- ==== Sys2Proof/Machine/Fabric.lean ====
section
/-! DEFINITION. Writes to other modules as their source follows them (R129, R250, R262, R263). -/

namespace Sys2Proof.Machine

/-- A burst appended to the WRITE packet of its descriptor that still waits at the source and ends where it begins
(R250). A packet that the window could have taken before, and cannot now, is counted as it waits (R260). -/
def State.coalesce (s : State) (iod dst vc seq addr : Nat) (data : List Byte) (flagged : Bool) : Option State :=
  let r := s.router iod
  match r.inject.find? fun p => p.op == opWrite && p.dst == dst && p.vc == vc && p.pairSeq == seq % 2 ^ 32 with
  | some p =>
    if p.addr + p.payload.length = addr ∧ p.payload.length + data.length ≤ 2048 ∧ !p.flagged then
      let p' := { p with payload := p.payload ++ data, flagged }
      let r' := { r with inject := r.inject.map fun x => if x == p then p' else x }
      let pair := s.txPair iod dst
      let stalls := pair.room (r.waiting dst) && !pair.room (r'.waiting dst)
      some ((s.setRouter iod r').when stalls (·.bump C.ROUTE_WIN_STALL_CNT iod))
    else none
  | none => none

/-- Tiles with a descriptor, a FENCE or an unpublished write waiting on a pair: those that follow a write to it or await a read
from it (R263). -/
def State.waitersOn (s : State) (iod dst : Nat) : List Nat :=
  let busy (t : Tile) (n : Nat) : Bool :=
    ((t.remote ++ (if t.blocked = .fence then t.earlier else [])).any fun w => w.iod == iod && w.dst == dst && !s.remoteDone w) ||
      ((s.router iod).reads.any fun r => r.dst == dst && r.tile == n)
  (s.tiles.filterMap fun p => if busy p.2 p.1 then p.2.running.map Prod.fst else none).eraseDups

/-- Steps of a group that has the endpoint, with the rank of the member there (R297). -/
def State.stepsOn (s : State) (dst : Nat) : List (Nat × Step × Nat) :=
  s.ctxList.flatMap fun c =>
    let x := s.ctx c
    x.steps.filterMap fun p =>
      let g := x.groupOf p
      if p.st = .complete ∨ p.st = .wait then none
      else (g.others.find? fun r => g.endpoint r 0 == dst || g.endpoint r 1 == dst).map fun r => (c, p, r)

end Sys2Proof.Machine
end

