-- ==== Sys2Proof/Machine/Sequencer.lean ====
section
/-! DEFINITION. The scalar sequencer (R84-R89) and the L1 it reaches local HBM through (R122, R123). A row of the table
takes effect on a tile whose next instruction is of that kind; the instruction's fields come from the word at the
program counter (R85). -/

namespace Sys2Proof.Machine

/-- The next instruction of a running tile that is free to issue: the word at pc, if it is not reserved. -/
def State.nextInstr (s : State) (tile : Nat) : Option (Run × SeqInstr) :=
  let t := s.tile tile
  match t.running with
  | none => none
  | some r =>
    if t.blocked = .miss ∨ t.blocked = .ended ∨ t.blocked = .faulted then none
    else
      match t.prog[t.pc / 8]? with
      | none => none
      | some w => (decodeSeq w).map fun i => (s.runOf r, i)

/-- One sequencer row: `f` acts when the next instruction of the tile has opcode `op`; otherwise nothing happens. -/
def seqRow (op tile : Nat) (s : State) (f : Run → SeqInstr → State) : Host.Outcome State Fault Refusal :=
  guardUnit (tileOk tile) <|
    match s.nextInstr tile with
    | none => s
    | some (r, i) => if i.op = op then f r i else s

/-- A general register; g0 reads 0 (R58). -/
def Tile.gr (t : Tile) (n : Nat) : Word := if n = 0 then 0 else t.g.get (fun _ => 0) n

/-- A general register written; writes to g0 are discarded (R58). -/
def Tile.setGr (t : Tile) (n : Nat) (v : Word) : Tile :=
  if n = 0 then t else { t with g := t.g.set (fun _ => 0) n v }

def Tile.tok (t : Tile) (n : Nat) : Nat := t.t.get (fun _ => 0) n
def Tile.setTok (t : Tile) (n v : Nat) : Tile := { t with t := t.t.set (fun _ => 0) n v }

/-- The program counter at the next instruction, the sequencer free to go on. -/
def Tile.advance (t : Tile) : Tile := { t with pc := t.pc + 8, blocked := .no }

/-- rd takes a value and the sequencer goes on. -/
def State.seqPut (s : State) (tile rd : Nat) (v : Word) : State :=
  s.setTile tile ((s.tile tile).setGr rd v).advance

/-- A register operation of format A. -/
def seqAlu (op : Nat) (f : Word → Word → Word) (tile : Nat) (s : State) : Host.Outcome State Fault Refusal :=
  seqRow op tile s fun _ i => s.seqPut tile i.rd (f ((s.tile tile).gr i.rs1) ((s.tile tile).gr i.rs2))

/-- A register-immediate operation of format I, the immediate sign-extended to 64 bits. -/
def seqImm (op : Nat) (f : Word → Word → Word) (tile : Nat) (s : State) : Host.Outcome State Fault Refusal :=
  seqRow op tile s fun _ i => s.seqPut tile i.rd (f ((s.tile tile).gr i.rs1) (BitVec.ofInt 64 i.imm))

def boolWord (b : Bool) : Word := if b then 1 else 0

/-- A taken branch: the target is checked against the program (R87) and becomes the program counter. -/
def State.seqJump (s : State) (tile : Nat) (r : Run) (target : Int) (f : Tile → Tile) : State :=
  let t := s.tile tile
  if target < 0 ∨ Int.ofNat r.h.codeLen ≤ target then s.seqFault tile r 0x0B t.pc
  else s.setTile tile { f t with pc := target.toNat, blocked := .no }

/-- A conditional branch of format B. -/
def seqBranch (op : Nat) (rel : Word → Word → Bool) (tile : Nat) (s : State) : Host.Outcome State Fault Refusal :=
  seqRow op tile s fun r i =>
    let t := s.tile tile
    if rel (t.gr i.rs1) (t.gr i.rs2) then s.seqJump tile r (Int.ofNat t.pc + 8 * i.imm) id
    else s.setTile tile t.advance

/-! Loads and stores. -/

/-- Parts of a write within aligned 64-byte granules (R121): address and bytes of each. -/
def granules : Nat → Nat → List Byte → List (Nat × List Byte)
  | 0, _, _ => []
  | n + 1, a, d =>
    let k := 64 - a % 64
    if d.isEmpty then [] else (a, d.take k) :: granules n (a + k) (d.drop k)

/-- A write by the engine of queue `k` to scratchpad: the engine's own reads see it at once (R119), and its units are listed as not
yet in place. -/
def State.engineWrite (s : State) (tile k a : Nat) (d : List Byte) : State :=
  let s1 := s.spadWrite tile a d
  let t := s1.tile tile
  s1.setTile tile { t with landing := t.landing ++ (granules (d.length / 64 + 2) a d).map fun g => (k, g.1, g.2) }

/-- Units of a tile not yet in place, looked at by another observer: each has come into place or not, a free choice, but none
before an earlier one of its engine in its granule (R119, R121). -/
def State.settleUnits (tile : Nat) : List (Nat × Nat × List Byte) → State → State
  | [], s => s
  | u :: rest, s =>
    let t := s.tile tile
    let behind := t.landing.any fun v => v.1 == u.1 && v.2.1 / 64 == u.2.1 / 64
    let c := s.free
    if behind ∨ (Config.freeWord c.1).toNat % 2 = 0 then
      State.settleUnits tile rest (c.2.setTile tile { t with landing := t.landing ++ [u] })
    else State.settleUnits tile rest (c.2.spadWrite tile u.2.1 u.2.2)

def State.blur (s : State) (tile : Nat) : State :=
  let t := s.tile tile
  if t.landing.isEmpty then s else State.settleUnits tile t.landing (s.setTile tile { t with landing := [] })

/-- Every unit of the engine of queue `k` comes into place (R68). -/
def State.land (s : State) (tile k : Nat) : State :=
  let t := s.tile tile
  let mine := t.landing.filter fun u => u.1 == k
  if mine.isEmpty then s
  else (mine.foldl (fun s u => s.spadWrite tile u.2.1 u.2.2) s).setTile tile
    { t with landing := t.landing.filter fun u => u.1 != k }

/-- Bytes of an access (R85). -/
def SeqInstr.bytes (i : SeqInstr) : Nat := 2 ^ i.width

/-- Address of a load or store: rs1 + imm. -/
def Tile.seqAddr (t : Tile) (i : SeqInstr) : Nat := (t.gr i.rs1 + BitVec.ofInt 64 i.imm).toNat

/-- A scratchpad access and what it finds (R61): misaligned faults (R87), out of the tile's limit is refused (R59). The rules give
no order between the two, and the model reports the misalignment (DESIGN CHOICE, log 102). -/
def State.spadAccess (s : State) (tile : Nat) (r : Run) (i : SeqInstr) (ecc : StoreEcc) (f : Nat → State → State) : State :=
  let t := s.tile tile
  let a := t.seqAddr i
  if a % i.bytes ≠ 0 then s.seqFault tile r 0x0B t.pc
  else if t.limit < a + i.bytes then s.accessFault tile r 0x0B 1 (max a t.limit)
  else (s.blur tile).withEcc tile ecc (f a)

/-- The line of an address and the rest of the cache, most recent first. -/
def Tile.findLine (t : Tile) (a : Nat) : Option Line := t.l1.find? fun l => l.addr == a / 128 * 128

/-- A line used: it becomes the most recently used. -/
def Tile.useLine (t : Tile) (l : Line) : Tile := { t with l1 := l :: (t.l1.filter fun m => m.addr != l.addr) }

/-- Set of a line (R58: 64 sets of 4 ways). -/
def lineSet (a : Nat) : Nat := a / 128 % 64

/-- The line a fill into a full set evicts: the least recently used of the set (R122). -/
def Tile.victim (t : Tile) (a : Nat) : Option Line :=
  let ls := t.l1.filter fun l => lineSet l.addr == lineSet a
  if ls.length < 4 then none else ls.getLast?

/-- Bytes of a line from an offset. -/
def Line.read (l : Line) (o n : Nat) : List Byte := (l.data.drop o).take n

/-- Bytes written into a line and marked dirty (R122). -/
def Line.write (l : Line) (o : Nat) (d : List Byte) : Line :=
  { l with
    data := l.data.take o ++ d ++ l.data.drop (o + d.length)
    mask := l.mask ||| (BitVec.ofNat 128 (2 ^ d.length - 1) <<< o) }

/-- The access itself, on the line that holds its address. -/
def State.l1Access (s : State) (tile : Nat) (i : SeqInstr) (l : Line) : State :=
  let t := s.tile tile
  let a := t.seqAddr i
  if i.op = 0x32 then
    s.setTile tile ((t.useLine l).setGr i.rd (BitVec.ofNat 64 (leNat (l.read (a % 128) i.bytes)))).advance
  else
    s.setTile tile (t.useLine (l.write (a % 128) (leBytes i.bytes (t.gr i.rd).toNat))).advance

/-- A line dropped, and the access waits for it to be filled again (R61). -/
def State.refetch (s : State) (tile : Nat) (l : Line) : State :=
  let t := s.tile tile
  s.setTile tile { t with l1 := t.l1.filter fun m => m.addr != l.addr, blocked := .miss }

/-- LDG and STG: alignment (R87), confinement (R48) and the arena (R137), in the model's order (DESIGN CHOICE, log 102), then a hit
and what it finds (R61), or a wait for the line to be filled (R122). -/
def State.globalAccess (s : State) (tile : Nat) (r : Run) (i : SeqInstr) (ecc : StoreEcc) : State :=
  let t := s.tile tile
  let a := t.seqAddr i
  if a % i.bytes ≠ 0 then s.seqFault tile r 0x0B t.pc
  else if !r.allowed (i.op == 0x33) 0 0 a i.bytes then s.confineFault tile r 0 a
  else if s.inArena r.x.deckle a i.bytes then s.accessFault tile r 0x0B 0 a
  else
    match t.findLine a with
    | some l =>
      match ecc with
      | .ok => s.l1Access tile i l
      | .corrected w => (s.l1Access tile i l).corrected tile (some w)
      | .tagParity => (s.refetch tile l).corrected tile none
      | .uncorrectable w =>
        if l.mask = 0 then (s.refetch tile l).corrected tile (some w) else s.errorFence tile 0x0D true
    | none => s.setTile tile { t with blocked := .miss }

/-- Lines that overlap a range (R123). -/
def Tile.linesIn (t : Tile) (a n : Nat) : List Line :=
  t.l1.filter fun l => decide (0 < n ∧ l.addr < a + n ∧ a < l.addr + 128)

/-- CINV, CWB and CWBI over a range (R123): dirty lines written back, lines dropped, or both. -/
def State.cacheOp (s : State) (tile : Nat) (r : Run) (i : SeqInstr) (wb drop : Bool) : State :=
  let t := s.tile tile
  let a := (t.gr i.rs1).toNat
  let n := (t.gr i.rs2).toNat
  if n ≠ 0 ∧ s.localSize r.x.deckle < a + n then s.confineFault tile r 0 a
  else
    let ls := t.linesIn a n
    let s1 := if wb then s.writeBackAll r.x.deckle ls else s
    let keep := t.l1.filterMap fun l =>
      if ls.any (fun m => m.addr == l.addr) then (if drop then none else some { l with mask := 0 }) else some l
    s1.setTile tile { t with l1 := keep }.advance

/-! Special values (R88). -/

/-- The value MOVS selects; the tile cycle count is open, timing being left out (log 13). -/
def State.special (s : State) (tile : Nat) (r : Run) (sel : Nat) : Word × State :=
  let n (v : Nat) : Word × State := (BitVec.ofNat 64 v, s)
  let ref := r.h.refs[sel % 16]?
  if sel = 0 then n r.seq
  else if sel = 1 then n r.iteration
  else if sel = 2 then n r.rbeat
  else if sel = 3 then n r.h.vtile
  else if sel = 4 then n tile
  else if sel = 5 then n (s.handle r.c)
  else if sel = 6 then (Config.freeWord s.free.1, s.free.2)
  else if sel = 7 then n s.beatCount
  else if sel = 8 then n (divisorOf (bits (s.reg 0 Page.CLKCTL 0x88) (4 * dieOf tile) 3))
  else if sel < 0x200 then n ((ref.map fun x => (r.ream.range x).start).getD 0)
  else n ((ref.map fun x => x.len).getD 0)

/-! The rows. -/

/-- ADD (R86). -/
def execSeqAdd (tile : Nat) (s : State) : Host.Outcome State Fault Refusal :=
  seqAlu 0x10 (fun a b => a + b) tile s

/-- SUB (R86). -/
def execSeqSub (tile : Nat) (s : State) : Host.Outcome State Fault Refusal :=
  seqAlu 0x11 (fun a b => a - b) tile s

/-- MUL (R86): the low 64 bits. -/
def execSeqMul (tile : Nat) (s : State) : Host.Outcome State Fault Refusal :=
  seqAlu 0x12 (fun a b => a * b) tile s

/-- AND (R86). -/
def execAnd (tile : Nat) (s : State) : Host.Outcome State Fault Refusal :=
  seqAlu 0x13 (fun a b => a &&& b) tile s

/-- OR (R86). -/
def execOr (tile : Nat) (s : State) : Host.Outcome State Fault Refusal :=
  seqAlu 0x14 (fun a b => a ||| b) tile s

/-- XOR (R86). -/
def execXor (tile : Nat) (s : State) : Host.Outcome State Fault Refusal :=
  seqAlu 0x15 (fun a b => a ^^^ b) tile s

/-- SHL (R86): by rs2[5:0]. -/
def execShl (tile : Nat) (s : State) : Host.Outcome State Fault Refusal :=
  seqAlu 0x16 (fun a b => a <<< (b.toNat % 64)) tile s

/-- SHR (R86): logical, by rs2[5:0]. -/
def execShr (tile : Nat) (s : State) : Host.Outcome State Fault Refusal :=
  seqAlu 0x17 (fun a b => a >>> (b.toNat % 64)) tile s

/-- SRA (R86): arithmetic, by rs2[5:0]. -/
def execSra (tile : Nat) (s : State) : Host.Outcome State Fault Refusal :=
  seqAlu 0x18 (fun a b => a.sshiftRight (b.toNat % 64)) tile s

/-- MIN (R86): signed. -/
def execMin (tile : Nat) (s : State) : Host.Outcome State Fault Refusal :=
  seqAlu 0x19 (fun a b => if BitVec.slt b a then b else a) tile s

/-- MAX (R86): signed. -/
def execMax (tile : Nat) (s : State) : Host.Outcome State Fault Refusal :=
  seqAlu 0x1A (fun a b => if BitVec.slt a b then b else a) tile s

/-- SLT (R86): signed. -/
def execSlt (tile : Nat) (s : State) : Host.Outcome State Fault Refusal :=
  seqAlu 0x1B (fun a b => boolWord (BitVec.slt a b)) tile s

/-- SLTU (R86): unsigned. -/
def execSltu (tile : Nat) (s : State) : Host.Outcome State Fault Refusal :=
  seqAlu 0x1C (fun a b => boolWord (BitVec.ult a b)) tile s

/-- SEQ (R86). -/
def execSeq (tile : Nat) (s : State) : Host.Outcome State Fault Refusal :=
  seqAlu 0x1D (fun a b => boolWord (a == b)) tile s

/-- ADDI (R86). -/
def execAddi (tile : Nat) (s : State) : Host.Outcome State Fault Refusal :=
  seqImm 0x20 (fun a b => a + b) tile s

/-- ANDI (R86). -/
def execAndi (tile : Nat) (s : State) : Host.Outcome State Fault Refusal :=
  seqImm 0x23 (fun a b => a &&& b) tile s

/-- ORI (R86). -/
def execOri (tile : Nat) (s : State) : Host.Outcome State Fault Refusal :=
  seqImm 0x24 (fun a b => a ||| b) tile s

/-- XORI (R86). -/
def execXori (tile : Nat) (s : State) : Host.Outcome State Fault Refusal :=
  seqImm 0x25 (fun a b => a ^^^ b) tile s

/-- SHLI (R86): by imm[5:0]. -/
def execShli (tile : Nat) (s : State) : Host.Outcome State Fault Refusal :=
  seqImm 0x26 (fun a b => a <<< (b.toNat % 64)) tile s

/-- SHRI (R86): logical, by imm[5:0]. -/
def execShri (tile : Nat) (s : State) : Host.Outcome State Fault Refusal :=
  seqImm 0x27 (fun a b => a >>> (b.toNat % 64)) tile s

/-- SRAI (R86): arithmetic, by imm[5:0]. -/
def execSrai (tile : Nat) (s : State) : Host.Outcome State Fault Refusal :=
  seqImm 0x28 (fun a b => a.sshiftRight (b.toNat % 64)) tile s

/-- SLTI (R86): signed. -/
def execSlti (tile : Nat) (s : State) : Host.Outcome State Fault Refusal :=
  seqImm 0x2B (fun a b => boolWord (BitVec.slt a b)) tile s

/-- LIL (R86): the immediate zero-extended. -/
def execLil (tile : Nat) (s : State) : Host.Outcome State Fault Refusal :=
  seqRow 0x2E tile s fun _ i => s.seqPut tile i.rd (BitVec.ofNat 64 (ofSigned 32 i.imm))

/-- LIH (R86): the immediate into the upper half, the lower half kept. -/
def execLih (tile : Nat) (s : State) : Host.Outcome State Fault Refusal :=
  seqRow 0x2F tile s fun _ i =>
    s.seqPut tile i.rd (BitVec.ofNat 64 (ofSigned 32 i.imm * 2 ^ 32 + ((s.tile tile).gr i.rd).toNat % 2 ^ 32))

/-- LDS (R86): a zero-extended scratchpad load. -/
def execLds (tile : Nat) (ecc : StoreEcc) (s : State) : Host.Outcome State Fault Refusal :=
  seqRow 0x30 tile s fun r i => s.spadAccess tile r i ecc fun a s =>
    s.seqPut tile i.rd (BitVec.ofNat 64 (leNat (s.spadRead tile a i.bytes)))

/-- STS (R86): a scratchpad store. -/
def execSts (tile : Nat) (ecc : StoreEcc) (s : State) : Host.Outcome State Fault Refusal :=
  seqRow 0x31 tile s fun r i => s.spadAccess tile r i ecc fun a s =>
    (s.spadWrite tile a (leBytes i.bytes ((s.tile tile).gr i.rd).toNat)).setTile tile (s.tile tile).advance

/-- LDG (R86, R122). -/
def execLdg (tile : Nat) (ecc : StoreEcc) (s : State) : Host.Outcome State Fault Refusal :=
  seqRow 0x32 tile s fun r i => s.globalAccess tile r i ecc

/-- STG (R86, R122). -/
def execStg (tile : Nat) (ecc : StoreEcc) (s : State) : Host.Outcome State Fault Refusal :=
  seqRow 0x33 tile s fun r i => s.globalAccess tile r i ecc

/-- L1_FILL_DONE (R122): the line of the access that missed is filled from the home, evicting the least recently used
line of a full set, and the access completes. The read finds the errors `errs` (R204). A poisoned or lost line faults the context (R204, R215). -/
def execL1FillDone (tile : Nat) (errs : List (Nat × Nat)) (s : State) : Host.Outcome State Fault Refusal :=
  guardUnit (tileOk tile) <|
    let t := s.tile tile
    match t.running, t.prog[t.pc / 8]? with
    | some r, some w =>
      if t.blocked ≠ .miss then s
      else
        match decodeSeq w with
        | none => s
        | some i =>
          let run := s.runOf r
          let a := t.seqAddr i / 128 * 128
          let s := s.demandRead run.x.deckle a 128 errs
          match s.localBad run.x.deckle a 128 with
          | some (status, at_) => s.readFault tile run status 0 a 128 at_
          | none =>
            let line : Line := ⟨a, s.localRead run.x.deckle a 128, 0⟩
            let s1 := match t.victim a with | some v => s.writeBack run.x.deckle v | none => s
            let l1 := match t.victim a with | some v => t.l1.filter (fun l => l.addr != v.addr) | none => t.l1
            (s1.setTile tile { t with l1, blocked := .no }).l1Access tile i line
    | _, _ => s

/-- BEQ (R86). -/
def execBeq (tile : Nat) (s : State) : Host.Outcome State Fault Refusal :=
  seqBranch 0x40 (fun a b => a == b) tile s

/-- BNE (R86). -/
def execBne (tile : Nat) (s : State) : Host.Outcome State Fault Refusal :=
  seqBranch 0x41 (fun a b => a != b) tile s

/-- BLT (R86): signed. -/
def execBlt (tile : Nat) (s : State) : Host.Outcome State Fault Refusal :=
  seqBranch 0x42 (fun a b => BitVec.slt a b) tile s

/-- BGE (R86): signed. -/
def execBge (tile : Nat) (s : State) : Host.Outcome State Fault Refusal :=
  seqBranch 0x43 (fun a b => !BitVec.slt a b) tile s

/-- BLTU (R86): unsigned. -/
def execBltu (tile : Nat) (s : State) : Host.Outcome State Fault Refusal :=
  seqBranch 0x44 (fun a b => BitVec.ult a b) tile s

/-- BGEU (R86): unsigned. -/
def execBgeu (tile : Nat) (s : State) : Host.Outcome State Fault Refusal :=
  seqBranch 0x45 (fun a b => !BitVec.ult a b) tile s

/-- JMP (R86). -/
def execJmp (tile : Nat) (s : State) : Host.Outcome State Fault Refusal :=
  seqRow 0x46 tile s fun r i => s.seqJump tile r (Int.ofNat (s.tile tile).pc + 8 * i.imm) id

/-- CALL (R85-R87): the offset of the following instruction is pushed; a ninth entry faults. -/
def execCall (tile : Nat) (s : State) : Host.Outcome State Fault Refusal :=
  seqRow 0x48 tile s fun r i =>
    let t := s.tile tile
    if 8 ≤ t.stack.length then s.seqFault tile r 0x0B t.pc
    else s.seqJump tile r (Int.ofNat t.pc + 8 * i.imm) fun t => { t with stack := (t.pc + 8) :: t.stack }

/-- RET (R85-R87): to the offset it pops; an empty stack faults. -/
def execRet (tile : Nat) (s : State) : Host.Outcome State Fault Refusal :=
  seqRow 0x49 tile s fun r _ =>
    match (s.tile tile).stack with
    | [] => s.seqFault tile r 0x0B (s.tile tile).pc
    | p :: rest => s.seqJump tile r (Int.ofNat p) fun t => { t with stack := rest }

/-- The descriptor's kind and its own rules (R65). -/
def descOk (func : Nat) (d : List Byte) : Bool :=
  tailOk d &&
    (if func = 0 then descKind d == 1 && matrixOk d
     else if func = 1 then descKind d == 2 && vectorOk d
     else descKind d == 3 && dmaOk d)

/-- Scratchpad ranges checked at ISSUE (R59). -/
def descSpans (func : Nat) (d : List Byte) : List Span :=
  if func = 0 then (matrixDesc d).spans else if func = 1 then (vectorDesc d).spans else []

def Tile.queue (t : Tile) (k : Nat) : List QDesc := t.queues.get (fun _ => []) k
def Tile.setQueue (t : Tile) (k : Nat) (q : List QDesc) : Tile := { t with queues := t.queues.set (fun _ => []) k q }

/-- The descriptor at an address, as ISSUE reads it, checked and placed in its queue. A descriptor that fails both its own rules and
R59 is reported for its own rules, and both come before the stall on a full queue (DESIGN CHOICE, log 102). -/
def State.issueAt (tile : Nat) (r : Run) (i : SeqInstr) (a : Nat) (s : State) : State :=
  let t := s.tile tile
  let d := s.spadRead tile a 64
  if !descOk i.func d then s.seqFault tile r 0x0B t.pc
  else
    match refusedAddr t.limit (descSpans i.func d) with
    | some b => s.accessFault tile r 0x0B 1 b
    | none =>
      if 16 ≤ (t.queue i.func).length then s.setTile tile { t with blocked := .issue }
      else s.setTile tile (t.setQueue i.func (t.queue i.func ++ [⟨d, t.pc, false, false, [], 0, false, none⟩])).advance

/-- ISSUE (R65, R59): the descriptor at rs1 is checked and copied into the queue; a full queue stalls. -/
def execIssue (tile : Nat) (ecc : StoreEcc) (s : State) : Host.Outcome State Fault Refusal :=
  seqRow 0x50 tile s fun r i =>
    let t := s.tile tile
    let a := (t.gr i.rs1).toNat
    if a % 64 ≠ 0 then s.seqFault tile r 0x0B t.pc
    else if t.limit < a + 64 then s.accessFault tile r 0x0B 1 (max a t.limit)
    else (s.blur tile).withEcc tile ecc (State.issueAt tile r i a)

/-- One added to a token (R67); an addition above 255 is not performed, is counted, and faults the context with a
record naming the given offset. The tile goes on as `k` says otherwise. -/
def State.signal (s : State) (tile : Nat) (r : Run) (tok off : Nat) (k : Tile → Tile) : State :=
  let t := s.tile tile
  if 255 ≤ t.tok tok then
    ((s.bump C.TILE_TOKEN_OVF_CNT (groupOf tile)).raiseTo E.TILE_token_overflow [r.x.deckle] (groupOf tile)).seqFault
      tile r 0x0B off
  else s.setTile tile (k (t.setTok tok (t.tok tok + 1)))

/-- SIG (R67). -/
def execSig (tile : Nat) (s : State) : Host.Outcome State Fault Refusal :=
  seqRow 0x51 tile s fun r i => s.signal tile r i.tok (s.tile tile).pc Tile.advance

/-- The descriptor of a queue that may start next: the head of a matrix or vector queue, the first not started of a
DMA queue (R67, R83). -/
def Tile.nextDesc (t : Tile) (k : Nat) : Option (Nat × QDesc) :=
  let q := t.queue k
  if k < 2 then (match q with | d :: _ => if d.started then none else some (0, d) | [] => none)
  else
    match q.findIdx? fun d => !d.started with
    | none => none
    | some i => (q[i]?).map fun d => (i, d)

/-- A waiter on a token that the order of R67 serves first can be satisfied: a queue before queue `k` (10 stands for the sequencer). -/
def Tile.servesBefore (t : Tile) (tok k : Nat) : Bool :=
  (List.range k).any fun j =>
    match t.nextDesc j with
    | some (_, d) => tailWaitEn d.bytes && tailWaitTok d.bytes == tok && decide (tailWaitCnt d.bytes ≤ t.tok tok)
    | none => false

/-- WAIT (R67): blocks until the token reaches the count, which it then consumes; the queues that wait on it come first. -/
def execWait (tile : Nat) (s : State) : Host.Outcome State Fault Refusal :=
  seqRow 0x52 tile s fun _ i =>
    let t := s.tile tile
    if t.tok i.tok < i.cnt ∨ t.servesBefore i.tok 10 = true then s.setTile tile { t with blocked := .wait }
    else s.setTile tile (t.setTok i.tok (t.tok i.tok - i.cnt)).advance

/-- Every earlier write of a tile to another module is remote-complete (R128, R129). -/
def State.remoteQuiet (s : State) (t : Tile) : Bool := (t.earlier ++ t.remote).all s.remoteDone

/-- FENCE (R86, R128, R129): waits for every issued descriptor and, with func 1, for remote completion. `readBack`: the CXL read
that the module issues behind the tile's writes to space 0x4 has returned. -/
def execFence (tile : Nat) (readBack : Bool) (s : State) : Host.Outcome State Fault Refusal :=
  seqRow 0x53 tile s fun _ i =>
    let t := s.tile tile
    if t.quiet ∧ (i.func = 0 ∨ (s.remoteQuiet t ∧ (t.behind = 0 ∨ readBack))) then
      s.setTile tile { t with behind := if i.func = 1 then 0 else t.behind }.advance
    else s.setTile tile { t with blocked := .fence }

/-- CINV (R123): lines dropped, dirty bytes discarded. -/
def execCinv (tile : Nat) (s : State) : Host.Outcome State Fault Refusal :=
  seqRow 0x54 tile s fun r i => s.cacheOp tile r i false true

/-- CWB (R123): dirty lines written back and kept clean. -/
def execCwb (tile : Nat) (s : State) : Host.Outcome State Fault Refusal :=
  seqRow 0x55 tile s fun r i => s.cacheOp tile r i true false

/-- CWBI (R123): dirty lines written back, lines dropped. -/
def execCwbi (tile : Nat) (s : State) : Host.Outcome State Fault Refusal :=
  seqRow 0x56 tile s fun r i => s.cacheOp tile r i true true

/-- MOVS (R88). -/
def execMovs (tile : Nat) (s : State) : Host.Outcome State Fault Refusal :=
  seqRow 0x60 tile s fun r i =>
    let v := s.special tile r i.imm.toNat
    v.2.seqPut tile i.rd v.1

/-- END (R64): the program ends and the completion of the sheet begins. -/
def execEnd (tile : Nat) (s : State) : Host.Outcome State Fault Refusal :=
  seqRow 0x7F tile s fun _ _ => s.setTile tile { s.tile tile with blocked := .ended }

/-- RESERVED_OPCODE (R87): a reserved word at pc, or no word there, faults the context with INVALID. -/
def execReservedOpcode (tile : Nat) (s : State) : Host.Outcome State Fault Refusal :=
  guardUnit (tileOk tile) <|
    let t := s.tile tile
    match t.running with
    | none => s
    | some r =>
      if t.blocked = .miss ∨ t.blocked = .ended ∨ t.blocked = .faulted then s
      else
        match t.prog[t.pc / 8]? with
        | none => s.seqFault tile (s.runOf r) 0x0B (s.runOf r).h.codeLen
        | some w => if (decodeSeq w).isNone then s.seqFault tile (s.runOf r) 0x0B t.pc else s

/-- The head of a queue waits on a token it does not have (R67, R69). -/
def Tile.headWaits (t : Tile) (q : List QDesc) : Bool :=
  match q with
  | [] => true
  | d :: _ => !d.started && tailWaitEn d.bytes && decide (t.tok (tailWaitTok d.bytes) < tailWaitCnt d.bytes)

/-- The sequencer waits in WAIT for a token it does not have. -/
def State.waitsForToken (s : State) (tile : Nat) : Bool :=
  match s.nextInstr tile with
  | some (_, i) => (s.tile tile).blocked == .wait && i.op == 0x52 && decide ((s.tile tile).tok i.tok < i.cnt)
  | none => false

/-- The sequencer is stalled on an ISSUE to a queue that is still full, waits in a FENCE for which no write awaits remote
completion, or waits after END (R69). -/
def State.stuck (s : State) (tile : Nat) : Bool :=
  let t := s.tile tile
  match s.nextInstr tile with
  | some (_, i) =>
    (t.blocked == .issue && i.op == 0x50 && decide (16 ≤ (t.queue i.func).length)) ||
      (t.blocked == .fence && i.op == 0x53 && (i.func == 0 || (s.remoteQuiet t && t.behind == 0)))
  | none => t.blocked == .ended

/-- The condition of R69. -/
def State.deadlocked (s : State) (tile : Nat) : Bool :=
  let t := s.tile tile
  let qs := t.queues.map Prod.snd
  t.running.isSome && qs.all t.headWaits && t.flights.isEmpty &&
    (s.waitsForToken tile || (s.stuck tile && qs.any (fun q => !q.isEmpty)))

/-- TILE_DEADLOCK (R69): a tile in which no token can ever be signalled faults its context. -/
def execTileDeadlock (tile : Nat) (s : State) : Host.Outcome State Fault Refusal :=
  guardUnit (tileOk tile) <|
    match (s.tile tile).running with
    | none => s
    | some r =>
      if s.deadlocked tile then
        let run := s.runOf r
        ((s.bump C.TILE_DEADLOCK_CNT (groupOf tile)).raiseTo E.TILE_deadlock [run.x.deckle] (groupOf tile)).seqFault
          tile run 0x0B (s.tile tile).pc
      else s

end Sys2Proof.Machine
end

