-- ==== Sys2Proof/Machine/Engines.lean ====
section
/-! DEFINITION. Descriptors on their engines (R65-R69), the matrix engine (R70-R75, R108-R110) and the vector engine
(R76-R79, R111-R113). -/

namespace Sys2Proof.Machine

/-! The life of a descriptor. -/

/-- One descriptor of a queue changed. -/
def Tile.modDesc (t : Tile) (k i : Nat) (f : QDesc → QDesc) : Tile := t.setQueue k ((t.queue k).modify i f)

/-- DESCRIPTOR_START (R67): a descriptor whose token count is met consumes it and starts, once no waiter on the token that is served
before its queue can be satisfied. After a refused DMA burst no later descriptor of the sheet starts its bursts (R83). -/
def execDescriptorStart (tile queue : Nat) (s : State) : Host.Outcome State Fault Refusal :=
  guardUnit (tileOk tile && decide (queue < 10)) <|
    let t := s.tile tile
    match t.running, t.nextDesc queue with
    | some _, some (i, d) =>
      let tok := tailWaitTok d.bytes
      if tailWaitEn d.bytes ∧ (t.tok tok < tailWaitCnt d.bytes ∨ t.servesBefore tok queue = true) then s
      else
        let t1 := if tailWaitEn d.bytes then t.setTok tok (t.tok tok - tailWaitCnt d.bytes) else t
        s.setTile tile (t1.modDesc queue i fun d => { d with started := true })
    | _, _ => s

/-- DESCRIPTOR_COMPLETE (R67, R68): the head of a queue has done its work, its writes in place: it leaves the queue and signals. -/
def execDescriptorComplete (tile queue : Nat) (s : State) : Host.Outcome State Fault Refusal :=
  guardUnit (tileOk tile && decide (queue < 10)) <|
    let t := s.tile tile
    match t.running, t.queue queue with
    | some r, d :: rest =>
      if !d.acted ∨ !d.bursts.isEmpty ∨ d.flying ≠ 0 ∨ d.waiting then s
      else
        let s0 := s.land tile queue
        let s1 := s0.setTile tile ((s0.tile tile).setQueue queue rest)
        if tailSigEn d.bytes then s1.signal tile (s.runOf r) (tailSigTok d.bytes) d.off id else s1
    | _, _ => s

/-- A row of the matrix or vector engine: acts on a started head descriptor that has not acted, on the scratchpad as it finds it
(R121) and with what the access finds there (R61). What it writes is not all in place at once: `f` gives the state as the engine sees
it, and the units it has listed then come into place or not. -/
def engineRow (queue tile : Nat) (ecc : StoreEcc) (s : State) (p : QDesc → Bool) (f : QDesc → State → State) :
    Host.Outcome State Fault Refusal :=
  guardUnit (tileOk tile) <|
    match (s.tile tile).running, (s.tile tile).queue queue with
    | some _, d :: _ =>
      if d.started && !d.acted && p d then
        (s.blur tile).withEcc tile ecc fun s => ({ f d s with spad := s.spad }).blur tile
      else s
    | _, _ => s

/-! Reading operands. -/

/-- Elements of a format read from scratchpad with nan_in where one is NaN (R106, R114). -/
def readNums (fmt : Nat) (bytes : List Byte) (n : Nat) : Flagged (List Num) :=
  let el := (elemOf fmt).getD .fp32
  let xs := (unpackBits el.width n bytes).map el.decode
  (xs, Flags.when (xs.any Num.isNan) Flags.nanIn)

/-- An MX element under its block scale (R108, R111): a scale of 0xFF reads as NaN, an element that is an infinity included (DESIGN
CHOICE, log 103). -/
def Num.scaled (x : Num) (scale : Nat) : Num :=
  if scale = 0xFF then .nan
  else
    match x with
    | .fin n m e => .fin n m (e + Int.ofNat scale - 127)
    | y => y

/-- Elements and their scales, `scale i` the scale byte of element i. -/
def scaleNums (xs : Flagged (List Num)) (scale : Nat → Nat) : Flagged (List Num) :=
  let ys := xs.1.zipIdx.map fun p => p.1.scaled (scale p.2)
  (ys, xs.2 ||| Flags.when (ys.any Num.isNan) Flags.nanIn)

/-! The matrix engine. -/

/-- The exact sum of a list, in order; an empty sum is +0. -/
def sumExact : List (Flagged Num) → Flagged Num
  | [] => (.fin false 0 0, 0)
  | x :: r => r.foldl (fun a y => let z := a.1.add y.1; (z.1, a.2 ||| y.2 ||| z.2)) x

/-- One group added to an FP32 accumulator with a single rounding to nearest even (R108). The rounding raises no
underflow (R114); opposite infinities in the group raise invalid, whatever else is in it (R110). -/
def accGroup (acc : Flagged Num) (prods : List (Flagged Num)) : Flagged Num :=
  let g := sumExact prods
  let z := acc.1.add g.1
  let r := Elem.fp32.convert 0 0 z.1
  let opposite := prods.any (·.1 == .inf true) && prods.any (·.1 == .inf false)
  (r.1, acc.2 ||| g.2 ||| z.2 ||| Flags.when opposite Flags.invalid ||| (r.2 &&& ~~~Flags.underflow))

/-- One group added to an INT32 accumulator with saturation (R109). -/
def accGroupInt (acc : Flagged Int) (prods : List Int) : Flagged Int :=
  let v := acc.1 + prods.foldl (· + ·) 0
  if v > 2 ^ 31 - 1 then (2 ^ 31 - 1, acc.2 ||| Flags.intSat)
  else if v < -(2 ^ 31) then (-(2 ^ 31), acc.2 ||| Flags.intSat)
  else (v, acc.2)

def numInt : Num → Int
  | .fin n m e => (if n then -1 else 1) * Int.ofNat (m * 2 ^ e.toNat)
  | _ => 0

/-- An operand of a matrix descriptor: k groups of 16 elements, scaled for MX (R73). -/
def State.matrixOperand (s : State) (tile fmt addr saddr k : Nat) : Flagged (List Num) :=
  let raw := readNums fmt (s.spadRead tile addr (packedBytes (fmtWidth fmt) 16 * k)) (16 * k)
  if isMx fmt then
    let sc := (s.spadRead tile saddr (k / 32 * 16)).map BitVec.toNat
    scaleNums raw fun i => sc.getD (i / 16 / 32 * 16 + i % 16) 0
  else raw

/-- The new word of accumulator element (i, j) (R108-R110). -/
def accElement (isInt : Bool) (group k : Nat) (a b : List Num) (old : BitVec 32) (i j : Nat) : Flagged (BitVec 32) :=
  let at_ (xs : List Num) (p e : Nat) : Num := xs.getD (16 * p + e) (.fin false 0 0)
  let groups := (List.range (k / group)).map fun g => (List.range group).map fun p => g * group + p
  if isInt then
    let r := groups.foldl (fun acc ps => accGroupInt acc (ps.map fun p => numInt (at_ a p i) * numInt (at_ b p j)))
      (toSigned 32 old.toNat, 0)
    (BitVec.ofInt 32 r.1, r.2)
  else
    let r := groups.foldl (fun acc ps => accGroup acc (ps.map fun p => (at_ a p i).mul (at_ b p j)))
      (Elem.fp32.decode old.toNat, 0)
    (BitVec.ofNat 32 (Elem.fp32.encode r.1), r.2)

/-- The 256 words of an accumulator set after a multiply. With nomul = 1 and init = 1, of which no rule says anything, the set is
cleared and zeros are written (DESIGN CHOICE, log 102). -/
def State.multiply (s : State) (tile : Nat) (m : MatrixDesc) (isInt : Bool) : Flagged (List (BitVec 32)) :=
  let t := s.tile tile
  let old (n : Nat) : BitVec 32 := if m.init then 0 else t.acc.get (fun _ => 0) (256 * m.acc + n)
  if m.nomul then ((List.range 256).map old, 0)
  else
    let a := s.matrixOperand tile m.aFmt m.a m.sa m.k
    let b := s.matrixOperand tile m.bFmt m.b m.sb m.k
    let group := if isMx m.aFmt || isMx m.bFmt then 32 else 16
    let r := Flagged.all ((List.range 256).map fun n => accElement isInt group m.k a.1 b.1 (old n) (n / 16) (n % 16))
    (r.1, a.2 ||| b.2 ||| r.2)

/-- Rows of values written to scratchpad in order, drawing from a stream (R104): row i at addr + i * stride. A write that is itself
exact raises no underflow, whatever earlier rounding its value has seen (DESIGN CHOICE, log 103). -/
def State.putRows (s : State) (tile : Nat) (el : Elem) (mode : Nat) (draws : Bool) (addr stride : Nat) :
    List (List Num) → Stream → Flags → State × Stream × Flags
  | [], st, fl => (s, st, fl)
  | row :: rest, st, fl =>
    let p := putAll el mode draws row st
    (s.engineWrite tile 0 addr (packBits el.width p.1.1)).putRows tile el mode draws (addr + stride) stride rest p.2 (fl ||| p.1.2)

def rowsOf (n : Nat) : Nat → List Num → List (List Num)
  | 0, _ => []
  | k + 1, l => l.take n :: rowsOf n k (l.drop n)

/-- MATRIX_MULTIPLY (R70-R75, R108-R110): the matrix engine executes the descriptor at its head: multiply, then write
back where wb is set. -/
def execMatrixMultiply (tile : Nat) (ecc : StoreEcc) (s : State) : Host.Outcome State Fault Refusal :=
  engineRow 0 tile ecc s (fun _ => true) fun d s =>
    let t := s.tile tile
    let m := matrixDesc d.bytes
    let isInt := ((matrixPair m.aFmt m.bFmt).map Prod.fst).getD false
    let r := s.multiply tile m isInt
    let acc := r.1.zipIdx.foldl (fun a p => a.set (fun _ => 0) (256 * m.acc + p.2) p.1) t.acc
    let src := if isInt then Elem.int32 else Elem.fp32
    let rows := rowsOf 16 16 (r.1.map fun w => src.decode w.toNat)
    let out := (elemOf m.outFmt).getD .fp32
    let w := if m.wb then s.putRows tile out m.rnd (m.rnd == 2 && !isInt) m.out m.stride rows t.sm r.2
      else (s, t.sm, r.2)
    w.1.setTile tile { (w.1.tile tile).modDesc 0 0 (fun d => { d with acted := true }) with acc, sm := w.2.1, flags := t.flags ||| w.2.2 }

/-! The vector engine. -/

/-- One row of an operand: its element bits and values. -/
def State.vecRow (s : State) (tile fmt addr n : Nat) : Flagged (List (Nat × Num)) :=
  let el := (elemOf fmt).getD .fp32
  let xs := (unpackBits el.width n (s.spadRead tile addr (packedBytes el.width n))).map fun b => (b, el.decode b)
  (xs, Flags.when (xs.any fun p => p.2.isNan) Flags.nanIn)

/-- The exact result of an elementwise operation on values (R77, R97, R113); transcendental results are those of the
compute format. -/
def vecElem (op fmt : Nat) (a b c : Nat × Num) (imm : Num) : Flagged Num :=
  if op = 0x01 then a.2.add b.2
  else if op = 0x02 then a.2.add b.2.neg
  else if op = 0x03 then a.2.mul b.2
  else if op = 0x04 then
    if a.2.isNan || b.2.isNan || c.2.isNan then (.nan, 0)
    else (a.2.mul b.2).bind fun p => p.add c.2
  else if op = 0x05 then (a.2.max b.2, 0)
  else if op = 0x06 then (a.2.min b.2, 0)
  else if op = 0x07 then (a.2.abs, 0)
  else if op = 0x08 then (a.2.neg, 0)
  else if op = 0x09 then a.2.mul imm
  else if op = 0x20 then (a.2, 0)
  else transcend op fmt a.1 a.2

/-- One level of the summing tree (R78): neighbours paired, an odd last value carried up. -/
def sumLevel (el : Elem) : List Num → Flagged (List Num)
  | x :: y :: r =>
    let z := x.add y
    let v := el.convert 0 0 z.1
    let t := sumLevel el r
    (v.1 :: t.1, z.2 ||| (v.2 &&& ~~~Flags.underflow) ||| t.2)
  | l => (l, 0)

/-- The tree over one group, `fuel` levels. -/
def sumTree (el : Elem) : Nat → List Num → Flagged Num
  | 0, l => (l.headD (.fin false 0 0), 0)
  | fuel + 1, l => if l.length ≤ 1 then (l.headD (.fin false 0 0), 0) else (sumLevel el l).bind (sumTree el fuel)

/-- RSUM over a row (R78): groups of 32 or 64 by the tree, group sums added in ascending order. -/
def rowSum (bf : Bool) (row : List Num) : Flagged Num :=
  let el := if bf then Elem.bf16 else Elem.fp32
  let n := if bf then 64 else 32
  let gs := (rowsOf n (ceilDiv row.length n) row).map (sumTree el 7)
  let z := match gs with
    | [] => (.fin false 0 0, 0)
    | g :: r => r.foldl (fun a y =>
        let z := a.1.add y.1
        let v := el.convert 0 0 z.1
        (v.1, a.2 ||| y.2 ||| z.2 ||| (v.2 &&& ~~~Flags.underflow))) g
  -- a NaN operand takes precedence over the special cases of R113; an addition that overflows still raises overflow (R116)
  if row.any Num.isNan then (.nan, z.2 &&& ~~~Flags.invalid) else z

/-- Maximum or minimum over a row. -/
def rowPick (f : Num → Num → Num) : List Num → Num
  | [] => .fin false 0 0
  | x :: r => r.foldl f x

def emaxOf (fmt : Nat) : Int :=
  if fmt = 0x8 then 8 else if fmt = 0x9 then 15 else if fmt = 0xA then 4 else if fmt = 0xB then 2
  else if fmt = 0xC then 2 else 0

/-- Magnitude order of finite values, for amax. -/
def largestMag (xs : List Num) : Nat × Int :=
  xs.foldl (fun a x => match x with | .fin _ m e => if magGt m e a.1 a.2 then (m, e) else a | _ => a) (0, 0)

/-- The scale byte of a block by QMX's rule with an emax (R111): the byte and whether it was clamped. -/
def scaleByte (emax : Int) (xs : List Num) : Nat × Bool :=
  let m := largestMag xs
  if m.1 = 0 then (0, false)
  else
    let e := Int.ofNat m.1.log2 + m.2 - emax
    let c := max (-127) (min 127 e)
    ((c + 127).toNat, c != e)

/-- A value clamped into an MX element, flags of the rounding kept but not those of the clamp (R105, R111). -/
def mxPut (el : Elem) (mode draw : Nat) (x : Num) : Flagged Nat :=
  let r := el.put mode draw x
  (r.1, r.2 &&& Flags.underflow)

def mxPutAll (el : Elem) (mode : Nat) (draws : Bool) : List Num → Stream → Flagged (List Nat) × Stream
  | [], st => (([], 0), st)
  | x :: r, st =>
    let p := if draws then st.draw else (0, st)
    let b := mxPut el mode p.1 x
    let t := mxPutAll el mode draws r p.2
    ((b.1 :: t.1.1, b.2 ||| t.1.2), t.2)

/-- One block of 32 quantised (R111): the scale byte and the element bits. -/
def qmxBlock (fmt mode : Nat) (xs : List Num) (st : Stream) : Flagged (Nat × List Nat) × Stream :=
  let el := (elemOf fmt).getD .e4m3
  let bad := xs.any fun x => match x with | .fin .. => false | _ => true
  let draws := mode == 2
  if bad then
    let z := mxPutAll el mode draws (xs.map fun _ => Num.fin false 0 0) st
    (((0xFF, z.1.1), Flags.when (xs.any fun x => match x with | .inf _ => true | _ => false) Flags.invalid), z.2)
  else
    let sc := scaleByte (emaxOf fmt) xs
    let zero := (largestMag xs).1 == 0
    let ys := xs.map fun x => match x with | .fin n m e => Num.fin n m (e + 127 - Int.ofNat sc.1) | y => y
    let z := mxPutAll el mode draws (if zero then xs else ys) st
    (((sc.1, z.1.1), z.1.2 ||| Flags.when sc.2 Flags.scaleClamp), z.2)

/-- A row quantised block by block. -/
def qmxRow (fmt mode : Nat) : Nat → List Num → Stream → Flagged (List Nat × List Nat) × Stream
  | 0, _, st => ((([], []), 0), st)
  | n + 1, xs, st =>
    let b := qmxBlock fmt mode (xs.take 32) st
    let r := qmxRow fmt mode n (xs.drop 32) b.2
    (((b.1.1.1 :: r.1.1.1, b.1.1.2 ++ r.1.1.2), b.1.2 ||| r.1.2), r.2)

/-- The engine on one row: scratchpad, stream and flags after it (R76-R79). A row is read whole before it is written. -/
def State.vecStep (s : State) (tile : Nat) (v : VectorDesc) (i : Nat) (st : Stream) (fl : Flags) : State × Stream × Flags :=
  let bf := v.inFmt == 1
  let a := s.vecRow tile v.inFmt (v.a + i * v.as) v.cols
  let out := (elemOf v.outFmt).getD .fp32
  let da := v.d + i * v.ds
  let draws := v.rnd == 2 && !(v.op == 0x20 && (v.inFmt == 5 || v.inFmt == 6) && (v.outFmt == 5 || v.outFmt == 6))
  if v.op = 0x21 then
    let r := qmxRow v.outFmt v.rnd (v.cols / 32) (a.1.map Prod.snd) st
    let s1 := s.engineWrite tile 1 da (packBits out.width r.1.1.2)
    (s1.engineWrite tile 1 (v.c + i * v.cs) (r.1.1.1.map (BitVec.ofNat 8)), r.2, fl ||| a.2 ||| r.1.2)
  else if v.op = 0x22 then
    let sc := (s.spadRead tile (v.c + i * v.cs) (v.cols / 32)).map BitVec.toNat
    let xs := scaleNums (a.1.map Prod.snd, a.2) fun e => sc.getD (e / 32) 0
    let p := putAll out v.rnd draws xs.1 st
    (s.engineWrite tile 1 da (packBits out.width p.1.1), p.2, fl ||| xs.2 ||| p.1.2)
  else if isReduce v.op then
    let row := a.1.map Prod.snd
    let x := if v.op = 0x30 then rowSum bf row else (rowPick (if v.op = 0x31 then Num.max else Num.min) row, 0)
    let p := putAll out v.rnd draws [x.1] st
    (s.engineWrite tile 1 da (packBits out.width p.1.1), p.2, fl ||| a.2 ||| x.2 ||| p.1.2)
  else
    let uses := (vectorUses v.op).getD (false, false, false)
    let b := if uses.1 then s.vecRow tile v.inFmt (v.b + (if v.bcast then 0 else i * v.bs)) v.cols else ([], 0)
    let c := if uses.2.1 then s.vecRow tile v.inFmt (v.c + i * v.cs) v.cols else ([], 0)
    let imm := Elem.fp32.decode v.imm
    let zero : Nat × Num := (0, .fin false 0 0)
    let r := Flagged.all (a.1.zipIdx.map fun p => vecElem v.op v.inFmt p.1 (b.1.getD p.2 zero) (c.1.getD p.2 zero) imm)
    let p := putAll out v.rnd draws r.1 st
    (s.engineWrite tile 1 da (packBits out.width p.1.1), p.2,
      fl ||| a.2 ||| b.2 ||| c.2 ||| Flags.when (uses.2.2 && imm.isNan) Flags.nanIn ||| r.2 ||| p.1.2)

/-- Rows i, i + 1, ... of a descriptor. -/
def State.vecRows (tile : Nat) (v : VectorDesc) : Nat → Nat → State × Stream × Flags → State × Stream × Flags
  | 0, _, w => w
  | n + 1, i, w => State.vecRows tile v n (i + 1) (w.1.vecStep tile v i w.2.1 w.2.2)

/-- The vector engine executes the descriptor at its head when it is of the row's operation (R76-R79). -/
def vectorRow (op tile : Nat) (ecc : StoreEcc) (s : State) : Host.Outcome State Fault Refusal :=
  engineRow 1 tile ecc s (fun d => (vectorDesc d.bytes).op == op) fun d s =>
    let t := s.tile tile
    let v := vectorDesc d.bytes
    let w := State.vecRows tile v v.rows 0 (s, t.sv, 0)
    w.1.setTile tile { (w.1.tile tile).modDesc 1 0 (fun d => { d with acted := true }) with sv := w.2.1, flags := t.flags ||| w.2.2 }

/-- VEC_ADD: d := a + b (R77). -/
def execVecAdd (tile : Nat) (ecc : StoreEcc) (s : State) : Host.Outcome State Fault Refusal := vectorRow 0x01 tile ecc s

/-- VEC_SUB: d := a - b (R77). -/
def execVecSub (tile : Nat) (ecc : StoreEcc) (s : State) : Host.Outcome State Fault Refusal := vectorRow 0x02 tile ecc s

/-- VEC_MUL: d := a * b (R77). -/
def execVecMul (tile : Nat) (ecc : StoreEcc) (s : State) : Host.Outcome State Fault Refusal := vectorRow 0x03 tile ecc s

/-- VEC_FMA: d := a * b + c with one rounding (R77). -/
def execVecFma (tile : Nat) (ecc : StoreEcc) (s : State) : Host.Outcome State Fault Refusal := vectorRow 0x04 tile ecc s

/-- VEC_MAX (R77). -/
def execVecMax (tile : Nat) (ecc : StoreEcc) (s : State) : Host.Outcome State Fault Refusal := vectorRow 0x05 tile ecc s

/-- VEC_MIN (R77). -/
def execVecMin (tile : Nat) (ecc : StoreEcc) (s : State) : Host.Outcome State Fault Refusal := vectorRow 0x06 tile ecc s

/-- ABS (R77). -/
def execAbs (tile : Nat) (ecc : StoreEcc) (s : State) : Host.Outcome State Fault Refusal := vectorRow 0x07 tile ecc s

/-- NEG (R77). -/
def execNeg (tile : Nat) (ecc : StoreEcc) (s : State) : Host.Outcome State Fault Refusal := vectorRow 0x08 tile ecc s

/-- SCALE: d := a * imm (R77). -/
def execScale (tile : Nat) (ecc : StoreEcc) (s : State) : Host.Outcome State Fault Refusal := vectorRow 0x09 tile ecc s

/-- EXP2 (R77). -/
def execExp2 (tile : Nat) (ecc : StoreEcc) (s : State) : Host.Outcome State Fault Refusal := vectorRow 0x10 tile ecc s

/-- LOG2 (R77). -/
def execLog2 (tile : Nat) (ecc : StoreEcc) (s : State) : Host.Outcome State Fault Refusal := vectorRow 0x11 tile ecc s

/-- RECIP (R77). -/
def execRecip (tile : Nat) (ecc : StoreEcc) (s : State) : Host.Outcome State Fault Refusal := vectorRow 0x12 tile ecc s

/-- RSQRT (R77). -/
def execRsqrt (tile : Nat) (ecc : StoreEcc) (s : State) : Host.Outcome State Fault Refusal := vectorRow 0x13 tile ecc s

/-- SQRT (R77). -/
def execVecSqrt (tile : Nat) (ecc : StoreEcc) (s : State) : Host.Outcome State Fault Refusal := vectorRow 0x14 tile ecc s

/-- CVT (R77). -/
def execCvt (tile : Nat) (ecc : StoreEcc) (s : State) : Host.Outcome State Fault Refusal := vectorRow 0x20 tile ecc s

/-- QMX (R77). -/
def execQmx (tile : Nat) (ecc : StoreEcc) (s : State) : Host.Outcome State Fault Refusal := vectorRow 0x21 tile ecc s

/-- DQMX (R77). -/
def execDqmx (tile : Nat) (ecc : StoreEcc) (s : State) : Host.Outcome State Fault Refusal := vectorRow 0x22 tile ecc s

/-- RSUM (R77). -/
def execRsum (tile : Nat) (ecc : StoreEcc) (s : State) : Host.Outcome State Fault Refusal := vectorRow 0x30 tile ecc s

/-- RMAX (R77). -/
def execRmax (tile : Nat) (ecc : StoreEcc) (s : State) : Host.Outcome State Fault Refusal := vectorRow 0x31 tile ecc s

/-- RMIN (R77). -/
def execRmin (tile : Nat) (ecc : StoreEcc) (s : State) : Host.Outcome State Fault Refusal := vectorRow 0x32 tile ecc s

end Sys2Proof.Machine
end

