-- ==== Sys2Proof/Machine/Dma.lean ====
section
/-! DEFINITION. The DMA engine (R80-R83, R509): bursts cut, checked and issued in queue rotation, and their effect at
the homes of their destinations (R118, R121, R126-R130). -/

namespace Sys2Proof.Machine

/-- The first descriptor of a queue that satisfies a test. -/
def Tile.findDesc (t : Tile) (k : Nat) (p : QDesc → Bool) : Option (Nat × QDesc) :=
  match (t.queue k).findIdx? p with
  | none => none
  | some i => ((t.queue k)[i]?).map fun d => (i, d)

/-- The physical tile a virtual tile of a context is bound to (R173). -/
def Ctx.tileOf (x : Ctx) (v : Nat) : Option Nat := (x.bind.find? fun b => b.1 == v).map Prod.snd

/-- DMA_TRANSFER (R82): a started DMA descriptor outside space 0x3 is cut into bursts. After a refused burst no later
descriptor of the sheet starts its bursts (R83). -/
def execDmaTransfer (tile queue : Nat) (s : State) : Host.Outcome State Fault Refusal :=
  guardUnit (tileOk tile && decide (2 ≤ queue ∧ queue < 10)) <|
    let t := s.tile tile
    match t.running, t.findDesc queue (fun d => d.started && !d.acted && !(dmaDesc d.bytes).isChest) with
    | some _, some (i, d) =>
      if t.dmaStop then s
      else s.setTile tile (t.modDesc queue i fun x => { x with acted := true, bursts := dmaBursts (dmaDesc d.bytes) })
    | _, _ => s

/-! Checks of a burst before it is issued (R48, R59, R83, R179). -/

/-- What stops one side of a burst. -/
inductive BurstCheck
  | ok
  | confine (space addr : Nat)
  | limit (addr : Nat)
  | noTile (addr : Nat)
  | arena (addr : Nat)
deriving DecidableEq, Repr

/-- One side of a burst: the tile's own scratchpad is checked against its limit (R59), every other range against the
sheet's references (R48), another tile's scratchpad against that tile's limit, and a virtual tile without a tile faults
(R179); the chest arena is out of reach (R137). -/
def State.checkSide (s : State) (tile : Nat) (r : Run) (write : Bool) (space sel addr n : Nat) : BurstCheck :=
  if space = 1 ∧ sel = r.h.vtile then
    if (s.tile tile).limit < addr + n then .limit (max addr (s.tile tile).limit) else .ok
  else if !r.allowed write space (if space = 1 ∨ space = 2 then sel else 0) addr n then .confine space addr
  else if space = 1 then
    match r.x.tileOf sel with
    | none => .noTile addr
    | some o => if (s.tile o).limit < addr + n then .limit (max addr (s.tile o).limit) else .ok
  else if space = 0 ∧ s.inArena r.x.deckle addr n then .arena (max addr (s.arenaBase r.x.deckle))
  else .ok

/-- The check of a burst, its source first; of two scratchpad sides that reach refused addresses the lowest is named (R59). -/
def State.checkBurst (s : State) (tile : Nat) (r : Run) (b : Burst) : BurstCheck :=
  let src := if b.fill.isSome then BurstCheck.ok else s.checkSide tile r false b.src b.ssel b.saddr b.size
  match src, s.checkSide tile r true b.dst b.dsel b.daddr b.size with
  | .ok, c => c
  | .limit x, .limit y => .limit (min x y)
  | c, _ => c

/-- A refused burst: no later burst of the descriptor or descriptor of the sheet goes on, and the context faults. -/
def State.refuseBurst (s : State) (tile : Nat) (r : Run) : BurstCheck → State
  | .ok => s
  | .confine sp a => s.confineFault tile r sp a
  | .limit a => s.accessFault tile r 0x0B 1 a
  | .noTile a => s.accessFault tile r 0x05 1 a
  | .arena a => s.accessFault tile r 0x0B 0 a

/-- Queues in the order the rotation visits them after queue `last`. -/
def rotation (last : Nat) : List Nat := (List.range 8).map fun i => 2 + (last + i + 1 - 2) % 8

/-- The next burst in rotation: its queue, descriptor index and descriptor (R509). -/
def Tile.nextBurst (t : Tile) : Option (Nat × Nat × QDesc) :=
  (rotation (if t.rotor < 2 then 9 else t.rotor)).findSome? fun k =>
    (t.findDesc k fun d => !d.bursts.isEmpty && !(dmaDesc d.bytes).isChest).map fun p => (k, p.1, p.2)

/-- The handle at the peer that an access to a range carries: rctx of the reference that covers it (R83, R249); of several, the first
(DESIGN CHOICE, log 102). -/
def Run.rctxOf (r : Run) (sel addr n : Nat) : Nat :=
  match r.h.refs.find? fun x => (r.ream.range x).covers 2 sel addr n with
  | some x => (r.ream.region x.region).rctx
  | none => 0

/-- A read asked of a peer (R249): the READ_REQ packet and the record that waits for its answer. -/
def State.askPeer (s : State) (tile : Nat) (r : Run) (id : Nat) (b : Burst) : State :=
  let iod := s.injectDie tile
  let tag := (s.router iod).nextTag % 2 ^ 16
  let p := { Pkt.blank b.vc b.ssel opReadReq with
    addr := b.saddr, aux := b.size, tag, seq := r.seq, ctx := r.rctxOf b.ssel b.saddr b.size }
  match s.post iod p with
  | (s1, none) => s1.accessFault tile r 0x12 2 b.saddr
  | (s1, some _) => s1.modRouter iod fun q =>
      { q with nextTag := q.nextTag + 1, reads := q.reads ++ [⟨tag, b.ssel, tile, id, [], b.size⟩] }

/-- The tiles whose scratchpad a burst reads. -/
def Burst.readsTile (tile : Nat) (r : Run) (b : Burst) : Option Nat :=
  if b.src = 1 ∧ b.fill.isNone then (if b.ssel = r.h.vtile then some tile else r.x.tileOf b.ssel) else none

/-- DMA_BURST_ISSUE (R509): the next burst in rotation is checked and issued when one of the 64 slots is free. What its read of a
scratchpad finds (R61) is found here. A refused burst stops every burst of the sheet not yet issued (R83, R48): those of earlier
descriptors too (DESIGN CHOICE, log 102). -/
def execDmaBurstIssue (tile : Nat) (ecc : StoreEcc) (s : State) : Host.Outcome State Fault Refusal :=
  guardUnit (tileOk tile) <|
    let t := s.tile tile
    match t.running, t.nextBurst with
    | some rr, some (k, i, d) =>
      if t.dmaStop ∨ 64 ≤ t.flights.length then s
      else
        let r := s.runOf rr
        match d.bursts with
        | [] => s
        | b :: rest =>
          match s.checkBurst tile r b with
          | .ok =>
            let t1 := t.modDesc k i fun x => { x with bursts := rest, flying := x.flying + 1 }
            let s1 := s.setTile tile { t1 with
              rotor := k, flightId := t.flightId + 1, flights := t.flights ++ [⟨t.flightId, k, b⟩] }
            let s2 := if b.src = 2 ∧ b.fill.isNone then s1.askPeer tile r t.flightId b else s1
            match b.readsTile tile r with
            | some o => s2.withEcc o ecc id
            | none => s2
          | c => s.refuseBurst tile r c
    | _, _ => s

/-! The effect of a burst. -/

/-- A fill pattern repeated every 8 bytes from the burst's first byte (R80). -/
def fillBytes (w : Word) (n : Nat) : List Byte :=
  (List.range n).map fun i => (leBytes 8 w.toNat).getD (i % 8) 0

/-- What a burst's source gives: its data, a refusal with status, space and address, or nothing yet. -/
inductive BurstData
  | data (d : List Byte)
  | bad (status space addr : Nat)
  | notYet
deriving DecidableEq, Repr

/-- The parts of a peer's answer, joined when all of it has come. -/
def ReadOut.joined (r : ReadOut) : Option (List Byte) :=
  let all := ((r.parts.mergeSort fun a b => decide (a.1 ≤ b.1)).map Prod.snd).flatten
  if all.length = r.bytes then some all else none

/-- The scratchpads a burst reaches, their writes in progress settled as the burst finds them (R121). -/
def State.blurBurst (s : State) (tile : Nat) (r : Run) (b : Burst) : State :=
  let at_ (sel : Nat) : List Nat := if sel = r.h.vtile then [tile] else (r.x.tileOf sel).toList
  let ts := (if b.src = 1 ∧ b.fill.isNone then at_ b.ssel else []) ++ (if b.dst = 1 then at_ b.dsel else [])
  s.each ts.eraseDups fun s o => s.blur o

/-- Two ranges of bytes meet. -/
def meet (a n b m : Nat) : Bool := decide (a < b + m ∧ b < a + n)

/-- A burst must keep behind an earlier one of its tile (R117, R119, R133): they touch one byte and one of them writes it, or both
write to one endpoint on one channel. -/
def Burst.behind (f g : Burst) : Bool :=
  let rw (x y : Burst) : Bool := y.fill.isNone && y.src == x.dst && y.ssel == x.dsel && meet y.saddr y.size x.daddr x.size
  (f.dst == g.dst && f.dsel == g.dsel && (if f.dst == 2 then f.vc == g.vc else meet f.daddr f.size g.daddr g.size)) ||
    rw f g || rw g f

/-- An earlier burst in flight that flight `f` must keep behind. -/
def Tile.aheadOf (t : Tile) (f : Flight) : Bool :=
  t.flights.any fun g => decide (g.id < f.id) && f.b.behind g.b

/-- The errors that a burst's read of local HBM finds (R204). -/
def State.burstErrors (s : State) (r : Run) (b : Burst) (errs : List (Nat × Nat)) : State :=
  if b.src = 0 ∧ b.fill.isNone then s.demandRead r.x.deckle b.saddr b.size errs else s

/-- The source of a burst. `ext` is what the host returned for a read of space 0x4 (log 7). -/
def State.burstData (s : State) (tile : Nat) (r : Run) (f : Flight) (ext : List Byte) : BurstData :=
  match f.b.fill with
  | some w => .data (fillBytes w f.b.size)
  | none =>
    if f.b.src = 0 then
      match s.localBad r.x.deckle f.b.saddr f.b.size with
      | some (st, a) => .bad st 0 a
      | none => .data (s.localRead r.x.deckle f.b.saddr f.b.size)
    else if f.b.src = 1 then
      if f.b.ssel = r.h.vtile then .data (s.spadRead tile f.b.saddr f.b.size)
      else
        match r.x.tileOf f.b.ssel with
        | none => .bad 0x05 1 f.b.saddr
        | some o => .data (s.spadRead o f.b.saddr f.b.size)
    else if f.b.src = 2 then
      match (s.router (s.injectDie tile)).reads.find? fun q => q.tile == tile && q.burst == f.id with
      | none => .notYet
      | some q => match q.joined with | some d => .data d | none => .notYet
    else .data ((ext ++ List.replicate f.b.size 0).take f.b.size)

/-- The descriptor of a queue that the queue's j-th burst in flight belongs to: descriptors start their bursts in
issue order, so the bursts in flight of each follow those of the one before (R83). -/
def ownerOf : List QDesc → Nat → Nat → Option Nat
  | [], _, _ => none
  | d :: r, j, i =>
    let n := if (dmaDesc d.bytes).isChest then 0 else d.flying
    if j < n then some i else ownerOf r (j - n) (i + 1)

/-- The place in its queue of the descriptor a burst in flight belongs to. -/
def Tile.ownerOf (t : Tile) (f : Flight) : Option Nat :=
  match (t.flights.filter fun g => g.queue == f.queue).findIdx? fun g => g.id == f.id with
  | none => none
  | some j => Machine.ownerOf (t.queue f.queue) j 0

/-- A burst written to a peer (R82, R83, R250): joined to its descriptor's waiting WRITE packet, or in one of its own,
which the tile then follows to its remote completion (R129). The sheet's own context handle, for which R248 and R249 name no field,
travels in `tag` (DESIGN CHOICE, log 102). -/
def State.writePeer (s : State) (tile : Nat) (r : Run) (f : Flight) (d : List Byte) : State :=
  let iod := s.injectDie tile
  let t := s.tile tile
  let prev := ((t.ownerOf f).bind fun i => (t.queue f.queue)[i]?).bind fun x => x.pkt
  match prev.bind fun q => s.coalesce iod f.b.dsel f.b.vc q f.b.daddr d f.b.flagged with
  | some s1 =>
    if f.b.flagged then
      s1.setTile tile { t with remote := t.remote.map fun w =>
        if w.iod == iod && w.dst == f.b.dsel && w.vc == f.b.vc && some w.seq == prev then { w with flagged := true } else w }
    else s1
  | none =>
    let p := { Pkt.blank f.b.vc f.b.dsel opWrite with
      flagged := f.b.flagged, addr := f.b.daddr, ctx := r.rctxOf f.b.dsel f.b.daddr f.b.size, seq := r.seq
      tag := s.handle r.c, payload := d }
    match s.post iod p with
    | (s1, none) => s1.accessFault tile r 0x12 2 f.b.daddr
    | (s1, some q) =>
      let t1 := s1.tile tile
      let t2 := match t1.ownerOf f with
        | some i => t1.modDesc f.queue i fun x => { x with pkt := some q }
        | none => t1
      s1.setTile tile { t2 with remote := t2.remote ++ [s1.follow iod f.b.dsel f.b.vc q f.b.flagged] }

/-- A burst placed at its destination. -/
def State.burstWrite (s : State) (tile : Nat) (r : Run) (f : Flight) (d : List Byte) : State :=
  if f.b.dst = 0 then s.localWrite r.x.deckle f.b.daddr d
  else if f.b.dst = 1 then
    if f.b.dsel = r.h.vtile then s.spadWrite tile f.b.daddr d
    else
      match r.x.tileOf f.b.dsel with
      | none => s.accessFault tile r 0x05 1 f.b.daddr
      | some o => s.spadWrite o f.b.daddr d
  else if f.b.dst = 2 then s.writePeer tile r f d
  else
    let t := s.tile tile
    (s.setTile tile { t with behind := t.behind + 1 }).emit (.hostWrite f.b.daddr d)

/-- A flight removed from its tile, its read record with it. -/
def State.landFlight (s : State) (tile : Nat) (f : Flight) : State :=
  let t := s.tile tile
  let t1 := match t.ownerOf f with
    | some i => t.modDesc f.queue i fun x => { x with flying := x.flying - 1 }
    | none => t
  let s1 := s.setTile tile { t1 with flights := t1.flights.filter fun g => g.id != f.id }
  if f.b.src = 2 ∧ f.b.fill.isNone then
    s1.modRouter (s.injectDie tile) fun q => { q with reads := q.reads.filter fun x => !(x.tile == tile && x.burst == f.id) }
  else s1

/-- The run whose burst lands on a tile: after a fence of the compute domain, with the context as it was before (R417). -/
def State.landingRun (s : State) (tile : Nat) (rr : Nat × Nat × Nat) : Run :=
  match s.rst.landing.find? fun l => l.1 == tile with
  | none => s.runOf rr
  | some (_, x) => ⟨rr.1, rr.2.1, rr.2.2, x, x.reamOf, x.reamOf.sheet rr.2.2⟩

/-- DMA_BURST_DONE (R509, R68): a burst's data has come and its write is locally complete. A source that cannot be read
faults the context with the status of R204 or R215. On a fenced tile a write already injected is placed and a read not
yet answered is discarded (R90). Source and destination are reached at this one instant (DESIGN CHOICE, log 104), never ahead
of an earlier burst that the order of issue puts before this one (R119, R133). -/
def execDmaBurstDone (tile burst : Nat) (data : List Byte) (errs : List (Nat × Nat)) (s : State) : Host.Outcome State Fault Refusal :=
  guardUnit (tileOk tile) <|
    let t := s.tile tile
    match t.flights.find? fun f => f.id == burst with
    | none => s
    | some f =>
      if t.aheadOf f then s
      else
      match (match t.running with | some r => some r | none => t.draining) with
      | none => s.landFlight tile f
      | some rr =>
        let r := s.landingRun tile rr
        let draining := t.running.isNone
        let s := (s.blurBurst tile r f.b).burstErrors r f.b errs
        match s.burstData tile r f data with
        | .notYet => if draining then s.landFlight tile f else s
        | .bad st sp a =>
          if draining then
            (s.when (sp == 0 && st == 0x0D) (·.countPoisons r.x.deckle f.b.saddr f.b.size)).landFlight tile f
          else (s.landFlight tile f).readFault tile r st sp f.b.saddr f.b.size a
        | .data d =>
          if draining ∧ f.b.src = 4 ∧ f.b.fill.isNone then s.landFlight tile f
          else (s.burstWrite tile r f d).landFlight tile f

end Sys2Proof.Machine
end

