-- ==== Sys2Proof/Machine/ChestCodec.lean ====
section
/-! DEFINITION. Chest block encodings (R141-R146) and summaries (R151, R152). -/

namespace Sys2Proof.Machine

def f32 (b : Nat) : Num := Elem.fp32.decode b

/-- The least FP32 value not below an exact value (rounding toward +infinity). -/
def Num.ceil32 : Num → Num
  | .nan => .nan
  | .inf n => .inf n
  | .fin n m e =>
    if m == 0 then .fin n 0 0
    else
      let q := Elem.fp32.quantum m e
      let r := roundMag 1 0 m e q
      let top := Elem.fp32.maxMag n
      let k := if r.2.2 && !n then r.1 + 1 else r.1
      if magGt k q top.1 top.2 then (if n then .fin n top.1 top.2 else .inf false) else .fin n k q

/-- A square root from above, to well beyond FP32's precision. -/
def Num.sqrtAbove : Num → Num
  | .fin _ m e =>
    let odd := e % 2 == 1
    let m' := (if odd then 2 * m else m) * 2 ^ 240
    let e' := (if odd then e - 1 else e) - 240
    let r := natSqrt m'
    .fin false (if r * r == m' then r else r + 1) (e' / 2)
  | x => x

/-- A free FP32 value from `lo` to `hi`: the constant's where it lies between them, the nearer of the two otherwise. -/
def between (lo hi : Num) (free : Nat) : Num :=
  let x := f32 (free % 2 ^ 32)
  if lo.isNan || x.isNan || x.lt lo then lo else if hi.lt x then hi else x

def Num.sub (a b : Num) : Num := (a.add b.neg).1
def sumNums (xs : List Num) : Num := xs.foldl (fun a x => (a.add x).1) (.fin false 0 0)
def Num.finite : Num → Bool
  | .fin .. => true
  | _ => false

/-- Two finite values are equal. -/
def Num.same (x y : Num) : Bool := !(x.lt y) && !(y.lt x)

/-- A value that FP32 holds. -/
def Num.inF32 (x : Num) : Bool := x.finite && !(x.lt x.ceil32)

/-- The place of the lowest 1 of a magnitude, from 2^`fuel` bits down. -/
def lowBit : Nat → Nat → Nat
  | 0, _ => 0
  | k + 1, m => if m % 2 ^ (2 ^ k) = 0 then 2 ^ k + lowBit k (m / 2 ^ (2 ^ k)) else lowBit k m

/-- Every FP32 sum of some of these values is exact, in whatever order they are added: together they take no more than 24 bits. -/
def exactSums (xs : List Num) : Bool :=
  let ps := xs.filterMap fun x => match x with
    | .fin _ m e => if m = 0 then none else some (m, e, e + Int.ofNat (lowBit 10 m))
    | _ => none
  let q : Int := ps.foldl (fun a p => min a p.2.2) 1000
  let total : Nat := ps.foldl (fun n p => n + (if q ≤ p.2.1 then p.1 * 2 ^ (p.2.1 - q).toNat else p.1 / 2 ^ (q - p.2.1).toNat)) 0
  xs.all Num.finite && (ps.isEmpty || decide (-149 ≤ q ∧ q ≤ 100 ∧ total ≤ 2 ^ 24))

/-- A magnitude with room for the roundings of several hundred FP32 operations added, tiny ones included; without limit where one of
them could leave the range of FP32. -/
def Num.slack (x : Num) : Num :=
  if (Num.fin false 1 126).lt x.abs then .inf false
  else ((x.abs.mul (.fin false 1 (-13))).1.add (.fin false 1 (-130))).1

/-! Geometry. -/

/-- Index of key element e of token t in the element order (R141). -/
def keyIndex (d t e : Nat) : Nat := t / 16 * (16 * d) + e * 16 + t % 16

/-- The group of 32 an element is in, in the order of the scales (R142, R73). -/
def Block.groupOf (b : Block) (i : Nat) : Nat := if b.kind = 0 then i / 512 * 16 + i % 16 else i / 32

/-- The elements of a group. -/
def Block.members (b : Block) (g : Nat) : List Nat :=
  (List.range 32).map fun k => if b.kind = 0 then g / 16 * 512 + k * 16 + g % 16 else g * 32 + k

/-- Format code (R71) of a stored encoding of plain elements, and of an exchange encoding. -/
def encFmt (enc : Nat) : Nat := if enc = 0 then 1 else if enc = 1 then 3 else 4
def xencFmt (xenc : Nat) : Nat := if xenc = 1 then 1 else if xenc = 2 then 3 else 0

/-- Bytes of the exchange form (R146). -/
def Block.exchange (b : Block) : Nat :=
  if b.xenc = 0 then b.units * 256 else if b.xenc = 1 then 2 * b.elems else if b.xenc = 2 then b.elems else 4 * b.elems

/-- The combinations of R146. -/
def encOk (kind enc xenc : Nat) : Bool :=
  if kind = 0 then
    (enc == 0 || enc == 1 || enc == 2) && (xenc == 0 || xenc == 1) || enc == 3 && (xenc == 0 || xenc == 1 || xenc == 2) ||
      enc == 4 && (xenc == 1 || xenc == 2)
  else decide (enc ≤ 3) && (xenc == 0 || xenc == 1 || xenc == 3) || enc == 4 && (xenc == 1 || xenc == 3)

def padUnits (d : List Byte) : List Byte := d ++ List.replicate (ceilDiv d.length 256 * 256 - d.length) 0

/-! Decoding (R142-R144). -/

/-- A signed 4-bit code; 0b1000 reads as 0 (R143). -/
def b4rCode (c : Nat) : Num := if c % 16 = 8 then .fin false 0 0 else
  let i := toSigned 4 c
  .fin (decide (i < 0)) i.natAbs 0

/-- The residual entries: element index and correction (R143). -/
def residuals (d : List Byte) : Nat → List (Nat × Num)
  | 0 => []
  | n + 1 => (fieldAt d 0 0 24, Elem.bf16.decode (fieldAt d 0 32 16)) :: residuals (d.drop 8) n

/-- The elements of stored bytes, each an FP32 value (R143, R144). -/
def Block.decodeData (b : Block) (data : List Byte) : List Num :=
  let n := b.elems
  if b.enc ≤ 2 then
    let el := (elemOf (encFmt b.enc)).getD .fp32
    (unpackBits el.width n data).map el.decode
  else
    let codes := unpackBits 4 n data
    if b.enc = 3 then
      let sc := ((data.drop (n / 2)).map BitVec.toNat).toArray
      codes.zipIdx.map fun p => (Elem.e2m1.decode p.1).scaled (sc.getD (b.groupOf p.2) 0)
    else
      let sc := (unpackBits 16 (n / 32) (data.drop (n / 2))).toArray
      let rs := residuals (data.drop (n / 2 + n / 16)) b.nres
      codes.zipIdx.map fun p =>
        let v := ((b4rCode p.1).mul (Elem.bf16.decode (sc.getD (b.groupOf p.2) 0))).1
        let w := match rs.find? fun r => r.1 == p.2 with | some r => (v.add r.2).1 | none => v
        (Elem.fp32.convert 0 0 w).1

/-- The exchange form of a block's contents (R146). -/
def Block.deliver (b : Block) : List Byte :=
  if b.xenc = 0 then b.data
  else
    let el := (elemOf (xencFmt b.xenc)).getD .fp32
    packBits el.width ((b.decodeData b.data).map fun x => (el.put 0 0 x).1)

/-! Encoding (R144). -/

/-- amax of a group, exact. -/
def amaxOf (xs : List Num) : Num := xs.foldl (fun a x => Num.max a x.abs) (.fin false 0 0)

/-- amax / 7 rounded toward +infinity to BF16. -/
def b4rScale : Num → Num
  | .fin _ m e =>
    if m == 0 then .fin false 0 0
    else
      let f := divFloor .bf16 m 7 e
      .fin false (if f.2.2 then f.1 else f.1 + 1) f.2.1
  | x => x

/-- x / s to the nearest integer, ties to even, clamped to -7..7. -/
def b4rQuot (x s : Num) : Int :=
  match x, s with
  | .fin n m e, .fin _ ms es =>
    if ms == 0 then 0
    else
      let k := e - es
      let num := if 0 ≤ k then m * 2 ^ k.toNat else m
      let den := if 0 ≤ k then ms else ms * 2 ^ (-k).toNat
      let lo := num / den
      let rem := num % den
      let q := if den < 2 * rem ∨ (2 * rem = den ∧ lo % 2 = 1) then lo + 1 else lo
      (if n then -1 else 1) * Int.ofNat (min q 7)
  | _, _ => 0

/-- What one B4R group becomes: its scale, and code and error for each element. -/
def b4rGroup (xs : List (Nat × Num)) : Num × List (Nat × Nat × Num) :=
  if xs.all fun x => x.2.finite then
    let s := b4rScale (amaxOf (xs.map Prod.snd))
    (s, xs.map fun x =>
      let q := b4rQuot x.2 s
      (x.1, ofSigned 4 q, x.2.sub ((Num.fin (decide (q < 0)) q.natAbs 0).mul s).1))
  else
    (.nan, xs.map fun x =>
      let c := Config.b4rNanCode x.1 % 15
      (x.1, if 8 ≤ c then c + 1 else c, .fin false 0 0))

/-- The largest number of residual entries (R143). -/
def Block.resCap (b : Block) : Nat := b.elems / 16

/-- A block's stored bytes and nres from exchange values (R144). -/
def Block.encode (b : Block) (xs : List Num) : List Byte × Nat :=
  let n := b.elems
  if b.enc ≤ 2 then
    let el := (elemOf (encFmt b.enc)).getD .fp32
    (padUnits (packBits el.width (xs.map fun x => (el.put 0 0 x).1)), 0)
  else
    let arr := xs.toArray
    let groups := (List.range (n / 32)).map fun g => (b.members g).map fun i => (i, arr.getD i (.fin false 0 0))
    if b.enc = 3 then
      let gs := groups.map fun g => (g, (qmxBlock 0xC 0 (g.map Prod.snd) ⟨1, []⟩).1.1)
      let codes := (gs.map fun g => (g.1.zip g.2.2).map fun p => (p.1.1, p.2)).flatten.mergeSort fun a c => decide (a.1 ≤ c.1)
      (padUnits (packBits 4 (codes.map Prod.snd) ++ gs.map fun g => BitVec.ofNat 8 g.2.1), 0)
    else
      let gs := groups.map b4rGroup
      let cells := (gs.map Prod.snd).flatten
      let codes := (cells.mergeSort fun a c => decide (a.1 ≤ c.1)).map fun c => c.2.1
      let scales := gs.map fun g => if g.1.isNan then 0xFFFF else Elem.bf16.encode g.1
      let target := f32 b.errTarget
      let cands := (cells.filter fun c => target.lt c.2.2.abs).mergeSort fun a c =>
        c.2.2.abs.lt a.2.2.abs || (!a.2.2.abs.lt c.2.2.abs && decide (a.1 ≤ c.1))
      let picked := (cands.take b.resCap).mergeSort fun a c => decide (a.1 ≤ c.1)
      let res := picked.map fun c => leBytes 8 (c.1 + (Elem.bf16.put 0 0 c.2.2).1 * 2 ^ 32)
      (padUnits (packBits 4 codes ++ packBits 16 scales ++ res.flatten), picked.length)

/-- The largest difference between two lists of values, rounded toward +infinity; +infinity where an element of the
first is not finite (R145). -/
def maxError (xs ys : List Num) : Num :=
  if xs.all Num.finite then
    ((xs.zip ys).foldl (fun a p => Num.max a (p.1.sub p.2).abs) (.fin false 0 0)).ceil32
  else .inf false

/-! Summaries (R151, R152). -/

/-- The delivered keys of a block, by token. -/
def Block.keys (b : Block) : List (List Num) :=
  let el := (elemOf (xencFmt b.xenc)).getD .fp32
  let xs := (b.decodeData b.data).map fun x => if b.xenc = 0 then x else (el.convert 0 0 x).1
  let arr := xs.toArray
  (List.range 64).map fun t => (List.range b.d).map fun e => arr.getD (keyIndex b.d t e) (.fin false 0 0)

/-- The mean of one element over the keys, in FP32: the exact one where no addition can round, a free value otherwise, since R152 fixes
no order of the additions. -/
def keyMean (col : List Num) : Num :=
  if !(col.all Num.finite) then .nan
  else if exactSums col && ((sumNums col).mul (.fin false 1 (-6))).1.inF32 then ((sumNums col).mul (.fin false 1 (-6))).1
  else f32 (Config.chestMean (col.map fun x => (Elem.fp32.put 0 0 x).1) % 2 ^ 32)

/-- A block's summary, and whether it is unbounded (R152). -/
def Block.summarise (b : Block) : List Byte × Bool :=
  if b.kind = 1 then ([], false)
  else
    let ks := b.keys
    let mean := (List.range b.d).map fun e => keyMean (ks.map fun k => k.getD e .nan)
    let bad := !(mean.all Num.finite)
    let sc := if bad then 0xFF else (scaleByte 8 mean).1
    let els := if bad then List.replicate 128 0 else
      (mean.map fun x => match x with
        | .fin n m e => (Elem.e4m3.put 0 0 (.fin n m (e + 127 - Int.ofNat sc))).1
        | _ => 0) ++ List.replicate (128 - b.d) 0
    let c := els.map fun q => (Elem.e4m3.decode q).scaled sc
    let dist (k : List Num) : Num := sumNums ((k.zip c).map fun p => let v := p.1.sub p.2; (v.mul v).1)
    let far := ks.foldl (fun a k => Num.max a (dist k)) (.fin false 0 0)
    let lo := far.sqrtAbove.ceil32
    let tight := (lo.mul lo).1.same far && ks.all fun k =>
      let vs := (k.zip c).map fun p => p.1.sub p.2
      vs.all Num.inF32 && exactSums (vs.map fun v => (v.mul v).1)
    let top := (far.add far.slack).1.sqrtAbove
    let hi := if tight then lo else (top.add top.slack).1.ceil32
    let unb := bad || !(ks.all fun k => k.all Num.finite)
    let args := (ks.flatten ++ c).map fun x => (Elem.fp32.put 0 0 x).1
    let radius := if unb then .inf false else between lo hi (Config.roundedUp 0 args)
    (els.map (BitVec.ofNat 8) ++ [BitVec.ofNat 8 sc, 0, 0, 0] ++ leBytes 4 (Elem.fp32.encode radius) ++ leBytes 4 b.wgen ++
      leBytes 4 0, unb || radius == .inf false)

/-- A block written with exchange bytes (R144, R145, R148): its stored form, error bound and summary; in T1. -/
def Block.written (b : Block) (x : List Byte) : Block :=
  let b1 : Block := if b.xenc = 0 then { b with data := x, nres := 0, errMax := 0 } else
    let el := (elemOf (xencFmt b.xenc)).getD .fp32
    let xs := (unpackBits el.width b.elems x).map fun v => (Elem.fp32.convert 0 0 (el.decode v)).1
    let e := b.encode xs
    let b2 := { b with data := e.1, nres := e.2 }
    { b2 with errMax := Elem.fp32.encode (maxError xs (b2.decodeData e.1)) }
  let b3 := { b1 with
    valid := true, wgen := (b.wgen + 1) % 2 ^ 32, tier := 1, t0 := none, lender := none, bad := false, badSummary := false
    bad1 := false, bad2 := false }
  let sm := b3.summarise
  { b3 with summary := sm.1, unbounded := sm.2 }

/-- A block re-encoded (R145, R160). -/
def Block.reencode (b : Block) (enc : Nat) : Block :=
  let old := b.decodeData b.data
  let b1 := { b with enc, nres := 0 }
  let e := b1.encode old
  let b2 := { b1 with data := e.1, nres := e.2 }
  let err := (f32 b.errMax).add (maxError old (b2.decodeData e.1))
  let b3 := { b2 with errMax := Elem.fp32.encode err.1.ceil32 }
  let sm := b3.summarise
  { b3 with summary := sm.1, unbounded := sm.2 }

/-- The descriptor of a block (R140). `loc` is opaque to software: a free value. -/
def Block.descriptor (b : Block) : List Byte :=
  leBytes 4 (1 + (if b.valid then 2 ^ 8 else 0) + b.kind * 2 ^ 9 + b.enc * 2 ^ 10 + b.xenc * 2 ^ 13 + b.hd * 2 ^ 15 +
    b.tier * 2 ^ 16 + (if b.t0.isSome then 2 ^ 18 else 0) + (if b.pin then 2 ^ 19 else 0) +
    (if b.unbounded then 2 ^ 20 else 0)) ++
  leBytes 4 b.wgen ++ leBytes 8 b.firstTok ++ leBytes 2 (if b.valid then b.units else 0) ++ leBytes 2 b.slab ++
  leBytes 2 b.nres ++ leBytes 2 0 ++ leBytes 4 b.errTarget ++ leBytes 4 b.errMax ++ leBytes 4 b.uses ++
  leBytes 4 b.lastBeat ++ leBytes 8 (Config.blockLoc b.tier b.wgen) ++ List.replicate 16 0

end Sys2Proof.Machine
end

