-- ==== Sys2Proof/Machine/Chest.lean ====
section
/-! DEFINITION. The chest and the screen: arena space (R137, R150), chest transfers (R147-R149), block moves and
summaries as they end (R164, R185), and screen queries (R153-R159). -/

namespace Sys2Proof.Machine

/-! Blocks and the arena. -/

def Ctx.block (x : Ctx) (i : Nat) : Option Block := x.blocks.get (fun _ => none) i
def Ctx.setBlock (x : Ctx) (i : Nat) (b : Option Block) : Ctx := { x with blocks := x.blocks.set (fun _ => none) i b }

/-- Bytes of stored form of a block (R184), 0 for one that is not created. -/
def Ctx.bytesOf (x : Ctx) (i : Nat) : Nat := match x.block i with | some b => b.units * 256 | none => 0

/-- Bytes of T1 copies that moves picked by `p` make of blocks that lie elsewhere. -/
def Ctx.arriving (x : Ctx) (p : Move → Bool) : Nat :=
  (x.moves.filter fun m => m.tier == 1 && p m && (x.block m.block).any fun b => b.tier != 1).foldl
    (fun n m => n + x.bytesOf m.block) 0

/-- Arena bytes of a block: two descriptors, its summary, and its data when it lies in T1 (R137, R138, R140). -/
def Block.arena (b : Block) : Nat :=
  128 + (if b.kind = 0 then 144 else 0) + (if b.valid ∧ b.tier = 1 then b.units * 256 else 0)

def blocksArena (m : Sparse (Option Block)) : Nat :=
  m.foldl (fun n p => n + (match p.2 with | some b => b.arena | none => 0)) 0

/-- Arena bytes in use: the chests of the deckle's contexts with the new copies of their moves, its orphans, and space lent as T2
(R137, R161, R186, R194). -/
def State.arenaUsed (s : State) (d : Nat) : Nat :=
  (s.ctxsOf d).foldl (fun n c => n + blocksArena (s.ctx c).blocks + (s.ctx c).arriving (·.started)) 0 +
    (s.deckle d).orphans.foldl (fun n o => n + blocksArena o.2) 0 +
    (s.deckle d).lends.foldl (fun n l => n + l.mib * 2 ^ 20) 0

def State.arenaFree (s : State) (d : Nat) : Nat := s.arenaBytes d - s.arenaUsed d

/-- CHEST_ARENA.free_mib (R165). -/
def State.freeMib (s : State) (d : Nat) : Nat := s.arenaFree d / 2 ^ 20

/-- A change of the chests of a deckle: SCREEN_STATE.rebuilding follows it (R164), and arena_low is raised when it takes free_mib below
CHEST_ARENA_LOW (R165, R167). -/
def State.arenaChange (s : State) (d : Nat) (f : State → State) : State :=
  let low := s.fget F.CHEST_ARENA_LOW_low_mib 0 (ofDeckle d)
  let s1 := (f s).each (s.queryStacks d) State.showRebuild
  s1.when (decide (low ≤ s.freeMib d ∧ s1.freeMib d < low)) (·.raiseTo E.CHEST_arena_low [d])

/-- A use of a block (R140), with the beats in which a virtual tile read it (R183). A damaged copy of its descriptor is rewritten from
the other (R164). -/
def State.useBlock (s : State) (c i : Nat) (v : Option Nat) : State :=
  s.modCtx c fun x =>
    match x.block i with
    | none => x
    | some b =>
      let now := s.beatCount
      let reads := match v with
        | some v => (v, now) :: (b.reads.filter fun r => decide (now ≤ r.2 + 8) && !(r.1 == v && r.2 == now))
        | none => b.reads
      x.setBlock i (some { b with
        uses := min (2 ^ 32 - 1) (b.uses + 1)
        lastBeat := now % 2 ^ 32
        reads
        bad1 := b.bad1 && b.bad2
        bad2 := b.bad1 && b.bad2 })

/-- A port is ACTIVE (R227). -/
def State.portActive (s : State) (p : Nat) : Bool := s.portFitted p && s.fget F.PORT_STATE_state p == 6

/-- A peer's endpoint cannot be reached: its pair is unreachable or has no route (R247, R263). -/
def State.peerGone (s : State) (ep : Nat) : Bool :=
  (s.txPair 0 ep).unreachable || ((s.router 0).routes.get (fun _ => 0) ep).toNat % 2 == 0

/-- The authoritative copy cannot be reached (R164): a T2 lender that cannot be reached. T3 lies in host memory behind the
deckle's link. -/
def State.copyLost (s : State) (d : Nat) (b : Block) : Bool :=
  match b.lender with
  | some (ep, _) => b.tier == 2 && s.peerGone ep
  | none => b.tier == 3 && !s.linkActive (s.linkOf (4 + d))

/-! Chest transfers. -/

/-- One block of a transfer and the address of its exchange form on the other side. -/
structure BlockPart where
  idx : Nat
  addr : Nat
deriving DecidableEq, Repr

/-- The blocks of a transfer, `ex` the exchange size (R147). -/
def DmaDesc.parts (x : DmaDesc) (ex : Nat) : List BlockPart :=
  let toChest := x.dst == 3
  ((List.range x.rows).map fun r => (List.range x.rowLen).map fun k =>
    if toChest then ⟨x.da + r * x.ds + k, x.sa + r * (x.ss * ex) + k * ex⟩
    else ⟨x.sa + r * x.ss + k, x.da + r * (x.ds * ex) + k * ex⟩).flatten

/-- What stops a chest transfer before it acts: INVALID on a block (R147, R148), or a refused access. -/
inductive ChestCheck
  | ok
  | invalid (idx : Nat)
  | confine (space addr : Nat)
  | limit (addr : Nat)
  | noTile (addr : Nat)
  | arena (addr : Nat)
  | bad (status idx : Nat)
deriving DecidableEq, Repr

def BurstCheck.chest : BurstCheck → ChestCheck
  | .ok => .ok
  | .confine sp a => .confine sp a
  | .limit a => .limit a
  | .noTile a => .noTile a
  | .arena a => .arena a

/-- The checks of one block of a transfer (R48, R59, R147, R148, R164). -/
def State.checkPart (s : State) (tile : Nat) (r : Run) (x : DmaDesc) (ex : Nat) (lost : List Nat) (p : BlockPart) : ChestCheck :=
  let toChest := x.dst == 3
  match r.x.block p.idx with
  | none => .invalid p.idx
  | some b =>
    if b.exchange ≠ ex ∨ (b.enc = 4 ∧ b.xenc = 0) then .invalid p.idx
    else if !r.allowed toChest 3 0 p.idx 1 then .confine 3 p.idx
    else if !toChest && !b.valid then .invalid p.idx
    else
      match (if toChest then s.checkSide tile r false x.src x.ssel p.addr ex
             else s.checkSide tile r true x.dst x.dsel p.addr ex).chest with
      | .ok =>
        if toChest then .ok
        else if b.t0.isNone && b.bad then .bad 0x0D p.idx
        else if b.t0.isNone && (s.copyLost r.x.deckle b || (b.tier == 2 && lost.contains p.idx)) then .bad 0x12 p.idx
        else .ok
      | c => c

/-- The sheet's context faults with a record of kind Chest block (R164, R354). -/
def State.chestFault (s : State) (tile : Nat) (r : Run) (status i : Nat) : State :=
  let s1 := s.setTile tile { s.tile tile with blocked := .faulted, dmaStop := true }
  s1.faultWith Page.CHEST r.c status 0x0A 0 i r.h.vtile tile

def State.refuseChest (s : State) (tile : Nat) (r : Run) : ChestCheck → State
  | .ok => s
  | .invalid i => s.accessFault tile r 0x0B 3 i
  | .confine sp a => s.confineFault tile r sp a
  | .limit a => s.accessFault tile r 0x0B 1 a
  | .noTile a => s.accessFault tile r 0x05 1 a
  | .arena a => s.accessFault tile r 0x0B 0 a
  | .bad st i =>
    let s1 := s.when (st == 0x0D) fun s => (s.bump C.CHEST_UE_CNT).raiseTo E.CHEST_ecc_uncorrectable [r.x.deckle]
    s1.chestFault tile r st i

/-- Bytes placed on the side of a chest transfer that is not space 0x3. -/
def State.chestDeliver (s : State) (tile : Nat) (r : Run) (x : DmaDesc) (a : Nat) (d : List Byte) : State :=
  if x.dst = 0 then s.localWrite r.x.deckle a d
  else s.spadWrite (if x.dsel = r.h.vtile then tile else (r.x.tileOf x.dsel).getD tile) a d

/-- Blocks whose use in a beat is a trigger for their promotion; the first trigger of a block counts (R183). -/
def Ctx.asksPromotion (x : Ctx) (beat : Nat) (is : List Nat) : Ctx :=
  { x with promote := is.foldl (fun l i => if l.any (fun p => p.1 == i) then l else l ++ [(i, beat)]) x.promote }

/-- A block delivered to a sheet: one use, and a trigger for its promotion when it is not in T1 (R140, R183). -/
def State.chestRead (s : State) (tile : Nat) (r : Run) (x : DmaDesc) (p : BlockPart) : State :=
  match (s.ctx r.c).block p.idx with
  | none => s
  | some b =>
    let s1 := (s.chestDeliver tile r x p.addr b.deliver).useBlock r.c p.idx (some r.h.vtile)
    let s2 := s1.bump C.CHEST_RD_CNT
    if b.tier = 1 then s2
    else s2.modCtx r.c (·.asksPromotion s.beatCount [p.idx])

/-- The parts of a transfer that pass before the first that does not, and what stopped that one. -/
def State.passing (s : State) (tile : Nat) (r : Run) (x : DmaDesc) (ex : Nat) (lost : List Nat) : List BlockPart → List BlockPart × ChestCheck
  | [] => ([], .ok)
  | p :: rest =>
    match s.checkPart tile r x ex lost p with
    | .ok => let q := s.passing tile r x ex lost rest; (p :: q.1, q.2)
    | c => ([], c)

/-- The errors that reads of the chest find in the arena (R164, R204). -/
def State.arenaErrors (s : State) (d : Nat) (errs : List (Nat × Nat)) : State :=
  s.demandRead d (s.arenaBase d) (s.arenaBytes d) errs

/-- Exchange bytes a chest write takes from its source. -/
def State.chestSource (s : State) (tile : Nat) (r : Run) (b : Burst) : BurstData :=
  s.burstData tile r ⟨0, 0, b⟩ []

/-- CHEST_TRANSFER (R147-R149): a started descriptor with space 0x3 on one side. A read delivers its blocks; a write is
cut into blocks that CHEST_WRITE_PLACED places one by one. A read finds the errors `errs` in the arena (R204), and `lost` lists the
blocks in T2 whose lender answers UNREACHABLE, having lost them (R216). -/
def execChestTransfer (tile queue : Nat) (errs : List (Nat × Nat)) (lost : List Nat) (s : State) : Host.Outcome State Fault Refusal :=
  guardUnit (tileOk tile && decide (2 ≤ queue ∧ queue < 10)) <|
    let t := s.tile tile
    let pick (d : QDesc) : Bool := d.started && !d.acted && (dmaDesc d.bytes).isChest && !(dmaDesc d.bytes).isQuery
    match t.running, t.findDesc queue pick with
    | some rr, some (i, d) =>
      if t.dmaStop then s
      else
        let s := if (dmaDesc d.bytes).dst = 3 then s else s.arenaErrors (s.runOf rr).x.deckle errs
        let r := s.runOf rr
        let x := dmaDesc d.bytes
        let first := if x.dst = 3 then x.da else x.sa
        match r.x.block first with
        | none => s.accessFault tile r 0x0B 3 first
        | some b0 =>
          let ex := b0.exchange
          let ok := s.passing tile r x ex lost (x.parts ex)
          if x.dst = 3 then
            match ok.2 with
            | .ok =>
              let bs := ok.1.map fun p => (⟨x.src, x.ssel, p.addr, 3, 0, p.idx, ex, x.vc, false, none⟩ : Burst)
              s.setTile tile (t.modDesc queue i fun q => { q with acted := true, bursts := bs })
            | c => s.refuseChest tile r c
          else
            let to_ := if x.dst = 1 then (if x.dsel = r.h.vtile then [tile] else (r.x.tileOf x.dsel).toList) else []
            let s1 := ok.1.foldl (fun s p => s.chestRead tile r x p) (s.each to_ fun s o => s.blur o)
            match ok.2 with
            | .ok => s1.setTile tile ((s1.tile tile).modDesc queue i fun q => { q with acted := true })
            | c => s1.refuseChest tile r c
    | _, _ => s

/-- The counters of a B4R block stored above its target and of a summary written unbounded (R145, R152). -/
def State.noteStored (s : State) (d i : Nat) (b : Block) : State :=
  let s1 := s.when (b.enc == 4 && (f32 b.errTarget).lt (f32 b.errMax)) (·.bump C.CHEST_RESID_FULL_CNT)
  s1.when (b.kind == 0 && b.unbounded) (·.bump C.SCREEN_UNBOUNDED_CNT (s.homeStack d i))

/-- The counters of a chest write. -/
def State.noteWritten (s : State) (d i : Nat) (b : Block) : State := (s.bump C.CHEST_WR_CNT).noteStored d i b

/-- The block range of a chest or headbox command (R506). -/
def Cmd.first (k : Cmd) : Nat := k.op 0x10 0 28
def Cmd.count (k : Cmd) : Nat := k.op 0x14 0 29

/-- Commands waiting for moves of a context complete when none of their blocks is still to move (R186). -/
def State.finishMoves (s : State) (c : Nat) : State :=
  let done (k : Cmd) : Bool :=
    k.begun && s.names c k && (k.opcode == 0x28 || k.opcode == 0x2A) &&
      !((s.ctx c).moves.any fun m => m.command &&
        decide (k.first ≤ m.block ∧ m.block < k.first + k.count))
  s.finishAll done 0

/-- CHEST_WRITE_PLACED (R148, R139): the next block of a chest write is encoded into free storage and its descriptor
switches; a move of the block is abandoned (R164), the T0 copy that a command asked for to be made of what was written. A write without free space waits, counted once (R150). -/
def execChestWritePlaced (tile queue : Nat) (s : State) : Host.Outcome State Fault Refusal :=
  guardUnit (tileOk tile && decide (2 ≤ queue ∧ queue < 10)) <|
    let t := s.tile tile
    match t.running, t.findDesc queue (fun d => d.acted && (dmaDesc d.bytes).dst == 3 && !d.bursts.isEmpty) with
    | some rr, some (i, d) =>
      let r := s.runOf rr
      match d.bursts with
      | [] => s
      | b :: rest =>
        match r.x.block b.daddr with
        | none => s.accessFault tile r 0x0B 3 b.daddr
        | some old =>
          let s := s.blurBurst tile r b
          match s.chestSource tile r b with
          | .notYet => s
          | .bad st sp a => s.readFault tile r st sp b.saddr b.size a
          | .data data =>
            let new := old.written data
            if s.arenaFree r.x.deckle < new.units * 256 then
              if d.waiting then s
              else (s.setTile tile ((s.tile tile).modDesc queue i fun q => { q with waiting := true })).bump C.CHEST_SPACE_WAIT_CNT
            else
              let s1 := s.setTile tile ((s.tile tile).modDesc queue i fun q => { q with bursts := rest, waiting := false })
              let moving (m : Move) : Bool := m.block == b.daddr && m.started
              let again (m : Move) : Bool := moving m && m.command && m.tier == 0
              let new' := { new with pin := new.pin || r.x.moves.any fun m => moving m && m.pin && m.tier != 0 }
              let s2 := s1.arenaChange r.x.deckle fun s => s.modCtx r.c fun x =>
                { x.setBlock b.daddr (some new') with
                  moves := (x.moves.map fun m => if again m then { m with decided := false, started := false } else m).filter
                    fun m => !moving m }
              (s2.noteWritten r.x.deckle b.daddr new').finishMoves r.c
    | _, _ => s

/-- CHEST_SPACE_TIMEOUT (R150): a write that still lacks arena space after 64 bt faults its context with RESOURCE. -/
def execChestSpaceTimeout (tile queue : Nat) (s : State) : Host.Outcome State Fault Refusal :=
  guardUnit (tileOk tile && decide (2 ≤ queue ∧ queue < 10)) <|
    let t := s.tile tile
    match t.running, t.findDesc queue (·.waiting) with
    | some rr, some (_, d) =>
      let r := s.runOf rr
      match d.bursts with
      | [] => s
      | b :: _ =>
        let need := match r.x.block b.daddr, s.chestSource tile r b with
          | some old, .data x => (old.written x).units * 256
          | _, _ => 0
        if need ≤ s.arenaFree r.x.deckle then s
        else (s.raiseTo E.CHEST_space_timeout [r.x.deckle]).chestFault tile r 0x0C b.daddr
    | _, _ => s

/-! Moves and rebuilt summaries as they end. -/

/-- Bytes of a deckle's blocks in a place outside the module: of those that lie there and of those on their way. -/
def State.bytesAt (s : State) (d : Nat) (here : Block → Bool) (going : Move → Bool) : Nat :=
  (s.ctxsOf d).foldl (fun a c =>
    let x := s.ctx c
    a + x.blocks.foldl (fun a p => match p.2 with | some b => if here b then a + b.units * 256 else a | none => a) 0 +
      (x.moves.filter going).foldl (fun a m => a + x.bytesOf m.block) 0) 0

/-- Bytes of a deckle's blocks at a T2 lender (R183, R192). -/
def State.lentUsed (s : State) (d : Nat) (l : Nat × Nat) : Nat :=
  s.bytesAt d (fun b => b.tier == 2 && b.lender == some l) fun m => m.tier == 2 && m.lender == some l

/-- A registered T2 lender that can be reached and that holds what lies there, and `n` bytes more. -/
def State.lenderHolds (s : State) (d n : Nat) (l : Nat × Nat) : Bool :=
  ((s.deckle d).lenders.any fun r => (r.1, r.2.1) == l && decide (s.lentUsed d l + n ≤ r.2.2 * 2 ^ 20)) && !s.peerGone l.1

/-- The T2 lender with room for another block (R183, R192, R194). -/
def State.lenderFor (s : State) (d n : Nat) : Option (Nat × Nat) :=
  ((s.deckle d).lenders.map fun l => (l.1, l.2.1)).find? (s.lenderHolds d n)

/-- Bytes of a deckle's blocks in T3, and the size of T3. -/
def State.t3Used (s : State) (d : Nat) : Nat := s.bytesAt d (·.tier == 3) (·.tier == 3)
def State.t3Size (s : State) (d : Nat) : Nat := match (s.deckle d).t3 with | some (_, n) => n | none => 0

/-- T0 bytes that copies of a context hold, or will, in the tile of a virtual tile: of blocks and moves that are picked. -/
def Ctx.t0Bytes (x : Ctx) (v : Nat) (block : Block → Bool) (move : Move → Bool) : Nat :=
  x.blocks.foldl (fun n p => match p.2 with
      | some b => if b.t0 = some v ∧ !x.drops.contains (p.1, v) ∧ block b then n + b.units * 256 else n
      | none => n) 0 +
    (x.moves.filter fun m => m.tier == 0 && m.v == v && move m).foldl (fun n m => n + x.bytesOf m.block) 0

def Ctx.t0Used (x : Ctx) (v : Nat) : Nat := x.t0Bytes v (fun _ => true) fun _ => true

/-- T0 bytes of the tile of a virtual tile (R182). -/
def State.t0Room (s : State) (c v : Nat) : Nat :=
  match (s.ctx c).tileOf v with
  | some t => (s.tile t).t0banks * 0x2000
  | none => 0

/-- The copies of a block at the end of a move. -/
def Block.moved (b : Block) (m : Move) : Block :=
  if m.tier = 0 then { b with t0 := some m.v, pin := b.pin || m.pin }
  else { b with tier := m.tier, pin := b.pin || m.pin, lender := if m.tier = 2 then m.lender else none }

/-- The new copy of a started move has its place (R182, R192): a bound tile with room in its T0 banks, a lender that can be reached,
T3. Its place in T1 is held since it started. -/
def State.moveFits (s : State) (c : Nat) (m : Move) : Bool :=
  let x := s.ctx c
  match m.tier with
  | 0 => (x.tileOf m.v).isSome && decide (x.t0Used m.v ≤ s.t0Room c m.v)
  | 1 => true
  | 2 => m.lender.any (s.lenderHolds x.deckle 0)
  | _ => decide (s.t3Used x.deckle ≤ s.t3Size x.deckle) && s.linkActive (s.linkOf (4 + x.deckle))

/-- An abandoned move is counted once (R185): in ROUTE_UNREACH_DROP_CNT where a peer is one of its ends and no error was found in
the block, in CHEST_UE_CNT otherwise. -/
def State.moveAbandoned (s : State) (d : Nat) (b : Block) (m : Move) : State :=
  if !b.bad ∧ (b.tier = 2 ∨ m.tier = 2) then s.bump C.ROUTE_UNREACH_DROP_CNT
  else (s.bump C.CHEST_UE_CNT).raiseTo E.CHEST_ecc_uncorrectable [d]

/-- BLOCK_MOVE_DONE (R185): a started move completes and the location switches, or, at an uncorrectable error or an
unreachable destination, it is abandoned and the block stays. -/
def execBlockMoveDone (c block : Nat) (ok : Bool) (s : State) : Host.Outcome State Fault Refusal :=
  guardUnit (decide (c < 1024)) <|
    let x := s.ctx c
    match x.moves.find? fun m => m.block == block && m.started with
    | none => s
    | some m =>
      let x1 := { x with moves := x.moves.filter fun n => n != m }
      match x.block block with
      | none => s.setCtx c x1
      | some b =>
        if ok && !b.bad && s.moveFits c m && !s.copyLost x.deckle b then
          (s.arenaChange x.deckle fun s => s.setCtx c (x1.setBlock block (some (b.moved m)))).finishMoves c
        else ((s.arenaChange x.deckle fun s => s.setCtx c x1).moveAbandoned x.deckle b m).finishMoves c

/-- SUMMARY_REBUILD_DONE (R164): a damaged summary has been rebuilt from the block's data, where that can be read. -/
def execSummaryRebuildDone (c block : Nat) (s : State) : Host.Outcome State Fault Refusal :=
  guardUnit (decide (c < 1024)) <|
    let x := s.ctx c
    match x.block block with
    | none => s
    | some b =>
      let st := s.homeStack x.deckle block
      if !b.badSummary ∨ b.bad ∨ !s.flag F.SCREEN_STATE_rebuilding st then s
      else
        let sm := b.summarise
        let s1 := s.setCtx c (x.setBlock block (some { b with badSummary := false, summary := sm.1, unbounded := sm.2 }))
        ((s1.showRebuild st).bump C.SCREEN_REBUILD_CNT st).raiseTo E.SCREEN_rebuild
          (s.ownersOfStack st) st

/-! Screen queries (R153-R159). -/

/-- A query record's header (R154). -/
structure QueryHdr where
  mode : Nat
  ovfOk : Bool
  qfp32 : Bool
  hd : Nat
  nq : Nat
  k : Nat
  nSink : Nat
  nRecent : Nat
  first : Nat
  count : Nat
  posLim : Nat
  threshold : Nat
  scale : Nat
  resSpace : Nat
  resAddr : Nat
deriving DecidableEq, Repr

def queryHdr (d : List Byte) : QueryHdr where
  mode := fieldAt d 0 8 1
  ovfOk := fieldAt d 0 9 1 == 1
  qfp32 := fieldAt d 0 10 1 == 1
  hd := fieldAt d 0 11 1
  nq := fieldAt d 0 16 4 + 1
  k := fieldAt d 4 0 13
  nSink := fieldAt d 4 13 8
  nRecent := fieldAt d 4 21 8
  first := fieldAt d 8 0 28
  count := fieldAt d 0xC 0 29
  posLim := fieldAt d 0x10 0 48
  threshold := fieldAt d 0x18 0 32
  scale := fieldAt d 0x1C 0 32
  resSpace := fieldAt d 0x20 0 4
  resAddr := fieldAt d 0x28 0 48

def QueryHdr.d (h : QueryHdr) : Nat := if h.hd = 1 then 128 else 64
def QueryHdr.vecBytes (h : QueryHdr) : Nat := h.nq * h.d * (if h.qfp32 then 4 else 2)

/-- The rules a header decides alone (R154). -/
def queryHdrOk (d : List Byte) : Bool :=
  let h := queryHdr d
  fieldAt d 0 0 8 == 1 && fieldAt d 0 12 4 == 0 && fieldAt d 0 20 12 == 0 && fieldAt d 4 29 3 == 0 &&
    fieldAt d 8 28 4 == 0 && fieldAt d 0xC 29 3 == 0 && fieldAt d 0x10 48 16 == 0 && fieldAt d 0x20 4 28 == 0 &&
    fieldAt d 0x24 0 32 == 0 && fieldAt d 0x28 48 16 == 0 && ((d.drop 0x30).take 16).all (· == 0) &&
    decide (1 ≤ h.k ∧ h.k ≤ 4096 ∧ h.first + h.count ≤ 2 ^ 28 ∧ h.resSpace ≤ 1 ∧ h.nSink + h.nRecent ≤ h.k) &&
    h.resAddr % 64 == 0 && (if h.mode = 1 then (f32 h.threshold).finite else h.threshold == 0) &&
    (match f32 h.scale with | .fin n m _ => !n && decide (2 ^ 23 ≤ m) | _ => false)

/-- The query vectors. -/
def QueryHdr.vectors (h : QueryHdr) (body : List Byte) : List (List Num) :=
  let el := if h.qfp32 then Elem.fp32 else Elem.bf16
  rowsOf h.d h.nq ((unpackBits el.width (h.nq * h.d) body).map el.decode)

/-- Queries queued at a stack's base die (R162, R168): those of the deckles whose chest it serves. -/
def State.queuedAt (s : State) (stack : Nat) : Nat :=
  s.ctxList.foldl (fun n c => if (s.queryStacks (s.ctx c).deckle).contains stack then n + (s.ctx c).queries.length else n) 0

/-- Chest writes and queries of a context that are not yet placed or answered, dropped with its generation and counted (R161, R164). -/
def State.dropChest (s : State) (c : Nat) : State :=
  let x := s.ctx c
  let left (t : Tile) : Nat := t.queues.foldl (fun n q => n + q.2.foldl (fun n d =>
    n + (if d.acted && (dmaDesc d.bytes).dst == 3 then d.bursts.length else 0)) 0) 0
  let writes := (s.tiles.filter fun p => (p.2.running.map Prod.fst) == some c).foldl (fun n p => n + left p.2) 0
  let n := writes + x.queries.length
  (s.bumpBy C.CHEST_DEAD_DROP_CNT n).when (decide (0 < n)) (·.raiseTo E.CHEST_dead_drop [x.deckle])

/-- SCREEN_QUERY (R153, R154): a started query descriptor is checked and its record queued at the base dies. With 64
queries queued at one of them it waits in its DMA queue (R162). -/
def execScreenQuery (tile queue : Nat) (s : State) : Host.Outcome State Fault Refusal :=
  guardUnit (tileOk tile && decide (2 ≤ queue ∧ queue < 10)) <|
    let s := s.blur tile
    let t := s.tile tile
    match t.running, t.findDesc queue (fun d => d.started && !d.acted && (dmaDesc d.bytes).isQuery) with
    | some rr, some (i, d) =>
      let r := s.runOf rr
      let a := (dmaDesc d.bytes).sa
      if t.dmaStop then s
      else if (s.queryStacks r.x.deckle).any fun st => decide (64 ≤ s.queuedAt st) then s
      else if (dmaDesc d.bytes).ssel ≠ r.h.vtile then s.accessFault tile r 0x0B 1 a
      else if t.limit < a + 64 then s.accessFault tile r 0x0B 1 (max a t.limit)
      else
        let hd := s.spadRead tile a 64
        let h := queryHdr hd
        if !queryHdrOk hd then s.accessFault tile r 0x0B 3 screenPort
        else if t.limit < a + 64 + h.vecBytes then s.accessFault tile r 0x0B 1 (max a t.limit)
        else if !(r.h.refs.filter Ref.reads).any fun x => (r.ream.range x).covers 3 0 h.first h.count then
          s.confineFault tile r 3 h.first
        else
          match s.checkSide tile r true h.resSpace (if h.resSpace = 1 then r.h.vtile else 0) h.resAddr (64 + 8 * h.k) with
          | .ok =>
            let body := s.spadRead tile (a + 64) h.vecBytes
            let bad := (h.vectors body).any (fun q => !(q.all Num.finite)) ||
              r.x.blocks.any fun p => decide (h.first ≤ p.1 ∧ p.1 < h.first + h.count) &&
                (match p.2 with | some b => b.kind == 1 || b.hd != h.hd | none => false)
            if bad then s.accessFault tile r 0x0B 3 h.first
            else
              let s1 := s.setTile tile (t.modDesc queue i fun q => { q with acted := true, flying := 1 })
              s1.modCtx r.c fun x => { x with queries := x.queries ++ [⟨tile, queue, hd ++ body⟩] }
          | c => s.refuseBurst tile r c
    | _, _ => s

/-- A block as the screen sees it: index, tier, T0 copy held, forced, bound. -/
structure Scored where
  idx : Nat
  tier : Nat
  t0 : Bool
  forced : Bool
  bound : Num
deriving DecidableEq, Repr

/-- What R155 takes the maximum of, for one query vector: the exact value, the highest that FP32 roundings toward +infinity can make of
it, and whether none of them rounds. -/
def screenTerm (q c : List Num) (radius : Num) : Num × Num × Bool :=
  let ps := (q.zip c).map fun p => (p.1.mul p.2).1
  let sq := q.map fun v => (v.mul v).1
  let dot := sumNums ps
  let sum := sumNums sq
  let norm := sum.sqrtAbove
  let reach := (norm.mul radius).1
  let exact := (dot.add reach).1
  let tight := exactSums ps && exactSums sq && (norm.mul norm).1.same sum && norm.inF32 && reach.inF32 && exact.inF32
  let normHi := (sum.add sum.slack).1.sqrtAbove
  let reachHi := (normHi.mul radius).1
  let high := ((dot.add (sumNums (ps.map Num.abs)).slack).1.add (reachHi.add reachHi.slack).1).1
  (exact, high, tight)

/-- The bound of a block (R155): every rounding toward +infinity; the model takes a free value between the exact bound and what
such roundings can make of it, since R155 does not fix the steps; the exact one where no step rounds. -/
def screenBound (h : QueryHdr) (qs : List (List Num)) (b : Block) : Num :=
  if b.unbounded || b.badSummary then .inf false
  else
    let sc := fieldAt b.summary 0x80 0 8
    let c := ((b.summary.take 128).map fun e => (Elem.e4m3.decode e.toNat).scaled sc).take h.d
    let radius := f32 (fieldAt b.summary 0x84 0 32)
    let ts := qs.map fun q => screenTerm q c radius
    let top (f : Num × Num × Bool → Num) : Num := (ts.drop 1).foldl (fun a t => Num.max a (f t)) ((ts.map f).headD .nan)
    let best := ((f32 h.scale).mul (top fun t => t.1)).1
    let lo := best.ceil32
    let high := ((f32 h.scale).mul (top fun t => t.2.1)).1
    let hi := if ts.all (fun t => t.2.2) && best.inF32 then lo else (high.add high.slack).1.ceil32
    let args := (qs.flatten ++ c ++ [radius, f32 h.scale]).map fun x => (Elem.fp32.put 0 0 x).1
    between lo hi (Config.roundedUp 1 args)

/-- What a query finds: scored blocks in range order, blocks never written, blocks excluded by position (R155). -/
def Ctx.screen (x : Ctx) (h : QueryHdr) (qs : List (List Num)) : List Scored × Nat × Nat :=
  let inRange := x.blocks.filter fun p => decide (h.first ≤ p.1 ∧ p.1 < h.first + h.count)
  let valid := inRange.filterMap fun p => match p.2 with | some b => if b.valid then some (p.1, b) else none | none => none
  let kept := valid.filter fun p => decide (p.2.firstTok < h.posLim) || h.posLim == 2 ^ 48 - 1
  let n := kept.length
  (kept.zipIdx.map fun p =>
      let forced := decide (p.2 < h.nSink ∨ n ≤ p.2 + h.nRecent)
      ⟨p.1.1, p.1.2.tier, p.1.2.t0.isSome, forced, if forced then .inf false else screenBound h qs p.1.2⟩,
    h.count - valid.length, valid.length - n)

/-- Descending bound, ascending index (R156). -/
def Scored.before (a b : Scored) : Bool := b.bound.lt a.bound || (!a.bound.lt b.bound && decide (a.idx ≤ b.idx))

/-- Which blocks go into a full list first: among equal bounds the forced ones, which are always listed (R154). -/
def Scored.prefer (a b : Scored) : Bool :=
  b.bound.lt a.bound || (!a.bound.lt b.bound && (if a.forced == b.forced then decide (a.idx ≤ b.idx) else a.forced))

/-- The list a query selects, and whether it overflows (R156). -/
def screenSelect (h : QueryHdr) (xs : List Scored) : List Scored × Bool :=
  let q := if h.mode = 0 then xs else xs.filter fun x => x.forced || (f32 h.threshold).lt x.bound
  (((q.mergeSort Scored.prefer).take h.k).mergeSort Scored.before, h.mode == 1 && decide (h.k < q.length))

/-- The result record (R158). -/
def screenResult (xs sel : List Scored) (ovf : Bool) (empty excl : Nat) : List Byte :=
  let ninf := Elem.fp32.encode (.inf true)
  let kth := match sel.getLast? with | some x => Elem.fp32.encode x.bound | none => ninf
  let rest := (xs.filter fun x => !(sel.any fun y => y.idx == x.idx)).mergeSort Scored.before
  let best := match rest with | x :: _ => Elem.fp32.encode x.bound | [] => ninf
  leBytes 4 (if ovf then 0x10C else 0) ++ leBytes 4 sel.length ++ leBytes 4 xs.length ++ leBytes 4 empty ++
    leBytes 4 excl ++ leBytes 4 kth ++ leBytes 4 best ++ List.replicate 36 0 ++
    (sel.map fun x => leBytes 4 (x.idx + x.tier * 2 ^ 28 + (if x.t0 then 2 ^ 30 else 0) + (if x.forced then 2 ^ 31 else 0)) ++
      leBytes 4 (Elem.fp32.encode x.bound)).flatten

/-- Each selection is a use of the block and may promote it (R140, R159, R183). -/
def State.noteSelected (s : State) (c : Nat) (sel : List Scored) : State :=
  let s1 := sel.foldl (fun s x => s.useBlock c x.idx none) s
  s1.modCtx c (·.asksPromotion s.beatCount ((sel.filter fun y => y.tier != 1).map Scored.idx))

/-- SCREEN_QUERY_DONE (R155-R159): the query has read summaries and descriptors, finding the errors `errs` (R164, R204); the merged list
is written and the descriptor may complete. A mode 1 overflow without
ovf_ok faults the context with RESOURCE and writes nothing. -/
def execScreenQueryDone (tile queue : Nat) (errs : List (Nat × Nat)) (s : State) : Host.Outcome State Fault Refusal :=
  guardUnit (tileOk tile && decide (2 ≤ queue ∧ queue < 10)) <|
    let s := s.blur tile
    let t := s.tile tile
    match t.running, t.findDesc queue (fun d => d.acted && decide (0 < d.flying) && (dmaDesc d.bytes).isQuery) with
    | some rr, some (i, _) =>
      let s := s.arenaErrors (s.runOf rr).x.deckle errs
      let r := s.runOf rr
      match r.x.queries.find? fun q => q.tile == tile && q.queue == queue with
      | none => s
      | some q =>
        let h := queryHdr q.record
        let res := r.x.screen h (h.vectors (q.record.drop 64))
        let sel := screenSelect h res.1
        let units := s.queryStacks r.x.deckle
        let s1 := s.modCtx r.c fun x => { x with queries := x.queries.erase q }
        let s2 := units.foldl (fun s st => s.bump C.SCREEN_QUERY_CNT st) s1
        let s3 := res.1.foldl (fun s x => s.bump C.SCREEN_SCORED_CNT (s.homeStack r.x.deckle x.idx)) s2
        let front := s.homeStack r.x.deckle h.first
        let s5 := s3.when sel.2 fun s =>
          (s.bump C.SCREEN_OVF_CNT front).raiseTo E.SCREEN_overflow (s.ownersOfStack front) front
        if sel.2 && !h.ovfOk then s5.accessFault tile r 0x0C 3 h.first
        else
          let out := screenResult res.1 sel.1 sel.2 res.2.1 res.2.2
          let s6 := if h.resSpace = 0 then s5.localWrite r.x.deckle h.resAddr out else s5.spadWrite tile h.resAddr out
          let s7 := s6.noteSelected r.c sel.1
          s7.setTile tile ((s7.tile tile).modDesc queue i fun q => { q with flying := 0 })
    | _, _ => s

end Sys2Proof.Machine
end

