-- ==== Sys2Proof/Machine/Collectives.lean ====
section
/-! DEFINITION. Collective steps (R273-R301): hashes, the step protocol, chunks on reduction engines, accumulation,
residue checks and failures. A step is found at its member by context, sequence number and table entry. -/

namespace Sys2Proof.Machine

def Ctx.setStep (x : Ctx) (p : Step) (f : Step → Step) : Ctx :=
  { x with steps := x.steps.map fun q => if q.q == p.q && q.entry == p.entry then f q else q }
def State.modStep (s : State) (c : Nat) (p : Step) (f : Step → Step) : State := s.modCtx c fun x => x.setStep p f
def Ctx.stepOf (x : Ctx) (p : Step) : Option Step := x.steps.find? fun q => q.q == p.q && q.entry == p.entry

def Ctx.entryOf (x : Ctx) (p : Step) : CollEntry := x.reamOf.coll p.entry
def Group.n (g : Group) : Nat := g.members.length

/-- Fixed order is in force (R291). -/
def fixedOrder (e : CollEntry) (g : Group) : Bool := decide (16 < g.n) || e.fixed

/-- The destination table of a PERMUTE (R276): the first 2n bytes of the static region arg names. -/
def State.permTable (s : State) (x : Ctx) (e : CollEntry) (n : Nat) : List Byte :=
  s.localRead x.deckle (x.reamOf.region e.arg).base (2 * n)

/-- The step hash (R285), an opaque function of the fields R285 lists. -/
def State.stepHash (s : State) (x : Ctx) (p : Step) : Word :=
  let e := x.entryOf p
  let g := x.groupOf p
  let msg := leBytes 8 g.hash.toNat ++ leBytes 4 e.ctag ++ leBytes 8 (p.q / x.reamOf.length) ++
    leBytes 1 e.op ++ leBytes 1 e.red ++ leBytes 1 e.dtype ++ leBytes 1 (if fixedOrder e g then 1 else 0) ++
    leBytes 4 e.count ++ (if e.op = 1 ∨ e.op = 6 then leBytes 2 e.arg else []) ++
    (if e.op = 2 then s.permTable x e g.n else [])
  BitVec.ofNat 64 (leNat (Config.shake256 msg 8))

def isReduceOp (e : CollEntry) : Bool := e.op == 3 || e.op == 5

/-! Chunks (R288). -/

/-- Endpoints in a member's entry. -/
def Group.ends (g : Group) (r : Nat) : Nat := if (g.members.getD r (0, 0xFFFF, 0, 0)).2.1 = 0xFFFF then 1 else 2

/-- Number of chunks of the shard of rank r. -/
def chunkCount (e : CollEntry) (g : Group) (r : Nat) : Nat :=
  let len := shardLen r e.count g.n
  max (ceilDiv len 524288) (min (8 * g.ends r) (ceilDiv len 4096))

/-- First element and length of chunk j of the shard of rank r. -/
def chunkSpan (e : CollEntry) (g : Group) (r j : Nat) : Nat × Nat :=
  let len := shardLen r e.count g.n
  let nch := chunkCount e g r
  let a := j * len / nch
  (shardStart r e.count g.n + a, (j + 1) * len / nch - a)

/-- The owner's I/O die of chunk j. -/
def chunkDie (g : Group) (r j : Nat) : Nat := j % g.ends r

/-- This member's I/O die of a number, or IOD0 (R288). -/
def State.ownDie (s : State) (die : Nat) : Nat := if die = 1 ∧ s.iodFitted 1 then 1 else 0

/-- An engine of an I/O die is retired: the broke map says so, or a change waiting for it (R294, R409). -/
def State.engineRetired (s : State) (iod e : Nat) : Bool :=
  (s.broke.any fun b => b.kind == 7 && b.loc == iod + 2 * e) ||
    s.brokeDue.any fun c => match c with | .add b => b.kind == 7 && b.loc == iod + 2 * e | .remove .. => false

/-- The engine a chunk runs on: its own, or the next healthy one in ascending order (R288). -/
def State.engineFor (s : State) (iod e : Nat) : Option Nat :=
  ((List.range 8).map fun i => (e + i) % 8).find? fun k => !s.engineRetired iod k

/-- Slices of a run of elements: element offset and length in elements, 2,048 bytes each but the last (R289). -/
def slicesOf (eb a n : Nat) : List (Nat × Nat) :=
  let per := 2048 / eb
  (List.range (ceilDiv n per)).map fun i => (a + i * per, min per (n - i * per))

/-- The I/O die and the engine of a chunk owned here (R288). -/
def State.engineOf (s : State) (g : Group) (j : Nat) : Nat × Option Nat :=
  let iod := s.ownDie (chunkDie g g.rank j)
  (iod, s.engineFor iod (j / g.ends g.rank % 8))

/-- An engine holds a chunk of some step. -/
def State.engineBusy (s : State) (iod k : Nat) : Bool :=
  s.ctxList.any fun c =>
    let x := s.ctx c
    x.steps.any fun p => p.st == .run && p.holding.any fun h => s.engineOf (x.groupOf p) h.1 == (iod, some k)

/-- A chunk runs in zero-copy mode, as it starts (R295, R301). -/
def State.zeroCopy (s : State) (e : CollEntry) (iod : Nat) : Bool := e.zcopy || s.flag F.COLL_CFG_zcopy iod

/-! Sending. -/

/-- A slice of this member's input, or the status that stops its reading (R204, R215, R297). -/
def State.inputSlice (s : State) (x : Ctx) (p : Step) (a n : Nat) : Except Nat (List Byte) :=
  let e := x.entryOf p
  let eb := elemBytes e.dtype
  let r := x.stepIn x.reamOf e
  match s.localBad x.deckle (r.start + a * eb) (n * eb) with
  | some (st, _) => .error st
  | none => .ok (s.localRead x.deckle (r.start + a * eb) (n * eb))

/-- One message of a step, its failure failing the step; a RESULT is followed until it is placed (R284, R297). -/
def State.sendStep (s : State) (c : Nat) (p : Step) (die dest sub pass addr flags : Nat) (data : Except Nat (List Byte)) :
    State :=
  let x := s.ctx c
  match x.stepOf p with
  | none => s
  | some p' =>
    match data with
    | .error st => s.failStep c p' st (x.groupOf p).rank
    | .ok d =>
      match s.collTo (x.groupOf p') p'.hash (s.ownDie die) die dest sub pass addr flags d with
      | (s1, none) => s1.failStep c p' 0x12 dest
      | (s1, some (ep, q)) =>
        if sub = 0x04 then s1.modStep c p fun q' => { q' with sent := q'.sent ++ [s1.follow (s.ownDie die) ep 0 q true] } else s1

/-- A message of a step to every other member. -/
def State.sendAll (s : State) (c : Nat) (p : Step) (die sub pass addr flags : Nat) (data : Except Nat (List Byte)) : State :=
  let x := s.ctx c
  match x.stepOf p with
  | none => s
  | some p' =>
    match data with
    | .error st => s.failStep c p' st (x.groupOf p).rank
    | .ok d =>
      match s.collToAll (x.groupOf p') p'.hash (s.ownDie die) die sub pass addr flags d with
      | (s1, [], ws) => if sub = 0x04 then s1.modStep c p fun q => { q with sent := q.sent ++ ws } else s1
      | (s1, dest :: _, _) => s1.failStep c p' 0x12 dest

/-- Output bytes placed at this member, from rank `from_` (R287): a range outside the output fails the step. -/
def State.placeOut (s : State) (c : Nat) (p : Step) (from_ addr flags : Nat) (d : List Byte) : State :=
  let x := s.ctx c
  match x.stepOf p with
  | none => s
  | some p' =>
    let e := x.entryOf p
    let r := x.stepOut x.reamOf e
    let eb := elemBytes e.dtype
    if r.len < addr * eb + d.length then s.failStep c p' 0x0B from_
    else
      (s.localWrite x.deckle (r.start + addr * eb) d).modStep c p fun q =>
        { q with
          placedBy := q.placedBy.set (fun _ => 0) from_ (q.placedBy.get (fun _ => 0) from_ + d.length)
          flags := q.flags ||| BitVec.ofNat 8 flags }

/-- Bytes of this member's output that come from rank r (R277). -/
def outFrom (e : CollEntry) (g : Group) (perm : List Byte) (r : Nat) : Nat :=
  let eb := elemBytes e.dtype
  let n := g.n
  if e.op = 1 then (if r = (g.rank + n - e.arg % n) % n then e.count * eb else 0)
  else if e.op = 2 then (if fieldAt perm (2 * r) 0 16 = g.rank then e.count * eb else 0)
  else if e.op = 3 then (if r = g.rank then shardLen r e.count n * eb else 0)
  else if e.op = 4 ∨ e.op = 5 then shardLen r e.count n * eb
  else if e.op = 6 then (if r = e.arg then e.count * eb else 0)
  else 0

/-! Completion of a step. -/

/-- Ranks from which output bytes are still missing, lowest first. -/
def State.missingFrom (s : State) (x : Ctx) (p : Step) : List Nat :=
  let e := x.entryOf p
  let g := x.groupOf p
  (List.range g.n).filter fun r => decide (p.placedBy.get (fun _ => 0) r < outFrom e g (s.permTable x e g.n) r)

/-- The chunks this member owns have all passed (R284). -/
def Ctx.chunksDone (x : Ctx) (p : Step) : Bool :=
  let e := x.entryOf p
  let g := x.groupOf p
  !isReduceOp e || (List.range (chunkCount e g g.rank)).all fun j => p.finished.contains j

/-- A member's DONE reaches rank 0, which sends FINISH when all are done and completes (R284). -/
def State.noteDone (s : State) (c : Nat) (p : Step) (rank : Nat) : State :=
  let x := s.ctx c
  match x.stepOf p with
  | none => s
  | some p' =>
    let dones := if p'.dones.contains rank then p'.dones else p'.dones ++ [rank]
    let s1 := s.modStep c p fun q => { q with dones }
    if dones.length = (x.groupOf p).n then
      let s2 := s1.sendAll c p 0 0x08 0 0 0 (.ok [])
      s2.modStep c p fun q => { q with st := .complete }
    else s1

/-- DONE is sent once the member's share is finished (R284). -/
def State.tryDone (s : State) (c : Nat) (p : Step) : State :=
  let x := s.ctx c
  match x.stepOf p with
  | none => s
  | some p' =>
    if p'.st = .run ∧ !p'.doneSent ∧ x.chunksDone p' ∧ (s.missingFrom x p').isEmpty ∧ p'.sent.all s.remoteDone then
      let s1 := s.modStep c p fun q => { q with doneSent := true }
      let g := x.groupOf p
      if g.rank = 0 then s1.noteDone c p 0 else s1.sendStep c p 0 0 0x07 0 0 0 (.ok [])
    else s

/-- Every running step looks again whether its share is finished, as an ACK comes (R262, R284). -/
def State.tryAllDone (s : State) : State :=
  s.ctxList.foldl (fun s c => (s.ctx c).steps.foldl (fun s p => s.tryDone c p) s) s

/-! GO: members send their DATA, or their RESULT where nothing is reduced (R284, R288, R289, R295). -/

/-- Slices of a chunk of the shard of rank r. -/
def chunkSlices (e : CollEntry) (g : Group) (r j : Nat) : List (Nat × Nat) :=
  slicesOf (elemBytes e.dtype) (chunkSpan e g r j).1 (chunkSpan e g r j).2

/-- The pass a chunk is in (R294). -/
def Step.pass (p : Step) (j : Nat) : Nat := p.passes.get (fun _ => 0) j

/-- Contributions held to a run of elements in a pass, in the order held. -/
def Step.heldAt (p : Step) (pass a n : Nat) : List Slice :=
  p.slices.filter fun z => z.pass == pass && decide (a ≤ z.addr ∧ z.addr < a + n)

/-- This member's contribution to chunk j of another owner, in pass `pass`. -/
def State.sendChunk (s : State) (c : Nat) (p : Step) (o j pass : Nat) : State :=
  let x := s.ctx c
  let e := x.entryOf p
  let g := x.groupOf p
  (chunkSlices e g o j).foldl (fun s a =>
    s.sendStep c p (chunkDie g o j) o 0x03 pass a.1 0 (s.inputSlice x p a.1 a.2)) s

/-- A contribution reaches the engine of a chunk; the order of pass 0 is kept for its recomputation (R294). -/
def Step.add (q : Step) (z : Slice) : Step :=
  { q with slices := q.slices ++ [z], order := if z.pass = 0 then q.order ++ [(z.addr, z.rank)] else q.order }

/-- The owner's own contribution to slices of a chunk in its pass. -/
def State.ownSlices (s : State) (c : Nat) (p : Step) (j : Nat) (l : List (Nat × Nat)) : State :=
  let x := s.ctx c
  let g := x.groupOf p
  l.foldl (fun s a =>
    match (s.ctx c).stepOf p, s.inputSlice x p a.1 a.2 with
    | some q, .error st => s.failStep c q st g.rank
    | some q, .ok d => s.modStep c p fun w => w.add ⟨q.pass j, g.rank, a.1, d⟩
    | none, _ => s) s

/-- Ranks added to a slice so far, in ascending order (R295). -/
def addedRanks (zs : List Slice) (n : Nat) : Nat := ((List.range n).find? fun r => !(zs.any fun z => z.rank == r)).getD n

/-- The slice that a chunk in zero-copy mode is at. -/
def Ctx.sliceNow (x : Ctx) (p : Step) (j : Nat) : Option (Nat × Nat) :=
  let g := x.groupOf p
  (chunkSlices (x.entryOf p) g g.rank j)[p.sliceAt.get (fun _ => 0) j]?

/-- PULLs of a slice to the ranks from `lo` to below `hi` (R295). -/
def State.pulls (s : State) (c : Nat) (p : Step) (j a lo hi : Nat) : State :=
  let g := (s.ctx c).groupOf p
  let pass := (((s.ctx c).stepOf p).map fun q => q.pass j).getD 0
  (g.others.filter fun r => decide (lo ≤ r ∧ r < hi)).foldl (fun s r =>
    s.sendStep c p (chunkDie g g.rank j) r 0x06 pass a 0 (.ok [])) s

/-- The slice a zero-copy chunk is at begins: the owner's own part, and PULLs of the first ranks, no more than 128 beyond those
added (R295). -/
def State.startSlice (s : State) (c : Nat) (p : Step) (j : Nat) : State :=
  match ((s.ctx c).stepOf p).bind fun q => (s.ctx c).sliceNow q j with
  | none => s
  | some a =>
    let s1 := s.ownSlices c p j [a]
    match (s1.ctx c).stepOf p with
    | none => s1
    | some q => s1.pulls c p j a.1 0 (addedRanks (q.heldAt (q.pass j) a.1 1) ((s1.ctx c).groupOf p).n + 128)

/-- An engine takes a chunk (R288), in the mode now set (R301); one moved from a retired engine part way stays in zero copy. -/
def State.startChunk (s : State) (c : Nat) (p : Step) (j : Nat) : State :=
  let x := s.ctx c
  let e := x.entryOf p
  let g := x.groupOf p
  let zc := decide (0 < p.sliceAt.get (fun _ => 0) j) || s.zeroCopy e (s.ownDie (chunkDie g g.rank j))
  let s1 := s.modStep c p fun q => { q with holding := q.holding ++ [(j, zc)] }
  if zc then s1.startSlice c p j else s1.ownSlices c p j (chunkSlices e g g.rank j)

/-- Engines that are free take this step's chunks, each in ascending order (R288); a die with none left fails the step (R294). -/
def State.takeChunks (s : State) (c : Nat) (p : Step) : State :=
  let x := s.ctx c
  let e := x.entryOf p
  let g := x.groupOf p
  (List.range (chunkCount e g g.rank)).foldl (fun s j =>
    match (s.ctx c).stepOf p with
    | none => s
    | some q =>
      if q.st ≠ .run ∨ q.finished.contains j ∨ q.holding.any (fun h => h.1 == j) then s
      else
        match s.engineOf g j with
        | (_, none) => s.failStep c q 0x0C g.rank
        | (iod, some k) => if s.engineBusy iod k then s else s.startChunk c q j) s

/-- Free engines take the chunks that wait for them, steps in the order of their contexts (the model's choice, log 108). -/
def State.takeEngines (s : State) : State :=
  s.ctxList.foldl (fun s c => (s.ctx c).steps.foldl (fun s p =>
    if isReduceOp ((s.ctx c).entryOf p) then s.takeChunks c p else s) s) s

/-- The receivers of this member's input where nothing is reduced, and the element its output starts at (R277). -/
def moveTargets (e : CollEntry) (g : Group) (perm : List Byte) : List Nat × Nat :=
  if e.op = 1 then ([(g.rank + e.arg) % g.n], 0)
  else if e.op = 2 then ([fieldAt perm (2 * g.rank) 0 16], 0)
  else if e.op = 4 then (List.range g.n, shardStart g.rank e.count g.n)
  else if e.op = 6 then (if g.rank = e.arg then (List.range g.n, 0) else ([], 0))
  else ([], 0)

/-- A member's input sent as RESULT slices to its receivers, its own part placed at once (R289). -/
def State.sendMoves (s : State) (c : Nat) (p : Step) : State :=
  let x := s.ctx c
  let e := x.entryOf p
  let g := x.groupOf p
  let tg := moveTargets e g (s.permTable x e g.n)
  let wide := decide (1 < tg.1.length)
  (slicesOf (elemBytes e.dtype) 0 (collIn e g.rank g.n)).foldl (fun s a =>
    let data := s.inputSlice x p a.1 a.2
    let s1 := match data with
      | .ok d => if tg.1.contains g.rank then s.placeOut c p g.rank (tg.2 + a.1) 0 d else s
      | .error _ => s
    if wide then s1.sendAll c p 0 0x04 0 (tg.2 + a.1) 0 data
    else (tg.1.filter fun r => r != g.rank).foldl (fun s r => s.sendStep c p 0 r 0x04 0 (tg.2 + a.1) 0 data) s1) s

/-- The slack of a collective step is recorded (R391): no command measures it, so it is a free value. -/
def State.noteSlack (s : State) : State :=
  let r := s.free
  let t := (Config.freeWord r.1).toNat % 2 ^ 32
  let s1 := r.2
  { s1 with cal := { s1.cal with
      slackMin := min s1.cal.slackMin t, slackSum := s1.cal.slackSum + t, slackN := s1.cal.slackN + 1 } }

/-- GO at a member. -/
def State.onGo (s : State) (c : Nat) (p : Step) : State :=
  let x := s.ctx c
  match x.stepOf p with
  | none => s
  | some p' =>
    if p'.st ≠ .hash then s
    else
      let e := x.entryOf p
      let g := x.groupOf p
      let s0 := s.when (g.rank != 0) (·.noteSlack)
      if e.op = 7 then s0.modStep c p fun q => { q with st := .complete }
      else
        let s1 := s0.modStep c p fun q => { q with st := .run }
        let s2 := if isReduceOp e then
            let sendTo (s : State) (o : Nat) : State :=
              if o = g.rank ∨ e.zcopy then s
              else (List.range (chunkCount e g o)).foldl (fun s j => s.sendChunk c p o j 0) s
            ((List.range g.n).foldl sendTo s1).takeEngines
          else s1.sendMoves c p
        s2.tryDone c p

/-! The hash check (R284). -/

/-- The hash held by the most members, on a tie that of the lowest rank. -/
def refHash (hs : List (Nat × Word)) : Word :=
  let count (w : Word) : Nat := (hs.filter fun h => h.2 == w).length
  let sorted := hs.mergeSort fun a b => decide (a.1 ≤ b.1)
  (sorted.foldl (fun (best : Option (Nat × Word)) h =>
    match best with
    | none => some (count h.2, h.2)
    | some b => if b.1 < count h.2 then some (count h.2, h.2) else some b) none).elim 0 Prod.snd

/-- A member's hash at rank 0, which decides GO or ABORT once all have come. -/
def State.noteHash (s : State) (c : Nat) (p : Step) (rank : Nat) (h : Word) : State :=
  let x := s.ctx c
  match x.stepOf p with
  | none => s
  | some p' =>
    let hashes := (rank, h) :: (p'.hashes.filter fun e => e.1 != rank)
    let s0 := s.modStep c p fun q => { q with hashes }
    let g := x.groupOf p
    if hashes.length < g.n ∨ p'.st = .wait then s0
    else
      let s1 := s0.noteSlack
      let r := refHash hashes
      match ((hashes.filter fun e => e.2 != r).map Prod.fst).min? with
      | none => (s1.sendAll c p 0 0x02 0 0 0 (.ok [])).onGo c p
      | some bad =>
        let s2 := (s1.bump C.COLL_MISMATCH_CNT).raiseTo E.COLL_mismatch [x.deckle]
        match (s2.ctx c).stepOf p with
        | some q => s2.failStep c q 0x06 bad
        | none => s2

/-- COLL_STEP_START (R281, R284): a step enters HASH and its hash goes to rank 0. -/
def State.startStep (s : State) (c : Nat) (p : Step) : State :=
  let x := s.ctx c
  let h := p.hash
  let s1 := s.modStep c p fun q => { q with st := .hash, age := 0 }
  if (x.groupOf p).rank = 0 then s1.noteHash c p 0 h
  else s1.sendStep c p 0 0 0x01 0 0 0 (.ok (leBytes 8 h.toNat))

/-! Reduction (R290-R293). -/

/-- The accumulator of the reduction engines: FP32's exponent, 47 bits of fraction (R290). -/
def Elem.wide : Elem := .float 8 47 127 .ieee

/-- One element reduced in the given order, in the destination format, with the flags of R293. -/
def reduceElem (red dtype : Nat) (xs : List Num) : Flagged Nat :=
  let el := (elemOf dtype).getD .fp32
  let nan := Flags.when (xs.any Num.isNan) Flags.nanIn |||
    Flags.when (red == 0 && xs.contains (.inf false) && xs.contains (.inf true)) Flags.invalid
  match xs with
  | [] => (0, 0)
  | x :: rest =>
    if red = 0 then
      if dtype = 6 then el.put 0 0 (sumNums xs)
      else
        let r := rest.foldl (fun a y =>
          let z := a.1.add y
          let w := Elem.wide.convert 0 0 z.1
          (w.1, a.2 ||| z.2 ||| (w.2 &&& ~~~Flags.underflow))) (x, nan)
        let o := el.put 0 0 r.1
        (o.1, r.2 ||| o.2)
    else (el.encode (rest.foldl (if red = 1 then Num.max else Num.min) x), nan)

/-- Contributions to a chunk in its current pass, in the order held. -/
def Step.held (p : Step) (j a n : Nat) : List Slice := p.heldAt (p.pass j) a n

/-- Ranks whose contribution to a run of elements is not whole. -/
def ranksLacking (zs : List Slice) (n eb cnt : Nat) : List Nat :=
  (List.range n).filter fun r => decide (((zs.filter fun z => z.rank == r).map fun z => z.data.length).foldl (· + ·) 0 < cnt * eb)

/-- One slice of a chunk reduced over all ranks, in rank order or in the order its contributions reached the engine in pass 0
(R291, R294): result bytes and flags. -/
def reduceSlice (e : CollEntry) (fixed : Bool) (order : List (Nat × Nat)) (zs : List Slice) : List Byte × Flags :=
  let el := (elemOf e.dtype).getD .fp32
  let place (z : Slice) : Nat := order.findIdx (· == (z.addr, z.rank))
  let ord := zs.mergeSort fun a b => if fixed then decide (a.rank ≤ b.rank) else decide (place a ≤ place b)
  let n := ((ord.map fun z => z.data.length).headD 0) / elemBytes e.dtype
  let rows := ord.map fun z => (unpackBits el.width n z.data).map el.decode
  let r := Flagged.all ((List.range n).map fun i => reduceElem e.red e.dtype (rows.map fun row => row.getD i .nan))
  (packBits el.width r.1, r.2)

/-- Residue mismatches of one engine: two within 1 s retire it (R294). -/
def State.mismatchSoon (s : State) (iod e : Nat) : Bool :=
  match (s.router iod).mismatch.get (fun _ => none) e with
  | none => false
  | some b => decide (s.ms - b ≤ 1000)

/-- A chunk begun again in a pass (R294, R295): its slices dropped, and RESEND sent; in zero copy only the slice it is at is
pulled again. The engine that still holds it reads the owner's part again. -/
def State.restartChunk (s : State) (c : Nat) (p : Step) (j pass : Nat) (zc : Bool) : State :=
  let x := s.ctx c
  let e := x.entryOf p
  let g := x.groupOf p
  let sp := if zc then (x.sliceNow p j).getD (0, 0) else chunkSpan e g g.rank j
  let s1 := s.modStep c p fun q =>
    { q with
      passes := q.passes.set (fun _ => 0) j pass
      slices := q.slices.filter fun z => !(decide (sp.1 ≤ z.addr ∧ z.addr < sp.1 + sp.2)) }
  let kept := (((s1.ctx c).stepOf p).map fun q => q.holding.any fun h => h.1 == j).getD false
  if zc then (if kept then s1.startSlice c p j else s1)
  else
    let s2 := if kept then s1.ownSlices c p j (chunkSlices e g g.rank j) else s1
    s2.sendAll c p (chunkDie g g.rank j) 0x05 pass sp.1 0 (.ok [])

/-- A chunk fails its residue check (R294): it is recomputed in the next pass; a mismatch in pass 1, or the second of its engine
within 1 s, retires the engine; one in pass 2 fails the step. -/
def State.residueFail (s : State) (c : Nat) (p : Step) (j : Nat) (zc : Bool) : State :=
  let x := s.ctx c
  let g := x.groupOf p
  let pass := p.pass j
  match s.engineOf g j with
  | (_, none) => s
  | (iod, some k) =>
    let s1 := (s.bump C.COLL_RESIDUE_CNT iod).raiseTo E.COLL_residue [x.deckle] iod
    let retire := decide (pass = 1) || s.mismatchSoon iod k
    let s2 := s1.modRouter iod fun r => { r with mismatch := r.mismatch.set (fun _ => none) k (some s.ms) }
    let s3 := s2.when retire fun s =>
      let s3 := (s.brokeAdd 0x7 (iod + 2 * k) 0x0D true).modStep c p fun q => { q with holding := q.holding.filter fun h => h.1 != j }
      (s3.bump C.COLL_ENGINE_RETIRE_CNT iod).raiseTo E.COLL_engine_retired [x.deckle] iod
    match (s3.ctx c).stepOf p with
    | none => s3
    | some q =>
      if pass = 2 ∨ (s3.engineOf g j).2.isNone then s3.failStep c q 0x0C g.rank
      else (s3.restartChunk c p j (if retire then 2 else 1) zc).takeEngines

/-- Results of slices of a chunk: placed here and, for ALL_REDUCE, sent to every member (R289, R295). -/
def State.sendResults (s : State) (c : Nat) (p : Step) (j : Nat) (fixed : Bool) (l : List (Nat × Nat)) : State :=
  let x := s.ctx c
  let e := x.entryOf p
  let g := x.groupOf p
  let sp := chunkSpan e g g.rank j
  let zs := p.held j sp.1 sp.2
  let base := if e.op = 3 then shardStart g.rank e.count g.n else 0
  l.foldl (fun s a =>
    let r := reduceSlice e fixed p.order (zs.filter fun z => z.addr == a.1)
    let s1 := s.placeOut c p g.rank (a.1 - base) r.2.toNat r.1
    if e.op = 5 then s1.sendAll c p (chunkDie g g.rank j) 0x04 (p.pass j) a.1 r.2.toNat (.ok r.1) else s1) s

/-- What an engine holds of a chunk is whole and has passed its residue checks: the chunk, or in zero copy the slice it is at,
whose successor then begins (R289, R294, R295). -/
def State.chunkPassed (s : State) (c : Nat) (p : Step) (j : Nat) (zc : Bool) : State :=
  let x := s.ctx c
  let e := x.entryOf p
  let g := x.groupOf p
  let all := chunkSlices e g g.rank j
  let now := if zc then (x.sliceNow p j).toList else all
  let i := p.sliceAt.get (fun _ => 0) j + 1
  let last := !zc || decide (all.length ≤ i)
  let s1 := s.sendResults c p j (fixedOrder e g || zc) now
  let gone (a : Nat) : Bool := now.any fun b => b.1 == a
  let s2 := s1.modStep c p fun q =>
    { q with
      finished := if last then q.finished ++ [j] else q.finished
      holding := if last then q.holding.filter fun h => h.1 != j else q.holding
      sliceAt := if zc then q.sliceAt.set (fun _ => 0) j i else q.sliceAt
      slices := q.slices.filter fun z => !gone z.addr
      order := q.order.filter fun z => !gone z.1 }
  if last then s2.takeEngines.tryDone c p else s2.startSlice c p j

/-- CHUNK_COMPLETE (R289, R294): an engine holds every contribution to a chunk owned here, in zero copy to the slice it is at: it
passes its residue checks, or fails them. -/
def State.completeChunk (s : State) (c : Nat) (p : Step) (j : Nat) (ok : Bool) : State :=
  let x := s.ctx c
  let e := x.entryOf p
  let g := x.groupOf p
  match p.holding.find? fun h => h.1 == j with
  | none => s
  | some h =>
    let sp := if h.2 then (x.sliceNow p j).getD (0, 0) else chunkSpan e g g.rank j
    if p.st ≠ .run ∨ !isReduceOp e ∨ !(ranksLacking (p.held j sp.1 sp.2) g.n (elemBytes e.dtype) sp.2).isEmpty then s
    else if ok then s.chunkPassed c p j h.2
    else s.residueFail c p j h.2

/-! Packets of a step as they are placed (R282, R283). -/

/-- The open steps a COLL packet is for (R282): by context handle, group and hash; on a tree, every other member's on this module,
by group and hash. A HASH that agrees with no step is for the oldest one of its group that lacks the sender's, so that R284 can
find it to differ (log 108). -/
def State.collTargets (s : State) (p : Pkt) : List (Nat × Step) :=
  let group := bits p.aux 8 6
  let rank := bits p.aux 0 8
  let hit (c : Nat) : Option (Nat × Step) :=
    let x := s.ctx c
    (x.steps.find? fun q => (x.entryOf q).group == group && q.hash.toNat % 2 ^ 32 == p.seq).map fun q => (c, q)
  if p.dst = 0xFFFF then (s.ctxList.filterMap hit).filter fun h => ((s.ctx h.1).groupOf h.2).rank != rank
  else
    match s.liveIn p.ctx with
    | none => []
    | some c =>
      let x := s.ctx c
      match hit c with
      | some h => [h]
      | none =>
        if p.tag % 2 ^ 8 ≠ 0x01 then []
        else (x.steps.find? fun q => (x.entryOf q).group == group && (q.st == .wait || q.st == .hash) &&
          !(q.hashes.any fun h => h.1 == rank)).toList.map fun q => (c, q)

/-- A COLL packet dropped and counted (R282). -/
def State.collDrop (s : State) (iod : Nat) : State := s.bump C.COLL_DROP_CNT iod

/-- The chunk owned here that an element belongs to. -/
def chunkAt (e : CollEntry) (g : Group) (a : Nat) : Option Nat :=
  (List.range (chunkCount e g g.rank)).find? fun j =>
    let sp := chunkSpan e g g.rank j
    decide (sp.1 ≤ a ∧ a < sp.1 + sp.2)

/-- A slice of DATA is of no more use: of an earlier pass, of a finished chunk or slice, or held already (R294). -/
def Ctx.dataStale (x : Ctx) (q : Step) (j : Nat) (p : Pkt) : Bool :=
  let pass := bits p.aux 14 2
  decide (pass < q.pass j) || q.finished.contains j ||
    (q.holding.contains (j, true) && ((x.sliceNow q j).map fun a => decide (p.addr < a.1)).getD true) ||
    q.slices.any fun z => z.rank == bits p.aux 0 8 && z.addr == p.addr && z.pass == pass

/-- It is a slice's turn at its engine (R289, R291, R295): its chunk is held and, in fixed order, every slice before it by address
and rank has been added; in zero copy it is of the slice the chunk is at, no more than 128 ranks ahead. One of no more use, or of
no chunk, is not kept waiting. -/
def State.dataTurn (s : State) (p : Pkt) : Bool :=
  match s.collTargets p with
  | [] => true
  | (c, q) :: _ =>
    let x := s.ctx c
    let e := x.entryOf q
    let g := x.groupOf q
    let rank := bits p.aux 0 8
    match chunkAt e g p.addr with
    | none => true
    | some j =>
      if x.dataStale q j p then true
      else
        match q.holding.find? fun h => h.1 == j with
        | none => q.st == .complete
        | some h =>
          let lacks (a : Nat × Nat) : Nat := addedRanks (q.heldAt (q.pass j) a.1 1) g.n
          if h.2 then (x.sliceNow q j).any fun a => a.1 == p.addr && decide (rank < lacks a + 128)
          else
            !fixedOrder e g ||
              ((chunkSlices e g g.rank j).find? fun a => decide (lacks a < g.n)).any fun a => a.1 == p.addr && lacks a == rank

/-- DATA placed: a slice is held once for its pass; in zero copy the ranks it lets follow are asked for theirs (R295). -/
def State.onData (s : State) (iod c : Nat) (q : Step) (p : Pkt) : State :=
  let x := s.ctx c
  let e := x.entryOf q
  let g := x.groupOf q
  match chunkAt e g p.addr with
  | none => s.collDrop iod
  | some j =>
    if x.dataStale q j p then s
    else
      let z : Slice := ⟨bits p.aux 14 2, bits p.aux 0 8, p.addr, p.payload⟩
      let s1 := s.modStep c q fun w => w.add z
      if q.holding.contains (j, true) then
        s1.pulls c q j p.addr (addedRanks (q.heldAt (q.pass j) p.addr 1) g.n + 128)
          (addedRanks ((q.add z).heldAt (q.pass j) p.addr 1) g.n + 128)
      else s1

/-- RESEND placed: the chunk is sent again in the pass given. -/
def State.onResend (s : State) (iod c : Nat) (q : Step) (p : Pkt) : State :=
  let x := s.ctx c
  let e := x.entryOf q
  let g := x.groupOf q
  let rank := bits p.aux 0 8
  match (List.range (chunkCount e g rank)).find? fun j => (chunkSpan e g rank j).1 == p.addr with
  | some j => if q.st = .run then s.sendChunk c q rank j (bits p.aux 14 2) else s
  | none => s.collDrop iod

/-- PULL placed: the slice asked for is sent. -/
def State.onPull (s : State) (iod c : Nat) (q : Step) (p : Pkt) : State :=
  let x := s.ctx c
  let e := x.entryOf q
  let g := x.groupOf q
  let rank := bits p.aux 0 8
  match ((List.range (chunkCount e g rank)).map fun j =>
      ((slicesOf (elemBytes e.dtype) (chunkSpan e g rank j).1 (chunkSpan e g rank j).2).find? fun a => a.1 == p.addr).map
        fun a => (j, a)).findSome? id with
  | some (j, a) =>
    if q.st = .run then s.sendStep c q (chunkDie g rank j) rank 0x03 (bits p.aux 14 2) a.1 0 (s.inputSlice x q a.1 a.2) else s
  | none => s.collDrop iod

/-- A COLL packet placed at one member. -/
def State.collOne (s : State) (iod c : Nat) (q : Step) (p : Pkt) : State :=
  let rank := bits p.aux 0 8
  let sub := p.tag % 2 ^ 8
  if sub = 0x01 then s.noteHash c q rank (BitVec.ofNat 64 (leNat (p.payload.take 8)))
  else if sub = 0x02 then s.onGo c q
  else if sub = 0x03 then s.onData iod c q p
  else if sub = 0x04 then (s.placeOut c q rank (p.addr % 2 ^ 40) (bits p.addr 40 8) p.payload).tryDone c q
  else if sub = 0x05 then s.onResend iod c q p
  else if sub = 0x06 then s.onPull iod c q p
  else if sub = 0x07 then s.noteDone c q rank
  else if sub = 0x08 then (if q.st = .run then s.modStep c q fun w => { w with st := .complete } else s)
  else if sub = 0x09 then s.failStep c q ((p.payload.getD 0 0).toNat) ((p.payload.getD 1 0).toNat)
  else s.collDrop iod

/-- A tree packet has reached a member whose generation is dead, a context torn down whose group has the sender at the root of the
tree: its step fails with MEMBER_FENCED naming that member (R297). A packet that names no context shows a dead generation by the
group alone, as long as the context has it (log 108). -/
def State.fencedMember (s : State) (c : Nat) (p : Pkt) : State :=
  match (s.ctx c).group (bits p.aux 8 6) with
  | none => s
  | some g =>
    let sender := bits p.aux 0 8
    if g.rank = sender ∨ (g.members.getD sender (0, 0, 0, 0)).2.2.2 ≠ bits p.tag 8 8 then s
    else s.abortAll c g (BitVec.ofNat 64 p.seq) 0x05 g.rank

/-- A COLL packet placed at its members; one that is for none is dropped (R282). -/
def State.collPlace (s : State) (iod : Nat) (p : Pkt) : State :=
  match s.collTargets p with
  | [] => (s.collDrop iod).when (p.dst == 0xFFFF && p.tag % 2 ^ 8 != 0x09) fun s =>
    s.each (s.ctxList.filter fun c => (s.ctx c).revoked) fun s c => s.fencedMember c p
  | l => l.foldl (fun s h => match (s.ctx h.1).stepOf h.2 with | some q => s.collOne iod h.1 q p | none => s) s

/-! Timeouts (R286, R297). -/

/-- Ranks of the members whose RESULT packets are not yet placed. -/
def State.unplacedAt (s : State) (x : Ctx) (p : Step) : List Nat :=
  let g := x.groupOf p
  (p.sent.filter fun w => !s.remoteDone w).filterMap fun w =>
    g.others.find? fun r => g.endpoint r 0 == w.dst || g.endpoint r 1 == w.dst

/-- The lowest rank a step awaits (R297); rank 0 when GO or FINISH is awaited, and this member where it awaits only its own
engines. -/
def State.awaited (s : State) (x : Ctx) (p : Step) : Nat :=
  let e := x.entryOf p
  let g := x.groupOf p
  if p.st = .hash then
    if g.rank = 0 then ((List.range g.n).find? fun r => !(p.hashes.any fun h => h.1 == r)).getD 0 else 0
  else if p.doneSent then
    if g.rank = 0 then ((List.range g.n).find? fun r => !p.dones.contains r).getD 0 else 0
  else
    let owed := p.holding.flatMap fun h =>
      let sp := if h.2 then (x.sliceNow p h.1).getD (0, 0) else chunkSpan e g g.rank h.1
      ranksLacking (p.held h.1 sp.1 sp.2) g.n (elemBytes e.dtype) sp.2
    ((owed ++ (s.missingFrom x p).filter (fun r => !isReduceOp e || r != g.rank) ++ s.unplacedAt x p).min?).getD g.rank

/-- COLL_STEP_TIMEOUT (R286): a step in HASH or RUN past its timeout in beats fails with TIMEOUT. -/
def execCollStepTimeout (c step : Nat) (s : State) : Host.Outcome State Fault Refusal :=
  guardUnit (decide (c < 1024)) <|
    let x := s.ctx c
    match x.steps[step]? with
    | none => s
    | some p =>
      let t := (x.entryOf p).timeout
      let limit := if t = 0 then max 1 (s.fget F.COLL_CFG_timeout) else t
      if (p.st = .hash ∨ p.st = .run) ∧ limit ≤ p.age then s.failStep c p 0x03 (s.awaited x p) else s

end Sys2Proof.Machine
end

