-- ==== Sys2Proof/Machine/Links.lean ====
section
/-! DEFINITION. Fabric ports and links (R221-R243): flits, replay and credits, training, the identity check, sealed mode
and lane faults. -/

namespace Sys2Proof.Machine

def portOk (p : Nat) : Bool := decide (p < 26)

/-- The I/O die that carries a port (R1). -/
def portDie (p : Nat) : Nat := if p < 12 ∨ p = 24 then 0 else 1

def State.port (s : State) (p : Nat) : Port := s.ports.get (fun _ => Port.reset) p
def State.setPort (s : State) (p : Nat) (x : Port) : State := { s with ports := s.ports.set (fun _ => Port.reset) p x }
def State.modPort (s : State) (p : Nat) (f : Port → Port) : State := s.setPort p (f (s.port p))

/-! State codes (R227). -/

def stOff : Nat := 0x0
def stDetect : Nat := 0x1
def stTrain : Nat := 0x2
def stIdentify : Nat := 0x3
def stLatency : Nat := 0x4
def stSeal : Nat := 0x5
def stActive : Nat := 0x6
def stAbsent : Nat := 0x7
def stQuarantine : Nat := 0x8
def stHeld : Nat := 0x9
def stRetrain : Nat := 0xA
def stRetired : Nat := 0xB
def stWaitPlan : Nat := 0xC

def State.portState (s : State) (p : Nat) : Nat := s.fget F.PORT_STATE_state p
def State.portLanes (s : State) (p : Nat) : Nat := s.fget F.PORT_STATE_lanes p
def State.portMode (s : State) (p : Nat) : Nat := s.fget F.PORT_CFG_mode p

def lanesIn (m : Nat) : Nat := ((List.range 4).filter fun i => m.testBit i).length

/-- A lane bit of PORT_LANE_STATE: byte l, bit b (R241). -/
def laneF (l b w : Nat) : Fld := ⟨Page.PORT, 0xA8, 8 * l + b, w⟩

/-- A lane the broke map holds as retired, changes waiting for it included (R409). -/
def State.laneRetired (s : State) (p l : Nat) : Bool :=
  let loc := p + l * 2 ^ 8
  let added := s.brokeDue.any fun c => match c with | .add e => e.kind == 2 && e.loc == loc | .remove .. => false
  let gone := s.brokeDue.any fun c => match c with | .add _ => false | .remove k x => k == 2 && x == loc
  added || (!gone && s.broke.any fun b => b.kind == 2 && b.loc == loc)

/-- A port the broke map holds as retired, changes waiting for it included (R235, R409). -/
def State.portRetired (s : State) (p : Nat) : Bool :=
  let added := s.brokeDue.any fun c => match c with | .add e => e.kind == 3 && e.loc == p | .remove .. => false
  let gone := s.brokeDue.any fun c => match c with | .add _ => false | .remove k x => k == 3 && x == p
  added || (!gone && s.broke.any fun b => b.kind == 3 && b.loc == p)

/-! The plan's entry of a port (R230). -/

def planUse (e : BitVec 128) : Nat := bits e.toNat 0 2
def planSealed (e : BitVec 128) : Bool := bits e.toNat 2 1 == 1
def planNet (e : BitVec 128) : Nat := bits e.toNat 3 1
def planSlot (e : BitVec 128) : Nat := bits e.toNat 8 6
def planRack (e : BitVec 128) : Nat := bits e.toNat 16 16
def planPort (e : BitVec 128) : Nat := bits e.toNat 32 5
def planSerial (e : BitVec 128) : Nat := bits e.toNat 64 64

def planEntry (pl : Plan) (p : Nat) : BitVec 128 := pl.ports.getD p 0

/-- The plan gives the port a use other than unused, or no plan is held (R227). -/
def State.portWanted (s : State) (p : Nat) : Bool :=
  match s.plan with
  | none => true
  | some pl => planUse (planEntry pl p) != 0

/-- A port sealed by its plan entry. -/
def State.portSealed (s : State) (p : Nat) : Bool :=
  match s.plan with
  | none => false
  | some pl => planSealed (planEntry pl p)

/-! Flits (R223, R224). -/

def fit (n : Nat) (l : List Byte) : List Byte := (l ++ List.replicate (n - l.length) 0).take n

def flitBytes (header : BitVec 64) (payload : List Byte) : List Byte := leBytes 8 header.toNat ++ payload

/-- A flit with its header and CRC. -/
def mkFlit (ftype seq ack : Nat) (ackValid nak : Bool) (vc : Nat) (first last : Bool) (credit : Nat) (payload : List Byte) :
    Flit :=
  let header := BitVec.ofNat 64 (ftype + seq * 2 ^ 4 + ack * 2 ^ 16 + (if ackValid then 2 ^ 28 else 0) +
    (if nak then 2 ^ 29 else 0) + vc * 2 ^ 32 + (if first then 2 ^ 35 else 0) + (if last then 2 ^ 36 else 0) + credit * 2 ^ 48)
  let p := fit 240 payload
  ⟨header, p, crc64 (flitBytes header p)⟩

/-- The credit field for the next channel whose limit is to be advertised (R258). -/
def Port.credit (x : Port) : Nat × List Nat :=
  match x.creditDue with
  | [] => (0, [])
  | v :: r => (1 + v * 2 + x.granted.get (fun _ => 0) v % 4096 * 2 ^ 4, r)

/-- The last flit received in order that this end acknowledges: of a sealed port's flits only those whose tag has verified,
so that the sender keeps a span that may have to be replayed (R225, R233; log 106). -/
def Port.ackSeq (x : Port) : Nat := (x.rxHeld.getD x.rxNext + 4095) % 4096

/-- Tags are sent and checked: in SEAL and ACTIVE, once there are keys (R233; log 106). -/
def State.sealing (s : State) (p : Nat) (key : List Byte) : Bool :=
  !key.isEmpty && (s.portState p == stSeal || s.portState p == stActive)

/-- Flits that may wait unacknowledged (R225). -/
def retryRoom : Nat := 1024

/-- The retry buffer has room for `n` more flits and, on a sealed port, the tags that fall due among them (R225, R233). -/
def State.retryFits (s : State) (p n : Nat) : Bool :=
  let x := s.port p
  decide (x.retry.length + n + (if s.sealing p x.keyTx then (x.txSpan.length + n) / 64 else 0) ≤ retryRoom)

/-- One flit sent: a flit other than an idle one takes a sequence number and is kept for replay (R223, R225). -/
def State.sendFlit (s : State) (p ftype vc : Nat) (first last nak : Bool) (payload : List Byte) (pkt : Option Queued) : State :=
  let x := s.port p
  let cr := if ftype ≤ 1 then x.credit else (0, x.creditDue)
  let f := mkFlit ftype x.txNext x.ackSeq x.rxAny nak vc first last cr.1 payload
  let x' := if ftype = 0 then { x with creditDue := cr.2 } else
    { x with
      txNext := (x.txNext + 1) % 4096
      retry := x.retry ++ [⟨x.txNext, f, pkt, 0⟩]
      creditDue := cr.2
      txSpan := if s.sealing p x.keyTx && ftype != 3 then x.txSpan ++ [f] else x.txSpan }
  (s.setPort p x').emit (.flit p f)

/-- The seal tag of the span sent so far (R233); the keys of a rekey apply from the next span. -/
def State.sendTag (s : State) (p : Nat) : State :=
  let x := s.port p
  let msg := (x.txSpan.map fun f => flitBytes f.header f.payload ++ leBytes 8 f.crc.toNat).flatten
  let s1 := s.sendFlit p 3 0 false false false (leBytes 8 x.txSpanNo ++ fit 8 (Config.sealTag x.keyTx x.txSpanNo msg)) none
  s1.modPort p fun y =>
    { y with
      txSpan := []
      txSpanNo := y.txSpanNo + 1
      keyTx := y.nextTx.getD y.keyTx
      nextTx := none }

/-- A flit sent, with the seal tag that follows every 64 flits of a sealed port (R233). -/
def State.send (s : State) (p ftype vc : Nat) (first last : Bool) (payload : List Byte) (pkt : Option Queued) : State :=
  let s1 := s.sendFlit p ftype vc first last false payload pkt
  if (s1.port p).txSpan.length = 64 then s1.sendTag p else s1

/-- An idle flit, carrying ack, nak and one credit limit. -/
def State.sendIdle (s : State) (p : Nat) (nak : Bool) : State := s.sendFlit p 0 0 false false nak [] none

/-- What waits goes out in its order while the retry buffer has room. A transmit key applies from the next span, the first
one at once, with the tag that opens SEAL (R233). -/
def State.pump (p : Nat) : List LinkCtl → State → State
  | [], s => s
  | c :: rest, s =>
    let opening := (s.port p).keyTx.isEmpty
    let fits := match c with
      | .flit _ => s.retryFits p 1
      | .key _ => !opening || s.retryFits p 1
    if !fits then s.modPort p fun x => { x with waitCtl := (c :: rest) ++ x.waitCtl }
    else
      match c with
      | .flit b => State.pump p rest (s.send p 2 0 false false b none)
      | .key k =>
        if opening then State.pump p rest ((s.modPort p fun x => { x with keyTx := k, txSpan := [] }).sendTag p)
        else State.pump p rest (s.modPort p fun x => { x with nextTx := some k })

def State.pumpCtl (s : State) (p : Nat) : State :=
  State.pump p (s.port p).waitCtl (s.modPort p fun x => { x with waitCtl := [] })

/-- Link control added behind what waits. -/
def State.pushCtl (s : State) (p : Nat) (c : LinkCtl) : State :=
  (s.modPort p fun x => { x with waitCtl := x.waitCtl ++ [c] }).pumpCtl p

/-- A link control flit (R224): ctype, and arguments from payload byte 8. -/
def State.sendCtl (s : State) (p ctype : Nat) (args : List Byte) : State := s.pushCtl p (.flit (leBytes 8 ctype ++ args))

/-! Packets as flits (R248, R250). -/

/-- A packet's header. A READ or WRITE packet on the escape channel carries its own channel in aux[31:29] (the place is
the model's choice: R257 keeps the channel, R248 gives it no field). -/
def pktHeader (p : Pkt) : List Byte :=
  let aux := if p.esc && decide (1 ≤ p.op ∧ p.op ≤ 3) then p.aux % 2 ^ 29 + p.vc % 8 * 2 ^ 29 else p.aux
  leBytes 2 p.dst ++ leBytes 2 p.src ++
    leBytes 4 (p.op % 256 + (if p.flagged then 2 ^ 8 else 0) + (if p.esc then 2 ^ 9 else 0) + (if p.circ then 2 ^ 10 else 0) +
      p.hops % 256 * 2 ^ 12 + p.payload.length % 4096 * 2 ^ 20) ++
    leBytes 8 (p.addr % 2 ^ 48 + p.circuit % 256 * 2 ^ 48 + p.epoch % 256 * 2 ^ 56) ++
    leBytes 2 p.ctx ++ leBytes 2 p.tag ++ leBytes 4 p.seq ++ leBytes 4 p.pairSeq ++ leBytes 4 aux

/-- The packet that the bytes received on a channel hold. -/
def parsePkt (ch : Nat) (b : List Byte) : Pkt where
  vc :=
    if ch ≠ 7 then ch
    else
      let op := fieldAt b 4 0 8
      if 1 ≤ op ∧ op ≤ 3 then fieldAt b 0x1C 29 3
      else if op = 0x04 ∨ op = 0x05 then 3
      else if op = 0x06 then 0
      else if op = 0x07 ∨ op = 0x08 then 2
      else 4
  dst := fieldAt b 0 0 16
  src := fieldAt b 0 16 16
  op := fieldAt b 4 0 8
  flagged := fieldAt b 4 8 1 == 1
  esc := fieldAt b 4 9 1 == 1
  circ := fieldAt b 4 10 1 == 1
  hops := fieldAt b 4 12 8
  addr := fieldAt b 8 0 48
  circuit := fieldAt b 8 48 8
  epoch := fieldAt b 8 56 8
  ctx := fieldAt b 0x10 0 16
  tag := fieldAt b 0x10 16 16
  seq := fieldAt b 0x14 0 32
  pairSeq := fieldAt b 0x18 0 32
  aux := fieldAt b 0x1C 0 (if ch = 7 ∧ 1 ≤ fieldAt b 4 0 8 ∧ fieldAt b 4 0 8 ≤ 3 then 29 else 32)
  payload := (b.drop 32).take (fieldAt b 4 20 12)

/-- The channel a packet travels on: its own, or the escape channel (R257). -/
def pktChannel (p : Pkt) : Nat := if p.esc then 7 else p.vc

/-- A whole packet sent on a port as its flits (R248, R250). -/
def State.sendPkt (s : State) (port : Nat) (q : Queued) (out : Pkt) : State :=
  let b := pktHeader out ++ out.payload
  let n := pktFlits out
  let s1 := (List.range n).foldl (fun s i =>
    s.send port 1 (pktChannel out) (i == 0) (i + 1 == n) ((b.drop (240 * i)).take 240) (if i + 1 = n then some q else none)) s
  let s2 := s1.modPort port fun x =>
    { x with sent := x.sent.set (fun _ => 0) (pktChannel out) (x.sent.get (fun _ => 0) (pktChannel out) + n) }
  s2.modRouter (portDie port) fun r => { r with used := r.used.set (fun _ => 0) port (r.used.get (fun _ => 0) port + n) }

/-- Flits queued in a router. -/
def Router.queued (r : Router) (f : Queued → Bool) : Nat := ((r.queue.filter f).map fun q => pktFlits q.p).foldl (· + ·) 0

/-- Ports of an I/O die (R1). -/
def diePorts (iod : Nat) : List Nat := (List.range 26).filter fun p => portDie p == iod

/-- Flit buffers of the pool in use (R264, R265, R270): packets queued, packets received in part, packets sent of which a flit is
unacknowledged, and packets accepted and not yet placed. -/
def State.poolUsed (s : State) (iod : Nat) : Nat :=
  let r := s.router iod
  let held := r.rx.flatMap fun p => p.chans.flatMap fun c => c.held.map fun h => pktFlits h.p
  let ports := (diePorts iod).flatMap fun p =>
    ((s.port p).partials.map fun e => ceilDiv e.2.length 240) ++ (s.port p).retry.filterMap fun t => t.pkt.map fun q => pktFlits q.p
  (r.queued fun _ => true) + (held ++ ports).foldl (· + ·) 0

/-- Free pool in 4 KiB units of 16 flits (R264, R270). -/
def State.poolFree (s : State) (iod : Nat) : Nat := 0x4000 - ceilDiv (s.poolUsed iod) 16

/-- The least free pool of the interval (R267). -/
def State.notePool (s : State) (iod : Nat) : State :=
  s.modRouter iod fun r => { r with poolMin := min r.poolMin (s.poolFree iod) }

/-- A packet at the end of a router's queue, with the most flits queued on its port and channel (R267). -/
def State.enqueue (s : State) (iod : Nat) (q : Queued) : State :=
  let s1 := s.modRouter iod fun r =>
    let r' := { r with queue := r.queue ++ [q] }
    match q.port with
    | none => r'
    | some p =>
      let k := p * 8 + q.ch
      let n := r'.queued fun x => x.port == some p && x.ch == q.ch
      { r' with occ := r'.occ.set (fun _ => 0) k (max n (r'.occ.get (fun _ => 0) k)) }
  s1.notePool iod

/-- A packet as it comes to a queue. -/
def Queued.new (port : Option Nat) (ch : Nat) (p : Pkt) : Queued := ⟨port, ch, p, none, false, none⟩

/-- Credit for `n` more flits on a channel (R258). -/
def Port.credits (x : Port) (vc n : Nat) : Bool :=
  decide ((x.limit.get (fun _ => 0) vc + 4096 - (x.sent.get (fun _ => 0) vc + n) % 4096) % 4096 < 2048)

/-- The channels that credits are granted on (R258, R264). -/
def creditChannels : List Nat := [0, 1, 2, 3, 4, 7]

/-- Flits that the receiver has promised a channel and not got back (R258, R264). -/
def Port.promised (x : Port) (v : Nat) : Nat := x.granted.get (fun _ => 0) v - x.freed.get (fun _ => 0) v

/-- What a port has promised, each channel but `v` counted with at least its 32 flits. -/
def Port.promisedBut (x : Port) (v : Nat) : Nat :=
  ((creditChannels.filter (· != v)).map fun u => max 32 (x.promised u)).foldl (· + ·) 0

/-- Ports of a die that have a floor: fitted, in Gealmub use (R264). -/
def State.floorPorts (s : State) (iod : Nat) : List Nat :=
  (diePorts iod).filter fun p => s.portFitted p && s.portMode p == 0

/-- Flits that a port may promise in all: its floor of 1,024 and what the other ports leave of the shared space, at most 8,192
(R264). -/
def State.portShare (s : State) (p : Nat) : Nat :=
  let iod := portDie p
  let ports := s.floorPorts iod
  let shared := 262144 - s.fget F.ROUTE_POOL_eject iod * 16 - 1024 * ports.length
  let taken := ((ports.filter (· != p)).map fun u => (creditChannels.map (s.port u).promised).foldl (· + ·) 0 - 1024).foldl (· + ·) 0
  min 8192 (1024 + (shared - taken))

/-- A limit advertised for a channel, which never falls (R258, R264): what has come free, and as much of the room that R264 leaves
the channel as the receiver grants, a free value (log 54). `floor` as the link becomes ACTIVE: a part of the port's floor. -/
def State.grant (s : State) (p vc : Nat) (floor : Bool) : State :=
  let (k, s1) := s.free
  let x := s.port p
  let w := (Config.freeWord k).toNat
  let room := if floor then 32 + w % 139 else max 32 (min (min 2048 (s.portShare p - x.promisedBut vc)) (32 + w % 2017))
  let lim := min (x.taken.get (fun _ => 0) vc + 2048) (x.freed.get (fun _ => 0) vc + room)
  s1.modPort p fun x =>
    if x.granted.get (fun _ => 0) vc < lim then
      { x with granted := x.granted.set (fun _ => 0) vc lim, creditDue := x.creditDue.filter (· != vc) ++ [vc] }
    else x

/-- Buffers of a packet that came in on a port return to that port's credit (R265). -/
def State.release (s : State) (q : Queued) : State :=
  match q.port with
  | none => s
  | some p =>
    if s.portActive p then
      let n := pktFlits q.p
      let v := q.ch
      ((s.modPort p fun x => { x with freed := x.freed.set (fun _ => 0) v (x.freed.get (fun _ => 0) v + n) }).grant p v false).sendIdle p
        false
    else s

/-! States of a port. -/

/-- The deckles a port's events are attributed to. -/
def State.raisePort (s : State) (e : Ev) (p : Nat) : State := s.raiseTo e (s.ownersOfPort p) p

/-! Where a packet goes (R246, R247, R255-R257, R296). -/

def routeValid (e : BitVec 32) : Bool := bits e.toNat 0 1 == 1
def routeKind (e : BitVec 32) : Nat := bits e.toNat 1 2
def routeA (e : BitVec 32) : Nat := bits e.toNat 3 5
def routeB (e : BitVec 32) : Nat := bits e.toNat 8 5
def routeSpread (e : BitVec 32) : Bool := bits e.toNat 13 1 == 1
def routeCircuit (e : BitVec 32) : Nat := bits e.toNat 14 8

def State.route (s : State) (iod dst : Nat) : BitVec 32 := (s.router iod).routes.get (fun _ => 0) dst

/-- Channels 0-3 in strict mode as ROUTE_CFG.strict shows; the others are strict (R261). -/
def State.strict (s : State) (iod vc : Nat) : Bool := decide (4 ≤ vc) || (s.fget F.ROUTE_CFG_strict iod).testBit vc

/-- The entry a packet uses (R246). -/
def State.entryOf (s : State) (iod : Nat) (q : Queued) : BitVec 32 := q.entry.getD (s.route iod q.p.dst)

/-- Credit left on a port for a channel. -/
def Port.creditLeft (x : Port) (vc : Nat) : Nat :=
  (x.limit.get (fun _ => 0) vc + 4096 - x.sent.get (fun _ => 0) vc % 4096) % 4096

/-- A packet with the circuit its source's entry names for VC0 and VC1 traffic, unless it has been demoted (R255). -/
def State.withCircuit (s : State) (iod : Nat) (q : Queued) : Pkt :=
  let c := routeCircuit (s.entryOf iod q)
  if q.port.isNone ∧ q.p.src = s.endpoint iod ∧ q.p.vc ≤ 1 ∧ c ≠ 0 ∧ !q.demoted then { q.p with circ := true, circuit := c } else q.p

/-- What becomes of a packet at the head of its queue. -/
inductive Hop
  | limit
  | unreachable
  | eject
  | cross
  | tree
  | ring
  /-- by a port, as the packet given; demoted from circuit to packet mode or not (R255) -/
  | out (port : Nat) (p : Pkt) (demoted : Bool)
  /-- to the escape channel at once, neither port of the entry being ACTIVE -/
  | escape (p : Pkt) (demoted : Bool)
deriving DecidableEq, Repr

/-- The ports R247 allows a packet-mode packet of an entry: port_a, and port_b too with spread for an unflagged or a strict-mode
packet; port_b alone while port_a is not ACTIVE. -/
def State.allowed (s : State) (iod : Nat) (e : BitVec 32) (p : Pkt) : List Nat :=
  let b := if s.portActive (routeB e) then [routeB e] else []
  if s.portActive (routeA e) then routeA e :: (if routeSpread e && (!p.flagged || s.strict iod p.vc) then b else []) else b

/-- The choice of an output (R247, R255, R256, R266, R296). -/
def State.hop (s : State) (iod : Nat) (q : Queued) : Hop :=
  let p := q.p
  let e := s.entryOf iod q
  if 255 ≤ p.hops then .limit
  else if p.dst = 0xFFFF then .tree
  else if p.esc then (if p.dst = s.endpoint iod then .eject else .ring)
  else if !routeValid e then .unreachable
  else if routeKind e = 0 then .eject
  else if routeKind e = 2 then .cross
  else
    let p1 := s.withCircuit iod q
    let a := routeA e
    if p1.circ && s.portActive a then .out a p1 false
    else
      let p2 := { p1 with circ := false, circuit := 0 }
      match s.allowed iod e p2 with
      | [] => .escape p2 p1.circ
      | [i] => .out i p2 p1.circ
      | i :: j :: _ => .out (if (s.port i).creditLeft p.vc < (s.port j).creditLeft p.vc then j else i) p2 p1.circ

/-- A packet in a port's retry buffer as it is routed again (R265): in full, a tree packet on the branch that was lost. -/
def Queued.again (q : Queued) (p : Nat) : Queued :=
  { q with entry := none, branches := if q.p.dst = 0xFFFF then some [p] else none }

/-- A port that leaves ACTIVE (R265): packets with a flit unacknowledged are routed again, and so are those queued for it, each
counted; packets received in part are dropped. -/
def State.leaveActive (s : State) (p : Nat) : State :=
  let x := s.port p
  let iod := portDie p
  let again := x.retry.filterMap fun t => t.pkt.map fun q => q.again p
  let waits (q : Queued) : Bool := match s.hop iod q with | .out i _ _ => i == p | _ => false
  let queued := ((s.router iod).queue.filter waits).length
  let s1 := s.modRouter iod fun r =>
    { r with queue := again ++ r.queue.map fun q => if waits q then { q with entry := none } else q }
  let s2 := s1.bumpBy C.ROUTE_REROUTE_CNT (again.length + queued) iod
  let s3 := s2.when (decide (0 < again.length + queued)) (·.raise E.ROUTE_reroute iod)
  s3.modPort p fun x => { x with retry := [], waitCtl := [], partials := [], dropping := [] }

/-- Whether training still holds the port lock of a retrain (R424). -/
def training (st : Nat) : Bool := decide (1 ≤ st ∧ st ≤ 5)

/-- A port enters a state, with the status code of a hold (R227). -/
def State.portTo (s : State) (p st cause : Nat) : State :=
  let old := s.portState p
  let s1 := s.when (old == stActive && st != stActive) fun s =>
    ((s.leaveActive p).fset F.PORT_VER_running 0 p).fset F.PORT_STATE_seal_on 0 p
  let s2 := (s1.fset F.PORT_STATE_state st p).fset F.PORT_STATE_cause cause p
  let s3 := s2.when (old != st) (·.raisePort E.PORT_state_change p)
  s3.when (!training st) (·.freeLock 2 p)

/-- What a port forgets as it trains afresh; sequence numbers start again at 0 (the model's choice: the spec does not
say). -/
def Port.fresh' (x : Port) : Port :=
  { Port.reset with
    exhausted := x.exhausted, losses := x.losses, clearing := x.clearing, mdioAddr := x.mdioAddr, proposals := x.proposals
    peerHold := x.peerHold, frames := x.frames, paused := x.paused, ethHeld := x.ethHeld }

/-- DETECT (R227): lanes are not locked. -/
def State.toDetect (s : State) (p : Nat) : State :=
  let s1 := (s.portTo p stDetect 0).modPort p Port.fresh'
  (List.range 4).foldl (fun s l => s.fset (laneF l 0 1) 0 p) (s1.fset F.PORT_STATE_lanes 0 p)

/-- A port leaves OFF: for DETECT, or for RETIRED where the broke map holds it, which only a retrain with clear_retired ends
(R227, R236; log 106). -/
def State.portStart (s : State) (p : Nat) : State := if s.portRetired p then s.portTo p stRetired 0 else s.toDetect p

/-- OFF (R227). -/
def State.toOff (s : State) (p : Nat) : State :=
  let s1 := (s.portTo p stOff 0).modPort p Port.fresh'
  (List.range 4).foldl (fun s l => s.fset (laneF l 0 1) 0 p) (s1.fset F.PORT_STATE_lanes 0 p)

/-- A port may leave OFF (R227): enabled, IO_EN high, REFCLK not bypassed (R365). -/
def State.portEnabled (s : State) (p : Nat) : Bool :=
  s.portFitted p && s.flag F.PORT_CFG_enable p && s.flag F.MGT_RAILS_io && !s.flag F.CLKCTL_ROOT_bypass

/-- The record of a fault of a port (R354). -/
def State.portRec (s : State) (p lane status rack slot port : Nat) : State :=
  let d := (s.ownersOfPort p).headD 0x1F
  s.logFault (Page.PORT + p) (s.faultRec (Page.PORT + p) status d 0x08 0
    (p + lane * 2 ^ 8 + rack % 2 ^ 16 * 2 ^ 16 + slot % 64 * 2 ^ 32 + port % 32 * 2 ^ 38))

/-- A hold or quarantine (R231): the event, the HOLD flit, the Duntus port event and the fault record. -/
def State.hold (s : State) (p st status rack slot port : Nat) : State :=
  let e := match s.plan with | some pl => planEntry pl p | none => 0
  let s1 := (s.portTo p st status).raisePort E.PORT_hold p
  let s2 := s1.when (s.portMode p == 0) (·.sendCtl p 6 (leBytes 4 status ++ leBytes 4 (s1.reg 0 (Page.PORT + p) 0x9C)))
  let s3 := s2.duntusEvent 0x32 (leBytes 1 p ++ leBytes 1 status ++ leBytes 1 (planSlot e) ++ leBytes 1 (planPort e) ++
    leBytes 2 rack ++ leBytes 1 slot ++ leBytes 1 port)
  s3.when (status != 0) (·.portRec p 0xF status rack slot port)

/-- A wrong partner (R230, R231): PORT_MISWIRE and its event. -/
def State.noteMiswire (s : State) (p slot port : Nat) : State :=
  let e := match s.plan with | some pl => planEntry pl p | none => 0
  (s.setReg 0 (Page.PORT + p) 0x9C
    (planSlot e + planPort e * 2 ^ 6 + slot % 64 * 2 ^ 16 + port % 32 * 2 ^ 22 + 2 ^ 31)).raisePort E.PORT_miswire p

/-! Identity sets (R228, R229). -/

/-- An identity record of this module (R228). -/
def State.idRecord (s : State) (i : Nat) : List Byte :=
  if !s.portFitted i then leBytes 4 0 ++ leBytes 4 (i * 2 ^ 22) ++ List.replicate 56 0
  else
    let rack := match s.plan with | some pl => pl.rack | none => 0xFFFF
    let slot := match s.plan with | some pl => pl.slot | none => 0x3F
    let job := match s.plan with | some pl => fit 32 pl.jobHash | none => List.replicate 32 0
    let seq := match s.plan with | some pl => pl.planSeq | none => 0
    leBytes 4 (0x01 + s.fget F.PORT_VER_own i * 2 ^ 16) ++ leBytes 4 (rack % 2 ^ 16 + slot % 64 * 2 ^ 16 + i * 2 ^ 22) ++
      leBytes 8 Config.serial.toNat ++ job ++ leBytes 4 (if s.portSealed i then 1 else 0) ++ leBytes 4 seq ++ List.replicate 8 0

def setLength : Nat := 63008

/-- The identity set of the module as it stands, with the decapsulation key of the fresh pair (R229). -/
def State.signedSet (s : State) (ctr : Nat) : Ident :=
  let k := Config.mlkemKeys ctr
  let body := leBytes 4 0x01 ++ leBytes 4 setLength ++ List.replicate 56 0 ++ ((List.range 26).map s.idRecord).flatten ++ fit 1568 k.1
  ⟨body ++ fit 29792 (Config.slhSign Config.watermark body) ++ fit 29920 Config.certificate, k.2, s.plan.map (·.planSeq)⟩

/-- The set sent in ID_SEG flits: offset, length, up to 226 bytes each (R224, R229). -/
def State.sendSet (s : State) (p : Nat) : State :=
  let b := s.ident.set
  (List.range (ceilDiv b.length 226)).foldl (fun s i =>
    let seg := (b.drop (226 * i)).take 226
    s.sendCtl p 1 (leBytes 4 (226 * i) ++ leBytes 2 seg.length ++ seg)) s

/-- The set signed last is that of the plan now held. -/
def State.identCurrent (s : State) : Bool := !s.ident.set.isEmpty && s.ident.plan == s.plan.map (·.planSeq)

/-- IDENTIFY (R227): the module's set is sent once one is signed for the plan held; in S7 use its hello is (R239). -/
def State.toIdentify (s : State) (p : Nat) : State :=
  let s0 := (s.portTo p stIdentify 0).modPort p fun x => { x with idBuf := [] }
  let s1 := s0.when (s0.portMode p == 2) (·.emit (.s7Hello p Config.serial.toNat p))
  s1.when (s1.identCurrent && s1.portMode p == 0) (·.sendSet p)

/-- IDENTITY_SET_SIGN (R229): a new set, with a fresh key pair; ports in IDENTIFY send it. -/
def execIdentitySetSign (s : State) : Host.Outcome State Fault Refusal :=
  let (k, s1) := s.free
  let s2 := { s1 with ident := s1.signedSet k }
  .next <| (List.range 26).foldl (fun s p =>
    s.when (s.portFitted p && s.portState p == stIdentify && s.portMode p == 0) (·.sendSet p)) s2

/-! The check of a set (R228-R230, R237, R460). -/

/-- A certificate verifies: a module's under a Kenkiys root, a bridge's under a root or the owner's key. -/
def State.certOk (s : State) (c : List Byte) (bridge : Bool) : Bool :=
  let kind := fieldAt c 0 8 8
  let root := fieldAt c 0 16 8
  let key := if root = 0xFF then (if s.nvm.keys.enrolled then some s.nvm.keys.owner else none) else Config.rootKey root
  let form := c.length == 29920 && fieldAt c 0 0 8 == 1 && fieldAt c 4 0 32 == 29920 && fieldAt c 0x10 16 16 == 0 &&
    fieldAt c 0x18 0 64 == 0 && ((c.drop 0x60).take 32).all (· == 0)
  let kinds := if kind = 1 then decide (root ≤ 1) else bridge && ((kind == 2 && root == 0xFF) || (kind == 3 && decide (root ≤ 1)))
  form && kinds && (match key with | some k => Config.slhVerify k (c.take 0x80) (c.drop 0x80) | none => false)

def recordOf (set : List Byte) (port : Nat) : List Byte := (set.drop (64 + 64 * port)).take 64

/-- Signature, certificate and record format of a set (rule 1 of R230); the partner of a storage port may hold a bridge's
certificate (R237). -/
def State.setOk (s : State) (p : Nat) (set : List Byte) (sender : Nat) : Bool :=
  let cert := set.drop 33088
  let r := recordOf set sender
  set.length == setLength && fieldAt set 0 0 8 == 1 && fieldAt set 4 0 32 == setLength && s.certOk cert (decide (24 ≤ p)) &&
    Config.slhVerify ((cert.drop 0x20).take 64) (set.take 3296) ((set.drop 3296).take 29792) &&
    fieldAt r 0 0 8 == 1 && fieldAt r 0 8 8 == 0 && fieldAt r 4 22 5 == sender && fieldAt r 4 27 5 == 0 && fieldAt r 0x30 1 31 == 0 &&
    fieldAt r 0x38 0 64 == 0

/-- Outcomes of the check (R230). -/
inductive Check
  | held (status : Nat)
  | quarantine
  | waitPlan
  | accept (ver : Nat)
deriving DecidableEq, Repr

/-- The rules of R230 in order. -/
def State.check (s : State) (p : Nat) (set : List Byte) (sender : Nat) : Check :=
  let r := recordOf set sender
  let ver := fieldAt r 0 16 16
  let own := s.fget F.PORT_VER_own p
  let rack := fieldAt r 4 0 16
  let slot := fieldAt r 4 16 6
  if !s.setOk p set sender then .held 0x08
  else if own + 2 < ver ∨ ver + 2 < own then .held 0x11
  else
    match s.plan with
    | none => .waitPlan
    | some pl =>
      let e := planEntry pl p
      let known := pl.ports.any fun x => planUse x != 0 && planRack x == rack && planSlot x == slot
      if planUse e = 0 ∨ rack ≠ pl.rack ∨ !known then .quarantine
      else if planSerial e ≠ 0 ∧ planSerial e ≠ fieldAt r 8 0 64 then .quarantine
      else if slot ≠ planSlot e ∨ sender ≠ planPort e then .held 0x10
      else if (r.drop 0x10).take 32 ≠ fit 32 pl.jobHash ∨ fieldAt r 0x34 0 32 ≠ pl.planSeq then .held 0x06
      else if (fieldAt r 0x30 0 1 == 1) ≠ planSealed e then .held 0x06
      else .accept (min own ver)

/-- Echo requests of a latency measurement (R232); the timestamp sent is the FAB clock's, a free value. -/
def State.measure (s : State) (p : Nat) : State :=
  let s1 := s.modPort p fun x => { x with echoes := 0, best := none, fresh := false }
  (List.range 256).foldl (fun s _ =>
    let (k, s1) := s.free
    s1.sendCtl p 2 (leBytes 1 1 ++ leBytes 8 (Config.freeWord k).toNat ++ leBytes 2 0)) s1

/-- ACTIVE (R227, R258, R264): credits, which started at 0 as the port trained, and the floors advertised. -/
def State.toActive (s : State) (p : Nat) : State :=
  let x := s.port p
  let peer := fieldAt (recordOf x.accepted x.partner) 0 16 16
  let s1 := (s.portTo p stActive 0).modPort p fun x =>
    { x with relock := [], degraded := false }
  if s.portMode p ≠ 0 then s1
  else
    let s2 := s1.fset F.PORT_VER_running (min (s.fget F.PORT_VER_own p) peer) p
    let s3 := s2.fset F.PORT_STATE_seal_on (if s.portSealed p then 1 else 0) p
    creditChannels.foldl (fun s v => (s.grant p v true).sendIdle p false) s3

/-- The shared secret's two keys: that of the lower serial's direction and the other (R233). -/
def sealKeys (ss : List Byte) : List Byte × List Byte := (fit 32 (Config.kmac256 ss [] 32 1), fit 32 (Config.kmac256 ss [] 32 2))

/-- This end has the lower serial (R233). -/
def State.lower (s : State) (p : Nat) : Bool := decide (Config.serial.toNat < s.fget F.PORT_PARTNER_SN_serial p)

/-- The lower-serial end encapsulates to the partner's key and sends the ciphertext, and behind it its own key applies; the key
of the partner's direction. -/
def State.encapsulate (s : State) (p : Nat) : List Byte × State :=
  let (k, s1) := s.free
  let r := Config.mlkemEncaps (((s.port p).accepted.drop 1728).take 1568) k
  let ct := fit 1568 r.1
  let k := sealKeys r.2
  (k.2, ((List.range 7).foldl (fun s i => s.sendCtl p 5 (leBytes 8 0 ++ (ct.drop (224 * i)).take 224)) s1).pushCtl p (.key k.1))

/-- SEAL (R233). -/
def State.toSeal (s : State) (p : Nat) : State :=
  let s1 := (s.portTo p stSeal 0).modPort p fun x =>
    { x with ct := [], keyTx := [], keyRx := [], txSpan := [], rxSpan := [], rxHeld := none, txSpanNo := 0, rxSpanNo := 0 }
  if s1.lower p then
    let (k, s2) := s1.encapsulate p
    s2.modPort p fun x => { x with keyRx := k }
  else s1

/-- After LATENCY (R227). -/
def State.afterLatency (s : State) (p : Nat) : State := if s.portSealed p then s.toSeal p else s.toActive p

/-- The check of a whole set and its outcome (R230, R231). -/
def State.checked (s : State) (p : Nat) (set : List Byte) (sender : Nat) : State :=
  let r := recordOf set sender
  let rack := fieldAt r 4 0 16
  let slot := fieldAt r 4 16 6
  let ok := s.setOk p set sender
  let s1 := s.when ok fun s =>
    (s.fset F.PORT_PARTNER_SN_serial (fieldAt r 8 0 64) p).setReg 0 (Page.PORT + p) 0x98 (rack + slot * 2 ^ 16 + sender % 32 * 2 ^ 22)
  let s2 := s1.modPort p fun x => { x with idBuf := [] }
  match s.check p set sender with
  | .held st =>
    let s3 := s2.bump C.PORT_ID_REJECT_CNT p
    let s4 := s3.when (st == 0x10) (·.noteMiswire p slot sender)
    s4.hold p stHeld st rack slot sender
  | .quarantine => (s2.bump C.PORT_ID_REJECT_CNT p).hold p stQuarantine 0 rack slot sender
  | .waitPlan => (s2.modPort p fun x => { x with accepted := set, partner := sender }).portTo p stWaitPlan 0
  | .accept _ =>
    let s3 := (s2.modPort p fun x => { x with accepted := set, partner := sender }).portTo p stLatency 0
    s3.measure p

/-! Training events (R227). -/

/-- SIGNAL_DETECT: signal on at least 2 lanes. -/
def execSignalDetect (port : Nat) (lanes : BitVec 4) (s : State) : Host.Outcome State Fault Refusal :=
  guardUnit (portOk port && s.portFitted port) <|
    if s.portState port = stDetect ∧ 2 ≤ lanesIn lanes.toNat ∧ s.portMode port ≠ 1 then s.portTo port stTrain 0 else s

/-- SIGNAL_LOSS. -/
def execSignalLoss (port : Nat) (s : State) : Host.Outcome State Fault Refusal :=
  guardUnit (portOk port && s.portFitted port) <|
    let st := s.portState port
    if st = stOff ∨ st = stAbsent ∨ st = stRetired ∨ st = stDetect then s else s.toDetect port

/-- DETECT_TIMEOUT: no signal within 100 ms. An unused port stays in DETECT (R221). -/
def execDetectTimeout (port : Nat) (s : State) : Host.Outcome State Fault Refusal :=
  guardUnit (portOk port && s.portFitted port) <|
    if s.portState port = stDetect ∧ s.portWanted port ∧ s.portMode port ≠ 1 then s.portTo port stAbsent 0 else s

/-- LANES_LOCKED: at least 2 lanes with CDR and FEC lock; the others are not locked. A retired lane takes no part
unless the retrain brings it back, and then it leaves the broke map (R236). -/
def execLanesLocked (port : Nat) (lanes inverted : BitVec 4) (reversed : Bool) (s : State) : Host.Outcome State Fault Refusal :=
  guardUnit (portOk port && s.portFitted port) <|
    let clearing := (s.port port).clearing
    let ok := (List.range 4).filter fun l => lanes.getLsbD l && (clearing || !s.laneRetired port l)
    if s.portState port ≠ stTrain ∨ ok.length < 2 then s
    else
      let s1 := (List.range 4).foldl (fun s l =>
        let s1 := s.fset (laneF l 0 1) (if ok.contains l then 1 else 0) port
        let s2 := s1.fset (laneF l 2 1) (if inverted.getLsbD l then 1 else 0) port
        let s3 := s2.fset (laneF l 3 2) (if reversed then 3 - l else l) port
        if clearing && ok.contains l && s.laneRetired port l then
          { s3 with brokeDue := s3.brokeDue ++ [.remove 0x2 (port + l * 2 ^ 8)] }
        else s3) s
      let back := clearing && s.broke.any fun b => b.kind == 3 && b.loc == port
      let s2 := if back then { s1 with brokeDue := s1.brokeDue ++ [.remove 0x3 port] } else s1
      let s3 := s2.fset F.PORT_STATE_lanes ((ok.map fun l => 2 ^ l).foldl (· + ·) 0) port
      (s3.modPort port fun x => { x with clearing := false }).toIdentify port

/-- PHY_TRAIN_TIMEOUT. -/
def execPhyTrainTimeout (port : Nat) (s : State) : Host.Outcome State Fault Refusal :=
  guardUnit (portOk port && s.portFitted port) <|
    if s.portState port = stTrain then s.portTo port stAbsent 0 else s

/-- IDENTIFY_TIMEOUT: no verified set within 300 ms. -/
def execIdentifyTimeout (port : Nat) (s : State) : Host.Outcome State Fault Refusal :=
  guardUnit (portOk port && s.portFitted port) <|
    if s.portState port = stIdentify ∧ s.portMode port = 0 then
      (s.bump C.PORT_ID_REJECT_CNT port).hold port stHeld 0x08 0 0 0
    else s

/-- SEAL_TIMEOUT: key agreement not complete within 100 ms. -/
def execSealTimeout (port : Nat) (s : State) : Host.Outcome State Fault Refusal :=
  guardUnit (portOk port && s.portFitted port) <|
    if s.portState port = stSeal then s.hold port stHeld 0x08 0 0 0 else s

/-- RETRAIN_TIMEOUT: lock not regained within 5 ms. -/
def execRetrainTimeout (port : Nat) (s : State) : Host.Outcome State Fault Refusal :=
  guardUnit (portOk port && s.portFitted port) <|
    if s.portState port = stRetrain then s.toDetect port else s

/-- ABSENT_RETRY: every 1 s. -/
def execAbsentRetry (port : Nat) (s : State) : Host.Outcome State Fault Refusal :=
  guardUnit (portOk port && s.portFitted port) <|
    if s.portState port = stAbsent then s.toDetect port else s

/-- RETRAIN ends once every lane has lock again and the partner's whole set has come (R227): with the set accepted before,
from the same port, the link is ACTIVE and its latency measured again (R232); with another, the full check. -/
def State.retrained (s : State) (p : Nat) : State :=
  let x := s.port p
  if !x.relock.isEmpty ∨ x.idBuf.length < setLength then s
  else if x.idBuf = x.accepted ∧ x.idFrom = x.partner then ((s.modPort p fun x => { x with idBuf := [] }).toActive p).measure p
  else s.checked p x.idBuf x.idFrom

/-- ID_SEG (R224, R229, R230): a segment of the partner's set, in order; the whole set is checked. -/
def execIdSeg (port sender offset : Nat) (seg : List Byte) (s : State) : Host.Outcome State Fault Refusal :=
  guardUnit (portOk port && s.portFitted port) <|
    let st := s.portState port
    if (st ≠ stIdentify ∧ st ≠ stRetrain) ∨ s.portMode port ≠ 0 then s
    else
      let buf := (s.port port).idBuf
      let buf' := if offset = 0 then seg else if offset = buf.length then buf ++ seg else buf
      if st = stIdentify ∧ setLength ≤ buf'.length then s.checked port buf' sender
      else
        let s1 := s.modPort port fun x => { x with idBuf := buf', idFrom := sender }
        s1.when (st == stRetrain) (·.retrained port)

/-- ECHO (R232): a request is answered; a reply counts toward the measurement, whose 256th gives the latency, half the
smallest round trip less turnaround. -/
def execEcho (port : Nat) (request : Bool) (stamp turnaround now : Nat) (s : State) : Host.Outcome State Fault Refusal :=
  guardUnit (portOk port && s.portFitted port) <|
    let st := s.portState port
    if s.portMode port ≠ 0 ∨ st < stIdentify then s
    else if request then s.sendCtl port 2 (leBytes 1 0 ++ leBytes 8 stamp ++ leBytes 2 turnaround)
    else
      let x := s.port port
      if (st ≠ stLatency ∧ st ≠ stActive) ∨ x.fresh ∨ now < stamp + turnaround then s
      else
        let rtt := now - stamp - turnaround
        let best := match x.best with | some b => min b rtt | none => rtt
        if x.echoes + 1 < 256 then s.setPort port { x with echoes := x.echoes + 1, best := some best }
        else
          let s1 := (s.setPort port { x with echoes := 256, best := some best, fresh := true }).fset F.PORT_LATENCY_one_way
            (min 0xFFFF (best / 2)) port
          if st = stLatency then s1.afterLatency port else s1

/-- HOLD (R231): the partner's report is kept. -/
def execHold (port status : Nat) (miswire : BitVec 32) (s : State) : Host.Outcome State Fault Refusal :=
  guardUnit (portOk port && s.portFitted port) <|
    s.modPort port fun x => { x with peerHold := some (status, miswire.toNat) }

/-! Lanes (R234-R236). -/

/-- A port is retired (R235). -/
def State.retirePort (s : State) (p : Nat) : State :=
  if s.portState p = stRetired then s
  else
    let s1 := (s.portTo p stRetired 0).brokeAdd 0x3 p 0x12 true
    (s1.raisePort E.PORT_port_retired p).portRec p 0xF 0x12 0 0 0

/-- A width in force: the port's lanes, its latency measured again, circuits that no longer fit named once, and every
unacknowledged flit replayed (R232, R235, R255); a flit at its 8th replay is sent again here, as R235 asks (log 106). A width below 2 lanes retires the port. -/
def State.setWidth (s : State) (p mask : Nat) : State :=
  if lanesIn mask < 2 then s.retirePort p
  else
    let s1 := s.fset F.PORT_STATE_lanes mask p
    let slotted := (List.range 256).any fun k => (s1.router (portDie p)).slots.get (fun _ => 0) (p * 256 + k) != 0
    let s2 := s1.when (slotted && !(s1.port p).degraded) (·.raise E.ROUTE_circuit_degraded (portDie p))
    let x := s2.port p
    let s3 := s2.setPort p { x with
      width := none, degraded := x.degraded || slotted
      retry := x.retry.map fun t => { t with replays := min 8 (t.replays + 1) } }
    let s4 := x.retry.foldl (fun s t => s.emit (.flit p t.f)) (s3.bumpBy C.PORT_REPLAY_CNT x.retry.length p)
    s4.measure p

/-- A lane is retired (R234, R235): recorded, and the narrower width proposed to the partner. In S7 use, which has no
WIDTH flits, it leaves at once. -/
def State.retireLane (s : State) (p lane : Nat) : State :=
  let mask := match (s.port p).width with | some w => w.1 | none => s.portLanes p
  if !mask.testBit lane ∨ s.laneRetired p lane then s
  else
    let rest := mask - 2 ^ lane
    let s1 := (s.brokeAdd 0x2 (p + lane * 2 ^ 8) 0x12 true).raisePort E.PORT_lane_retired p
    let s2 := (s1.bump C.PORT_LANE_RETIRE_CNT p).portRec p lane 0x12 0 0 0
    let s3 := s2.modPort p fun x => { x with relock := x.relock.filter (· != lane) }
    if lanesIn rest < 2 then s3.retirePort p
    else if s3.portMode p = 2 then s3.fset F.PORT_STATE_lanes rest p
    else
      let n := (s3.port p).proposals % 256
      let s4 := s3.modPort p fun x => { x with width := some (rest, n), proposals := x.proposals + 1 }
      s4.sendCtl p 3 (leBytes 1 rest ++ leBytes 1 n ++ leBytes 1 0)

/-- WIDTH (R235, R240): a proposal is answered with the lanes that both ends still have, those this end is retiring left out,
and that is the width; an acceptance of the proposal made completes the exchange. -/
def execWidth (port : Nat) (mask : BitVec 4) (proposal : Nat) (accept : Bool) (s : State) : Host.Outcome State Fault Refusal :=
  guardUnit (portOk port && s.portFitted port) <|
    if !s.portActive port ∨ s.portMode port ≠ 0 then s
    else
      let x := s.port port
      let m := mask.toNat &&& (match x.width with | some w => w.1 | none => s.portLanes port)
      if accept then
        match x.width with
        | some w => if w.2 = proposal then s.setWidth port m else s
        | none => s
      else (s.sendCtl port 3 (leBytes 1 m ++ leBytes 1 proposal ++ leBytes 1 1)).setWidth port m

/-- RETRAIN (R227): every active lane is to lock again. The keys of a sealed port, the numbers of its spans and the set last
accepted are kept; its flits start afresh (log 106). -/
def State.toRetrain (s : State) (p : Nat) : State :=
  let x := s.port p
  let lanes := (List.range 4).filter fun l => (s.portLanes p).testBit l
  let s1 := lanes.foldl (fun s l => s.fset (laneF l 0 1) 0 p) (s.portTo p stRetrain 0)
  s1.setPort p { (x.fresh') with
    accepted := x.accepted, partner := x.partner, relock := lanes
    keyTx := x.nextTx.getD x.keyTx, keyRx := x.nextRx.getD x.keyRx
    txSpanNo := x.txSpanNo, rxSpanNo := x.rxSpanNo, rxSync := true }

/-- The active lane with the most uncorrectable codewords while the oldest unacknowledged flit was received, the lower on a
tie (R234). -/
def State.worstLane (s : State) (p : Nat) : Option Nat :=
  let n (l : Nat) := (s.port p).ucw.get (fun _ => 0) l
  ((List.range 4).filter fun l => (s.portLanes p).testBit l && decide (0 < n l)).foldl
    (fun b l => match b with | some k => if n k < n l then some l else some k | none => some l) none

/-- Replay is exhausted (R225, R234). -/
def State.replayExhausted (s : State) (p : Nat) : State :=
  let s1 := s.bump C.PORT_REPLAY_EXH_CNT p
  match s.worstLane p with
  | some l => s1.retireLane p l
  | none =>
    let soon := match (s.port p).exhausted with | some t => decide (s.ms - t ≤ 10000) | none => false
    if soon then s1.retirePort p
    else (s1.modPort p fun x => { x with exhausted := some s.ms }).toRetrain p

/-- The flits not acknowledged are sent again (R225): each counts a replay; the ninth failure of a flit exhausts it. -/
def State.replay (s : State) (p : Nat) : State :=
  let x := s.port p
  match x.retry with
  | [] => s
  | t :: _ =>
    if 8 ≤ t.replays then s.replayExhausted p
    else
      let s1 := s.setPort p { x with retry := x.retry.map fun t => { t with replays := t.replays + 1 } }
      x.retry.foldl (fun s t => s.emit (.flit p t.f)) (s1.bumpBy C.PORT_REPLAY_CNT x.retry.length p)

/-- REPLAY_TIMEOUT (R225): no ack for 4 us. -/
def execReplayTimeout (port : Nat) (s : State) : Host.Outcome State Fault Refusal :=
  guardUnit (portOk port && s.portFitted port) <|
    if stIdentify ≤ s.portState port ∧ s.portMode port = 0 then s.replay port else s

/-- LANE_LOCK_LOSS (R234): the lane is relocked while the port pauses, or retired on its third loss in 10 s; a port
with every active lane lost retrains. -/
def execLaneLockLoss (port lane : Nat) (s : State) : Host.Outcome State Fault Refusal :=
  guardUnit (portOk port && s.portFitted port && decide (lane < 4)) <|
    if !(s.portLanes port).testBit lane then s
    else
      let before := (s.port port).losses.filter fun e => e.1 == lane && decide (s.ms < e.2 + 10000)
      let s0 := (s.bump C.PORT_LOCK_LOSS_CNT port).fset (laneF lane 0 1) 0 port
      let s1 := s0.modPort port fun x => { x with losses := (x.losses.filter fun e => e.1 != lane) ++ before ++ [(lane, s.ms)] }
      if !s.portActive port ∨ s.portMode port = 1 then s1
      else if 2 ≤ before.length then s1.retireLane port lane
      else
        let s2 := s1.modPort port fun x => { x with relock := lane :: x.relock.filter (· != lane) }
        let lost := (List.range 4).all fun l => !(s.portLanes port).testBit l || (s2.port port).relock.contains l
        if lost then s2.toRetrain port else s2

/-- LANE_RELOCK (R234, R227): a lane regains lock; in RETRAIN the last one has the module's set sent again, or its S7 hello
(R239; log 106), and the partner's decides. -/
def execLaneRelock (port lane : Nat) (s : State) : Host.Outcome State Fault Refusal :=
  guardUnit (portOk port && s.portFitted port && decide (lane < 4)) <|
    let x := s.port port
    let s1 := (s.setPort port { x with relock := x.relock.filter (· != lane) }).fset (laneF lane 0 1) 1 port
    if s.portState port = stRetrain ∧ x.relock.contains lane ∧ (s1.port port).relock.isEmpty then
      if s.portMode port = 2 then s1.toIdentify port else (s1.sendSet port).retrained port
    else if s.portState port = stRetrain ∨ s.portActive port then s1
    else s

/-- LANE_RELOCK_TIMEOUT (R234): not relocked within 5 ms. -/
def execLaneRelockTimeout (port lane : Nat) (s : State) : Host.Outcome State Fault Refusal :=
  guardUnit (portOk port && s.portFitted port && decide (lane < 4)) <|
    if s.portActive port ∧ (s.port port).relock.contains lane then s.retireLane port lane else s

/-- LANE_CSR_LIMIT (R234): the corrected-symbol rate has stayed above the limit for 1 s. -/
def execLaneCsrLimit (port lane : Nat) (s : State) : Host.Outcome State Fault Refusal :=
  guardUnit (portOk port && s.portFitted port && decide (lane < 4)) <|
    if s.portActive port ∧ s.portMode port ≠ 1 ∧ s.flag F.PORT_LANE_CFG_csr_limit port then s.retireLane port lane else s

/-! Receiving flits (R223-R225, R233, R251, R258). -/

/-- A data flit delivered (R248, R251): the packet it ends goes to the router. One with vc 5 or 6 is discarded with the rest of its
packet, counted once; one that continues a packet whose beginning was dropped (R265) is discarded. -/
def State.deliver (s : State) (p : Nat) (f : Flit) : State :=
  let h := f.header.toNat
  let vc := bits h 32 3
  let first := bits h 35 1 == 1
  let last := bits h 36 1 == 1
  let x := s.port p
  if bits h 0 4 ≠ 1 ∨ !s.portActive p then s
  else if vc = 5 ∨ vc = 6 then
    let s1 := s.setPort p { x with dropping := if last then x.dropping.filter (· != vc) else vc :: x.dropping.filter (· != vc) }
    s1.when (first || !x.dropping.contains vc) fun s =>
      (s.bump C.ROUTE_BAD_PKT_CNT (portDie p)).raise E.ROUTE_bad_packet (portDie p)
  else
    let x1 := { x with taken := x.taken.set (fun _ => 0) vc (x.taken.get (fun _ => 0) vc + 1) }
    match if first then some [] else (x.partials.find? fun e => e.1 == vc).map Prod.snd with
    | none => s.setPort p { x1 with freed := x1.freed.set (fun _ => 0) vc (x1.freed.get (fun _ => 0) vc + 1) }
    | some b0 =>
      let b := b0 ++ f.payload
      let rest := x.partials.filter fun e => e.1 != vc
      let s1 := s.setPort p { x1 with partials := if last then rest else (vc, b) :: rest }
      if last then s1.enqueue (portDie p) (Queued.new (some p) vc (parsePkt vc b)) else s1.notePool (portDie p)

/-- Acknowledgement through a sequence number: packets whose last flit it covers let their buffers go (R225, R265). -/
def State.acked (s : State) (p ack : Nat) : State :=
  let x := s.port p
  match x.retry with
  | [] => s
  | t :: _ =>
    let n := (ack + 4097 - t.seq) % 4096
    if x.retry.length < n then s
    else
      let s1 := s.setPort p { x with retry := x.retry.drop n, ucw := if n = 0 then x.ucw else [] }
      let s2 := ((x.retry.take n).filterMap fun t => t.pkt).foldl (fun s q => s.release q) s1
      s2.pumpCtl p

/-- The flit is one the link can accept (R223, R224). -/
def flitSound (f : Flit) : Bool :=
  let ftype := bits f.header.toNat 0 4
  f.crc == crc64 (flitBytes f.header f.payload) && decide (ftype ≤ 3) &&
    (ftype != 2 || decide (1 ≤ (f.payload.headD 0).toNat ∧ (f.payload.headD 0).toNat ≤ 6))

/-- Corrected symbols and the uncorrectable codewords of each lane that came with a flit (R222, R234, R242). -/
def State.noteFec (s : State) (p csym : Nat) (ucw : List Nat) : State :=
  let s1 := (s.bumpBy C.PORT_FEC_CSYM_CNT csym p).bumpBy C.PORT_FEC_UCW_CNT (ucw.foldl (· + ·) 0) p
  s1.modPort p fun x =>
    { x with ucw := (List.range 4).foldl (fun m l => m.set (fun _ => 0) l (m.get (fun _ => 0) l + ucw.getD l 0)) x.ucw }

/-- FLIT_RECEIVE (R223-R225): a flit that fails its CRC, is of a reserved type or is out of order is discarded and a
replay asked for; otherwise it is accepted, its credit, ack and nak applied, and its data delivered, on a sealed port
only once the span's tag verifies (R233). `csym` and `ucw` are the corrected symbols and each lane's uncorrectable codewords
of its reception. -/
def execFlitReceive (port : Nat) (f : Flit) (csym : Nat) (ucw : List Nat) (s : State) : Host.Outcome State Fault Refusal :=
  guardUnit (portOk port && s.portFitted port) <|
    let st := s.portState port
    let h := f.header.toNat
    if st < stIdentify ∨ st = stAbsent ∨ st = stRetired ∨ s.portMode port ≠ 0 then s
    else
      let s0 := s.noteFec port csym ucw
      let x := s0.port port
      if !flitSound f then (s0.bump C.PORT_CRC_ERR_CNT port).sendIdle port true
      else if bits h 4 12 ≠ x.rxNext then s0.sendIdle port true
      else
        let ftype := bits h 0 4
        let s1 := if ftype = 0 then s0 else s0.setPort port { x with rxNext := (x.rxNext + 1) % 4096, rxAny := true }
        let vc := bits h 49 3
        let s2 := s1.when (bits h 48 1 == 1 && decide (ftype ≤ 1)) fun s => s.modPort port fun y =>
          let lim := bits h 52 12
          if (lim + 4096 - y.limit.get (fun _ => 0) vc % 4096) % 4096 < 2048 then
            { y with limit := y.limit.set (fun _ => 0) vc lim }
          else y
        let s3 := if bits h 28 1 = 1 then s2.acked port (bits h 16 12) else s2
        let s4 := if s3.sealing port (s3.port port).keyRx then
            (if ftype = 0 then s3
            else s3.modPort port fun y =>
              { y with
                rxSpan := if ftype = 3 then y.rxSpan else y.rxSpan ++ [f]
                rxHeld := some (y.rxHeld.getD (bits h 4 12)) })
          else s3.deliver port f
        let s5 := if ftype = 0 then s4 else s4.sendIdle port false
        if bits h 29 1 = 1 then s5.replay port else s5

/-! Sealed mode (R233). -/

/-- SEAL_KEY (R233): a rekey request begins a ciphertext; the last segment gives this end its keys. The segment's span has
verified as it is delivered, so the new key is that of the span being received, and of the next one sent (log 106). -/
def execSealKey (port : Nat) (rekey : Bool) (seg : List Byte) (s : State) : Host.Outcome State Fault Refusal :=
  guardUnit (portOk port && s.portFitted port) <|
    let st := s.portState port
    if (st ≠ stSeal ∧ st ≠ stActive) ∨ !s.portSealed port ∨ s.lower port then s
    else if rekey then s.modPort port fun x => { x with ct := [] }
    else
      let x := s.port port
      let ct := x.ct ++ seg
      if ct.length < 1568 then s.setPort port { x with ct }
      else
        let k := sealKeys (Config.mlkemDecaps s.ident.kem (ct.take 1568))
        (s.setPort port { x with ct := [], keyRx := k.1 }).pushCtl port (.key k.2)

/-- SEAL_TAG (R233): the tag of the span held verifies and its flits are delivered, or the span is replayed; a second
failure of the span holds the port. The first tag verified brings SEAL to ACTIVE. The lower-serial end takes the new key of
its partner's direction with the first span that verifies under it (log 106). -/
def execSealTag (port : Nat) (span : Nat) (tag : List Byte) (s : State) : Host.Outcome State Fault Refusal :=
  guardUnit (portOk port && s.portFitted port) <|
    let x := s.port port
    let st := s.portState port
    if x.keyRx.isEmpty ∨ (st ≠ stSeal ∧ st ≠ stActive) then s
    else
      let msg := (x.rxSpan.map fun f => flitBytes f.header f.payload ++ leBytes 8 f.crc.toNat).flatten
      let key := (x.keyRx :: x.nextRx.toList).find? fun k => tag == fit 8 (Config.sealTag k span msg)
      if (span = x.rxSpanNo ∨ (x.rxSync ∧ x.rxSpanNo ≤ span)) ∧ key.isSome then
        let k := key.getD x.keyRx
        let s1 := s.setPort port { x with
          rxSpan := [], rxHeld := none, rxSpanNo := span + 1, rxSync := false, spanFailed := false
          keyRx := k, nextRx := if x.nextRx = some k then none else x.nextRx }
        if st = stSeal then s1.toActive port else (x.rxSpan.foldl (fun s f => s.deliver port f) s1).sendIdle port false
      else
        let s1 := s.bump C.PORT_SEAL_FAIL_CNT port
        if x.spanFailed then (s1.raisePort E.PORT_seal_fail port).hold port stHeld 0x08 0 0 0
        else
          let back := x.rxHeld.getD ((x.rxNext + 4095) % 4096)
          (s1.setPort port { x with rxSpan := [], rxHeld := none, rxNext := back, spanFailed := true }).sendIdle port true

/-- SEAL_REKEY (R233): after 2^24 spans the lower-serial end sends a rekey request and a fresh ciphertext. -/
def execSealRekey (port : Nat) (s : State) : Host.Outcome State Fault Refusal :=
  guardUnit (portOk port && s.portFitted port) <|
    if s.portActive port ∧ s.portSealed port ∧ s.lower port ∧ 2 ^ 24 ≤ (s.port port).txSpanNo then
      let (k, s1) := (s.sendCtl port 5 (leBytes 8 1)).encapsulate port
      s1.modPort port fun x => { x with nextRx := some k }
    else s

/-! Storage and S7 ports (R238, R239). -/

/-- ETH_LINK_TIMEOUT (R238): 3 s without link. -/
def execEthLinkTimeout (port : Nat) (s : State) : Host.Outcome State Fault Refusal :=
  guardUnit (portOk port && s.portFitted port) <|
    if s.portMode port = 1 ∧ s.portState port ≠ stOff ∧ s.portState port ≠ stRetired then s.portTo port stAbsent 0 else s

/-- S7_HELLO (R239): serial and port are compared with the plan's entry. -/
def execS7Hello (port serial partnerPort : Nat) (s : State) : Host.Outcome State Fault Refusal :=
  guardUnit (portOk port && s.portFitted port) <|
    match s.plan with
    | none => s
    | some pl =>
      let e := planEntry pl port
      if s.portMode port ≠ 2 ∨ s.portState port ≠ stIdentify then s
      else
        let s1 := (s.fset F.PORT_PARTNER_SN_serial serial port).fset F.PORT_PARTNER_port partnerPort port
        if serial = planSerial e ∧ partnerPort = planPort e then s1.toActive port
        else ((s1.bump C.PORT_ID_REJECT_CNT port).noteMiswire port 0 partnerPort).hold port stHeld 0x10 0 0 partnerPort

/-- S7_HELLO_TIMEOUT (R239). -/
def execS7HelloTimeout (port : Nat) (s : State) : Host.Outcome State Fault Refusal :=
  guardUnit (portOk port && s.portFitted port) <|
    if s.portMode port = 2 ∧ s.portState port = stIdentify then s.portTo port stAbsent 0 else s

/-- S7_FRAME (R239): a frame of a network is received; the port carries only the one that s7_net names. -/
def execS7Frame (port net : Nat) (frame : List Byte) (s : State) : Host.Outcome State Fault Refusal :=
  guardUnit (portOk port && s.portFitted port) <|
    if s.portMode port = 2 ∧ s.portActive port ∧ net = s.fget F.PORT_CFG_s7_net port then
      s.modPort port fun x => { x with frames := x.frames ++ [frame] }
    else s

end Sys2Proof.Machine
end

