-- ==== Sys2Proof/Machine/Placing.lean ====
section
/-! DEFINITION. Packets at their destination (R249, R261, R262): acceptance, the order of placement, what each does at its home, and
acknowledgement; commands that wait for writes to other modules (R134). -/

namespace Sys2Proof.Machine

def dieOk (s : State) (iod : Nat) : Bool := decide (iod < 2) && s.iodFitted iod

/-! Placement at a destination (R249, R261, R269, R313). -/

/-- The deckle in whose memory a packet acts: that of its context, live and not revoked as the packet is accepted (R135, R313). -/
def State.homeOf (s : State) (p : Pkt) : Option Nat :=
  if s.flag ⟨Page.TILE, 0x14, 1, 1⟩ then none else (s.liveIn p.ctx).map fun c => (s.ctx c).deckle

/-- A packet accepted for a dead generation, or for an address it may not reach, is dropped and counted (R313). -/
def State.peerOk (s : State) (h : Held) (n : Nat) : State ⊕ Nat :=
  match h.deckle with
  | none => .inl (s.bump C.DECKLE_DEAD_DROP_CNT)
  | some d =>
    if (s.deckle d).lost ∨ s.arenaBase d < h.p.addr + n then .inl (s.bump C.DECKLE_MEM_REFUSE_CNT) else .inr d

/-- READ_REQ (R249): the data goes back on the same channel; a range that cannot be read is answered with its status in
aux and no data (the form is the model's choice). -/
def State.serveRead (s : State) (iod : Nat) (p : Pkt) (d : Nat) : State :=
  let rsp := { Pkt.blank p.vc p.src opReadRsp with tag := p.tag }
  match s.localBad d p.addr p.aux with
  | some (st, a) => ((s.notePoison d st a).post iod { rsp with aux := st }).1
  | none => (s.post iod { rsp with payload := s.localRead d p.addr p.aux }).1

/-- READ_RSP (R249): the answer joins the read it is for; a refused read faults the reader. -/
def State.readAnswer (s : State) (iod : Nat) (p : Pkt) : State :=
  match (s.router iod).reads.find? fun r => r.tag == p.tag && r.dst == p.src with
  | none => s
  | some r =>
    if p.aux ≠ 0 then
      let t := s.tile r.tile
      let s1 := s.modRouter iod fun x => { x with reads := x.reads.filter fun q => q != r }
      match t.running with
      | some rr => s1.accessFault r.tile (s.runOf rr) p.aux 2 0
      | none => s1
    else s.modRouter iod fun x => { x with
      reads := x.reads.map fun q => if q == r then { q with parts := q.parts ++ [(q.parts.length, p.payload)] } else q }

/-- NOTICE (R46, R47): the producer slot of an ext region rises to the sequence number. -/
def State.placeNotice (s : State) (p : Pkt) : State :=
  match s.liveIn p.ctx with
  | none => s.bump C.BEAT_NOTICE_DROP_CNT
  | some c =>
    let x := s.ctx c
    let region := bits p.addr 0 12
    let slot := bits p.addr 12 4
    let now := x.slot region slot
    if p.seq = now ∨ !atOrAfter p.seq now then s
    else s.setCtx c { x with ext := (region, slot, p.seq) :: x.ext.filter fun e => !(e.1 == region && e.2.1 == slot) }

/-- The space a lend tag names for a borrower (R186). -/
def State.lendOf (s : State) (src tag : Nat) : Option (Nat × Lend) :=
  s.allDeckles.findSome? fun d => ((s.deckle d).lends.find? fun l => l.tag == tag && l.borrower == src).map fun l => (d, l)

/-- The lent space a chest packet is for; none of a context that is dead here (R161). -/
def State.lentTo (s : State) (p : Pkt) : Option (Nat × Lend) :=
  if p.ctx ≠ 0 ∧ (s.liveIn p.ctx).isNone then none else s.lendOf p.src (bits p.aux 0 16)

/-- CHEST_WR (R249): block bytes placed in lent space; a write to no lent space, or for a dead generation, is dropped and counted
(R161). -/
def State.placeChestWr (s : State) (p : Pkt) : State :=
  match s.lentTo p with
  | none => (s.bump C.CHEST_DEAD_DROP_CNT).raise E.CHEST_dead_drop
  | some (d, l) =>
    if (s.deckle d).lost ∨ l.mib * 2 ^ 20 < p.addr + p.payload.length then s.bump C.DECKLE_MEM_REFUSE_CNT
    else
      let l' := { l with store := l.store.setRange (fun _ => 0) p.addr p.payload }
      s.setDeckle d { s.deckle d with lends := (s.deckle d).lends.map fun y => if y == l then l' else y }

/-- CHEST_RD (R249): the units asked for are answered by READ_RSP, 2,048 bytes a packet. -/
def State.placeChestRd (s : State) (iod : Nat) (p : Pkt) : State :=
  match s.lentTo p with
  | none => (s.bump C.CHEST_DEAD_DROP_CNT).raise E.CHEST_dead_drop
  | some (d, l) =>
    let n := bits p.aux 16 16 * 256
    if (s.deckle d).lost ∨ l.mib * 2 ^ 20 < p.addr + n then
      (s.post iod { Pkt.blank p.vc p.src opReadRsp with tag := p.tag, aux := 0x12 }).1
    else
      let b := l.store.getRange (fun _ => 0) p.addr n
      (List.range (ceilDiv n 2048)).foldl (fun s i =>
        (s.post iod { Pkt.blank p.vc p.src opReadRsp with tag := p.tag, payload := (b.drop (2048 * i)).take 2048 }).1) s

/-- A packet's effect at its home (R249). A reserved operation is counted. -/
def State.place (s : State) (iod : Nat) (h : Held) : State :=
  let p := h.p
  if p.op = opWrite then
    match s.peerOk h p.payload.length with
    | .inl s1 => s1
    | .inr d => s.localWrite d p.addr p.payload
  else if p.op = opReadReq then
    match s.peerOk h p.aux with
    | .inl s1 => s1
    | .inr d => s.serveRead iod p d
  else if p.op = opReadRsp then s.readAnswer iod p
  else if p.op = opNotice then s.placeNotice p
  else if p.op = opColl then s.collPlace iod p
  else if p.op = opChestWr then s.placeChestWr p
  else if p.op = opChestRd then s.placeChestRd iod p
  else if p.op = opCmap then s.modRouter iod fun r => { r with cmaps := r.cmaps ++ [p.payload] }
  else (s.bump C.ROUTE_BAD_PKT_CNT iod).raise E.ROUTE_bad_packet iod

/-! Pairs at their destination (R261). -/

def State.rxPair (s : State) (iod src : Nat) : RxPair :=
  ((s.router iod).rx.find? fun p => p.src == src).getD ⟨src, 0, 0, []⟩
def State.setRxPair (s : State) (iod : Nat) (p : RxPair) : State :=
  s.modRouter iod fun r => { r with rx := p :: r.rx.filter fun x => x.src != p.src }
def RxPair.chan (p : RxPair) (vc : Nat) : RxChan := (p.chans.find? fun c => c.vc == vc).getD ⟨vc, [], 0, 0, [], [], 0⟩
def RxPair.setChan (p : RxPair) (c : RxChan) : RxPair := { p with chans := c :: p.chans.filter fun x => x.vc != c.vc }

/-- The number of a packet's channel in its pair: a tree has one of its own (log 107). -/
def chanKey (p : Pkt) : Nat := if p.op = opColl ∧ bits p.tag 8 8 ≠ 0 then 256 * bits p.tag 8 8 else p.vc

/-- The channel a packet is received on. A tree's numbers are taken up from the first packet received, for they do not start again
with the pair (log 107). -/
def RxPair.chanFor (p : RxPair) (q : Pkt) : RxChan :=
  match p.chans.find? fun c => c.vc == chanKey q with
  | some c => c
  | none => let n := if 256 ≤ chanKey q then q.pairSeq else 0; ⟨chanKey q, [], n, n, [], [], 0⟩

/-- One past the last of a run of numbers that follow `n`. -/
def runUp (l : List Nat) : Nat → Nat → Nat
  | 0, n => n
  | fuel + 1, n => if l.contains n then runUp l fuel (n + 1) else n

/-- Packets held at an I/O die. -/
def Router.allHeld (r : Router) : List Held := r.rx.flatMap fun p => p.chans.flatMap fun c => c.held

/-- A write accepted here before the notice, for the same context handle and region, is still unplaced (R131). Without the context's
region table any write for the context counts. -/
def State.noticeWaits (s : State) (iod : Nat) (h : Held) : Bool :=
  let region := ((s.live h.p.ctx).bind fun c => (s.ctx c).ream).map fun r => r.region (bits h.p.addr 0 12)
  (s.router iod).allHeld.any fun w =>
    w.p.op == opWrite && w.p.ctx == h.p.ctx && decide (w.no < h.no) &&
      (match region with
      | none => true
      | some g => decide (w.p.addr < g.base + g.len ∧ g.base < w.p.addr + w.p.payload.length))

/-- A packet whose place in its channel has come may be placed now: a notice behind the writes of R131, a slice in its turn at its
engine (R289), an access to lent space once the memory is in service (R417). -/
def State.turn (s : State) (iod : Nat) (h : Held) : Bool :=
  if h.p.op = opNotice then !s.noticeWaits iod h
  else if h.p.op = opColl ∧ h.p.tag % 2 ^ 8 = 0x03 then s.dataTurn h.p
  else if h.p.op = opChestWr ∨ h.p.op = opChestRd then s.inService
  else true

/-- The next packet held that may be placed: in strict mode the next in order, in flagged mode any unflagged one, and a
flagged one after every packet of lower pair_seq (R130, R261). -/
def State.ready (s : State) (iod : Nat) (c : RxChan) : Option Held :=
  c.held.find? fun h =>
    (h.p.pairSeq == c.placed % 2 ^ 32 || (!s.strict iod (c.vc % 256) && !h.p.flagged)) && s.turn iod h

/-- A packet held is placed, and counts toward the next ACK (R262). -/
def State.placeOne (s : State) (iod src : Nat) (ch : RxChan) (h : Held) : State :=
  let abs := ch.placed + (h.p.pairSeq + 2 ^ 32 - ch.placed % 2 ^ 32) % 2 ^ 32
  let ahead := ch.ahead ++ [abs]
  let placed := runUp ahead ahead.length ch.placed
  let pair := s.rxPair iod src
  let ch' := { ch with
    held := ch.held.erase h, placed, ahead := ahead.filter fun q => decide (placed ≤ q), due := ch.due + pktFlits h.p }
  (s.setRxPair iod ({ pair with flits := pair.flits + pktFlits h.p }.setChan ch')).place iod h

/-- A packet of the die that may be placed now. -/
def State.nextPlace (s : State) (iod : Nat) : Option (Nat × RxChan × Held) :=
  (s.router iod).rx.findSome? fun p => p.chans.findSome? fun c => (s.ready iod c).map fun h => (p.src, c, h)

/-- Packets placed while one may be, free engines taking chunks first; at most one step for each packet held. -/
def State.placeHeldN (iod : Nat) : Nat → State → State
  | 0, s => s
  | fuel + 1, s =>
    match s.takeEngines.nextPlace iod with
    | none => s.takeEngines
    | some (src, c, h) => State.placeHeldN iod fuel (s.takeEngines.placeOne iod src c h)

def State.placeHeld (s : State) (iod : Nat) : State := State.placeHeldN iod ((s.router iod).allHeld.length + 1) s

/-! Acknowledgement at the source (R134, R262). -/

/-- Commands whose writes to another module are all remote-complete write their records (R134), with UNREACHABLE where the pair has
been lost. -/
def State.finishSent (s : State) : State :=
  (s.cmds.filter fun k => k.begun && !k.sent.isEmpty && k.sent.all s.remoteDone).foldl (fun s k =>
    s.finish k (if k.sent.any fun w => (s.txPair w.iod w.dst).unreachable then 0x12 else 0)) s

/-- ACK at the source (R262): accepted and placed values and the window advance; steps and commands look again whether their
packets are placed (R134, R284). One of another epoch is discarded and counted (R261). -/
def State.takeAck (s : State) (iod : Nat) (p : Pkt) : State :=
  let pair := s.txPair iod p.src
  if p.epoch ≠ pair.epoch % 256 then s.bump C.ROUTE_EPOCH_DROP_CNT iod
  else
    let key := bits p.tag 0 3 + 256 * bits p.tag 8 8
    let ch := pair.chan key
    let rise (old new : Nat) : Nat :=
      let d := (new + 1 + 2 ^ 32 - old % 2 ^ 32) % 2 ^ 32
      if d < 2 ^ 31 then old + d else old
    let ch' := { ch with accepted := rise ch.accepted (bits p.addr 0 32), placed := rise ch.placed p.pairSeq }
    let limit := if atOrAfter p.aux pair.limit then pair.limit + (p.aux + 2 ^ 32 - pair.limit % 2 ^ 32) % 2 ^ 32 else pair.limit
    let s1 := s.setTxPair iod ({ pair with limit }.setChan ch')
    let s2 := s1.modRouter iod fun r => { r with
      outst := r.outst.filter fun q => !(q.dst == p.src && chanKey q == key && atOrAfter (ch'.placed + 2 ^ 32 - 1) q.pairSeq &&
        ch'.placed != 0) }
    s2.tryAllDone.finishSent

/-- A packet that has reached its endpoint (R261, R265): stale epochs and duplicates are discarded and counted, the rest
accepted, and placed in the order of its channel. ACKs belong to no window and act at once; a tree packet carries no epoch, for it
belongs to many pairs (log 107). -/
def State.arrive (s : State) (iod : Nat) (p : Pkt) : State :=
  if p.op = opAck then s.takeAck iod p
  else
    let pair := s.rxPair iod p.src
    let ch := pair.chanFor p
    let d := (p.pairSeq + 2 ^ 32 - ch.accepted % 2 ^ 32) % 2 ^ 32
    if chanKey p < 256 ∧ p.epoch ≠ pair.epoch % 256 then s.bump C.ROUTE_EPOCH_DROP_CNT iod
    else if 2 ^ 31 ≤ d ∨ ch.got.contains (ch.accepted + d) then s.bump C.ROUTE_DUP_DROP_CNT iod
    else
      let got := ch.got ++ [ch.accepted + d]
      let accepted := runUp got got.length ch.accepted
      let h : Held := ⟨p, (s.router iod).accepts, s.homeOf p⟩
      let ch' := { ch with got := got.filter fun q => decide (accepted ≤ q), accepted, held := ch.held ++ [h] }
      let s1 := (s.setRxPair iod (pair.setChan ch')).modRouter iod fun r => { r with accepts := r.accepts + 1 }
      (s1.notePool iod).placeHeld iod

/-- ACK_SEND (R262): the values of a channel of a pair go back to its source, with the window its placements have
opened: once 64 flits of the pair have been placed since the last ACK, or 1 us after the first unacknowledged placement, a time the
command stands for. Nothing is sent where nothing placed is unacknowledged. -/
def execAckSend (iod src vc : Nat) (s : State) : Host.Outcome State Fault Refusal :=
  guardUnit (dieOk s iod) <|
    let s := s.placeHeld iod
    match (s.router iod).rx.find? fun p => p.src == src with
    | none => s
    | some pair =>
      match pair.chans.find? fun c => c.vc == vc with
      | none => s
      | some ch =>
        if ch.due = 0 then s
        else
          let p := { Pkt.blank 3 src opAck with
            src := s.endpoint iod, epoch := pair.epoch % 256, tag := vc % 8 + vc / 256 % 256 * 2 ^ 8
            addr := (ch.accepted + 2 ^ 32 - 1) % 2 ^ 32
            pairSeq := (ch.placed + 2 ^ 32 - 1) % 2 ^ 32, aux := (pair.flits + s.windowFlits iod) % 2 ^ 32 }
          (s.setRxPair iod (pair.setChan { ch with due := 0 })).modRouter iod fun r => { r with inject := r.inject ++ [p] }

/-- CHUNK_COMPLETE (R289, R294): what an engine holds of a chunk owned here is whole and passes its residue checks, or fails
them. `step` is the step's place among the context's; `corrected` errors of reduction memory were corrected on the way (R303). -/
def execChunkComplete (c step chunk : Nat) (residueOk : Bool) (corrected : Nat) (s : State) :
    Host.Outcome State Fault Refusal :=
  guardUnit (decide (c < 1024)) <|
    let x := s.ctx c
    match x.steps[step]? with
    | none => s
    | some p =>
      let iod := (s.engineOf (x.groupOf p) chunk).1
      ((s.bumpBy C.COLL_RMEM_CE_CNT (if p.holding.any (fun h => h.1 == chunk) then corrected else 0) iod).completeChunk
        c p chunk residueOk).placeHeld iod

end Sys2Proof.Machine
end

