-- ==== Sys2Proof/Machine/Routing.lean ====
section
/-! DEFINITION. Routers (R244-R269): ports and their arbitration, circuits, the escape channel, trees, injection, unreachable pairs,
congestion maps and plans. -/

namespace Sys2Proof.Machine

/-! Room on a port (R234, R235, R256, R259). -/

/-- A port takes packets now: ACTIVE, in Gealmub use, not pausing for a lane or a width exchange (R234, R235). -/
def State.portOpen (s : State) (p : Nat) : Bool :=
  s.portActive p && s.portMode p == 0 && (s.port p).width.isNone && (s.port p).relock.isEmpty

/-- A port has credit and retry room for a whole packet, `extra` flits beyond it included (R256, R259). -/
def State.portRoom (s : State) (p vc n extra : Nat) : Bool :=
  s.portOpen p && (s.port p).credits vc (n + extra) && s.retryFits p n

/-- What the bubble rule asks for beyond the packet itself: room for two packets of 9 flits where it enters VC7 here, for one
where it came on it (R256). -/
def bubble (q : Queued) : Nat := (if q.ch = 7 then 9 else 18) - pktFlits q.p

/-! Arbitration of an output port (R252-R255). -/

/-- The packet is the first of its input port and channel (R246). -/
def Router.isHead (r : Router) (pos : Nat) (q : Queued) : Bool :=
  !((r.queue.take pos).any fun x => x.port == q.port && pktChannel x.p == pktChannel q.p)

/-- Branches of a tree packet still to be sent: at first every port of the entry but the one it came by (R296). -/
def State.treePorts (s : State) (iod : Nat) (q : Queued) : List Nat :=
  let e := ((s.router iod).trees.get (fun _ => 0) (bits q.p.tag 8 8)).toNat
  q.branches.getD ((List.range 26).filter fun i => bits e (2 + i) 1 == 1 && q.port != some i)

/-- A packet that a port could send now: the head of its queue, bound for the port, with room for it. -/
def State.bid (s : State) (iod port : Nat) (q : Queued) : Option Pkt :=
  match s.hop iod q with
  | .out i p _ => if i = port ∧ s.portRoom port p.vc (pktFlits p) 0 then some p else none
  | .ring =>
    if s.fget F.ROUTE_ID_ring_port iod = port ∧ s.portRoom port 7 (pktFlits q.p) (bubble q) then some q.p else none
  | .tree => if (s.treePorts iod q).contains port ∧ s.portRoom port (pktChannel q.p) (pktFlits q.p) 0 then some q.p else none
  | _ => none

/-- The circuit that a slot of the beat is reserved for on a port, 0 where it is free or the beat has no such slot (R254). -/
def State.slotCircuit (s : State) (port slot : Nat) : Nat :=
  if slot * 16 < s.beatLen ∧ slot < 256 then (s.router (portDie port)).slots.get (fun _ => 0) (port * 256 + slot) else 0

/-- Flits that a circuit may send in one slot on a port: 125 on four lanes, in proportion on fewer, one flit time in 65 less on a
sealed port (R254, R255). -/
def State.slotFlits (s : State) (port : Nat) : Nat :=
  let n := 125 * lanesIn (s.portLanes port) / 4
  if s.flag F.PORT_STATE_seal_on port then n * 64 / 65 else n

/-- The place of a packet in the order of R252 at a flit time in a slot, none where it may not be sent: 2 in its circuit's slot
while the slot has room, 3 on VC4 which has sent nothing in the last 32 flit times, 4 on VC7, 5 on VC0-VC3. -/
def State.rank252 (s : State) (port slot idle : Nat) (p : Pkt) : Option Nat :=
  let a := (s.port port).arb
  let used := if a.slot = (s.beatCount, slot) then a.slotFlits else 0
  if p.circ then
    if p.circuit = s.slotCircuit port slot ∧ used + pktFlits p ≤ s.slotFlits port then some 2 else none
  else if pktChannel p = 4 then (if 32 ≤ a.vc4 + idle then some 3 else none)
  else if pktChannel p = 7 then some 4
  else some 5

/-- Deficit round robin over VC0-VC3 (R253): the channel served next and the arbiter then. `need` gives the flits of the packet a
channel has ready. A channel with nothing ready yields its turn and its deficit. -/
def Arb.serve (weight : Nat → Nat) (need : Nat → Option Nat) : Nat → Arb → Option (Nat × Arb)
  | 0, _ => none
  | fuel + 1, a =>
    let v := a.turn
    let d := a.deficit.getD v 0
    match need v with
    | some n =>
      if n ≤ d then some (v, a)
      else
        let w := (v + 1) % 4
        Arb.serve weight need fuel { a with turn := w, deficit := a.deficit.set w (a.deficit.getD w 0 + weight w) }
    | none =>
      let w := (v + 1) % 4
      Arb.serve weight need fuel { a with turn := w, deficit := (a.deficit.set v 0).set w (a.deficit.getD w 0 + weight w) }

/-- Whether the packet at a place wins a port at a flit time in `slot`, `idle` flit times after the port's last flit: nothing that
is ready has an earlier place in R252, and on VC0-VC3 it is its channel's turn (R253); the arbiter after the packet has gone. -/
def State.wins (s : State) (iod pos port slot idle : Nat) (p : Pkt) : Option Arb :=
  let heads := (s.router iod).queue.zipIdx.filter fun x => (s.router iod).isHead x.2 x.1 && x.2 != pos
  let rivals := heads.filterMap fun x => (s.bid iod port x.1).bind fun r => (s.rank252 port slot idle r).map fun k => (k, r)
  let a := (s.port port).arb
  let n := pktFlits p
  match s.rank252 port slot idle p with
  | none => none
  | some k =>
    if rivals.any fun x => decide (x.1 < k) then none
    else
      let served :=
        if k ≠ 5 then some (0, a)
        else
          let need (v : Nat) : Option Nat :=
            if v = p.vc then some n else (rivals.find? fun x => x.1 == 5 && x.2.vc == v).map fun x => pktFlits x.2
          (Arb.serve (fun v => bits (s.reg 0 (Page.ROUTE + iod) 0x88) (8 * v) 8) need 64 a).bind fun r =>
            if r.1 = p.vc then some r else none
      served.map fun r =>
        let b := r.2
        { b with
          deficit := if k = 5 then b.deficit.set r.1 (b.deficit.getD r.1 0 - n) else b.deficit
          vc4 := if k = 3 then 0 else min 32 (b.vc4 + idle + n)
          slot := if k = 2 then (s.beatCount, slot) else b.slot
          slotFlits := if k = 2 then (if b.slot = (s.beatCount, slot) then b.slotFlits else 0) + n else b.slotFlits }

/-! Routing (R246, R247, R255-R259). -/

/-- The packet at a place in the queue goes; its buffers return to the port it came in on when it left the module or was
ejected (R265). -/
def State.dequeue (s : State) (iod pos : Nat) : State :=
  s.modRouter iod fun r => { r with queue := r.queue.eraseIdx pos }

def State.requeue (s : State) (iod pos : Nat) (q : Queued) : State :=
  s.modRouter iod fun r => { r with queue := r.queue.set pos q }

/-- A packet sent on a port that has room for it, if it wins the port (R252), with one router more in its header (R248). -/
def State.sendOn (s : State) (iod pos : Nat) (q : Queued) (port extra slot idle : Nat) (p : Pkt) : State :=
  if s.portRoom port (pktChannel p) (pktFlits p) extra then
    match s.wins iod pos port slot idle p with
    | none => s
    | some a =>
      ((s.dequeue iod pos).modPort port fun x => { x with arb := a }).sendPkt port { q with p } { p with hops := p.hops + 1 }
  else s

/-- A packet diverted to VC7 (R257): it keeps its place in the queue, and its own channel for its destination. -/
def State.divert (s : State) (iod pos : Nat) (q : Queued) (port : Nat) : State :=
  let q' := { q with p := { q.p with esc := true } }
  let s1 := ((s.requeue iod pos q').bump C.ROUTE_ESC_DIV_CNT iod).raise E.ROUTE_escape iod
  s1.modRouter iod fun r => { r with esc := r.esc.set (fun _ => 0) port (min 255 (r.esc.get (fun _ => 0) port + 1)) }

/-- One branch of a tree packet: dropped and counted where its port is not ACTIVE, sent where the port has room and the packet wins
it; the branches still to be sent. -/
def State.sendBranch (s : State) (iod pos : Nat) (q : Queued) (slot idle : Nat) (a : State × List Nat) (port : Nat) :
    State × List Nat :=
  if !a.1.portActive port ∨ portDie port ≠ iod then
    ((a.1.bump C.COLL_BRANCH_DROP_CNT iod).raise E.COLL_branch_drop iod, a.2)
  else if a.1.portRoom port (pktChannel q.p) (pktFlits q.p) 0 then
    match s.wins iod pos port slot idle q.p with
    | none => (a.1, a.2 ++ [port])
    | some b => ((a.1.modPort port fun x => { x with arb := b }).sendPkt port { q with port := none } { q.p with hops := q.p.hops + 1 }, a.2)
  else (a.1, a.2 ++ [port])

/-- A tree packet (R296): each branch is sent as it can be, independently; it is delivered here at once when the entry says so, and
its buffer is freed when every branch has gone. -/
def State.routeTree (s : State) (iod pos : Nat) (q : Queued) (slot idle : Nat) : State :=
  let e := ((s.router iod).trees.get (fun _ => 0) (bits q.p.tag 8 8)).toNat
  if bits e 0 1 = 0 then ((s.dequeue iod pos).bump C.ROUTE_UNREACH_DROP_CNT iod).release q
  else
    let r := (s.treePorts iod q).foldl (s.sendBranch iod pos q slot idle) (s, [])
    let s1 := if r.2.isEmpty then (r.1.dequeue iod pos).release q else r.1.requeue iod pos { q with branches := some r.2 }
    if bits e 1 1 = 1 ∧ q.branches.isNone then s1.arrive iod q.p else s1

/-- The contexts of the descriptor that sent a packet of this die: of a WRITE that of the sheet whose handle it carries, of a
READ_REQ that of the tile that awaits the answer (R247). -/
def State.sendersOf (s : State) (iod : Nat) (p : Pkt) : List Nat :=
  if p.op = opWrite then (s.live p.tag).toList
  else if p.op = opReadReq then
    ((s.router iod).reads.filter fun r => r.tag == p.tag && r.dst == p.dst).filterMap fun r => (s.tile r.tile).running.map Prod.fst
  else []

/-- A packet at the head of its queue is routed (R247); `slot` and `idle` are the slot of the flit time and the output port's flit
times since its last flit (R252, R254). -/
def State.routeOne (s : State) (iod pos : Nat) (q : Queued) (slot idle : Nat) : State :=
  let p := q.p
  match s.hop iod q with
  | .limit => ((s.dequeue iod pos).bump C.ROUTE_HOP_LIMIT_CNT iod).release q
  | .tree => s.routeTree iod pos q slot idle
  | .eject => ((s.dequeue iod pos).release q).arrive iod p
  | .ring => s.sendOn iod pos q (s.fget F.ROUTE_ID_ring_port iod) (bubble q) slot idle p
  | .unreachable =>
    let s1 := ((s.dequeue iod pos).bump C.ROUTE_UNREACH_DROP_CNT iod).release q
    if p.src = s.endpoint iod ∧ q.port.isNone then
      (s.sendersOf iod p).foldl (fun s c => s.faultWith (Page.ROUTE + iod) c 0x12 0x00 0 0 0x3FFF 0x3FFF) s1
    else s1
  | .cross =>
    if s.iodFitted (1 - iod) then
      ((s.dequeue iod pos).release q).enqueue (1 - iod) (Queued.new none q.ch { p with hops := p.hops + 1 })
    else s
  | .out port p1 demoted =>
    let q1 := if demoted then { q with p := p1, demoted := true } else q
    (s.when demoted fun s => (s.requeue iod pos q1).bump C.ROUTE_CIRC_DEMOTE_CNT iod).sendOn iod pos q1 port 0 slot idle p1
  | .escape p1 demoted =>
    let q1 := if demoted then { q with p := p1, demoted := true } else q
    let s1 := s.when demoted fun s => (s.requeue iod pos q1).bump C.ROUTE_CIRC_DEMOTE_CNT iod
    if s.flag F.ROUTE_CFG_esc_en iod ∧ p.vc ≤ 4 then
      let q2 := { q1 with p := { p1 with esc := true } }
      (s1.divert iod pos q1 (routeA (s.entryOf iod q))).sendOn iod pos q2 (s.fget F.ROUTE_ID_ring_port iod) (bubble q2) slot idle q2.p
    else s1

/-- PACKET_ROUTE (R247): the packet at a place in the router's queue, if it is at the head of its own queue. -/
def execPacketRoute (iod pos slot idle : Nat) (s : State) : Host.Outcome State Fault Refusal :=
  guardUnit (dieOk s iod) <|
    match (s.router iod).queue[pos]? with
    | none => s
    | some q => if (s.router iod).isHead pos q then s.routeOne iod pos q slot idle else s

/-- ESCAPE_DIVERT (R257): a packet of VC0-VC4 with no circuit has waited 2 us at the head of its queue without credit on
any output that R247 allows it. -/
def execEscapeDivert (iod pos : Nat) (s : State) : Host.Outcome State Fault Refusal :=
  guardUnit (dieOk s iod) <|
    match (s.router iod).queue[pos]? with
    | none => s
    | some q =>
      let e := s.entryOf iod q
      let p := s.withCircuit iod q
      let go := match s.hop iod q with | .out .. => true | .escape .. => true | _ => false
      let stuck := (s.allowed iod e p).all fun i => !(s.portRoom i p.vc (pktFlits p) 0)
      if (s.router iod).isHead pos q && s.flag F.ROUTE_CFG_esc_en iod && go && !p.circ && decide (p.vc ≤ 4) && stuck then
        s.divert iod pos q (routeA e)
      else s

/-! Injection (R260). -/

/-- PACKET_INJECT (R260): the first waiting packet that the window of its pair takes, in the order of each pair, enters the
router; a tree packet, once every member's takes it (R296). An ACK needs no window. -/
def execPacketInject (iod : Nat) (s : State) : Host.Outcome State Fault Refusal :=
  guardUnit (dieOk s iod) <|
    let r := s.router iod
    let fits (p : Pkt) : Bool := p.op == opAck || (r.destsOf p).all fun d => (s.txPair iod d).room (pktFlits p)
    let pick := r.inject.zipIdx.find? fun x =>
      fits x.1 && !((r.inject.take x.2).any fun q => q.dst == x.1.dst && q.op != opAck && x.1.op != opAck)
    match pick with
    | none => s
    | some (p, i) =>
      let dests := if p.op = opAck then [] else r.destsOf p
      let s1 := s.setRouter iod { r with
        inject := r.inject.eraseIdx i
        outst := r.outst ++ dests.map fun d => { p with dst := d }
        mcast := if p.dst = 0xFFFF then r.mcast.filter fun m => !(m.1 == bits p.tag 8 8 && m.2.1 == p.pairSeq) else r.mcast }
      let s2 := dests.foldl (fun s d => let pair := s.txPair iod d; s.setTxPair iod { pair with sent := pair.sent + pktFlits p }) s1
      s2.enqueue iod (Queued.new none p.vc p)

/-! Packets by operation: the rows of R249. -/

/-- A packet of one operation arrives at the I/O die it is addressed to. -/
def State.arriveOp (s : State) (iod : Nat) (p : Pkt) (ok : Bool) : Host.Outcome State Fault Refusal :=
  guardUnit (dieOk s iod) (if ok && (p.dst == s.endpoint iod || p.dst == 0xFFFF) then s.arrive iod p else s)

/-- WRITE (R261). -/
def execPktWrite (iod : Nat) (p : Pkt) (s : State) : Host.Outcome State Fault Refusal := s.arriveOp iod p (p.op == opWrite)
/-- READ_REQ (R249). -/
def execReadReq (iod : Nat) (p : Pkt) (s : State) : Host.Outcome State Fault Refusal := s.arriveOp iod p (p.op == opReadReq)
/-- READ_RSP (R249). -/
def execReadRsp (iod : Nat) (p : Pkt) (s : State) : Host.Outcome State Fault Refusal := s.arriveOp iod p (p.op == opReadRsp)
/-- NOTICE (R47). -/
def execNotice (iod : Nat) (p : Pkt) (s : State) : Host.Outcome State Fault Refusal := s.arriveOp iod p (p.op == opNotice)
/-- ACK (R262). -/
def execAck (iod : Nat) (p : Pkt) (s : State) : Host.Outcome State Fault Refusal := s.arriveOp iod p (p.op == opAck)
/-- CHEST_WR (R249). -/
def execChestWr (iod : Nat) (p : Pkt) (s : State) : Host.Outcome State Fault Refusal := s.arriveOp iod p (p.op == opChestWr)
/-- CHEST_RD (R249). -/
def execChestRd (iod : Nat) (p : Pkt) (s : State) : Host.Outcome State Fault Refusal := s.arriveOp iod p (p.op == opChestRd)
/-- CMAP (R267). -/
def execCmap (iod : Nat) (p : Pkt) (s : State) : Host.Outcome State Fault Refusal := s.arriveOp iod p (p.op == opCmap)

/-- A collective message by its sub-operation (R283). -/
def isColl (p : Pkt) (sub : Nat) : Bool := p.op == opColl && p.tag % 256 == sub

/-- HASH (R284). -/
def execCollHash (iod : Nat) (p : Pkt) (s : State) : Host.Outcome State Fault Refusal := s.arriveOp iod p (isColl p 0x01)
/-- GO (R284). -/
def execCollGo (iod : Nat) (p : Pkt) (s : State) : Host.Outcome State Fault Refusal := s.arriveOp iod p (isColl p 0x02)
/-- DATA (R289). -/
def execCollData (iod : Nat) (p : Pkt) (s : State) : Host.Outcome State Fault Refusal := s.arriveOp iod p (isColl p 0x03)
/-- RESULT (R287). -/
def execCollResult (iod : Nat) (p : Pkt) (s : State) : Host.Outcome State Fault Refusal := s.arriveOp iod p (isColl p 0x04)
/-- RESEND (R294). -/
def execResend (iod : Nat) (p : Pkt) (s : State) : Host.Outcome State Fault Refusal := s.arriveOp iod p (isColl p 0x05)
/-- PULL (R295). -/
def execPull (iod : Nat) (p : Pkt) (s : State) : Host.Outcome State Fault Refusal := s.arriveOp iod p (isColl p 0x06)
/-- DONE (R284). -/
def execDone (iod : Nat) (p : Pkt) (s : State) : Host.Outcome State Fault Refusal := s.arriveOp iod p (isColl p 0x07)
/-- FINISH (R284). -/
def execFinish (iod : Nat) (p : Pkt) (s : State) : Host.Outcome State Fault Refusal := s.arriveOp iod p (isColl p 0x08)
/-- ABORT of a collective step (R298). -/
def execCollAbort (iod : Nat) (p : Pkt) (s : State) : Host.Outcome State Fault Refusal := s.arriveOp iod p (isColl p 0x09)

/-- STAMP_NOTICE_SEND (R46): once the writes of a published sheet to other modules are remote-complete, a notice goes on
VC3 to each peer region it wrote. `inst` is its place among the notices due. -/
def execStampNoticeSend (c inst : Nat) (s : State) : Host.Outcome State Fault Refusal :=
  guardUnit (decide (c < 1024)) <|
    let x := s.ctx c
    match x.notices[inst]? with
    | none => s
    | some n =>
      if !(n.writes.all s.remoteDone) then s
      else
        let s1 := s.setCtx c { x with notices := x.notices.eraseIdx inst }
        n.peers.foldl (fun s g =>
          (s.post n.iod { Pkt.blank 3 g.sel opNotice with
            flagged := true, ctx := g.rctx, addr := g.rregion + g.slot * 2 ^ 12, seq := n.q % 2 ^ 32 }).1) s1

/-- PAIR_UNREACHABLE (R263): a pair whose oldest packet has not been placed for 10 ms. Steps that have a member there fail, naming
it (R297); commands that wait for writes to it complete. -/
def State.loseRoute (s : State) (iod dst : Nat) : State :=
  let r := s.router iod
  let lost := (r.outst.filter fun p => p.dst == dst).length + (r.inject.filter fun p => p.dst == dst && p.op != opAck).length
  let hit := s.waitersOn iod dst
  let s1 := s.setRouter iod { r with
    outst := r.outst.filter fun p => p.dst != dst
    inject := r.inject.filter fun p => p.dst != dst || p.op == opAck
    mcast := r.mcast.map fun m => (m.1, m.2.1, m.2.2.filter (· != dst))
    queue := r.queue.filter fun q => !(q.port.isNone && q.p.dst == dst && q.p.src == s.endpoint iod && q.p.op != opAck)
    reads := r.reads.filter fun q => q.dst != dst }
  let s2 := s1.setTxPair iod { s1.txPair iod dst with unreachable := true }
  let s3 := (s2.bumpBy C.ROUTE_UNREACH_DROP_CNT lost iod).raise E.ROUTE_unreachable iod
  let s4 := s3.setReg 0 (Page.ROUTE + iod) 0xA8 (dst % 2 ^ 16 + 2 ^ 31)
  let s5 := (s4.stepsOn dst).foldl (fun s h => match (s.ctx h.1).stepOf h.2.1 with
    | some p => s.failStep h.1 p 0x12 h.2.2
    | none => s) s4
  (hit.foldl (fun s c => s.faultWith (Page.ROUTE + iod) c 0x12 0x00 0 0 0x3FFF 0x3FFF) s5).finishSent

def execPairUnreachable (iod dst : Nat) (s : State) : Host.Outcome State Fault Refusal :=
  guardUnit (dieOk s iod) <|
    if (s.router iod).outst.any fun p => p.dst == dst then s.loseRoute iod dst else s

/-! Congestion maps (R267). -/

/-- The code of an occupancy. -/
def occCode (n : Nat) : Nat := if n = 0 then 0 else min 15 (Nat.log2 n + 1)

/-- A die's ports in the order of the map: twelve peer ports and the storage port. -/
def mapPorts (iod : Nat) : List Nat := ((List.range 12).map fun i => 12 * iod + i) ++ [24 + iod]

/-- The map of the interval that closes (R267). -/
def State.cmapBytes (s : State) (iod ival : Nat) : List Byte :=
  let r := s.router iod
  let times (p : Nat) : Nat :=
    ival * 2 ^ s.fget F.BEAT_CFG_beat_log2 * 125 * lanesIn (s.portLanes p) / 64
  leBytes 4 (0x01 + 13 * 2 ^ 8 + s.endpoint iod * 2 ^ 16) ++ leBytes 4 ival ++ leBytes 8 s.beatCount ++
    ((mapPorts iod).map fun p =>
      leBytes 4 (((List.range 8).map fun v => occCode (r.occ.get (fun _ => 0) (p * 8 + v)) * 2 ^ (4 * v)).foldl (· + ·) 0)).flatten ++
    (mapPorts iod).map (fun p =>
      BitVec.ofNat 8 (if times p = 0 then 0 else min 255 (r.used.get (fun _ => 0) p * 255 / times p))) ++
    (mapPorts iod).map (fun p => BitVec.ofNat 8 (r.esc.get (fun _ => 0) p)) ++
    leBytes 2 (min 0xFFFF r.poolMin) ++ List.replicate 32 0

/-- CMAP_CLOSE (R267): the interval in force closes; the map is stored, and sent to the collector. The next interval begins with the
queues as they are. -/
def execCmapClose (iod : Nat) (s : State) : Host.Outcome State Fault Refusal :=
  guardUnit (dieOk s iod) <|
    let next := s.fget F.ROUTE_CMAP_CFG_interval iod
    let ival := if (s.router iod).mapIval = 0 then next else (s.router iod).mapIval
    let coll := s.fget F.ROUTE_CMAP_CFG_collector iod
    if ival = 0 then s
    else
      let m := s.cmapBytes iod ival
      let s1 := s.modRouter iod fun r =>
        let occ := r.queue.foldl (fun (o : Sparse Nat) q => match q.port with
          | none => o
          | some p => o.set (fun _ => 0) (p * 8 + q.ch) (o.get (fun _ => 0) (p * 8 + q.ch) + pktFlits q.p)) []
        { r with mapLast := m, occ, used := [], esc := [], poolMin := s.poolFree iod, mapIval := next }
      if coll = 0xFFFF then s1 else (s1.post iod { Pkt.blank 4 coll opCmap with payload := m }).1

/-! Plans (R221, R230, R244, R253, R256, R261, R264, R296). -/

/-- The ring successors form one cycle through all endpoints. -/
def oneCycle (ring : List (Nat × Nat)) (eps : List Nat) : Bool :=
  let next (e : Nat) : Nat := ((ring.find? fun p => p.1 == e).map Prod.snd).getD 0xFFFF
  let walk := (List.range eps.length).foldl (fun (acc : List Nat) _ => acc ++ [next (acc.getLastD (eps.headD 0))]) []
  match eps with
  | [] => true
  | e :: _ => walk.getLastD 0xFFFF == e && eps.all walk.contains

/-- Some member is reached only through S7-mode ports, of a job that uses circuits, sealed mode or Gealmub collectives (R27): as
the plan's ports, routes, slots and trees show, or as it says of the rest of the job. -/
def planS7 (pl : Plan) : Bool :=
  let use (p : Nat) : Nat := planUse (planEntry pl p)
  let out (e : Nat) := pl.routes.filter fun r => r.2.1 == e && routeValid r.2.2 && routeKind r.2.2 == 1
  let only := pl.endpoints.any fun e => !(out e).isEmpty && (out e).all fun r => use (routeA r.2.2) == 3 && use (routeB r.2.2) == 3
  let uses := (pl.slots.any fun c => c.2.2 != 0) || !pl.trees.isEmpty || (List.range 26).any fun p => planSealed (planEntry pl p)
  (pl.needsGealmub || uses) && (pl.s7Only || only)

/-- A plan's status: OK, or the refusal its rules give (R27, R221, R230, R244, R253, R256, R264, R296). -/
def State.planStatus (s : State) (pl : Plan) : Nat :=
  let use (p : Nat) : Nat := planUse (planEntry pl p)
  let peer (p : Nat) : Bool := decide (p < 24) && use p == 1
  let formats := (List.range 26).all fun p =>
    let e := (planEntry pl p).toNat
    bits e 4 4 == 0 && bits e 14 2 == 0 && bits e 37 27 == 0 && (bits e 2 1 == 0 || use p == 1) &&
      (use p != 3 || (bits e 64 64 != 0))
  let uses := (List.range 26).all fun p =>
    (use p != 2 || decide (24 ≤ p)) && (use p != 3 || decide (p < 24)) && (use p == 0 || s.portFitted p)
  let s7 := decide (((List.range 24).filter fun p => use p == 3).length ≤ 8)
  let own (o : Nat) : Bool := o == 0xFFFF || pl.endpoints.contains o
  let eps := pl.endpoints.length ≤ 256 && pl.endpoints.Nodup && (pl.endpoints.all fun e => decide (e < 0xFFFF)) &&
    own pl.own0 && own pl.own1 && (pl.own0 != pl.own1 || pl.own0 == 0xFFFF)
  let weights := pl.weights.length == 4 && (pl.weights.all fun w => decide (1 ≤ w ∧ w ≤ 253)) && pl.weights.foldl (· + ·) 0 == 256
  let ring := pl.endpoints.isEmpty || ((pl.own0 == 0xFFFF || peer pl.ring0) && (pl.own1 == 0xFFFF || peer pl.ring1) &&
    oneCycle pl.ring pl.endpoints)
  let trees := pl.trees.all fun t => decide (1 ≤ t.2.1 ∧ t.2.1 ≤ 255) && bits t.2.2.toNat 28 4 == 0 &&
    (List.range 26).all fun i => bits t.2.2.toNat (2 + i) 1 == 0 || peer i
  let routes := pl.routes.all fun r => routeKind r.2.2 != 3 && bits r.2.2.toNat 26 6 == 0
  let slots := pl.slots.all fun c => decide (c.2.1 < 256 ∧ c.2.2 < 256) && (c.2.2 == 0 || peer c.1)
  if !(formats && uses && s7 && eps && weights && ring && trees && routes && slots) || planS7 pl then 0x0B
  else if 8192 < pl.windowUnits * pl.sources then 0x0C
  else 0

/-- Port fields from the plan, in force at once: mode, sealed, s7_net (R230, R241). -/
def State.planPorts (s : State) (pl : Option Plan) : State :=
  (List.range 26).foldl (fun s p =>
    let e := match pl with | some x => planEntry x p | none => 0
    let mode := if planUse e = 2 then 1 else if planUse e = 3 then 2 else 0
    ((s.fset F.PORT_CFG_mode mode p).fset F.PORT_CFG_sealed (if planSealed e then 1 else 0) p).fset F.PORT_CFG_s7_net
      (if planUse e = 3 then planNet e else 0) p) s

/-- Pairs at their source as a plan is delivered (R263, R269): a listed pair that was unreachable starts afresh with the next epoch,
one whose other end has been recovered at epoch 0; the others go on, with the new window. -/
def planTx (pl : Plan) (old : Nat) (p : TxPair) : TxPair :=
  let new := pl.windowUnits * 16
  if pl.resets.contains p.dst then ⟨p.dst, 0, false, 0, new, [], p.gen + 1⟩
  else if p.unreachable ∧ pl.endpoints.contains p.dst then ⟨p.dst, (p.epoch + 1) % 256, false, 0, new, [], p.gen + 1⟩
  else { p with limit := p.limit + new - old }

/-- Pairs at their destination (R263, R269): those the plan names start afresh; packets accepted in the old epoch and not yet placed
go with it (log 107). -/
def planRx (pl : Plan) (iod : Nat) (rx : List RxPair) : List RxPair :=
  let named := (pl.restarts.filter fun r => r.1 == iod).map Prod.snd
  let all := rx ++ (named.filter fun e => !(rx.any fun p => p.src == e)).map fun e => ⟨e, 0, 0, []⟩
  all.map fun p =>
    if pl.resets.contains p.src then ⟨p.src, 0, 0, []⟩
    else if named.contains p.src then ⟨p.src, (p.epoch + 1) % 256, 0, []⟩
    else p

/-- Router tables and registers of an I/O die from the plan (R246, R253, R256, R260, R263, R264, R267, R296). A packet at the head of
its queue keeps the entry it has read (R246); a pair to a module that was recovered is lost first, if packets are outstanding. -/
def State.planRouter (s : State) (iod : Nat) (pl : Plan) : State :=
  let own := if iod = 0 then pl.own0 else pl.own1
  let s0 := pl.resets.foldl (fun s e => if (s.router iod).outst.any fun p => p.dst == e then s.loseRoute iod e else s) s
  let r := s0.router iod
  let s1 := s0.setRouter iod { r with
    routes := pl.routes.foldl (fun m x => if x.1 = iod then m.set (fun _ => (0 : BitVec 32)) x.2.1 x.2.2 else m) []
    slots := pl.slots.foldl (fun m x =>
      if portDie x.1 = iod then m.set (fun _ => 0) (x.1 * 256 + x.2.1) x.2.2 else m) []
    trees := pl.trees.foldl (fun m x => if x.1 = iod then m.set (fun _ => (0 : BitVec 32)) x.2.1 x.2.2 else m) []
    tx := r.tx.map (planTx pl (s0.windowFlits iod)), rx := planRx pl iod r.rx
    queue := r.queue.zipIdx.map fun x =>
      if r.isHead x.2 x.1 && x.1.p.dst != 0xFFFF then { x.1 with entry := some (s0.entryOf iod x.1) } else x.1 }
  let s2 := s1.setReg 0 (Page.ROUTE + iod) 0x80 (own % 2 ^ 16 + 2 ^ 16 + (if iod = 0 then pl.ring0 else pl.ring1) % 32 * 2 ^ 17)
  let s3 := s2.setReg 0 (Page.ROUTE + iod) 0x84 (pl.strict.toNat + (if pl.escEn then 16 else 0))
  let s4 := s3.setReg 0 (Page.ROUTE + iod) 0x88 (leNat (pl.weights.map fun w => BitVec.ofNat 8 w))
  let s5 := s4.setReg 0 (Page.ROUTE + iod) 0x8C (pl.windowUnits % 2 ^ 10 + pl.sources % 2 ^ 16 * 2 ^ 16)
  (s5.fset F.ROUTE_POOL_eject (pl.windowUnits * pl.sources) iod).fset F.ROUTE_CMAP_CFG_collector pl.collector iod

/-- Ports after a plan change (R227, R230): held, quarantined and absent ports train again; ports waiting for a plan
exchange their sets again. A port whose use changed trains afresh. -/
def State.planTrain (s : State) (old : Option Plan) (pl : Option Plan) : State :=
  (List.range 26).foldl (fun s p =>
    let st := s.portState p
    let was := match old with | some x => planUse (planEntry x p) | none => 1
    let now := match pl with | some x => planUse (planEntry x p) | none => 1
    if !s.portFitted p ∨ st = stOff ∨ st = stRetired then s
    else if st = stHeld ∨ st = stQuarantine ∨ st = stAbsent ∨ (was ≠ now ∧ st ≠ stDetect ∧ st ≠ stTrain ∧ st ≠ stWaitPlan) then
      s.toDetect p
    else if st = stWaitPlan ∧ pl.isSome then s.toIdentify p
    else s) s

/-- BEAT_ALIGN after a plan (R35): MASTER when it names this module, SEEKING when it names another, FREE without. -/
def State.planBeat (s : State) (pl : Plan) : State :=
  let mine (e : Nat) : Bool := e == pl.own0 || (e == pl.own1 && pl.own1 != 0xFFFF)
  let st := s.fget F.BEAT_ALIGN_state
  match pl.master with
  | none => ((s.fset F.BEAT_ALIGN_state 0).fset F.BEAT_CFG_master 0).fset F.BEAT_ALIGN_master_id 0
  | some m =>
    let s0 := { s with beat := { s.beat with hops := [], accepted := 0 } }
    let s1 := (s0.when (st == 0 || st == 1) fun s => { s with beat := { s.beat with since := 0, raised := false } }).fset
      F.BEAT_ALIGN_master_id m
    if mine m then (s1.fset F.BEAT_ALIGN_state 1).fset F.BEAT_CFG_master 1
    else (s1.fset F.BEAT_ALIGN_state (if st = 0 ∨ st = 1 then 2 else st)).fset F.BEAT_CFG_master 0

end Sys2Proof.Machine
end

