-- ==== Sys2Proof/Machine/Sense.lean ====
section
/-! DEFINITION. Temperature sensors and the spots they give (R393-R396), and whether a page's domain is fenced (R346). -/

namespace Sys2Proof.Machine

/-- STATUS.fenced of a page (R342, R346). -/
def State.pageFenced (s : State) (page : Nat) : Bool := (s.reg 0 page 0x14).testBit 1

/-- STATUS.ready of a page. -/
def State.pageReady (s : State) (page : Nat) : Bool := (s.reg 0 page 0x14).testBit 0

/-- Sensors are named by instance (SENS_ instance 0-6, or 8 + i for stack i) and point (R393). -/
def State.sensor (s : State) (inst point : Nat) : Sensor := s.cal.sensors.get (fun _ => Sensor.reset) (inst * 64 + point)
def State.setSensor (s : State) (inst point : Nat) (x : Sensor) : State :=
  { s with cal := { s.cal with sensors := s.cal.sensors.set (fun _ => Sensor.reset) (inst * 64 + point) x } }

/-- Points of an instance (R393); none for one the module does not carry. -/
def State.points (s : State) (inst : Nat) : Nat :=
  if inst < 4 then 64 else if inst = 4 then 16 else if inst = 5 then (if s.iodFitted 1 then 16 else 0)
  else if inst = 6 then 4 else if inst < 8 then 0 else if s.stackFitted (inst - 8) then 2 else 0

/-- Throttle and trip limits in degrees (R393). -/
def throttleLimit (inst : Nat) : Int := if inst < 4 then 105 else if inst < 8 then 100 else 88
def tripLimit (inst : Nat) : Int := if inst < 4 then 115 else if inst < 8 then 110 else 100

/-- A usable sensor's reading (R394). -/
def Sensor.usable (x : Sensor) : Option Int := if x.bad || x.stuck then none else x.value

/-- The spot of a pair in quarter degrees (R395): the hotter reading, one reading plus 5 degrees, or the throttle limit;
none before the pair has been sampled at all. -/
def State.spot (s : State) (inst pair : Nat) : Option Int :=
  let a := s.sensor inst (2 * pair)
  let b := s.sensor inst (2 * pair + 1)
  match a.usable, b.usable with
  | some x, some y => some (max x y)
  | some x, none => some (x + 20)
  | none, some y => some (y + 20)
  | none, none => if a = Sensor.reset ∧ b = Sensor.reset then none else some (4 * throttleLimit inst)

/-- All spots of an instance, with their pairs. -/
def State.spots (s : State) (inst : Nat) : List (Nat × Int) :=
  (List.range (s.points inst / 2)).filterMap fun k => (s.spot inst k).map fun t => (k, t)

/-- The hottest spot and its pair, the lowest of equals. -/
def State.hottest (s : State) (inst : Nat) : Option (Nat × Int) :=
  (s.spots inst).foldl (fun m x => match m with | none => some x | some y => if y.2 < x.2 then some x else m) none

/-- Instances the module carries: dies, then stacks. -/
def State.senseInsts (s : State) : List Nat := (List.range 20).filter fun i => s.points i != 0

/-- Some spot is at or above the throttle limit (R396). -/
def State.isHot (s : State) (inst : Nat) : Bool := (s.spots inst).any fun x => decide (4 * throttleLimit inst ≤ x.2)

/-- Every spot is at least 3 degrees below the throttle limit (R396). -/
def State.isCool (s : State) (inst : Nat) : Bool := (s.spots inst).all fun x => decide (x.2 ≤ 4 * throttleLimit inst - 12)

/-- A temperature in the register's units: quarter degrees above -40 (R404). -/
def tempCode (t : Int) : Nat := min 0x3FF (t + 160).toNat

end Sys2Proof.Machine
end

