-- ==== Sys2Proof/Machine/Memory.lean ====
section
/-! DEFINITION. HBM from the host and from the base die (R204-R217, R310): host accesses, the patrol scrubber, row repair,
refresh, training and the loss of a half stack. -/

namespace Sys2Proof.Machine

def stackOk (s : State) (i : Nat) : Bool := decide (i < 12) && s.stackFitted i

/-! Host accesses (R204, R215, R310, R417). -/

/-- A deckle whose function is present (R489). -/
def State.deckleActive (s : State) (d : Nat) : Bool := decide (d < 16) && s.fget F.DECKLE_STATE_state 0 (ofDeckle d) == 2

/-- The memory behind some entry of the deckle is fenced, or not in service (R212, R417). -/
def State.memFenced (s : State) (d : Nat) : Bool :=
  (s.entries d).any fun e => s.pageFenced (Page.HBMC + e.1) || s.memState e.1 == memRefresh

/-- The request reaches the deckle's HDM range: its function present, its link active (R308, R489). -/
def State.hdmReach (s : State) (d a n : Nat) : Bool :=
  s.deckleActive d && s.linkActive (s.linkOf (4 + d)) && decide (0 < n) && decide (a + n ≤ s.localSize d)

/-- HOST_MEM_READ (R310): the bytes of the deckle's local HBM, with the errors its read finds (R204); poison where the range lies in the arena, the deckle has lost
its HBM, the domain is fenced, or a unit is poisoned. -/
def execHostMemRead (deckle addr len : Nat) (errs : List (Nat × Nat)) (s : State) : Host.Outcome State Fault Refusal :=
  guardUnit (decide (deckle < 16)) <|
    if !s.hdmReach deckle addr len then s
    else
      let data := s.localRead deckle addr len
      let poisoned (s : State) : State := (s.bump C.CXLP_POISON_CNT).emit (.hostData data true)
      if (s.deckle deckle).lost || s.inArena deckle addr len then poisoned (s.bump C.DECKLE_MEM_REFUSE_CNT)
      else if s.memFenced deckle then poisoned s
      else
        let s := s.demandRead deckle addr len errs
        match s.localBad deckle addr len with
        | some _ => poisoned (s.countPoisons deckle addr len)
        | none => s.emit (.hostData data false)

/-- HOST_MEM_WRITE (R310): placed in the deckle's local HBM; dropped and counted where it may not be performed. -/
def execHostMemWrite (deckle addr : Nat) (data : List Byte) (s : State) : Host.Outcome State Fault Refusal :=
  guardUnit (decide (deckle < 16)) <|
    if !s.hdmReach deckle addr data.length then s
    else if (s.deckle deckle).lost || s.inArena deckle addr data.length || s.memFenced deckle then
      s.bump C.DECKLE_MEM_REFUSE_CNT
    else s.localWrite deckle addr data

/-! Rows (R200, R208, R408): a row is numbered by bits [28:4] of its broke-map location. -/

def rowLoc (stack row : Nat) : Nat := stack + row * 16

/-- A row exists: channel, pseudo-channel, bank and a row below 6,144 (R200). -/
def rowOk (row : Nat) : Bool := decide (row / 2 ^ 12 < 6144)

/-- Spares of a row's bank and SID left for repair, of the 3 beside the training row (R208). -/
def Stack.spares (x : Stack) (row : Nat) : Nat :=
  3 - ((x.repaired ++ x.moved).filter fun r => r % 2 ^ 12 == row % 2 ^ 12).length

/-- 64-byte units of a channel (R198). -/
def channelUnits : Nat := 3 * 2 ^ 30 / 64

/-- SCRUB (R206): the scrubber reads the next unit of a channel in an active stack, every unit in turn; `symbols` of it are in error. A
poisoned unit is always found uncorrectable, and faults nobody. -/
def execScrub (stack channel symbols : Nat) (s : State) : Host.Outcome State Fault Refusal :=
  guardUnit (stackOk s stack && decide (channel < 32)) <|
    if s.memState stack ≠ memActive ∨ s.fget F.HBMC_SCRUB_period_h stack = 0 then s
    else
      let at_ := (s.stack stack).scrub.get (fun _ => 0) channel
      let choff := at_ * 64
      let s1 := s.modStack stack fun x => { x with scrub := x.scrub.set (fun _ => 0) channel ((at_ + 1) % channelUnits) }
      if s1.poison.get (fun _ => false) (hbmKey stack channel choff / 64) then s1.bump C.HBMC_POISON_RD_CNT stack
      else
        let f := s1.eccFound symbols
        match f.1 with
        | .clean => f.2
        | .corrected => (f.2.bump C.HBMC_SCRUB_CE_CNT stack).rowError stack (rowOf' channel choff)
        | .uncorrectable => f.2.poisonUnit stack channel choff

/-- ROW_REPAIR (R207, R208, R425): a scheduled row takes the memory-repair lock and its repair starts; it waits while a
conflicting lock is held. With no spare left the row is recorded as unrepaired. -/
def execRowRepair (stack row : Nat) (s : State) : Host.Outcome State Fault Refusal :=
  guardUnit (stackOk s stack && rowOk row) <|
    let x := s.stack stack
    if !x.scheduled.contains row ∨ x.repairing.isSome ∨ s.memState stack ≠ memActive then s
    else
      let x1 := { x with scheduled := x.scheduled.erase row }
      if x.spares row = 0 then
        ((s.modStack stack fun _ => { x1 with unrepaired := x.unrepaired ++ [row] }).brokeAdd 0x5 (rowLoc stack row) 0x0D
          true).raiseStack E.HBMC_no_spare stack
      else if (s.conflict 4 stack).isSome then s
      else (s.modStack stack fun _ => { x1 with repairing := some row }).takeLock 4 stack (4, 0) 0

/-- Fewest spares left in any bank and SID of a stack. -/
def Stack.spareMin (x : Stack) : Nat := (x.repaired ++ x.moved).foldl (fun n r => min n (x.spares r)) 3

/-- ROW_REPAIR_DONE (R207): the row lies in a spare, its contents kept, and is recorded in the broke map; its errors so
far were those of the row it replaces. -/
def execRowRepairDone (stack row : Nat) (s : State) : Host.Outcome State Fault Refusal :=
  guardUnit (stackOk s stack && rowOk row) <|
    let x := s.stack stack
    if x.repairing ≠ some row then s
    else
      let x1 := { x with
        repairing := none, repaired := x.repaired ++ [row], rowErrs := x.rowErrs.filter fun e => e.1 != row }
      let s1 := (s.modStack stack fun _ => x1).brokeAdd 0x4 (rowLoc stack row) 0x0D true
      let s2 := s1.fset F.HBMC_REPAIR_spare_min x1.spareMin stack
      let s3 := s2.fset F.HBMC_REPAIR_soft_pending (min 255 (s.fget F.HBMC_REPAIR_soft_pending stack + 1)) stack
      ((s3.bump C.HBMC_REPAIR_CNT stack).raiseStack E.HBMC_repair stack).freeLock 4 stack

/-- A repair met by the fence of its domain (R217): it completes if it can within 10 us, else it is abandoned and scheduled
again; which of the two is a free value. -/
def State.repairAtFence (s : State) (stack : Nat) : State :=
  match (s.stack stack).repairing with
  | none => s
  | some row =>
    let f := s.free
    if (Config.freeWord f.1).getLsbD 0 then
      match execRowRepairDone stack row f.2 with
      | .next t => t
      | _ => f.2
    else (f.2.modStack stack fun x => { x with repairing := none, scheduled := x.scheduled ++ [row] }).freeLock 4 stack

/-! Refresh (R209). -/

/-- The refresh code for a temperature in quarter degrees. -/
def refreshCode (t : Int) : Nat := if t < 4 * 85 then 0 else if t < 4 * 95 then 1 else 2

/-- REFRESH_RATE_CHANGE (R209): the rate rises with the stack's spot at once; `cooled` says that the spot has stayed 2 degrees
or more below the threshold for 100 ms, and then it falls. -/
def execRefreshRateChange (stack : Nat) (cooled : Bool) (s : State) : Host.Outcome State Fault Refusal :=
  guardUnit (stackOk s stack) <|
    match s.spot (8 + stack) 0 with
    | none => s
    | some t =>
      let now := s.fget F.HBMC_STATE_refresh stack
      let up := refreshCode t
      let down := refreshCode (t + 7)
      let next := if now < up then up else if cooled && decide (down < now) then down else now
      if next = now then s else (s.fset F.HBMC_STATE_refresh next stack).raiseStack E.HBMC_refresh_change stack

/-- HALF_STACK_FAIL (R215): a channel of the half fails in service. -/
def execHalfStackFail (stack half : Nat) (s : State) : Host.Outcome State Fault Refusal :=
  guardUnit (stackOk s stack && decide (half < 2)) <|
    if s.memState stack = memActive then s.failHalf stack half else s

/-! Training (R210, R211). -/

/-- Every fitted stack starts its training. -/
def State.trainStart (s : State) : State :=
  s.each ((List.range 12).filter s.stackFitted) fun s i =>
    if s.memState i = memOff ∨ s.memState i = memRefresh then s.fset F.HBMC_STATE_state memTraining i else s

/-- An uncorrectable error in the training row of a bank: training repeats on a spare row of it, its training row from then on (R208,
R217). -/
def State.moveTraining (s : State) (i row : Nat) : State :=
  if (s.stack i).spares row = 0 then s
  else
    let s1 := s.modStack i fun x => { x with moved := x.moved ++ [row % 2 ^ 12] }
    s1.fset F.HBMC_REPAIR_spare_min (s1.stack i).spareMin i

/-- A stack in training ends it: failed channels fail their halves, soft repairs become hard, and at power-on every unit is
written with zeros. -/
def State.trainStack (s : State) (failed : List Nat) (spare : List (Nat × Nat)) (ms : Nat) (zero : Bool) (i : Nat) : State :=
  if s.memState i ≠ memTraining then s
  else
    let s0 := if zero then
        { s with hbm := s.hbm.clear fun k => k / 2 ^ 37 == i, poison := s.poison.clear fun k => k / 2 ^ 31 == i }
      else s
    let s1 := (s0.fset F.HBMC_STATE_state memActive i).fset F.HBMC_STATE_train_ms (min 0xFFFF ms) i
    let s2 := (s1.fset F.HBMC_REPAIR_soft_pending 0 i).each ((spare.filter fun p => p.1 == i).map Prod.snd)
      fun s row => s.moveTraining i row
    s2.each [0, 1] fun s h =>
      if failed.any fun c => c / 32 == i && c % 32 / 16 == h then
        let fresh := !(s.fget F.HBMC_STATE_failed i).testBit h
        (s.when fresh (·.bump C.HBMC_TRAIN_FAIL_CNT i)).failHalf i h
      else s

def State.trainDone (s : State) (failed : List Nat) (spare : List (Nat × Nat)) (ms : Nat) (zero : Bool) : State :=
  s.each (List.range 12) fun s i => s.trainStack failed spare ms zero i

end Sys2Proof.Machine
end

