-- ==== Sys2Proof/Machine/Units.lean ====
section
/-! DEFINITION. Shared pieces of the control complex: messages with a cause (R445), reset domains and their pages (R346,
R412), clock enables (R372), the control units' states (R439, R440), profile records (R468, R469), and how a FIRMWARE
activity ends (R471, R472, R475). -/

namespace Sys2Proof.Machine

/-! Messages with a cause; the codes are the model's (log 16), in the order of R445. -/

/-- POWER_EVENT: 0 CAP_UNATTAINABLE, 1 leak wet, 2 leak fault, 3 thermal trip, 4 cap change. -/
def State.powerEvent (s : State) (cause : Nat) : State := s.duntus 0x23 [BitVec.ofNat 8 cause]
/-- ALARM: 0 FAILED, 1 unit failed, 2 leak wet, 3 thermal trip. -/
def State.alarm (s : State) (cause : Nat) : State := s.duntus 0x51 [BitVec.ofNat 8 cause]
/-- CU_EVENT: 0 takeover, 1 handover, 2 hb_single, 3 copy failure. -/
def State.cuEvent (s : State) (cause : Nat) : State := s.duntusEvent 0x52 [BitVec.ofNat 8 cause]

/-! Reset domains (R346, R412). -/

def computePages : List Nat := (List.range 48).map (Page.TILE + ·)
def memoryPages : List Nat := (List.range 12).map (Page.SCREEN + ·) ++ (List.range 12).map (Page.HBMC + ·)
def ioPages : List Nat :=
  (List.range 26).map (Page.PORT + ·) ++ [Page.ROUTE, Page.ROUTE + 1, Page.COLL, Page.COLL + 1, Page.CXLP]

/-! Clock enables (R372). -/

/-- The enable bit of a page's block; none for a page that is never gated. -/
def clockBit (page : Nat) : Option Fld :=
  if 0x30 ≤ page ∧ page < 0x60 then some ⟨Page.CLKCTL, 0x90, page - 0x30, 1⟩
  else if 0x20 ≤ page ∧ page < 0x2C then some ⟨Page.CLKCTL, 0x98, page - 0x20, 1⟩
  else if 0x10 ≤ page ∧ page < 0x1C then some ⟨Page.CLKCTL, 0x98, 16 + (page - 0x10), 1⟩
  else if 0x60 ≤ page ∧ page < 0x7A then some ⟨Page.CLKCTL, 0x9C, page - 0x60, 1⟩
  else if 0x7 ≤ page ∧ page ≤ 0xA then some ⟨Page.CLKCTL, 0xA0, page - 0x7, 1⟩
  else if page = 0x80 ∨ page = 0x81 then some ⟨Page.CLKCTL, 0xA0, 4 + (page - 0x80), 1⟩
  else if page = 0x88 ∨ page = 0x89 then some ⟨Page.CLKCTL, 0xA0, 6 + (page - 0x88), 1⟩
  else if 0x90 ≤ page ∧ page < 0x97 then some ⟨Page.CLKCTL, 0xA0, 8 + (page - 0x90), 1⟩
  else none

def State.clocked (s : State) (page : Nat) : Bool :=
  match clockBit page with
  | some f => s.flag f
  | none => true

/-- Pages of blocks that can be gated. -/
def gatedPages : List Nat := (List.range 256).filter fun p => (clockBit p).isSome

/-- STATUS.fenced set and ready cleared on pages, their held halves discarded (R346, R349). -/
def State.fencePages (s : State) (ps : List Nat) : State :=
  let s1 := s.each ps fun s p => s.setReg 0 p 0x14 2
  { s1 with held := s1.held.filter fun h => !ps.contains h.page }

/-- The end of a domain's reset: its clocked blocks are ready again (R346, R414). -/
def State.unfencePages (s : State) (ps : List Nat) : State :=
  s.each ps fun s p => s.setReg 0 p 0x14 (if s.clocked p && s.pageFitted p then 1 else 0)

/-- FAILED (R412): every domain but the control complex fenced, an ALARM sent. -/
def State.fail (s : State) : State :=
  if s.rsState = rsFailed then s
  else ((s.fencePages (computePages ++ memoryPages ++ ioPages)).fset F.RSTCTL_STATE_state rsFailed).alarm 0

/-- FAILED during bring-up (R483, R485, R486): with its step and status. -/
def State.failUp (s : State) (step status : Nat) : State :=
  ((s.fset F.RSTCTL_BRINGUP_phase 7).fset F.RSTCTL_BRINGUP_fail_step step).fset F.RSTCTL_BRINGUP_fail_status status |>.fail

/-! Control units (R439, R440, R453). -/

def cuOff : Nat := 0
def cuBoot : Nat := 1
def cuSync : Nat := 2
def cuStandby : Nat := 3
def cuActive : Nat := 4
def cuFailed : Nat := 5
def cuUpdating : Nat := 6

def unitF (u : Nat) : Fld := if u = 0 then F.MGT_CU_a_state else F.MGT_CU_b_state
def State.unit (s : State) (u : Nat) : Nat := s.fget (unitF u)
/-- The unit named in MGT_CU.active, and the other. -/
def State.active (s : State) : Nat := s.fget F.MGT_CU_active
def State.standby (s : State) : Nat := 1 - s.active

/-- The active unit does its work: its clock runs, and not both of its paths are silent (R431, R436; log 112). -/
def State.controlRuns (s : State) : Bool := !s.ctl.halted.contains s.active && !s.ctl.quiet.contains s.active

/-- A unit's state set; MGT_CU.in_sync is 1 only while the standby is in STANDBY (R434). -/
def State.setUnit (s : State) (u st : Nat) : State :=
  let s1 := s.fset (unitF u) st
  s1.fset F.MGT_CU_in_sync (if s1.unit s1.standby = cuStandby then 1 else 0)

/-- A unit falls silent or fails BOOT (R440): the third time within 1 h it is FAILED, else `next`. -/
def State.unitFails (s : State) (u next : Nat) : State :=
  let recent := s.ctl.fails.filter fun f => decide (s.ms < f.2 + 3600000)
  let n := (recent.filter fun f => f.1 == u).length + 1
  let s1 := { s with ctl := { s.ctl with fails := recent ++ [(u, s.ms)] } }
  if 3 ≤ n then ((s1.setUnit u cuFailed).raise E.MGT_unit_failed).alarm 1 else s1.setUnit u next

/-! Profile records (R468, R469). -/

/-- A record of the factory configuration. -/
def factoryRecord : List Byte :=
  leBytes 4 (0x01 + 10 * 2 ^ 8) ++ leBytes 4 (3000 + 1500 * 2 ^ 12 + 4 * 2 ^ 24) ++ leBytes 4 (10 + 3 * 2 ^ 5 + 32 * 2 ^ 8) ++
    List.replicate 20 0

def recBeat (r : List Byte) : Nat := fieldAt r 0 8 4
def recSplit (r : List Byte) : Nat := fieldAt r 0 12 2
def recBypass (r : List Byte) : Nat := fieldAt r 0 14 1
def recCap (r : List Byte) : Nat := fieldAt r 4 0 12
def recLeakCap (r : List Byte) : Nat := fieldAt r 4 12 12
def recWindow (r : List Byte) : Nat := fieldAt r 4 24 4
def recGrace (r : List Byte) : Nat := fieldAt r 8 0 5
def recPfc (r : List Byte) : Nat := fieldAt r 8 5 3
def recCnp (r : List Byte) : Nat := fieldAt r 8 8 8

/-- A record holds no reserved encoding and no value outside its range (R468). -/
def recordOk (r : List Byte) : Bool :=
  r.length == 32 && fieldAt r 0 0 8 == 1 && decide (8 ≤ recBeat r ∧ recBeat r ≤ 12) && decide (recSplit r ≤ 2) &&
    fieldAt r 0 15 17 == 0 && decide (600 ≤ recCap r ∧ recCap r ≤ 3400) &&
    decide (600 ≤ recLeakCap r ∧ recLeakCap r ≤ 3400) && decide (1 ≤ recWindow r ∧ recWindow r ≤ 10) &&
    fieldAt r 4 28 4 == 0 && decide (recGrace r ≤ 30) && decide (1 ≤ recCnp r) && fieldAt r 8 16 16 == 0 &&
    (r.drop 12).all (· == 0)

/-- The record of the selected profile. -/
def State.profile (s : State) : List Byte := s.nvm.profiles.getD (s.fget F.NVM_PROFILE_sel) factoryRecord

/-- The package-reset part of a record. -/
def pkgPart (r : List Byte) : Nat × Nat × Nat × Nat := (recSplit r, recBypass r, recPfc r, recCnp r)

/-- NVM_PROFILE shows fields of a class not yet reached as pending (R469). -/
def State.notePending (s : State) : State :=
  let r := s.profile
  let cd := recBeat r != s.fget F.BEAT_CFG_beat_log2
  let pkg := pkgPart r != pkgPart s.nvm.inForce
  (s.fset F.NVM_PROFILE_pend_cd (if cd then 1 else 0)).fset F.NVM_PROFILE_pend_pkg (if pkg then 1 else 0)

/-- The selected profile takes effect: its live fields at the next boundary, the others by class (R468, R469). -/
def State.profileTakes (s : State) : State := ({ s with nvm := { s.nvm with liveDue := true } }).notePending

/-- A selection by command or register (R469). -/
def State.selectProfile (s : State) (n : Nat) : State :=
  ((s.fset F.NVM_PROFILE_sel n).fset F.NVM_PROFILE_by_cmd 1).profileTakes

/-- The pins are sampled (R469): they select unless a command selection stands. -/
def State.samplePins (s : State) : State :=
  let s1 := s.fset F.NVM_PROFILE_pins s.bring.sel
  (s1.when (!s1.flag F.NVM_PROFILE_by_cmd) (·.fset F.NVM_PROFILE_sel s.bring.sel)).profileTakes

/-- The fields of the class compute-domain reset. -/
def State.applyCd (s : State) : State := (s.fset F.BEAT_CFG_beat_log2 (recBeat s.profile)).notePending

/-- The fields of the class package reset. -/
def State.applyPkg (s : State) : State :=
  let r := s.profile
  let s1 := (s.fset F.CXLP_SPLIT_split (recSplit r)).fset F.CLKCTL_ROOT_bypass (recBypass r)
  ({ s1 with nvm := { s1.nvm with inForce := r } }).applyCd

/-- The live fields (R468): the calender's and the grace period. -/
def State.applyLive (s : State) : State :=
  let r := s.profile
  let s1 := ((s.fset F.CALENDER_CFG_window_s (recWindow r)).fset F.CALENDER_CFG_prof_cap_w (recCap r)).fset
    F.CALENDER_CFG_leak_cap_w (recLeakCap r)
  let s2 := s1.fset F.MGT_OFF_grace_s (recGrace r)
  { s2 with nvm := { s2.nvm with liveDue := false } }

/-! The end of a FIRMWARE activity (R471, R472, R475). -/

/-- The activity ends and its lock is freed. -/
def State.endActivity (s : State) : State :=
  match s.nvm.activity with
  | none => s
  | some _ =>
    ({ s with nvm := { s.nvm with activity := none, verified := false } }).freeLock 5 0

/-- The region, 0 A, 1 B or 2 recovery, that a unit runs. -/
def State.unitRegion (s : State) (u : Nat) : Nat := if u = 0 then s.nvm.unitA else s.nvm.unitB
def State.setUnitRegion (s : State) (u r : Nat) : State :=
  { s with nvm := if u = 0 then { s.nvm with unitA := r } else { s.nvm with unitB := r } }

/-- The image header a unit runs. -/
def State.unitHead (s : State) (u : Nat) : List Byte := if u = 0 then s.nvm.headA else s.nvm.headB

/-- The firmware of the active unit as registers show it (R230, R476): region, version, link protocol version. -/
def State.showFirmware (s : State) : State :=
  let h := s.unitHead s.active
  let r := s.unitRegion s.active
  let s1 := (s.fset F.NVM_STATE_boot (if r = 2 then 0 else r + 1)).fset F.NVM_FW_version (fieldAt h 0x18 0 32)
  s1.each ((List.range 26).filter s1.portFitted) fun s p => s.fset F.PORT_VER_own (fieldAt h 0x10 16 16) p

/-- A switch before its handover is abandoned (R472, R475): the standby is reset onto the old region. -/
def State.abandonSwitch (s : State) (result : Nat) : State :=
  let old := s.unitRegion s.active
  let s1 := (s.setUnitRegion s.standby old).setUnit s.standby cuBoot
  let s2 := { s1 with nvm := { s1.nvm with phase := .none }, ctl := { s1.ctl with change := false } }
  ((s2.fset F.NVM_STATE_result result).bump C.NVM_ABANDON_CNT).raise E.NVM_update_abandoned

/-- The session of a view ends and with it the activity it began, as END would: a switch past its handover goes on to
its end and keeps the activity until then (R475). -/
def State.endActivityOf (s : State) (view : Nat) : State :=
  if s.nvm.activity = some view then
    match s.nvm.phase with
    | .none => s.endActivity
    | .second => s
    | _ => (s.abandonSwitch 0x03).endActivity
  else s

end Sys2Proof.Machine
end

