-- ==== Sys2Proof/Machine/Host.lean ====
section
/-! DEFINITION. Host links, functions and sessions (R305-R317), queues and doorbells (R318, R319), the fetch of descriptors
(R320-R323, R506), and how a command of a queue starts (R322, R508). Functions are numbered as views are: 0-3 function
0 of host link n, 4-19 the function of deckle n - 4. -/

namespace Sys2Proof.Machine

/-! Links and functions. -/

/-- A host link that the split in force creates (R306). -/
def State.linkExists (s : State) (h : Nat) : Bool := decide (h < 2 ^ s.fget F.CXLP_SPLIT_split)

/-- Functions of a host link (R308). -/
def State.functionsOf (s : State) (link : Nat) : List Nat :=
  link :: ((s.allDeckles.filter fun d => s.fget F.DECKLE_STATE_link 0 (ofDeckle d) == link).map (4 + ·))

def State.session (s : State) (fn : Nat) : Session := s.sessions.get (fun _ => Session.reset) fn

/-- A session set, shown in DECKLE_STATE.session or CXLP_LINK.owner. -/
def State.setSession (s : State) (fn : Nat) (x : Session) : State :=
  let s1 := { s with sessions := s.sessions.set (fun _ => Session.reset) fn x }
  let v := if x.opened then 1 else 0
  if fn < 4 then s1.fset (linkOwnerF fn) v
  else if fn < 20 then s1.fset F.DECKLE_STATE_session v 0 (ofDeckle (fn - 4))
  else s1.fset F.MGT_I3C_session v

/-- A session ends (R317, R349, R475): halves its view held are discarded, and the activity it began ends. -/
def State.endSession (s : State) (fn : Nat) : State :=
  if (s.session fn).opened then
    let s1 := s.setSession fn { s.session fn with opened := false, used := [], loads := 0 }
    ({ s1 with held := s1.held.filter fun h => h.view != fn }).endActivityOf fn
  else s

/-- Every queue of a function stops (R307); the records of its commands will be discarded. -/
def State.stopQueues (s : State) (fn : Nat) : State :=
  let s1 := { s with
    queues := s.queues.clear fun k => k / 64 == fn
    cmds := s.cmds.map fun (k : Cmd) => if k.fn = fn then { k with lost := true } else k }
  s1.finishAll (fun k => k.begun && k.fn == fn && k.opcode == 0x05) 0

/-- The copies of banked registers of a view go back to their reset values (R343). -/
def State.resetView (s : State) (view : Nat) : State :=
  { s with
    regs := s.regs.clear fun k => k / 2 ^ 25 == bank view
    latches := s.latches.filter fun h => h.view != view
    held := s.held.filter fun h => h.view != view
    frozen := s.frozen.filter fun f => f.view != view }

/-- A host link leaves its active state (R307). -/
def State.linkLost (s : State) (link : Nat) : State :=
  let s1 := s.each (s.functionsOf link) fun s fn => (s.endSession fn).stopQueues fn
  (((s1.fset (linkStateF link) (if s.bring.perst.contains link then 0 else 1)).fset (linkWidthF link) 0).fset
    (linkRateF link) 0).fset (linkIdeF link) 0

/-- Host links may train (R416, R481): the CXL port is clocked and not fenced, and bring-up has let them. -/
def State.mayTrain (s : State) : Bool :=
  let phase := s.fget F.RSTCTL_BRINGUP_phase
  (phase == 3 || phase == 4) && !s.pageFenced Page.CXLP

/-- Lanes of a host link under the split in force (R306). -/
def State.linkLanes (s : State) : Nat := 16 / 2 ^ s.fget F.CXLP_SPLIT_split

/-- HOST_LINK_UP (R305, R481): a training link becomes active with the lanes, of those of R306, and the rate, 1 to 3, that it settled
at. -/
def execHostLinkUp (link width rate : Nat) (ide : Bool) (s : State) : Host.Outcome State Fault Refusal :=
  guardUnit (decide (link < 4) && s.linkExists link) <|
    if s.fget (linkStateF link) ≠ 1 ∨ !s.mayTrain ∨ width = 0 ∨ s.linkLanes < width ∨ rate = 0 ∨ 3 < rate then s
    else
      (((s.fset (linkStateF link) 2).fset (linkWidthF link) width).fset (linkRateF link) rate).fset (linkIdeF link)
        (if ide then 1 else 0)

/-- HOST_LINK_DOWN (R307). -/
def execHostLinkDown (link : Nat) (s : State) : Host.Outcome State Fault Refusal :=
  guardUnit (decide (link < 4) && s.linkExists link) <| if s.linkActive link then s.linkLost link else s

/-- PERST (R495): the link leaves its active state and is held in Detect; a pin of a link the split does not create is
ignored. -/
def execPerst (link : Nat) (s : State) : Host.Outcome State Fault Refusal :=
  guardUnit (decide (link < 4)) <|
    if !s.linkExists link ∨ s.bring.perst.contains link then s
    else
      let s1 := { s with bring := { s.bring with perst := link :: s.bring.perst } }
      if s1.linkActive link then s1.linkLost link else s1.fset (linkStateF link) 0

/-- PERST_RELEASE (R495): the link trains, once links may. -/
def execPerstRelease (link : Nat) (s : State) : Host.Outcome State Fault Refusal :=
  guardUnit (decide (link < 4)) <|
    if !s.bring.perst.contains link then s
    else
      let s1 := { s with bring := { s.bring with perst := s.bring.perst.filter fun l => l != link } }
      s1.when (s1.linkExists link && s1.mayTrain) (·.fset (linkStateF link) 1)

/-- CONFIG_REQUEST (R317, R343, R481, R489): Retry Status before READY, Unsupported Request for a function that is not
present, success otherwise; a function-level reset ends the function's session, and that of function 0 resets its view's
banked copies. PCI function 0 is the module's, d + 1 deckle d's. Status 0 success, 1 Unsupported Request, 2 Retry. -/
def execConfigRequest (link fn : Nat) (flr : Bool) (s : State) : Host.Outcome State Fault Refusal :=
  guardUnit (decide (link < 4) && s.linkExists link) <|
    if !s.linkActive link then s
    else if !s.upDone then s.emit (.config link fn 2)
    else if fn = 0 then
      (s.when flr fun s => (s.endSession link).resetView link).emit (.config link fn 0)
    else if s.deckleActive (fn - 1) ∧ s.fget F.DECKLE_STATE_link 0 (ofDeckle (fn - 1)) = link then
      (s.when flr (·.endSession (fn + 3))).emit (.config link fn 0)
    else s.emit (.config link fn 1)

/-! Doorbells (R319). -/

/-- Deckles a function's events are attributed to. -/
def deckleOfFn (fn : Nat) : List Nat := if fn < 4 then [] else [fn - 4]

/-- A queue stops in ERROR. -/
def State.queueError (s : State) (fn queue : Nat) : State :=
  (s.setQueue fn queue { s.queue fn queue with state := .error }).raiseTo E.DECKLE_queue_error (deckleOfFn fn)

/-- A doorbell page exists (R308). -/
def State.doorbellOk (s : State) (fn queue : Nat) : Bool :=
  if fn < 4 then s.linkExists fn && queue == 0 else decide (fn < 20 ∧ queue < 64)

/-- SQ_TAIL_DOORBELL (R319): passes descriptors; a value of 2^e or above, or a tail that would overrun completion entries
not yet freed, stops the queue in ERROR. A doorbell of a queue that is not running is ignored (R332). -/
def execSqTailDoorbell (fn queue value : Nat) (s : State) : Host.Outcome State Fault Refusal :=
  guardUnit (s.doorbellOk fn queue) <|
    let q := s.queue fn queue
    let n := (value + 2 ^ q.e - q.passed % 2 ^ q.e) % 2 ^ q.e
    if q.state ≠ .running then s
    else if 2 ^ q.e ≤ value ∨ 2 ^ q.e < q.passed + n - q.freed then s.queueError fn queue
    else s.setQueue fn queue { q with passed := q.passed + n }

/-- CQ_HEAD_DOORBELL (R319): frees completion entries; a value that would free entries not written is ignored (the model's
choice). -/
def execCqHeadDoorbell (fn queue value : Nat) (s : State) : Host.Outcome State Fault Refusal :=
  guardUnit (s.doorbellOk fn queue) <|
    let q := s.queue fn queue
    let n := (value + 2 ^ q.e - q.freed % 2 ^ q.e) % 2 ^ q.e
    if q.state ≠ .running then s
    else if 2 ^ q.e ≤ value then s.queueError fn queue
    else if q.written < q.freed + n then s
    else s.setQueue fn queue { q with freed := q.freed + n }

/-! Descriptors (R320, R326, R506). -/

/-- A byte range of a descriptor: offset and length. -/
abbrev Bytes := Nat × Nat

def blockRange : List Bytes := [(0x10, 4), (0x14, 4)]

/-- The bytes of the operand area that an opcode's operands use (R506); none for an opcode of no command (R326). -/
def operandBytes (op : Nat) : Option (List Bytes) :=
  match op with
  | 0x01 => some [(0x10, 8)]
  | 0x02 => some [(0x10, 32)]
  | 0x03 => some []
  | 0x04 => some [(0x10, 4), (0x18, 8), (0x20, 8)]
  | 0x05 => some [(0x10, 1)]
  | 0x06 => some [(0x10, 8), (0x18, 8)]
  | 0x07 => some [(0x10, 4)]
  | 0x08 => some [(0x10, 1), (0x14, 4)]
  | 0x10 => some []
  | 0x11 => some [(0x10, 8), (0x18, 8), (0x20, 2)]
  | 0x12 => some []
  | 0x13 => some [(0x10, 1)]
  | 0x14 => some [(0x10, 1)]
  | 0x15 => some []
  | 0x16 => some []
  | 0x17 => some [(0x10, 8)]
  | 0x20 => some (blockRange ++ [(0x18, 1), (0x1A, 2), (0x1C, 4), (0x20, 6)])
  | 0x21 => some blockRange
  | 0x22 => some (blockRange ++ [(0x18, 1)])
  | 0x23 => some (blockRange ++ [(0x18, 8)])
  | 0x24 => some (blockRange ++ [(0x18, 8), (0x20, 1), (0x22, 2)])
  | 0x25 => some [(0x10, 4), (0x18, 8), (0x20, 1), (0x22, 2)]
  | 0x26 => some [(0x10, 2)]
  | 0x28 => some (blockRange ++ [(0x18, 1), (0x1A, 2)])
  | 0x29 => some blockRange
  | 0x2A => some (blockRange ++ [(0x18, 1), (0x1A, 2)])
  | 0x2B => some [(0x10, 8), (0x18, 8), (0x20, 2), (0x28, 8)]
  | 0x2C => some [(0x10, 4), (0x14, 4), (0x20, 32)]
  | 0x2D => some [(0x10, 8), (0x18, 4)]
  | 0x30 => some [(0x10, 2), (0x14, 4)]
  | 0x31 => some [(0x10, 4), (0x14, 3), (0x18, 2), (0x20, 16), (0x30, 6)]
  | 0x32 => some [(0x10, 3)]
  | 0x33 => some [(0x10, 4), (0x18, 8), (0x20, 4), (0x24, 4), (0x28, 8)]
  | 0x40 => some [(0x10, 2), (0x14, 4), (0x18, 6), (0x20, 4), (0x24, 4)]
  | 0x41 => some [(0x10, 1)]
  | 0x42 => some [(0x10, 1)]
  | _ => none

/-- No bit is set in a byte of 0x10-0x7F that no operand uses (R506). -/
def unusedClear (desc : List Byte) (used : List Bytes) : Bool :=
  (desc.zipIdx.drop 16).all fun b => b.1 == 0 || used.any fun u => decide (u.1 ≤ b.2 ∧ b.2 < u.1 + u.2)

/-- Opcodes of function 0: those of any function, and its own (R326). -/
def opOnBoth (op : Nat) : Bool := op == 0x01 || op == 0x02 || op == 0x03 || op == 0x08
def opOnModule (op : Nat) : Bool := decide (0x40 ≤ op ∧ op ≤ 0x42)

/-- A block range lies below 2^28 (R160). -/
def rangeOk (k : Cmd) : Bool := decide (k.op 0x10 0 28 + k.op 0x14 0 29 ≤ 2 ^ 28)

/-- A chest export's destination or an import's source (R506). -/
def placeOk (k : Cmd) : Bool :=
  (k.op 0x20 0 4 == 4 && k.op 0x20 16 16 == 0 || k.op 0x20 0 4 == 2) && k.op 0x18 0 64 % 64 == 0

/-- A tier operand (R506). -/
def tierOk (k : Cmd) : Bool := k.op 0x18 0 2 == 0 || (k.op 0x18 0 2 == 1 && k.op 0x18 16 14 == 0)

/-- The operands' encodings, ranges and alignments that a descriptor decides alone (R506). -/
def operandsOk (k : Cmd) : Bool :=
  match k.opcode with
  | 0x01 => k.op 0x10 0 64 % 64 == 0
  | 0x04 =>
    decide (1 ≤ k.op 0x10 0 6 ∧ 4 ≤ k.op 0x10 8 4 ∧ k.op 0x10 8 4 ≤ 12 ∧ 1 ≤ k.op 0x10 16 5 ∧ k.op 0x10 16 5 ≤ 16 ∧
      1 ≤ k.op 0x10 24 7 ∧ k.op 0x10 24 7 ≤ 79) && k.op 0x18 0 64 % 64 == 0 && k.op 0x20 0 64 % 64 == 0
  | 0x05 => decide (1 ≤ k.op 0x10 0 6)
  | 0x06 => k.op 0x10 0 64 % 4096 == 0 && k.op 0x18 0 64 % 4096 == 0 && k.op 0x18 0 64 != 0
  | 0x11 =>
    k.op 0x10 0 64 % 64 == 0 && k.op 0x18 0 64 % 64 == 0 && decide (k.op 0x20 0 9 ≤ 256) &&
      (k.op 0x20 0 9 != 0 || k.op 0x18 0 64 == 0)
  | 0x17 => k.op 0x10 0 64 % 64 == 0
  | 0x20 => rangeOk k
  | 0x21 => rangeOk k
  | 0x22 => rangeOk k
  | 0x23 => rangeOk k && k.op 0x18 0 64 % 64 == 0
  | 0x24 => rangeOk k && placeOk k
  | 0x25 => placeOk k
  | 0x28 => rangeOk k && tierOk k
  | 0x29 => rangeOk k
  | 0x2A => rangeOk k && tierOk k
  | 0x2B =>
    k.op 0x10 0 64 % 4096 == 0 && k.op 0x18 0 64 % 4096 == 0 && decide (k.op 0x20 0 9 ≤ 256) && k.op 0x28 0 64 % 8 == 0
  | 0x2D => k.op 0x10 0 64 % 32 == 0
  | 0x30 =>
    (k.op 0x10 0 5 == 24 || k.op 0x10 0 5 == 25) && k.op 0x10 8 4 == 1 && k.op 0x14 0 16 != 0 && k.op 0x14 16 16 != 0
  | 0x31 => decide (k.op 0x10 24 4 ≤ 4) && k.op 0x18 0 2 != 3
  | 0x33 =>
    decide (1 ≤ k.op 0x10 24 4 ∧ k.op 0x10 24 4 ≤ 3) && (k.op 0x10 28 4 == 0 || k.op 0x10 28 4 == 4) &&
      k.op 0x18 0 64 % 8 == 0 && k.op 0x28 0 64 % 64 == 0
  | _ => true

/-- A descriptor is one its function and queue accept (R320, R326, R506). -/
def commandOk (k : Cmd) : Bool :=
  match operandBytes k.opcode with
  | none => false
  | some used =>
    fieldAt k.desc 0 9 7 == 0 && fieldAt k.desc 0xC 0 32 == 0 &&
      (fieldAt k.desc 8 0 32 != 0xFFFFFFFF || k.opcode == 0x15) &&
      (opOnBoth k.opcode || opOnModule k.opcode == decide (k.fn < 4)) &&
      (decide (6 ≤ k.opcode) || k.queue == 0) && unusedClear k.desc used && operandsOk k

/-- Commands in flight in the module (R323). -/
def inFlightMax : Nat := 4096

/-- A queue holds a descriptor to fetch. -/
def State.fetchable (s : State) (fn queue : Nat) : Bool :=
  let q := s.queue fn queue
  q.state == .running && !q.deleting && q.fetched != q.passed

/-- The first of `n` numbers in turn, from the one after `last`, that satisfies `p`. -/
def nextTurn (n last : Nat) (p : Nat → Bool) : Option Nat := ((List.range n).map fun i => (last + 1 + i) % n).find? p

/-- The queue of a function to fetch from (R322): the admin queue if it holds a descriptor, else the one whose turn it is while its weight
lasts, else the next in turn; with the descriptors left of the turn after this one. -/
def State.fetchQueue (s : State) (fn : Nat) : Option (Nat × Nat × Nat) :=
  let t := s.fetching.turns.get (fun _ => (0, 0)) fn
  if s.fetchable fn 0 then some (0, t)
  else if t.2 ≠ 0 ∧ s.fetchable fn t.1 then some (t.1, t.1, t.2 - 1)
  else (nextTurn 64 t.1 (s.fetchable fn)).map fun q => (q, q, (s.queue fn q).weight - 1)

/-- The function and queue whose descriptor is fetched next (R322): functions in plain round robin (order within the rotations,
log 109). -/
def State.nextFetch (s : State) : Option (Nat × Nat × Nat × Nat) :=
  match nextTurn 20 s.fetching.fn fun fn => (s.fetchQueue fn).isSome with
  | none => none
  | some fn => (s.fetchQueue fn).map fun t => (fn, t)

/-- COMMAND_FETCH (R322, R323): the descriptor at the head of the queue whose turn it is is taken into flight; a
descriptor beyond 4,096 stays in its ring, counted once. One that is no command of its function completes with INVALID,
or AUTH_FAIL where no session is open (R317, R326). -/
def execCommandFetch (fn queue : Nat) (desc : List Byte) (s : State) : Host.Outcome State Fault Refusal :=
  guardUnit (s.doorbellOk fn queue) <|
    let q := s.queue fn queue
    match s.nextFetch with
    | none => s
    | some t =>
    if t.1 ≠ fn ∨ t.2.1 ≠ queue then s
    else if inFlightMax ≤ s.cmds.length then
      if q.stalled then s else (s.setQueue fn queue { q with stalled := true }).bump C.DECKLE_INFLIGHT_STALL_CNT
    else
      let opened := (s.session fn).opened
      let k : Cmd := { fn, queue, desc, authed := opened, lost := false, begun := false, planned := 0, sent := [], age := 0 }
      let s1 := { s.setQueue fn queue { q with fetched := q.fetched + 1, stalled := false } with
        cmds := s.cmds ++ [k], fetching := ⟨fn, s.fetching.turns.set (fun _ => (0, 0)) fn t.2.2⟩ }
      if commandOk k then s1
      else if !opened && k.opcode != 0x01 && k.opcode != 0x02 then s1.finish k 0x08
      else s1.finish k 0x0B

/-! How a command starts. -/

/-- Commands that need the compute domain or the memory behind it, and stay queued until READY (R417; the list is the
model's reading). -/
def needsDomain (op : Nat) : Bool := decide (0x10 ≤ op ∧ op ≤ 0x33 ∧ op ≠ 0x14) || op == 0x40 || op == 0x41

/-- The command a row names may start (R320, R322): every earlier command of its queue has started, and all have completed
when it is ordered, and a control unit runs: one fetched meanwhile waits in the inbox (R431). -/
def State.mayStart (s : State) (k : Cmd) : Bool :=
  let before := s.cmds.takeWhile fun j => j != k
  (before.all fun j => !(j.fn == k.fn && j.queue == k.queue) || (j.begun && !k.ordered)) &&
    (!needsDomain k.opcode || s.inService) && s.controlRuns

/-- The command in flight that a row names, with the row's opcode, if it may start now. -/
def State.starting (s : State) (r : CmdRef) (op : Nat) : Option Cmd :=
  (s.cmds.find? fun k => k.fn == r.fn && k.queue == r.queue && k.id == r.cmdId && k.opcode == op && !k.begun).filter
    s.mayStart

/-- A command that goes on after its first action. -/
def State.begin (s : State) (k : Cmd) : State := { s with cmds := s.cmds.replace k { k with begun := true } }

/-- Commands that a deckle which has lost its local HBM still takes (R215): sessions, queues and buffers, teardown, and, as they touch
no memory, CTX_STATUS and CTX_WAIT (log 67). Reconfiguration is function 0's. -/
def lostTakes (op : Nat) : Bool := decide (op < 0x10) || op == 0x14 || op == 0x15 || op == 0x16 || decide (0x33 < op)

/-- One command's row: `f` acts when the command named may start; without a session it completes with AUTH_FAIL (R317), for a deckle
without its local HBM with UNREACHABLE (R215). -/
def cmdRow (op : Nat) (r : CmdRef) (s : State) (f : Cmd → State) : Host.Outcome State Fault Refusal :=
  guardUnit (decide (r.fn < 20 ∧ r.queue < 64)) <|
    match s.starting r op with
    | none => s
    | some k =>
      if !(k.authed || (s.session k.fn).opened || op == 0x01 || op == 0x02) then s.finish k 0x08
      else if decide (4 ≤ k.fn) && (s.deckle (k.fn - 4)).lost && !lostTakes op then s.finish k 0x12
      else f k

/-- The commands each context state accepts (R508). -/
def accepts (st : CtxState) (op : Nat) : Bool :=
  let chest := decide (0x20 ≤ op ∧ op ≤ 0x26)
  let box := decide (0x28 ≤ op ∧ op ≤ 0x2D)
  let always := op == 0x14 || op == 0x15 || op == 0x16
  match st with
  | .free => false
  | .idle => always || op == 0x11 || op == 0x17 || chest || box
  | .loaded => always || op == 0x11 || op == 0x12 || op == 0x17 || chest || box
  | .running => always || op == 0x13 || chest || box
  | .stopping => always || op == 0x13 || chest || box
  | .stopped => always || op == 0x12 || op == 0x13 || chest || box
  | .faulted => always || chest
  | .suspect => always
  | .teardown => op == 0x14

/-- The row of a command that names a context (R313, R508): `f` gets the command and the context. -/
def ctxRow (op : Nat) (r : CmdRef) (s : State) (f : Cmd → Nat → State) : Host.Outcome State Fault Refusal :=
  cmdRow op r s fun k =>
    match s.live k.ctx with
    | none => s.finish k 0x04
    | some c =>
      if (s.ctx c).deckle + 4 ≠ k.fn then s.finish k 0x04
      else if accepts (s.ctx c).st op then f k c
      else s.finish k 0x07 (s.ctx c).st.code

/-! Sessions (R315-R317). -/

/-- The key that opens a function's session: its entry of the key table, or the transport key for an owner session of a
module not enrolled (R315, R462). -/
def State.sessionKey (s : State) (fn : Nat) : Option (List Byte) :=
  let e := if fn < 4 ∨ fn = 20 then 0 else fn - 3
  if e = 0 ∧ !s.nvm.keys.enrolled then some Config.transportKey
  else (s.nvm.keys.entries.get (fun _ => none) e).map (·.key)

/-- The tag of a session opening (R315): customisation number 3 stands for its string. -/
def sessionTag (key nonce : List Byte) (link deckle : Nat) : List Byte :=
  fit 32 (Config.kmac256 key (nonce ++ [BitVec.ofNat 8 link, BitVec.ofNat 8 deckle]) 32 3)

/-- The link and deckle bytes of a function. -/
def State.sessionBytes (s : State) (fn : Nat) : Nat × Nat := (s.linkOf fn, if fn < 4 then 0xFF else fn - 4)

/-- A failed opening (R316): the third within 10 s bars the function for 10 s; one refused while barred counts toward no new bar
(log 109). -/
def Session.failed (x : Session) (ms : Nat) : Session :=
  let fails := ms :: x.fails.filter fun t => decide (ms < t + 10000)
  if ms < x.barred then x
  else if 3 ≤ fails.length then { x with fails := [], barred := ms + 10000 }
  else { x with fails }

/-- A failed opening is counted (R316). -/
def State.authFail (s : State) (fn : Nat) : State :=
  let s1 := s.setSession fn ((s.session fn).failed s.ms)
  if fn < 4 then s1.bump C.CXLP_AUTH_FAIL_CNT
  else if fn < 20 then (s1.bump C.DECKLE_AUTH_FAIL_CNT).raiseTo E.DECKLE_auth_fail [fn - 4]
  else (s1.bump C.MGT_AUTH_FAIL_CNT).raise E.MGT_auth_fail

/-- A nonce issued to a function (R315). -/
def State.issueNonce (s : State) (fn : Nat) (nonce : List Byte) : State :=
  let x := s.session fn
  s.setSession fn { x with nonces := (nonce, s.ms) :: x.nonces.filter fun n => decide (s.ms ≤ n.2 + 1000) }

/-- The nonce that an opening's tag is computed from (R315): one issued to this function in the last second, not used yet. None while
the function is barred (R316). -/
def State.nonceFor (s : State) (fn link deckle : Nat) (tag : List Byte) : Option (List Byte) :=
  let x := s.session fn
  match s.sessionKey fn with
  | some key =>
    if s.ms < x.barred then none
    else (x.nonces.find? fun n => decide (s.ms ≤ n.2 + 1000) && tag == sessionTag key n.1 link deckle).map Prod.fst
  | none => none

/-- The session of a function opens with a nonce, which is used up (R315). -/
def State.openSession (s : State) (fn : Nat) (nonce : List Byte) : State :=
  let x := s.session fn
  s.setSession fn { x with opened := true, nonces := x.nonces.filter fun n => n.1 != nonce, used := nonce, loads := 0 }

/-- SESSION_NONCE (R315): a fresh nonce, written to the host. -/
def execSessionNonce (c : CmdRef) (nonce : List Byte) (s : State) : Host.Outcome State Fault Refusal :=
  cmdRow 0x01 c s fun k => ((s.issueNonce k.fn nonce).emit (.hostWrite (k.op 0x10 0 64) nonce)).finish k 0

/-- SESSION_OPEN (R315-R317). -/
def execSessionOpen (c : CmdRef) (s : State) : Host.Outcome State Fault Refusal :=
  cmdRow 0x02 c s fun k =>
    let b := s.sessionBytes k.fn
    if (s.session k.fn).opened then s.finish k 0x07
    else
      match s.nonceFor k.fn b.1 b.2 ((k.desc.drop 0x10).take 32) with
      | some n => (s.openSession k.fn n).finish k 0
      | none => (s.authFail k.fn).finish k 0x08

/-- SESSION_CLOSE (R317). -/
def execSessionClose (c : CmdRef) (s : State) : Host.Outcome State Fault Refusal :=
  cmdRow 0x03 c s fun k => (s.endSession k.fn).finish k 0

/-! Queues and buffers (R318, R326). -/

/-- QUEUE_CREATE (R318): a number in use completes with BUSY (the model's choice). -/
def execQueueCreate (c : CmdRef) (s : State) : Host.Outcome State Fault Refusal :=
  cmdRow 0x04 c s fun k =>
    let n := k.op 0x10 0 6
    if (s.queue k.fn n).state ≠ .stopped then s.finish k 0x07
    else
      let q := { Queue.reset with
        state := .running, e := k.op 0x10 8 4, weight := k.op 0x10 16 5, vector := k.op 0x10 24 7
        sq := k.op 0x18 0 64, cq := k.op 0x20 0 64 }
      (s.setQueue k.fn n q).finish k 0

/-- QUEUE_DELETE (R326): completes when the queue's commands have; a number that names no queue is INVALID. -/
def execQueueDelete (c : CmdRef) (s : State) : Host.Outcome State Fault Refusal :=
  cmdRow 0x05 c s fun k =>
    let n := k.op 0x10 0 6
    let q := s.queue k.fn n
    if q.state = .stopped ∨ q.deleting then s.finish k 0x0B
    else ((s.begin k).setQueue k.fn n { q with deleting := true }).dropQueue k.fn n

/-- BUF_REGISTER (R326): the result is the buffer's ID. -/
def execBufRegister (c : CmdRef) (s : State) : Host.Outcome State Fault Refusal :=
  cmdRow 0x06 c s fun k =>
    let d := k.fn - 4
    let x := s.deckle d
    let b : Buf := ⟨x.nextBuf, k.op 0x10 0 64, k.op 0x18 0 64⟩
    (s.setDeckle d { x with bufs := x.bufs ++ [b], nextBuf := x.nextBuf + 1 }).finish k 0 0 b.id

/-- A range overlaps a buffer. -/
def Buf.touches (b : Buf) (a n : Nat) : Bool := decide (a < b.addr + b.size ∧ b.addr < a + n)
/-- A range lies inside a buffer. -/
def Buf.covers (b : Buf) (a n : Nat) : Bool := decide (b.addr ≤ a ∧ a + n ≤ b.addr + b.size)

/-- A range lies inside one registered buffer of a deckle. -/
def State.inBuffer (s : State) (d a n : Nat) : Bool := (s.deckle d).bufs.any fun b => b.covers a n

/-- The deckle's chests hold a block in tier 3. -/
def State.usesT3 (s : State) (d : Nat) : Bool :=
  let any (m : Sparse (Option Block)) : Bool := m.any fun p => match p.2 with | some b => b.tier == 3 | none => false
  ((s.ctxsOf d).any fun c => any (s.ctx c).blocks) || (s.deckle d).orphans.any fun o => any o.2

/-- A buffer holds chest blocks, or a loaded ream names it (R326). -/
def State.bufBusy (s : State) (d : Nat) (b : Buf) : Bool :=
  (match (s.deckle d).t3 with | some (a, n) => s.usesT3 d && b.touches a n | none => false) ||
    (s.ctxsOf d).any fun c => (s.ctx c).reamOf.regions.any fun g => g.space == 4 && b.touches g.base g.len

/-- BUF_UNREGISTER (R326): an ID that names no buffer is INVALID; space of tier 3 that lies in the buffer is lost to it. -/
def execBufUnregister (c : CmdRef) (s : State) : Host.Outcome State Fault Refusal :=
  cmdRow 0x07 c s fun k =>
    let d := k.fn - 4
    let x := s.deckle d
    match x.bufs.find? fun b => b.id == k.op 0x10 0 32 with
    | none => s.finish k 0x0B
    | some b =>
      if s.bufBusy d b then s.finish k 0x07
      else
        let t3 := x.t3.filter fun t => !b.touches t.1 t.2
        (s.setDeckle d { x with bufs := x.bufs.filter fun y => y != b, t3 }).finish k 0

end Sys2Proof.Machine
end

