-- ==== Sys2Proof/Machine/Headbox.lean ====
section
/-! DEFINITION. The headbox (R171-R197): the journal, the choice of tiles, block moves, the freeze of a beat's placement,
and the commands HEADBOX_PIN to HEADBOX_REPLAY. -/

namespace Sys2Proof.Machine

/-! The journal as a replay reads it (R189, R191). -/

def parseEntry (b : List Byte) : JEntry where
  kind := fieldAt b 0 0 8
  cause := fieldAt b 0 8 4
  ctx := fieldAt b 0 16 16
  seq := fieldAt b 4 0 32
  beat := fieldAt b 8 0 64
  subject := fieldAt b 0x10 0 28
  src := fieldAt b 0x14 0 16
  dst := fieldAt b 0x14 16 16
  bytes := fieldAt b 0x18 0 32

/-- An entry has the format of R189. -/
def entryOk (b : List Byte) : Bool :=
  let e := parseEntry b
  decide (1 ≤ e.kind ∧ e.kind ≤ 8) && decide (e.cause ≤ 6) && fieldAt b 0 12 4 == 0 && fieldAt b 0x10 28 4 == 0 &&
    fieldAt b 0x1C 0 32 == 0

/-! Sequence numbers of journal entries (R189). -/

/-- A start or a resume of the context is being decided or is about to be applied. -/
def Ctx.resuming (x : Ctx) : Bool := x.startFrom.isSome || x.places.any fun p => p.old.isNone

/-- The sequence number that falls due at the next boundary (R177, R189, R191): a resume makes that at the cursor due again. -/
def Ctx.nextSeq (x : Ctx) : Nat :=
  if !x.primed ∨ (x.resuming ∧ x.insts.any fun i => i.q == x.cursor && i.st == .due) then x.cursor else x.cursor + 1

/-- One past the last sequence number that published (R189). -/
def Ctx.pastPublished (x : Ctx) : Nat :=
  if !x.primed then x.cursor
  else (x.insts.map (·.q) ++ x.steps.map (·.q)).foldl min (x.cursor + 1)

/-- Tiles of a context unbound (R173, R189). What a start has chosen for the next boundary stays chosen. -/
def State.unbindAll (s : State) (c : Nat) : State :=
  let x := s.ctx c
  let s1 := s.each x.bind fun s b =>
    let t := s.tile b.2
    let s1 := s.setTile b.2 { Tile.reset with
      state := t.state, errFences := t.errFences, hangs := t.hangs, flightId := t.flightId, earlier := t.earlier
      behind := t.behind }
    s1.tileEntry c 0x07 0 x.pastPublished s.beatCount b.1 (some b.2) none
  let s2 := s1.each (x.t0Held fun _ => true) fun s i => s.dropEntry c 0 s.beatCount i
  s2.modCtx c fun y => { y.loseT0 (fun _ => true) with
    bind := [], places := y.places.filter (·.old.isNone), release := false }

/-! Choosing tiles (R15, R175-R178). -/

/-- Tiles chosen at a freeze and not yet bound. -/
def State.reserved (s : State) : List Nat := s.ctxList.flatMap fun c => (s.ctx c).places.filterMap (·.new)

/-- Tiles of a deckle's groups. -/
def State.groupTiles (s : State) (d : Nat) : List Nat :=
  ((List.range 48).filter (s.ownsGroup d)).flatMap fun g => (List.range 256).map (256 * g + ·)

/-- A tile that a binding may take, if no context holds it: healthy, and not chosen already (R173, R179). -/
def State.usable (s : State) (t : Nat) : Bool :=
  let x := s.tile t
  x.state == .idle && !x.selfTest && !s.tileMapped t && !s.reserved.contains t

/-- Unbound healthy tiles of a deckle, the spares already chosen left out (R173, R179). -/
def State.candidates (s : State) (d : Nat) : List Nat :=
  (s.groupTiles d).filter fun t => (s.tile t).bind.isNone && s.usable t

/-- The tiles a start or a re-placement of a context may take: with those it is to release at the same boundary. -/
def State.candidatesFor (s : State) (c : Nat) : List Nat :=
  let x := s.ctx c
  s.candidates x.deckle ++ (if x.release then (x.bind.map Prod.snd).filter s.usable else [])

def farAway : Nat := 2 ^ 20

/-- Mesh distance between two tiles; tiles of different dies are farther than any of one die (R175). -/
def distance (a b : Nat) : Nat :=
  if dieOf a = dieOf b then
    (max (rowOf a) (rowOf b) - min (rowOf a) (rowOf b)) + (max (colOf a) (colOf b) - min (colOf a) (colOf b))
  else farAway

/-- How far a tile is from satisfying an affinity hint; 0 for every tile where the hint is none or ignored (R175, R177). -/
def State.hintKey (s : State) (c affinity t : Nat) : Nat :=
  let x := s.ctx c
  let kind := affinity / 2 ^ 14
  let n := affinity % 2 ^ 14
  if kind = 1 then
    match ((x.bind.find? fun b => b.1 == n && !x.release).map Prod.snd).orElse
        (fun _ => (x.places.find? fun p => p.v == n).bind (·.new)) with
    | some u => distance t u
    | none => 0
  else if kind = 2 then
    if s.stackFitted (n % 16) ∧ s.ownsStack x.deckle (n % 16) then (if dieOf t = n % 16 / 3 then 0 else farAway) else 0
  else 0

/-- The least candidate under a key, the lowest tile ID of equals. -/
def best (key : Nat → Nat × Nat) (ts : List Nat) : Option Nat :=
  ts.foldl (fun m t =>
    match m with
    | none => some t
    | some u =>
      let a := key t
      let b := key u
      if a.1 < b.1 ∨ (a.1 = b.1 ∧ (a.2 < b.2 ∨ (a.2 = b.2 ∧ t < u))) then some t else m) none

/-- The sheet whose hint counts at a start: the one of lowest ream beat (R177). -/
def Ream.hintOf (r : Ream) (v : Nat) : Nat :=
  match r.sheets.foldl (fun (m : Option Sheet) h =>
      if h.vtile ≠ v then m
      else match m with | none => some h | some g => if h.rbeat < g.rbeat then some h else m) none with
  | some h => h.affinity
  | none => 0

/-- The tile a virtual tile is pinned to (R176). -/
def Ream.pinOf (r : Ream) (v : Nat) : Option Nat :=
  (r.sheets.find? fun h => h.vtile == v && h.pin).map fun h => h.affinity % 2 ^ 14

/-- A spare for a virtual tile that lost tile `old` (R178). -/
def State.spare (s : State) (c v old : Nat) : Option Nat :=
  let x := s.ctx c
  let hint := match x.nextOn v with
    | some (_, sh) => (x.reamOf.sheet sh).affinity
    | none => 0
  best (fun t => (s.hintKey c hint t, distance t old)) (s.candidatesFor c)

/-! Replay of a journal (R191). -/

/-- A divergence: counted, raised, and journalled with kind 0x08 and cause 0x6. -/
def State.diverge (s : State) (c subject : Nat) : State :=
  let x := s.ctx c
  let s1 := (s.bump C.HEADBOX_REPLAY_DIV_CNT).raiseTo E.HEADBOX_replay_divergence [x.deckle]
  s1.journal x.deckle ⟨0x08, 0x6, s.handle c, x.cursor, s.beatCount + 1, subject, 0xFFFF, 0xFFFF, 0⟩

/-- The entries that a replaying context has for the next boundary, in order of seq: those of the number that falls due there, or
of one that has (log 105). -/
def Ctx.replaying (x : Ctx) : List JEntry :=
  ((x.journal.map parseEntry).filter fun e => atOrAfter x.nextSeq e.seq).mergeSort fun a b => decide (a.seq ≤ b.seq)

/-- The tile that a replayed journal binds a virtual tile to, if it can. -/
def State.replayTile (s : State) (c v : Nat) (kind : Nat) : Option Nat :=
  let x := s.ctx c
  (((x.replaying.find? fun e => e.kind == kind && e.subject == v).map (·.dst)).filter fun t =>
    (s.candidatesFor c).contains t)

/-- The first entry of a kind for a subject is used up. -/
def Ctx.entryUsed (x : Ctx) (kind subject : Nat) : Ctx :=
  match x.journal.find? fun b => (parseEntry b).kind == kind && (parseEntry b).subject == subject with
  | some b => { x with journal := x.journal.erase b }
  | none => x

/-! Decisions at a freeze point (R171, R177-R184). -/

/-- A binding decided for the next boundary: the tile is zeroed, and the entry journalled (R173, R189). -/
def State.choose (s : State) (c : Nat) (p : Place) : State :=
  let x := s.ctx c
  let kind := if p.old.isSome then 0x02 else 0x01
  let s1 := s.modCtx c fun y => { y with places := (y.places.filter fun q => q.v != p.v) ++ [p] }
  let s2 := match p.new with | some t => s1.spadZero t | none => s1
  s2.tileEntry c kind p.cause (if kind = 1 then x.nextSeq else x.cursor) (s.beatCount + 1) p.v p.old p.new

/-- Contexts whose virtual tiles are re-placed after a fence. -/
def Ctx.placed (x : Ctx) : Bool := x.st == .running || x.st == .stopping || x.st == .stopped || x.st == .suspect

/-- The virtual tiles that need a tile, in ascending order of the tile they lost (R178): context, place. -/
def State.needs (s : State) : List (Nat × Place) :=
  let all := s.ctxList.flatMap fun c =>
    let x := s.ctx c
    if x.placed then ((x.places.filter fun p => p.new.isNone).map fun p => (c, p)) else []
  all.mergeSort fun a b => decide (a.2.old.getD 0 ≤ b.2.old.getD 0)

/-- A virtual tile gets a spare, or its context faults with RESOURCE (R178, R181). A pinned one is left to the boundary. In replay
the entry of its re-placement is applied if it can be. -/
def State.replaceOne (s : State) (c : Nat) (p : Place) : State :=
  let x := s.ctx c
  if !x.placed ∨ (x.reamOf.pinOf p.v).isSome then s
  else
    let r := s.replayTile c p.v 0x02
    let s1 := s.when (x.inReplay && r.isNone) (·.diverge c p.v)
    match r.orElse fun _ => s.spare c p.v (p.old.getD 0) with
    | some t => (s1.choose c { p with new := some t, cause := if r.isSome then 6 else 1 }).modCtx c (·.entryUsed 0x02 p.v)
    | none =>
      ((s1.bump C.HEADBOX_NOSPARE_CNT).raiseTo E.HEADBOX_no_spare [x.deckle]).faultWith Page.HEADBOX c 0x0C 0x00 0 0 p.v
        (p.old.getD 0x3FFF)

/-- A virtual tile that a start binds without a pin (R177, R191). -/
def State.bindFree (s : State) (c v : Nat) : State :=
  let x := s.ctx c
  let r := s.replayTile c v 0x01
  let s' := s.when (x.inReplay && r.isNone) (·.diverge c v)
  match r.orElse fun _ => best (fun t => (s.hintKey c (x.reamOf.hintOf v) t, 0)) (s.candidatesFor c) with
  | some t => (s'.choose c ⟨v, none, some t, if r.isSome then 6 else 0⟩).modCtx c (·.entryUsed 0x01 v)
  | none => s'

/-- A pinned virtual tile that a start binds: its pin prevails over the entry of a replay (R188, R191). -/
def State.bindPinned (s : State) (c v : Nat) : State :=
  let x := s.ctx c
  let pin := x.reamOf.pinOf v
  let same := s.replayTile c v 0x01 == pin
  ((s.when (x.inReplay && !same) (·.diverge c v)).choose c ⟨v, none, pin, if x.inReplay && same then 6 else 0⟩).modCtx c
    (·.entryUsed 0x01 v)

/-- The bindings of a start, pinned virtual tiles first, the others in ascending order (R177). -/
def State.bindStart (s : State) (c : Nat) : State :=
  let ream := (s.ctx c).reamOf
  let vs := List.range ream.nv
  let s1 := s.each (vs.filter fun v => (ream.pinOf v).isSome) fun s v => s.bindPinned c v
  s1.each (vs.filter fun v => (ream.pinOf v).isNone) fun s v => s.bindFree c v

/-- A start that is refused gives back the entries of its replay. -/
def Ctx.refused (x : Ctx) (from_ : CtxState) : Ctx :=
  let back := x.inReplay && from_ == .loaded
  { x with
    st := from_, startFrom := none
    replay := if back then some x.journal else x.replay
    journal := if back then [] else x.journal
    inReplay := x.inReplay && !back }

/-- A start is decided (R174, R176, R177): refused with RESOURCE when a pinned tile is not free or too few tiles would be
left; the context then returns to the state it started from. Tiles to be released at the same boundary are its own. -/
def State.decideStart (s : State) (c : Nat) : State :=
  let x := s.ctx c
  match x.startFrom with
  | none => s
  | some from_ =>
    let ream := x.reamOf
    let free := s.candidatesFor c
    let pins := (List.range ream.nv).filterMap ream.pinOf
    if free.length < ream.nv + s.fget F.HEADBOX_SPARE_reserve 0 (ofDeckle x.deckle) ∨ !(pins.all free.contains) then
      let s1 := s.modCtx c (·.refused from_)
      let s2 := s1.finishAll (fun k => k.begun && s.names c k && k.opcode == 0x12) 0x0C
      s2.finishAll (fun k => k.begun && s.names c k && k.opcode == 0x15) 0
    else (s.bindStart c).modCtx c fun y => { y with startFrom := none }

/-! Block moves (R183, R184). -/

/-- A block is in the tier, and copied for the virtual tile, that a move asks for. -/
def Block.inPlace (b : Block) (tier v : Nat) : Bool :=
  if tier = 0 then b.t0 == some v else b.tier == tier

/-- Blocks of a deckle's contexts that may be demoted, in the order of R183: context, index, bytes. -/
def State.demotable (s : State) (d : Nat) : List (Nat × Nat × Nat) :=
  let all := (s.ctxsOf d).flatMap fun c =>
    let x := s.ctx c
    x.blocks.filterMap fun p => p.2.bind fun b =>
      if b.valid ∧ b.tier = 1 ∧ !b.pin ∧ !(x.moves.any fun m => m.block == p.1) then
        some (b.lastBeat, b.uses, c, p.1, b.units * 256)
      else none
  let le (a b : Nat × Nat × Nat × Nat × Nat) : Bool :=
    decide (a.1 < b.1 ∨ (a.1 = b.1 ∧ (a.2.1 < b.2.1 ∨ (a.2.1 = b.2.1 ∧ b.2.2.2.1 ≤ a.2.2.2.1))))
  (all.mergeSort le).map fun a => (a.2.2.1, a.2.2.2.1, a.2.2.2.2)

/-- Arena bytes that chest writes of a deckle wait for (R150). -/
def State.spaceWanted (s : State) (d : Nat) : Nat :=
  s.tiles.foldl (fun n p =>
    match p.2.running with
    | some r =>
      if (s.ctx r.1).deckle = d then
        n + p.2.queues.foldl (fun n q => q.2.foldl (fun n e =>
          if e.waiting then
            match e.bursts with
            | b :: _ => n + (match (s.ctx r.1).block b.daddr, s.chestSource p.1 (s.runOf r) b with
                | some old, .data x => (old.written x).units * 256
                | _, _ => 0)
            | [] => n
          else n) n) 0
      else n
    | none => n) 0

/-- A move proposed for a context in the beat that runs, `ord`th of its kind. -/
def State.propose (s : State) (c block tier v cause since ord : Nat) (lender : Option (Nat × Nat)) : State :=
  s.modCtx c fun x => { x with moves := x.moves ++ [⟨block, tier, v, cause, false, false, false, since, ord, lender⟩] }

/-- Arena bytes that promotions of a deckle not yet started will take. -/
def State.incoming (s : State) (d : Nat) : Nat := ((s.ctxsOf d).map fun c => (s.ctx c).arriving fun m => !m.started).sum

/-- The tier a demotion of `n` bytes goes to, and its lender (R183): T2 while lent space remains, otherwise T3; none when neither
has room. -/
def State.demoteTo (s : State) (d n : Nat) : Option (Nat × Option (Nat × Nat)) :=
  match s.lenderFor d n with
  | some l => some (2, some l)
  | none => if s.t3Used d + n ≤ s.t3Size d ∧ s.linkActive (s.linkOf (4 + d)) then some (3, none) else none

/-- Demotions until the arena's free space reaches its goal (R183). One of a context in replay is a divergence (R191). -/
def State.demote (s : State) (d : Nat) (goal : Nat) : List (Nat × Nat × Nat) → Nat → State
  | [], _ => s
  | (c, i, n) :: rest, free =>
    if goal ≤ free then s
    else
      match s.demoteTo d n with
      | none => s.demote d goal rest free
      | some (tier, l) =>
        let s1 := s.when (s.ctx c).inReplay (·.diverge c i)
        (s1.propose c i tier 0 3 s.beatCount (s.ctx c).moves.length l).demote d goal rest (free + n)

/-- Blocks whose reads have earned a T0 copy for a virtual tile (R183): block, virtual tile. -/
def State.earned (s : State) (c : Nat) : List (Nat × Nat) :=
  let x := s.ctx c
  let need := s.fget F.HEADBOX_T0_reads 0 (ofDeckle x.deckle)
  let now := s.beatCount
  if need = 0 then []
  else x.blocks.flatMap fun p =>
    match p.2 with
    | none => []
    | some b =>
      if b.tier ≠ 1 ∨ b.t0.isSome ∨ (x.moves.any fun m => m.block == p.1) then []
      else ((b.reads.map Prod.fst).eraseDups.filter fun v =>
        decide (need ≤ (b.reads.filter fun r => r.1 == v && decide (now < r.2 + 8)).length)).map fun v => (p.1, v)

/-- T0 copies to be dropped at the next boundary, the oldest last_beat first, until `n` bytes more fit; pinned copies stay (R171, R183,
R186). -/
def State.makeRoom (s : State) (c v n cause : Nat) : Nat → State
  | 0 => s
  | fuel + 1 =>
    let x := s.ctx c
    if x.t0Used v + n ≤ s.t0Room c v then s
    else
      let held := x.blocks.filterMap fun p => p.2.bind fun b =>
        if b.t0 = some v ∧ !b.pin ∧ !x.drops.contains (p.1, v) then some (p.1, b) else none
      match held.foldl (fun (m : Option (Nat × Block)) y =>
          match m with | none => some y | some z => if y.2.lastBeat < z.2.lastBeat then some y else m) none with
      | none => s
      | some (i, _) =>
        let s1 := s.modCtx c fun y => { y with drops := y.drops ++ [(i, v)] }
        (s1.dropEntry c cause (s.beatCount + 1) i).makeRoom c v n cause fuel

/-- A use asks for the promotion of a block: proposed where the arena's free space stays at or above its limit (R183). A pinned block
moves only by command (R186). -/
def State.promoteUsed (s : State) (d floor c i since : Nat) : State :=
  let x := s.ctx c
  match x.block i with
  | none => s
  | some b =>
    if b.tier = 1 ∨ b.pin ∨ (x.moves.any fun m => m.block == i) ∨ s.copyLost d b then s
    else if s.arenaFree d < floor + s.incoming d + b.units * 256 then s
    else s.propose c i 1 0 2 since 0 none

/-- A use has earned a T0 copy of a block (R183). -/
def State.copyUsed (s : State) (c i v : Nat) : State :=
  match (s.ctx c).block i with
  | none => s
  | some b =>
    if b.pin ∨ ((s.ctx c).moves.any fun m => m.block == i) then s
    else
      let n := b.units * 256
      let s1 := s.makeRoom c v n 3 (s.ctx c).blocks.length
      if (s1.ctx c).t0Used v + n ≤ s1.t0Room c v then s1.propose c i 0 v 2 s.beatCount 0 none else s1

/-- What the use policy proposes for a deckle: promotions in the order of their triggers, then T0 copies (R183). None in manual mode
(R187), nor for a context in replay (R191). -/
def State.policy (s : State) (d : Nat) : State :=
  let manual := s.flag F.HEADBOX_POLICY_manual 0 (ofDeckle d)
  let floor := s.fget F.HEADBOX_POLICY_demote_mib 0 (ofDeckle d) * 2 ^ 20
  let cs := (s.ctxsOf d).filter fun c => !manual && !(s.ctx c).inReplay
  let asked := cs.flatMap fun c => (s.ctx c).promote.map fun p => (p.2, p.1, c)
  let s1 := s.each (s.ctxsOf d) fun s c => s.modCtx c fun y => { y with promote := [] }
  let s2 := s1.each (asked.mergeSort fun a b => decide (a.1 < b.1 ∨ (a.1 = b.1 ∧ a.2.1 ≤ b.2.1)))
    fun s p => s.promoteUsed d floor p.2.2 p.2.1 p.1
  s2.each cs fun s c => s.each (s.earned c) fun s e => s.copyUsed c e.1 e.2

/-- A move entry of a replay (R191) is applied as a proposal, or found to breach a rule above it (R188): a pin, a command's move, the
bounds of the deckle (R192), or a peer that cannot be reached (R194). A T0 copy goes to the virtual tile that read the block last: an
entry does not name one (log 105). -/
def State.replayMove (s : State) (c : Nat) (e : JEntry) : State :=
  let x := s.ctx c
  let tier := if e.kind = 5 then 0 else e.dst % 4
  match x.block e.subject with
  | none => s.diverge c e.subject
  | some b =>
    let n := b.units * 256
    let v := (b.reads.head?.map Prod.fst).getD 0
    let lender := if tier = 2 then s.lenderFor x.deckle n else none
    let fits := match tier with
      | 0 => decide (x.t0Used v + n ≤ s.t0Room c v)
      | 1 => decide (s.incoming x.deckle + n ≤ s.arenaFree x.deckle)
      | 2 => lender.isSome
      | _ => decide (s.t3Used x.deckle + n ≤ s.t3Size x.deckle)
    if b.inPlace tier v then s
    else if b.pin ∨ (x.moves.any fun m => m.block == e.subject) ∨ !fits ∨ s.copyLost x.deckle b then s.diverge c e.subject
    else s.propose c e.subject tier v 6 s.beatCount x.moves.length lender

/-- An entry of a dropped T0 copy (R191). A copy that is gone already needs nothing; a pinned one stays. -/
def State.replayDrop (s : State) (c : Nat) (e : JEntry) : State :=
  match (s.ctx c).block e.subject with
  | none => s.diverge c e.subject
  | some b =>
    match b.t0 with
    | none => s
    | some v =>
      if b.pin then s.diverge c e.subject
      else (s.modCtx c fun y => { y with drops := y.drops ++ [(e.subject, v)] }).dropEntry c 6 (s.beatCount + 1) e.subject

/-- What a replayed journal asks for beside bindings (R191). An unbinding comes of itself, at the end of the ream or at a release (R173),
and a re-placement waits for the fence it follows (R193). -/
def State.replayMoves (s : State) (c : Nat) : State :=
  let x := s.ctx c
  let es := x.replaying
  let s1 := s.each es fun s e =>
    if e.kind = 3 ∨ e.kind = 4 ∨ e.kind = 5 then s.replayMove c e else if e.kind = 6 then s.replayDrop c e else s
  s1.modCtx c fun y => { y with
    journal := y.journal.filter fun b => (parseEntry b).kind == 2 || !atOrAfter x.nextSeq (parseEntry b).seq }

/-- Order in which moves of a beat start (R184, R186): commands, demotions, promotions, T0 copies. -/
def Move.rank (m : Move) : Nat :=
  if m.command then 0 else if 2 ≤ m.tier then 1 else if m.tier = 1 then 2 else 3

/-- Journal kind of a move (R189). -/
def Move.kind (m : Move) : Nat := if m.tier = 0 then 0x05 else if m.tier = 1 then 0x03 else 0x04

/-- The order in which moves start (R183, R184, R186). -/
def Move.before (a b : Move) : Bool :=
  let k (m : Move) : List Nat := [m.rank, m.since, m.ord, m.block]
  decide (k a ≤ k b)

/-- The moves of a context without one of them, and the commands that waited for it alone. -/
def State.dropMove (s : State) (c : Nat) (m : Move) : State :=
  (s.modCtx c fun y => { y with moves := y.moves.erase m }).finishMoves c

/-- A waiting move cannot start in the next beat for want of a tile, of room or of a peer (R192, R194). -/
def State.moveWaits (s : State) (d c : Nat) (m : Move) (b : Block) : Bool :=
  let x := s.ctx c
  s.copyLost d b ||
    match m.tier with
    | 0 => (x.tileOf m.v).isNone || decide (s.t0Room c m.v < x.t0Used m.v)
    | 1 => decide (s.arenaFree d < b.units * 256 + ((s.ctxsOf d).map fun c => (s.ctx c).arriving fun n => n.decided && !n.started).sum)
    | 2 => !(m.lender.any (s.lenderHolds d 0))
    | _ => decide (s.t3Size d < s.t3Used d)

/-- One waiting move of a deckle at the freeze (R184): decided for the next beat within the budget, with `used` bytes of it taken, or
deferred and counted. It waits for a move of its block in progress (R186); a block that already lies where it asks is pinned there; a
pinned block moves by HEADBOX_PIN alone. -/
def State.decideMove (s : State) (d budget used c : Nat) (m : Move) : State × Nat :=
  let x := s.ctx c
  match x.block m.block with
  | none => (s.dropMove c m, used)
  | some b =>
    let n := b.units * 256
    if x.moves.any fun o => o.block == m.block && o.decided then (s, used)
    else if b.inPlace m.tier m.v then
      ((s.modCtx c fun y => y.setBlock m.block (some { b with pin := b.pin || m.pin })).dropMove c m, used)
    else if b.pin ∧ m.cause ≠ 4 then (s.dropMove c m, used)
    else
      let s1 := if m.tier = 0 ∧ m.command then s.makeRoom c m.v 0 4 x.blocks.length else s
      if s1.moveWaits d c m b then (s1, used)
      else if used + n ≤ budget ∨ (used = 0 ∧ budget < n) then
        let s2 := s1.modCtx c fun y => { y with moves := y.moves.map fun o => if o = m then { o with decided := true } else o }
        (s2.journal d ⟨m.kind, m.cause, s.handle c, x.cursor, s.beatCount + 1, m.block, b.tier, m.tier, n⟩, used + n)
      else (s1.bump C.HEADBOX_DEFER_CNT, used)

/-- The moves of a deckle decided for the next beat (R184). -/
def State.budgeted (s : State) (d : Nat) : State :=
  let budget := s.fget F.HEADBOX_BUDGET_kib 0 (ofDeckle d) * 1024
  let waiting := (s.ctxsOf d).flatMap fun c => ((s.ctx c).moves.filter fun m => !m.decided).map fun m => (c, m)
  ((waiting.mergeSort fun a b => a.2.before b.2).foldl (fun (a : State × Nat) cm => a.1.decideMove d budget a.2 cm.1 cm.2)
    (s, 0)).1

/-- Arena bytes of a deckle that will be free when the moves proposed have ended. -/
def State.arenaAhead (s : State) (d : Nat) : Nat :=
  (s.ctxsOf d).foldl (fun n c =>
    ((s.ctx c).moves.filter fun m => decide (2 ≤ m.tier)).foldl (fun n m => n + (s.ctx c).bytesOf m.block) n) (s.arenaFree d) -
    s.incoming d

/-- The moves of a deckle for the next beat (R183, R184, R187, R191): the use policy's, then demotions below the free space that the
policy keeps, then those that waiting writes need. -/
def State.decideMoves (s : State) (d : Nat) : State :=
  let s1 := (s.each ((s.ctxsOf d).filter fun c => (s.ctx c).inReplay && s.ctxRuns c) fun s c => s.replayMoves c).policy d
  let floor := if s.flag F.HEADBOX_POLICY_manual 0 (ofDeckle d) then 0
    else s.fget F.HEADBOX_POLICY_demote_mib 0 (ofDeckle d) * 2 ^ 20
  let s2 := s1.demote d floor ((s1.demotable d).filter fun p => !(s1.ctx p.1).inReplay) (s1.arenaAhead d)
  let s3 := s2.demote d (s2.spaceWanted d) (s2.demotable d) (s2.arenaAhead d)
  s3.budgeted d

/-- PLACEMENT_FREEZE (R171, R172): the placement of the next beat is frozen: fences first, then starts, then moves.
`decided` is false when the slow path has not ended its decisions: the placement is then carried forward, counted, as it is while no
control unit runs (R437). -/
def execPlacementFreeze (decided : Bool) (s : State) : Host.Outcome State Fault Refusal :=
  guardUnit true <|
    if s.beat.frozen then s
    else
      let s0 := { s with beat := { s.beat with frozen := true, cycle := s.beatLen - 64 } }
      if !decided || !s.controlRuns then (s0.bump C.HEADBOX_CARRY_CNT).raise E.HEADBOX_carry_forward
      else
        let s1 := s0.each s0.needs fun s n => s.replaceOne n.1 n.2
        let s2 := s1.each (s1.ctxList.filter fun c => s1.ctxRuns c && (s1.ctx c).startFrom.isSome)
          fun s c => s.decideStart c
        s2.each (s2.allDeckles.filter fun d => !(s2.deckle d).lost) fun s d => s.decideMoves d

/-! What the boundary applies (step 3 of R22). -/

/-- A frozen binding takes effect (R171, R179, R194); a tile fenced since then is at once lost again. -/
def State.applyPlace (s : State) (c : Nat) (p : Place) : State :=
  match p.new with
  | none => s
  | some t =>
    let x := s.ctx c
    let s1 := s.modCtx c fun y => { y with places := y.places.erase p }
    let s2 := s1.when p.old.isSome fun s => (s.bump C.HEADBOX_REPLACE_CNT).raiseTo E.HEADBOX_replace [x.deckle]
    let y := s.tile t
    if y.state ≠ .idle then s2.unbindLost t c p.v
    else
      let s3 := s2.setTile t { y with bind := some (c, p.v), t0banks := s.fget F.HEADBOX_T0_banks 0 (ofDeckle x.deckle) }
      s3.modCtx c fun y => { y with bind := (p.v, t) :: y.bind }

/-- A move decided at the freeze starts, if its T1 copy still has room and its T0 copy a tile; otherwise it waits again (R184, R192). -/
def State.startMove (s : State) (c : Nat) (m : Move) : State :=
  let x := s.ctx c
  let set (f : Move → Move) (s : State) : State :=
    s.modCtx c fun y => { y with moves := y.moves.map fun o => if o = m then f o else o }
  let ok := match m.tier with
    | 0 => (x.tileOf m.v).isSome
    | 1 => decide (x.bytesOf m.block ≤ s.arenaFree x.deckle)
    | _ => true
  if ok then
    (s.arenaChange x.deckle (set fun o => { o with started := true })).bump
      (if 2 ≤ m.tier then C.HEADBOX_DEMOTE_CNT else C.HEADBOX_PROMOTE_CNT)
  else set (fun o => { o with decided := false }) s

/-- T0 copies that the freeze gave up (R171). -/
def Ctx.dropped (x : Ctx) : Ctx :=
  { x with
    drops := []
    blocks := x.blocks.map fun p => (p.1, p.2.map fun b =>
      if x.drops.any (fun d => d.1 == p.1 && some d.2 == b.t0) then { b with t0 := none } else b) }

/-- Placement of a context at step 3 of a boundary: tiles released, bindings, the fault of a pinned virtual tile that lost its tile
(R181), T0 copies dropped, moves started. -/
def State.placeCtx (s : State) (c : Nat) : State :=
  let s0 := s.when ((s.ctx c).release && s.ctxRuns c) (·.unbindAll c)
  let s1 := s0.each (s0.ctx c).places fun s p => s.applyPlace c p
  let x := s1.ctx c
  let s2 := match x.places.find? fun p => p.new.isNone && (x.reamOf.pinOf p.v).isSome with
    | some p => s1.when x.placed (·.faultWith Page.HEADBOX c 0x05 0x00 0 0 p.v (p.old.getD 0x3FFF))
    | none => s1
  let s3 := s2.modCtx c Ctx.dropped
  s3.each ((s3.ctx c).moves.filter fun m => m.decided && !m.started) fun s m => s.startMove c m

/-- Placement at step 3 of a boundary. -/
def State.applyPlacement (s : State) : State := s.each s.ctxList fun s c => s.placeCtx c

/-! The headbox commands (R186, R191). -/

/-- Created blocks of a range of a context. -/
def Ctx.created (x : Ctx) (first count : Nat) : List (Nat × Block) :=
  x.blocks.filterMap fun p => if first ≤ p.1 ∧ p.1 < first + count then p.2.map fun b => (p.1, b) else none


/-- T0 bytes of a virtual tile's tile that nothing may drop: pinned copies, and those that commands wait for. -/
def Ctx.t0Kept (x : Ctx) (v : Nat) : Nat := x.t0Bytes v (·.pin) (·.command)

/-- HEADBOX_PIN and HEADBOX_MOVE: moves of every block of the range to its tier, outside the policy, whose own moves of these blocks give
way (R186, R188). HEADBOX_MOVE leaves pinned blocks where they are. A block whose move is in progress waits for its end. -/
def State.moveRange (s : State) (k : Cmd) (c cause : Nat) (pin : Bool) : State :=
  let x := s.ctx c
  let tier := k.op 0x18 0 2
  let v := if tier = 0 then k.op 0x18 16 14 else 0
  let all := x.created k.first k.count
  let bs := all.filter fun b => pin || !b.2.pin
  let busy (i : Nat) : Bool := x.moves.any fun m => m.block == i && (m.decided || m.command)
  let here := bs.filter fun b => b.2.inPlace tier v && !busy b.1
  let away := bs.filter fun b => !b.2.inPlace tier v || busy b.1
  let need := (away.filter fun b => !b.2.inPlace tier v).foldl (fun n b => n + b.2.units * 256) 0
  let room := if tier = 0 then s.t0Room c v - x.t0Kept v else s.arenaFree x.deckle
  if all.isEmpty ∨ (tier = 0 ∧ x.reamOf.nv ≤ v) then s.finish k 0x0B
  else if tier = 0 ∧ x.bind.isEmpty then s.finish k 0x07
  else if room < need then s.finish k 0x0C
  else
    let s1 := s.modCtx c fun y =>
      { y with
        blocks := y.blocks.map fun p => (p.1, p.2.map fun b => if here.any (fun h => h.1 == p.1) then { b with pin := b.pin || pin } else b)
        moves := (y.moves.filter fun m => m.decided || m.command || !(bs.any fun b => b.1 == m.block)) ++
          (away.map fun b => ⟨b.1, tier, v, cause, pin, false, false, s.beatCount, y.moves.length, none⟩) }
    if away.isEmpty then s1.finish k 0
    else { s1 with cmds := s1.cmds.replace k { k with begun := true, planned := away.length } }

/-- HEADBOX_PIN (R186). -/
def execHeadboxPin (c : CmdRef) (s : State) : Host.Outcome State Fault Refusal :=
  ctxRow 0x28 c s fun k i => s.moveRange k i 4 true

/-- HEADBOX_UNPIN (R186). -/
def execHeadboxUnpin (c : CmdRef) (s : State) : Host.Outcome State Fault Refusal :=
  ctxRow 0x29 c s fun k i =>
    let bs := (s.ctx i).created k.first k.count
    if bs.isEmpty then s.finish k 0x0B
    else
      (s.modCtx i fun y => { y with
        blocks := y.blocks.map fun p => (p.1, p.2.map fun b => if bs.any (fun h => h.1 == p.1) then { b with pin := false } else b) }).finish k 0

/-- HEADBOX_MOVE (R186): accepted only in manual mode. -/
def execHeadboxMove (c : CmdRef) (s : State) : Host.Outcome State Fault Refusal :=
  ctxRow 0x2A c s fun k i =>
    if s.flag F.HEADBOX_POLICY_manual 0 (ofDeckle (s.ctx i).deckle) then s.moveRange k i 5 false else s.finish k 0x07

/-- The endpoints of the job plan (R27). -/
def State.planned (s : State) (ep : Nat) : Bool := match s.plan with | some pl => pl.endpoints.contains ep | none => false

/-- HEADBOX_TIER (R186): T3 and the T2 lenders of the context's deckle. Its lists replace those registered before. -/
def execHeadboxTier (c : CmdRef) (s : State) : Host.Outcome State Fault Refusal :=
  cmdRow 0x2B c s fun k =>
    let d := k.fn - 4
    let x := s.deckle d
    let n := k.op 0x20 0 9
    let a := k.op 0x28 0 64
    let bytes := s.localRead d a (8 * n)
    let ls := (List.range n).map fun i => fieldAt bytes (8 * i) 0 64
    let t3 := if k.op 0x10 0 64 = 0 then none else some (k.op 0x10 0 64, k.op 0x18 0 64)
    let t3Ok := match t3 with | none => true | some t => s.inBuffer d t.1 t.2
    if x.lost then s.finish k 0x12
    else if s.localSize d < a + 8 * n then s.finish k 0x0B
    else
      match s.localBad d a (8 * n) with
      | some (st, b) => (s.notePoison d st b).finish k st
      | none =>
        if !t3Ok ∨ (ls.any fun l => decide (2 ^ 56 ≤ l) || !s.planned (l % 2 ^ 16)) then s.finish k 0x0B
        else (s.setDeckle d { x with t3, lenders := ls.map fun l => (bits l 0 16, bits l 16 16, bits l 32 24) }).finish k 0

/-- HEADBOX_LEND (R186): arena of the deckle lent as T2. -/
def execHeadboxLend (c : CmdRef) (s : State) : Host.Outcome State Fault Refusal :=
  cmdRow 0x2C c s fun k =>
    let d := k.fn - 4
    let x := s.deckle d
    let tag := k.op 0x10 16 16
    let mib := k.op 0x14 0 32
    if x.lends.any fun l => l.tag == tag then s.finish k 0x07
    else if s.arenaFree d < mib * 2 ^ 20 then s.finish k 0x0C
    else
      let l : Lend := ⟨tag, k.op 0x10 0 16, (k.desc.drop 0x20).take 32, mib, []⟩
      (s.arenaChange d fun s => s.setDeckle d { x with lends := x.lends ++ [l] }).finish k 0

/-- Bytes in pieces of 32. -/
def chunk32 : Nat → List Byte → List (List Byte)
  | 0, _ => []
  | n + 1, l => l.take 32 :: chunk32 n (l.drop 32)

/-- HEADBOX_REPLAY (R186, R191): the context's next ream, not one that runs now, starts in replay of the entries. -/
def execHeadboxReplay (c : CmdRef) (s : State) : Host.Outcome State Fault Refusal :=
  ctxRow 0x2D c s fun k i =>
    let d := (s.ctx i).deckle
    let a := k.op 0x10 0 64
    let n := k.op 0x18 0 32
    let es := chunk32 n (s.localRead d a (32 * n))
    if (s.deckle d).lost then s.finish k 0x12
    else if s.localSize d < a + 32 * n then s.finish k 0x0B
    else
      match s.localBad d a (32 * n) with
      | some (st, b) => (s.notePoison d st b).finish k st
      | none =>
        if es.all fun e => entryOk e && fieldAt e 0 16 16 == s.handle i then
          (s.modCtx i fun x => { x with replay := some es }).finish k 0
        else s.finish k 0x0B

end Sys2Proof.Machine
end

