-- ==== Sys2Proof/Machine/Contexts.lean ====
section
/-! DEFINITION. Contexts (R330, R331, R508), ABORT (R328, R329), teardown, and collective groups (R273-R275). -/

namespace Sys2Proof.Machine

/-! Leaving RUNNING. -/

/-- CTX_WAIT on a context completes as it leaves RUNNING (R326). -/
def State.wakeWaits (s : State) (c : Nat) : State :=
  s.finishAll (fun k => k.begun && s.names c k && k.opcode == 0x15) 0

/-- A stopping context with no sheet running and no step in HASH or RUN reaches STOPPED, and its open CTX_START and
CTX_STOP complete (R330, R508). -/
def State.settle (s : State) (c : Nat) : State :=
  let x := s.ctx c
  let busy := (x.insts.any fun i => i.st == .running) || x.steps.any fun p => p.st == .hash || p.st == .run
  if x.st = .stopping ∧ !busy then
    (s.setCtx c { x with st := .stopped }).finishAll
      (fun k => k.begun && s.names c k && (k.opcode == 0x12 || k.opcode == 0x13)) 0
  else s

/-- A running context stops (R330): sheets that are next are released from their tiles; a start whose binding has not been
applied lapses. -/
def State.stopCtx (s : State) (c : Nat) (release : Bool) : State :=
  let x := s.ctx c
  if x.st ≠ .running then s
  else
    let s1 := s.setCtx c { x with
      st := .stopping, release := x.release || release, startFrom := none
      places := x.places.filter fun p => p.old.isSome || p.new.isNone }
    let s2 := s1.each x.bind fun s b => s.setTile b.2 { s.tile b.2 with next := none }
    (s2.wakeWaits c).settle c

/-- The context declares a region of space 0x1, which a release would lose (R330). -/
def Ctx.hasTileRegion (x : Ctx) : Bool := x.reamOf.regions.any fun g => g.space == 1

/-! The job of a plan (R34, R36, R231). -/

/-- A context belongs to the job of the plan held: it has a group, or its ream names a peer (the model's reading: the spec
ties no context to a job otherwise). -/
def State.inJob (s : State) (c : Nat) : Bool :=
  let x := s.ctx c
  s.plan.isSome && (!x.groups.isEmpty || !x.reamOf.colls.isEmpty || x.reamOf.regions.any fun g => g.space == 2 || g.ext)

/-- A port the plan uses is absent, held or in quarantine (R231). -/
def State.jobHeld (s : State) : Bool :=
  match s.plan with
  | none => false
  | some pl => (List.range 26).any fun p =>
      s.portFitted p && planUse (planEntry pl p) != 0 &&
        (s.portState p == stAbsent || s.portState p == stHeld || s.portState p == stQuarantine)

/-- Under a plan whose master is another module, the beat is not yet aligned (R36). -/
def State.unaligned (s : State) : Bool :=
  match s.plan with
  | none => false
  | some pl =>
    match pl.master with
    | none => false
    | some m => m != pl.own0 && m != pl.own1 &&
        (s.fget F.BEAT_ALIGN_state == 0 || s.fget F.BEAT_ALIGN_state == 2)

/-! Context commands. -/

/-- The next generation of an index (R330). -/
def nextGen (c gen : Nat) : Nat :=
  let g := (gen + 1) % 64
  if c = 0 ∧ g = 0 then 1 else g

/-- An index has been free for at least 100 ms, or was never used (R330). -/
def State.restedIndex (s : State) (i : Nat) : Bool :=
  (s.ctx i).st == .free && match (s.ctx i).freedAt with | some t => decide (t + 100 ≤ s.ms) | none => true

/-- CTX_CREATE (R330): the lowest index that has been free for 100 ms; RESOURCE where there is none (log 109). -/
def execCtxCreate (c : CmdRef) (s : State) : Host.Outcome State Fault Refusal :=
  cmdRow 0x10 c s fun k =>
    let d := k.fn - 4
    if s.fget F.DECKLE_STATE_ctx_max 0 (ofDeckle d) ≤ (s.ctxsOf d).length then s.finish k 0x0C
    else
      match (List.range 1024).find? s.restedIndex with
      | none => s.finish k 0x0C
      | some i =>
        let s1 := s.setCtx i { Ctx.reset with gen := nextGen i (s.ctx i).gen, st := .idle, deckle := d }
        s1.finish k 0 0 (s1.handle i)

/-- CTX_START (R177, R330): a ream starts or resumes; refused with NOT_READY where its job may not start (R36, R231). Tiles
are bound at the next freeze, unless they still are; it completes where the first sheets fall due. -/
def execCtxStart (c : CmdRef) (s : State) : Host.Outcome State Fault Refusal :=
  ctxRow 0x12 c s fun k i =>
    let x := s.ctx i
    if s.inJob i ∧ (s.jobHeld ∨ s.unaligned) then s.finish k 0x09
    else
      let fresh := x.st = .loaded
      let bound := !x.bind.isEmpty && !x.release
      let x1 := if fresh then
          { x with
            cursor := 0, primed := false, insts := [], steps := [], ext := [], lostTiles := [], places := []
            inReplay := x.replay.isSome, journal := x.replay.getD [], replay := none }
        else x
      (s.begin k).setCtx i { x1 with st := .running, startFrom := if bound then none else some x.st }

/-- CTX_STOP (R330, R508). -/
def execCtxStop (c : CmdRef) (s : State) : Host.Outcome State Fault Refusal :=
  ctxRow 0x13 c s fun k i =>
    let x := s.ctx i
    let release := k.op 0x10 0 1 == 1
    if release && x.hasTileRegion then s.finish k 0x0B
    else if x.st = .stopped then (s.modCtx i fun y => { y with release := y.release || release }).finish k 0
    else if x.st = .stopping then (s.begin k).modCtx i fun y => { y with release := y.release || release }
    else (s.begin k).stopCtx i release

/-- CTX_STATUS (R326, R115). -/
def execCtxStatus (c : CmdRef) (s : State) : Host.Outcome State Fault Refusal :=
  ctxRow 0x14 c s fun k i =>
    let x := s.ctx i
    let result := x.flags.toNat + x.st.code * 2 ^ 8 + x.cursor % 2 ^ 32 * 2 ^ 16 + min 0xFFFF x.overruns * 2 ^ 48
    (s.when (k.op 0x10 0 1 == 1) fun s => s.modCtx i fun y => { y with flags := 0 }).finish k 0 x.lastStatus result

/-- CTX_WAIT (R508). -/
def execCtxWait (c : CmdRef) (s : State) : Host.Outcome State Fault Refusal :=
  ctxRow 0x15 c s fun k i => if (s.ctx i).st = .running then s.begin k else s.finish k 0

/-! Power-off readiness (R450). -/

/-- Work is left that a power-off waits for. -/
def State.workLeft (s : State) : Bool :=
  s.ctxList.any fun c =>
    let st := (s.ctx c).st
    st == .running || st == .stopping || st == .suspect || st == .teardown

/-- POWEROFF_READY, with whether the grace period expired. -/
def State.sendPoweroffReady (s : State) (expired : Bool) : State :=
  let s1 := (s.fset F.MGT_OFF_ready 1).fset F.MGT_OFF_remaining_ms 0
  ({ s1 with mgt := { s1.mgt with grace := false } }).duntus 0x25 [if expired then 1 else 0]

/-- POWEROFF_READY is sent once no work is left after a notice, by a unit that runs (R452). -/
def State.tryPoweroff (s : State) : State :=
  if s.flag F.MGT_OFF_pending ∧ !s.flag F.MGT_OFF_ready ∧ !s.workLeft ∧ s.controlRuns then s.sendPoweroffReady false else s

/-! Teardown (R331). -/

/-- Tiles that run or drain a sheet of a context. -/
def State.tilesOf (s : State) (c : Nat) : List Nat :=
  (s.tiles.filter fun p =>
    (match p.2.running with | some r => r.1 == c | none => false) ||
      (match p.2.draining with | some r => r.1 == c | none => false)).map Prod.fst

/-- Writes to other modules that a context has made and that are followed. -/
def State.writesOf (s : State) (c : Nat) : List RWrite :=
  let x := s.ctx c
  (s.tilesOf c).flatMap (fun t => (s.tile t).remote) ++ x.insts.flatMap (·.writes) ++ x.notices.flatMap (·.writes) ++
    x.steps.flatMap (·.sent)

/-- A tile stops its sheet without a fence: it drains its injected writes and becomes IDLE (R331, R419). -/
def State.stopTile (s : State) (tile : Nat) (unbind : Bool) : State :=
  let t := s.tile tile
  let clean := { Tile.reset with
    state := t.state, bind := if unbind then none else t.bind, errFences := t.errFences, hangs := t.hangs
    flightId := t.flightId, earlier := t.earlier, behind := t.behind, t0banks := if unbind then 0 else t.t0banks }
  match t.running with
  | some r => s.setTile tile { clean with state := .draining, draining := some r, flights := t.flights, remote := t.remote }
  | none => s.setTile tile (if t.state = .draining then { t with bind := clean.bind } else clean)

/-- The teardown still waits for a tile to drain. -/
def State.draining (s : State) (c : Nat) : Bool := !(s.tilesOf c).isEmpty

/-- The instant at which the local drain of a teardown ends and its remote writes begin to be awaited (R331). -/
def State.noteDrained (s : State) (c : Nat) : State :=
  if (s.ctx c).st = .teardown ∧ (s.ctx c).drainedAt.isNone ∧ !s.draining c then
    s.modCtx c fun x => { x with drainedAt := some s.ms }
  else s

/-- CTX_TEARDOWN (R331): the context's commands complete with CONTEXT_GONE, its steps fail, its sheets stop, and its tiles
are released; its writes to other modules are awaited. -/
def execCtxTeardown (c : CmdRef) (s : State) : Host.Outcome State Fault Refusal :=
  ctxRow 0x16 c s fun k i =>
    let away := (s.ctx i).insts.flatMap (·.writes) ++ (s.ctx i).notices.flatMap (·.writes) ++ (s.ctx i).steps.flatMap (·.sent)
    let past := (s.ctx i).pastPublished
    let s1 := (((s.begin k).dropChest i).modCtx i fun x => { x with st := .teardown, startFrom := none }).closeSteps i
    let s2 := s1.finishAll (fun j => s.names i j && j.opcode != 0x14 && !(j.begun && j.opcode == 0x16)) 0x04
    let s3 := s2.each (((s.ctx i).bind.map Prod.snd) ++ s.tilesOf i).eraseDups fun s t => s.stopTile t true
    let s4 := s3.each (s.ctx i).bind fun s b =>
      s.tileEntry i 0x07 0 past s.beatCount b.1 (some b.2) none
    (s4.modCtx i fun x =>
      { x with
        torn := s4.ms, bind := [], places := [], insts := [], notices := [], moves := [], promote := [], drops := [], queries := [], away
        blocks := x.blocks.map fun p => (p.1, p.2.map fun b => { b with t0 := none }) }).noteDrained i

/-- Writes of a torn-down context not yet remote-complete (R129). -/
def State.awayLeft (s : State) (c : Nat) : List RWrite :=
  ((s.tilesOf c).flatMap (fun t => (s.tile t).remote) ++ (s.ctx c).away).filter fun w => !s.remoteDone w

/-- The generation is marked dead at both I/O dies, and the fabric manager told (R331). -/
def State.revoke (s : State) (c : Nat) : State :=
  if (s.ctx c).revoked then s
  else
    (s.modCtx c fun x => { x with revoked := true }).duntusEvent 0x33 (leBytes 2 (s.endpoint 0) ++ leBytes 2 (s.handle c))

/-- The chest is freed, and the index is FREE with its generation used (R330, R331). -/
def State.freeCtx (s : State) (c : Nat) : State :=
  s.arenaChange (s.ctx c).deckle fun s => s.setCtx c { Ctx.reset with gen := (s.ctx c).gen, freedAt := some s.ms }

/-- The open CTX_TEARDOWN of a context completes, and the context is FREE. -/
def State.endTeardown (s : State) (c status : Nat) : State :=
  let done (k : Cmd) : Bool := k.begun && s.names c k && k.opcode == 0x16
  let s1 := s.cmds.filter done |>.foldl (fun s k => s.finish k status) s
  let s2 := s1.finishAll (fun k => s.names c k) 0x04
  (s2.freeCtx c).tryPoweroff

/-- TEARDOWN_COMPLETE (R331): nothing of the context is outstanding. -/
def execTeardownComplete (c : Nat) (s : State) : Host.Outcome State Fault Refusal :=
  guardUnit (decide (c < 1024)) <|
    if (s.ctx c).st ≠ .teardown ∨ s.draining c ∨ !(s.awayLeft c).isEmpty then s
    else (s.revoke c).endTeardown c 0x00

/-- Every followed write changed. -/
def State.mapWrites (s : State) (f : RWrite → RWrite) : State :=
  let g (l : List RWrite) : List RWrite := l.map f
  { s with
    tiles := s.tiles.mapVals (fun _ => Tile.reset) fun _ (x : Tile) => { x with
      remote := g x.remote, earlier := g x.earlier
      queues := x.queues.map fun q => (q.1, q.2.map fun d => { d with pkt := none }) }
    cmds := s.cmds.map fun (k : Cmd) => { k with sent := g k.sent }
    ctxs := s.ctxs.mapVals (fun _ => Ctx.reset) fun _ (x : Ctx) => { x with
      away := g x.away
      insts := x.insts.map fun i => { i with writes := g i.writes }
      notices := x.notices.map fun n => { n with writes := g n.writes }
      steps := x.steps.map fun q => { q with sent := g q.sent } } }

/-- A packet that waits at the source is discarded; those after it on its channel move up, so that no pair_seq is missing
(R261). -/
def State.discard (s : State) (w : RWrite) : State :=
  let r := s.router w.iod
  match r.inject.find? fun p => p.dst == w.dst && p.vc == w.vc && p.pairSeq == w.seq % 2 ^ 32 && p.op != opAck with
  | none => s
  | some p =>
    let pair := s.txPair w.iod w.dst
    let ch := pair.chan w.vc
    let after (q : Pkt) : Bool := q.dst == w.dst && q.vc == w.vc && q.op != opAck && q.pairSeq != p.pairSeq &&
      atOrAfter q.pairSeq p.pairSeq
    let inject := (r.inject.erase p).map fun q => if after q then { q with pairSeq := (q.pairSeq + 2 ^ 32 - 1) % 2 ^ 32 } else q
    let s1 := (s.setRouter w.iod { r with inject }).setTxPair w.iod (pair.setChan { ch with next := ch.next - 1 })
    (s1.mapWrites fun v =>
      if v.iod = w.iod ∧ v.dst = w.dst ∧ v.vc = w.vc ∧ w.seq < v.seq then { v with seq := v.seq - 1 } else v).bump
      C.DECKLE_DEAD_DROP_CNT

/-- A write still waits at its source to be injected. -/
def State.unsent (s : State) (w : RWrite) : Bool :=
  (s.router w.iod).inject.any fun p => p.dst == w.dst && p.vc == w.vc && p.pairSeq == w.seq % 2 ^ 32 && p.op != opAck

/-- Writes of a context not yet sent discarded, the latest first. -/
def State.discardUnsent (s : State) (c : Nat) : Nat → State
  | 0 => s
  | fuel + 1 =>
    match ((s.ctx c).away.filter s.unsent).getLast? with
    | none => s
    | some w => ((s.modCtx c fun x => { x with away := x.away.erase w }).discard w).discardUnsent c fuel

/-- TEARDOWN_DRAIN_LIMIT (R331): drain_ms have passed since the local drain ended: writes not yet sent are discarded at the source, and the generation
is revoked. -/
def execTeardownDrainLimit (c : Nat) (s : State) : Host.Outcome State Fault Refusal :=
  guardUnit (decide (c < 1024)) <|
    let due := match (s.ctx c).drainedAt with
      | some t => decide (t + s.fget F.DECKLE_TIMERS_drain_ms 0 (ofDeckle (s.ctx c).deckle) ≤ s.ms)
      | none => false
    if (s.ctx c).st ≠ .teardown ∨ (s.ctx c).revoked ∨ !due then s
    else (s.discardUnsent c (s.ctx c).away.length).revoke c

/-- TEARDOWN_ESCALATE (R331): teardown_ms have passed since the command's effect began with something outstanding: draining tiles are fenced into the broke
map, pairs that still hold writes are unreachable, and the command completes with TIMEOUT. -/
def execTeardownEscalate (c : Nat) (s : State) : Host.Outcome State Fault Refusal :=
  guardUnit (decide (c < 1024)) <|
    let due := (s.ctx c).torn + s.fget F.DECKLE_TIMERS_teardown_ms 0 (ofDeckle (s.ctx c).deckle)
    if (s.ctx c).st ≠ .teardown ∨ (!s.draining c ∧ (s.awayLeft c).isEmpty) ∨ s.ms < due then s
    else
      let s1 := s.each (s.tilesOf c) fun s t =>
        ((s.brokeAdd 0x1 t 0x03 false).bump C.RSTCTL_TFENCE_CNT).raiseTo E.RSTCTL_fence (s.ownersOfGroup (groupOf t))
      let pairs := ((s.awayLeft c).map fun w => (w.iod, w.dst)).eraseDups
      let s2 := s1.each pairs fun s p => s.loseRoute p.1 p.2
      ((s2.revoke c).raiseTo E.DECKLE_teardown_escalated [(s.ctx c).deckle]).endTeardown c 0x03

/-! ABORT (R328, R329). -/

/-- What an aborted command leaves (R329): its moves not yet started go, and CTX_START becomes a stop. -/
def State.abandon (s : State) (k : Cmd) : State :=
  match s.live k.ctx with
  | none => s
  | some c =>
    if k.opcode = 0x12 then s.stopCtx c false
    else if k.opcode = 0x28 ∨ k.opcode = 0x2A then
      s.modCtx c fun x => { x with moves := x.moves.filter fun m =>
        m.started || !(decide (k.first ≤ m.block ∧ m.block < k.first + k.count) && m.command) }
    else s

/-- Blocks or moves that a command has done (R329): an export has handed over all of its blocks, a work request that waits is not
done. -/
def State.movesDone (s : State) (k : Cmd) : Nat :=
  match s.live k.ctx with
  | some c => if k.opcode = 0x24 then k.planned else if k.opcode = 0x33 then 0 else k.planned - ((s.ctx c).moves.filter fun m =>
      decide (k.first ≤ m.block ∧ m.block < k.first + k.count) && m.command).length
  | none => 0

/-- ABORT (R328, R329). -/
def execAbortCmd (c : CmdRef) (s : State) : Host.Outcome State Fault Refusal :=
  cmdRow 0x08 c s fun k =>
    match s.cmds.find? fun t =>
      t.fn == k.fn && t.queue == k.op 0x10 0 6 && t.id == k.op 0x14 0 32 && !t.lost && t != k with
    | none => s.finish k 0x02
    | some t =>
      if t.opcode = 0x16 ∨ t.opcode = 0x40 ∨ t.opcode = 0x41 then s.finish k 0x07
      else
        let done := if t.begun then s.movesDone t else 0
        let s1 := s.finish t 0x01 0 done
        (s1.when t.begun (·.abandon t)).finish k 0

/-! Collective groups (R273-R275). -/

/-- A group record: fmt, group, n, rank, and the reserved fields 0. -/
def groupHeadOk (b : List Byte) : Bool :=
  fieldAt b 0 0 8 == 1 && fieldAt b 0 14 2 == 0 && decide (2 ≤ fieldAt b 0 16 9 ∧ fieldAt b 0 16 9 ≤ 256) &&
    fieldAt b 0 25 7 == 0 && decide (fieldAt b 4 0 8 < fieldAt b 0 16 9) && fieldAt b 4 8 24 == 0 &&
    ((b.drop 8).take 24).all (· == 0)

def memberOf (b : List Byte) (r : Nat) : Nat × Nat × Nat × Nat :=
  (fieldAt b (32 + 8 * r) 0 16, fieldAt b (32 + 8 * r) 16 16, fieldAt b (32 + 8 * r) 32 16, fieldAt b (32 + 8 * r) 48 8)

/-- The entries obey R274 for a context of handle `h`. -/
def State.membersOk (s : State) (h rank : Nat) (ms : List (Nat × Nat × Nat × Nat)) : Bool :=
  match s.plan with
  | none => false
  | some pl =>
    let me := ms.getD rank (0, 0, 0, 0)
    ms.all (fun m => pl.endpoints.contains m.1 && (m.2.1 == 0xFFFF || pl.endpoints.contains m.2.1) &&
      (m.2.2.2 == 0 || pl.trees.any fun t => t.2.1 == m.2.2.2)) &&
    me.1 == s.endpoint 0 && me.2.1 == (if s.iodFitted 1 then s.endpoint 1 else 0xFFFF) && me.2.2.1 == h &&
    ((ms.map fun m => (m.1, m.2.2.1)).eraseDups.length == ms.length)

/-- COLL_GROUP (R274): a group is registered on the context, with the hash of its record (R275). -/
def execCollGroup (c : CmdRef) (s : State) : Host.Outcome State Fault Refusal :=
  ctxRow 0x17 c s fun k i =>
    let x := s.ctx i
    let a := k.op 0x10 0 64
    let head := s.localRead x.deckle a 32
    let n := fieldAt head 0 16 9
    if (s.deckle x.deckle).lost then s.finish k 0x12
    else if s.localSize x.deckle < a + 32 then s.finish k 0x0B
    else
      match s.localBad x.deckle a 32 with
      | some (st, b) => (s.notePoison x.deckle st b).finish k st
      | none =>
        if !groupHeadOk head ∨ s.localSize x.deckle < a + 32 + 8 * n then s.finish k 0x0B
        else
          match s.localBad x.deckle (a + 32) (8 * n) with
          | some (st, b) => (s.notePoison x.deckle st b).finish k st
          | none =>
            let rec_ := s.localRead x.deckle a (32 + 8 * n)
            let id := fieldAt head 0 8 6
            let rank := fieldAt head 4 0 8
            let ms := (List.range n).map (memberOf rec_)
            let reserved := (List.range n).any fun r => fieldAt rec_ (32 + 8 * r) 56 8 != 0
            if reserved ∨ (x.group id).isSome ∨ !s.membersOk (s.handle i) rank ms then s.finish k 0x0B
            else
              let plain := rec_.take 4 ++ [0] ++ rec_.drop 5
              let g : Group := ⟨id, rank, ms, BitVec.ofNat 64 (leNat (Config.shake256 plain 8))⟩
              (s.modCtx i fun y => { y with groups := y.groups ++ [g] }).finish k 0

end Sys2Proof.Machine
end

