-- ==== Sys2Proof/Machine/Load.lean ====
section
/-! DEFINITION. REAM_LOAD: the checks of a ream and its collective table (R37-R40, R176, R276-R279, R507). -/

namespace Sys2Proof.Machine

/-- A load's failure: the status, and the address of a unit that could not be read. -/
structure LoadFail where
  status : Nat
  addr : Nat
deriving DecidableEq, Repr

def LoadFail.invalid : LoadFail := ⟨0x0B, 0⟩

/-- The bytes of an item in the deckle's local HBM, or why they cannot be had (R507). -/
def State.item (s : State) (d a n : Nat) : LoadFail ⊕ List Byte :=
  if (s.deckle d).lost then .inl ⟨0x12, a⟩
  else if s.localSize d < a + n then .inl .invalid
  else
    match s.localBad d a n with
    | some (st, b) => .inl ⟨st, b⟩
    | none => .inr (s.localRead d a n)

/-! The header (R37). -/

structure ReamHdr where
  nRegions : Nat
  length : Nat
  rep : Nat
  nv : Nat
  nSheets : Nat
  waitLimit : Nat
  regions : Nat
  index : Nat
deriving DecidableEq, Repr

def parseHeader (b : List Byte) : ReamHdr where
  nRegions := fieldAt b 0 16 16
  length := fieldAt b 4 0 32
  rep := fieldAt b 8 0 32
  nv := fieldAt b 0xC 0 14
  nSheets := fieldAt b 0x10 0 32
  waitLimit := if fieldAt b 0x14 0 16 = 0 then 4096 else fieldAt b 0x14 0 16
  regions := fieldAt b 0x18 0 64
  index := fieldAt b 0x20 0 64

def headerOk (b : List Byte) (healthy beatLog2 : Nat) : Bool :=
  let h := parseHeader b
  fieldAt b 0 0 8 == 1 && fieldAt b 0 8 8 == 0 && decide (1 ≤ h.nRegions ∧ h.nRegions ≤ 4096) &&
    decide (1 ≤ h.length ∧ h.length ≤ 16777216) && decide (1 ≤ h.nv ∧ h.nv ≤ healthy) && fieldAt b 0xC 14 18 == 0 &&
    fieldAt b 0x14 16 16 == 0 && h.regions % 64 == 0 && h.index % 8 == 0 && fieldAt b 0x28 0 4 == beatLog2 &&
    fieldAt b 0x28 4 28 == 0 && (b.drop 0x2C).all (· == 0)

/-- Healthy tiles of a deckle: those of its groups that the broke map does not hold. -/
def State.healthyTiles (s : State) (d : Nat) : Nat := ((s.groupTiles d).filter fun t => !s.tileMapped t).length

/-! Region entries (R38, rules 1, 10, 12 and 13 of R40). -/

/-- The journal ring of a deckle (R190): start and bytes, 0 when there is none. -/
def State.ring (s : State) (d : Nat) : Nat × Nat :=
  let n := s.fget F.HEADBOX_JRNL_CFG_size_log2 0 (ofDeckle d)
  (s.fget F.HEADBOX_JRNL_BASE_base 0 (ofDeckle d), if n = 0 then 0 else 32 * 2 ^ n)

def State.regionOk (s : State) (d nv : Nat) (e : List Byte) : Bool :=
  let g := parseRegion e
  let ring := s.ring d
  decide (g.space ≤ 4) && fieldAt e 0 54 10 == 0 && g.len != 0 && (g.space == 3 || g.len % 64 == 0) &&
    (!g.ext || g.space == 0) && (g.ext || g.writers == 0) &&
    (g.space == 2 || (g.rctx == 0 && g.rregion == 0 && g.slot == 0)) &&
    (g.space == 2 || (if g.space = 1 then decide (g.sel < nv) else g.sel == 0)) &&
    fieldAt e 0x10 20 44 == 0 && fieldAt e 0x18 0 64 == 0 &&
    (match g.space with
     | 0 => decide (g.base + g.len ≤ s.localSize d) && !decide (ring.2 ≠ 0 ∧ g.base < ring.1 + ring.2 ∧ ring.1 < g.base + g.len)
     | 1 => decide (g.base + g.len ≤ spadBytes)
     | 3 => decide (g.base + g.len ≤ 2 ^ 28)
     | 4 => s.inBuffer d g.base g.len
     | _ => true)

/-- Region entries from the table, those read so far in order; the first that fails (R507). -/
def State.loadRegions (s : State) (d nv base : Nat) : Nat → List Region → (Nat × LoadFail) ⊕ List Region
  | 0, acc => .inr acc
  | n + 1, acc =>
    match s.item d (base + 32 * acc.length) 32 with
    | .inl f => .inl (acc.length, f)
    | .inr e =>
      if s.regionOk d nv e then s.loadRegions d nv base n (acc ++ [parseRegion e]) else .inl (acc.length, .invalid)

/-! Sheets (R39, R40, R176). -/

/-- A region reference's own rules (R39; rules 1, 5, 6 and 7 of R40). -/
def refOk (ream : Ream) (acc : Bool) (e : List Byte) : Bool :=
  let r := parseRef e
  let g := ream.region r.region
  decide (r.region < ream.regions.length) && r.dir != 0 && fieldAt e 0 14 2 == 0 && fieldAt e 0xC 0 32 == 0 &&
    (r.dir != 2 || r.lag == 0) && r.len != 0 && (g.space == 3 || r.off % 64 == 0) && decide (r.off + r.len ≤ g.len) &&
    (r.dir != 3 || acc) && !(r.writes && (g.static || g.ext)) &&
    (!r.reads || g.static || g.ext || r.lag != 0)

/-- The affinity field (R175, R176): a pin names a tile of the deckle's groups. -/
def State.affinityOk (s : State) (d nv : Nat) (h : Sheet) : Bool :=
  let kind := h.affinity / 2 ^ 14
  let v := h.affinity % 2 ^ 14
  h.pin == (kind == 3) &&
    (match kind with
     | 0 => v == 0
     | 1 => decide (v < nv)
     | 2 => decide (v < 16)
     | _ => tileOk v && s.ownsGroup d (groupOf v))

/-- A sheet record's header (R39, R63, rule 12 of R40). -/
def State.sheetHeadOk (s : State) (d : Nat) (ream : Ream) (b : List Byte) : Bool :=
  let h := parseSheet b []
  let n := fieldAt b 0xC 0 5
  fieldAt b 0 0 8 == 1 && fieldAt b 0 10 6 == 0 && fieldAt b 0 30 2 == 0 && decide (h.vtile < ream.nv) &&
    decide (h.rbeat < ream.length) && fieldAt b 8 28 4 == 0 && decide (1 ≤ n ∧ n ≤ 16) && fieldAt b 0xC 5 11 == 0 &&
    h.code % 128 == 0 && h.codeLen != 0 && h.codeLen % 8 == 0 && decide (h.codeLen ≤ 16384) &&
    decide (h.code + h.codeLen ≤ s.localSize d) && fieldAt b 0x1C 0 32 == 0 && (b.drop 0x28).all (· == 0) &&
    s.affinityOk d ream.nv h

/-- Ream beat `w` lies in the window of a read at ream beat `b` with lag `lag` (rule 9 of R40). -/
def Ream.inWindow (r : Ream) (b lag w : Nat) : Bool :=
  if r.rep = 1 then decide (w ≤ b ∧ b - w < lag)
  else decide (r.length ≤ lag) || decide ((b + r.length - w) % r.length < lag)

/-- A read of `h` that a write of `g` makes unsafe; in one sheet a reference does not clash with itself (rule 9). -/
def Ream.unsafeRead (r : Ream) (h g : Sheet) (same : Bool) : Bool :=
  h.refs.zipIdx.any fun a => a.1.reads && g.refs.zipIdx.any fun b =>
    b.1.writes && !(same && a.2 == b.2) && (r.range a.1).overlaps (r.range b.1) && r.inWindow h.rbeat a.1.lag g.rbeat

/-- Two sheets, the first earlier in the index, obey rules 8 and 9 of R40 and the pairs of R176. -/
def Ream.pairOk (r : Ream) (g h : Sheet) : Bool :=
  !(g.rbeat == h.rbeat && (r.writesOf g).any fun x => (r.writesOf h).any x.overlaps) &&
    !r.unsafeRead h g false && !r.unsafeRead g h false &&
    (if g.vtile = h.vtile then g.pin == h.pin && (!g.pin || g.affinity == h.affinity)
     else !(g.pin && h.pin && g.affinity == h.affinity))

/-- A whole sheet after those before it in the index (rules 3, 4, 8, 9 and 11 of R40). -/
def Ream.sheetOk (r : Ream) (h : Sheet) : Bool :=
  decide ((h.refs.filter fun x => x.dir == 1).length ≤ 8) && decide ((h.refs.filter Ref.writes).length ≤ 8) &&
    (match r.sheets.getLast? with
     | none => true
     | some g => decide (g.rbeat < h.rbeat ∨ (g.rbeat = h.rbeat ∧ g.vtile < h.vtile))) &&
    !r.unsafeRead h h true && r.sheets.all fun g => r.pairOk g h

/-- One entry of the sheet index, with its record and references. -/
def State.loadSheet (s : State) (d index : Nat) (r : Ream) : LoadFail ⊕ Sheet :=
  match s.item d (index + 8 * r.sheets.length) 8 with
  | .inl f => .inl f
  | .inr e =>
    let p := leNat e
    if p % 64 ≠ 0 then .inl .invalid
    else
      match s.item d p 64 with
      | .inl f => .inl f
      | .inr b =>
        if !s.sheetHeadOk d r b then .inl .invalid
        else
          let n := fieldAt b 0xC 0 5
          match s.item d (p + 64) (16 * n) with
          | .inl f => .inl f
          | .inr refs =>
            let h := parseSheet b refs
            if ((List.range n).all fun i => refOk r h.acc ((refs.drop (16 * i)).take 16)) && r.sheetOk h then .inr h
            else .inl .invalid

def State.loadSheets (s : State) (d index : Nat) : Nat → Ream → (Nat × LoadFail) ⊕ Ream
  | 0, r => .inr r
  | n + 1, r =>
    match s.loadSheet d index r with
    | .inl f => .inl (r.sheets.length, f)
    | .inr h => s.loadSheets d index n { r with sheets := r.sheets ++ [h] }

/-! The collective table (R276-R279). -/

/-- An operation's element format is one R278 allows. -/
def dtypeOk (op red dtype : Nat) : Bool :=
  if op = 7 then dtype == 0
  else if op = 3 ∨ op = 5 then
    decide (red ≤ 2) && (if red = 0 then dtype == 0 || dtype == 1 || dtype == 2 || dtype == 6 else decide (dtype ≤ 6))
  else decide (dtype ≤ 6)

/-- The fields of an entry that need no other item (R276-R278), in a group of `n` members where this one has `rank`. -/
def collFieldsOk (r : Ream) (b : List Byte) (n : Nat) : Bool :=
  let e := parseColl b
  let shards := (List.range n).map fun k => shardLen k e.count n
  let sized (k : Nat) : Bool := k * elemBytes e.dtype != 0 && k * elemBytes e.dtype % 64 == 0
  fieldAt b 0 0 8 == 1 && decide (1 ≤ e.op ∧ e.op ≤ 7) && fieldAt b 0 21 11 == 0 &&
    (e.op == 3 || e.op == 5 || e.red == 0) && dtypeOk e.op e.red e.dtype && decide (e.rbeat < r.length) &&
    decide (1 ≤ e.span ∧ e.span ≤ r.length) && fieldAt b 8 22 10 == 0 && (e.op == 7 || e.count != 0) &&
    fieldAt b 0x10 12 4 == 0 && fieldAt b 0x18 12 20 == 0 && e.inOff % 64 == 0 && e.outOff % 64 == 0 &&
    (b.drop 0x28).all (· == 0) &&
    (match e.op with
     | 1 => decide (1 ≤ e.arg ∧ e.arg < n)
     | 2 => decide (e.arg < r.regions.length)
     | 6 => decide (e.arg < n)
     | _ => e.arg == 0) &&
    (e.op == 7 || (sized e.count && ((e.op != 3 && e.op != 4) || shards.all sized)))

/-- A list names each of 0 to n - 1 once. -/
def isPermutation (n : Nat) (l : List Nat) : Bool := l.length == n && (List.range n).all l.contains

/-- Input and output of an entry at this member, none where it has none. -/
def Ctx.collRanges (x : Ctx) (r : Ream) (e : CollEntry) : List Range × List Range :=
  let i := x.stepIn r e
  let o := x.stepOut r e
  (if i.len = 0 then [] else [i], if o.len = 0 then [] else [o])

/-- The regions and ranges of an entry (R279, rules 3-5), and its PERMUTE table's region. -/
def Ctx.collRegionsOk (x : Ctx) (r : Ream) (e : CollEntry) (rank n : Nat) : Bool :=
  let gi := r.region e.inRegion
  let go := r.region e.outRegion
  let io := x.collRanges r e
  (io.1.isEmpty || (decide (e.inRegion < r.regions.length) && gi.space == 0 &&
      decide (e.inOff + collIn e rank n * elemBytes e.dtype ≤ gi.len) && (gi.static || gi.ext || e.inLag != 0))) &&
    (io.2.isEmpty || (decide (e.outRegion < r.regions.length) && go.space == 0 &&
      decide (e.outOff + collOut e rank n * elemBytes e.dtype ≤ go.len) && !go.static && !go.ext)) &&
    !(io.1.any fun a => io.2.any a.overlaps) &&
    (e.op != 6 || rank == e.arg || (e.inRegion == 0 && e.inLag == 0 && e.inOff == 0)) &&
    (e.op != 2 || ((r.region e.arg).static && (r.region e.arg).space == 0 && decide (2 * n ≤ (r.region e.arg).len)))

/-- Ream beat `w` lies in an entry's span (rule 7 of R279). -/
def Ream.inSpan (r : Ream) (e : CollEntry) (w : Nat) : Bool :=
  if r.rep = 1 then decide (e.rbeat ≤ w ∧ w < e.rbeat + e.span)
  else decide ((w + r.length - e.rbeat) % r.length < e.span)

/-- Ranges read and written by another item, at a ream beat of an entry's span, that rule 7 of R279 forbids. -/
def clashes (io : List Range × List Range) (reads writes : List Range) : Bool :=
  (writes.any fun w => io.1.any w.overlaps || io.2.any w.overlaps) || reads.any fun w => io.2.any w.overlaps

/-- Rule 7 of R279 for an entry against the sheets and the entries before it. -/
def Ctx.collWindowOk (x : Ctx) (r : Ream) (e : CollEntry) : Bool :=
  let io := x.collRanges r e
  (r.sheets.all fun h => !(r.inSpan e h.rbeat && clashes io (r.readsOf h) (r.writesOf h))) &&
    r.colls.all fun f =>
      let jo := x.collRanges r f
      !((r.inSpan e f.rbeat || r.inSpan f e.rbeat) && clashes io jo.1 jo.2)

/-- One entry of the collective table. -/
def State.loadColl (s : State) (x : Ctx) (table : Nat) (r : Ream) : LoadFail ⊕ CollEntry :=
  match s.item x.deckle (table + 64 * r.colls.length) 64 with
  | .inl f => .inl f
  | .inr b =>
    let e := parseColl b
    match x.group e.group with
    | none => .inl .invalid
    | some g =>
      let n := g.members.length
      if !(collFieldsOk r b n && x.collRegionsOk r e g.rank n && x.collWindowOk r e) then .inl .invalid
      else if e.op = 2 then
        match s.item x.deckle (r.region e.arg).base (2 * n) with
        | .inl f => .inl f
        | .inr t => if isPermutation n ((List.range n).map fun i => fieldAt t (2 * i) 0 16) then .inr e else .inl .invalid
      else .inr e

def State.loadColls (s : State) (x : Ctx) (table : Nat) : Nat → Ream → (Nat × LoadFail) ⊕ Ream
  | 0, r => .inr r
  | n + 1, r =>
    match s.loadColl x table r with
    | .inl f => .inl (r.colls.length, f)
    | .inr e => s.loadColls x table n { r with colls := r.colls ++ [e] }

/-! The command. -/

/-- The ream that a header and a collective table name, or the kind and index of the first item that fails (R507). -/
def State.loadReam (s : State) (x : Ctx) (header table nColls : Nat) : (Nat × Nat × LoadFail) ⊕ Ream :=
  let d := x.deckle
  match s.item d header 64 with
  | .inl f => .inl (1, 0, f)
  | .inr b =>
    let h := parseHeader b
    if !headerOk b (s.healthyTiles d) (s.fget F.BEAT_CFG_beat_log2) then .inl (1, 0, .invalid)
    else
      match s.loadRegions d h.nv h.regions h.nRegions [] with
      | .inl f => .inl (2, f)
      | .inr rs =>
        match s.loadSheets d h.index h.nSheets ⟨h.length, h.rep, h.nv, h.waitLimit, rs, [], []⟩ with
        | .inl f => .inl (3, f)
        | .inr r =>
          match s.loadColls x table nColls r with
          | .inl f => .inl (4, f)
          | .inr r => .inr r

/-- REAM_LOAD (R507): the ream replaces one loaded before, and the context is LOADED; a refused ream changes nothing. -/
def execReamLoad (c : CmdRef) (s : State) : Host.Outcome State Fault Refusal :=
  ctxRow 0x11 c s fun k i =>
    let x := s.ctx i
    match s.loadReam x (k.op 0x10 0 64) (k.op 0x18 0 64) (k.op 0x20 0 9) with
    | .inl (kind, idx, f) => (s.notePoison x.deckle f.status f.addr).finish k f.status (kind * 2 ^ 28 + idx % 2 ^ 28)
    | .inr r => (s.modCtx i fun y => { y with ream := some r, st := .loaded }).finish k 0

end Sys2Proof.Machine
end

