-- ==== Sys2Proof/Machine/Blocks.lean ====
section
/-! DEFINITION. The chest operations of the host (R160, R161, R145, R146). -/

namespace Sys2Proof.Machine

/-- A ream of the context is started (R160). -/
def Ctx.started (x : Ctx) : Bool := x.st == .running || x.st == .stopping || x.st == .stopped || x.st == .suspect

/-- The combination of encodings and the fields of R140 that CHEST_CREATE sets. -/
def createOk (kind enc xenc hd slab errTarget : Nat) : Bool :=
  encOk kind enc xenc && (if kind = 0 then slab == 0 else hd == 0 && decide (1 ≤ slab ∧ slab ≤ 256)) &&
    (if enc = 4 then (Num.fin false 0 0).lt (f32 errTarget) else errTarget == 0)

/-- A block created and not yet written. -/
def Block.fresh (kind enc xenc hd slab errTarget firstTok : Nat) : Block where
  valid := false
  kind := kind
  enc := enc
  xenc := xenc
  hd := hd
  tier := 1
  t0 := none
  pin := false
  unbounded := false
  wgen := 0
  firstTok := firstTok
  slab := slab
  nres := 0
  errTarget := errTarget
  errMax := 0
  uses := 0
  lastBeat := 0
  data := []
  summary := []
  lender := none
  reads := []
  bad := false
  badSummary := false
  bad1 := false
  bad2 := false

/-- Blocks put into a chest at their indices. -/
def Ctx.putBlocks (x : Ctx) (bs : List (Nat × Block)) : Ctx := bs.foldl (fun x b => x.setBlock b.1 (some b.2)) x

/-- Arena bytes of new blocks. -/
def arenaOf (bs : List (Nat × Block)) : Nat := bs.foldl (fun n b => n + b.2.arena) 0

/-- CHEST_CREATE (R160). -/
def execChestCreate (c : CmdRef) (s : State) : Host.Outcome State Fault Refusal :=
  ctxRow 0x20 c s fun k i =>
    let x := s.ctx i
    let kind := k.op 0x18 0 1
    let f := Block.fresh kind (k.op 0x18 1 3) (k.op 0x18 4 2) (k.op 0x18 6 1) (k.op 0x18 16 9) (k.op 0x1C 0 32)
    let tok (n : Nat) : Nat := if kind = 0 then (k.op 0x20 0 48 + 64 * n) % 2 ^ 48 else 0
    let need := k.count * (f 0).arena
    if !createOk kind (f 0).enc (f 0).xenc (f 0).hd (f 0).slab (f 0).errTarget then s.finish k 0x0B
    else if !(x.created k.first k.count).isEmpty then s.finish k 0x07
    else if s.arenaFree x.deckle < need then s.finish k 0x0C
    else
      let bs := (List.range k.count).map fun n => (k.first + n, f (tok n))
      (s.arenaChange x.deckle fun s => s.modCtx i fun y => y.putBlocks bs).finish k 0

/-- A range taken out of a chest. -/
def dropBlocks (m : Sparse (Option Block)) (first count : Nat) : Sparse (Option Block) :=
  m.filter fun p => !decide (first ≤ p.1 ∧ p.1 < first + count)

/-- CHEST_FREE on a context's chest. -/
def State.freeBlocks (s : State) (k : Cmd) (i : Nat) : State :=
  let x := s.ctx i
  if x.started then s.finish k 0x07
  else
    let s1 := s.arenaChange x.deckle fun s => s.modCtx i fun y =>
      { y with
        blocks := dropBlocks y.blocks k.first k.count
        promote := y.promote.filter fun b => !decide (k.first ≤ b.1 ∧ b.1 < k.first + k.count)
        drops := y.drops.filter fun b => !decide (k.first ≤ b.1 ∧ b.1 < k.first + k.count)
        moves := y.moves.filter fun m => !decide (k.first ≤ m.block ∧ m.block < k.first + k.count) }
    (s1.finishMoves i).finish k 0

/-- CHEST_FREE (R160, R161): of a context's chest, or of an orphaned chest named by its lost handle. -/
def execChestFree (c : CmdRef) (s : State) : Host.Outcome State Fault Refusal :=
  cmdRow 0x21 c s fun k =>
    let d := k.fn - 4
    let z := s.deckle d
    match s.live k.ctx with
    | some i =>
      if (s.ctx i).deckle ≠ d then s.finish k 0x04
      else if accepts (s.ctx i).st 0x21 then s.freeBlocks k i
      else s.finish k 0x07 (s.ctx i).st.code
    | none =>
      if z.orphans.any fun o => o.1 == k.ctx then
        let os := z.orphans.map fun o => if o.1 = k.ctx then (o.1, dropBlocks o.2 k.first k.count) else o
        (s.arenaChange d fun s => s.setDeckle d { z with orphans := os.filter fun o => !o.2.isEmpty }).finish k 0
      else s.finish k 0x04

/-- What keeps a block's stored bytes from being read: lost data, or a copy out of reach (R164). -/
def State.blockBad (s : State) (d : Nat) (b : Block) : Option Nat :=
  if b.bad then some 0x0D else if s.copyLost d b then some 0x12 else none

/-- A failing read of a block's data is counted (R164). -/
def State.noteBlock (s : State) (d status : Nat) : State :=
  s.when (status == 0x0D) fun s => (s.bump C.CHEST_UE_CNT).raiseTo E.CHEST_ecc_uncorrectable [d]

/-- The blocks of a list re-encoded one by one; the command ends at one that cannot be. -/
def State.reencodeAll (s : State) (k : Cmd) (i enc : Nat) : List (Nat × Block) → State
  | [] => s.finish k 0
  | (n, b) :: rest =>
    let d := (s.ctx i).deckle
    match s.blockBad d b with
    | some st => (s.noteBlock d st).finish k st
    | none =>
      let new := b.reencode enc
      if b.tier = 1 ∧ s.arenaFree d < new.units * 256 then s.finish k 0x0C
      else ((s.arenaChange d fun s => s.modCtx i fun y => y.setBlock n (some new)).noteStored d n new).reencodeAll k i enc rest

/-- CHEST_REENCODE (R160, R145, R146): a combination that one block of the range does not allow changes nothing. -/
def execChestReencode (c : CmdRef) (s : State) : Host.Outcome State Fault Refusal :=
  ctxRow 0x22 c s fun k i =>
    let x := s.ctx i
    let enc := k.op 0x18 0 3
    let bs := (x.created k.first k.count).filter fun b => b.2.valid
    if decide (4 < enc) || bs.any (fun b => !encOk b.2.kind enc b.2.xenc) then s.finish k 0x0B
    else if x.started then s.finish k 0x07
    else s.reencodeAll k i enc bs

/-- CHEST_READ_DESC (R160): the descriptors of the range's created blocks, each at its place in the range (the model's
choice for a range with gaps). -/
def execChestReadDesc (c : CmdRef) (s : State) : Host.Outcome State Fault Refusal :=
  ctxRow 0x23 c s fun k i =>
    let x := s.ctx i
    let a := k.op 0x18 0 64
    let bs := x.created k.first k.count
    if bs.isEmpty ∨ !s.inBuffer x.deckle a (64 * k.count) then s.finish k 0x0B
    else (s.each bs fun s b => s.emit (.hostWrite (a + 64 * (b.1 - k.first)) b.2.descriptor)).finish k 0

/-- An exported block: its descriptor and stored bytes (R160). -/
def Block.export (b : Block) : List Byte := b.descriptor ++ (if b.valid then b.data else [])

/-- Bytes cut into pieces of at most 2,048 (R250), with their offsets. -/
def pieces : Nat → Nat → List Byte → List (Nat × List Byte)
  | 0, _, _ => []
  | n + 1, o, l => if l.isEmpty then [] else (o, l.take 2048) :: pieces n (o + 2048) (l.drop 2048)

/-- WRITE packets of an export handed to the first I/O die, and the writes to follow; none once the endpoint is unreachable. -/
def State.exportTo (s : State) (ep ctx a : Nat) : List (Nat × List Byte) → State × Option (List RWrite)
  | [] => (s, some [])
  | p :: rest =>
    match s.post 0 { Pkt.blank 2 ep opWrite with addr := a + p.1, ctx, payload := p.2 } with
    | (s1, none) => (s1, none)
    | (s1, some q) => let r := s1.exportTo ep ctx a rest; (r.1, r.2.map fun l => s1.follow 0 ep 2 q false :: l)

/-- CHEST_EXPORT (R160): the blocks in index order, to a registered host buffer, or to an endpoint of the plan in WRITE
packets on VC2 (channel and header are the model's choice); then its record follows their remote completion (R134). -/
def execChestExport (c : CmdRef) (s : State) : Host.Outcome State Fault Refusal :=
  ctxRow 0x24 c s fun k i =>
    let x := s.ctx i
    let d := x.deckle
    let bs := x.created k.first k.count
    let a := k.op 0x18 0 64
    let out := (bs.map fun b => b.2.export).flatten
    let ep := k.op 0x20 16 16
    if x.started then s.finish k 0x07
    else
      match (bs.filter fun b => b.2.valid).findSome? fun b => s.blockBad d b.2 with
      | some st => (s.noteBlock d st).finish k st
      | none =>
        if k.op 0x20 0 4 = 4 then
          if s.inBuffer d a out.length then (s.emit (.hostWrite a out)).finish k 0 else s.finish k 0x0B
        else if !s.planned ep ∨ (s.txPair 0 ep).unreachable then s.finish k 0x12
        else
          match s.exportTo ep (s.handle i) a (pieces (out.length / 2048 + 1) 0 out) with
          | (s1, none) => s1.finish k 0x12
          | (s1, some []) => s1.finish k 0
          | (s1, some ws) => { s1 with cmds := s1.cmds.replace k { k with begun := true, planned := bs.length, sent := ws } }

/-! Import. -/

/-- The block a descriptor and its stored bytes give, if they are a sound export; it is valid (R160). A block exported unwritten has
no stored bytes, and what it then holds is a free value, one for each `n`. Its err_target need not be 0 where CHEST_REENCODE has
changed enc. -/
def importBlock (n : Nat) (b : List Byte) (data : List Byte) : Option Block :=
  let w := fieldAt b 0 0 32
  let blk : Block := { Block.fresh (bits w 9 1) (bits w 10 3) (bits w 13 2) (bits w 15 1) (fieldAt b 0x12 0 16)
      (fieldAt b 0x18 0 32) (fieldAt b 8 0 48) with
    valid := bits w 8 1 == 1, wgen := fieldAt b 4 0 32, nres := fieldAt b 0x14 0 16, errMax := fieldAt b 0x1C 0 32
    uses := fieldAt b 0x20 0 32, lastBeat := fieldAt b 0x24 0 32, data }
  let clean := bits w 0 8 == 1 && bits w 21 11 == 0 && fieldAt b 8 48 16 == 0 && fieldAt b 0x14 16 16 == 0 &&
    (b.drop 0x30).all (· == 0)
  let size := fieldAt b 0x10 0 16
  let target := f32 blk.errTarget
  if clean && encOk blk.kind blk.enc blk.xenc && target.finite && !target.isNeg &&
      (if blk.kind = 0 then blk.slab == 0 else blk.hd == 0 && decide (1 ≤ blk.slab ∧ blk.slab ≤ 256)) &&
      size == (if blk.valid then blk.units else 0) && data.length == size * 256 &&
      (blk.kind == 0 || blk.firstTok == 0) && (if blk.enc = 4 then decide (blk.nres ≤ blk.resCap) else blk.nres == 0) then
    let full := { blk with
      valid := true, data := if blk.valid then data else (List.range (blk.units * 256)).map (Config.openByte n) }
    let sm := full.summarise
    some { full with summary := sm.1, unbounded := sm.2 }
  else none

/-- The blocks of an export, none where it is not one; `k` counts the blocks taken. -/
def importAll (k : Nat) : Nat → List Byte → Option (List Block)
  | 0, l => if l.isEmpty then some [] else none
  | n + 1, l =>
    if l.isEmpty then some []
    else
      let size := fieldAt l 0x10 0 16 * 256
      match importBlock (k + n) (l.take 64) ((l.drop 64).take size) with
      | none => none
      | some b => (importAll k n (l.drop (64 + size))).map (b :: ·)

/-- CHEST_IMPORT (R160): `source` is what the address read returned (log 7). Indices in use complete with BUSY, as for
CHEST_CREATE (the model's choice). `sameVersion`: the export comes from a module of this module's identity version; the export
itself, descriptors and stored bytes, does not say. -/
def execChestImport (c : CmdRef) (source : List Byte) (sameVersion : Bool) (s : State) : Host.Outcome State Fault Refusal :=
  ctxRow 0x25 c s fun k i =>
    let x := s.ctx i
    let ep := k.op 0x20 16 16
    if k.op 0x20 0 4 = 4 ∧ !s.inBuffer x.deckle (k.op 0x18 0 64) source.length then s.finish k 0x0B
    else if k.op 0x20 0 4 = 2 ∧ (!s.planned ep ∨ (s.txPair 0 ep).unreachable) then s.finish k 0x12
    else
      let n := source.length / 64 + 1
      match if sameVersion then importAll s.freeCtr n source else none with
      | none => s.finish k 0x0B
      | some bs =>
        let s := { s with freeCtr := s.freeCtr + n }
        let put := bs.zipIdx.map fun p => (k.first + p.2, p.1)
        if 2 ^ 28 < k.first + bs.length then s.finish k 0x0B
        else if !(x.created k.first bs.length).isEmpty then s.finish k 0x07
        else if s.arenaFree x.deckle < arenaOf put then s.finish k 0x0C
        else
          let s1 := s.arenaChange x.deckle fun s => s.modCtx i fun y => y.putBlocks put
          (s1.each put fun s b => s.noteStored x.deckle b.1 b.2).finish k 0

/-- CHEST_ADOPT (R160): the orphaned chest of the deckle moves to the context. -/
def execChestAdopt (c : CmdRef) (s : State) : Host.Outcome State Fault Refusal :=
  ctxRow 0x26 c s fun k i =>
    let x := s.ctx i
    let z := s.deckle x.deckle
    match z.orphans.find? fun o => o.1 == k.op 0x10 0 16 with
    | none => s.finish k 0x0B
    | some o =>
      if !x.blocks.isEmpty then s.finish k 0x07
      else
        ((s.setDeckle x.deckle { z with orphans := z.orphans.filter fun p => p.1 != o.1 }).modCtx i fun y =>
          { y with blocks := o.2 }).finish k 0

end Sys2Proof.Machine
end

