-- ==== Sys2Proof/Machine/Storage.lean ====
section
/-! DEFINITION. The storage ports in Ethernet use (R238): frames, priority pause, and the RoCEv2 queue pairs that the storage commands
drive (R326, R506). The transport is the standard's reliable connection (PRESUMED, log 110). -/

namespace Sys2Proof.Machine

/-! Frames out. -/

/-- A frame can leave: the port is ACTIVE, and the partner has not paused the storage priority. -/
def State.ethOpen (s : State) (port : Nat) : Bool := s.portActive port && (s.port port).paused == 0

/-- Frames handed to a port: sent, or kept until it can send. -/
def State.sendEth (s : State) (port : Nat) (fs : List EthFrame) : State :=
  if s.ethOpen port then s.each fs fun s f => s.emit (.eth port f)
  else s.modPort port fun x => { x with ethHeld := x.ethHeld ++ fs }

/-- The frames kept leave once they can. -/
def State.flushEth (s : State) (port : Nat) : State :=
  if s.ethOpen port then (s.modPort port fun x => { x with ethHeld := [] }).sendEth port (s.port port).ethHeld else s

/-- ETH_LINK_UP (R238). -/
def execEthLinkUp (port : Nat) (s : State) : Host.Outcome State Fault Refusal :=
  guardUnit (portOk port && s.portFitted port) <|
    if s.portMode port = 1 ∧ s.portState port ≠ stOff ∧ s.portState port ≠ stRetired then
      (s.portTo port stActive 0).flushEth port
    else s

/-! Queue pairs. -/

/-- Queue pairs a port holds at most (R238). -/
def qpMax : Nat := 4096

/-- A queue pair of a deckle by its number. -/
def Deckle.qp (x : Deckle) (n : Nat) : Option Qp := x.qps.find? fun q => q.num == n

def Deckle.setQp (x : Deckle) (q : Qp) : Deckle := { x with qps := x.qps.map fun p => if p.num = q.num then q else p }

def State.setQp (s : State) (d : Nat) (q : Qp) : State := s.setDeckle d ((s.deckle d).setQp q)

/-- Bytes of the path MTU (R506). -/
def Qp.bytes (q : Qp) : Nat := 1024 * 2 ^ q.mtu

/-- A frame to the remote queue pair: on the storage priority where it is tagged, from the port's first MAC address. -/
def State.qpFrame (s : State) (q : Qp) (psn : Nat) (op : RoceOp) : EthFrame :=
  let data := match op with
    | .send _ _ b => b.length
    | .write _ _ _ _ _ b => b.length
    | .readResp b => b.length
    | _ => 0
  { dmac := q.mac, smac := Config.portMac q.port 0, len := 94 + data
    tag := if q.vlan = 0 then none else some (recPfc s.nvm.inForce, q.vlan)
    body := .roce ⟨q.ip, false, q.remote, psn % 2 ^ 24, op⟩ }

/-- The packets of a work request (R238, R506): its message in parts of the path MTU, or one request to read. -/
def Work.ops (w : Work) (mtu : Nat) : List RoceOp :=
  if w.op = 3 then [.readReq w.rkey w.raddr w.len]
  else (List.range w.count).map fun i =>
    let part := (w.data.drop (i * mtu)).take mtu
    if w.op = 1 then .send (i == 0) (i + 1 == w.count) part
    else .write (i == 0) (i + 1 == w.count) w.rkey w.raddr w.len part

/-- The packets of a work request from its `n`th on; of a read, a request for what has not come. -/
def State.workFrames (s : State) (q : Qp) (w : Work) (n : Nat) : List EthFrame :=
  if w.op = 3 then
    [s.qpFrame q (w.psn + w.got) (.readReq w.rkey (w.raddr + w.got * q.bytes) (w.len - w.got * q.bytes))]
  else (((w.ops q.bytes).zipIdx.drop n).map fun p => s.qpFrame q (w.psn + p.2) p.1)

/-- The command of a work request completes. -/
def State.endWork (s : State) (q : Qp) (w : Work) (status : Nat) : State :=
  s.finishAll (fun k => k.begun && k.fn == w.cmd.fn && k.queue == w.cmd.queue && k.id == w.cmd.cmdId && k.opcode == 0x33 &&
    k.op 0x10 0 24 == q.num && k.planned == w.num) status w.num

/-- A queue pair's work requests end unserved: it left RTS, or is gone (status the model's choice, log 110). -/
def State.flushQp (s : State) (q : Qp) : State := s.each q.work fun s w => s.endWork q w 0x12

/-- STOR_QP_CREATE (R326): the port must be the deckle's, or the command is INVALID. -/
def execStorQpCreate (c : CmdRef) (s : State) : Host.Outcome State Fault Refusal :=
  cmdRow 0x30 c s fun k =>
    let d := k.fn - 4
    let x := s.deckle d
    let port := k.op 0x10 0 5
    if !s.ownsPort d port then s.finish k 0x0B
    else if qpMax ≤ (x.qps.filter fun q => q.port == port).length then s.finish k 0x0C
    else
      let q : Qp := {
        num := x.nextQp, port, sendDepth := k.op 0x14 0 16, recvDepth := k.op 0x14 16 16, state := 0, remote := 0,
        mtu := 0, vlan := 0, ip := List.replicate 16 0, mac := 0, posted := 0, work := [], sendPsn := 0, awaitPsn := none,
        gap := false, part := [], inbox := [], rate := 0 }
      (s.setDeckle d { x with qps := x.qps ++ [q], nextQp := (x.nextQp + 1) % 2 ^ 24 }).finish k 0 0 q.num

/-- Line rate of an Ethernet port in kb/s (R238). -/
def lineRate : Nat := 800000000

/-- STOR_QP_MODIFY (R326): an unknown number is INVALID. A queue pair that leaves RTS loses what was posted; one that enters RTR
begins at a sequence number that no rule gives, and takes its partner's from the first packet. -/
def execStorQpModify (c : CmdRef) (s : State) : Host.Outcome State Fault Refusal :=
  cmdRow 0x31 c s fun k =>
    let d := k.fn - 4
    match (s.deckle d).qp (k.op 0x10 0 24) with
    | none => s.finish k 0x0B
    | some q =>
      let st := k.op 0x10 24 4
      let f := s.free
      let s0 := if st = 2 then f.2 else s
      let s1 := s0.when (decide (st ≠ 3)) (·.flushQp q)
      let q1 := { q with
        state := st, remote := k.op 0x14 0 24, mtu := k.op 0x18 0 2, vlan := k.op 0x18 4 12
        ip := (k.desc.drop 0x20).take 16, mac := k.op 0x30 0 48, work := if st = 3 then q.work else [] }
      let q2 := if st = 2 then
          { q1 with sendPsn := (Config.freeWord f.1).toNat % 2 ^ 24, awaitPsn := none, gap := false, part := [], inbox := [],
                    rate := lineRate }
        else q1
      (s1.setQp d q2).finish k 0

/-- STOR_QP_DESTROY (R326). -/
def execStorQpDestroy (c : CmdRef) (s : State) : Host.Outcome State Fault Refusal :=
  cmdRow 0x32 c s fun k =>
    let d := k.fn - 4
    match (s.deckle d).qp (k.op 0x10 0 24) with
    | none => s.finish k 0x0B
    | some q =>
      let s1 := s.flushQp q
      let x := s1.deckle d
      (s1.setDeckle d { x with qps := x.qps.filter fun p => p.num != q.num }).finish k 0

/-- The local range of a work request lies in the deckle's HBM outside its arena, or in a registered buffer. -/
def State.workOk (s : State) (d space a n : Nat) : Bool :=
  if space = 0 then decide (a + n ≤ s.localSize d) && !s.inArena d a n else s.inBuffer d a n

/-- STOR_POST (R326): the work request is posted, numbered and sent; its record follows its end at the far side (R134, log 110).
A queue pair not in RTS, or with its send depth in use, takes none (the model's choice of status: NOT_READY and RESOURCE).
`source` is what a read of the host buffer returned (log 7). -/
def execStorPost (c : CmdRef) (source : List Byte) (s : State) : Host.Outcome State Fault Refusal :=
  cmdRow 0x33 c s fun k =>
    let d := k.fn - 4
    let space := k.op 0x10 28 4
    let a := k.op 0x18 0 64
    let n := k.op 0x20 0 32
    match (s.deckle d).qp (k.op 0x10 0 24) with
    | none => s.finish k 0x0B
    | some q =>
      let op := k.op 0x10 24 4
      if !s.workOk d space a n then s.finish k 0x0B
      else if q.state ≠ 3 then s.finish k 0x09
      else if q.sendDepth ≤ q.work.length then s.finish k 0x0C
      else
        match if space = 0 ∧ op ≠ 3 then s.localBad d a n else none with
        | some (st, b) => (s.notePoison d st b).finish k st
        | none =>
          let data := if op = 3 then [] else if space = 0 then s.localRead d a n else fit n source
          let w : Work := {
            num := q.posted, op, space, addr := a, len := n, rkey := k.op 0x24 0 32, raddr := k.op 0x28 0 64, data,
                            psn := q.sendPsn, count := max 1 (ceilDiv n q.bytes), got := 0, cmd := ⟨k.fn, k.queue, k.id⟩ }
          let q1 := { q with posted := (q.posted + 1) % 2 ^ 32, work := q.work ++ [w], sendPsn := (q.sendPsn + w.count) % 2 ^ 24 }
          let s1 := { s with cmds := s.cmds.replace k { k with begun := true, planned := w.num } }
          (s1.setQp d q1).sendEth q.port (s.workFrames q w 0)

/-! Frames in. -/

/-- Packets from one sequence number to another. -/
def psnDist (a b : Nat) : Nat := (b % 2 ^ 24 + 2 ^ 24 - a % 2 ^ 24) % 2 ^ 24

/-- Work requests that an acknowledgement of `psn` ends: those wholly at or before it; a read ends with its data. -/
def Qp.ended (q : Qp) (psn : Nat) : List Work :=
  q.work.takeWhile fun w => w.op != 3 && decide (psnDist (w.psn + w.count) (psn + 1) < 2 ^ 23)

/-- The work requests at the head of a queue pair end well. -/
def State.endWorks (s : State) (d : Nat) (q : Qp) (ws : List Work) : State :=
  (s.setQp d { q with work := q.work.drop ws.length }).each ws fun s w => s.endWork q w 0x00

/-- The queue pair of a storage port that a packet names, with its deckle: it takes packets, and they come from its partner. -/
def State.qpAt (s : State) (port : Nat) (r : Roce) : Option (Nat × Qp) :=
  (s.allDeckles.filter fun d => s.ownsPort d port).findSome? fun d =>
    ((s.deckle d).qps.find? fun q => q.num == r.qp && q.port == port && (q.state == 2 || q.state == 3) && q.ip == r.ip).map
      fun q => (d, q)

/-- A queue pair falls into ERROR. -/
def State.qpError (s : State) (d : Nat) (q : Qp) : State := (s.flushQp q).setQp d { q with state := 4, work := [] }

/-- A part of a message received: the whole is kept while the receive depth lasts; else the sender is told that the receiver is not
ready. -/
def State.takeSend (s : State) (d : Nat) (q : Qp) (psn : Nat) (first last : Bool) (data : List Byte) : State :=
  let part := (if first then [] else q.part) ++ data
  if last ∧ q.recvDepth ≤ q.inbox.length then s.sendEth q.port [s.qpFrame q psn (.nak 0x20)]
  else
    let q1 := { q with
      awaitPsn := some ((psn + 1) % 2 ^ 24), gap := false, part := if last then [] else part
      inbox := if last then q.inbox ++ [part] else q.inbox }
    (s.setQp d q1).when last (·.sendEth q.port [s.qpFrame q psn .ack])

/-- A request of the partner. No command gives a partner a key to the module's memory, so that its writes and reads are refused as
errors of remote access. -/
def State.takeRequest (s : State) (d : Nat) (q : Qp) (r : Roce) : State :=
  let await := q.awaitPsn.getD r.psn
  if r.psn ≠ await then
    if psnDist r.psn await < 2 ^ 23 then s.sendEth q.port [s.qpFrame q (await + 2 ^ 24 - 1) .ack]
    else if q.gap then s
    else (s.setQp d { q with gap := true }).sendEth q.port [s.qpFrame q await (.nak 0x60)]
  else
    match r.op with
    | .send first last data => s.takeSend d q r.psn first last data
    | _ => (s.qpError d q).sendEth q.port [s.qpFrame q r.psn (.nak 0x62)]

/-- Part of the answer to a read, placed in local HBM or in the host's buffer. -/
def State.takeRead (s : State) (d : Nat) (q : Qp) (psn : Nat) (data : List Byte) : State :=
  let before := q.work.takeWhile fun w => w.op != 3
  match q.work.drop before.length with
  | [] => s
  | w :: rest =>
    if psn ≠ (w.psn + w.got) % 2 ^ 24 then s
    else
      let a := w.addr + w.got * q.bytes
      let part := data.take (w.len - w.got * q.bytes)
      let s1 := if w.space = 0 then s.when (!(s.deckle d).lost) (·.localWrite d a part) else s.emit (.hostWrite a part)
      let w1 := { w with got := w.got + 1 }
      if w1.got = w.count then s1.endWorks d q (before ++ [w1])
      else s1.endWorks d { q with work := before ++ w1 :: rest } before

/-- Everything from a packet on is sent again. -/
def State.resend (s : State) (q : Qp) (psn : Nat) : State :=
  s.sendEth q.port (q.work.flatMap fun w =>
    let n := psnDist w.psn psn
    s.workFrames q w (if n < w.count then n else 0))

/-- A RoCEv2 packet for a queue pair (R238). One marked with congestion is answered with a notification; a notification cuts the
queue pair's rate by the profile's share (R468). -/
def State.takeRoce (s0 : State) (d : Nat) (q : Qp) (r : Roce) : State :=
  let s := s0.when r.ce (·.sendEth q.port [s0.qpFrame q 0 .cnp])
  match r.op with
  | .cnp => s.setQp d { q with rate := q.rate - q.rate * recCnp s.nvm.inForce / 256 }
  | .ack => if q.state = 3 then s.endWorks d q (q.ended r.psn) else s
  | .readResp data => if q.state = 3 then s.takeRead d q r.psn data else s
  | .nak syndrome =>
    if q.state ≠ 3 then s
    else
      let ws := q.ended ((r.psn + 2 ^ 24 - 1) % 2 ^ 24)
      let q1 := { q with work := q.work.drop ws.length }
      let s1 := s.endWorks d q ws
      if syndrome = 0x60 ∨ syndrome / 32 = 1 then s1.resend q1 r.psn else s1.qpError d q1
  | _ => s.takeRequest d q r

/-- The address that carries MAC control frames (IEEE 802.1Q). -/
def pauseMac : Nat := 0x0180C2000001

/-- Beats that a pause of some quanta of 512 bit times at 800 Gb/s lasts, rounded up. -/
def State.pauseBeats (s : State) (quanta : Nat) : Nat := ceilDiv (quanta * 64) (1000 * 2 ^ s.fget F.BEAT_CFG_beat_log2)

/-- A pause of the storage priority (R238); a time of 0 ends it. -/
def State.takePause (s : State) (port : Nat) (times : List (Nat × Nat)) : State :=
  match times.find? fun t => t.1 == recPfc s.nvm.inForce with
  | none => s
  | some t => (s.modPort port fun x => { x with paused := s.pauseBeats t.2 }).flushEth port

/-- ETH_FRAME (R238): a frame of at most 9,216 bytes for one of the port's two addresses is received. -/
def execEthFrame (port : Nat) (f : EthFrame) (s : State) : Host.Outcome State Fault Refusal :=
  guardUnit (portOk port && s.portFitted port) <|
    let mine := f.dmac == Config.portMac port 0 || f.dmac == Config.portMac port 1
    if s.portMode port ≠ 1 ∨ !s.portActive port ∨ 9216 < f.len then s
    else
      match f.body with
      | .pause times => if f.dmac = pauseMac ∨ mine then s.takePause port times else s
      | .other data => if mine then s.modPort port fun x => { x with frames := x.frames ++ [data] } else s
      | .roce r =>
        match if mine then s.qpAt port r else none with
        | none => s
        | some (d, q) => s.takeRoce d q r

/-- A beat of a pause passes. -/
def State.pauseTick (s : State) : State :=
  s.each [24, 25] fun s p =>
    if (s.port p).paused = 0 then s else (s.modPort p fun x => { x with paused := x.paused - 1 }).flushEth p

end Sys2Proof.Machine
end

