-- ==== Sys2Proof/Machine/Deckles.lean ====
section
/-! DEFINITION. Deckles made and destroyed (R311-R314), and PROFILE_SELECT (R469). -/

namespace Sys2Proof.Machine

/-! Deckles. -/

/-- What DECKLE_CREATE asks for. -/
structure DeckleAsk where
  d : Nat
  link : Nat
  ctxMax : Nat
  arena : Nat
  power : Nat
  given : Given
  half : Bool
deriving DecidableEq, Repr

def deckleAsk (k : Cmd) : DeckleAsk where
  d := k.op 0x10 0 4
  link := k.op 0x10 4 2
  ctxMax := k.op 0x10 6 7
  arena := k.op 0x14 0 16
  power := k.op 0x14 16 12
  given := ⟨k.op 0x18 0 48, k.op 0x24 0 26, k.op 0x20 0 24⟩
  half := k.op 0x20 24 1 == 1

/-- The half stacks of a mask, as stacks. -/
def stacksOf (hbm : Nat) : List Nat := (List.range 12).filter fun i => bits hbm (2 * i) 2 != 0

/-- GiB of HBM a mask gives. -/
def gibOf (hbm : Nat) : Nat := 48 * ((List.range 24).filter hbm.testBit).length

/-- The request keeps the limits of R311 and R312. -/
def State.askOk (s : State) (a : DeckleAsk) : Bool :=
  !s.deckleExists a.d && s.linkExists a.link && decide (1 ≤ a.ctxMax ∧ a.ctxMax ≤ 64) && a.given.groups != 0 &&
    a.given.hbm != 0 && (a.half || (List.range 12).all fun i => bits a.given.hbm (2 * i) 2 == 0 || bits a.given.hbm (2 * i) 2 == 3) &&
    (stacksOf a.given.hbm).all s.stackFitted && ((List.range 26).filter a.given.ports.testBit).all s.portFitted &&
    decide (a.arena + 1 ≤ gibOf a.given.hbm)

/-- A resource of the request belongs to another deckle, or the module's contexts would exceed 1,024 (R312). -/
def State.askTaken (s : State) (a : DeckleAsk) : Bool :=
  (s.allDeckles.any fun d =>
    let h := s.holds d
    (h.groups &&& a.given.groups) != 0 || (h.ports &&& a.given.ports) != 0 || (h.hbm &&& a.given.hbm) != 0) ||
    decide (1024 < a.ctxMax + s.allDeckles.foldl (fun n d => n + s.fget F.DECKLE_STATE_ctx_max 0 (ofDeckle d)) 0)

/-- A half of the mask has failed (R215). -/
def State.halfFailed (s : State) (hbm : Nat) : Bool :=
  (List.range 24).any fun b => hbm.testBit b && (s.fget F.HBMC_STATE_failed (b / 2)).testBit (b % 2)

/-- The deckle's registers as DECKLE_CREATE leaves them. -/
def State.giveDeckle (s : State) (a : DeckleAsk) : State :=
  let sel := ofDeckle a.d
  let s1 := ((s.fset F.DECKLE_STATE_state 1 0 sel).fset F.DECKLE_STATE_link a.link 0 sel).fset F.DECKLE_STATE_ctx_max
    a.ctxMax 0 sel
  let s2 := ((s1.fset F.DECKLE_GROUPS_groups a.given.groups 0 sel).fset F.DECKLE_RES_hbm a.given.hbm 0 sel).fset
    F.DECKLE_PORTS_ports a.given.ports 0 sel
  let s3 := (s2.fset F.DECKLE_CFG_power_w a.power 0 sel).fset F.CHEST_ARENA_SIZE_size_mib (a.arena * 1024) 0 sel
  s3.setDeckle a.d { Deckle.reset with half := a.half, lost := s.halfFailed a.given.hbm }

/-- Holder of the lock of a command's activity. -/
def Cmd.holder (k : Cmd) : Nat × Nat := holderOf k.fn

/-- A command refused for a held lock (R425, R352). -/
def State.lockRefuse (s : State) (k : Cmd) (l : Lock) : State := s.lockBusy.finish k 0x07 (l.word % 2 ^ 32)

/-- DECKLE_CREATE (R312): the resources are given, under the deckle lock, and zeroed before the command completes. -/
def execDeckleCreate (c : CmdRef) (s : State) : Host.Outcome State Fault Refusal :=
  cmdRow 0x40 c s fun k =>
    let a := deckleAsk k
    if !s.askOk a then s.finish k 0x0B
    else
      match s.conflict 3 a.d a.given with
      | some l => s.lockRefuse k l
      | none =>
        if s.askTaken a then s.finish k 0x0C
        else ((s.begin k).takeLock 3 a.d k.holder k.id).giveDeckle a

/-- Every byte of a deckle's entries and of its tiles' scratchpads zero. -/
def State.zeroDeckle (s : State) (d : Nat) : State :=
  let owned (key : Nat) : Bool := s.ownsHalf d (key / 2 ^ 37) (key / 2 ^ 36 % 2)
  { s with
    hbm := s.hbm.clear owned
    poison := s.poison.clear fun u => owned (u * 64)
    spad := s.spad.clear fun a => s.ownsGroup d (groupOf (a / spadBytes)) }

/-- DECKLE_ZEROING_DONE (R312): the deckle is ACTIVE, its lock free, its view's banked copies at reset (R343),
and its DECKLE_CREATE complete. -/
def execDeckleZeroingDone (deckle : Nat) (s : State) : Host.Outcome State Fault Refusal :=
  guardUnit (decide (deckle < 16)) <|
    if s.fget F.DECKLE_STATE_state 0 (ofDeckle deckle) ≠ 1 ∨ !s.inService then s
    else
      let s1 := (((s.zeroDeckle deckle).fset F.DECKLE_STATE_state 2 0 (ofDeckle deckle)).freeLock 3 deckle).resetView (4 + deckle)
      s1.finishAll (fun k => k.begun && k.opcode == 0x40 && k.op 0x10 0 4 == deckle) 0

/-- A deckle gone (R314): its session ended, its queues stopped, its orphans and registrations freed. -/
def State.dropDeckle (s : State) (d : Nat) : State :=
  let s0 := s.endSession (4 + d)
  let s1 := { s0 with queues := s0.queues.clear fun k => k / 64 == 4 + d }.finishAll (fun k => k.fn == 4 + d) 0x01
  let s2 := (s1.setDeckle d Deckle.reset).resetView (4 + d)
  { s2 with regs := s2.regs.clear fun k => k / 2 ^ 25 == ofDeckle d }

/-- DECKLE_DESTROY (R314): at once, under the deckle lock; what it gives back is zeroed when it is next given (R312). -/
def execDeckleDestroy (c : CmdRef) (s : State) : Host.Outcome State Fault Refusal :=
  cmdRow 0x41 c s fun k =>
    let d := k.op 0x10 0 4
    if !s.deckleExists d then s.finish k 0x0B
    else
      match s.conflict 3 d with
      | some l => s.lockRefuse k l
      | none => if s.ctxsOf d = [] then (s.dropDeckle d).finish k 0 else s.finish k 0x07

/-- PROFILE_SELECT (R469). -/
def execProfileSelect (c : CmdRef) (s : State) : Host.Outcome State Fault Refusal :=
  cmdRow 0x42 c s fun k => (s.selectProfile (k.op 0x10 0 2)).finish k 0

end Sys2Proof.Machine
end

