-- ==== Sys2Proof/Machine/Recovery.lean ====
section
/-! DEFINITION. The broke map as blocks show it (R407-R409), returning tiles (R411), the reset tiers (R412-R417), hangs and
suspect replay (R418-R421), command timeouts (R324), and when a crash dump is taken (R422). -/

namespace Sys2Proof.Machine

/-! The broke map (R407-R409). -/

/-- Registers that show the map, from the map (R409). -/
def State.applyMap (s : State) : State :=
  let of (k : Nat) : List Broke := s.broke.filter fun e => e.kind == k
  let mask (l : List Nat) : Nat := l.foldl (fun m b => m ||| 2 ^ b) 0
  let s1 := (s.fset F.MOD_GROUP_tiles_healthy (12288 - (of 1).length)).fset F.RSTCTL_BROKE_count s.broke.length
  let s2 := s1.each (List.range 48) fun s g =>
    let out := ((of 1).filter fun e => groupOf e.loc == g).map fun e => e.loc % 256
    s.each (List.range 8) fun s j =>
      s.setReg 0 (Page.TILE + g) (0x80 + 4 * j) (mask ((out.filter fun t => t / 32 == j).map (· % 32)))
  let s3 := s2.each (List.range 26) fun s p => s.each (List.range 4) fun s l =>
    s.fset (laneF l 1 1) (if (of 2).any fun e => e.loc == p + l * 2 ^ 8 then 1 else 0) p
  s3.each [0, 1] fun s i =>
    let r := mask (((of 7).filter fun e => e.loc % 2 == i).map fun e => e.loc / 2)
    (s.fset F.COLL_ENGINES_retired r i).fset F.COLL_ENGINES_healthy (0xFF - r) i

/-- An entry comes before another: sorted by kind, then by location (R409). -/
def Broke.before (a b : Broke) : Bool := decide (a.kind < b.kind ∨ (a.kind = b.kind ∧ a.loc ≤ b.loc))

/-- The oldest entry of kind 0x4, which makes room in a full map (R407). -/
def oldestRow (m : List Broke) : Option Broke :=
  (m.filter fun e => e.kind == 4).foldl (fun (x : Option Broke) e =>
    match x with
    | none => some e
    | some y => if e.boot < y.boot ∨ (e.boot = y.boot ∧ e.beat < y.beat) then some e else x) none

/-- A change of the map (R406-R409): an entry replaces the one it has for its resource, unless that one is permanent. -/
def State.mapChange (s : State) : BrokeChange → State
  | .remove k loc => { s with broke := s.broke.filter fun e => !(e.kind == k && e.loc == loc) }
  | .add e =>
    match s.broke.find? fun x => x.kind == e.kind && x.loc == e.loc with
    | some x => if x.retired then s else { s with broke := s.broke.map fun y => if y = x then e else y }
    | none =>
      let put (m : List Broke) : State := { s with broke := (m ++ [e]).mergeSort Broke.before }
      if s.broke.length < 16384 then put s.broke
      else
        match oldestRow s.broke with
        | some x => put (s.broke.erase x)
        | none => s.bump C.RSTCTL_BROKE_DROP_CNT

/-- Step 3 of a boundary takes the changes waiting into the map (R22, R409). -/
def State.mapStep (s : State) : State :=
  if s.brokeDue.isEmpty then s
  else
    let s1 := { s.brokeDue.foldl State.mapChange s with brokeDue := [] }
    if s1.broke = s.broke then s1
    else
      let s2 := s1.applyMap.fset F.RSTCTL_BROKE_gen (s.fget F.RSTCTL_BROKE_gen + 1)
      s2.raise E.RSTCTL_broke_change

/-- BROKE_MAP_PERSIST (R407): the persistent copy is written. -/
def execBrokeMapPersist (s : State) : Host.Outcome State Fault Refusal :=
  guardUnit true { s with nvm := { s.nvm with mapCopy := s.broke } }

/-! Fencing and returning a tile (R90, R410, R411). -/

/-- A write of the tile still waits in its I/O die to be sent (R90). -/
def State.writeInDie (s : State) (t : Tile) : Bool :=
  (t.remote ++ t.earlier).any fun w => (s.router w.iod).inject.any fun p =>
    p.op == opWrite && p.dst == w.dst && p.vc == w.vc && p.pairSeq == w.seq % 2 ^ 32

/-- TILE_FENCED (R90): a draining tile with no write outstanding on the module or in its I/O die becomes FENCED, or RETIRED for a retired entry. A tile that
drains without an entry, for a teardown (R331) or as a suspect's (R419), becomes IDLE. A fence that software asked for
ends here and lets go of its lock (R411). -/
def execTileFenced (tile : Nat) (s : State) : Host.Outcome State Fault Refusal :=
  guardUnit (tileOk tile) <|
    let t := s.tile tile
    let leaving := match t.draining with | some r => (s.ctx r.1).st == .teardown | none => false
    if t.state = .draining ∧ t.flights.isEmpty ∧ (leaving || !s.writeInDie t) = true then
      let st := if s.tileRetired tile then TileState.retired else if s.tileMapped tile then .fenced else .idle
      let away := match t.draining with
        | some r => if (s.ctx r.1).st = .teardown then some r.1 else none
        | none => none
      let s1 := match away with
        | some c => s.modCtx c fun x => { x with away := x.away ++ t.remote }
        | none => s
      let s2 := (s1.setTile tile { t with state := st, draining := none, remote := [], overdue := false, asked := false }).when t.asked
        (·.freeLock 1 (groupOf tile))
      match away with
      | some c => s2.noteDrained c
      | none => s2
    else s

/-- A refusal of a register write by a held lock (R425). -/
def State.writeBusy (s : State) (view off bytes : Nat) : State := (s.regFault view off bytes true 0x07).lockBusy

/-- A fence requested through RSTCTL_TFENCE (R411). -/
def State.askFence (s : State) (view off bytes tile : Nat) : State :=
  let t := s.tile tile
  if (s.conflict 1 (groupOf tile)).isSome then s.writeBusy view off bytes
  else if t.state ≠ .idle ∧ t.state ≠ .running then s
  else
    let s1 := (s.takeLock 1 (groupOf tile) (holderOf view) 0).fenceTile tile 0 false
    s1.setTile tile { s1.tile tile with asked := true }

/-- A return requested through RSTCTL_TFENCE (R411). -/
def State.askReturn (s : State) (view off bytes tile : Nat) : State :=
  let t := s.tile tile
  if (s.conflict 1 (groupOf tile)).isSome then s.writeBusy view off bytes
  else if t.state ≠ .fenced ∨ t.bind.isSome then s.regFault view off bytes true 0x0B
  else (s.takeLock 1 (groupOf tile) (holderOf view) 0).setTile tile { t with selfTest := true }

/-- TILE_SELF_TEST_DONE (R411). -/
def execTileSelfTestDone (tile : Nat) (pass : Bool) (s : State) : Host.Outcome State Fault Refusal :=
  guardUnit (tileOk tile) <|
    let t := s.tile tile
    if !t.selfTest then s
    else
      let s1 := s.setTile tile { t with selfTest := false, state := if pass then .idle else .retired }
      let s2 := if pass then
          { s1.spadZero tile with brokeDue := s1.brokeDue ++ [.remove 0x1 tile] }
        else s1.brokeAdd 0x1 tile 0x0D true
      s2.freeLock 1 (groupOf tile)

/-- Self-tests in progress are abandoned: their tiles stay FENCED (R426). -/
def State.abandonTests (s : State) : State :=
  s.each ((s.tiles.filter fun p => p.2.selfTest).map Prod.fst) fun s t =>
    (s.setTile t { s.tile t with selfTest := false }).freeLock 1 (groupOf t)

/-! The crash dump's taking (R422). -/

/-- A dump that software or the board controller requests, under the DUMP lock; false where a held lock refuses it. While a dump is
written, with no other lock in the way, the request waits for its end and then replaces it (R427). -/
def State.askDump (s : State) (holder : Nat × Nat) : State × Bool :=
  if s.rst.dumping.isSome ∧ (s.locks.all fun l => l.cls == 8 || clash l.cls 8 == .none) = true then
    ({ s with rst := { s.rst with dumpAgain := some holder } }, true)
  else if (s.conflict 8 0).isSome then (s, false)
  else
    let s1 := s.takeLock 8 0 holder 0
    ({ s1 with rst := { s1.rst with dumping := some (0, 0) } }, true)

/-- The dump a tier is to take: one in progress serves; an automatic one when a fault starts the tier, unless one is held. -/
def State.planDump (s : State) (tier cause status : Nat) : State :=
  if s.rst.dumping.isSome then s
  else if cause = 0 ∨ cause = 9 ∨ !s.flag F.RSTCTL_CFG_dump_auto then { s with rst := { s.rst with dumpDue := none } }
  else if s.flag F.RSTCTL_DUMP_valid then
    ({ s with rst := { s.rst with dumpDue := none } }).bump C.RSTCTL_DUMP_SKIP_CNT
  else { s with rst := { s.rst with dumpDue := some (status, tier) } }

/-! What a tier takes away (R412-R416). -/

/-- RSTCTL_SUSPECT shows the suspect set (R428). -/
def State.showSuspects (s : State) : State :=
  match s.rst.suspects with
  | none => ((s.fset F.RSTCTL_SUSPECT_ctx 0).fset F.RSTCTL_SUSPECT_remaining 0).fset F.RSTCTL_SUSPECT_state 0
  | some x =>
    let s1 := s.fset F.RSTCTL_SUSPECT_remaining (min 0xFF x.waiting.length)
    match x.replaying with
    | some r => (s1.fset F.RSTCTL_SUSPECT_ctx (s.handle r.1)).fset F.RSTCTL_SUSPECT_state 2
    | none => (s1.fset F.RSTCTL_SUSPECT_ctx 0).fset F.RSTCTL_SUSPECT_state 1

/-- A context lost to a tier (R161, R301, R330, R332): its steps fail, commands naming it complete with CONTEXT_GONE, its
chest becomes an orphan. -/
def State.loseCtx (s : State) (c : Nat) : State :=
  let s1 := (s.dropChest c).closeSteps c
  let x := s1.ctx c
  let s2 := s1.finishAll (fun k => s.names c k) 0x04
  let chest := x.blocks.map fun p => (p.1, p.2.map fun b => { b with t0 := none, reads := [] })
  let z := s2.deckle x.deckle
  let s3 := if chest.isEmpty then s2
    else s2.setDeckle x.deckle { z with orphans := z.orphans ++ [(s.handle c, chest)] }
  s3.setCtx c { Ctx.reset with gen := x.gen, freedAt := some s.ms }

/-- A tile as the compute domain's reset leaves it (R413, R414). -/
def State.resetTile (s : State) (t : Nat) (x : Tile) : Tile :=
  { Tile.reset with
    state := if s.tileRetired t then .retired else if s.tileMapped t then .fenced else .idle
    errFences := x.errFences, hangs := x.hangs }

/-- A tile at the fence of its domain (R417): its bursts in flight end as on a fenced tile (R90), until the drain limit. -/
def State.drainTile (s : State) (t : Nat) (x : Tile) : Tile :=
  if x.flights.isEmpty then s.resetTile t x
  else { s.resetTile t x with
    state := .draining, draining := x.running.orElse fun _ => x.draining, flights := x.flights, flightId := x.flightId }

/-- The contexts for which tiles have bursts in flight, as they stand. -/
def State.landings (s : State) : List (Nat × Ctx) :=
  s.tiles.filterMap fun p =>
    if p.2.flights.isEmpty ∨ (s.rst.landing.any fun l => l.1 == p.1) = true then none
    else (p.2.running.orElse fun _ => p.2.draining).map fun r => (p.1, s.ctx r.1)

/-- The compute and memory domains are fenced (R212, R415-R417): every context is lost, and with it every write accepted for it and
not yet placed (R135); every tile stops, repairs end. A write that a tile injected before is still placed, until the drain limit. -/
def State.fenceCompute (s : State) : State :=
  let s0 := { s with rst := { s.rst with landing := s.rst.landing ++ s.landings } }
  let s1 := s0.abandonTests.each s.ctxList fun s c => s.loseCtx c
  let locks := ((s1.tiles.filter fun p => p.2.asked).map fun p => groupOf p.1)
  let s2 := { s1 with tiles := s1.tiles.mapVals (fun _ => Tile.reset) s1.drainTile }
  let s3 := s2.each locks fun s g => s.freeLock 1 g
  let s4 := { s3 with
    routers := s3.routers.mapVals (fun _ => Router.reset) fun _ (r : Router) => { r with
      reads := [], rx := r.rx.map fun (p : RxPair) => { p with chans := p.chans.map fun (c : RxChan) => { c with
        held := c.held.map fun (h : Held) => { h with deckle := none } } } }
    rst := { s3.rst with suspects := none } }
  let s5 := s4.each (List.range 12) fun s i => s.repairAtFence i
  (s5.showSuspects.fencePages (computePages ++ memoryPages)).tryPoweroff

/-- Registers of pages back at their reset values, but for STATUS and the counters; banked copies stay (R414). -/
def State.resetPages (s : State) (ps : List Nat) : State :=
  { s with regs := s.regs.clear fun k =>
      let page := k / 4096 % 8192
      let off := k % 4096
      let sel := k / 2 ^ 25
      let counter := counterPages.any fun c =>
        decide (c.1 ≤ page ∧ page < c.1 + c.2.1 ∧ c.2.2.2 ≤ off ∧ off < c.2.2.2 + 8 * c.2.2.1)
      ps.contains page && (sel == 0 || decide (32 ≤ sel)) && off != 0x14 && !counter }

/-- The statistics counters of pages at 0. -/
def State.zeroCounters (s : State) (ps : List Nat) : State :=
  { s with regs := s.regs.clear fun k =>
      let page := k / 4096 % 8192
      let off := k % 4096
      ps.contains page && decide (k / 2 ^ 25 = 0) && counterPages.any fun c =>
        decide (c.1 ≤ page ∧ page < c.1 + c.2.1 ∧ c.2.2.2 ≤ off ∧ off < c.2.2.2 + 8 * c.2.2.1) }

def sensePages : List Nat := (List.range 7).map (Page.SENS + ·)

/-- Host and fabric links drop, and the plan is discarded (R413, R416). -/
def State.dropLinks (s : State) : State :=
  let s1 := s.each ((List.range 4).filter s.linkExists) fun s l => (s.linkLost l).fset (linkStateF l) 0
  let s2 := s1.each ((List.range 26).filter s1.portFitted) fun s p =>
    s.toOff p
  { s2 with plan := none, mgt := { s2.mgt with plan := none } }

/-- Beats restart: BEAT_COUNT at 0, FREE (R28, R35, R413). -/
def State.restartBeats (s : State) : State :=
  let s1 := ((s.fset F.BEAT_COUNT_count 0).fset F.BEAT_ALIGN_state 0).fset F.BEAT_CFG_master 0
  ({ s1 with beat := Beat.reset }).zeroCounters [Page.BEAT]

/-- Tiles as a reset leaves them; what they had in flight is discarded (R417). -/
def State.resetTiles (s : State) : State :=
  { s with
    spad := [], tiles := s.tiles.mapVals (fun _ => Tile.reset) s.resetTile, rst := { s.rst with landing := [] } }

/-- The reset step of a compute-domain reset (R413-R415). -/
def State.resetCompute (s : State) : State := (s.resetTiles.resetPages computePages).applyMap

/-- HBMC_ registers that show what the stacks keep: failed halves and spares; a stack that has not failed is in `st`. -/
def State.showStacks (s : State) (st : Nat) : State :=
  s.each ((List.range 12).filter s.stackFitted) fun s i =>
    let failed := (s.broke.filter fun e => e.kind == 6 && e.loc % 16 == i).foldl (fun m e => m ||| 2 ^ (e.loc / 16 % 2)) 0
    ((s.fset F.HBMC_STATE_failed failed i).fset F.HBMC_REPAIR_spare_min (s.stack i).spareMin i).fset F.HBMC_STATE_state
      (if failed = 3 then memFailed else st) i

/-- Protection starts again (R394, R400, R407): sensors are usable and not yet sampled, their entries go at the next boundary, and no
throttle holds until a sample asks for one (log 111). -/
def State.renewSensors (s : State) : State :=
  let gone := (s.broke.filter fun e => e.kind == 8).map fun e => BrokeChange.remove 8 e.loc
  { s with
    brokeDue := s.brokeDue ++ gone
    cal := { s.cal with sensors := [], traces := [], calm := 0, trips := [], disagree := [], agree := [], steps := [], hot := [] } }

/-- Ports that the broke map holds are RETIRED (R227, R409). -/
def State.showPorts (s : State) : State :=
  s.each ((List.range 26).filter s.portFitted) fun s p =>
    if s.broke.any fun e => e.kind == 3 && e.loc == p then s.fset F.PORT_STATE_state stRetired p else s

/-- The reset step of package recovery (R413, R414, R416, R469). -/
def State.resetPackage (s : State) : State :=
  let s1 := ({ s.resetTiles with routers := [], ports := [] }).resetPages
    (computePages ++ memoryPages ++ ioPages ++ sensePages)
  let s2 := (s1.applyMap.showStacks memRefresh).renewSensors.restartBeats.zeroCounters (Page.HEADBOX :: computePages)
  s2.showPorts.samplePins.applyPkg.showFirmware

/-! The tiers (R412-R417). -/

def State.setTier (s : State) (state tier cause : Nat) : State :=
  ((s.fset F.RSTCTL_STATE_state state).fset F.RSTCTL_STATE_tier tier).fset F.RSTCTL_STATE_cause cause

/-- A tier runs: the module is neither READY nor FAILED, after bring-up. -/
def State.tierRuns (s : State) (tier : Nat) : Bool :=
  s.upDone && s.rsState != rsReady && s.rsState != rsFailed && s.fget F.RSTCTL_STATE_tier == tier

/-- A compute-domain reset starts (R415). One already running answers the fault; package recovery is the higher tier (the
model's reading of R427). -/
def State.startCd (s : State) (cause status : Nat) (holder : Nat × Nat) : State :=
  if !s.upDone ∨ s.rsState ≠ rsReady then s
  else
    let s1 := (s.takeLock 6 0 holder 0).setTier rsFencing 1 cause
    ((s1.bump C.RSTCTL_CDRESET_CNT).planDump 1 cause status).fenceCompute

/-- Package recovery starts, or starts again from FENCING (R412, R416, R427); the third trigger within 60 s is FAILED. -/
def State.startPkg (s : State) (cause status : Nat) (holder : Nat × Nat) : State :=
  let recent := s.rst.recoveries.filter fun t => decide (s.ms < t + 60000)
  if !s.upDone ∨ s.rsState = rsFailed then s
  else if 2 ≤ recent.length then s.fail
  else
    let s1 := (s.freeLock 6 0).freeLock 7 0
    let s2 := (s1.takeLock 7 0 holder 0).setTier rsFencing 2 cause
    let s3 := ({ s2 with rst := { s2.rst with recoveries := recent ++ [s.ms] } }).bump C.RSTCTL_PKGREC_CNT
    let s4 := (s3.planDump 2 cause status).fenceCompute.dropLinks
    s4.fencePages ioPages

/-- Bring-up starts again at TRAINING (R491): memory is trained with zero fill, the compute dies are tested, and ports and
host links train. Nothing before IO_EN. -/
def State.restartTraining (s : State) : State :=
  let phase := s.fget F.RSTCTL_BRINGUP_phase
  let s1 := s.unfencePages (computePages ++ memoryPages ++ ioPages)
  if phase ≠ 2 ∧ phase ≠ 3 then s1
  else
    let s2 := { s1 with bring := { s1.bring with mem := false, test := false, repeated := false, windows := [] } }
    let s3 := s2.each (List.range 12) fun s i =>
      if s.memState i = memFailed then s else s.fset F.HBMC_STATE_state memOff i
    let s4 := s3.each ((List.range 26).filter s3.portEnabled) fun s p => s.portStart p
    s4.fset F.RSTCTL_BRINGUP_phase 2

/-- What answers the return of REFCLK, of a root, or the release of a trip (R359, R364, R397): package recovery, or, before
READY, bring-up at TRAINING (R491). -/
def State.recoverAll (s : State) (start : State → State) : State := if s.upDone then start s else s.restartTraining

/-- The module itself is the holder of the locks of what it starts (R342). -/
def byModule : Nat × Nat := (4, 0)

/-- A tier that software or the board controller requests; false where a held lock refuses it (R425). -/
def State.askTier (s : State) (pkg : Bool) (cause : Nat) (holder : Nat × Nat) : State × Bool :=
  if (s.conflict (if pkg then 7 else 6) 0).isSome then (s, false)
  else (if pkg then s.startPkg cause 0 holder else s.startCd cause 0 holder, true)

/-- COMPUTE_DOMAIN_RESET (R412, R415): a fault in the compute domain; cause in the codes of RSTCTL_STATE. -/
def execComputeDomainReset (cause status : Nat) (s : State) : Host.Outcome State Fault Refusal :=
  guardUnit true (s.startCd cause status byModule)

/-- PACKAGE_RECOVERY (R412, R416): a fault that only package recovery answers. -/
def execPackageRecovery (cause status : Nat) (s : State) : Host.Outcome State Fault Refusal :=
  guardUnit true (s.startPkg cause status byModule)

/-- RESETTING, and what the tier resets (R415, R416). -/
def State.enterReset (s : State) : State :=
  let s1 := s.fset F.RSTCTL_STATE_state rsResetting
  if s.fget F.RSTCTL_STATE_tier = 1 then s1.resetCompute else s1.resetPackage

/-- DRAIN_LIMIT (R417, R212): the drain of a tier ends, `requests` of what was outstanding being answered for it; the
stacks are in self-refresh, and the dump is taken first where one is due. A rail that is missing holds the tier (R447). -/
def execDrainLimit (requests : Nat) (s : State) : Host.Outcome State Fault Refusal :=
  guardUnit true <|
    if !(s.tierRuns 1 || s.tierRuns 2) ∨ s.rsState ≠ rsFencing ∨ s.rst.railHold then s
    else
      let s1 := (s.bumpBy C.RSTCTL_DRAIN_TO_CNT requests).each (List.range 12) fun s i =>
        if s.memState i = memActive ∨ s.memState i = memTraining then s.fset F.HBMC_STATE_state memRefresh i else s
      let due := s1.rst.dumping.orElse fun _ => s1.rst.dumpDue
      match due with
      | some d =>
        ({ s1 with rst := { s1.rst with dumping := some d, dumpDue := none } }).fset F.RSTCTL_STATE_state rsDumping
      | none => s1.enterReset

/-- A tier reaches READY (R415, R416). -/
def State.tierReady (s : State) (ms : Nat) : State :=
  (s.fset F.RSTCTL_STATE_state rsReady).fset F.RSTCTL_STATE_last_ms (min 0xFFFF ms)

/-- CD_RESET_READY (R415). -/
def execCdResetReady (ms : Nat) (s : State) : Host.Outcome State Fault Refusal :=
  guardUnit true <|
    if !s.tierRuns 1 ∨ s.rsState ≠ rsResetting then s
    else
      let s1 := s.each (List.range 12) fun s i =>
        if s.memState i = memRefresh then s.fset F.HBMC_STATE_state memActive i else s
      let s2 := (s1.unfencePages (computePages ++ memoryPages)).applyCd.tierReady ms
      (s2.raise E.RSTCTL_cd_reset).freeLock 6 0

/-- PKG_RECOVERY_READY (R416, R397): once every stack has ended its training; THERMTRIP_N is released after a trip. -/
def execPkgRecoveryReady (ms : Nat) (s : State) : Host.Outcome State Fault Refusal :=
  guardUnit true <|
    let trained := (List.range 12).all fun i => !s.stackFitted i || s.memState i == memActive || s.memState i == memFailed
    if !s.tierRuns 2 ∨ s.rsState ≠ rsTraining ∨ !trained then s
    else
      let s0 := { s with bring := { s.bring with thermtrip := s.bring.thermtrip && s.rst.tripped } }
      let s1 := (s0.unfencePages (computePages ++ memoryPages ++ sensePages)).tierReady ms
      (s1.raise E.RSTCTL_pkg_recovery).freeLock 7 0

/-- CD_RESET_ESCALATE (R412): not READY within 40 ms. -/
def execCdResetEscalate (s : State) : Host.Outcome State Fault Refusal :=
  guardUnit true (if s.tierRuns 1 then s.startPkg 6 0x03 byModule else s)

/-- PKG_RECOVERY_TIMEOUT (R412): not READY within 6 s. -/
def execPkgRecoveryTimeout (s : State) : Host.Outcome State Fault Refusal :=
  guardUnit true (if s.tierRuns 2 then s.fail else s)

/-! Hangs (R324, R418-R421). -/

/-- The shared units on which descriptors of a context are outstanding (R418): stack i as i, the DMA path of I/O die j as
32 + j. -/
def State.unitsOf (s : State) (c : Nat) : List Nat :=
  let d := (s.ctx c).deckle
  ((s.tilesOf c).flatMap fun t =>
    (s.tile t).queues.flatMap fun q => q.2.flatMap fun e =>
      let x := dmaDesc e.bytes
      if q.1 < 2 ∨ !e.started then []
      else if x.isQuery then s.queryStacks d
      else if x.isChest then [s.homeStack d (if x.dst = 3 then x.da else x.sa)]
      else if x.src = 2 ∨ x.dst = 2 ∨ x.src = 4 ∨ x.dst = 4 then [32 + s.injectDie t]
      else []).eraseDups

/-- A context of the deckle has a chest or headbox command in flight. -/
def State.hasCmd (s : State) (c lo hi : Nat) : Bool :=
  s.cmds.any fun k => s.names c k && decide (lo ≤ k.opcode ∧ k.opcode ≤ hi)

/-- The suspects of a command that timed out, and whether the engine concerned lies in the compute domain (R418). -/
def State.suspectsOf (s : State) (k : Cmd) : List Nat × Bool :=
  let d := k.fn - 4
  let own := s.ctxsOf d
  let live := own.filter fun c => (s.ctx c).st == .running || (s.ctx c).st == .stopping
  if k.fn < 4 then ([], true)
  else if k.opcode = 0x12 ∨ k.opcode = 0x13 then
    match s.live k.ctx with
    | none => ([], true)
    | some c =>
      let us := s.unitsOf c
      (live.filter fun x => x == c || (s.unitsOf x).any us.contains, true)
  else if 0x20 ≤ k.opcode ∧ k.opcode ≤ 0x26 then
    (live.filter fun x => (s.unitsOf x).any (fun u => decide (u < 32)) || s.hasCmd x 0x20 0x26, false)
  else if 0x28 ≤ k.opcode ∧ k.opcode ≤ 0x2D then
    (live.filter fun x => s.hasCmd x 0x28 0x2D || !(s.ctx x).moves.isEmpty, false)
  else ([], true)

/-- A fault of a suspect, naming the command that timed out (R420, R354). -/
def State.suspectFault (s : State) (k : Cmd) (c status : Nat) : State :=
  s.faultWith Page.RSTCTL c status 0x06 k.id (k.opcode + k.queue * 2 ^ 8 + s.linkOf k.fn % 4 * 2 ^ 14) 0x3FFF 0x3FFF

/-- A context's running sheets and operations are abandoned (R419): its tiles drain and keep their bindings; and whether one
of the lost sheets may not run again (R49, R181). -/
def State.abandonRuns (s : State) (c : Nat) : State × Bool :=
  let ts := s.tilesOf c
  let x := s.ctx c
  let lost := x.insts.filter fun i => i.st == .running
  let bad := lost.any fun i =>
    let h := x.reamOf.sheet i.sheet
    h.acc || h.pin || (x.reamOf.readsOf h).any x.lostRange
  let s1 := s.each ts fun s t => s.stopTile t false
  let s2 := { s1 with routers := s1.routers.mapVals (fun _ => Router.reset) fun _ (y : Router) =>
    { y with reads := y.reads.filter fun r => !ts.contains r.tile } }
  let s3 := s2.modCtx c fun y =>
    { y with
      insts := y.insts.map fun (i : Inst) => if i.st = .running then { i with st := .lost, writes := [] } else i
      queries := [] }
  (s3, bad)

/-- The checkpoint marker (R419): the lowest sequence number with an unpublished sheet or step. -/
def Ctx.markerOf (x : Ctx) : Nat :=
  (x.insts.map (·.q) ++ x.steps.map (·.q)).foldl (fun m q => match m with | none => some q | some n => some (min n q)) none
    |>.getD x.cursor

/-- A context is held as a suspect, or faults with SUSPECT where a lost sheet may not run again (R419). -/
def State.holdSuspect (s : State) (k : Cmd) (c : Nat) : State :=
  let x := s.ctx c
  let r := ((s.setCtx c { x with st := .suspect, marker := some x.markerOf, release := false }).wakeWaits c).abandonRuns c
  if r.2 then r.1.suspectFault k c 0x0E else r.1

/-- A hang charged to a tile; the second within 24 h fences it (R406, R421). -/
def State.chargeHang (s : State) (tile : Nat) : State :=
  let t := s.tile tile
  let again := t.hangs != 0 && decide (s.ms < t.hangs - 1 + dayMs)
  let s1 := s.setTile tile { t with hangs := s.ms + 1 }
  if again then s1.fenceTile tile 0x03 true else s1

/-- The set ends once no suspect is left; with no conviction the hang is charged to the tiles concerned (R421). -/
def State.closeSet (s : State) : State :=
  match s.rst.suspects with
  | none => s
  | some x =>
    if x.replaying.isSome ∨ !x.waiting.isEmpty then s.showSuspects
    else
      let s1 := ({ s with rst := { s.rst with suspects := none } }).showSuspects
      if x.convicted = 0 then s1.each x.tiles fun s t => s.chargeHang t else s1

/-- Suspects that have faulted leave the set. -/
def State.pruneSet (s : State) : State :=
  match s.rst.suspects with
  | none => s
  | some x =>
    ({ s with rst := { s.rst with suspects := some { x with
        waiting := x.waiting.filter fun (c : Nat) => (s.ctx c).st == CtxState.suspect
        replaying := x.replaying.filter fun (r : Nat × Nat) => (s.ctx r.1).st == CtxState.suspect } } }).closeSet

/-- Suspects of a command that timed out (R418-R421): they make a set, or join the one that runs. -/
def State.suspect (s : State) (k : Cmd) : State :=
  let r := s.suspectsOf k
  let cs := r.1.mergeSort fun a b => decide (a ≤ b)
  if cs.isEmpty then s
  else
    let ts := cs.flatMap s.tilesOf
    let s1 := s.each cs fun s c => s.holdSuspect k c
    let x := (s.rst.suspects.getD ⟨k, [], none, 0, [], r.2⟩)
    let x1 := { x with
      waiting := x.waiting ++ cs, tiles := (x.tiles ++ ts).eraseDups, compute := x.compute && r.2 }
    let s2 := { s1 with rst := { s1.rst with suspects := some x1 } }
    ((s2.bump C.RSTCTL_SUSPECT_CNT).raise E.RSTCTL_suspect).pruneSet

/-- The timeout of a command in beat-times (R320, R333), none where it has none; function 0, which has no DECKLE_CFG, takes its reset
value (log 109). -/
def State.timeoutOf (s : State) (k : Cmd) : Option Nat :=
  let n := fieldAt k.desc 8 0 32
  if n = 0xFFFFFFFF then none
  else if n ≠ 0 then some n
  else if k.fn < 4 then some 200000
  else some (max 1 (s.fget F.DECKLE_CFG_cmd_timeout 0 (ofDeckle (k.fn - 4))))

/-- A command has been in flight for its timeout. -/
def State.overtime (s : State) (k : Cmd) : Bool := match s.timeoutOf k with | some n => decide (n ≤ k.age) | none => false

/-- COMMAND_TIMEOUT (R324, R427): the command completes with TIMEOUT; suspects are held unless a tier runs. -/
def execCommandTimeout (c : CmdRef) (s : State) : Host.Outcome State Fault Refusal :=
  guardUnit (decide (c.fn < 20 ∧ c.queue < 64)) <|
    match s.cmds.find? fun k => k.fn == c.fn && k.queue == c.queue && k.id == c.cmdId && s.overtime k with
    | none => s
    | some k =>
      let s1 := (s.bump C.DECKLE_TIMEOUT_CNT).raiseTo E.DECKLE_command_timeout (deckleOfFn k.fn)
      let s2 := s1.finish k 0x03
      if s.inService then s2.suspect k else s2

/-- The next suspect's replay starts, at step 6 of a boundary, when none of its steps is in HASH or RUN (R420). -/
def State.startReplay (s : State) : State :=
  match s.rst.suspects with
  | none => s
  | some x =>
    match x.replaying, x.waiting with
    | none, c :: rest =>
      if (s.ctx c).steps.any fun p => p.st == .hash || p.st == .run then s
      else
        ({ s with rst := { s.rst with suspects := some { x with waiting := rest, replaying := some (c, s.beatCount) } } }).showSuspects
    | _, _ => s

/-- The replaying suspect is cleared once what its marker and the next number name has published (R420). -/
def State.clearSuspect (s : State) : State :=
  match s.rst.suspects with
  | none => s
  | some x =>
    match x.replaying with
    | none => s
    | some (c, _) =>
      let y := s.ctx c
      let m := y.marker.getD 0
      let open_ := (y.insts.any fun i => decide (i.q ≤ m + 1)) || y.steps.any fun p => decide (p.q ≤ m + 1)
      let past := match y.reamOf.total with | some n => decide (n ≤ m + 1) | none => false
      if y.primed && !open_ && (decide (m + 1 ≤ y.cursor) || past) then
        let s1 := s.setCtx c { y with st := .running, marker := none }
        ({ s1 with rst := { s1.rst with suspects := some { x with replaying := none } } }).closeSet
      else s

/-- The replay window of a set in beat-times: the timeout of its command, at most 200,000 (R420). -/
def State.replayWindow (s : State) (x : SuspectSet) : Nat := min 200000 ((s.timeoutOf x.cmd).getD 200000)

/-- REPLAY_WINDOW_END (R420): the suspect whose replay has lasted its window is convicted; a second conviction of the set is a unit
failure. -/
def execReplayWindowEnd (s : State) : Host.Outcome State Fault Refusal :=
  guardUnit true <|
    match s.rst.suspects with
    | none => s
    | some x =>
      match x.replaying with
      | none => s
      | some (c, start) =>
        if s.beatCount < start + s.replayWindow x then s
        else
        let s1 := (s.abandonRuns c).1.suspectFault x.cmd c 0x0F
        let s2 := (s1.bump C.RSTCTL_CONVICT_CNT).raise E.RSTCTL_convicted
        let x1 := { x with replaying := none, convicted := x.convicted + 1 }
        if 2 ≤ x1.convicted then
          let s3 := s2.each x.waiting fun s c => s.suspectFault x.cmd c 0x0E
          let s4 := ({ s3 with rst := { s3.rst with suspects := none } }).showSuspects
          if x.compute then s4.startCd 7 0x0F byModule else s4.startPkg 7 0x0F byModule
        else ({ s2 with rst := { s2.rst with suspects := some x1 } }).closeSet

end Sys2Proof.Machine
end

