-- ==== Sys2Proof/Machine/Clocks.lean ====
section
/-! DEFINITION. Clocks (R357-R374): REFCLK and the roots, changes of source, droop responses, clock enables. -/

namespace Sys2Proof.Machine

/-! REFCLK and the roots (R357-R359, R364). -/

def lockF (r : Nat) : Fld := if r = 0 then F.CLKCTL_ROOT_a_lock else F.CLKCTL_ROOT_b_lock
def readyF (r : Nat) : Fld := if r = 0 then F.CLKCTL_ROOT_a_ready else F.CLKCTL_ROOT_b_ready

/-- The broke map, with the changes waiting, holds a root as retired (R406). -/
def State.rootRetired (s : State) (r : Nat) : Bool :=
  (s.broke.any fun b => b.kind == 9 && b.loc == r) ||
    s.brokeDue.any fun c => match c with | .add e => e.kind == 9 && e.loc == r | .remove .. => false

/-- A root that may be selected (R358, R406). -/
def State.rootReady (s : State) (r : Nat) : Bool := s.flag (readyF r) && !s.rootRetired r

/-- Every domain but the control complex is fenced (R359, R364, R397); contexts and links are lost as when a tier fences
(R415, R416). -/
def State.fenceAll (s : State) : State := (s.fenceCompute.dropLinks.fencePages ioPages)

/-- The stacks in self-refresh (R212). -/
def State.selfRefresh (s : State) : State :=
  s.each (List.range 12) fun s i =>
    if s.memState i = memActive ∨ s.memState i = memTraining then s.fset F.HBMC_STATE_state memRefresh i else s

def divF (die : Nat) : Fld := ⟨Page.CLKCTL, 0x88, 4 * die, 3⟩
def droopF (die : Nat) : Fld := ⟨Page.CLKCTL, 0x88, 4 * die + 3, 1⟩

/-- A die's droop response ends: its divider restarts at the divisor in force before (R370). -/
def State.endDroop (s : State) (die : Nat) : State :=
  if !s.flag (droopF die) then s
  else
    let back := s.clk.before.get (fun _ => 0) die - 1
    let s1 := { s with clk := { s.clk with before := s.clk.before.set (fun _ => 0) die 0 } }
    (s1.fset (droopF die) 0).fset (divF die) back

/-- REFCLK_LOSS (R357, R359, R374): a loss is counted even before REFCLK has been back for 10 ms; droop responses are abandoned. -/
def execRefclkLoss (s : State) : Host.Outcome State Fault Refusal :=
  guardUnit true <|
    if !s.bring.powered then s
    else
      let s1 := ((s.fset F.CLKCTL_ROOT_refclk_ok 0).fset F.CLKCTL_ROOT_a_ready 0).fset F.CLKCTL_ROOT_b_ready 0
      let s2 := (s1.bump C.CLKCTL_REFCLK_LOSS_CNT).raise E.CLKCTL_refclk_loss
      if s.rst.refLost then s2
      else
        (({ s2 with rst := { s2.rst with refLost := true } }).each (List.range 4) fun s d => s.endDroop d).fenceAll.selfRefresh

/-- REFCLK_RETURN (R359): REFCLK has been present for 10 ms and a root is ready. -/
def execRefclkReturn (s : State) : Host.Outcome State Fault Refusal :=
  guardUnit true <|
    if !s.rst.refLost ∨ !(s.rootReady 0 || s.rootReady 1) then s
    else
      (({ s with rst := { s.rst with refLost := false } }).fset F.CLKCTL_ROOT_refclk_ok 1).recoverAll fun s =>
        s.startPkg 1 0x09 byModule

def rootOk (r : Nat) : Bool := decide (r < 2)

/-- ROOT_LOCK (R358). -/
def execRootLock (root : Nat) (s : State) : Host.Outcome State Fault Refusal :=
  guardUnit (rootOk root) (if s.flag F.CLKCTL_ROOT_bypass then s else s.fset (lockF root) 1)

/-- ROOT_READY (R358, R364): a root held in lock for 100 us; domains stopped for want of one are recovered. -/
def execRootReady (root : Nat) (s : State) : Host.Outcome State Fault Refusal :=
  guardUnit (rootOk root) <|
    if !s.flag (lockF root) then s
    else
      let back (u : Nat) : Bool := s.fget (if u = 0 then F.CLKCTL_SRC_ctl_a else F.CLKCTL_SRC_ctl_b) == root
      let s0 := { s with ctl := { s.ctl with halted := s.ctl.halted.filter fun u => !back u } }
      let s1 := s0.fset (readyF root) 1
      if s.clk.stopped && !s.rootRetired root then
        ({ s1 with clk := { s1.clk with stopped := false } }).recoverAll fun s => s.startPkg 2 0x09 byModule
      else s1

/-- The domains with a source field (R375): TILE, FAB, MEMC, CTL_A, CTL_B, MGT. -/
def srcFields : List Fld :=
  [F.CLKCTL_SRC_tile, F.CLKCTL_SRC_fab, F.CLKCTL_SRC_memc, F.CLKCTL_SRC_ctl_a, F.CLKCTL_SRC_ctl_b, F.CLKCTL_SRC_mgt]

/-- The domains that run on a root switch to the other, or stop (R364); so do dies that a droop response has kept on it (R374). -/
def State.loseRoot (s0 : State) (root : Nat) : State :=
  let on := srcFields.filter fun f => s0.fget f == root
  let behind := !s0.clk.lag.isEmpty && s0.fget F.CLKCTL_SRC_tile != root
  let s := { s0 with clk := { s0.clk with lag := [] } }
  let other := 1 - root
  if (on.isEmpty && !behind) || s.flag F.CLKCTL_ROOT_bypass then s
  else if s.rootReady other then
    ((s.each on fun s f => s.fset f other).bumpBy C.CLKCTL_SWITCH_CNT (on.length + if behind then 1 else 0)).raise
      E.CLKCTL_root_switch
  else
    let s1 := { s with clk := { s.clk with stopped := true } }
    let quiet := [0, 1].filter fun u => on.contains (if u = 0 then F.CLKCTL_SRC_ctl_a else F.CLKCTL_SRC_ctl_b)
    let s2 := { s1 with ctl := { s1.ctl with halted := (s1.ctl.halted ++ quiet).eraseDups } }
    let s3 := s2.when (on.contains F.CLKCTL_SRC_tile || on.contains F.CLKCTL_SRC_memc) (·.fenceCompute.selfRefresh)
    s3.when (on.contains F.CLKCTL_SRC_fab) fun s => s.dropLinks.fencePages ioPages

/-- ROOT_LOCK_LOSS (R358, R364): a root that loses lock for the third time within 1 h is retired (R406). -/
def execRootLockLoss (root : Nat) (s : State) : Host.Outcome State Fault Refusal :=
  guardUnit (rootOk root) <|
    if !s.flag (lockF root) then s
    else
      let recent := s.clk.losses.filter fun l => decide (s.ms < l.2 + 3600000)
      let third := decide (2 ≤ (recent.filter fun l => l.1 == root).length)
      let s0 := { s with clk := { s.clk with losses := recent ++ [(root, s.ms)] } }
      let s1 := ((s0.fset (lockF root) 0).fset (readyF root) 0).bump C.CLKCTL_LOCK_LOSS_CNT
      let s2 := s1.raise E.CLKCTL_root_lock_loss
      (s2.when (third && !s.rootRetired root) (·.brokeAdd 0x9 root 0x09 true)).loseRoot root

/-! Changing source (R363). -/

/-- A refusal of a source change. -/
def State.srcRefuse (s : State) (view bytes : Nat) : State := s.regFault view (Page.CLKCTL * 4096 + 0x84) bytes true 0x09

/-- A write of one source field: FAB, MEMC and MGT switch at once, TILE at step 5 of the next boundary. -/
def State.writeSrcField (s : State) (view bytes : Nat) (f : Fld) (root : Nat) : State :=
  if s.fget f = root then (if f = F.CLKCTL_SRC_tile then { s with clk := { s.clk with tileSrc := none } } else s)
  else if !s.rootReady root then s.srcRefuse view bytes
  else if f = F.CLKCTL_SRC_tile then { s with clk := { s.clk with tileSrc := some (root, view) } }
  else (s.fset f root).bump C.CLKCTL_SWITCH_CNT

/-- A write of CLKCTL_SRC. -/
def State.writeSrc (s : State) (view bytes v : Nat) : State :=
  s.each [F.CLKCTL_SRC_tile, F.CLKCTL_SRC_fab, F.CLKCTL_SRC_memc, F.CLKCTL_SRC_mgt] fun s f =>
    s.writeSrcField view bytes f (bits v f.lo 1)

/-! The TILE dividers (R367-R371, R374). -/

/-- The divisor code that throttling holds a die at, at the least (R396). -/
def State.dieFloor (s : State) (die : Nat) : Nat :=
  s.cal.steps.foldl (fun m t => match t.2 with | .die d code => if d = die then max m code else m | _ => m) 0

/-- The TILE source at step 5 of a boundary (R363): the dies switch that have no droop response; the others at the first boundary after
theirs ends (R374). CLKCTL_SRC shows the new source once a die is on it. -/
def State.switchTile (s : State) : State :=
  let slow := (List.range 4).filter fun d => s.flag (droopF d)
  let s0 := { s with clk := { s.clk with lag := s.clk.lag.filter slow.contains } }
  match s0.clk.tileSrc with
  | some (root, view) =>
    let s1 := { s0 with clk := { s0.clk with tileSrc := none } }
    if !s.rootReady root then s1.srcRefuse view 4
    else if slow.length = 4 then s0
    else ({ s1 with clk := { s1.clk with lag := slow } }.fset F.CLKCTL_SRC_tile root).bump C.CLKCTL_SWITCH_CNT
  | none => s0

/-- Step 5 of a boundary for the dividers and the TILE source: a die in a droop response holds what is commanded. -/
def State.applyDivs (s : State) : State :=
  let s1 := s.switchTile
  let goal (d : Nat) : Nat := max (s.fget F.CLKCTL_TILE_pending) (s.dieFloor d)
  let s2 := s1.each (List.range 4) fun s d => if s.flag (droopF d) then s else s.fset (divF d) (goal d)
  let held := (List.range 4).any fun d => s.flag (droopF d) && s.clk.before.get (fun _ => 0) d != goal d + 1
  s2.fset F.CLKCTL_TILE_held (if held then 1 else 0)

/-- A die's droop response starts, or starts its count again (R368, R369). -/
def State.droop (s : State) (die : Nat) : State :=
  let s1 := (s.bump C.CLKCTL_DROOP_CNT).raise E.CLKCTL_droop
  if s.flag (droopF die) then s1
  else
    let d := s.fget (divF die)
    let s2 := { s1 with clk := { s1.clk with before := s1.clk.before.set (fun _ => 0) die (d + 1) } }
    (s2.fset (divF die) (min 4 (d + 1))).fset (droopF die) 1

/-- Core voltage of a divisor code in millivolts (R382). -/
def coreMv (code : Nat) : Nat := [850, 760, 700, 640, 600].getD code 600

/-- DROOP_TRIGGER (R368, R398): a die's core rail has read `rail` millivolts for 1 ns; its detectors trigger below the threshold that
SENS_DROOP sets for the voltage of the divisor in force. -/
def execDroopTrigger (die rail : Nat) (s : State) : Host.Outcome State Fault Refusal :=
  guardUnit (decide (die < 4)) <|
    if rail * 100 < (100 - s.fget F.SENS_DROOP_pct die) * coreMv (s.fget (divF die)) then s.droop die else s

/-- DROOP_END (R370). -/
def execDroopEnd (die : Nat) (s : State) : Host.Outcome State Fault Refusal :=
  guardUnit (decide (die < 4)) (s.endDroop die)

/-- A throttle step for a die (R396, R374): it acts at once, but for a die in a droop response only where it is slower. -/
def State.protect (s : State) (die code : Nat) : State :=
  if s.flag (droopF die) then
    let s1 := { s with clk := { s.clk with before := s.clk.before.set (fun _ => 0) die (code + 1) } }
    s1.fset (divF die) (max code (s.fget (divF die)))
  else s.fset (divF die) (max code (s.fget (divF die)))

/-! Clock enables (R372, R373). -/

/-- A block is in use, so that gating it is refused (R373). -/
def State.inUse (s : State) (page : Nat) : Bool :=
  if 0x30 ≤ page ∧ page < 0x60 then !(s.ownersOfGroup (page - 0x30)).isEmpty
  else if 0x20 ≤ page ∧ page < 0x2C then !(s.ownersOfStack (page - 0x20)).isEmpty || s.memState (page - 0x20) == memTraining
  else if 0x10 ≤ page ∧ page < 0x1C then s.clocked (Page.HBMC + (page - 0x10)) && !(s.ownersOfStack (page - 0x10)).isEmpty
  else if 0x60 ≤ page ∧ page < 0x7A then s.portState (page - 0x60) != stOff
  else if page = Page.CXLP then (List.range 4).any s.linkActive
  else if page = Page.DECKLE ∨ page = Page.HEADBOX ∨ page = Page.CHEST then !s.allDeckles.isEmpty
  else if page = 0x80 ∨ page = 0x81 ∨ page = 0x88 ∨ page = 0x89 then s.plan.isSome
  else false

/-- A clock enable written and to be done within 10 us; it replaces one still waiting for the block (R374). -/
def State.enableLater (s : State) (page : Nat) (on : Bool) : State :=
  { s with clk := { s.clk with enables := (s.clk.enables.filter fun e => e.1 != page) ++ [(page, on)] } }

/-- One enable bit written (R372, R373). -/
def State.writeEnable (s : State) (view off bytes page : Nat) (on : Bool) : State :=
  match clockBit page with
  | none => s
  | some f =>
    if !s.pageFitted page ∨ s.flag f = on then s
    else if on then (s.fset f 1).enableLater page true
    else if s.inUse page then
      ((s.bump C.CLKCTL_GATE_REFUSE_CNT).raise E.CLKCTL_gate_refused).regFault view off bytes true 0x07
    else (s.fset f 0).enableLater page false

/-- A write of a CLKCTL_EN_ register: `mask` names the bits written. -/
def State.writeEnables (s : State) (view off bytes mask v : Nat) : State :=
  let r := off % 4096
  s.each gatedPages fun s p =>
    match clockBit p with
    | some f => if f.off = r ∧ mask.testBit f.lo then s.writeEnable view off bytes p (v.testBit f.lo) else s
    | none => s

/-- A block's clock stops (R373). -/
def State.gate (s : State) (page : Nat) : State :=
  if 0x20 ≤ page ∧ page < 0x2C then
    if s.memState (page - 0x20) = memActive then s.fset F.HBMC_STATE_state memRefresh (page - 0x20) else s
  else if page = Page.CXLP then s.each (List.range 4) fun s l => s.fset (linkStateF l) 0
  else s

/-- A block's clock starts. -/
def State.ungate (s : State) (page : Nat) : State :=
  if 0x20 ≤ page ∧ page < 0x2C then
    if s.memState (page - 0x20) = memRefresh ∧ s.inService then s.fset F.HBMC_STATE_state memActive (page - 0x20) else s
  else if page = Page.CXLP ∧ s.mayTrain then
    s.each ((List.range 4).filter fun l => s.linkExists l && !s.bring.perst.contains l) fun s l => s.fset (linkStateF l) 1
  else s

/-- STATUS.ready of a page (R342). -/
def State.setReady (s : State) (page v : Nat) : State := s.setReg 0 page 0x14 (setBits (s.reg 0 page 0x14) 0 1 v)

/-- CLOCK_ENABLE_DONE (R372): a block whose enable was written has started or stopped; a fenced page is not ready,
and a gated page's held halves go (R349). -/
def execClockEnableDone (page : Nat) (s : State) : Host.Outcome State Fault Refusal :=
  guardUnit (decide ((clockBit page).isSome) && s.pageFitted page) <|
    match s.clk.enables.find? fun e => e.1 == page with
    | none => s
    | some e =>
      let s1 := { s with clk := { s.clk with enables := s.clk.enables.filter fun x => x != e } }
      if e.2 then ((s1.when (!s.pageFenced page) (·.setReady page 1)).ungate page)
      else
        let s2 := s1.setReady page 0
        ({ s2 with held := s2.held.filter fun h => h.page != page }).gate page

end Sys2Proof.Machine
end

