-- ==== Sys2Proof/Machine/Power.lean ====
section
/-! DEFINITION. The calender (R378-R400): the cap and the credit, learning, the choice of an operating point and its group of
beats, deckle allowances, throttling, thermal trip, the leak loop. -/

namespace Sys2Proof.Machine

/-! The cap and the credit (R379-R381). A bucket is 1 ms of energy in mJ, so a cap in W is also its energy of a bucket. -/

/-- Buckets of the window (R380): a change of window_s takes effect at the next decision. -/
def State.windowLen (s : State) : Nat :=
  (if s.cal.window = 0 then s.fget F.CALENDER_CFG_window_s else s.cal.window) * 1000

def State.cap (s : State) : Nat := s.fget F.CALENDER_CAP_cap_w

/-- The energy of the window in mJ, a bucket not yet measured counting as the cap's (R380). -/
def State.windowMj (s : State) : Nat :=
  let w := s.cal.buckets.take s.windowLen
  w.sum + (s.windowLen - w.length) * s.cap

/-- The target T in mW (R381). -/
def State.target (s : State) : Nat :=
  min (1100 * s.cap) ((s.cap * 1000 + s.cap * s.windowLen : Nat) - (s.windowMj : Int)).toNat

/-- The caps in force, each with its source code (R379). -/
def State.capsInForce (s : State) : List (Nat × Nat) :=
  let rack := s.fget F.CALENDER_CAP_rack_w
  let leak := s.fget F.CALENDER_LEAK_state
  [if rack = 0 then (s.fget F.CALENDER_CFG_prof_cap_w, 0) else (rack, 1)] ++
    (if leak = 2 then [(s.fget F.CALENDER_CFG_leak_cap_w, 2)] else []) ++ (if leak = 1 then [(600, 3)] else [])

/-- The lowest of the caps in force, the first of equals. -/
def State.lowestCap (s : State) : Nat × Nat :=
  s.capsInForce.foldl (fun m c => if c.1 < m.1 then c else m) (s.capsInForce.headD (0, 0))

/-- The effective cap follows what is in force (R379); a fall clamps the buckets of the window (R380). -/
def State.updateCap (s : State) : State :=
  let c := s.lowestCap
  let s1 := s.fset F.CALENDER_CAP_source c.2
  if c.1 = s.cap then s1
  else
    let n := s.windowLen
    let s2 := (s1.fset F.CALENDER_CAP_cap_w c.1).when (decide (c.1 < s.cap)) fun s =>
      { s with cal := { s.cal with
          fell := true, buckets := (s.cal.buckets.take n).map (min c.1) ++ s.cal.buckets.drop n } }
    ((s2.bump C.CALENDER_CAPCHG_CNT).raise E.CALENDER_cap_change).powerEvent 4

/-- A millisecond has passed (R450, R492): of the grace period that runs, and of bring-up. -/
def State.tickMs (s : State) : State :=
  let phase := s.fget F.RSTCTL_BRINGUP_phase
  let s1 := s.when s.mgt.grace fun s => s.fset F.MGT_OFF_remaining_ms (s.fget F.MGT_OFF_remaining_ms - 1)
  s1.when (s1.bring.powered && phase != 4 && phase != 7) fun s =>
    s.fset F.RSTCTL_BRINGUP_ms (min 0xFFFF (s.fget F.RSTCTL_BRINGUP_ms + 1))

/-- ENERGY_BUCKET_CLOSE (R378, R380, R401): `mj` is the bucket's energy. -/
def execEnergyBucketClose (mj : Nat) (s0 : State) : Host.Outcome State Fault Refusal :=
  guardUnit true <|
    let s := s0.tickMs
    let s1 := { s with ms := s.ms + 1, cal := { s.cal with buckets := (mj :: s.cal.buckets).take 10000 } }
    let avg := if s1.windowLen = 0 then 0 else s1.windowMj / s1.windowLen
    (s1.fset F.CALENDER_PWR_avg_w (min 0xFFFF avg)).fset F.CALENDER_PEAK_peak_w
      (min 0xFFFF (max mj (s.fget F.CALENDER_PEAK_peak_w)))

/-! Learning (R384). -/

/-- The TILE divisor of a code (R375). -/
def divOf (code : Nat) : Nat := [2, 3, 4, 6, 8].getD code 8

/-- The factory worst case of a phase at a divisor code, in 1/65536 mW. -/
def worst (phase code : Nat) : Int := Config.worstPower phase code * 65536

/-- w[p][d] in 1/65536 mW. -/
def State.phaseW (s : State) (phase code : Nat) : Int :=
  if phase = 0 then worst 0 code else (s.cal.w.get (fun _ => none) (8 * phase + code)).getD (worst phase code)

/-- s[p] in 1/65536. -/
def State.phaseStall (s : State) (phase : Nat) : Int := s.cal.stall.get (fun _ => 0) phase

/-- One phase's values updated from one die's beat: `e` the error of the die's predicted power, `sq` the sum of squares. -/
def State.learnPhase (s : State) (code : Nat) (e : Int) (sq : Nat) (p : PhaseStall) : State :=
  if p.phase = 0 ∨ p.tiles = 0 then s
  else
    let w := s.phaseW p.phase code + e * p.tiles / ((16 * sq : Nat) : Int)
    let st := s.phaseStall p.phase
    { s with cal := { s.cal with
        w := s.cal.w.set (fun _ => none) (8 * p.phase + code) (some (max 0 (min w (4 * worst p.phase code))))
        stall := s.cal.stall.set (fun _ => 0) p.phase (st + (min 256 p.stall * 256 - st) / 16) } }

/-- One die's beat. -/
def State.learnDie (s : State) (rows : List PhaseStall) (die : Nat) : State :=
  let own := rows.filter fun p => p.die == die
  match own with
  | [] => s
  | h :: _ =>
    let code := s.fget (divF die)
    let pred := own.foldl (fun a p => a + p.tiles * s.phaseW p.phase code) ((Config.idlePower die code * 65536 : Nat) : Int)
    let sq := own.foldl (fun a p => a + p.tiles * p.tiles) 0
    s.each own fun s p => s.learnPhase code ((h.dieMw * 65536 : Nat) - pred) sq p

/-- The term of a stack or an I/O die in 1/65536 mW per unit of load. -/
def State.loadW (s : State) (unit : Nat) : Int :=
  (s.cal.perLoad.get (fun _ => none) unit).getD ((Config.loadPower unit * 65536 : Nat) : Int)

/-- A stack's or an I/O die's beat: its term learns as a phase's does (R384), with its load in the place of the tiles; it stays at or above 0
(log 111). -/
def State.learnLoad (s : State) (p : LoadPower) : State :=
  if p.load = 0 ∨ 14 ≤ p.unit then s
  else
    let w := s.loadW p.unit
    let e : Int := (p.mw * 65536 : Nat) - p.load * w
    { s with cal := { s.cal with
        perLoad := s.cal.perLoad.set (fun _ => none) p.unit (some (max 0 (w + e / ((16 * p.load : Nat) : Int)))) } }

/-! The decision (R385-R388). -/

/-- The divisor codes and memory shares of the candidates, in the order that breaks ties. -/
def pointCodes : List (Nat × Nat) := (List.range 5).flatMap fun c => [16, 12, 8, 4].map fun m => (c, m)

/-- The prediction for a point. -/
def predOf (pred : List PointPower) (code m : Nat) : Option PointPower :=
  pred.find? fun p => p.d == divOf code && p.m == m

/-- Progress of a candidate as a fraction (R385), numerator and denominator. -/
def State.progress (s : State) (rows : List PhaseStall) (code m : Nat) : Nat × Nat :=
  (rows.filter fun p => p.next != 0).foldl (fun a p =>
    let st := (s.phaseStall p.phase).toNat
    let den := (65536 - st) * divOf code * m + 32 * st
    (a.1 * den + p.next * 2 * m * 65536 * a.2, a.2 * den)) (0, 1)

/-- The candidate selected under T in mW, if one fits. -/
def State.bestOf (s : State) (pred : List PointPower) (rows : List PhaseStall) (t : Nat) : Option (Nat × Nat) :=
  let fit := pointCodes.filter fun c => match predOf pred c.1 c.2 with
    | some p => decide (p.work * 1000 ≤ t)
    | none => false
  (fit.foldl (fun m c =>
    let x := s.progress rows c.1 c.2
    match m with
    | none => some (c, x)
    | some (c0, y) => if y.1 * x.2 < x.1 * y.2 then some (c, x) else some (c0, y)) none).map Prod.fst

/-- w working beats of 8 at the lowest operating point are predicted at or below T (R386). -/
def fitsWork (low : PointPower) (t w : Nat) : Bool := decide ((w * low.work + (8 - w) * low.idle) * 1000 ≤ 8 * t)

/-- The largest w from 7 down to 1 that fits. -/
def largestWork (low : PointPower) (t : Nat) : Option Nat := ([7, 6, 5, 4, 3, 2, 1].find? fun w => fitsWork low t w)

def modeFull : Nat := 0
def modeTracking : Nat := 1
def modeIdling : Nat := 2
def modeUnattainable : Nat := 3
def modeHeld : Nat := 4

/-- A point decided for the next boundary: a slower divisor is commanded at once (R367, R382). -/
def State.commandPoint (s : State) (p : Point) (restart : Bool) : State :=
  let s1 := { s with cal := { s.cal with decided := some p, restart := s.cal.restart || restart } }
  s1.fset F.CLKCTL_TILE_pending (max (s.fget F.CLKCTL_TILE_pending) p.div)

/-- CAP_UNATTAINABLE (R387). -/
def State.enterUnattainable (s : State) : State :=
  if s.flag F.CALENDER_STATE_unattainable then s
  else
    let s1 := (s.fset F.CALENDER_STATE_unattainable 1).raise E.CALENDER_unattainable
    (s1.logFault Page.CALENDER (s1.faultRec Page.CALENDER 0x13 0x1F 0 0 0)).powerEvent 0

/-- The lowest operating point with the largest w that fits (R386, R387). -/
def State.chooseFloor (s : State) (low : PointPower) (t : Nat) : State :=
  match largestWork low t with
  | some w => s.commandPoint ⟨4, 4, w⟩ true
  | none => (s.enterUnattainable).commandPoint ⟨4, 4, 1⟩ true

/-- The choice of the next point (R385-R388, R400). -/
def State.choosePoint (s : State) (pred : List PointPower) (rows : List PhaseStall) (low : PointPower) : State :=
  let t := s.target
  let held := s.fget F.CALENDER_STATE_mode == modeHeld
  let mode := if held then s.cal.prev else s.fget F.CALENDER_STATE_mode
  let w := s.fget F.CALENDER_STATE_work
  let s1 := s.when (fitsWork low t 1) (·.fset F.CALENDER_STATE_unattainable 0)
  if (mode = modeIdling ∨ mode = modeUnattainable) ∧ s.cal.pos ≠ 7 ∧ !held then
    if s.cal.fell && !fitsWork low t w then s1.chooseFloor low t else s1
  else
    match s1.bestOf pred rows t with
    | some c => if mode = modeUnattainable ∧ (largestWork low t).isSome then s1.chooseFloor low t
      else s1.commandPoint ⟨c.1, c.2, 8⟩ false
    | none => s1.chooseFloor low t

/-- The deckles' meters (R389). -/
def State.meterDeckles (s : State) (meters : List Nat) : State :=
  s.each meters.zipIdx fun s m =>
    let s1 := { s with cal := { s.cal with deckleMeter := s.cal.deckleMeter.set (fun _ => 0) m.2 m.1 } }
    s1.fset ⟨Page.CALENDER, 0x100 + 4 * (m.2 % 16), 16, 12⟩ (min 0xFFF m.1)

/-- S_d of a deckle and the sum of all shares (R311, R389). -/
def State.powerShare (s : State) (d : Nat) : Nat := s.fget F.DECKLE_CFG_power_w 0 (ofDeckle d)
def State.shareSum (s : State) : Nat := (s.allDeckles.map s.powerShare).sum

/-- A deckle's metered average exceeds its allowance A_d (R389). -/
def State.overAllowance (s : State) (d : Nat) : Bool :=
  let used := s.cal.deckleMeter.get (fun _ => 0) d
  let limit := s.fget ⟨Page.CALENDER, 0x100 + 4 * d, 0, 12⟩
  (limit != 0 && decide (limit < used)) ||
    decide (s.powerShare d < used) || decide (s.powerShare d * s.cap < used * s.shareSum)

/-- What a decision takes up (R380, R389, R401): the mean input power, window_s, the deckles' meters and who is over. -/
def State.takeMeasures (s : State) (beatW : Nat) (meters : List Nat) : State :=
  let s1 := (s.fset F.CALENDER_PWR_beat_w (min 0xFFFF beatW)).meterDeckles (meters.take 16)
  { s1 with cal := { s1.cal with
      window := s1.fget F.CALENDER_CFG_window_s, excess := s1.allDeckles.filter s1.overAllowance } }

/-- CALENDER_DECISION (R384-R389), once in a beat: the mean input power of the beat, the predictions, what each die measured
of each phase, what each stack and I/O die measured, and the deckles' metered averages. None is made while no control unit runs. -/
def execCalenderDecision (beatW : Nat) (pred : List PointPower) (stalls : List PhaseStall) (loads : List LoadPower)
    (meters : List Nat) (s : State) : Host.Outcome State Fault Refusal :=
  guardUnit true <|
    match predOf pred 4 4 with
    | none => s
    | some low =>
      if s.cal.made ∨ !s.controlRuns then s
      else
        let s1 := s.takeMeasures beatW meters
        let s2 := ((s1.each (List.range 4) fun s die => s.learnDie stalls die).each loads State.learnLoad).choosePoint pred stalls low
        { s2 with cal := { s2.cal with made := true, fell := false } }

/-! Throttling (R396), at step 1 of a boundary. -/

/-- w as throttling holds it, 8 where it does not. -/
def State.workLimit (s : State) : Nat :=
  s.cal.steps.foldl (fun m t => match t.2 with | .work w => min m w | _ => m) 8

/-- Working beats of each 8 in force. -/
def State.workInForce (s : State) : Nat := min s.workLimit (s.fget F.CALENDER_STATE_work)

/-- A stack's memory share in force, in sixteenths (R383). -/
def State.shareOf (s : State) (stack : Nat) : Nat :=
  s.cal.steps.foldl (fun m t => match t.2 with | .share i k => if i = stack then min m k else m | _ => m)
    (s.fget F.CALENDER_STATE_mem_share)

/-- The part, in percent of its flit times, that an I/O die's ports have. -/
def State.portPart (s : State) (iod : Nat) : Nat :=
  s.cal.steps.foldl (fun m t => match t.2 with | .ports i k => if i = iod then min m k else m | _ => m) 100

/-- A step taken for a resource, and counted. -/
def State.takeStep (s : State) (res : Nat) (t : Throttle) : State :=
  let s1 := { s with cal := { s.cal with steps := (res, t) :: s.cal.steps } }.bump C.CALENDER_THROTTLE_CNT
  let s2 := match t with
    | .die die code => s1.protect die code
    | _ => s1
  let die := match t with
    | .die d _ => d
    | .work _ => if 8 ≤ res then (res - 8) / 3 else res
    | _ => res
  s2.when (decide (die < 6)) fun s => (s.bump C.SENS_THROTTLE_CNT die).raise E.SENS_throttle die

/-- The divisor code a die would run at without its droop response. -/
def State.dieCode (s : State) (die : Nat) : Nat := max (s.fget F.CLKCTL_TILE_pending) (s.dieFloor die)

/-- A die's row of the table: the divisor, then after 64 bt at divide by 8 the module's w. `h.floor` counts from `base`. -/
def State.throttleDie (s : State) (die base : Nat) (h : Hot) : State × Hot :=
  if s.dieCode die < 4 then
    if h.up = 0 then (s.takeStep h.res (.die die (s.dieCode die + 1)), { h with up := 15 }) else (s, { h with up := h.up - 1 })
  else if h.floor + 1 < base + 64 then (s, { h with up := h.up - 1, floor := h.floor + 1 })
  else
    let w := s.workInForce
    (s.when (decide (1 < w)) (·.takeStep h.res (.work (w - 1))), { h with up := h.up - 1, floor := base })

/-- A resource at or above its throttle limit. -/
def State.throttleUp (s : State) (h : Hot) : State × Hot :=
  if h.res < 4 then s.throttleDie h.res 0 h
  else if h.res < 6 then
    if h.up ≠ 0 then (s, { h with up := h.up - 1 })
    else
      let p := s.portPart (h.res - 4)
      (s.when (decide (25 < p)) (·.takeStep h.res (.ports (h.res - 4) (p - 25))), { h with up := 15 })
  else if h.res < 8 then
    if h.up ≠ 0 then (s, { h with up := h.up - 1 }) else (s.raise E.CALENDER_thermal, { h with up := 15 })
  else
    let i := h.res - 8
    let m := s.shareOf i
    if 4 < m then
      if h.up = 0 then (s.takeStep h.res (.share i (m - 4)), { h with up := 15 }) else (s, { h with up := h.up - 1 })
    else if h.floor < 64 then (s, { h with up := h.up - 1, floor := h.floor + 1 })
    else s.throttleDie (i / 3) 64 h

/-- The last step taken for a resource is undone. -/
def undoStep (res : Nat) : List (Nat × Throttle) → List (Nat × Throttle)
  | [] => []
  | t :: r => if t.1 = res then r else t :: undoStep res r

/-- Step 1 of a boundary for one resource. -/
def State.throttle (s : State) (res : Nat) : State :=
  let h := (s.cal.hot.find? fun h => h.res == res).getD ⟨res, 0, 0, 0⟩
  let keep (s : State) (h : Hot) : State :=
    let rest := s.cal.hot.filter fun h => h.res != res
    { s with cal := { s.cal with hot := if h = ⟨res, 0, 0, 0⟩ then rest else rest ++ [h] } }
  if s.isHot res then
    let r := s.throttleUp { h with cool := 0 }
    keep r.1 r.2
  else
    let h1 := { h with up := h.up - 1 }
    if !(s.cal.steps.any fun t => t.1 == res) then keep s { h1 with cool := 0, floor := 0 }
    else if !s.isCool res then keep s { h1 with cool := 0 }
    else if h.cool + 1 < 1024 then keep s { h1 with cool := h.cool + 1 }
    else
      let s1 := { s with cal := { s.cal with steps := undoStep res s.cal.steps } }
      keep s1 { h1 with cool := 0, floor := 0 }

/-- Step 1 of a boundary (R22, R396). -/
def State.throttleAll (s : State) : State :=
  let s1 := s.each s.senseInsts fun s r => s.throttle r
  let on := !s1.cal.steps.isEmpty
  let s2 := s1.when (on && !s1.flag F.CALENDER_STATE_thermal) (·.raise E.CALENDER_thermal)
  s2.fset F.CALENDER_STATE_thermal (if on then 1 else 0)

/-! Step 5 of a boundary (R382, R386, R388, R389). -/

/-- The point decided comes into force; after 4 missed decisions the lowest one is held. -/
def State.applyPoint (s : State) : State :=
  let missed := if s.cal.made then 0 else min 4 (s.cal.missed + 1)
  let mode := s.fget F.CALENDER_STATE_mode
  let held := decide (4 ≤ missed)
  let point := if held then some ⟨4, 4, 8⟩ else s.cal.decided
  let prev := if held && mode != modeHeld then mode else s.cal.prev
  let s0 := { s with cal := { s.cal with missed, prev, made := false, decided := none } }
  let s1 := s0.when held fun s => s.fset F.CLKCTL_TILE_pending 4
  let s2 := s1.applyDivs
  match point with
  | none => s2
  | some p =>
    let mode' :=
      if held then modeHeld
      else if p.work < 8 then (if s.flag F.CALENDER_STATE_unattainable then modeUnattainable else modeIdling)
      else if p.div = 0 ∧ p.share = 16 then modeFull else modeTracking
    let s3 := ((s2.fset F.CALENDER_STATE_mode mode').fset F.CALENDER_STATE_work p.work).fset F.CALENDER_STATE_mem_share p.share
    { s3 with cal := { s3.cal with volt := p.div } }

/-- The divisor that the voltage raised in the last beat allows is commanded, for the next boundary (R382). -/
def State.commandFaster (s : State) : State :=
  let s1 := s.fset F.CLKCTL_TILE_pending (min s.cal.volt (s.fget F.CLKCTL_TILE_pending))
  s1.fset F.CALENDER_STATE_div (s1.fget F.CLKCTL_TILE_pending)

/-- Whether the beat that starts is idle, by the pattern of 8 (R386). -/
def State.applyPattern (s : State) : State :=
  let w := s.workInForce
  let pos := if 8 ≤ w then 7 else if s.cal.restart then 0 else (s.cal.pos + 1) % 8
  let idle := decide (w < 8 ∧ w ≤ pos)
  let s1 := { s with cal := { s.cal with pos, restart := false }, beat := { s.beat with idle } }
  s1.when idle fun s =>
    { (s.bump C.BEAT_IDLE_CNT) with cal := { s.cal with slackIdle := s.cal.slackIdle + 1 } }

/-- The deckles that idle in the beat that starts (R389). -/
def State.applyAllowances (s : State) : State :=
  let excess := s.allDeckles.filter s.cal.excess.contains
  let s1 := { s with beat := { s.beat with deckleIdle := excess } }
  s1.each excess fun s d => (s.bump C.CALENDER_DIDLE_CNT).raiseTo E.CALENDER_deckle_idle [d]

/-- Step 5 for the calender: the point, the pattern, the deckles; a beat of an unattainable cap is counted (R387). -/
def State.applyCalender (s : State) : State :=
  let s1 := s.applyPoint.commandFaster.applyPattern.applyAllowances
  s1.when (s1.flag F.CALENDER_STATE_unattainable) (·.bump C.CALENDER_UNATT_CNT)

/-! Sampling the sensors (R393-R397). -/

/-- SENS_ page of an instance, none for a stack. -/
def sensPage (inst : Nat) : Option Nat := if inst < 7 then some (Page.SENS + inst) else none

/-- A sensor leaves service (R394, R406): its entry in the broke map, once. -/
def State.noteSensor (s : State) (inst point cause : Nat) : State :=
  let loc := inst + 32 * point
  let known := (s.broke.any fun b => b.kind == 8 && b.loc == loc) ||
    s.brokeDue.any fun c => match c with | .add e => e.kind == 8 && e.loc == loc | .remove .. => false
  s.when (!known) (·.brokeAdd 8 loc cause true)

/-- A millisecond's power of a die or stack (R394). -/
def State.samplePower (s : State) (inst mw : Nat) : State :=
  let x := s.cal.traces.get (fun _ => PowerTrace.reset) inst
  let y : PowerTrace :=
    if x.n = 999 then ⟨((x.sum + mw) / 1000 :: x.avgs).take 60, 0, 0⟩ else ⟨x.avgs, x.sum + mw, x.n + 1⟩
  { s with cal := { s.cal with traces := s.cal.traces.set (fun _ => PowerTrace.reset) inst y } }

/-- The power of a die or stack has changed by more than 20 % in the last 60 s (R394). -/
def State.powerMoved (s : State) (inst : Nat) : Bool :=
  let l := (s.cal.traces.get (fun _ => PowerTrace.reset) inst).avgs
  let hi := l.foldl max 0
  l.length == 60 && decide (hi < 5 * (hi - l.foldl min hi))

/-- One sensor's sample; none where it did not answer. A sensor is stuck whose reading, in steps of 0.25 degrees, has not moved for 60 s
while the power has (R394). -/
def State.sampleOne (s : State) (inst point : Nat) (r : Option TempReading) : State :=
  let x := s.sensor inst point
  let v := r.bind (·.value)
  let out := match v with | some t => decide (t < -160 ∨ 600 < t) | none => false
  let missed := if v.isSome then 0 else min 3 (x.missed + 1)
  let same := if x.value.isSome && (v.isNone || v == x.value) then min 60000 (x.same + 1) else 0
  let nowStuck := same == 60000 && s.powerMoved inst
  let y : Sensor := {
    value := v.orElse fun _ => x.value, missed, stuck := x.stuck || nowStuck, bad := out || missed == 3, same }
  let s1 := s.setSensor inst point y
  let s2 := s1.when (nowStuck && !x.stuck) fun s =>
    match sensPage inst with
    | some _ => (s.bump C.SENS_STUCK_CNT inst).raise E.SENS_stuck inst
    | none => s.bump C.CALENDER_SPAIR_CNT
  s2.when (y.bad || y.stuck) fun s => s.noteSensor inst point (if missed = 3 then 0x12 else 0x0B)

/-- The disagreement of a stack's pair (R395). -/
def State.samplePair (s : State) (stack : Nat) : State :=
  let inst := 8 + stack
  let a := s.sensor inst 0
  let b := s.sensor inst 1
  let bit (k : Nat) : Fld := ⟨Page.CALENDER, 0xA0, 3 * stack + k, 1⟩
  let s1 := (s.fset (bit 1) (if a.usable.isNone then 1 else 0)).fset (bit 2) (if b.usable.isNone then 1 else 0)
  let s2 := s1.fset F.HBMC_TEMP_stack_t ((a.value.map tempCode).getD 0) stack
  let s3 := s2.fset F.HBMC_TEMP_base_t ((b.value.map tempCode).getD 0) stack
  match a.usable, b.usable with
  | some x, some y =>
    let far := decide (24 < (x - y).natAbs)
    let n := if far then min 3 (s.cal.disagree.get (fun _ => 0) stack + 1) else 0
    let k := if far then 0 else min 3 (s.cal.agree.get (fun _ => 0) stack + 1)
    let s4 := { s3 with cal := { s3.cal with
        disagree := s3.cal.disagree.set (fun _ => 0) stack n, agree := s3.cal.agree.set (fun _ => 0) stack k } }
    if n = 3 ∧ !s4.flag (bit 0) then
      ((s4.fset (bit 0) 1).bump C.CALENDER_SPAIR_CNT).raiseTo E.CALENDER_sensor_disagree (s.ownersOfStack stack)
    else s4.when (k == 3) (·.fset (bit 0) 0)
  | _, _ => s3

/-- Spots of an instance at or above the trip limit by a usable sensor (R397). -/
def State.tripping (s : State) (inst : Nat) : List Nat :=
  ((s.spots inst).filter fun x =>
    decide (4 * tripLimit inst ≤ x.2) &&
      ((s.sensor inst (2 * x.1)).usable.isSome || (s.sensor inst (2 * x.1 + 1)).usable.isSome)).map Prod.fst

/-- The hottest spot shown (R404). -/
def State.showHot (s : State) (inst : Nat) : State :=
  match sensPage inst, s.hottest inst with
  | some _, some (k, t) => (s.fset F.SENS_HOT_spot (tempCode t) inst).fset F.SENS_HOT_pair k inst
  | _, _ => s

/-- Consecutive samples at the trip limit of the spots of one instance; and whether one has reached two. -/
def State.countTrips (s : State) (inst : Nat) : State × Bool :=
  let at_ := s.tripping inst
  let old := s.cal.trips.clear fun k => k / 64 == inst
  let trips := at_.foldl (fun m k =>
    m.set (fun _ => 0) (inst * 64 + k) (min 2 (s.cal.trips.get (fun _ => 0) (inst * 64 + k) + 1))) old
  ({ s with cal := { s.cal with trips } }, at_.any fun k => trips.get (fun _ => 0) (inst * 64 + k) == 2)

/-- THERMTRIP_N is asserted (R397). -/
def State.trip (s : State) (insts : List Nat) : State :=
  if s.rst.tripped then s
  else
    let s1 := s.each insts fun s i => match sensPage i with
      | some _ => s.raise E.SENS_trip i
      | none => s
    let s2 := { s1 with rst := { s1.rst with tripped := true }, bring := { s1.bring with thermtrip := true } }
    (s2.fenceAll.selfRefresh.alarm 3).powerEvent 3

/-- Samples in a row with every spot below its throttle limit (R397). -/
def State.noteCalm (s : State) : State :=
  { s with cal := { s.cal with calm := if s.senseInsts.any s.isHot then 0 else min 10000 (s.cal.calm + 1) } }

/-- TEMP_SAMPLE (R393-R395, R397): every sensor of the module is sampled, once a millisecond; one that `readings` does not name did not
answer. `power` is what dies and stacks drew in that millisecond, in mW. -/
def execTempSample (readings : List TempReading) (power : List (Nat × Nat)) (s : State) : Host.Outcome State Fault Refusal :=
  guardUnit true <|
    let s0 := s.each (power.filter fun p => decide (p.1 < 20)) fun s p => s.samplePower p.1 p.2
    let s1 := s0.each s0.senseInsts fun s i =>
      s.each (List.range (s.points i)) fun s p =>
        s.sampleOne i p (readings.find? fun r => r.inst == i && r.point == p)
    let s2 := s1.each ((List.range 12).filter s1.stackFitted) fun s i => s.samplePair i
    let s3 := s2.each s2.senseInsts fun s i => s.showHot i
    let s4 := (s3.each s3.senseInsts fun s i => (s.countTrips i).1).noteCalm
    let hot := s3.senseInsts.filter fun i => (s3.countTrips i).2
    if hot.isEmpty then s4 else s4.trip hot

/-- THERMTRIP_RELEASE (R397): every spot has stayed below its throttle limit for 10 s. The pin follows package recovery. -/
def execThermtripRelease (s : State) : Host.Outcome State Fault Refusal :=
  guardUnit true <|
    if !s.rst.tripped ∨ s.cal.calm < 10000 then s
    else
      let s1 := { s with rst := { s.rst with tripped := false } }
      let s2 := s1.when (!s1.upDone) fun s => { s with bring := { s.bring with thermtrip := false } }
      s2.recoverAll fun s => s.startPkg 3 0 byModule

/-! The leak loop (R399). -/

/-- The state a resistance in ohms reads as. -/
def leakRange (ohms : Nat) : Nat := if ohms < 8000 then 1 else if ohms ≤ 12000 then 0 else 2

/-- LEAK_SAMPLE (R399, R496). -/
def execLeakSample (ohms : Nat) (s : State) : Host.Outcome State Fault Refusal :=
  guardUnit true <|
    let r := leakRange ohms
    let n := if s.cal.leak.1 = r then min 3 (s.cal.leak.2 + 1) else 1
    let s1 := { s with cal := { s.cal with leak := (r, n) } }.fset F.CALENDER_LEAK_ohms_100 (if 25000 < ohms then 0xFFFF else min 0xFFFF (ohms / 100))
    if n < 3 ∨ s.fget F.CALENDER_LEAK_state = r then s1
    else
      let s2 := s1.fset F.CALENDER_LEAK_state r
      let s3 :=
        if r = 1 then ((s2.raise E.CALENDER_leak_wet).alarm 2).powerEvent 1
        else if r = 2 then ((s2.bump C.CALENDER_LEAK_FAULT_CNT).raise E.CALENDER_leak_fault).powerEvent 2
        else s2
      s3.updateCap

end Sys2Proof.Machine
end

