-- ==== Sys2Proof/Machine/Nvm.lean ====
section
/-! DEFINITION. The stored image (R456-R476): the NOR device, keys, images, configurations, NVM_OP, measurements and the
attestation report. -/

namespace Sys2Proof.Machine

/-! The NOR device (R456). -/

def norBlank : Byte := 0xFF

def State.norRange (s : State) (a n : Nat) : List Byte := s.nvm.nor.getRange (fun _ => norBlank) a n

def State.norPut (s : State) (a : Nat) (d : List Byte) : State :=
  { s with nvm := { s.nvm with nor := s.nvm.nor.setRange (fun _ => norBlank) a d } }

/-- Bytes of the device erased. -/
def State.norErase (s : State) (a n : Nat) : State :=
  { s with nvm := { s.nvm with nor := s.nvm.nor.clear fun k => decide (a ≤ k ∧ k < a + n) } }

/-- Firmware region 0 A or 1 B, and a configuration slot. -/
def fwBase (r : Nat) : Nat := 0x02000000 + r % 2 * 0x04000000
def fwSize : Nat := 0x04000000
def cfgBase (slot : Nat) : Nat := 0x0A000000 + slot % 2 * 0x80000
def cfgSize : Nat := 0x80000

/-- The firmware region the boot pointer does not name, and the inactive configuration slot. -/
def State.spareRegion (s : State) : Nat := 1 - s.nvm.pointer
def State.spareSlot (s : State) : Nat := 1 - s.fget F.NVM_STATE_cfg_slot

/-- A byte as READ finds it: the factory region and the sealed areas hold what no rule fixes, the reserved one 0xFF. -/
def State.norRead (s : State) (a : Nat) : Byte :=
  if a < 0x02000000 then Config.factoryByte a
  else if 0x0A100000 ≤ a ∧ a < 0x0A120000 ∨ 0x0A200000 ≤ a ∧ a < 0x0A320000 then Config.sealedByte a s.freeCtr
  else s.nvm.nor.get (fun _ => norBlank) a

/-- `n` fresh bytes of the random source. -/
def State.fresh (s : State) (n : Nat) : List Byte × State :=
  ((List.range n).map fun i => Config.freshByte (s.freeCtr + i), { s with freeCtr := s.freeCtr + n })

/-! The window (R476). -/

def State.window (s : State) : List Byte :=
  (List.range 512).flatMap fun i => leBytes 4 (s.reg 0 Page.NVM (0x800 + 4 * i))

/-- Bytes put into the window from its start. -/
def State.fillWindow (s : State) (d : List Byte) : State :=
  let w := d ++ s.window.drop d.length
  s.each (List.range 512) fun s i => s.setReg 0 Page.NVM (0x800 + 4 * i) (leNat ((w.drop (4 * i)).take 4))

/-! Signed images (R464, R465). -/

def sigLen : Nat := 29792

/-- The key an image names. -/
def State.imageKey (s : State) (root : Nat) : Option (List Byte) :=
  if root = 0xFF then (if s.nvm.keys.enrolled then some s.nvm.keys.owner else none) else Config.rootKey root

/-- The header holds no reserved encoding and is of the kind, stepping and serial wanted. -/
def imageHeaderOk (h : List Byte) (kind : Nat) : Bool :=
  fieldAt h 0 0 8 == 1 && fieldAt h 0 8 8 == kind &&
    (if kind = 4 then fieldAt h 0 16 8 == 0xFF else decide (fieldAt h 0 16 8 < 2)) &&
    (fieldAt h 0 24 8 == 0xB0 || fieldAt h 0 24 8 == 0) &&
    (fieldAt h 8 0 64 == 0 || fieldAt h 8 0 64 == Config.serial.toNat) &&
    (kind == 2 || kind == 3 || fieldAt h 0x10 0 32 == 0) && (kind == 4 || fieldAt h 0x1C 0 32 == 0) &&
    (h.drop 0x40).all (· == 0)

/-- The status of verifying an image of a kind in a region (R465): OK, AUTH_FAIL for its signature, INVALID otherwise. -/
def State.verifyImage (s : State) (base size kind : Nat) : Nat :=
  let h := s.norRange base 128
  let n := fieldAt h 4 0 32
  if !imageHeaderOk h kind ∨ size < 128 + n + sigLen then 0x0B
  else
    let body := s.norRange (base + 128) n
    let sig := s.norRange (base + 128 + n) sigLen
    if fit 32 (Config.shake256 body 32) ≠ (h.drop 0x20).take 32 then 0x0B
    else if kind = 2 ∧ fieldAt h 0x10 0 16 < s.fget F.NVM_STATE_floor then 0x0B
    else
      match s.imageKey (fieldAt h 0 16 8) with
      | some key => if Config.slhVerify key (h ++ body) sig then 0 else 0x08
      | none => 0x08

/-- A failure of R465 is counted and raised. -/
def State.verifyFailed (s : State) : State := (s.bump C.NVM_VERIFY_FAIL_CNT).raise E.NVM_verify_fail

/-- The profile records of a configuration slot, when its body is four good ones (R468). -/
def State.slotRecords (s : State) (slot : Nat) : Option (List (List Byte)) :=
  let n := fieldAt (s.norRange (cfgBase slot) 128) 4 0 32
  let rs := (List.range 4).map fun i => s.norRange (cfgBase slot + 128 + 32 * i) 32
  if n = 128 ∧ rs.all recordOk then some rs else none

def State.slotSeq (s : State) (slot : Nat) : Nat := fieldAt (s.norRange (cfgBase slot) 128) 0x1C 0 32

/-- The status of a configuration slot (R465, R468). -/
def State.slotStatus (s : State) (slot : Nat) : Nat :=
  match s.verifyImage (cfgBase slot) cfgSize 4 with
  | 0 => if (s.slotRecords slot).isSome then 0 else 0x0B
  | e => e

/-- A configuration comes into force. -/
def State.useSlot (s : State) (slot : Nat) : State :=
  let s1 := { s with nvm := { s.nvm with profiles := (s.slotRecords slot).getD [], cfgSeq := s.slotSeq slot } }
  (s1.fset F.NVM_STATE_cfg_slot slot).fset F.NVM_STATE_factory_cfg 0

/-- The factory configuration applies (R468). -/
def State.useFactory (s : State) : State :=
  (({ s with nvm := { s.nvm with profiles := [], cfgSeq := 0 } }).fset F.NVM_STATE_factory_cfg 1).raise E.NVM_factory_cfg

/-- The configuration slots that hold an image and fail R465. -/
def State.badSlots (s : State) : Nat :=
  ([0, 1].filter fun i => s.norRange (cfgBase i) 1 != [norBlank] && s.verifyImage (cfgBase i) cfgSize 4 != 0).length

/-- The user configuration at power-on (R468): the slot of highest seq that verifies, else the factory's. Images that fail are
counted (R465). -/
def State.loadConfig (s0 : State) : State :=
  let n := if s0.nvm.keys.enrolled then s0.badSlots else 0
  let s := s0.when (n != 0) fun s => (s.bumpBy C.NVM_VERIFY_FAIL_CNT n).raise E.NVM_verify_fail
  let ok := if s.nvm.keys.enrolled then [0, 1].filter fun i => s.slotStatus i == 0 else []
  match ok with
  | [] => s.useFactory
  | [i] => s.useSlot i
  | _ => s.useSlot (if s.slotSeq 0 < s.slotSeq 1 then 1 else 0)

/-! Keys (R461-R463). -/

def xorBytes (a b : List Byte) : List Byte := List.zipWith (· ^^^ ·) a b

/-- A transported key recovered (R463); customisation number 4 stands for its string. -/
def State.transported (s : State) (view target : Nat) (t : List Byte) : List Byte :=
  let x := s.session view
  let ko := (s.sessionKey view).getD []
  xorBytes t (fit 32 (Config.kmac256 ko (x.used ++ leBytes 1 target ++ leBytes 2 x.loads) 32 4))

/-- A key entry written with a fresh salt, or cleared (R461). -/
def State.putKey (s : State) (entry : Nat) (key : Option (List Byte)) : State :=
  let r := s.fresh 16
  let k := s.nvm.keys
  let e := key.map fun (b : List Byte) => (⟨r.1, b⟩ : KeyEntry)
  let s1 := r.2
  ({ s1 with nvm := { s1.nvm with keys := { k with
      seq := k.seq + 1, entries := k.entries.set (fun _ => none) entry e } } }).raise E.NVM_key_change

/-- The sessions a key authenticates end (R317, R461). -/
def State.endKeySessions (s : State) (entry : Nat) : State :=
  s.each (if entry = 0 then [0, 1, 2, 3, 20] else [entry + 3]) fun s v => s.endSession v

/-- KEY_LOAD (R463): its status, and what it does. -/
def State.keyLoad (s : State) (view target : Nat) (w : List Byte) : Nat × State :=
  if target ≠ 0x1F ∧ 16 ≤ target then (0x0B, s)
  else
    let entry := if target = 0x1F then 0 else 1 + target
    let key := s.transported view target (w.take 32)
    let s1 := s.putKey entry (if w.getD 0x20 0 = 1 then none else some key)
    let x := s1.session view
    (0, (s1.setSession view { x with loads := x.loads + 1 }).endKeySessions entry)

/-- ENROL (R462): refused with INVALID for a module that is enrolled (the model's choice). -/
def State.enrol (s : State) (view : Nat) (w : List Byte) : Nat × State :=
  if s.nvm.keys.enrolled then (0x0B, s)
  else
    let key := s.transported view 0x1F ((w.drop 0x40).take 32)
    let s1 := s.putKey 0 (some key)
    let s2 := { s1 with nvm := { s1.nvm with keys := { s1.nvm.keys with enrolled := true, owner := w.take 64 } } }
    (0, (s2.fset F.NVM_STATE_enrolled 1).endKeySessions 0)

/-- RELEASE (R463): the signature is what of it the window holds after the 13 bytes. -/
def State.release' (s : State) (w : List Byte) : Nat × State :=
  let record := w.take 13
  if !s.allDeckles.isEmpty then (0x07, s)
  else if fieldAt record 0 0 8 ≠ 1 then (0x0B, s)
  else if !s.nvm.keys.enrolled ∨ leNat ((record.drop 1).take 8) ≠ Config.serial.toNat ∨
      leNat (record.drop 9) ≠ s.nvm.keys.seq ∨ !Config.slhVerify s.nvm.keys.owner record (w.drop 13) then (0x08, s)
  else
    let s1 := s.norErase 0x0A000000 0x120000
    let s2 := ((({ s1 with nvm := { s1.nvm with keys := KeyTable.reset } }).fset F.NVM_STATE_enrolled 0).raise E.NVM_key_change).useFactory.profileTakes
    (0, s2.endKeySessions 0)

/-! Measurements and attestation (R473, R474). -/

/-- SHAKE256 with a 256-bit output. -/
def digest (d : List Byte) : List Byte := fit 32 (Config.shake256 d 32)

def zeros32 : List Byte := List.replicate 32 0

/-- The 17 check values of the key table; an absent entry's is 0 (the model's choice). -/
def State.checkValues (s : State) : List Byte :=
  (List.range 17).flatMap fun i =>
    match s.nvm.keys.entries.get (fun _ => none) i with
    | some e => digest (e.salt ++ e.key)
    | none => zeros32

/-- Measurement i. -/
def State.measurement (s : State) (i : Nat) : List Byte :=
  match i with
  | 0 => digest Config.factoryHeader
  | 1 => digest s.nvm.headA
  | 2 => digest s.nvm.headB
  | 3 =>
    if s.flag F.NVM_STATE_factory_cfg then zeros32
    else digest (s.norRange (cfgBase (s.fget F.NVM_STATE_cfg_slot)) 256)
  | 4 => if s.nvm.keys.enrolled then digest s.nvm.keys.owner else zeros32
  | 5 => digest s.checkValues
  | 6 => digest (leBytes 1 (s.fget F.NVM_PROFILE_sel) ++ s.profile)
  | _ => match s.plan with
    | some p => digest p.jobHash
    | none => zeros32

/-- The report's header (R474); the order and widths of its fields are the model's choice. -/
def State.reportHeader (s : State) : List Byte :=
  fit 64 (leBytes 4 1 ++ leBytes 4 60064 ++ leBytes 8 Config.serial.toNat ++ leBytes 8 s.beatCount ++ leBytes 4 s.boots ++
    leBytes 1 (s.fget F.MGT_CU_active) ++ leBytes 1 (s.fget F.NVM_PROFILE_sel) ++ leBytes 2 (s.reg 0 Page.NVM 0x80) ++
    leBytes 2 (fieldAt (s.unitHead s.active) 0x10 0 16) ++ leBytes 2 (s.fget F.NVM_STATE_floor))

def State.attestReport (s : State) : List Byte :=
  let nonce := (List.range 4).flatMap fun i => leBytes 8 (s.reg 0 Page.NVM (0x140 + 8 * i))
  let body := s.reportHeader ++ nonce ++ (List.range 8).flatMap s.measurement
  body ++ fit sigLen (Config.slhSign Config.watermark body) ++ fit 29920 Config.certificate

/-! NVM_OP (R476). -/

def nvmOffset : Nat := Page.NVM * 4096

/-- An NVM_ write that does not take effect. -/
def State.nvmRefuse (s : State) (view off bytes status : Nat) : State := s.regFault view off bytes true status

/-- The status that refuses an operation of the activity, or a write of its operands, from a view. -/
def State.activityStatus (s : State) (view : Nat) : Option Nat :=
  match s.nvm.activity with
  | none => some 0x0B
  | some v => if v = view then none else some 0x07

def State.nvmResult (s : State) (status : Nat) : State := s.fset F.NVM_STATE_result status

/-- An operation starts; it ends at NVM_OP_DONE. -/
def State.startOp (s : State) (code : Nat) (result : Nat := 0) : State :=
  let len := s.fget F.NVM_LEN_len
  let op : NvmOp := { code, addr := s.fget F.NVM_ADDR_addr, len, data := if code = 2 then s.window.take len else [], result }
  ({ s with nvm := { s.nvm with op := some op } }).fset F.NVM_STATE_busy 1

/-- ERASE and PROGRAM may touch the range. -/
def State.mayWrite (s : State) (a n : Nat) : Bool :=
  let r := fwBase s.spareRegion
  let c := cfgBase s.spareSlot
  decide (r ≤ a ∧ a + n ≤ r + fwSize) || decide (c ≤ a ∧ a + n ≤ c + cfgSize)

/-- SWITCH (R471, R472). -/
def State.nvmSwitch (s : State) : State :=
  let new := s.norRange (fwBase s.spareRegion) 128
  if s.nvm.phase ≠ .none ∨ s.unit s.standby ≠ cuStandby then s.nvmResult 0x09
  else if !s.nvm.verified ∨ fieldAt (s.unitHead s.active) 0x14 0 16 < fieldAt new 0x14 16 16 then s.nvmResult 0x0B
  else
    let s1 := (s.setUnitRegion s.standby s.spareRegion).setUnit s.standby cuUpdating
    ({ s1 with nvm := { s1.nvm with phase := .first } }).nvmResult 0

/-- NEXT_BOOT (R472): needs a region verified in this activity. -/
def State.nextBoot (s : State) : State :=
  if !s.nvm.verified ∨ s.nvm.phase ≠ .none then s.nvmResult 0x0B
  else (({ s with nvm := { s.nvm with pointer := s.spareRegion } }).nvmResult 0).endActivity

/-- BEGIN (R471): refused by a lock that conflicts. -/
def State.nvmBegin (s : State) (view off bytes : Nat) : State :=
  if (s.conflict 5 0).isSome then (s.nvmRefuse view off bytes 0x07).lockBusy
  else
    let s1 := s.takeLock 5 0 (holderOf view) 0
    ({ s1 with nvm := { s1.nvm with activity := some view, verified := false } }).nvmResult 0

/-- An operation of the activity. -/
def State.activityOp (s : State) (view off bytes code target : Nat) : State :=
  let a := s.fget F.NVM_ADDR_addr
  let n := s.fget F.NVM_LEN_len
  let w := s.window
  let key (r : Nat × State) : State := r.2.startOp code r.1
  match code with
  | 1 => if a % 0x10000 = 0 ∧ n % 0x10000 = 0 ∧ s.mayWrite a n then s.startOp 1 else s.nvmRefuse view off bytes 0x0B
  | 2 => if 1 ≤ n ∧ n ≤ 2048 ∧ s.mayWrite a n then s.startOp 2 else s.nvmRefuse view off bytes 0x0B
  | 3 => if 1 ≤ n ∧ n ≤ 2048 ∧ a + n ≤ 2 ^ 28 then s.startOp 3 else s.nvmRefuse view off bytes 0x0B
  | 5 => s.startOp 5
  | 6 => s.nvmSwitch
  | 7 => s.nextBoot
  | 8 => (s.endActivityOf view).nvmResult 0
  | 9 => s.startOp 9
  | 10 => key (s.keyLoad view target w)
  | 11 => key (s.enrol view w)
  | _ => key (s.release' w)

/-- A write of NVM_OP. -/
def State.writeNvmOp (s : State) (view off bytes v : Nat) : State :=
  let code := v % 16
  if s.flag F.NVM_STATE_busy then s.nvmRefuse view off bytes 0x07
  else if code = 0 ∨ 13 < code then s.nvmRefuse view off bytes 0x0B
  else if code = 4 then s.nvmBegin view off bytes
  else if code = 13 then s.startOp 13
  else
    match s.activityStatus view with
    | some e => s.nvmRefuse view off bytes e
    | none => s.activityOp view off bytes code (bits v 4 5)

/-- What programming leaves in a byte: the data where it was erased; the spec does not say what where it was not. -/
def State.program (s : State) (a : Nat) (d : List Byte) : State :=
  let old := s.norRange a d.length
  let new := (List.zip old d).zipIdx.map fun p => if p.1.1 = norBlank then p.1.2 else Config.freshByte (s.freeCtr + p.2)
  { s.norPut a new with freeCtr := s.freeCtr + d.length }

/-- The end of CFG_COMMIT (R470): a slot above the active one's seq comes into force. -/
def State.commitConfig (s : State) : Nat × State :=
  let i := s.spareSlot
  let st := s.slotStatus i
  if st ≠ 0 then (st, s.when (s.verifyImage (cfgBase i) cfgSize 4 != 0) (·.verifyFailed))
  else if !s.flag F.NVM_STATE_factory_cfg ∧ s.slotSeq i ≤ s.nvm.cfgSeq then (0x0B, s)
  else (0, ((s.useSlot i).raise E.NVM_cfg_commit).profileTakes)

/-- What an operation does as it ends, with its result. -/
def State.endOp (s : State) (op : NvmOp) : Nat × State :=
  match op.code with
  | 1 => (0, ({ s with nvm := { s.nvm with verified := false } }).norErase op.addr op.len)
  | 2 => (0, (({ s with nvm := { s.nvm with verified := false } }).program op.addr op.data))
  | 3 =>
    let d := (List.range op.len).map fun i => s.norRead (op.addr + i)
    (0, ({ s with freeCtr := s.freeCtr + 1 }).fillWindow d)
  | 5 =>
    if s.verifyImage (fwBase s.spareRegion) fwSize 2 = 0 then
      (0, { s with nvm := { s.nvm with verified := s.nvm.activity.isSome } })
    else (0x0B, s.verifyFailed)
  | 9 => s.commitConfig
  | 13 => (0, { s with nvm := { s.nvm with report := s.attestReport } })
  | _ => (op.result, s)

/-- NVM_OP_DONE (R476): the operation ends with its result. `fail` says that the NOR device reported an error: what an
erase or program then leaves, and the result, the spec does not say. -/
def execNvmOpDone (fail : Bool) (s : State) : Host.Outcome State Fault Refusal :=
  guardUnit true <|
    match s.nvm.op with
    | none => s
    | some op =>
      let s1 := ({ s with nvm := { s.nvm with op := none } }).fset F.NVM_STATE_busy 0
      if fail && (op.code == 1 || op.code == 2 || decide (10 ≤ op.code ∧ op.code ≤ 12)) then
        let r := s1.fresh (if op.code ≤ 2 then op.len else 0)
        let s2 := (r.2.norPut op.addr r.1).bump C.NVM_DEV_ERR_CNT
        let f := s2.free
        f.2.nvmResult ((Config.freeWord f.1).toNat % 256)
      else
        let r := s1.endOp op
        r.2.nvmResult r.1

/-- UPDATE_SECOND_UNIT (R471): 64 bt after the update's handover the other unit boots the new region. -/
def execUpdateSecondUnit (s : State) : Host.Outcome State Fault Refusal :=
  guardUnit true <|
    if s.nvm.phase ≠ .second ∨ s.nvm.wait ≠ 0 ∨ s.unit s.standby = cuUpdating ∨
        s.unitRegion s.standby = s.unitRegion s.active then s
    else (s.setUnitRegion s.standby (s.unitRegion s.active)).setUnit s.standby cuUpdating

/-- UPDATE_ABANDON (R472): the first unit has not reached STANDBY within 3 s. -/
def execUpdateAbandon (s : State) : Host.Outcome State Fault Refusal :=
  guardUnit true (if s.nvm.phase = .first then (s.abandonSwitch 0x03).endActivity else s)

end Sys2Proof.Machine
end

