-- ==== Sys2Proof/Machine/RegRead.lean ====
section
/-! DEFINITION. Reading registers (R338-R351): the view a register is read in, the registers whose value is computed as they
are read, split reads, reads that change state, and accesses that are refused. -/

namespace Sys2Proof.Machine

/-! Where a register lies. -/

/-- The register of a page's body at an offset, from the tables. -/
def specAt (page off : Nat) : Option RegSpec :=
  regTable.find? fun r => decide (r.page ≤ page) && decide (page < r.page + r.n) && r.off == off

/-- Statistics counters of a page: how many, and the offset of the first (R342). -/
def countersOf (page : Nat) : Nat × Nat :=
  match counterPages.find? fun c => decide (c.1 ≤ page) && decide (page < c.1 + c.2.1) with
  | some c => (c.2.2.1, c.2.2.2)
  | none => (0, 0)

/-- The number of the statistics counter at an offset. -/
def counterAt (page off : Nat) : Option Nat :=
  let c := countersOf page
  if c.2 ≤ off ∧ off < c.2 + 8 * c.1 ∧ off % 8 = 0 then some ((off - c.2) / 8) else none

/-- A 64-bit register starts at an offset of an assigned page. -/
def wide (page off : Nat) : Bool :=
  (pageOf page).isSome && off % 8 == 0 &&
    (off == 0x08 || off == 0x28 || off == 0x30 || (counterAt page off).isSome ||
      match specAt page off with
      | some r => r.bytes == 8
      | none => false)

/-- The deckle a view's filtered pages belong to. -/
def viewDeckle (view : Nat) : Option Nat := if 4 ≤ view ∧ view < 20 then some (view - 4) else none

/-- The deckle that the SEL register of a page selects in a view (R333, R347). -/
def State.selected (s : State) (view page : Nat) : Nat :=
  (viewDeckle view).getD (bits (s.reg 0 page 0x80) 0 4)

/-- The copy of a register that a view reaches. -/
def State.copyOf (s : State) (view page sel : Nat) : Nat :=
  match sel with
  | 0 => 0
  | 1 => bank view
  | 2 => ofDeckle (s.selected view page)
  | _ => ofLink (s.fget F.CXLP_AQ_SEL_link)

/-! Values (R342 and the register tables). -/

/-- EVENT and EVENT_EN of a view share a bit. -/
def State.eventPending (s : State) (view page : Nat) : Bool :=
  (s.reg (bank view) page 0x18 &&& s.reg (bank view) page 0x1C) != 0

/-- The lock LOCK shows on a page in a view (R424). -/
def State.lockShown (s : State) (view page : Nat) : Option Lock :=
  s.locks.find? fun l =>
    lockPage l.cls l.inst == page && (l.cls != 3 || l.inst == s.selected view Page.DECKLE)

/-- A statistics counter as a view reads it: the value held while cnt_freeze is set (R351). -/
def State.counterValue (s : State) (view page k : Nat) : Nat :=
  match s.frozen.find? fun f => f.view == view && f.page == page with
  | some f => (f.vals.getD k 0).toNat
  | none => s.reg 0 page ((countersOf page).2 + 8 * k)

/-- A header register (R342). -/
def State.headerValue (s : State) (view page off : Nat) : Nat :=
  if off = 0x10 ∨ off = 0x18 ∨ off = 0x1C ∨ off = 0x20 ∨ off = 0x24 ∨ off = 0x30 then s.reg (bank view) page off
  else if off = 0x14 then
    bits (s.reg 0 page off) 0 2 + (if (s.lockShown view page).isSome then 4 else 0) +
      (if s.eventPending view page then 8 else 0)
  else if off = 0x28 then ((s.lockShown view page).map Lock.word).getD 0
  else if off = 0x38 then
    (List.range (countersOf page).1).foldl (fun m k => m + bits (s.counterValue view page k) 63 1 * 2 ^ k) 0
  else s.reg 0 page off

/-- TILE_STATE, TILE_SEQ and TILE_VTILE of the tile selected (R92), masked for another deckle's context. -/
def State.tileValue (s : State) (view page off : Nat) : Nat :=
  let t := s.tile ((page - Page.TILE) * 256 + bits (s.reg 0 page 0xA0) 0 8)
  let run := t.running.filter fun r => match viewDeckle view with
    | some d => (s.ctx r.1).deckle == d
    | none => true
  match off, run with
  | 0xA4, some r => t.state.code + 8 + s.handle r.1 * 2 ^ 16
  | 0xA4, none => t.state.code
  | 0xA8, some r => r.2.1 % 2 ^ 32
  | 0xAC, some r => (s.runOf r).h.vtile
  | _, none => 0
  | _, _ => 0

/-- Orphaned chests of a deckle, or of the module (R165). -/
def State.orphanCount (s : State) (view : Nat) : Nat :=
  match viewDeckle view with
  | some d => (s.deckle d).orphans.length
  | none => ((List.range 16).map fun d => (s.deckle d).orphans.length).sum

/-- Chunks that the engines of an I/O die hold: the engine, the chunk's elements, and zero copy (R288, R295). -/
def State.chunksHeld (s : State) (iod : Nat) : List (Nat × Nat × Bool) :=
  s.ctxList.flatMap fun c =>
    let x := s.ctx c
    (x.steps.filter fun p => p.st == .run).flatMap fun p =>
      let g := x.groupOf p
      p.holding.filterMap fun h =>
        match s.engineOf g h.1 with
        | (d, some k) => if d = iod then some (k, (chunkSpan (x.entryOf p) g g.rank h.1).2, h.2) else none
        | _ => none

/-- COLL_ENGINES.busy and COLL_RMEM of an I/O die (R302). -/
def State.enginesBusy (s : State) (iod : Nat) : Nat :=
  (List.range 8).foldl (fun m k => if (s.chunksHeld iod).any fun c => c.1 == k then m + 2 ^ k else m) 0

def State.stepsOpen (s : State) : Nat :=
  (s.ctxList.map fun c => ((s.ctx c).steps.filter fun p => p.st == .hash || p.st == .run).length).sum

def State.rmemValue (s : State) (iod : Nat) : Nat :=
  let used := (((s.chunksHeld iod).filter fun c => !c.2.2).map fun c => ceilDiv (8 * c.2.1) 65536).sum
  (512 - used) + min 64 s.stepsOpen * 2 ^ 16

/-- SENS_POINT (R404): a point at or above the die's count reads 0. -/
def State.pointValue (s : State) (inst : Nat) : Nat :=
  let p := bits (s.reg 0 (Page.SENS + inst) 0x80) 0 6
  let x := s.sensor inst p
  if s.points inst ≤ p then 0
  else
    (x.value.map tempCode).getD 0 + (if x.stuck then 2 ^ 10 else 0) + (if x.usable.isNone && x != Sensor.reset then 2 ^ 11 else 0)

/-- CALENDER_PH_DATA (R401). -/
def State.phaseValue (s : State) : Nat :=
  let p := s.fget F.CALENDER_PH_SEL_phase
  min 0xFFFF ((s.phaseW p (s.fget F.CALENDER_PH_SEL_div)) / 65536).toNat + min 0xFF ((s.phaseStall p) / 256).toNat * 2 ^ 16

/-- An 8-byte word of a byte string. -/
def wordOf (d : List Byte) (i : Nat) : Nat := leNat ((d.drop (8 * i)).take 8)

/-- Registers of the module-wide pages that are computed as they are read. -/
def State.moduleValue (s : State) (view page off : Nat) : Option Nat :=
  if page = Page.MOD ∧ 0xA0 ≤ off ∧ off < 0xC0 then
    some ((List.range 32).foldl (fun m b => if s.eventPending view ((off - 0xA0) * 8 + b) then m + 2 ^ b else m) 0)
  else if page = Page.BEAT ∧ off = 0x88 then
    some (s.reg 0 page off + s.cycleNow % 2 ^ 12)
  else if page = Page.CALENDER ∧ off = 0x144 then some s.phaseValue
  else if page = Page.RSTCTL ∧ off = 0x848 then
    some (if (viewDeckle view).isSome then 0 else wordOf s.rst.dump (s.fget F.RSTCTL_DUMP_IDX_word 0 (bank view)))
  else if page = Page.MGT ∧ off = 0x94 then some (Config.iana % 2 ^ 32)
  else if page = Page.NVM ∧ off = 0x168 then some (wordOf s.nvm.report (s.fget F.NVM_RPT_IDX_word 0 (bank view)))
  else none

/-- Registers of the deckles' pages that are computed as they are read. -/
def State.deckleValue (s : State) (view page off : Nat) : Option Nat :=
  let d := s.selected view page
  if (page = Page.CHEST ∨ page = Page.HEADBOX ∨ page = Page.DECKLE) ∧ off = 0x80 then some d
  else if page = Page.CHEST ∧ off = 0x84 then some (s.freeMib d)
  else if page = Page.CHEST ∧ off = 0x90 then some (s.orphanCount view)
  else if page = Page.HEADBOX ∧ off = 0x88 then some (s.reg (ofDeckle d) page off + (s.candidates d).length * 2 ^ 16)
  else if page = Page.DECKLE ∧ off = 0x84 then some (s.reg (ofDeckle d) page off + (s.ctxsOf d).length * 2 ^ 5)
  else none

/-- Registers of the pages of stacks, groups and I/O dies that are computed as they are read. -/
def State.unitValue (s : State) (view page off : Nat) : Option Nat :=
  if Page.TILE ≤ page ∧ page < Page.TILE + 48 ∧ 0xA4 ≤ off ∧ off < 0xB0 then some (s.tileValue view page off)
  else if Page.SCREEN ≤ page ∧ page < Page.SCREEN + 12 ∧ off = 0x84 then
    some (s.reg 0 page off + min 64 (s.queuedAt (page - Page.SCREEN)))
  else if Page.SENS ≤ page ∧ page < Page.SENS + 7 ∧ off = 0x84 then some (s.pointValue (page - Page.SENS))
  else if Page.SENS + 4 ≤ page ∧ page < Page.SENS + 7 ∧ off = 0x90 then some 0
  else if page = Page.ROUTE ∨ page = Page.ROUTE + 1 then
    let r := s.router (page - Page.ROUTE)
    if off = 0x94 then some (r.routes.get (fun _ => 0) (bits (s.reg 0 page 0x90) 0 16)).toNat
    else if off = 0x9C then
      some (r.slots.get (fun _ => 0) (bits (s.reg 0 page 0x98) 8 5 * 256 + bits (s.reg 0 page 0x98) 0 8))
    else if off = 0xA0 then some (setBits (s.reg 0 page off) 0 16 (s.poolFree (page - Page.ROUTE)))
    else if 0x200 ≤ off ∧ off < 0x280 then some (leNat ((r.mapLast.drop (off - 0x200)).take 4))
    else none
  else if page = Page.COLL ∨ page = Page.COLL + 1 then
    let iod := page - Page.COLL
    if off = 0x84 then some (setBits (s.reg 0 page off) 8 8 (s.enginesBusy iod))
    else if off = 0x88 then some (s.rmemValue iod)
    else if off = 0x94 then some ((s.router iod).trees.get (fun _ => 0) (bits (s.reg 0 page 0x90) 0 8)).toNat
    else none
  else none

/-- A register's value in a view. -/
def State.readReg (s : State) (view page off : Nat) : Nat :=
  if (pageOf page).isNone then 0
  else if off < 0x40 then s.headerValue view page off
  else if off < 0x80 then 0
  else
    match counterAt page off with
    | some k => s.counterValue view page k
    | none =>
      match ((s.moduleValue view page off).orElse fun _ => s.deckleValue view page off).orElse fun _ =>
          s.unitValue view page off with
      | some v => v
      | none => s.reg (s.copyOf view page (((specAt page off).map (·.sel)).getD 0)) page off

/-- Four bytes of a page. -/
def State.peek4 (s : State) (view page off : Nat) : Nat :=
  if wide page off then s.readReg view page off % 2 ^ 32
  else if wide page (off - 4) ∧ off % 8 = 4 then s.readReg view page (off - 4) / 2 ^ 32
  else s.readReg view page off % 2 ^ 32

/-- Eight bytes of a page. -/
def State.peek8 (s : State) (view page off : Nat) : Nat :=
  if wide page off then s.readReg view page off else s.peek4 view page off + s.peek4 view page (off + 4) * 2 ^ 32

/-! Reads that change state. -/

/-- What reading a register does (R401, R428, R476): CALENDER_PEAK is cleared, the indexes of the dump and the report advance;
a use of the phase's free value is a new one. -/
def State.readEffect (s : State) (view page off : Nat) : State :=
  if page = Page.CALENDER ∧ off = 0x8C then s.fset F.CALENDER_PEAK_peak_w 0
  else if page = Page.RSTCTL ∧ off = 0x848 ∧ (viewDeckle view).isNone then
    s.fset F.RSTCTL_DUMP_IDX_word (s.fget F.RSTCTL_DUMP_IDX_word 0 (bank view) + 1) 0 (bank view)
  else if page = Page.NVM ∧ off = 0x168 then
    s.fset F.NVM_RPT_IDX_word (s.fget F.NVM_RPT_IDX_word 0 (bank view) + 1) 0 (bank view)
  else if page = Page.BEAT ∧ off = 0x88 then
    { s with freeCtr := s.freeCtr + 1, beat := { s.beat with cycle := s.cycleNow } }
  else s

/-- The latch of a view for a page (R343, R349). -/
def State.latch (s : State) (view page : Nat) : Option Half := s.latches.find? fun h => h.view == view && h.page == page
def State.setLatch (s : State) (view page : Nat) (h : Option Half) : State :=
  { s with latches := (s.latches.filter fun x => !(x.view == view && x.page == page)) ++ h.toList }

/-- A read that is served: its value, and the state after it (R349). -/
def State.readAt (s : State) (view page off bytes : Nat) : Nat × State :=
  if bytes = 8 then
    (s.peek8 view page off, (s.readEffect view page off).when (!wide page off) (·.readEffect view page (off + 4)))
  else if wide page off then
    let v := s.readReg view page off
    (v % 2 ^ 32, (s.readEffect view page off).setLatch view page (some ⟨view, page, off, v / 2 ^ 32⟩))
  else if wide page (off - 4) ∧ off % 8 = 4 then
    match s.latch view page with
    | some h => if h.off = off - 4 then (h.val, s.setLatch view page none) else (s.peek4 view page off, s)
    | none => (s.peek4 view page off, s)
  else (s.peek4 view page off, s.readEffect view page off)

/-! Which accesses take effect (R339, R341, R345-R348). -/

/-- What becomes of an access: served; reads 0 and writes nothing; refused with a status. -/
inductive Access
  | served
  | quiet
  | refused (status : Nat)
deriving DecidableEq, Repr

/-- A page's clock is stopped: its enable bit, but for a change still on its way (R345, R372); a page of a position not
fitted is gated for good (R341). -/
def State.gatedPage (s : State) (page : Nat) : Bool :=
  if !s.pageFitted page then true
  else
    match s.clk.enables.find? fun e => e.1 == page with
    | some e => e.2
    | none => !s.clocked page

/-- The session that writes of a view need is open (R309, R348, R445). -/
def State.maySet (s : State) (view : Nat) : Bool := (s.session view).opened

/-- Writes that need no session: banked index registers (R348) and, while none is open, the admin queue (R488). -/
def State.exempt (s : State) (view off : Nat) : Bool :=
  let page := off / 4096
  let o := off % 4096
  (page == Page.RSTCTL && (o == 0x94 || o == 0x808 || o == 0x840)) ||
    (page == Page.NVM && (o == 0x100 || o == 0x160)) ||
    (page == Page.CXLP && decide (view < 4) && o / 8 * 8 == 0x98) ||
    (page == Page.DECKLE && (viewDeckle view).isSome && o / 8 * 8 == 0xA0)

/-- An access of a view, the checks in the model's order: form, unassigned or hidden page, session, gate, fence. -/
def State.access (s : State) (view off bytes : Nat) (write : Bool) : Access :=
  let page := off / 4096
  if !(bytes == 4 || bytes == 8) ∨ off % bytes ≠ 0 ∨ 2 ^ 25 < off + bytes then .refused 0x0B
  else if (pageOf page).isNone then .quiet
  else if (match viewDeckle view with | some d => !s.shows d page | none => false) then .quiet
  else if write && !s.maySet view && !s.exempt view off then .refused 0x08
  else if s.gatedPage page then .refused 0x0A
  else if s.pageFenced page && decide (0x80 ≤ off % 4096) then .refused 0x09
  else .served

/-- A refused access is recorded and counted (R309, R339, R345, R346, R348). A write of the management view without a
session leaves no record (R445). -/
def State.refuse (s : State) (view off bytes : Nat) (write : Bool) (status : Nat) : State :=
  if status = 0x08 ∧ view = 20 then s
  else
    let s1 := s.regFault view off bytes write status
    let s2 := s1.when (status == 0x0A && decide (view < 20)) (·.bump C.CXLP_BUS_ERR_CNT)
    s2.when (status == 0x08 && decide (view < 4)) (·.bump C.CXLP_WR_REFUSE_CNT)

/-- A read in a view: the value, or the status that refuses it, and the state after it. -/
def State.regRead (s : State) (view off bytes : Nat) : (Nat ⊕ Nat) × State :=
  match s.access view off bytes false with
  | .served =>
    let r := s.readAt view (off / 4096) (off % 4096) bytes
    (.inl r.1, r.2)
  | .quiet => (.inl 0, s)
  | .refused e => (.inr e, s.refuse view off bytes false e)

/-- A view exists: a link of the split, an active deckle, the management port (R343). -/
def State.viewOk (s : State) (view : Nat) : Bool :=
  if view < 4 then s.linkExists view else if view < 20 then s.deckleActive (view - 4) else view == 20

/-- Accesses of a view reach the module: its host link is active. -/
def State.viewUp (s : State) (view : Nat) : Bool := view == 20 || s.linkActive (s.linkOf view)

/-- The answer to a register read. -/
def State.answerRead (s : State) (view off bytes : Nat) : State :=
  let r := s.regRead view off bytes
  match r.1 with
  | .inl v => r.2.emit (.regData view off (BitVec.ofNat 64 v))
  | .inr e => r.2.emit (.regAbort view off e)

/-- A row that reads a register, when the row's condition holds. -/
def readRow (view off bytes : Nat) (cond : Bool) (s : State) : Host.Outcome State Fault Refusal :=
  guardUnit (s.viewOk view) (if s.viewUp view && cond then s.answerRead view off bytes else s)

/-- SPLIT_LOW_READ (R349). -/
def execSplitLowRead (view off bytes : Nat) (s : State) : Host.Outcome State Fault Refusal :=
  readRow view off bytes (bytes == 4 && wide (off / 4096) (off % 4096)) s

/-- SPLIT_HIGH_READ (R349). -/
def execSplitHighRead (view off bytes : Nat) (s : State) : Host.Outcome State Fault Refusal :=
  readRow view off bytes (bytes == 4 && off % 8 == 4 && wide (off / 4096) (off % 4096 - 4)) s

/-- An access covers a register. -/
def covers (off bytes page reg : Nat) : Bool :=
  off / 4096 == page && decide (off % 4096 ≤ reg) && decide (reg < off % 4096 + bytes)

/-- DUMP_DATA_READ (R428). -/
def execDumpDataRead (view off bytes : Nat) (s : State) : Host.Outcome State Fault Refusal :=
  readRow view off bytes (covers off bytes Page.RSTCTL 0x848) s

/-- RPT_DATA_READ (R476). -/
def execRptDataRead (view off bytes : Nat) (s : State) : Host.Outcome State Fault Refusal :=
  readRow view off bytes (covers off bytes Page.NVM 0x168) s

/-- CALENDER_PEAK_READ (R401, R12). `same` says that the last energy bucket closed in the cycle of the read: it is in the value
returned, and it stays. -/
def execCalenderPeakRead (view off bytes : Nat) (same : Bool) (s : State) : Host.Outcome State Fault Refusal :=
  guardUnit (s.viewOk view) <|
    if s.viewUp view && covers off bytes Page.CALENDER 0x8C then
      (s.answerRead view off bytes).when (same && s.access view off bytes false == .served) fun t =>
        t.fset F.CALENDER_PEAK_peak_w (min 0xFFFF (s.cal.buckets.headD 0))
    else s

/-- REGISTER_READ_REFUSED (R339, R345, R346): a read that does not take effect. -/
def execRegisterReadRefused (view off bytes : Nat) (s : State) : Host.Outcome State Fault Refusal :=
  readRow view off bytes (match s.access view off bytes false with | .refused _ => true | _ => false) s

end Sys2Proof.Machine
end

