-- ==== Sys2Proof/Machine/RegWrite.lean ====
section
/-! DEFINITION. Writing registers (R338-R355, R363, R390, R401, R411, R428, R476, R488): what each register does when it is
written, split writes, and the rows that write. -/

namespace Sys2Proof.Machine

/-! The header (R342, R344, R351). -/

/-- Events of a page are pending and delivered in a view. -/
def State.delivering (s : State) (view page : Nat) : Bool :=
  (s.reg (bank view) page 0x10).testBit 0 && s.eventPending view page

/-- The change of a page that makes its events pending and delivered in a view delivers them (R344). -/
def State.deliverOn (s : State) (view page : Nat) (f : State → State) : State :=
  let s1 := f s
  s1.when (s1.delivering view page && !s.delivering view page) (·.notify page view)

/-- cnt_freeze set or cleared (R351). -/
def State.setFreeze (s : State) (view page : Nat) (on : Bool) : State :=
  let others := s.frozen.filter fun f => !(f.view == view && f.page == page)
  let was := s.frozen.any fun f => f.view == view && f.page == page
  if !on then { s with frozen := others }
  else if was then s
  else
    let c := countersOf page
    let vals := (List.range c.1).map fun k => BitVec.ofNat 64 (s.reg 0 page (c.2 + 8 * k))
    ({ s with frozen := others ++ [(⟨view, page, vals⟩ : Frozen)] }).setReg (bank view) page 0x30 s.beatCount

/-- A write of a header register. -/
def State.writeHeader (s : State) (view page off v : Nat) : State :=
  if off = 0x10 then
    (s.deliverOn view page fun s => s.setReg (bank view) page 0x10 (v % 4)).setFreeze view page (v.testBit 1)
  else if off = 0x18 then
    let e := s.reg (bank view) page 0x18
    s.setReg (bank view) page 0x18 (e - (e &&& v))
  else if off = 0x1C then s.deliverOn view page fun s => s.setReg (bank view) page 0x1C (v % 2 ^ 32)
  else s

/-! Plain registers. -/

/-- The bits of a register after a write: RW bits take the data, W1C bits written 1 are cleared (R11, R12). -/
def mergeWrite (r : RegSpec) (old mask v : Nat) : Nat :=
  let rw := r.rw &&& mask
  let kept := old - (old &&& rw) + (v &&& rw)
  kept - (kept &&& (r.w1c &&& mask &&& v))

/-- A register with no behaviour of its own. -/
def State.writePlain (s : State) (view page off mask v : Nat) : State :=
  match specAt page off with
  | none => s
  | some r =>
    let c := s.copyOf view page r.sel
    s.setReg c page off (mergeWrite r (s.reg c page off) mask v)

/-- A plain write in which some fields keep their values: those whose new value their table excludes. -/
def State.writeLimited (s : State) (view page off mask v : Nat) (fields : List (Nat × Nat × Bool)) : State :=
  let c := s.copyOf view page (((specAt page off).map (·.sel)).getD 0)
  let old := s.reg c page off
  s.writePlain view page off mask
    (fields.foldl (fun m f => if f.2.2 then m else setBits m f.1 f.2.1 (bits old f.1 f.2.1)) v)

/-! RSTCTL_ (R355, R409, R411, R412, R422, R428). -/

/-- The two words of a broke-map entry (R408). -/
def Broke.words (b : Broke) : Nat × Nat :=
  (b.kind + (if b.retired then 16 else 0) + (if b.factory then 32 else 0) + b.cause * 2 ^ 8 + b.loc % 2 ^ 32 * 2 ^ 32,
    b.boot % 2 ^ 32 + b.beat % 2 ^ 32 * 2 ^ 32)

/-- RSTCTL_BROKE_IDX: an entry is copied into the view's window (R409). -/
def State.writeBrokeIdx (s : State) (view v : Nat) : State :=
  let w := ((s.broke[v % 2 ^ 14]?).map Broke.words).getD (0, 0)
  ((s.setReg (bank view) Page.RSTCTL 0x94 (v % 2 ^ 14)).setReg (bank view) Page.RSTCTL 0x98 w.1).setReg (bank view)
    Page.RSTCTL 0xA0 w.2

/-- The fault record a view finds at an index: one of another deckle is hidden in a deckle's view (R355). -/
def State.recordFor (s : State) (view i : Nat) : List Nat :=
  let hidden (f : FaultRec) : Bool := match viewDeckle view with
    | some d => f.deckle != d && f.deckle != 0x1F
    | none => false
  match s.flog.get (fun _ => none) i with
  | some f => if hidden f then [] else f.words
  | none => []

/-- RSTCTL_FLOG_IDX: a record is copied into the view's window (R355). -/
def State.writeFlogIdx (s : State) (view v : Nat) : State :=
  let w := s.recordFor view (v % 4096)
  (s.setReg (bank view) Page.RSTCTL 0x808 (v % 4096)).each (List.range 4) fun s k =>
    s.setReg (bank view) Page.RSTCTL (0x810 + 8 * k) (w.getD k 0)

/-- A reset or recovery that software or the board controller asks for cannot be performed now: before READY (R491), while
THERMTRIP_N is asserted (R451), or in FAILED (R412). -/
def State.tierBarred (s : State) : Bool := !s.upDone || s.bring.thermtrip || s.rsState == rsFailed

/-- RSTCTL_RESET (R412, R428): package recovery prevails over a compute-domain reset; then the dump. -/
def State.writeReset (s : State) (view off bytes v : Nat) : State :=
  if v % 8 = 0 then s
  else if s.tierBarred then s.regFault view off bytes true 0x09
  else
    let s1 :=
      if v % 4 = 0 then s
      else
        let r := s.askTier (v.testBit 1) 0 (holderOf view)
        if r.2 then r.1 else r.1.writeBusy view off bytes
    if !v.testBit 2 then s1
    else
      let r := s1.askDump (holderOf view)
      if r.2 then r.1 else r.1.writeBusy view off bytes

/-- RSTCTL_TFENCE (R411). -/
def State.writeTfence (s : State) (view off bytes v : Nat) : State :=
  let tile := v % 2 ^ 14
  let op := bits v 16 2
  if 12288 ≤ tile then s.regFault view off bytes true 0x0B
  else if op = 1 then s.askFence view off bytes tile
  else if op = 2 then s.askReturn view off bytes tile
  else s.regFault view off bytes true 0x0B

/-- RSTCTL_DUMP.valid cleared frees the buffer (R422). -/
def State.writeDumpValid (s : State) (view mask v : Nat) : State :=
  let s1 := s.writePlain view Page.RSTCTL 0xA8 mask v
  s1.when (v.testBit 31) fun s => { s with rst := { s.rst with dump := [] } }

def State.writeRstctl (s : State) (view off bytes reg mask v : Nat) : State :=
  match reg with
  | 0x84 => s.writeReset view off bytes v
  | 0x88 => s.writeLimited view Page.RSTCTL 0x88 mask v [(0, 16, decide (100 ≤ v % 2 ^ 16 ∧ v % 2 ^ 16 ≤ 10000))]
  | 0x8C => s.writeTfence view off bytes v
  | 0x94 => s.writeBrokeIdx view v
  | 0xA8 => s.writeDumpValid view mask v
  | 0x808 => s.writeFlogIdx view v
  | _ => s.writePlain view Page.RSTCTL reg mask v

/-! NVM_ (R469, R476). -/

/-- NVM_MEAS_IDX: a measurement is copied into the view's data registers (R476). -/
def State.writeMeasIdx (s : State) (view v : Nat) : State :=
  let m := s.measurement (v % 8)
  (s.setReg (bank view) Page.NVM 0x100 (v % 8)).each (List.range 4) fun s k =>
    s.setReg (bank view) Page.NVM (0x108 + 8 * k) (wordOf m k)

/-- A register of the page; of an access that covers two registers of the activity, one record is written. -/
def State.writeNvm (s : State) (view off bytes reg mask v : Nat) : State :=
  let inActivity (f : State → State) : State :=
    match s.activityStatus view with
    | some e => if bytes = 8 ∧ reg % 8 = 4 then s else s.nvmRefuse view off bytes e
    | none => f s
  if reg = 0x84 then s.writeNvmOp view off bytes v
  else if reg = 0x88 ∨ reg = 0x8C then inActivity fun s => s.writePlain view Page.NVM reg mask v
  else if reg = 0x90 then s.selectProfile (v % 4)
  else if reg = 0x100 then s.writeMeasIdx view v
  else if 0x800 ≤ reg then inActivity fun s => s.setReg 0 Page.NVM reg (v % 2 ^ 32)
  else s.writePlain view Page.NVM reg mask v

/-! Admin queues (R318, R319, R488). -/

/-- An admin queue's register: `e` outside 4-12 and 0 is ignored; queue 0 runs on its rings, or is off with e = 0; a reset
empties and restarts it, and descriptors of it not begun are dropped. -/
def State.writeAq (s : State) (copy page off fn mask v : Nat) : State :=
  let old := s.reg copy page off
  let w := old - (old &&& mask) + (v &&& mask)
  let ef := bits w 48 4
  let e := if ef = 0 ∨ (4 ≤ ef ∧ ef ≤ 12) then ef else bits old 48 4
  let base := bits w 0 48
  let s1 := s.setReg copy page off (base + e * 2 ^ 48)
  let q := s1.queue fn 0
  let made : Queue := { Queue.reset with
    state := if e = 0 then .stopped else .running, e, sq := base, cq := base + 128 * 2 ^ e }
  if (v &&& mask).testBit 52 then
    let keep := s1.cmds.filter fun k => !(k.fn == fn && k.queue == 0 && !k.begun)
    { s1.setQueue fn 0 made with
      cmds := keep.map fun (k : Cmd) => if k.fn = fn ∧ k.queue = 0 then { k with queue := 64 } else k }
  else if e = 0 ∨ q.state = .stopped then s1.setQueue fn 0 made
  else s1.setQueue fn 0 { q with e, sq := base, cq := base + 128 * 2 ^ e }

/-- CXLP_AQ: that of the link selected; without a session, that of the link the write came by (R488). -/
def State.writeCxlpAq (s : State) (view mask v : Nat) : State :=
  let link := if view < 4 ∧ !(s.session view).opened then view else s.fget F.CXLP_AQ_SEL_link
  s.writeAq (ofLink link) Page.CXLP 0x98 link mask v

/-- DECKLE_AQ of the deckle selected. -/
def State.writeDeckleAq (s : State) (view mask v : Nat) : State :=
  let d := s.selected view Page.DECKLE
  s.writeAq (ofDeckle d) Page.DECKLE 0xA0 (4 + d) mask v

/-- DECKLE_TIMERS (R333): a drain limit of 0, or a teardown limit below the drain limit, is ignored. -/
def State.writeTimers (s : State) (view mask v : Nat) : State :=
  let old := s.reg (s.copyOf view Page.DECKLE 2) Page.DECKLE 0x9C
  let drain := if bits v 0 8 = 0 then bits old 0 8 else bits v 0 8
  s.writeLimited view Page.DECKLE 0x9C mask v [(0, 8, bits v 0 8 != 0), (8, 16, decide (drain ≤ bits v 8 16))]

/-! The journal ring (R190). -/

/-- A ring of `len` bytes from `base` overlaps a region of a ream loaded in the deckle. -/
def State.ringOverReam (s : State) (d base len : Nat) : Bool :=
  (s.ctxsOf d).any fun c =>
    match (s.ctx c).ream with
    | some r => r.regions.any fun g => g.space == 0 && decide (g.base < base + len ∧ base < g.base + g.len)
    | none => false

/-- The status that refuses a place for the ring. -/
def State.ringStatus (s : State) (d base len : Nat) : Option Nat :=
  if base % 4096 ≠ 0 ∨ (len ≠ 0 ∧ s.arenaBase d < base + len) then some 0x0B
  else if len ≠ 0 ∧ s.ringOverReam d base len then some 0x07
  else none

/-- HEADBOX_JRNL_BASE. -/
def State.writeJrnlBase (s : State) (view off bytes mask v : Nat) : State :=
  let d := s.selected view Page.HEADBOX
  let old := s.reg (ofDeckle d) Page.HEADBOX 0x98
  let base := bits (old - (old &&& mask) + (v &&& mask)) 0 48
  match s.ringStatus d base (s.ring d).2 with
  | some e => s.regFault view off bytes true e
  | none => s.setReg (ofDeckle d) Page.HEADBOX 0x98 base

/-- HEADBOX_JRNL_CFG: sizes other than 0 and 8-24 are ignored; a write that takes effect resets the head. -/
def State.writeJrnlCfg (s : State) (view off bytes v : Nat) : State :=
  let d := s.selected view Page.HEADBOX
  let n := v % 32
  if n ≠ 0 ∧ (n < 8 ∨ 24 < n) then s
  else
    match s.ringStatus d (s.ring d).1 (if n = 0 then 0 else 32 * 2 ^ n) with
    | some e => s.regFault view off bytes true e
    | none => (s.setReg (ofDeckle d) Page.HEADBOX 0xA0 n).fset F.HEADBOX_JRNL_HEAD_written 0 0 (ofDeckle d)

/-! Ports (R227, R236, R241). -/

/-- PORT_CFG.enable: 0 sends the port to OFF at once, 1 lets it leave OFF. -/
def State.writePortCfg (s : State) (p mask v : Nat) : State :=
  let s1 := s.writePlain 0 (Page.PORT + p) 0x80 mask v
  if !v.testBit 2 then (if s1.portState p = stOff then s1 else s1.toOff p)
  else if s1.portState p = stOff ∧ s1.portEnabled p then s1.portStart p
  else s1

/-- PORT_CTRL.retrain: under the port lock, to DETECT; a retired port only with clear_retired. -/
def State.writePortCtrl (s : State) (view off bytes p v : Nat) : State :=
  if !v.testBit 0 then s
  else if (s.conflict 2 p).isSome then s.writeBusy view off bytes
  else if s.portState p = stOff ∨ (s.portState p = stRetired ∧ !v.testBit 1) then s
  else
    let s1 := (s.takeLock 2 p (holderOf view) 0).modPort p fun x => { x with clearing := v.testBit 1 }
    s1.toDetect p

/-- PORT_ETH_MDIO in Ethernet use: a read brings a value that the spec leaves to the Clause 45 device; a write with neither rd
nor wr sets the register address. -/
def State.writeMdio (s : State) (p mask v : Nat) : State :=
  if s.portMode p ≠ 1 then s
  else
    let s1 := s.writePlain 0 (Page.PORT + p) 0xAC mask v
    if v.testBit 21 then
      let r := s1.free
      r.2.fset F.PORT_ETH_MDIO_data ((Config.freeWord r.1).toNat % 2 ^ 16) p
    else if v.testBit 22 then s1
    else s1.modPort p fun x => { x with mdioAddr := v % 2 ^ 16 }

/-! The calender (R390, R401). -/

/-- A view may write a deckle's limit (R390). -/
def State.mayLimit (s : State) (view d : Nat) : Bool :=
  view == 20 || (s.deckleExists d && s.fget F.DECKLE_STATE_link 0 (ofDeckle d) == view)

def State.writeCalender (s : State) (view off bytes reg mask v : Nat) : State :=
  if reg = 0x84 then s.writeLimited view Page.CALENDER 0x84 mask v [(0, 4, decide (1 ≤ v % 16 ∧ v % 16 ≤ 10))]
  else if 0x100 ≤ reg ∧ reg < 0x140 ∧ !s.mayLimit view ((reg - 0x100) / 4) then s.regFault view off bytes true 0x08
  else s.writePlain view Page.CALENDER reg mask v

/-! All registers. -/

/-- The body of a page: the registers with a behaviour of their own, then the others. -/
def State.writeBody (s : State) (view off bytes page reg mask v : Nat) : State :=
  if page = Page.RSTCTL then s.writeRstctl view off bytes reg mask v
  else if page = Page.NVM then s.writeNvm view off bytes reg mask v
  else if page = Page.CALENDER then s.writeCalender view off bytes reg mask v
  else if page = Page.CLKCTL ∧ reg = 0x84 then s.writeSrc view bytes v
  else if page = Page.CLKCTL ∧ 0x90 ≤ reg ∧ reg ≤ 0xA0 then s.writeEnables view (page * 4096 + reg) bytes mask v
  else if page = Page.CXLP ∧ reg = 0x98 then s.writeCxlpAq view mask v
  else if page = Page.DECKLE ∧ reg = 0xA0 then s.writeDeckleAq view mask v
  else if page = Page.DECKLE ∧ reg = 0x9C then s.writeTimers view mask v
  else if page = Page.HEADBOX ∧ reg = 0x98 then s.writeJrnlBase view off bytes mask v
  else if page = Page.HEADBOX ∧ reg = 0xA0 then s.writeJrnlCfg view off bytes v
  else if page = Page.HEADBOX ∧ reg = 0x8C then
    s.writeLimited view page reg mask v [(0, 4, decide (bits v 0 4 ≤ 8)), (4, 4, decide (bits v 4 4 ≤ 8))]
  else if Page.SCREEN ≤ page ∧ page < Page.SCREEN + 12 ∧ reg = 0x80 then
    s.writeLimited view page reg mask v [(0, 5, decide (1 ≤ bits v 0 5 ∧ bits v 0 5 ≤ 16))]
  else if Page.HBMC ≤ page ∧ page < Page.HBMC + 12 ∧ reg = 0x88 then
    s.writeLimited view page reg mask v [(0, 8, decide (bits v 0 8 ≤ 168))]
  else if Page.SENS ≤ page ∧ page < Page.SENS + 7 ∧ reg = 0x90 then
    if page < Page.SENS + 4 then
      s.writeLimited view page reg mask v [(0, 4, decide (2 ≤ bits v 0 4 ∧ bits v 0 4 ≤ 12))]
    else s
  else if Page.PORT ≤ page ∧ page < Page.PORT + 26 ∧ reg = 0x80 then s.writePortCfg (page - Page.PORT) mask v
  else if Page.PORT ≤ page ∧ page < Page.PORT + 26 ∧ reg = 0x88 then s.writePortCtrl view off bytes (page - Page.PORT) v
  else if Page.PORT ≤ page ∧ page < Page.PORT + 26 ∧ reg = 0xAC then s.writeMdio (page - Page.PORT) mask v
  else s.writePlain view page reg mask v

/-- A deckle's view lets a register be written (R347). -/
def State.viewMayWrite (s : State) (view page reg : Nat) : Bool :=
  match viewDeckle view with
  | none => true
  | some d =>
    if reg < 0x80 then reg == 0x10 || reg == 0x18 || reg == 0x1C
    else
      match viewClass page with
      | .shared => page == Page.RSTCTL && (reg == 0x94 || reg == 0x808)
      | .selected => ((specAt page reg).map fun r => r.sel == 2).getD false
      | .owned => s.ownsWhole d page
      | .hidden => false

/-- A write of one register: `off` and `bytes` are those of the access, `mask` the bits it reaches. -/
def State.writeReg (s : State) (view off bytes page reg mask v : Nat) : State :=
  if !s.viewMayWrite view page reg then s
  else if reg < 0x80 then s.writeHeader view page reg v
  else if (counterAt page reg).isSome then
    s.when ((v &&& mask).testBit 63) fun s => s.setReg 0 page reg (setBits (s.reg 0 page reg) 63 1 0)
  else s.writeBody view off bytes page reg mask v

def mask32 : Nat := 2 ^ 32 - 1
def mask64 : Nat := 2 ^ 64 - 1

/-- The low half a view holds for a page (R349). -/
def State.heldHalf (s : State) (view page : Nat) : Option Half := s.held.find? fun h => h.view == view && h.page == page
def State.setHeld (s : State) (view page : Nat) (h : Option Half) : State :=
  { s with held := (s.held.filter fun x => !(x.view == view && x.page == page)) ++ h.toList }

/-- A write that is served (R349). -/
def State.writeAt (s : State) (view off bytes v : Nat) : State :=
  let page := off / 4096
  let o := off % 4096
  let s1 := s.setHeld view page none
  if bytes = 8 then
    if wide page o then s1.writeReg view off 8 page o mask64 v
    else (s1.writeReg view off 8 page o mask32 (v % 2 ^ 32)).writeReg view off 8 page (o + 4) mask32 (v / 2 ^ 32)
  else if wide page o then s1.setHeld view page (some ⟨view, page, o, v % 2 ^ 32⟩)
  else if o % 8 = 4 ∧ wide page (o - 4) then
    match s.heldHalf view page with
    | some h =>
      if h.off = o - 4 then s1.writeReg view off 4 page (o - 4) mask64 (h.val + v % 2 ^ 32 * 2 ^ 32)
      else s1.writeReg view off 4 page (o - 4) (mask64 - mask32) (v % 2 ^ 32 * 2 ^ 32)
    | none => s1.writeReg view off 4 page (o - 4) (mask64 - mask32) (v % 2 ^ 32 * 2 ^ 32)
  else s1.writeReg view off 4 page o mask32 (v % 2 ^ 32)

/-- A write in a view, with the status that refuses it; any write to a page discards a half held for it (R349). -/
def State.regWrite (s : State) (view off bytes v : Nat) : Option Nat × State :=
  match s.access view off bytes true with
  | .served => (none, s.writeAt view off bytes v)
  | .quiet => (none, s)
  | .refused e => (some e, (s.setHeld view (off / 4096) none).refuse view off bytes true e)

/-- A row that writes a register, when the row's condition holds. -/
def writeRow (view off bytes : Nat) (data : Word) (cond : Bool) (s : State) : Host.Outcome State Fault Refusal :=
  guardUnit (s.viewOk view) (if s.viewUp view && cond then (s.regWrite view off bytes data.toNat).2 else s)

/-- The 32 bits of an access's data that fall on a register. -/
def dataFor (off reg : Nat) (data : Word) : Nat := bits data.toNat (8 * (reg - off % 4096)) 32

/-- REGISTER_WRITE (R348): any register, by the rules of its page. -/
def execRegisterWrite (view off bytes : Nat) (data : Word) (s : State) : Host.Outcome State Fault Refusal :=
  writeRow view off bytes data true s

/-- SPLIT_LOW_WRITE (R349). -/
def execSplitLowWrite (view off : Nat) (data : BitVec 32) (s : State) : Host.Outcome State Fault Refusal :=
  writeRow view off 4 (data.zeroExtend 64) (wide (off / 4096) (off % 4096)) s

/-- SPLIT_HIGH_WRITE (R349). -/
def execSplitHighWrite (view off : Nat) (data : BitVec 32) (s : State) : Host.Outcome State Fault Refusal :=
  writeRow view off 4 (data.zeroExtend 64) (off % 8 == 4 && wide (off / 4096) (off % 4096 - 4)) s

/-- CTRL_WRITE (R344, R351): CTRL or EVENT_EN of any page. -/
def execCtrlWrite (view off bytes : Nat) (data : Word) (s : State) : Host.Outcome State Fault Refusal :=
  writeRow view off bytes data (covers off bytes (off / 4096) 0x10 || covers off bytes (off / 4096) 0x1C) s

/-- FLOG_IDX_WRITE (R355). -/
def execFlogIdxWrite (view off bytes : Nat) (data : Word) (s : State) : Host.Outcome State Fault Refusal :=
  writeRow view off bytes data (covers off bytes Page.RSTCTL 0x808) s

/-- BROKE_IDX_WRITE (R409). -/
def execBrokeIdxWrite (view off bytes : Nat) (data : Word) (s : State) : Host.Outcome State Fault Refusal :=
  writeRow view off bytes data (covers off bytes Page.RSTCTL 0x94) s

/-- DUMP_VALID_CLEAR (R422). -/
def execDumpValidClear (view off bytes : Nat) (data : Word) (s : State) : Host.Outcome State Fault Refusal :=
  writeRow view off bytes data (covers off bytes Page.RSTCTL 0xA8 && (dataFor off 0xA8 data).testBit 31) s

/-- MEAS_IDX_WRITE (R476). -/
def execMeasIdxWrite (view off bytes : Nat) (data : Word) (s : State) : Host.Outcome State Fault Refusal :=
  writeRow view off bytes data (covers off bytes Page.NVM 0x100) s

/-- CXLP_AQ_WRITE (R488). -/
def execCxlpAqWrite (view off bytes : Nat) (data : Word) (s : State) : Host.Outcome State Fault Refusal :=
  writeRow view off bytes data (covers off bytes Page.CXLP 0x98) s

/-- DECKLE_AQ_WRITE (R488). -/
def execDeckleAqWrite (view off bytes : Nat) (data : Word) (s : State) : Host.Outcome State Fault Refusal :=
  writeRow view off bytes data (covers off bytes Page.DECKLE 0xA0) s

/-- DECKLE_AQ_RESET (R319): a write of DECKLE_AQ with its reset bit. -/
def execDeckleAqReset (view off bytes : Nat) (data : Word) (s : State) : Host.Outcome State Fault Refusal :=
  writeRow view off bytes data (off / 4096 == Page.DECKLE && off % 4096 == 0xA0 && bytes == 8 && data.getLsbD 52) s

/-- HEADBOX_JRNL_BASE_WRITE (R190). -/
def execHeadboxJrnlBaseWrite (view off bytes : Nat) (data : Word) (s : State) : Host.Outcome State Fault Refusal :=
  writeRow view off bytes data (covers off bytes Page.HEADBOX 0x98) s

/-- HEADBOX_JRNL_CFG_WRITE (R190). -/
def execHeadboxJrnlCfgWrite (view off bytes : Nat) (data : Word) (s : State) : Host.Outcome State Fault Refusal :=
  writeRow view off bytes data (covers off bytes Page.HEADBOX 0xA0) s

/-- An access covers a register of some port's page. -/
def coversPort (off bytes reg : Nat) : Bool :=
  decide (Page.PORT ≤ off / 4096 ∧ off / 4096 < Page.PORT + 26) && covers off bytes (off / 4096) reg

/-- PORT_RETRAIN (R236). -/
def execPortRetrain (view off bytes : Nat) (data : Word) (s : State) : Host.Outcome State Fault Refusal :=
  writeRow view off bytes data (coversPort off bytes 0x88 && (dataFor off 0x88 data).testBit 0) s

/-- PORT_ENABLE_WRITE (R241). -/
def execPortEnableWrite (view off bytes : Nat) (data : Word) (s : State) : Host.Outcome State Fault Refusal :=
  writeRow view off bytes data (coversPort off bytes 0x80) s

/-- MDIO_READ (R241). -/
def execMdioRead (view off bytes : Nat) (data : Word) (s : State) : Host.Outcome State Fault Refusal :=
  writeRow view off bytes data (coversPort off bytes 0xAC && (dataFor off 0xAC data).testBit 21) s

/-- MDIO_WRITE (R241). -/
def execMdioWrite (view off bytes : Nat) (data : Word) (s : State) : Host.Outcome State Fault Refusal :=
  writeRow view off bytes data (coversPort off bytes 0xAC && bits (dataFor off 0xAC data) 21 2 == 2) s

/-- MDIO_ADDRESS (R241). -/
def execMdioAddress (view off bytes : Nat) (data : Word) (s : State) : Host.Outcome State Fault Refusal :=
  writeRow view off bytes data (coversPort off bytes 0xAC && bits (dataFor off 0xAC data) 21 2 == 0) s

/-- CLKCTL_SRC_WRITE (R363). -/
def execClkctlSrcWrite (view off bytes : Nat) (data : Word) (s : State) : Host.Outcome State Fault Refusal :=
  writeRow view off bytes data (covers off bytes Page.CLKCTL 0x84) s

/-- CLKCTL_EN_WRITE (R372, R373). -/
def execClkctlEnWrite (view off bytes : Nat) (data : Word) (s : State) : Host.Outcome State Fault Refusal :=
  writeRow view off bytes data (off / 4096 == Page.CLKCTL && decide (0x90 ≤ off % 4096 ∧ off % 4096 ≤ 0xA0)) s

/-- CALENDER_DLIM_WRITE (R390). -/
def execCalenderDlimWrite (view off bytes : Nat) (data : Word) (s : State) : Host.Outcome State Fault Refusal :=
  writeRow view off bytes data (off / 4096 == Page.CALENDER && decide (0x100 ≤ off % 4096 ∧ off % 4096 < 0x140)) s

/-- TILE_FENCE_REQUEST (R411). -/
def execTileFenceRequest (view off bytes : Nat) (data : Word) (s : State) : Host.Outcome State Fault Refusal :=
  writeRow view off bytes data (covers off bytes Page.RSTCTL 0x8C && bits (dataFor off 0x8C data) 16 2 == 1) s

/-- TILE_RETURN (R411). -/
def execTileReturn (view off bytes : Nat) (data : Word) (s : State) : Host.Outcome State Fault Refusal :=
  writeRow view off bytes data (covers off bytes Page.RSTCTL 0x8C && bits (dataFor off 0x8C data) 16 2 == 2) s

/-- CD_RESET (R412): a write of RSTCTL_RESET that asks for a compute-domain reset and no package recovery. -/
def execCdReset (view off bytes : Nat) (data : Word) (s : State) : Host.Outcome State Fault Refusal :=
  writeRow view off bytes data (covers off bytes Page.RSTCTL 0x84 && bits (dataFor off 0x84 data) 0 2 == 1) s

/-- PKG_RECOVERY (R412). -/
def execPkgRecovery (view off bytes : Nat) (data : Word) (s : State) : Host.Outcome State Fault Refusal :=
  writeRow view off bytes data (covers off bytes Page.RSTCTL 0x84 && (dataFor off 0x84 data).testBit 1) s

/-- DUMP (R422). -/
def execDumpRequest (view off bytes : Nat) (data : Word) (s : State) : Host.Outcome State Fault Refusal :=
  writeRow view off bytes data (covers off bytes Page.RSTCTL 0x84 && (dataFor off 0x84 data).testBit 2) s

/-- A row of one NVM_OP code (R476). -/
def nvmRow (code view off bytes : Nat) (data : Word) (s : State) : Host.Outcome State Fault Refusal :=
  writeRow view off bytes data (covers off bytes Page.NVM 0x84 && dataFor off 0x84 data % 16 == code) s

/-- ERASE (R476). -/
def execNvmErase (view off bytes : Nat) (data : Word) (s : State) : Host.Outcome State Fault Refusal :=
  nvmRow 1 view off bytes data s

/-- PROGRAM (R476). -/
def execNvmProgram (view off bytes : Nat) (data : Word) (s : State) : Host.Outcome State Fault Refusal :=
  nvmRow 2 view off bytes data s

/-- READ (R476). -/
def execNvmRead (view off bytes : Nat) (data : Word) (s : State) : Host.Outcome State Fault Refusal :=
  nvmRow 3 view off bytes data s

/-- BEGIN (R471). -/
def execNvmBegin (view off bytes : Nat) (data : Word) (s : State) : Host.Outcome State Fault Refusal :=
  nvmRow 4 view off bytes data s

/-- VERIFY (R465). -/
def execNvmVerify (view off bytes : Nat) (data : Word) (s : State) : Host.Outcome State Fault Refusal :=
  nvmRow 5 view off bytes data s

/-- SWITCH (R471). -/
def execNvmSwitch (view off bytes : Nat) (data : Word) (s : State) : Host.Outcome State Fault Refusal :=
  nvmRow 6 view off bytes data s

/-- NEXT_BOOT (R472). -/
def execNextBoot (view off bytes : Nat) (data : Word) (s : State) : Host.Outcome State Fault Refusal :=
  nvmRow 7 view off bytes data s

/-- NVM_END (R476). -/
def execNvmEnd (view off bytes : Nat) (data : Word) (s : State) : Host.Outcome State Fault Refusal :=
  nvmRow 8 view off bytes data s

/-- CFG_COMMIT (R470). -/
def execCfgCommit (view off bytes : Nat) (data : Word) (s : State) : Host.Outcome State Fault Refusal :=
  nvmRow 9 view off bytes data s

/-- KEY_LOAD (R463). -/
def execKeyLoad (view off bytes : Nat) (data : Word) (s : State) : Host.Outcome State Fault Refusal :=
  nvmRow 10 view off bytes data s

/-- ENROL (R462). -/
def execEnrol (view off bytes : Nat) (data : Word) (s : State) : Host.Outcome State Fault Refusal :=
  nvmRow 11 view off bytes data s

/-- RELEASE (R463). -/
def execNvmRelease (view off bytes : Nat) (data : Word) (s : State) : Host.Outcome State Fault Refusal :=
  nvmRow 12 view off bytes data s

/-- ATTEST (R474). -/
def execAttest (view off bytes : Nat) (data : Word) (s : State) : Host.Outcome State Fault Refusal :=
  nvmRow 13 view off bytes data s

/-- NVM_PROFILE_SEL_WRITE (R469). -/
def execNvmProfileSelWrite (view off bytes : Nat) (data : Word) (s : State) : Host.Outcome State Fault Refusal :=
  writeRow view off bytes data (covers off bytes Page.NVM 0x90) s

end Sys2Proof.Machine
end

