-- ==== Sys2Proof/Machine/Dump.lean ====
section
/-! DEFINITION. The crash dump (R422, R423). -/

namespace Sys2Proof.Machine

/-- A section before its header is made: kind, subject, gated, data. -/
structure Section where
  kind : Nat
  subject : Nat
  gated : Bool
  data : List Byte
deriving DecidableEq, Repr

/-- Pages of the map, in ascending order (R340). -/
def mappedPages : List Nat := pageMap.flatMap fun r => (List.range r.2.1).map (r.1 + ·)

/-- A page as the dump reads it: as the management view shows it, whether or not its domain is fenced. -/
def State.dumpPage (s : State) (page : Nat) : Section :=
  if s.gatedPage page then ⟨1, page, true, []⟩
  else ⟨1, page, false, (List.range 512).flatMap fun i => leBytes 8 (s.peek8 20 page (8 * i))⟩

/-- TILE_STATE, TILE_SEQ and TILE_VTILE of a tile (R92), and 4 bytes of 0. -/
def State.dumpTile (s : State) (tile : Nat) : List Byte :=
  let t := s.tile tile
  match t.running with
  | some r => leBytes 4 (t.state.code + 8 + s.handle r.1 * 2 ^ 16) ++ leBytes 4 r.2.1 ++ leBytes 4 (s.runOf r).h.vtile ++ leBytes 4 0
  | none => leBytes 4 t.state.code ++ leBytes 12 0

def State.dumpGroup (s : State) (g : Nat) : Section :=
  if s.gatedPage (Page.TILE + g) then ⟨2, g, true, []⟩
  else ⟨2, g, false, (List.range 256).flatMap fun i => s.dumpTile (256 * g + i)⟩

/-- A context table entry. -/
def State.dumpCtx (s : State) (c : Nat) : List Byte :=
  let x := s.ctx c
  leBytes 4 (s.handle c + x.st.code * 2 ^ 16 + x.deckle * 2 ^ 20 + x.lastStatus * 2 ^ 24) ++ leBytes 4 x.cursor ++
    leBytes 4 (x.marker.getD x.cursor) ++ leBytes 4 (min 0xFFFFFFFF x.overruns)

def State.dumpFault (s : State) (i : Nat) : List Byte :=
  match s.flog.get (fun _ => none) i with
  | some f => f.words.flatMap (leBytes 8)
  | none => leBytes 32 0

/-- The sections in their order. -/
def State.dumpSections (s : State) : List Section :=
  mappedPages.map s.dumpPage ++ (List.range 48).map s.dumpGroup ++ [
    ⟨3, 0, false, (List.range 1024).flatMap s.dumpCtx⟩,
    ⟨4, 0, false, (List.range 4096).flatMap s.dumpFault⟩,
    ⟨5, 0, false, s.broke.flatMap fun e => leBytes 8 e.words.1 ++ leBytes 8 e.words.2⟩,
    ⟨6, 0, false, (List.range 65536).map (Config.controlByte s.freeCtr)⟩]

/-- Where a section stops, when an access of it was not answered. -/
def Section.stop (unreachable : List (Nat × Nat × Nat)) (x : Section) : Option Nat :=
  if x.gated then none
  else (unreachable.find? fun u => u.1 == x.kind && u.2.1 == x.subject).map fun u => min u.2.2 x.data.length

/-- A section as written: 16-byte header, then what was read. -/
def Section.bytes (unreachable : List (Nat × Nat × Nat)) (x : Section) : List Byte :=
  let stop := x.stop unreachable
  let n := stop.getD x.data.length
  let status := if x.gated then 0x0A else if stop.isSome then 0x12 else 0
  leBytes 4 (x.kind + status * 2 ^ 8 + x.subject * 2 ^ 16) ++ leBytes 4 n ++ leBytes 8 (n % 2 ^ 16) ++ x.data.take n

/-- The dump: its header and sections. -/
def State.dumpBytes (s : State) (status tier : Nat) (unreachable : List (Nat × Nat × Nat)) : List Byte :=
  let ss := s.dumpSections
  let body := ss.flatMap fun x => x.bytes unreachable
  let bad := (ss.filter fun x => (x.stop unreachable).isSome).length
  leBytes 4 (1 + status * 2 ^ 8 + tier * 2 ^ 16) ++ leBytes 4 ss.length ++ leBytes 8 s.beatCount ++ leBytes 4 s.boots ++
    leBytes 4 (64 + body.length) ++ leBytes 4 bad ++ List.replicate 36 0 ++ body

/-- What follows a dump: a second one asked for meanwhile (R427), or the reset step of a tier that waited. -/
def State.afterDump (s : State) : State :=
  match s.rst.dumpAgain with
  | some h => (s.takeLock 8 0 h 0).modRst fun r => { r with dumping := some (0, 0), dumpAgain := none }
  | none => if s.rsState = rsDumping then s.enterReset else s

/-- DUMP_DONE (R422): the dump is held; a tier that waited for it goes on to its reset. `unreachable` names the sections
of which an access was not answered, each with the first offset not read. A second one asked for meanwhile is then taken (R427). -/
def execDumpDone (unreachable : List (Nat × Nat × Nat)) (s : State) : Host.Outcome State Fault Refusal :=
  guardUnit true <|
    match s.rst.dumping with
    | none => s
    | some (status, tier) =>
      let d := s.dumpBytes status tier unreachable
      let bad := (s.dumpSections.filter fun x => (x.stop unreachable).isSome).length
      let s1 := { s with rst := { s.rst with dump := d, dumping := none }, freeCtr := s.freeCtr + 1 }
      let s2 := ((s1.fset F.RSTCTL_DUMP_kib (ceilDiv d.length 1024)).fset F.RSTCTL_DUMP_unreach (min 0xFF bad)).fset
        F.RSTCTL_DUMP_valid 1
      ((s2.raise E.RSTCTL_dump).freeLock 8 0).afterDump

end Sys2Proof.Machine
end

