-- ==== Sys2Proof/Machine/Control.lean ====
section
/-! DEFINITION. The control units (R431-R441): state copies, heartbeats, takeover, handover, boot; and the end of a live
update (R471). The state of the slow paths is the model's one State, so a takeover or a handover loses and repeats nothing
(R437, R438). -/

namespace Sys2Proof.Machine

def unitOk (u : Nat) : Bool := decide (u < 2)

/-- A unit that has heartbeat paths to watch. -/
def State.alive (s : State) (u : Nat) : Bool :=
  s.bring.booted.contains u && (s.unit u == cuSync || s.unit u == cuStandby || s.unit u == cuActive)

/-! State copies (R433, R434). -/

/-- The copy of a beat not acknowledged, or bad (R434). -/
def State.copyFails (s : State) : State :=
  if s.unit s.standby ≠ cuStandby then s
  else
    let s1 := ((s.bump C.MGT_COPY_FAIL_CNT).raise E.MGT_copy_fail).cuEvent 3
    ({ s1 with ctl := { s1.ctl with stand := 0 } }).setUnit s1.standby cuSync |>.fset F.MGT_CU_couch_ok 0

/-- STATE_COPY (R433, R434): the copy of the beat that has just ended is applied and acknowledged; one with a bad CRC or
another beat number is a failure. -/
def execStateCopy (beat : Word) (crcOk : Bool) (s : State) : Host.Outcome State Fault Refusal :=
  guardUnit true <|
    if s.unit s.standby ≠ cuStandby then s
    else if crcOk ∧ beat.toNat + 1 = s.beatCount then
      ({ s with ctl := { s.ctl with copied := beat.toNat } }).fset F.MGT_CU_couch_ok 1
    else s.copyFails

/-- COPY_FAILURE (R434): an acknowledgement is missing. -/
def execCopyFailure (s : State) : Host.Outcome State Fault Refusal := guardUnit true s.copyFails

/-- An update is done (R471): the version record names the new region and the floor rises; the activity ends. -/
def State.endUpdate (s : State) : State :=
  let svn := fieldAt (s.unitHead s.active) 0x10 0 16
  let s1 := { s with nvm := { s.nvm with phase := .none, pointer := s.unitRegion s.active, wait := 0 } }
  let s2 := s1.fset F.NVM_STATE_floor (max svn (s.fget F.NVM_STATE_floor))
  (((s2.bump C.NVM_UPDATE_CNT).raise E.NVM_update_done).nvmResult 0).endActivity

/-- SYNC_COMPLETE (R434, R471): the standby holds a full copy and the copies since. -/
def execSyncComplete (s : State) : Host.Outcome State Fault Refusal :=
  guardUnit true <|
    if s.unit s.standby ≠ cuSync ∨ s.ctl.quiet.contains s.standby ∨ s.ctl.halted.contains s.standby then s
    else
      let s1 := (s.setUnit s.standby cuStandby).fset F.MGT_CU_couch_ok 1
      let s2 := { s1 with ctl := { s1.ctl with full := true, copied := s.beatCount - 1, stand := 0 } }
      match s2.nvm.phase with
      | .first => { s2 with nvm := { s2.nvm with phase := .handover } }
      | .second => if s2.unitRegion s2.standby = s2.unitRegion s2.active then s2.endUpdate else s2
      | _ => s2

/-! Heartbeats (R435, R436). -/

def State.ondieAge (s : State) (u : Nat) : Nat := if u = 0 then s.ctl.ondie.1 else s.ctl.ondie.2
def State.pinAge (s : State) (u : Nat) : Nat := if u = 0 then s.ctl.pin.1 else s.ctl.pin.2

def State.setAges (s : State) (u ondie pin : Nat) : State :=
  { s with ctl :=
      if u = 0 then { s.ctl with ondie := (ondie, s.ctl.ondie.2), pin := (pin, s.ctl.pin.2) }
      else { s.ctl with ondie := (s.ctl.ondie.1, ondie), pin := (s.ctl.pin.1, pin) } }

def State.pinUnknown (s : State) : Bool := decide (32 ≤ s.ctl.live)
def State.ondieSilent (s : State) (u : Nat) : Bool := decide (3 ≤ s.ondieAge u)
def State.pinSilent (s : State) (u : Nat) : Bool := !s.pinUnknown && decide (32 ≤ s.pinAge u)

/-- A unit falls silent on both paths: the standby's failure is counted now (R440), the active unit's at the takeover. -/
def State.noteQuiet (s : State) (u : Nat) : State :=
  let quiet := s.alive u && s.ondieSilent u && s.pinSilent u
  let others := s.ctl.quiet.filter fun v => v != u
  if !quiet then { s with ctl := { s.ctl with quiet := others } }
  else if s.ctl.quiet.contains u then s
  else
    let s1 := { s with ctl := { s.ctl with quiet := others ++ [u] } }
    if u = s.active then s1 else s1.unitFails u cuSync

/-- Exactly one path of a unit is silent, or its pin path is unknown (R436). -/
def State.oneSilent (s : State) (u : Nat) : Bool :=
  s.alive u && (s.pinUnknown || s.ondieSilent u != s.pinSilent u)

/-- What the heartbeats show (R436): MGT_HB, an episode of a single path, and whether a takeover is due. -/
def State.checkPaths (s : State) : State :=
  let p := s.standby
  let s1 := ((s.fset F.MGT_HB_ondie_age (min 0xFF (s.ondieAge p))).fset F.MGT_HB_pin_age (min 0xFF (s.pinAge p))).fset
    F.MGT_HB_pin_unknown (if s.pinUnknown then 1 else 0)
  let s2 := (s1.noteQuiet 0).noteQuiet 1
  let now := s2.oneSilent 0 || s2.oneSilent 1
  let s3 := s2.when (now && !s2.ctl.single) fun s => ((s.raise E.MGT_hb_single).bump C.MGT_HB_SINGLE_CNT).cuEvent 2
  { s3 with ctl := { s3.ctl with single := now, change := s3.ctl.quiet.contains s3.active } }

/-- PIN_PATH_SILENT (R435): no LIVENESS of those that arrived has shown a toggle of the unit's pin for 32 bt. -/
def execPinPathSilent (unit : Nat) (s : State) : Host.Outcome State Fault Refusal :=
  guardUnit (unitOk unit) (if s.pinUnknown then s else (s.setAges unit (s.ondieAge unit) (max 32 (s.pinAge unit))).checkPaths)

/-- A boundary for one unit: its counter has changed unless it stands still, and its pin toggles with a running unit at every
beat number that is a multiple of 16. -/
def State.beatUnit (s : State) (silent : List Nat) (u : Nat) : State :=
  let runs := s.alive u && !silent.contains u && !s.ctl.halted.contains u
  let s1 := s.setAges u (if runs || !s.alive u then 0 else s.ondieAge u + 1) (s.pinAge u + 1)
  if runs ∧ s.beatCount % 16 = 0 then
    { s1 with ctl := if u = 0 then { s1.ctl with hba := !s1.ctl.hba } else { s1.ctl with hbb := !s1.ctl.hbb } }
  else s1

/-- The heartbeats at a boundary, and the counts in bt of the control complex (R435, R440, R441, R471). -/
def State.beatUnits (s : State) (silent : List Nat) : State :=
  let s1 := (s.beatUnit silent 0).beatUnit silent 1
  let stand := if s1.active = 1 ∧ s1.unit 0 = cuStandby then s1.ctl.stand + 1 else 0
  let s2 := { s1 with
    ctl := { s1.ctl with
      live := s1.ctl.live + 1, stand, isle := s1.ctl.isle.map fun (x : Nat × Nat) => (x.1, x.2 - 1) }
    nvm := { s1.nvm with wait := s1.nvm.wait - 1 } }
  s2.checkPaths

/-! Takeover and handover (R437, R439, R441). -/

/-- The other unit is active from now on. -/
def State.swapUnits (s : State) : State :=
  let u := s.standby
  ((s.fset F.MGT_CU_active u).setUnit u cuActive).showFirmware

/-- A switch before its handover ends with a takeover (R475); the unit that is active now keeps what it runs. -/
def State.dropSwitch (s : State) : State :=
  if s.nvm.phase = .first ∨ s.nvm.phase = .handover then
    let s1 := { s with nvm := { s.nvm with phase := .none } }
    (((s1.nvmResult 0x03).bump C.NVM_ABANDON_CNT).raise E.NVM_update_abandoned).endActivity
  else s

/-- A takeover (R437): counted and shown; the silent unit has lost the ring, and its island is reset 64 bt later (R440). -/
def State.takeover (s : State) : State :=
  let old := s.active
  let s1 := s.swapUnits.unitFails old cuSync
  let isle : Option (Nat × Nat) := if s1.unit old = cuFailed then none else some (old, 64)
  let s2 : State := { s1 with ctl := { s1.ctl with full := false, change := false, stand := 0, isle } }
  let s3 := ((s2.bump C.MGT_TAKEOVER_CNT).raise E.MGT_takeover).cuEvent 0
  (s3.logFault Page.MGT (s3.faultRec Page.MGT 0 0x1F 0 0 0)).dropSwitch

/-- The active unit is silent (R437, R439): the standby takes over, from SYNC with package recovery; one that holds no full
copy cannot. With no standby nothing happens (R452). -/
def State.activeSilent (s : State) : State :=
  let b := s.standby
  if s.unit b = cuOff ∨ s.unit b = cuFailed ∨ s.ctl.quiet.contains b then s
  else if s.unit b = cuStandby then s.takeover
  else if s.unit b = cuSync ∧ s.ctl.full then s.takeover.startPkg 7 0 byModule
  else s.fail

/-- The standby becomes active with no replay (R441); the old active unit is in STANDBY. A handover to A is counted. -/
def State.handover (s : State) : State :=
  let old := s.active
  let s1 := s.swapUnits.setUnit old cuStandby
  let s2 := { s1 with ctl := { s1.ctl with full := true, stand := 0 } }
  (s2.when (old == 1) fun s => (s.bump C.MGT_FAILBACK_CNT).raise E.MGT_failback).cuEvent 1

/-- A lock of one of the classes is held. -/
def State.anyLock (s : State) (cs : List Nat) : Bool := s.locks.any fun l => cs.contains l.cls

/-- Step 4 of a boundary (R22): a takeover, the update's own handover, or one back to A. -/
def State.controlStep (s : State) : State :=
  if s.ctl.change then s.activeSilent
  else if s.unit s.standby ≠ cuStandby then s
  else if s.nvm.phase = .handover then
    if s.anyLock [6, 7] then s
    else
      let s1 := s.handover
      { s1 with nvm := { s1.nvm with phase := .second, wait := 64 } }
  else if s.active = 1 ∧ 4096 ≤ s.ctl.stand ∧ !s.anyLock [5, 6, 7, 8] then s.handover
  else s

/-! Islands and BOOT (R440, R466, R484-R487). -/

/-- ISLAND_RESET (R440): 64 bt after a takeover the silent unit's island is reset. -/
def execIslandReset (unit : Nat) (s : State) : Host.Outcome State Fault Refusal :=
  guardUnit (unitOk unit) <|
    if s.ctl.isle ≠ some (unit, 0) ∨ s.unit unit = cuFailed then s
    else
      let s1 := ({ s with ctl := { s.ctl with isle := none, quiet := s.ctl.quiet.filter fun u => u != unit } }).setUnit unit cuBoot
      (s1.setAges unit 0 0).when (unit == s.standby) fun s => { s with ctl := { s.ctl with full := false } }

/-- The region a unit boots (R466): the one it is to run, the other, or the recovery firmware (2). -/
def bootRegion (want : Nat) (b : BootResult) : Nat :=
  let ok (r : Nat) : Bool := if r = 0 then b.regionAOk else b.regionBOk
  if want = 2 then 2 else if ok want then want else if ok (1 - want) then 1 - want else 2

/-- A unit has loaded a region; one that failed R465 is counted and raised. -/
def State.loadRegion (s : State) (unit want : Nat) (b : BootResult) : State :=
  let r := bootRegion want b
  let h := if r = 2 then Config.recoveryHeader else b.header
  let s1 := s.setUnitRegion unit r
  let s2 := { s1 with nvm := if unit = 0 then { s1.nvm with headA := h } else { s1.nvm with headB := h } }
  let n := if r = want then 0 else if r = 2 then 2 else 1
  (s2.bumpBy C.NVM_VERIFY_FAIL_CNT n).when (n != 0) (·.raise E.NVM_verify_fail)

/-- The factory entries of the broke map that it does not hold. -/
def State.addFactory (s : State) (l : List (Nat × Nat)) : State :=
  let new := (l.filter fun e => !(s.broke.any fun x => x.kind == e.1 && x.loc == e.2)).map fun e =>
    (⟨e.1, e.2, true, true, 0, 0, 0⟩ : Broke)
  { s with broke := (s.broke ++ new).mergeSort Broke.before }

/-- What BOOT reads of the stored image at power-on, whichever unit ends it first (R457, R461, R467, R468, R487): the version
record, the key table, the broke map, the configuration and the whole of the selected profile. -/
def State.loadImage (s : State) (unit : Nat) (b : BootResult) : State :=
  let svn := fieldAt (s.unitHead unit) 0x10 0 16
  let s1 := if b.verRecordOk then s
    else ({ s with nvm := { s.nvm with pointer := s.unitRegion unit % 2 } }).fset F.NVM_STATE_floor svn
      |>.fset F.NVM_STATE_ver_rebuilt 1
  let s2 := if b.keysOk then s1 else { s1 with nvm := { s1.nvm with keys := KeyTable.reset } }
  let s3 := s2.fset F.NVM_STATE_enrolled (if s2.nvm.keys.enrolled then 1 else 0)
  let s4 := if b.mapOk then { s3 with broke := s3.nvm.mapCopy } else s3.fset F.NVM_STATE_map_lost 1
  let s5 := ((s4.addFactory b.factoryMap).applyMap.showStacks memOff).showPorts.loadConfig
  let s6 := s5.samplePins.applyPkg.applyLive
  (s6.fset F.CALENDER_CAP_cap_w s6.lowestCap.1).fset F.CALENDER_CAP_source s6.lowestCap.2

/-- Unit `u` is ACTIVE at power-on and bring-up goes on (R466, R484): RAIL_REQ, or BYPASS, or recovery firmware. -/
def State.activate (s : State) (u : Nat) : State :=
  let s1 := ((s.fset F.MGT_CU_active u).setUnit u cuActive).showFirmware
  let ask (s : State) (mask : Nat) : State := (s.fset F.MGT_RAILS_req mask).duntus 0x06 [BitVec.ofNat 8 mask]
  if s1.unitRegion u = 2 then s1.fset F.RSTCTL_BRINGUP_phase 6
  else if recBypass s1.profile = 1 then ask (s1.fset F.RSTCTL_BRINGUP_phase 5) 0x3
  else ask (s1.fset F.RSTCTL_BRINGUP_phase 1) 0xF

/-- Unit A has missed the bound of its BOOT at power-on. -/
def State.lateA (s : State) : Bool := s.unit 0 == cuBoot || s.unit 0 == cuFailed

/-- B becomes ACTIVE in place of A at power-on (R486): A's island is reset as after a takeover. -/
def State.activateB (s : State) : State :=
  let s1 := s.activate 1
  { s1 with ctl := { s1.ctl with isle := if s1.unit 0 = cuFailed then none else some (0, 64) } }

/-- A unit ends its BOOT at power-on. -/
def State.bootUp (s : State) (unit : Nat) (b : BootResult) : State :=
  if !b.factoryOk then s.failUp 1 0x08
  else if !b.pufOk then s.failUp 2 0x08
  else
    let first := s.bring.booted.isEmpty
    let s1 := (s.loadRegion unit s.nvm.pointer b).when first (·.loadImage unit b)
    let s2 := { s1 with bring := { s1.bring with booted := s1.bring.booted ++ [unit] } }
    if unit = 0 then
      if s2.fget F.RSTCTL_BRINGUP_phase = 0 then s2.activate 0 else (s2.setUnit 0 cuSync).setAges 0 0 0
    else
      let s3 := (s2.setUnit 1 cuSync).setAges 1 0 0
      if s3.fget F.RSTCTL_BRINGUP_phase = 0 ∧ s3.lateA then s3.activateB else s3

/-- The first BOOT of a unit since power-on is in progress. -/
def State.inFirstBoot (s : State) (unit : Nat) : Bool :=
  s.bring.powered && !s.bring.booted.contains unit && !(s.fget F.RSTCTL_BRINGUP_phase == 7)

/-- UNIT_BOOT_DONE (R466, R439): a unit's firmware is loaded and verified. -/
def execUnitBootDone (unit : Nat) (b : BootResult) (s : State) : Host.Outcome State Fault Refusal :=
  guardUnit (unitOk unit) <|
    if s.inFirstBoot unit ∧ s.unit unit ≠ cuFailed then s.bootUp unit b
    else if s.unit unit ≠ cuBoot ∧ s.unit unit ≠ cuUpdating then s
    else if s.unit unit = cuUpdating ∧ bootRegion (s.unitRegion unit) b ≠ s.unitRegion unit then s
    else
      let s1 := (s.loadRegion unit (s.unitRegion unit) b).setUnit unit cuSync
      ({ s1 with ctl := { s1.ctl with full := false } }).setAges unit 0 0

/-- BOOT_TIMEOUT (R440, R486): a unit is not through BOOT within 1.5 s. A first unit of an update is left to
UPDATE_ABANDON (R472); the second does not hold the update up. -/
def execBootTimeout (unit : Nat) (s : State) : Host.Outcome State Fault Refusal :=
  guardUnit (unitOk unit) <|
    if s.inFirstBoot unit ∧ s.fget F.RSTCTL_BRINGUP_phase = 0 then
      let s1 := s.unitFails unit cuBoot
      if s1.bring.booted.contains 1 ∧ unit = 0 then s1.activateB
      else if s1.lateA ∧ unit = 1 then s1.failUp 3 0x03
      else s1
    else if s.unit unit = cuUpdating then
      if s.nvm.phase = .second then (s.unitFails unit cuBoot).endUpdate else s
    else if s.unit unit = cuBoot then s.unitFails unit cuBoot
    else s

end Sys2Proof.Machine
end

