-- ==== Sys2Proof/Machine/Mgmt.lean ====
section
/-! DEFINITION. The management port: Duntus messages (R443-R451), MCTP control messages and I3C common command codes
(R442), and the slack report (R391). -/

namespace Sys2Proof.Machine

/-! Receiving a Duntus message (R443-R445). -/

/-- Message codes the board controller sends (R445). -/
def duntusCodes : List Nat :=
  [0x01, 0x02, 0x03, 0x04, 0x05, 0x10, 0x11, 0x20, 0x21, 0x24, 0x30, 0x31, 0x40, 0x41, 0x42]

/-- A header without reserved codes or fields. -/
def duntusHeadOk (h : DHdr) : Bool :=
  h.ver == 1 && duntusCodes.contains h.code && !h.resp && !h.event && h.rsv == 0 && h.status == 0

/-- A message is a repeat: its seq is not after that of the last one accepted (R444). -/
def State.repeated (s : State) (h : DHdr) : Bool :=
  match s.mgt.rxSeq.get (fun _ => none) h.src with
  | none => false
  | some q =>
    let d := (h.seq % 2 ^ 16 + 2 ^ 16 - q % 2 ^ 16) % 2 ^ 16
    d == 0 || decide (2 ^ 15 ≤ d)

/-- A response: it repeats the request's code and seq. -/
def State.respond (s : State) (h : DHdr) (status : Nat) (body : List Byte := []) : State :=
  s.emit (.duntus h.src h.code true false status h.seq body)

/-- BOOT has ended: Duntus messages are answered (R496). -/
def State.answers (s : State) : Bool := s.bring.powered && s.fget F.RSTCTL_BRINGUP_phase != 0

def State.mgtSession (s : State) : Bool := (s.session 20).opened

/-- A Duntus message: before BOOT ends INVALID; a repeat is discarded; a malformed one is INVALID; one that needs a session
without one AUTH_FAIL; else it has its effect. -/
def State.receive (s : State) (h : DHdr) (code : Nat) (isOpen lenOk : Bool) (f : State → State) : State :=
  if !s.bring.powered then s
  else if !s.answers then s.respond h 0x0B
  else if s.repeated h then s.bump C.MGT_MSG_ERR_CNT
  else if !duntusHeadOk h ∨ h.code ≠ code ∨ !lenOk then (s.bump C.MGT_MSG_ERR_CNT).respond h 0x0B
  else
    let s1 := { s with mgt := { s.mgt with rxSeq := s.mgt.rxSeq.set (fun _ => none) h.src (some (h.seq % 2 ^ 16)) } }
    if !isOpen && !s1.mgtSession then s1.respond h 0x08 else f s1

/-- The inbox takes a message that no unit can work on now (R431, R452); `f` is what a running unit does with it. -/
def State.orInbox (s : State) (i : Waiting) (f : State → State) : State :=
  if s.answers && !s.controlRuns then { s with mgt := { s.mgt with inbox := s.mgt.inbox ++ [(i, s.beatCount, s.ms)] } } else f s

/-- A row of one message code, the message `i`; the length of the body agrees with the header. -/
def mgtRow (code : Nat) (isOpen : Bool) (h : DHdr) (i : Waiting) (f : State → State) (s : State) : Host.Outcome State Fault Refusal :=
  guardUnit true (s.orInbox i fun s => s.receive h code isOpen true f)

/-- MALFORMED_DUNTUS_MESSAGE (R443, R444): `bodyLen` is the length of the body received. -/
def execMalformedDuntusMessage (h : DHdr) (bodyLen : Nat) (s : State) : Host.Outcome State Fault Refusal :=
  guardUnit true <| s.orInbox (.malformedDuntusMessage h bodyLen) fun s =>
    if duntusHeadOk h ∧ h.len = bodyLen ∧ bodyLen ≤ 4096 ∧ !s.repeated h ∧ s.answers then s
    else s.receive h h.code true (decide (h.len = bodyLen ∧ bodyLen ≤ 4096)) id

/-! The management session (R445). -/

/-- MGT_SESSION_NONCE (R445, R315). -/
def execMgtSessionNonce (h : DHdr) (nonce : List Byte) (s : State) : Host.Outcome State Fault Refusal :=
  mgtRow 0x01 true h (.mgtSessionNonce h nonce) (fun s => (s.issueNonce 20 nonce).respond h 0 nonce) s

/-- MGT_SESSION_OPEN (R445, R315, R316): link byte 0xFF, deckle byte 0xFE. -/
def execMgtSessionOpen (h : DHdr) (tag : List Byte) (s : State) : Host.Outcome State Fault Refusal :=
  mgtRow 0x02 true h (.mgtSessionOpen h tag) (fun s =>
    if (s.session 20).opened then s.respond h 0x07
    else
      match s.nonceFor 20 0xFF 0xFE tag with
      | some n =>
        let s1 := s.openSession 20 n
        ({ s1 with mgt := { s1.mgt with opener := h.src } }).respond h 0
      | none => (s.authFail 20).respond h 0x08) s

/-- MGT_SESSION_CLOSE (R445). -/
def execMgtSessionClose (h : DHdr) (s : State) : Host.Outcome State Fault Refusal :=
  mgtRow 0x03 false h (.mgtSessionClose h) (fun s => (s.endSession 20).respond h 0) s

/-! Status and heartbeats. -/

/-- A register as the management view reads it, in 4 bytes. -/
def State.word4 (s : State) (page off : Nat) : List Byte := leBytes 4 (s.readReg 20 page off)

/-- STATUS_GET (R445). -/
def execStatusGet (h : DHdr) (s : State) : Host.Outcome State Fault Refusal :=
  mgtRow 0x04 true h (.statusGet h) (fun s => s.respond h 0
    (s.word4 Page.RSTCTL 0x80 ++ s.word4 Page.MGT 0x80 ++ s.word4 Page.MGT 0x90 ++ s.word4 Page.CALENDER 0x80 ++
      s.word4 Page.CALENDER 0x88)) s

/-- LIVENESS (R435): no response. The heartbeats are watched whether or not a unit runs. -/
def execLiveness (h : DHdr) (hba hbb : Bool) (s : State) : Host.Outcome State Fault Refusal :=
  guardUnit true (s.receive h 0x05 true true fun s =>
    let s1 := (s.when hba fun s => s.setAges 0 (s.ondieAge 0) 0).when hbb fun s => s.setAges 1 (s.ondieAge 1) 0
    ({ s1 with ctl := { s1.ctl with live := 0 } }).checkPaths)

/-! Registers. -/

/-- REG_READ (R445). -/
def execRegRead (h : DHdr) (off bytes : Nat) (s : State) : Host.Outcome State Fault Refusal :=
  mgtRow 0x10 false h (.regRead h off bytes) (fun s =>
    let r := s.regRead 20 (off % 2 ^ 25) bytes
    match r.1 with
    | .inl v => r.2.respond h 0 (leBytes bytes v)
    | .inr e => r.2.respond h e) s

/-- REG_WRITE (R445). -/
def execRegWrite (h : DHdr) (off bytes : Nat) (data : Word) (s : State) : Host.Outcome State Fault Refusal :=
  mgtRow 0x11 false h (.regWrite h off bytes data) (fun s =>
    let r := s.regWrite 20 (off % 2 ^ 25) bytes data.toNat
    r.2.respond h (r.1.getD 0)) s

/-! Caps and reports (R448, R449). -/

/-- CAP_SET (R448, R379). -/
def execCapSet (h : DHdr) (capW : Nat) (clear : Bool) (s : State) : Host.Outcome State Fault Refusal :=
  mgtRow 0x20 false h (.capSet h capW clear) (fun s =>
    if clear then ((s.fset F.CALENDER_CAP_rack_w 0).updateCap).respond h 0
    else if capW < 600 ∨ 3400 < capW then s.respond h 0x0B
    else ((s.fset F.CALENDER_CAP_rack_w capW).updateCap).respond h 0) s

/-- POWER_REPORT_GET (R445): the peak is read and cleared. -/
def execPowerReportGet (h : DHdr) (s : State) : Host.Outcome State Fault Refusal :=
  mgtRow 0x21 true h (.powerReportGet h) (fun s =>
    (s.fset F.CALENDER_PEAK_peak_w 0).respond h 0
      (s.word4 Page.CALENDER 0x8C ++ s.word4 Page.CALENDER 0x90 ++ s.word4 Page.CALENDER 0x80 ++
        leBytes 1 (s.fget F.CALENDER_STATE_mode))) s

/-- SLACK_REPORT (R391): the interval has run; the report is shown, sent and begun anew. Of no step the spec states neither
the least nor the mean slack: both are free values. -/
def execSlackReport (s0 : State) : Host.Outcome State Fault Refusal :=
  guardUnit true <|
    let n := s0.fget F.CALENDER_SLACK_CFG_interval
    if n = 0 ∨ s0.cal.slackAge < n then s0
    else
      let k := s0.cal
      let f := s0.free
      let s := if k.slackN = 0 then f.2 else s0
      let any := (Config.freeWord f.1).toNat
      let least := if k.slackN = 0 then any % 2 ^ 32 else min 0xFFFFFFFF k.slackMin
      let mean := if k.slackN = 0 then any / 2 ^ 32 else min 0xFFFFFFFF (k.slackSum / k.slackN)
      let s1 := (s.fset F.CALENDER_SLACK_min_cyc least).fset F.CALENDER_SLACK_mean_cyc mean
      let s2 := (s1.fset F.CALENDER_SLACK_N_steps (min 0xFFFF k.slackN)).fset F.CALENDER_SLACK_N_idle (min 0xFFFF k.slackIdle)
      let body := leBytes 4 least ++ leBytes 4 mean ++ leBytes 4 k.slackN ++ leBytes 4 k.slackIdle ++ leBytes 4 k.slackOver ++
        leBytes 1 (s.fget F.CALENDER_STATE_mode) ++ leBytes 2 s.cap ++ leBytes 2 (s.fget F.CALENDER_PWR_avg_w)
      let z := Cal.reset
      ({ s2 with cal := { s2.cal with
          slackMin := z.slackMin, slackSum := 0, slackN := 0, slackIdle := 0, slackOver := 0, slackAge := 0 } }).duntusEvent 0x22 body

/-! Power-off (R450). -/

/-- POWEROFF_NOTICE (R450): the grace period starts, once. -/
def execPoweroffNotice (h : DHdr) (s : State) : Host.Outcome State Fault Refusal :=
  mgtRow 0x24 true h (.poweroffNotice h) (fun s =>
    if s.flag F.MGT_OFF_pending then s.respond h 0
    else
      let s1 := (s.fset F.MGT_OFF_pending 1).fset F.MGT_OFF_remaining_ms (1000 * s.fget F.MGT_OFF_grace_s)
      let s2 := ({ s1 with mgt := { s1.mgt with grace := true } }).raiseTo E.MGT_poweroff_notice []
      (s2.respond h 0).tryPoweroff) s

/-- POWEROFF_GRACE_END (R450): the grace period has run out. -/
def execPoweroffGraceEnd (s : State) : Host.Outcome State Fault Refusal :=
  guardUnit true
    (if s.mgt.grace ∧ !s.flag F.MGT_OFF_ready ∧ s.fget F.MGT_OFF_remaining_ms = 0 ∧ s.controlRuns then s.sendPoweroffReady true else s)

/-! The plan (R445). -/

/-- A plan comes into force, or goes. BEAT_ALIGN.hops and BEAT_ALIGN.port then keep the last source's values, for which the spec gives
none once no source is selected (DESIGN CHOICE, log 101). -/
def State.putPlan (s : State) (pl : Option Plan) : State :=
  let old := s.plan
  let s1 := { s with plan := pl }
  let s2 := match pl with
    | some p => ([0, 1].filter s1.iodFitted |> fun ds => s1.each ds fun s i => s.planRouter i p).planBeat p
    | none =>
      let s2 := s1.each ([0, 1].filter s1.iodFitted) fun s i => s.setReg 0 (Page.ROUTE + i) 0x80 0xFFFF
      ((s2.fset F.BEAT_ALIGN_state 0).fset F.BEAT_CFG_master 0).fset F.BEAT_ALIGN_master_id 0
  (s2.planPorts pl).planTrain old pl

/-- PLAN_DELIVER (R445): segments follow one another from offset 0, where a new delivery begins; the last one decides. -/
def execPlanDeliver (h : DHdr) (offset total len : Nat) (last : Bool) (plan : Plan) (s : State) :
    Host.Outcome State Fault Refusal :=
  mgtRow 0x30 false h (.planDeliver h offset total len last plan) (fun s =>
    let got := if offset = 0 then some (0, total) else s.mgt.plan
    let next : Option (Nat × Nat) := match got with
      | some (n, t) => if n = offset ∧ t = total ∧ offset + len ≤ total then some (offset + len, total) else none
      | none => none
    if !last then { s with mgt := { s.mgt with plan := next } }
    else
      let s1 := { s with mgt := { s.mgt with plan := none } }
      if next ≠ some (total, total) then s1.respond h 0x0B
      else
        let st := s1.planStatus plan
        if st ≠ 0 then s1.respond h st else (s1.putPlan (some plan)).respond h 0) s

/-- PLAN_WITHDRAW (R445, R35): of the plan held. -/
def execPlanWithdraw (h : DHdr) (planSeq : Nat) (s : State) : Host.Outcome State Fault Refusal :=
  mgtRow 0x31 false h (.planWithdraw h planSeq) (fun s =>
    match s.plan with
    | some p => if p.planSeq = planSeq then (s.putPlan none).respond h 0 else s.respond h 0x0B
    | none => s.respond h 0x0B) s

/-! Resets and dumps (R445, R422). -/

/-- RESET_REQ (R445, R491): 0 compute-domain reset, 1 package recovery. -/
def execResetReq (h : DHdr) (kind : Nat) (s : State) : Host.Outcome State Fault Refusal :=
  mgtRow 0x40 false h (.resetReq h kind) (fun s =>
    if 2 ≤ kind then s.respond h 0x0B
    else if s.tierBarred then s.respond h 0x09
    else
      let r := s.askTier (kind == 1) 9 (holderOf 20)
      if r.2 then r.1.respond h 0 else r.1.lockBusy.respond h 0x07) s

/-- DUMP_REQ (R422). -/
def execDumpReq (h : DHdr) (s : State) : Host.Outcome State Fault Refusal :=
  mgtRow 0x41 false h (.dumpReq h) (fun s =>
    let r := s.askDump (holderOf 20)
    if r.2 then r.1.respond h 0 else r.1.lockBusy.respond h 0x07) s

/-- DUMP_READ (R445): bytes past the dump read 0. -/
def execDumpRead (h : DHdr) (word len : Nat) (s : State) : Host.Outcome State Fault Refusal :=
  mgtRow 0x42 false h (.dumpRead h word len) (fun s =>
    if 4096 < len then s.respond h 0x0B else s.respond h 0 (fit len (s.rst.dump.drop (8 * word)))) s

/-! The inbox (R431, R437, R452). -/

/-- The state that a unit's work on a message leaves. -/
def after (s : State) : Host.Outcome State Fault Refusal → State
  | .next t => t
  | .fault _ => s
  | .refused _ => s

/-- A unit works on a message of the inbox. -/
def State.work (s : State) : Waiting → State
  | .malformedDuntusMessage h n => after s (execMalformedDuntusMessage h n s)
  | .mgtSessionNonce h n => after s (execMgtSessionNonce h n s)
  | .mgtSessionOpen h t => after s (execMgtSessionOpen h t s)
  | .mgtSessionClose h => after s (execMgtSessionClose h s)
  | .statusGet h => after s (execStatusGet h s)
  | .regRead h o n => after s (execRegRead h o n s)
  | .regWrite h o n d => after s (execRegWrite h o n d s)
  | .capSet h c x => after s (execCapSet h c x s)
  | .powerReportGet h => after s (execPowerReportGet h s)
  | .poweroffNotice h => after s (execPoweroffNotice h s)
  | .planDeliver h o t l x p => after s (execPlanDeliver h o t l x p s)
  | .planWithdraw h n => after s (execPlanWithdraw h n s)
  | .resetReq h k => after s (execResetReq h k s)
  | .dumpReq h => after s (execDumpReq h s)
  | .dumpRead h w n => after s (execDumpRead h w n s)

/-- As `work`, of a message that has waited since a millisecond: a grace period runs from its notice's arrival (R452). -/
def State.workLate (s : State) (i : Waiting) (ms : Nat) : State :=
  let t := s.work i
  t.when (t.mgt.grace && !s.mgt.grace) fun t =>
    t.fset F.MGT_OFF_remaining_ms (t.fget F.MGT_OFF_remaining_ms - (t.ms - ms))

/-- The messages that have waited, in their order, by the unit that has taken over (R437). -/
def State.backlog (s : State) : State :=
  if s.mgt.inbox.isEmpty ∨ !s.controlRuns then s
  else ({ s with mgt := { s.mgt with inbox := [] } }).each s.mgt.inbox fun s e => s.workLate e.1 e.2.2

/-! MCTP control messages (R442); the answers follow DSP0236 (PRESUMED). -/

/-- An answer of the management port, once it is powered. -/
def portRow (code : Nat) (body : List Byte) (s : State) : Host.Outcome State Fault Refusal :=
  guardUnit true (s.when s.bring.powered (·.emit (.mctp code body)))

/-- SET_ENDPOINT_ID (R442, R444): the kept seq is cleared. -/
def execSetEndpointId (eid src : Nat) (s : State) : Host.Outcome State Fault Refusal :=
  guardUnit true <|
    if !s.bring.powered then s
    else if eid = 0 ∨ 0xFF ≤ eid then s.emit (.mctp 0x01 [0x02, 0, BitVec.ofNat 8 (s.fget F.MGT_I3C_eid), 0])
    else
      let s1 := { s with mgt := { s.mgt with assigner := src, rxSeq := s.mgt.rxSeq.set (fun _ => none) src none } }
      (s1.fset F.MGT_I3C_eid eid).emit (.mctp 0x01 [0, 0, BitVec.ofNat 8 eid, 0])

/-- GET_ENDPOINT_ID (R442). -/
def execGetEndpointId (s : State) : Host.Outcome State Fault Refusal :=
  portRow 0x02 [0, BitVec.ofNat 8 (s.fget F.MGT_I3C_eid), 0, 0] s

/-- GET_MCTP_VERSION_SUPPORT (R442): version 1.3. -/
def execGetMctpVersionSupport (s : State) : Host.Outcome State Fault Refusal :=
  portRow 0x04 [0, 1, 0xF1, 0xF3, 0xFF, 0] s

/-- GET_MESSAGE_TYPE_SUPPORT (R442): types 0x00 and 0x7E. -/
def execGetMessageTypeSupport (s : State) : Host.Outcome State Fault Refusal := portRow 0x05 [0, 2, 0x00, 0x7E] s

/-- GET_VENDOR_MESSAGE_SUPPORT (R442): the enterprise number of MGT_ID, most significant byte first. -/
def execGetVendorMessageSupport (s : State) : Host.Outcome State Fault Refusal :=
  portRow 0x06 ([0, 0xFF, 1] ++ (leBytes 4 (s.readReg 20 Page.MGT 0x94)).reverse ++ [0, 0]) s

/-! I3C common command codes (R442). -/

/-- ENEC (R442). -/
def execEnec (events : Byte) (s : State) : Host.Outcome State Fault Refusal :=
  guardUnit true (s.when s.bring.powered fun s => { s with mgt := { s.mgt with events := s.mgt.events ||| events.toNat } })

/-- DISEC (R442). -/
def execDisec (events : Byte) (s : State) : Host.Outcome State Fault Refusal :=
  guardUnit true (s.when s.bring.powered fun s =>
    { s with mgt := { s.mgt with events := s.mgt.events &&& (255 - events.toNat) } })

/-- RSTDAA (R442). -/
def execRstdaa (s : State) : Host.Outcome State Fault Refusal :=
  guardUnit true (s.when s.bring.powered fun s => (s.fset F.MGT_I3C_addr_valid 0).fset F.MGT_I3C_dyn_addr 0)

/-- ENTDAA (R442): a target without an address takes the one assigned. -/
def execEntdaa (addr : Nat) (s : State) : Host.Outcome State Fault Refusal :=
  guardUnit true (s.when (s.bring.powered && !s.flag F.MGT_I3C_addr_valid) fun s =>
    (s.fset F.MGT_I3C_addr_valid 1).fset F.MGT_I3C_dyn_addr addr)

/-- SETMWL (R442). -/
def execSetmwl (len : Nat) (s : State) : Host.Outcome State Fault Refusal :=
  guardUnit true (s.when s.bring.powered fun s => { s with mgt := { s.mgt with mwl := len % 2 ^ 16 } })

/-- SETMRL (R442). -/
def execSetmrl (len : Nat) (s : State) : Host.Outcome State Fault Refusal :=
  guardUnit true (s.when s.bring.powered fun s => { s with mgt := { s.mgt with mrl := len % 2 ^ 16 } })

/-- GETPID (R442). -/
def execGetpid (s : State) : Host.Outcome State Fault Refusal :=
  portRow 0x8D (leBytes 6 Config.provisionedId).reverse s

/-- GETBCR (R442): in-band interrupts with a mandatory byte, no HDR mode (PRESUMED, MIPI I3C Basic). -/
def execGetbcr (s : State) : Host.Outcome State Fault Refusal := portRow 0x8E [0x06] s

/-- GETDCR (R442): an MCTP endpoint (PRESUMED, DSP0233). -/
def execGetdcr (s : State) : Host.Outcome State Fault Refusal := portRow 0x8F [0xCC] s

/-- GETSTATUS (R442): the spec gives no field of the answer, so both bytes are free. -/
def execGetstatus (s : State) : Host.Outcome State Fault Refusal :=
  let f := s.free
  if s.bring.powered then portRow 0x90 (leBytes 2 (Config.freeWord f.1).toNat) f.2 else guardUnit true s

/-- GETMWL (R442). -/
def execGetmwl (s : State) : Host.Outcome State Fault Refusal := portRow 0x8B (leBytes 2 s.mgt.mwl).reverse s

/-- GETMRL (R442). -/
def execGetmrl (s : State) : Host.Outcome State Fault Refusal := portRow 0x8C (leBytes 2 s.mgt.mrl).reverse s

end Sys2Proof.Machine
end

