-- ==== Sys2Proof/Machine/BringUp.lean ====
section
/-! DEFINITION. Power, rails and bring-up (R446, R447, R479-R500), and memory training as bring-up and package recovery run it
(R210, R416). -/

namespace Sys2Proof.Machine

/-! Power (R412, R413, R479, R499). -/

/-- What a module without power keeps: the capability fields that R24 fixes at manufacture, the NOR device, hard repairs of its
stacks, and the levels of pins the outside holds. The model keeps what it has sent out and its free counter. -/
def State.cold (s : State) : State :=
  { State.reset with
    regs := s.regs.clear fun k => !manufactured k
    pending := s.pending, out := s.out, freeCtr := s.freeCtr, boots := s.boots
    stackTab := s.stackTab.mapVals (fun _ => Stack.reset) fun _ (x : Stack) =>
      { Stack.reset with repaired := x.repaired, unrepaired := x.unrepaired, moved := x.moved }
    nvm := { Nvm.reset with
      nor := s.nvm.nor, keys := s.nvm.keys, mapCopy := s.nvm.mapCopy, pointer := s.nvm.pointer }
    bring := { Bring.reset with perst := s.bring.perst } }

/-- Pages of the control complex, which are never gated (R340). -/
def controlPages : List Nat := List.range 7

/-- POWER_ON (R479, R486, R487): STBY_EN is asserted; both units boot. `sel1` and `sel0` are the profile pins. -/
def execPowerOn (sel1 sel0 : Bool) (s : State) : Host.Outcome State Fault Refusal :=
  guardUnit true <|
    if s.bring.powered then s
    else
      let c := s.cold
      let sel := (if sel1 then 2 else 0) + (if sel0 then 1 else 0)
      let s1 := { c with boots := s.boots + 1, bring := { c.bring with powered := true, sel } }
      let s2 := (s1.fset F.NVM_STATE_floor (s.fget F.NVM_STATE_floor)).fset F.RSTCTL_STATE_state rsTraining
      (s2.each controlPages fun s p => s.setReady p 1).fset F.CLKCTL_ROOT_refclk_ok 1

/-- Power is gone: what is left is a module before POWER_ON. -/
def State.powerOff (s : State) (opened : Bool) : State :=
  let c := s.cold
  ({ c with bring := { c.bring with opened } }).fset F.NVM_STATE_floor (s.fget F.NVM_STATE_floor)

/-- PRSNT_REMOVAL (R494): every rail is removed together, an input loss. -/
def execPrsntRemoval (s : State) : Host.Outcome State Fault Refusal := guardUnit true (s.powerOff false)

/-- INPUT_FAULT (R499, R500): the input switch opens. -/
def execInputFault (s : State) : Host.Outcome State Fault Refusal := guardUnit true (s.powerOff true)

/-- OVERCURRENT (R500): every compute die takes its droop response. -/
def execOvercurrent (s : State) : Host.Outcome State Fault Refusal :=
  guardUnit true (s.when s.bring.powered fun s => s.each (List.range 4) fun s d => s.droop d)

/-! Rails (R446, R447, R480). Rails are numbered as the bits of MGT_RAILS: 0 STBY, 1 MEM, 2 CORE, 3 IO. -/

def railF (r : Nat) : Fld := ⟨Page.MGT, 0x90, r, 1⟩
def State.rail (s : State) (r : Nat) : Bool := s.flag (railF r)

/-- Every fitted port that is enabled leaves OFF (R227). -/
def State.startPorts (s : State) : State :=
  s.each ((List.range 26).filter s.portEnabled) fun s p => if s.portState p = stOff then s.portStart p else s

/-- The host links of the split leave Detect, but for one that its PERST pin holds (R481, R495). -/
def State.startLinks (s : State) : State :=
  s.each ((List.range 4).filter fun l => s.linkExists l && !s.bring.perst.contains l) fun s l => s.fset (linkStateF l) 1

/-- The memory is trained and the compute dies have passed: host links train (R481, R484). -/
def State.checkHost (s : State) : State :=
  if s.fget F.RSTCTL_BRINGUP_phase = 2 ∧ s.bring.mem ∧ s.bring.test then
    (s.fset F.RSTCTL_BRINGUP_phase 3).startLinks
  else s

/-- RAIL_ASSERT (R446, R447, R484): a requested rail is sensed high, in order. -/
def execRailAssert (rail : Nat) (s : State) : Host.Outcome State Fault Refusal :=
  guardUnit (decide (rail < 4)) <|
    let below := (List.range rail).all s.rail
    if !s.bring.powered ∨ rail = 0 ∨ s.rail rail ∨ !below ∨ !(s.fget F.MGT_RAILS_req).testBit rail then s
    else
      let s1 := s.fset (railF rail) 1
      let all := (List.range 4).all s1.rail
      if s1.upDone then s1.when all fun s => { s with rst := { s.rst with railHold := false } }
      else if all ∧ s1.fget F.RSTCTL_BRINGUP_phase = 1 then
        ((s1.fset F.RSTCTL_BRINGUP_phase 2).startPorts).checkHost
      else s1

/-- RAIL_REQ_RETRY (R480): a rail requested is not asserted within 1 s. -/
def execRailReqRetry (s : State) : Host.Outcome State Fault Refusal :=
  guardUnit true <|
    let mask := s.fget F.MGT_RAILS_req
    if s.fget F.RSTCTL_BRINGUP_phase = 1 ∧ s.bring.powered ∧ (List.range 4).any fun r => mask.testBit r && !s.rail r then
      s.duntus 0x06 [BitVec.ofNat 8 mask]
    else s

/-- Every domain but the control complex as at power-on (R447): deckles, contexts, chests and HBM contents are lost; the fault
log, the broke map and the dump are kept. -/
def State.coldDomains (s : State) : State :=
  let s1 := s.each (List.range 20) fun s fn => s.endSession fn
  let s2 := { s1 with
    regs := s1.regs.clear fun k => decide (7 ≤ k / 4096 % 8192)
    tiles := [], spad := [], hbm := [], poison := [], ctxs := [], deckles := [], queues := [], sessions :=
      s1.sessions.clear fun k => decide (k < 20)
    cmds := [], routers := [], ports := [], plan := none, ident := State.reset.ident
    locks := s1.locks.filter fun l => l.cls == 5
    latches := s1.latches.filter fun h => decide (h.page < 7), held := s1.held.filter fun h => decide (h.page < 7)
    frozen := s1.frozen.filter fun f => decide (f.page < 7)
    rst := { s1.rst with suspects := none, dumpDue := none, railHold := false, landing := [] } }
  let s3 := s2.each gatedPages fun s p => match clockBit p with
    | some f => s.fset f 0
    | none => s
  (s3.restartBeats.applyMap.showStacks memOff).applyPkg.showFirmware

/-- Bring-up starts again at RAILS (R491); the cause is the board controller's. -/
def State.restartRails (s : State) : State :=
  let s1 := (s.setTier rsTraining 0 9).fset F.RSTCTL_BRINGUP_phase 1
  { s1 with bring := { s1.bring with mem := false, test := false, repeated := false, windows := [] } }

/-- IO_EN or CORE_EN falls before READY (R447, R491): ports and stacks are off again. -/
def State.railsFall (s : State) : State :=
  let s1 := s.each ((List.range 26).filter s.portFitted) fun s p => s.toOff p
  (s1.each (List.range 12) fun s i => if s.memState i = memFailed then s else s.fset F.HBMC_STATE_state memOff i).restartRails

/-- RAIL_LOSS (R447): a rail falls out of order. -/
def execRailLoss (rail : Nat) (s : State) : Host.Outcome State Fault Refusal :=
  guardUnit (decide (rail < 4)) <|
    if !s.bring.powered ∨ !s.rail rail then s
    else if rail = 0 then s.powerOff false
    else
      let s1 := s.fset (railF rail) 0
      let phase := s1.fget F.RSTCTL_BRINGUP_phase
      if s1.rsState = rsFailed ∨ phase = 5 ∨ phase = 6 ∨ phase = 7 then s1
      else if rail = 1 then s1.coldDomains.restartRails
      else if s1.upDone then
        let s2 := s1.startPkg 9 0x12 byModule
        { s2 with rst := { s2.rst with railHold := true } }
      else if phase = 2 ∨ phase = 3 then s1.railsFall
      else s1

/-- RAIL_REMOVAL (R446): a rail is removed, the others that need it being low already. -/
def execRailRemoval (rail : Nat) (s : State) : Host.Outcome State Fault Refusal :=
  guardUnit (decide (rail < 4)) <|
    let above := (List.range 4).any fun r => decide (rail < r) && s.rail r
    if !s.bring.powered ∨ !s.rail rail ∨ above then s
    else if rail = 0 then s.powerOff false
    else
      let s1 := s.fset (railF rail) 0
      if rail = 3 then s1.dropLinks.fencePages ioPages
      else if rail = 2 then s1.fenceCompute
      else
        let s2 := { s1 with hbm := [], poison := [] }
        s2.each (List.range 12) fun s i => if s.memState i = memFailed then s else s.fset F.HBMC_STATE_state memOff i

/-! Training and tests (R210, R211, R416, R485). -/

/-- Bring-up may go on: it has not failed, and neither a trip nor a missing clock holds it (R491). -/
def State.upRuns (s : State) : Bool :=
  s.bring.powered && !s.rst.tripped && !s.rst.refLost && !s.clk.stopped && s.rsState == rsTraining

/-- MEMORY_TRAINING_START (R210, R416): in bring-up once MEM_EN is stable; in package recovery after its reset step, with
fabric ports and host links beginning to train beside it. -/
def execMemoryTrainingStart (s : State) : Host.Outcome State Fault Refusal :=
  guardUnit true <|
    let phase := s.fget F.RSTCTL_BRINGUP_phase
    if (phase = 1 ∨ phase = 2) ∧ s.upRuns ∧ s.rail 1 ∧ !s.bring.mem then s.trainStart
    else if s.tierRuns 2 ∧ s.rsState = rsResetting then
      ((s.fset F.RSTCTL_STATE_state rsTraining).unfencePages ioPages).startPorts.startLinks.trainStart
    else s

/-- MEMORY_TRAINING_DONE (R210, R211): `failed` lists the channels (32 x stack + channel) that failed twice, `spare` the banks (stack, row)
whose training row met an uncorrectable error (R217), `ms` the time
the training took; at power-on every unit reads as zero. -/
def execMemoryTrainingDone (failed : List Nat) (ms : Nat) (spare : List (Nat × Nat)) (s : State) : Host.Outcome State Fault Refusal :=
  guardUnit true <|
    if !(List.range 12).any fun i => s.memState i == memTraining then s
    else
      let s1 := s.trainDone failed spare ms (!s.upDone)
      if s.upDone then s1 else ({ s1 with bring := { s1.bring with mem := true } }).checkHost

/-- Tiles that fail the self-test of the compute-die test are retired (R406, R485). -/
def State.retireTiles (s : State) (bad : List Nat) : State :=
  s.each (bad.filter tileOk) fun s t =>
    (s.setTile t { s.tile t with state := .retired }).brokeAdd 0x1 t 0x0D true

/-- COMPUTE_DIE_TEST_DONE (R485): `unitOk` says that meshes, bridges and the control ring passed, `ioOk` that the I/O dies'
router state did; a failure is repeated once. In package recovery only tiles change. -/
def execComputeDieTestDone (badTiles : List Nat) (unitOk ioOk : Bool) (s : State) : Host.Outcome State Fault Refusal :=
  guardUnit true <|
    let phase := s.fget F.RSTCTL_BRINGUP_phase
    if s.upDone then (if s.tierRuns 2 ∧ s.rsState = rsTraining then s.retireTiles badTiles else s)
    else if !(phase = 1 ∨ phase = 2) ∨ !s.upRuns ∨ !s.rail 2 ∨ s.bring.test then s
    else if unitOk && ioOk then
      let s1 := s.retireTiles badTiles
      ({ s1 with bring := { s1.bring with test := true } }).checkHost
    else if s.bring.repeated then s.failUp (if unitOk then 5 else 4) 0x0D
    else { s with bring := { s.bring with repeated := true } }

/-- HOST_LINK_WINDOW_END (R481). -/
def execHostLinkWindowEnd (link : Nat) (s : State) : Host.Outcome State Fault Refusal :=
  guardUnit (decide (link < 4)) <|
    if s.fget F.RSTCTL_BRINGUP_phase = 3 ∧ s.linkExists link ∧ !s.bring.windows.contains link then
      { s with bring := { s.bring with windows := s.bring.windows ++ [link] } }
    else s

/-- A port is out of training (R479). -/
def State.portSettled (s : State) (p : Nat) : Bool :=
  [stWaitPlan, stAbsent, stHeld, stQuarantine, stRetired, stOff, stActive].contains (s.portState p)

/-- The conditions of R482. -/
def State.upReady (s : State) : Bool :=
  s.fget F.RSTCTL_BRINGUP_phase == 3 && s.upRuns && s.bring.mem && s.bring.test &&
    ((List.range 26).filter s.portFitted).all s.portSettled &&
    ((List.range 4).filter s.linkExists).all fun l => s.linkActive l || s.bring.windows.contains l

/-- BRINGUP_READY (R482): every fitted block is clocked and ready, and the module is READY. -/
def execBringupReady (ms : Nat) (s : State) : Host.Outcome State Fault Refusal :=
  guardUnit true <|
    if !s.upReady then s
    else
      let s1 := s.each (gatedPages.filter s.pageFitted) fun s p => match clockBit p with
        | some f => (s.fset f 1).setReg 0 p 0x14 1
        | none => s
      let s2 := (s1.applyMap.setTier rsReady 0 (s1.fget F.RSTCTL_STATE_cause)).fset F.RSTCTL_BRINGUP_phase 4
      s2.fset F.RSTCTL_BRINGUP_ms (min 0xFFFF ms)

/-- BRINGUP_WATCHDOG (R483): not READY 7,500 ms after IO_EN; cause escalation. -/
def execBringupWatchdog (s : State) : Host.Outcome State Fault Refusal :=
  guardUnit true <|
    let phase := s.fget F.RSTCTL_BRINGUP_phase
    if phase = 2 ∨ phase = 3 then (s.fset F.RSTCTL_STATE_cause 6).failUp 6 0x03 else s

end Sys2Proof.Machine
end

