-- ==== Sys2Proof/Machine/Beats.lean ====
section
/-! DEFINITION. The beat boundary (R22), step by step: publication (R41-R47), the cursor and the starts of sheets and steps
(R43, R44, R281), overruns and waits (R50-R57); beat markers and the alignment of the rack (R31-R36). -/

namespace Sys2Proof.Machine

/-! The beat that ends (R50, R52). -/

/-- The context's due work waits: it is not stopped (log 61). -/
def Ctx.waits (x : Ctx) : Bool := x.st == .running || x.st == .stopping || x.st == .suspect

/-- Sheets and steps that fell due at the start of the beat and are not complete (R50, R280). -/
def Ctx.overrunning (x : Ctx) : Nat :=
  (x.insts.filter fun i => i.age == 0 && i.st != .complete && !i.counted).length +
    (x.steps.filter fun p => p.fresh && p.st != .complete).length

/-- A beat has ended for a sheet: R50's mark, its beats of waiting (R52), its boundaries. -/
def Inst.ended (i : Inst) (idle : Bool) : Inst :=
  { i with
    counted := i.counted || (i.age == 0 && i.st != .complete)
    waited := if (i.st == .due || i.st == .lost) && !idle then i.waited + 1 else i.waited
    age := i.age + 1 }

/-- A beat has ended for a step. -/
def Step.ended (p : Step) (idle : Bool) : Step :=
  { p with fresh := false, waited := if p.st == .wait && !idle then p.waited + 1 else p.waited, age := p.age + 1 }

/-- A beat has ended for a context: its overruns are counted (R50). -/
def State.endBeatOf (s : State) (c : Nat) : State :=
  let x := s.ctx c
  if !x.waits then s
  else
    let n := x.overrunning
    let idle := s.idleFor x.deckle
    let s1 := s.setCtx c { x with
      overruns := x.overruns + n, insts := x.insts.map (·.ended idle), steps := x.steps.map (·.ended idle) }
    s1.when (n != 0) fun s =>
      let s1 := (s.bumpBy C.BEAT_OVERRUN_CNT n).raiseTo E.BEAT_overrun [x.deckle]
      { s1 with cal := { s1.cal with slackOver := s1.cal.slackOver + n } }

/-! Step 2: publication (R45, R46). -/

/-- The notices a published sheet owes: the peer regions it writes, each once. -/
def State.noticesOf (s : State) (x : Ctx) (i : Inst) : List NoticeDue :=
  let h := x.reamOf.sheet i.sheet
  let peers := (((h.refs.filter Ref.writes).map (·.region)).eraseDups.map x.reamOf.region).filter fun g => g.space == 2
  if peers.isEmpty then []
  else [⟨i.q, match x.tileOf h.vtile with | some t => s.injectDie t | none => 0, peers, i.writes⟩]

/-- Everything complete in a context publishes: stamps follow from what is left (R41), flags join the context's (R115). -/
def State.publish (s : State) (c : Nat) : State :=
  let x := s.ctx c
  let done := x.insts.filter fun i => i.st == .complete
  let doneSteps := x.steps.filter fun p => p.st == .complete
  s.setCtx c { x with
    insts := x.insts.filter fun i => i.st != .complete
    steps := x.steps.filter fun p => p.st != .complete
    flags := doneSteps.foldl (fun f p => f ||| p.flags) (done.foldl (fun f i => f ||| i.flags) x.flags)
    notices := x.notices ++ done.flatMap (s.noticesOf x) }

/-- The last iteration has published (R330). -/
def Ctx.reamOver (x : Ctx) : Bool :=
  x.primed && x.insts.isEmpty && x.steps.isEmpty &&
    match x.reamOf.total with | some n => decide (n ≤ x.cursor + 1) | none => false

/-- The ream ends: the context is LOADED, its tiles unbound, its open CTX_START, CTX_STOP and CTX_WAIT complete (R330, R508). -/
def State.endReam (s : State) (c : Nat) : State :=
  let s1 := (s.unbindAll c).modCtx c fun x =>
    { x with st := .loaded, startFrom := none, marker := none, inReplay := false, journal := [] }
  s1.finishAll (fun k => k.begun && s.names c k && (k.opcode == 0x12 || k.opcode == 0x13 || k.opcode == 0x15)) 0

/-- Step 2 for one context: publication, the end of its ream, STOPPED, and a release asked for (R330, R508). -/
def State.publishStep (s : State) (c : Nat) : State :=
  let s1 := s.publish c
  let x := s1.ctx c
  if x.waits && x.startFrom.isNone && x.reamOver then s1.endReam c
  else
    let s2 := s1.settle c
    let y := s2.ctx c
    s2.when (y.st == .stopped && y.release) (·.unbindAll c)

/-- Step 2 of a boundary. -/
def State.publishAll (s : State) : State := (s.each s.ctxList fun s c => s.publishStep c).clearSuspect.pruneSet

/-! Step 6: the cursor (R43). -/

/-- Something of a number before the cursor is unpublished (R43, R280). -/
def Ctx.stalled (x : Ctx) : Bool :=
  x.insts.any (fun i => decide (i.q < x.cursor)) || x.steps.any fun p => decide (p.last x.reamOf < x.cursor)

/-- The sheets and steps of sequence number `q` fall due. -/
def State.fallDue (s : State) (c q : Nat) : State :=
  let x := s.ctx c
  let r := x.reamOf
  let rb := q % r.length
  let sheets := (List.range r.sheets.length).filter fun i => (r.sheet i).rbeat == rb
  let colls := (List.range r.colls.length).filter fun i => (r.coll i).rbeat == rb
  let step (i : Nat) : Step :=
    let p : Step := ⟨q, i, .wait, true, 0, 0, 0, [], [], [], [], [], [], false, 0, [], [], [], []⟩
    { p with hash := s.stepHash x p }
  s.setCtx c { x with
    cursor := q, primed := true
    insts := x.insts ++ sheets.map fun i => (⟨q, i, .due, 0, 0, false, 0, []⟩ : Inst)
    steps := x.steps ++ colls.map step
    aborts := x.aborts.filter fun h => !((colls.map step).any fun p => p.hash.toNat % 2 ^ 32 == h) }

/-- An open CTX_START of the context. -/
def State.startOpen (s : State) (c : Nat) : Bool := s.cmds.any fun k => k.begun && s.names c k && k.opcode == 0x12

/-- The sheets at a resumed cursor fall due again (R177). -/
def Ctx.dueAgain (x : Ctx) : Ctx :=
  { x with insts := x.insts.map fun (i : Inst) =>
      if i.q = x.cursor ∧ i.st = .due then { i with age := 0, waited := 0 } else i }

/-- The cursor of a context that runs advances where R43 lets it; an open CTX_START completes as the sheets fall due (R326). -/
def State.advance (s : State) (c : Nat) : State :=
  let x := s.ctx c
  if !s.ctxRuns c ∨ x.startFrom.isSome ∨ s.idleFor x.deckle then s
  else
    let s1 := s.when (s.startOpen c && x.primed) fun s => s.modCtx c Ctx.dueAgain
    let y := s1.ctx c
    let left := match y.reamOf.total with | some n => decide (y.cursor + 1 < n) | none => true
    let s2 := if !y.primed then s1.fallDue c 0 else if y.stalled ∨ !left then s1 else s1.fallDue c (y.cursor + 1)
    s2.finishAll (fun k => k.begun && s.names c k && k.opcode == 0x12) 0

/-! Step 6: starts (R44, R281). -/

/-- The sheet that waits on a tile starts, on time only at the boundary at which it fell due (R44, R180). -/
def State.startOnTile (s : State) (tile : Nat) : State :=
  match s.startable tile with
  | none => s
  | some (_, i) => s.startSheet tile (i.age != 0 || i.st == .lost)

/-- Steps in HASH or RUN of a context, and of all contexts (R281). -/
def Ctx.openSteps (x : Ctx) : Nat := (x.steps.filter fun p => p.st == .hash || p.st == .run).length
def State.openSteps (s : State) : Nat := (s.ctxList.map fun c => (s.ctx c).openSteps).sum

/-- A due step starts if it can (R281); a start at a later boundary is late (R51). -/
def State.tryStep (s : State) (c : Nat) (p : Step) : State :=
  let x := s.ctx c
  match x.stepOf p with
  | none => s
  | some p' =>
    if p'.st ≠ .wait ∨ !s.ctxRuns c ∨ s.idleFor x.deckle ∨ x.stepHeld x.reamOf p' ∨ 4 ≤ x.openSteps ∨ 64 ≤ s.openSteps then s
    else (s.when (!p'.fresh) (·.bump C.BEAT_LATE_CNT)).startStep c p'

/-- The starts of a context's sheets, in ascending virtual tile, and of its steps. -/
def State.startsOf (s : State) (c : Nat) : State :=
  let x := s.ctx c
  let tiles := (x.bind.mergeSort fun a b => decide (a.1 ≤ b.1)).map Prod.snd
  let s1 := s.each tiles fun s t => s.startOnTile t
  s1.each (s1.ctx c).steps fun s p => s.tryStep c p

/-- What holds a context's due work at this boundary (R51, R57): by a reference, by a busy tile. -/
def State.waitsOf (s : State) (c : Nat) : Nat × Nat :=
  let x := s.ctx c
  let r := x.reamOf
  if !s.ctxRuns c ∨ x.startFrom.isSome ∨ s.idleFor x.deckle then (0, 0)
  else
    let due := x.insts.filter fun i => i.st == .due || i.st == .lost
    let held := due.filter fun i => x.held r i
    let busy := due.filter fun i => !x.held r i &&
      match x.tileOf (r.sheet i.sheet).vtile with
      | some t => (s.tile t).state != .idle
      | none => false
    (held.length + (x.steps.filter fun p => p.st == .wait && x.stepHeld r p).length, busy.length)

/-- The waits of a boundary counted. -/
def State.countWaits (s : State) : State :=
  let ws := s.ctxList.map s.waitsOf
  (s.bumpBy C.BEAT_STAMPWAIT_CNT (ws.map Prod.fst).sum).bumpBy C.BEAT_TILEWAIT_CNT (ws.map Prod.snd).sum

/-- Step 6 of a boundary. -/
def State.startAll (s : State) : State :=
  let s1 := s.startReplay
  let s2 := s1.each s1.ctxList fun s c => s.advance c
  (s2.each s2.ctxList fun s c => s.startsOf c).countWaits

/-! Beat markers (R31, R33). -/

/-- A Gealmub peer port of the plan's job that is ACTIVE (R33, R237). -/
def State.markerPort (s : State) (p : Nat) : Bool :=
  match s.plan with
  | none => false
  | some pl => s.portFitted p && decide (p < 24) && planUse (planEntry pl p) == 1 && s.portMode p == 0 && s.portState p == stActive

/-- The marker of this boundary, with its hops and corr. -/
def State.markerBytes (s : State) (pl : Plan) (hops corr : Nat) : List Byte :=
  leBytes 8 s.beatCount ++ leBytes 1 (s.fget F.BEAT_CFG_beat_log2 + hops * 16) ++ leBytes 2 (pl.master.getD 0) ++
    leBytes 1 corr ++ pl.jobHash.take 4

/-- Markers are launched by the master at a boundary whose number is a multiple of 16, and by a locked module, at its next
boundary, for a marker it has accepted from the selected source (R33). -/
def State.sendMarkers (s0 : State) : State :=
  let relay := s0.beat.relay
  let s := { s0 with beat := { s0.beat with relay := false } }
  match s.plan with
  | none => s
  | some pl =>
    let st := s.fget F.BEAT_ALIGN_state
    if st = 1 then
      if s.beatCount % 16 ≠ 0 then s
      else s.each ((List.range 24).filter s.markerPort) fun s p => s.sendCtl p 4 (s.markerBytes pl 0 0)
    else if st = 3 ∧ relay ∧ s.fget F.BEAT_ALIGN_hops < 7 then
      let ports := (List.range 24).filter fun p => s.markerPort p && p != s.fget F.BEAT_ALIGN_port
      s.each ports fun s p =>
        s.sendCtl p 4 (s.markerBytes pl (s.fget F.BEAT_ALIGN_hops + 1) (s.fget F.BEAT_PHASE_last_err % 2 ^ 8))
    else s

/-! The boundary (R22, R28). -/

/-- The beat number advances; after a re-phase it takes up the source's (R34). -/
def State.nextBeat (s : State) : State :=
  let n := s.beatCount + s.beat.advance
  let s1 := s.fset F.BEAT_COUNT_count (n % 2 ^ 64)
  { s1 with
    beat := { s1.beat with advance := 1, lengthen := 0, cycle := 0, since := s1.beat.since + 1 }
    cal := { s1.cal with slackAge := s1.cal.slackAge + 1 } }

/-- Step 3 of a boundary: the broke map, then the frozen placement. -/
def State.placeStep (s : State) : State :=
  let s1 := s.mapStep.applyPlacement
  { s1 with beat := { s1.beat with frozen := false } }

/-- Step 5 of a boundary: the live fields of a profile (R468), the operating point and the idle beat. -/
def State.powerStep (s : State) : State :=
  (s.when s.nvm.liveDue fun s => s.applyLive.updateCap).when s.upDone (·.applyCalender)

/-- Engines and packets that a failure has let go on since the last packet came (R288, R289). -/
def State.placeFreed (s : State) : State := s.each ([0, 1].filter s.iodFitted) fun s i => s.placeHeld i

/-- A beat has passed for the commands in flight (R324) and for paused storage ports (R238). -/
def State.agePass (s : State) : State :=
  ({ s with cmds := s.cmds.map fun (k : Cmd) => { k with age := k.age + 1 } }).pauseTick

/-- Step 6 of a boundary, and the markers it launches; with the FAB and TILE clocks stopped by a thermal trip (R397) nothing
starts and nothing is sent. -/
def State.openBeat (s : State) : State := if s.rst.tripped then s else s.startAll.placeFreed.sendMarkers

/-- BEAT_BOUNDARY (R22): the six steps in their order, each seeing the results of those before it. `silent` names the control
units that have stopped since the last boundary (R435). The generator counts as long as REFCLK is there (R28), through a
thermal trip too, which leaves the control complex running (R397). -/
def execBeatBoundary (silent : List Nat) (s : State) : Host.Outcome State Fault Refusal :=
  guardUnit true <|
    if !s.bring.powered ∨ s.rst.refLost then s
    else
      let s1 := (s.each s.ctxList fun s c => s.endBeatOf c).nextBeat
      let s2 := s1.throttleAll.publishAll.placeStep.controlStep.backlog.powerStep.openBeat
      ((s2.beatUnits silent).agePass).tryPoweroff

/-! Alignment (R32-R36). -/

/-- A ream of a context of the plan's job is started (R34). -/
def State.jobRuns (s : State) : Bool := s.ctxList.any fun c => s.inJob c && (s.ctx c).waits

/-- The source of markers: the port of lowest hops, the lowest of equals (R33). -/
def State.markerSource (s : State) : Option (Nat × Nat) :=
  ((List.range 24).filter s.markerPort).foldl (fun (m : Option (Nat × Nat)) p =>
    match s.beat.hops.get (fun _ => none) p, m with
    | none, m => m
    | some h, none => some (p, h)
    | some h, some (q, k) => if h < k then some (p, h) else some (q, k)) none

/-- The marker error (R32), in FAB cycles, sixteenths of a REFCLK cycle: the module's own boundary for the marker's beat number,
less the sender's boundary instant (the arrival less the one-way latency measured at link training), plus corr. `arrival` counts
FAB cycles from the start of the current beat. -/
def State.markerError (s : State) (port : Nat) (m : Marker) (arrival : Nat) : Int :=
  let ahead : Int := (m.beat - BitVec.ofNat 64 s.beatCount).toInt
  let own := ahead * 2 ^ s.fget F.BEAT_CFG_beat_log2 + (if 0 < ahead then (s.beat.lengthen : Int) else 0)
  own * 16 - ((arrival : Int) - s.fget F.PORT_LATENCY_one_way port) + m.corr

/-- The marker error is at most 0.5 REFCLK cycle in magnitude, in sixteenths. -/
def inPhase (err : Int) : Bool := decide (-8 ≤ err ∧ err ≤ 8)

/-- Re-phasing (R34): BEAT_COUNT is the source's, and the beat is lengthened to end at the REFCLK edge nearest a boundary of the
master. `edge` is the edge, in cycles from the start of the current beat, nearest the master's boundary of the marker's number; the
number at the next boundary is the master's there. -/
def State.rephase (s : State) (port : Nat) (m : Marker) (arrival : Nat) : State :=
  let len : Int := 2 ^ s.fget F.BEAT_CFG_beat_log2
  let edge : Int := ((arrival : Int) - s.fget F.PORT_LATENCY_one_way port - m.corr + 8) / 16
  let s1 := s.fset F.BEAT_COUNT_count m.beat.toNat
  { s1 with beat := { s1.beat with lengthen := (edge % len).toNat, advance := (1 - edge / len).toNat } }

def State.alignTo (s : State) (st : Nat) : State := s.fset F.BEAT_ALIGN_state st

/-- HOLDOVER is entered and shown (R35, R56). -/
def State.holdover (s : State) : State := (s.alignTo 4).raise E.BEAT_holdover

/-- An accepted marker in the state machine of R35. -/
def State.aligned (s : State) (port : Nat) (m : Marker) (arrival : Nat) (err : Int) : State :=
  let st := s.fget F.BEAT_ALIGN_state
  if st = 2 ∧ s.beat.accepted < 2 then s
  else if inPhase err then s.alignTo 3
  else
    let s1 := s.when (st == 3) (·.holdover)
    if s.jobRuns then s1 else (s1.rephase port m arrival).alignTo 3

/-- A marker from the selected source is accepted: its error and its source are shown, and it is to be relayed. -/
def State.acceptMarker (s : State) (port : Nat) (m : Marker) (arrival : Nat) : State :=
  let err := s.markerError port m arrival
  let n := if s.beat.accepted = 0 ∨ s.fget F.BEAT_ALIGN_port ≠ port then 1 else s.beat.accepted + 1
  let s1 := { s with beat := { s.beat with accepted := n, since := 0, raised := false, relay := true } }
  let s2 := (((s1.fset F.BEAT_PHASE_last_err (err % 2 ^ 16).toNat).fset F.BEAT_ALIGN_hops m.hops).fset F.BEAT_ALIGN_port port).when
    (!inPhase err) (·.bump C.BEAT_MARKER_ERR_CNT)
  s2.aligned port m arrival err

/-- A marker ignored for what it holds: counted and raised (R33). -/
def State.ignoreMarker (s : State) : State := (s.bump C.BEAT_MARKER_ERR_CNT).raise E.BEAT_marker_mismatch

/-- A marker fails a check of R33 against the plan, or holds the reserved hops (R31). -/
def State.markerBad (s : State) (pl : Plan) (m : Marker) : Bool :=
  decide (8 ≤ m.hops) || m.log2 != s.fget F.BEAT_CFG_beat_log2 || pl.master != some m.master ||
    leNat (pl.jobHash.take 4) != m.planTag.toNat

/-- MARKER (R33): a marker is checked and used by a module that is not the master. `arrival` is its timestamp (R32), in FAB cycles
from the start of the current beat. One that came through replay (R226), or that arrives while the port's latency is not measured
(R232, R35), is not used and not counted. -/
def execMarker (port : Nat) (m : Marker) (arrival : Nat) (replayed : Bool) (s : State) : Host.Outcome State Fault Refusal :=
  guardUnit (portOk port && s.portFitted port) <|
    match s.plan with
    | none => s
    | some pl =>
      if !s.markerPort port ∨ s.fget F.BEAT_ALIGN_state = 1 ∨ replayed then s
      else if s.markerBad pl m then s.ignoreMarker
      else if !(s.port port).fresh ∨ s.fget F.BEAT_ALIGN_state = 0 then s
      else
        let s1 := { s with beat := { s.beat with hops := s.beat.hops.set (fun _ => none) port (some m.hops) } }
        match s1.markerSource with
        | some (p, _) => if p = port then s1.acceptMarker port m arrival else s1
        | none => s1

/-- ALIGN_TIMEOUT (R35): 256 bt in SEEKING without an accepted marker raise align_timeout once. Sources are chosen anew. -/
def execAlignTimeout (s : State) : Host.Outcome State Fault Refusal :=
  guardUnit true <|
    if s.fget F.BEAT_ALIGN_state ≠ 2 ∨ s.beat.since < 256 ∨ s.beat.raised then s
    else ({ s with beat := { s.beat with raised := true, hops := [], accepted := 0 } }).raise E.BEAT_align_timeout

/-- MARKER_TIMEOUT (R35): 64 bt in LOCKED without an accepted marker. Sources are chosen anew. -/
def execMarkerTimeout (s : State) : Host.Outcome State Fault Refusal :=
  guardUnit true <|
    if s.fget F.BEAT_ALIGN_state ≠ 3 ∨ s.beat.since < 64 then s
    else ({ s with beat := { s.beat with hops := [], accepted := 0 } }).holdover

end Sys2Proof.Machine
end

