-- ==== Sys2Proof/Machine/Dispatch.lean ====
section
/-! DEFINITION. What each command does to everything but the queue: one arm for each constructor of `Instr`. -/

namespace Sys2Proof.Machine

def exec (i : Instr) (s : State) : Host.Outcome State Fault Refusal :=
  match i with
  | .beatBoundary silent => Sys2Proof.Machine.execBeatBoundary silent s
  | .placementFreeze decided => Sys2Proof.Machine.execPlacementFreeze decided s
  | .marker port m arrival replayed => Sys2Proof.Machine.execMarker port m arrival replayed s
  | .alignTimeout => Sys2Proof.Machine.execAlignTimeout s
  | .markerTimeout => Sys2Proof.Machine.execMarkerTimeout s
  | .sheetProgramFetch tile => Sys2Proof.Machine.execSheetProgramFetch tile s
  | .sheetStart tile => Sys2Proof.Machine.execSheetStart tile s
  | .sheetComplete tile => Sys2Proof.Machine.execSheetComplete tile s
  | .sheetWaitTimeout ctx inst => Sys2Proof.Machine.execSheetWaitTimeout ctx inst s
  | .tileFence tile cause => Sys2Proof.Machine.execTileFence tile cause s
  | .tileFenced tile => Sys2Proof.Machine.execTileFenced tile s
  | .fenceDrainTimeout tile => Sys2Proof.Machine.execFenceDrainTimeout tile s
  | .tileDeadlock tile => Sys2Proof.Machine.execTileDeadlock tile s
  | .seqAdd tile => Sys2Proof.Machine.execSeqAdd tile s
  | .seqSub tile => Sys2Proof.Machine.execSeqSub tile s
  | .seqMul tile => Sys2Proof.Machine.execSeqMul tile s
  | .and_ tile => Sys2Proof.Machine.execAnd tile s
  | .or_ tile => Sys2Proof.Machine.execOr tile s
  | .xor_ tile => Sys2Proof.Machine.execXor tile s
  | .shl tile => Sys2Proof.Machine.execShl tile s
  | .shr tile => Sys2Proof.Machine.execShr tile s
  | .sra tile => Sys2Proof.Machine.execSra tile s
  | .min_ tile => Sys2Proof.Machine.execMin tile s
  | .max_ tile => Sys2Proof.Machine.execMax tile s
  | .slt tile => Sys2Proof.Machine.execSlt tile s
  | .sltu tile => Sys2Proof.Machine.execSltu tile s
  | .seq tile => Sys2Proof.Machine.execSeq tile s
  | .addi tile => Sys2Proof.Machine.execAddi tile s
  | .andi tile => Sys2Proof.Machine.execAndi tile s
  | .ori tile => Sys2Proof.Machine.execOri tile s
  | .xori tile => Sys2Proof.Machine.execXori tile s
  | .shli tile => Sys2Proof.Machine.execShli tile s
  | .shri tile => Sys2Proof.Machine.execShri tile s
  | .srai tile => Sys2Proof.Machine.execSrai tile s
  | .slti tile => Sys2Proof.Machine.execSlti tile s
  | .lil tile => Sys2Proof.Machine.execLil tile s
  | .lih tile => Sys2Proof.Machine.execLih tile s
  | .lds tile ecc => Sys2Proof.Machine.execLds tile ecc s
  | .sts tile ecc => Sys2Proof.Machine.execSts tile ecc s
  | .ldg tile ecc => Sys2Proof.Machine.execLdg tile ecc s
  | .stg tile ecc => Sys2Proof.Machine.execStg tile ecc s
  | .l1FillDone tile errs => Sys2Proof.Machine.execL1FillDone tile errs s
  | .beq tile => Sys2Proof.Machine.execBeq tile s
  | .bne tile => Sys2Proof.Machine.execBne tile s
  | .blt tile => Sys2Proof.Machine.execBlt tile s
  | .bge tile => Sys2Proof.Machine.execBge tile s
  | .bltu tile => Sys2Proof.Machine.execBltu tile s
  | .bgeu tile => Sys2Proof.Machine.execBgeu tile s
  | .jmp tile => Sys2Proof.Machine.execJmp tile s
  | .call_ tile => Sys2Proof.Machine.execCall tile s
  | .ret_ tile => Sys2Proof.Machine.execRet tile s
  | .issue tile ecc => Sys2Proof.Machine.execIssue tile ecc s
  | .sig tile => Sys2Proof.Machine.execSig tile s
  | .wait tile => Sys2Proof.Machine.execWait tile s
  | .fence tile readBack => Sys2Proof.Machine.execFence tile readBack s
  | .cinv tile => Sys2Proof.Machine.execCinv tile s
  | .cwb tile => Sys2Proof.Machine.execCwb tile s
  | .cwbi tile => Sys2Proof.Machine.execCwbi tile s
  | .movs tile => Sys2Proof.Machine.execMovs tile s
  | .end_ tile => Sys2Proof.Machine.execEnd tile s
  | .descriptorStart tile queue => Sys2Proof.Machine.execDescriptorStart tile queue s
  | .descriptorComplete tile queue => Sys2Proof.Machine.execDescriptorComplete tile queue s
  | .matrixMultiply tile ecc => Sys2Proof.Machine.execMatrixMultiply tile ecc s
  | .vecAdd tile ecc => Sys2Proof.Machine.execVecAdd tile ecc s
  | .vecSub tile ecc => Sys2Proof.Machine.execVecSub tile ecc s
  | .vecMul tile ecc => Sys2Proof.Machine.execVecMul tile ecc s
  | .vecFma tile ecc => Sys2Proof.Machine.execVecFma tile ecc s
  | .vecMax tile ecc => Sys2Proof.Machine.execVecMax tile ecc s
  | .vecMin tile ecc => Sys2Proof.Machine.execVecMin tile ecc s
  | .abs_ tile ecc => Sys2Proof.Machine.execAbs tile ecc s
  | .neg_ tile ecc => Sys2Proof.Machine.execNeg tile ecc s
  | .scale tile ecc => Sys2Proof.Machine.execScale tile ecc s
  | .exp2 tile ecc => Sys2Proof.Machine.execExp2 tile ecc s
  | .log2 tile ecc => Sys2Proof.Machine.execLog2 tile ecc s
  | .recip tile ecc => Sys2Proof.Machine.execRecip tile ecc s
  | .rsqrt tile ecc => Sys2Proof.Machine.execRsqrt tile ecc s
  | .vecSqrt tile ecc => Sys2Proof.Machine.execVecSqrt tile ecc s
  | .cvt tile ecc => Sys2Proof.Machine.execCvt tile ecc s
  | .qmx tile ecc => Sys2Proof.Machine.execQmx tile ecc s
  | .dqmx tile ecc => Sys2Proof.Machine.execDqmx tile ecc s
  | .rsum tile ecc => Sys2Proof.Machine.execRsum tile ecc s
  | .rmax tile ecc => Sys2Proof.Machine.execRmax tile ecc s
  | .rmin tile ecc => Sys2Proof.Machine.execRmin tile ecc s
  | .dmaTransfer tile queue => Sys2Proof.Machine.execDmaTransfer tile queue s
  | .dmaBurstIssue tile ecc => Sys2Proof.Machine.execDmaBurstIssue tile ecc s
  | .dmaBurstDone tile burst data errs => Sys2Proof.Machine.execDmaBurstDone tile burst data errs s
  | .chestTransfer tile queue errs lost => Sys2Proof.Machine.execChestTransfer tile queue errs lost s
  | .chestWritePlaced tile queue => Sys2Proof.Machine.execChestWritePlaced tile queue s
  | .chestSpaceTimeout tile queue => Sys2Proof.Machine.execChestSpaceTimeout tile queue s
  | .screenQuery tile queue => Sys2Proof.Machine.execScreenQuery tile queue s
  | .screenQueryDone tile queue errs => Sys2Proof.Machine.execScreenQueryDone tile queue errs s
  | .blockMoveDone ctx block ok => Sys2Proof.Machine.execBlockMoveDone ctx block ok s
  | .hostMemRead deckle addr len errs => Sys2Proof.Machine.execHostMemRead deckle addr len errs s
  | .hostMemWrite deckle addr data => Sys2Proof.Machine.execHostMemWrite deckle addr data s
  | .scrub stack channel symbols => Sys2Proof.Machine.execScrub stack channel symbols s
  | .rowRepair stack row => Sys2Proof.Machine.execRowRepair stack row s
  | .rowRepairDone stack row => Sys2Proof.Machine.execRowRepairDone stack row s
  | .refreshRateChange stack cooled => Sys2Proof.Machine.execRefreshRateChange stack cooled s
  | .memoryTrainingStart => Sys2Proof.Machine.execMemoryTrainingStart s
  | .memoryTrainingDone failed ms spare => Sys2Proof.Machine.execMemoryTrainingDone failed ms spare s
  | .halfStackFail stack half => Sys2Proof.Machine.execHalfStackFail stack half s
  | .signalDetect port lanes => Sys2Proof.Machine.execSignalDetect port lanes s
  | .signalLoss port => Sys2Proof.Machine.execSignalLoss port s
  | .detectTimeout port => Sys2Proof.Machine.execDetectTimeout port s
  | .lanesLocked port lanes inverted reversed => Sys2Proof.Machine.execLanesLocked port lanes inverted reversed s
  | .phyTrainTimeout port => Sys2Proof.Machine.execPhyTrainTimeout port s
  | .identifyTimeout port => Sys2Proof.Machine.execIdentifyTimeout port s
  | .sealTimeout port => Sys2Proof.Machine.execSealTimeout port s
  | .retrainTimeout port => Sys2Proof.Machine.execRetrainTimeout port s
  | .absentRetry port => Sys2Proof.Machine.execAbsentRetry port s
  | .identitySetSign => Sys2Proof.Machine.execIdentitySetSign s
  | .flitReceive port f csym ucw => Sys2Proof.Machine.execFlitReceive port f csym ucw s
  | .replayTimeout port => Sys2Proof.Machine.execReplayTimeout port s
  | .idSeg port sender offset seg => Sys2Proof.Machine.execIdSeg port sender offset seg s
  | .echo port request stamp turnaround now => Sys2Proof.Machine.execEcho port request stamp turnaround now s
  | .width port mask proposal accept => Sys2Proof.Machine.execWidth port mask proposal accept s
  | .sealKey port rekey seg => Sys2Proof.Machine.execSealKey port rekey seg s
  | .hold_ port status miswire => Sys2Proof.Machine.execHold port status miswire s
  | .sealTag port span tag => Sys2Proof.Machine.execSealTag port span tag s
  | .sealRekey port => Sys2Proof.Machine.execSealRekey port s
  | .laneLockLoss port lane => Sys2Proof.Machine.execLaneLockLoss port lane s
  | .laneRelockTimeout port lane => Sys2Proof.Machine.execLaneRelockTimeout port lane s
  | .laneCsrLimit port lane => Sys2Proof.Machine.execLaneCsrLimit port lane s
  | .ethLinkUp port => Sys2Proof.Machine.execEthLinkUp port s
  | .ethLinkTimeout port => Sys2Proof.Machine.execEthLinkTimeout port s
  | .ethFrame port f => Sys2Proof.Machine.execEthFrame port f s
  | .s7Hello port serial partnerPort => Sys2Proof.Machine.execS7Hello port serial partnerPort s
  | .s7HelloTimeout port => Sys2Proof.Machine.execS7HelloTimeout port s
  | .packetRoute iod pos slot idle => Sys2Proof.Machine.execPacketRoute iod pos slot idle s
  | .escapeDivert iod pos => Sys2Proof.Machine.execEscapeDivert iod pos s
  | .packetInject iod => Sys2Proof.Machine.execPacketInject iod s
  | .pktWrite iod p => Sys2Proof.Machine.execPktWrite iod p s
  | .readReq iod p => Sys2Proof.Machine.execReadReq iod p s
  | .readRsp iod p => Sys2Proof.Machine.execReadRsp iod p s
  | .notice iod p => Sys2Proof.Machine.execNotice iod p s
  | .stampNoticeSend ctx inst => Sys2Proof.Machine.execStampNoticeSend ctx inst s
  | .ack iod p => Sys2Proof.Machine.execAck iod p s
  | .ackSend iod src vc => Sys2Proof.Machine.execAckSend iod src vc s
  | .chestWr iod p => Sys2Proof.Machine.execChestWr iod p s
  | .chestRd iod p => Sys2Proof.Machine.execChestRd iod p s
  | .cmap iod p => Sys2Proof.Machine.execCmap iod p s
  | .cmapClose iod => Sys2Proof.Machine.execCmapClose iod s
  | .pairUnreachable iod dst => Sys2Proof.Machine.execPairUnreachable iod dst s
  | .collHash iod p => Sys2Proof.Machine.execCollHash iod p s
  | .collGo iod p => Sys2Proof.Machine.execCollGo iod p s
  | .collData iod p => Sys2Proof.Machine.execCollData iod p s
  | .collResult iod p => Sys2Proof.Machine.execCollResult iod p s
  | .resend iod p => Sys2Proof.Machine.execResend iod p s
  | .pull iod p => Sys2Proof.Machine.execPull iod p s
  | .done_ iod p => Sys2Proof.Machine.execDone iod p s
  | .finish iod p => Sys2Proof.Machine.execFinish iod p s
  | .collAbort iod p => Sys2Proof.Machine.execCollAbort iod p s
  | .chunkComplete ctx step chunk residueOk corrected => Sys2Proof.Machine.execChunkComplete ctx step chunk residueOk corrected s
  | .collStepTimeout ctx step => Sys2Proof.Machine.execCollStepTimeout ctx step s
  | .hostLinkUp link width rate ide => Sys2Proof.Machine.execHostLinkUp link width rate ide s
  | .hostLinkDown link => Sys2Proof.Machine.execHostLinkDown link s
  | .perst link => Sys2Proof.Machine.execPerst link s
  | .configRequest link fn flr => Sys2Proof.Machine.execConfigRequest link fn flr s
  | .sqTailDoorbell fn queue value => Sys2Proof.Machine.execSqTailDoorbell fn queue value s
  | .cqHeadDoorbell fn queue value => Sys2Proof.Machine.execCqHeadDoorbell fn queue value s
  | .commandFetch fn queue desc => Sys2Proof.Machine.execCommandFetch fn queue desc s
  | .commandTimeout c => Sys2Proof.Machine.execCommandTimeout c s
  | .replayWindowEnd => Sys2Proof.Machine.execReplayWindowEnd s
  | .sessionNonce c nonce => Sys2Proof.Machine.execSessionNonce c nonce s
  | .sessionOpen c => Sys2Proof.Machine.execSessionOpen c s
  | .sessionClose c => Sys2Proof.Machine.execSessionClose c s
  | .queueCreate c => Sys2Proof.Machine.execQueueCreate c s
  | .queueDelete c => Sys2Proof.Machine.execQueueDelete c s
  | .bufRegister c => Sys2Proof.Machine.execBufRegister c s
  | .bufUnregister c => Sys2Proof.Machine.execBufUnregister c s
  | .abortCmd c => Sys2Proof.Machine.execAbortCmd c s
  | .ctxCreate c => Sys2Proof.Machine.execCtxCreate c s
  | .reamLoad c => Sys2Proof.Machine.execReamLoad c s
  | .ctxStart c => Sys2Proof.Machine.execCtxStart c s
  | .ctxStop c => Sys2Proof.Machine.execCtxStop c s
  | .ctxStatus c => Sys2Proof.Machine.execCtxStatus c s
  | .ctxWait c => Sys2Proof.Machine.execCtxWait c s
  | .ctxTeardown c => Sys2Proof.Machine.execCtxTeardown c s
  | .teardownDrainLimit ctx => Sys2Proof.Machine.execTeardownDrainLimit ctx s
  | .teardownComplete ctx => Sys2Proof.Machine.execTeardownComplete ctx s
  | .teardownEscalate ctx => Sys2Proof.Machine.execTeardownEscalate ctx s
  | .collGroup c => Sys2Proof.Machine.execCollGroup c s
  | .chestCreate c => Sys2Proof.Machine.execChestCreate c s
  | .chestFree c => Sys2Proof.Machine.execChestFree c s
  | .chestReencode c => Sys2Proof.Machine.execChestReencode c s
  | .chestReadDesc c => Sys2Proof.Machine.execChestReadDesc c s
  | .chestExport c => Sys2Proof.Machine.execChestExport c s
  | .chestImport c source sameVersion => Sys2Proof.Machine.execChestImport c source sameVersion s
  | .chestAdopt c => Sys2Proof.Machine.execChestAdopt c s
  | .headboxPin c => Sys2Proof.Machine.execHeadboxPin c s
  | .headboxUnpin c => Sys2Proof.Machine.execHeadboxUnpin c s
  | .headboxMove c => Sys2Proof.Machine.execHeadboxMove c s
  | .headboxTier c => Sys2Proof.Machine.execHeadboxTier c s
  | .headboxLend c => Sys2Proof.Machine.execHeadboxLend c s
  | .headboxReplay c => Sys2Proof.Machine.execHeadboxReplay c s
  | .storQpCreate c => Sys2Proof.Machine.execStorQpCreate c s
  | .storQpModify c => Sys2Proof.Machine.execStorQpModify c s
  | .storQpDestroy c => Sys2Proof.Machine.execStorQpDestroy c s
  | .storPost c source => Sys2Proof.Machine.execStorPost c source s
  | .deckleCreate c => Sys2Proof.Machine.execDeckleCreate c s
  | .deckleDestroy c => Sys2Proof.Machine.execDeckleDestroy c s
  | .profileSelect c => Sys2Proof.Machine.execProfileSelect c s
  | .registerWrite view off bytes data => Sys2Proof.Machine.execRegisterWrite view off bytes data s
  | .splitLowRead view off bytes => Sys2Proof.Machine.execSplitLowRead view off bytes s
  | .splitHighRead view off bytes => Sys2Proof.Machine.execSplitHighRead view off bytes s
  | .splitLowWrite view off data => Sys2Proof.Machine.execSplitLowWrite view off data s
  | .splitHighWrite view off data => Sys2Proof.Machine.execSplitHighWrite view off data s
  | .ctrlWrite view off bytes data => Sys2Proof.Machine.execCtrlWrite view off bytes data s
  | .flogIdxWrite view off bytes data => Sys2Proof.Machine.execFlogIdxWrite view off bytes data s
  | .brokeIdxWrite view off bytes data => Sys2Proof.Machine.execBrokeIdxWrite view off bytes data s
  | .dumpDataRead view off bytes => Sys2Proof.Machine.execDumpDataRead view off bytes s
  | .dumpValidClear view off bytes data => Sys2Proof.Machine.execDumpValidClear view off bytes data s
  | .rptDataRead view off bytes => Sys2Proof.Machine.execRptDataRead view off bytes s
  | .measIdxWrite view off bytes data => Sys2Proof.Machine.execMeasIdxWrite view off bytes data s
  | .calenderPeakRead view off bytes same => Sys2Proof.Machine.execCalenderPeakRead view off bytes same s
  | .cxlpAqWrite view off bytes data => Sys2Proof.Machine.execCxlpAqWrite view off bytes data s
  | .deckleAqWrite view off bytes data => Sys2Proof.Machine.execDeckleAqWrite view off bytes data s
  | .deckleAqReset view off bytes data => Sys2Proof.Machine.execDeckleAqReset view off bytes data s
  | .headboxJrnlBaseWrite view off bytes data => Sys2Proof.Machine.execHeadboxJrnlBaseWrite view off bytes data s
  | .headboxJrnlCfgWrite view off bytes data => Sys2Proof.Machine.execHeadboxJrnlCfgWrite view off bytes data s
  | .portRetrain view off bytes data => Sys2Proof.Machine.execPortRetrain view off bytes data s
  | .portEnableWrite view off bytes data => Sys2Proof.Machine.execPortEnableWrite view off bytes data s
  | .mdioRead view off bytes data => Sys2Proof.Machine.execMdioRead view off bytes data s
  | .mdioWrite view off bytes data => Sys2Proof.Machine.execMdioWrite view off bytes data s
  | .mdioAddress view off bytes data => Sys2Proof.Machine.execMdioAddress view off bytes data s
  | .clkctlSrcWrite view off bytes data => Sys2Proof.Machine.execClkctlSrcWrite view off bytes data s
  | .clkctlEnWrite view off bytes data => Sys2Proof.Machine.execClkctlEnWrite view off bytes data s
  | .calenderDlimWrite view off bytes data => Sys2Proof.Machine.execCalenderDlimWrite view off bytes data s
  | .tileFenceRequest view off bytes data => Sys2Proof.Machine.execTileFenceRequest view off bytes data s
  | .tileReturn view off bytes data => Sys2Proof.Machine.execTileReturn view off bytes data s
  | .tileSelfTestDone tile pass => Sys2Proof.Machine.execTileSelfTestDone tile pass s
  | .cdReset view off bytes data => Sys2Proof.Machine.execCdReset view off bytes data s
  | .pkgRecovery view off bytes data => Sys2Proof.Machine.execPkgRecovery view off bytes data s
  | .dumpRequest view off bytes data => Sys2Proof.Machine.execDumpRequest view off bytes data s
  | .computeDomainReset cause status => Sys2Proof.Machine.execComputeDomainReset cause status s
  | .packageRecovery cause status => Sys2Proof.Machine.execPackageRecovery cause status s
  | .drainLimit requests => Sys2Proof.Machine.execDrainLimit requests s
  | .dumpDone unreachable => Sys2Proof.Machine.execDumpDone unreachable s
  | .cdResetReady ms => Sys2Proof.Machine.execCdResetReady ms s
  | .pkgRecoveryReady ms => Sys2Proof.Machine.execPkgRecoveryReady ms s
  | .cdResetEscalate => Sys2Proof.Machine.execCdResetEscalate s
  | .pkgRecoveryTimeout => Sys2Proof.Machine.execPkgRecoveryTimeout s
  | .brokeMapPersist => Sys2Proof.Machine.execBrokeMapPersist s
  | .refclkLoss => Sys2Proof.Machine.execRefclkLoss s
  | .refclkReturn => Sys2Proof.Machine.execRefclkReturn s
  | .rootLock root => Sys2Proof.Machine.execRootLock root s
  | .rootReady root => Sys2Proof.Machine.execRootReady root s
  | .rootLockLoss root => Sys2Proof.Machine.execRootLockLoss root s
  | .droopTrigger die rail => Sys2Proof.Machine.execDroopTrigger die rail s
  | .droopEnd die => Sys2Proof.Machine.execDroopEnd die s
  | .energyBucketClose mj => Sys2Proof.Machine.execEnergyBucketClose mj s
  | .calenderDecision beatW pred stalls loads meters => Sys2Proof.Machine.execCalenderDecision beatW pred stalls loads meters s
  | .tempSample readings power => Sys2Proof.Machine.execTempSample readings power s
  | .thermtripRelease => Sys2Proof.Machine.execThermtripRelease s
  | .leakSample ohms => Sys2Proof.Machine.execLeakSample ohms s
  | .slackReport => Sys2Proof.Machine.execSlackReport s
  | .stateCopy beat crcOk => Sys2Proof.Machine.execStateCopy beat crcOk s
  | .copyFailure => Sys2Proof.Machine.execCopyFailure s
  | .syncComplete => Sys2Proof.Machine.execSyncComplete s
  | .pinPathSilent unit => Sys2Proof.Machine.execPinPathSilent unit s
  | .islandReset unit => Sys2Proof.Machine.execIslandReset unit s
  | .unitBootDone unit b => Sys2Proof.Machine.execUnitBootDone unit b s
  | .bootTimeout unit => Sys2Proof.Machine.execBootTimeout unit s
  | .mgtSessionNonce h nonce => Sys2Proof.Machine.execMgtSessionNonce h nonce s
  | .mgtSessionOpen h tag => Sys2Proof.Machine.execMgtSessionOpen h tag s
  | .mgtSessionClose h => Sys2Proof.Machine.execMgtSessionClose h s
  | .statusGet h => Sys2Proof.Machine.execStatusGet h s
  | .liveness h hba hbb => Sys2Proof.Machine.execLiveness h hba hbb s
  | .regRead h off bytes => Sys2Proof.Machine.execRegRead h off bytes s
  | .regWrite h off bytes data => Sys2Proof.Machine.execRegWrite h off bytes data s
  | .capSet h capW clear => Sys2Proof.Machine.execCapSet h capW clear s
  | .powerReportGet h => Sys2Proof.Machine.execPowerReportGet h s
  | .poweroffNotice h => Sys2Proof.Machine.execPoweroffNotice h s
  | .poweroffGraceEnd => Sys2Proof.Machine.execPoweroffGraceEnd s
  | .planDeliver h offset total len last plan => Sys2Proof.Machine.execPlanDeliver h offset total len last plan s
  | .planWithdraw h planSeq => Sys2Proof.Machine.execPlanWithdraw h planSeq s
  | .resetReq h kind => Sys2Proof.Machine.execResetReq h kind s
  | .dumpReq h => Sys2Proof.Machine.execDumpReq h s
  | .dumpRead h word len => Sys2Proof.Machine.execDumpRead h word len s
  | .setEndpointId eid src => Sys2Proof.Machine.execSetEndpointId eid src s
  | .getEndpointId => Sys2Proof.Machine.execGetEndpointId s
  | .getMctpVersionSupport => Sys2Proof.Machine.execGetMctpVersionSupport s
  | .getMessageTypeSupport => Sys2Proof.Machine.execGetMessageTypeSupport s
  | .getVendorMessageSupport => Sys2Proof.Machine.execGetVendorMessageSupport s
  | .enec events => Sys2Proof.Machine.execEnec events s
  | .disec events => Sys2Proof.Machine.execDisec events s
  | .rstdaa => Sys2Proof.Machine.execRstdaa s
  | .entdaa addr => Sys2Proof.Machine.execEntdaa addr s
  | .setmwl len => Sys2Proof.Machine.execSetmwl len s
  | .setmrl len => Sys2Proof.Machine.execSetmrl len s
  | .getpid => Sys2Proof.Machine.execGetpid s
  | .getbcr => Sys2Proof.Machine.execGetbcr s
  | .getdcr => Sys2Proof.Machine.execGetdcr s
  | .getstatus => Sys2Proof.Machine.execGetstatus s
  | .getmwl => Sys2Proof.Machine.execGetmwl s
  | .getmrl => Sys2Proof.Machine.execGetmrl s
  | .powerOn sel1 sel0 => Sys2Proof.Machine.execPowerOn sel1 sel0 s
  | .railAssert rail => Sys2Proof.Machine.execRailAssert rail s
  | .railReqRetry => Sys2Proof.Machine.execRailReqRetry s
  | .railLoss rail => Sys2Proof.Machine.execRailLoss rail s
  | .prsntRemoval => Sys2Proof.Machine.execPrsntRemoval s
  | .inputFault => Sys2Proof.Machine.execInputFault s
  | .overcurrent => Sys2Proof.Machine.execOvercurrent s
  | .computeDieTestDone badTiles unitOk ioOk => Sys2Proof.Machine.execComputeDieTestDone badTiles unitOk ioOk s
  | .bringupReady ms => Sys2Proof.Machine.execBringupReady ms s
  | .hostLinkWindowEnd link => Sys2Proof.Machine.execHostLinkWindowEnd link s
  | .bringupWatchdog => Sys2Proof.Machine.execBringupWatchdog s
  | .nvmErase view off bytes data => Sys2Proof.Machine.execNvmErase view off bytes data s
  | .nvmProgram view off bytes data => Sys2Proof.Machine.execNvmProgram view off bytes data s
  | .nvmRead view off bytes data => Sys2Proof.Machine.execNvmRead view off bytes data s
  | .nvmBegin view off bytes data => Sys2Proof.Machine.execNvmBegin view off bytes data s
  | .nvmVerify view off bytes data => Sys2Proof.Machine.execNvmVerify view off bytes data s
  | .nvmSwitch view off bytes data => Sys2Proof.Machine.execNvmSwitch view off bytes data s
  | .nextBoot view off bytes data => Sys2Proof.Machine.execNextBoot view off bytes data s
  | .nvmEnd view off bytes data => Sys2Proof.Machine.execNvmEnd view off bytes data s
  | .cfgCommit view off bytes data => Sys2Proof.Machine.execCfgCommit view off bytes data s
  | .keyLoad view off bytes data => Sys2Proof.Machine.execKeyLoad view off bytes data s
  | .enrol view off bytes data => Sys2Proof.Machine.execEnrol view off bytes data s
  | .nvmRelease view off bytes data => Sys2Proof.Machine.execNvmRelease view off bytes data s
  | .attest view off bytes data => Sys2Proof.Machine.execAttest view off bytes data s
  | .nvmOpDone fail => Sys2Proof.Machine.execNvmOpDone fail s
  | .updateSecondUnit => Sys2Proof.Machine.execUpdateSecondUnit s
  | .updateAbandon => Sys2Proof.Machine.execUpdateAbandon s
  | .nvmProfileSelWrite view off bytes data => Sys2Proof.Machine.execNvmProfileSelWrite view off bytes data s
  | .reservedOpcode tile => Sys2Proof.Machine.execReservedOpcode tile s
  | .laneRelock port lane => Sys2Proof.Machine.execLaneRelock port lane s
  | .summaryRebuildDone ctx block => Sys2Proof.Machine.execSummaryRebuildDone ctx block s
  | .clockEnableDone page => Sys2Proof.Machine.execClockEnableDone page s
  | .deckleZeroingDone deckle => Sys2Proof.Machine.execDeckleZeroingDone deckle s
  | .railRemoval rail => Sys2Proof.Machine.execRailRemoval rail s
  | .perstRelease link => Sys2Proof.Machine.execPerstRelease link s
  | .malformedDuntusMessage h bodyLen => Sys2Proof.Machine.execMalformedDuntusMessage h bodyLen s
  | .s7Frame port net frame => Sys2Proof.Machine.execS7Frame port net frame s
  | .registerReadRefused view off bytes => Sys2Proof.Machine.execRegisterReadRefused view off bytes s

end Sys2Proof.Machine
end

