-- ==== Sys2Proof/WellFormed.lean ====
section
/-! DEFINITION. Which commands are well formed: the units they name are positions of the part (R18, R25, R306, R311,
R330, R343), and the records they carry have the lengths the spec gives (R223, R248, R315, R320, R339). -/

namespace Sys2Proof

/-- Units named by a command. -/
structure Units where
  tiles : List Nat := []
  ports : List Nat := []
  iods : List Nat := []
  stackTab : List Nat := []
  links : List Nat := []
  deckles : List Nat := []
  ctxs : List Nat := []
  views : List Nat := []
deriving DecidableEq, Repr

/-- Every unit named is a position of the module: tiles below 12,288 (R18), ports below 26, I/O dies below 2 and
stacks below 12 (R25), host links below 4 (R306), deckles below 16 (R311), contexts below 1,024 (R330), views below
21 (R343). -/
def Units.ok (u : Units) : Bool :=
  u.tiles.all (decide <| · < 12288) && u.ports.all (decide <| · < 26) && u.iods.all (decide <| · < 2) &&
    u.stackTab.all (decide <| · < 12) && u.links.all (decide <| · < 4) && u.deckles.all (decide <| · < 16) &&
    u.ctxs.all (decide <| · < 1024) && u.views.all (decide <| · < 21)

/-- The units a command names. -/
def Instr.units : Instr → Units
  | .beatBoundary _ => {}
  | .placementFreeze _ => {}
  | .marker port _ _ _ => { ports := [port] }
  | .alignTimeout => {}
  | .markerTimeout => {}
  | .sheetProgramFetch tile => { tiles := [tile] }
  | .sheetStart tile => { tiles := [tile] }
  | .sheetComplete tile => { tiles := [tile] }
  | .sheetWaitTimeout ctx _ => { ctxs := [ctx] }
  | .tileFence tile _ => { tiles := [tile] }
  | .tileFenced tile => { tiles := [tile] }
  | .fenceDrainTimeout tile => { tiles := [tile] }
  | .tileDeadlock tile => { tiles := [tile] }
  | .seqAdd tile => { tiles := [tile] }
  | .seqSub tile => { tiles := [tile] }
  | .seqMul tile => { tiles := [tile] }
  | .and_ tile => { tiles := [tile] }
  | .or_ tile => { tiles := [tile] }
  | .xor_ tile => { tiles := [tile] }
  | .shl tile => { tiles := [tile] }
  | .shr tile => { tiles := [tile] }
  | .sra tile => { tiles := [tile] }
  | .min_ tile => { tiles := [tile] }
  | .max_ tile => { tiles := [tile] }
  | .slt tile => { tiles := [tile] }
  | .sltu tile => { tiles := [tile] }
  | .seq tile => { tiles := [tile] }
  | .addi tile => { tiles := [tile] }
  | .andi tile => { tiles := [tile] }
  | .ori tile => { tiles := [tile] }
  | .xori tile => { tiles := [tile] }
  | .shli tile => { tiles := [tile] }
  | .shri tile => { tiles := [tile] }
  | .srai tile => { tiles := [tile] }
  | .slti tile => { tiles := [tile] }
  | .lil tile => { tiles := [tile] }
  | .lih tile => { tiles := [tile] }
  | .lds tile _ => { tiles := [tile] }
  | .sts tile _ => { tiles := [tile] }
  | .ldg tile _ => { tiles := [tile] }
  | .stg tile _ => { tiles := [tile] }
  | .l1FillDone tile _ => { tiles := [tile] }
  | .beq tile => { tiles := [tile] }
  | .bne tile => { tiles := [tile] }
  | .blt tile => { tiles := [tile] }
  | .bge tile => { tiles := [tile] }
  | .bltu tile => { tiles := [tile] }
  | .bgeu tile => { tiles := [tile] }
  | .jmp tile => { tiles := [tile] }
  | .call_ tile => { tiles := [tile] }
  | .ret_ tile => { tiles := [tile] }
  | .issue tile _ => { tiles := [tile] }
  | .sig tile => { tiles := [tile] }
  | .wait tile => { tiles := [tile] }
  | .fence tile _ => { tiles := [tile] }
  | .cinv tile => { tiles := [tile] }
  | .cwb tile => { tiles := [tile] }
  | .cwbi tile => { tiles := [tile] }
  | .movs tile => { tiles := [tile] }
  | .end_ tile => { tiles := [tile] }
  | .descriptorStart tile _ => { tiles := [tile] }
  | .descriptorComplete tile _ => { tiles := [tile] }
  | .matrixMultiply tile _ => { tiles := [tile] }
  | .vecAdd tile _ => { tiles := [tile] }
  | .vecSub tile _ => { tiles := [tile] }
  | .vecMul tile _ => { tiles := [tile] }
  | .vecFma tile _ => { tiles := [tile] }
  | .vecMax tile _ => { tiles := [tile] }
  | .vecMin tile _ => { tiles := [tile] }
  | .abs_ tile _ => { tiles := [tile] }
  | .neg_ tile _ => { tiles := [tile] }
  | .scale tile _ => { tiles := [tile] }
  | .exp2 tile _ => { tiles := [tile] }
  | .log2 tile _ => { tiles := [tile] }
  | .recip tile _ => { tiles := [tile] }
  | .rsqrt tile _ => { tiles := [tile] }
  | .vecSqrt tile _ => { tiles := [tile] }
  | .cvt tile _ => { tiles := [tile] }
  | .qmx tile _ => { tiles := [tile] }
  | .dqmx tile _ => { tiles := [tile] }
  | .rsum tile _ => { tiles := [tile] }
  | .rmax tile _ => { tiles := [tile] }
  | .rmin tile _ => { tiles := [tile] }
  | .dmaTransfer tile _ => { tiles := [tile] }
  | .dmaBurstIssue tile _ => { tiles := [tile] }
  | .dmaBurstDone tile _ _ _ => { tiles := [tile] }
  | .chestTransfer tile _ _ _ => { tiles := [tile] }
  | .chestWritePlaced tile _ => { tiles := [tile] }
  | .chestSpaceTimeout tile _ => { tiles := [tile] }
  | .screenQuery tile _ => { tiles := [tile] }
  | .screenQueryDone tile _ _ => { tiles := [tile] }
  | .blockMoveDone ctx _ _ => { ctxs := [ctx] }
  | .hostMemRead deckle _ _ _ => { deckles := [deckle] }
  | .hostMemWrite deckle _ _ => { deckles := [deckle] }
  | .scrub stack _ _ => { stackTab := [stack] }
  | .rowRepair stack _ => { stackTab := [stack] }
  | .rowRepairDone stack _ => { stackTab := [stack] }
  | .refreshRateChange stack _ => { stackTab := [stack] }
  | .memoryTrainingStart => {}
  | .memoryTrainingDone _ _ _ => {}
  | .halfStackFail stack _ => { stackTab := [stack] }
  | .signalDetect port _ => { ports := [port] }
  | .signalLoss port => { ports := [port] }
  | .detectTimeout port => { ports := [port] }
  | .lanesLocked port _ _ _ => { ports := [port] }
  | .phyTrainTimeout port => { ports := [port] }
  | .identifyTimeout port => { ports := [port] }
  | .sealTimeout port => { ports := [port] }
  | .retrainTimeout port => { ports := [port] }
  | .absentRetry port => { ports := [port] }
  | .identitySetSign => {}
  | .flitReceive port _ _ _ => { ports := [port] }
  | .replayTimeout port => { ports := [port] }
  | .idSeg port sender _ _ => { ports := [port, sender] }
  | .echo port _ _ _ _ => { ports := [port] }
  | .width port _ _ _ => { ports := [port] }
  | .sealKey port _ _ => { ports := [port] }
  | .hold_ port _ _ => { ports := [port] }
  | .sealTag port _ _ => { ports := [port] }
  | .sealRekey port => { ports := [port] }
  | .laneLockLoss port _ => { ports := [port] }
  | .laneRelockTimeout port _ => { ports := [port] }
  | .laneCsrLimit port _ => { ports := [port] }
  | .ethLinkUp port => { ports := [port] }
  | .ethLinkTimeout port => { ports := [port] }
  | .ethFrame port _ => { ports := [port] }
  | .s7Hello port _ _ => { ports := [port] }
  | .s7HelloTimeout port => { ports := [port] }
  | .packetRoute iod _ _ _ => { iods := [iod] }
  | .escapeDivert iod _ => { iods := [iod] }
  | .packetInject iod => { iods := [iod] }
  | .pktWrite iod _ => { iods := [iod] }
  | .readReq iod _ => { iods := [iod] }
  | .readRsp iod _ => { iods := [iod] }
  | .notice iod _ => { iods := [iod] }
  | .stampNoticeSend ctx _ => { ctxs := [ctx] }
  | .ack iod _ => { iods := [iod] }
  | .ackSend iod _ _ => { iods := [iod] }
  | .chestWr iod _ => { iods := [iod] }
  | .chestRd iod _ => { iods := [iod] }
  | .cmap iod _ => { iods := [iod] }
  | .cmapClose iod => { iods := [iod] }
  | .pairUnreachable iod _ => { iods := [iod] }
  | .collHash iod _ => { iods := [iod] }
  | .collGo iod _ => { iods := [iod] }
  | .collData iod _ => { iods := [iod] }
  | .collResult iod _ => { iods := [iod] }
  | .resend iod _ => { iods := [iod] }
  | .pull iod _ => { iods := [iod] }
  | .done_ iod _ => { iods := [iod] }
  | .finish iod _ => { iods := [iod] }
  | .collAbort iod _ => { iods := [iod] }
  | .chunkComplete ctx _ _ _ _ => { ctxs := [ctx] }
  | .collStepTimeout ctx _ => { ctxs := [ctx] }
  | .hostLinkUp link _ _ _ => { links := [link] }
  | .hostLinkDown link => { links := [link] }
  | .perst link => { links := [link] }
  | .configRequest link _ _ => { links := [link] }
  | .sqTailDoorbell _ _ _ => {}
  | .cqHeadDoorbell _ _ _ => {}
  | .commandFetch _ _ _ => {}
  | .commandTimeout _ => {}
  | .replayWindowEnd => {}
  | .sessionNonce _ _ => {}
  | .sessionOpen _ => {}
  | .sessionClose _ => {}
  | .queueCreate _ => {}
  | .queueDelete _ => {}
  | .bufRegister _ => {}
  | .bufUnregister _ => {}
  | .abortCmd _ => {}
  | .ctxCreate _ => {}
  | .reamLoad _ => {}
  | .ctxStart _ => {}
  | .ctxStop _ => {}
  | .ctxStatus _ => {}
  | .ctxWait _ => {}
  | .ctxTeardown _ => {}
  | .teardownDrainLimit ctx => { ctxs := [ctx] }
  | .teardownComplete ctx => { ctxs := [ctx] }
  | .teardownEscalate ctx => { ctxs := [ctx] }
  | .collGroup _ => {}
  | .chestCreate _ => {}
  | .chestFree _ => {}
  | .chestReencode _ => {}
  | .chestReadDesc _ => {}
  | .chestExport _ => {}
  | .chestImport _ _ _ => {}
  | .chestAdopt _ => {}
  | .headboxPin _ => {}
  | .headboxUnpin _ => {}
  | .headboxMove _ => {}
  | .headboxTier _ => {}
  | .headboxLend _ => {}
  | .headboxReplay _ => {}
  | .storQpCreate _ => {}
  | .storQpModify _ => {}
  | .storQpDestroy _ => {}
  | .storPost _ _ => {}
  | .deckleCreate _ => {}
  | .deckleDestroy _ => {}
  | .profileSelect _ => {}
  | .registerWrite view _ _ _ => { views := [view] }
  | .splitLowRead view _ _ => { views := [view] }
  | .splitHighRead view _ _ => { views := [view] }
  | .splitLowWrite view _ _ => { views := [view] }
  | .splitHighWrite view _ _ => { views := [view] }
  | .ctrlWrite view _ _ _ => { views := [view] }
  | .flogIdxWrite view _ _ _ => { views := [view] }
  | .brokeIdxWrite view _ _ _ => { views := [view] }
  | .dumpDataRead view _ _ => { views := [view] }
  | .dumpValidClear view _ _ _ => { views := [view] }
  | .rptDataRead view _ _ => { views := [view] }
  | .measIdxWrite view _ _ _ => { views := [view] }
  | .calenderPeakRead view _ _ _ => { views := [view] }
  | .cxlpAqWrite view _ _ _ => { views := [view] }
  | .deckleAqWrite view _ _ _ => { views := [view] }
  | .deckleAqReset view _ _ _ => { views := [view] }
  | .headboxJrnlBaseWrite view _ _ _ => { views := [view] }
  | .headboxJrnlCfgWrite view _ _ _ => { views := [view] }
  | .portRetrain view _ _ _ => { views := [view] }
  | .portEnableWrite view _ _ _ => { views := [view] }
  | .mdioRead view _ _ _ => { views := [view] }
  | .mdioWrite view _ _ _ => { views := [view] }
  | .mdioAddress view _ _ _ => { views := [view] }
  | .clkctlSrcWrite view _ _ _ => { views := [view] }
  | .clkctlEnWrite view _ _ _ => { views := [view] }
  | .calenderDlimWrite view _ _ _ => { views := [view] }
  | .tileFenceRequest view _ _ _ => { views := [view] }
  | .tileReturn view _ _ _ => { views := [view] }
  | .tileSelfTestDone tile _ => { tiles := [tile] }
  | .cdReset view _ _ _ => { views := [view] }
  | .pkgRecovery view _ _ _ => { views := [view] }
  | .dumpRequest view _ _ _ => { views := [view] }
  | .computeDomainReset _ _ => {}
  | .packageRecovery _ _ => {}
  | .drainLimit _ => {}
  | .dumpDone _ => {}
  | .cdResetReady _ => {}
  | .pkgRecoveryReady _ => {}
  | .cdResetEscalate => {}
  | .pkgRecoveryTimeout => {}
  | .brokeMapPersist => {}
  | .refclkLoss => {}
  | .refclkReturn => {}
  | .rootLock _ => {}
  | .rootReady _ => {}
  | .rootLockLoss _ => {}
  | .droopTrigger _ _ => {}
  | .droopEnd _ => {}
  | .energyBucketClose _ => {}
  | .calenderDecision _ _ _ _ _ => {}
  | .tempSample _ _ => {}
  | .thermtripRelease => {}
  | .leakSample _ => {}
  | .slackReport => {}
  | .stateCopy _ _ => {}
  | .copyFailure => {}
  | .syncComplete => {}
  | .pinPathSilent _ => {}
  | .islandReset _ => {}
  | .unitBootDone _ _ => {}
  | .bootTimeout _ => {}
  | .mgtSessionNonce _ _ => {}
  | .mgtSessionOpen _ _ => {}
  | .mgtSessionClose _ => {}
  | .statusGet _ => {}
  | .liveness _ _ _ => {}
  | .regRead _ _ _ => {}
  | .regWrite _ _ _ _ => {}
  | .capSet _ _ _ => {}
  | .powerReportGet _ => {}
  | .poweroffNotice _ => {}
  | .poweroffGraceEnd => {}
  | .planDeliver _ _ _ _ _ _ => {}
  | .planWithdraw _ _ => {}
  | .resetReq _ _ => {}
  | .dumpReq _ => {}
  | .dumpRead _ _ _ => {}
  | .setEndpointId _ _ => {}
  | .getEndpointId => {}
  | .getMctpVersionSupport => {}
  | .getMessageTypeSupport => {}
  | .getVendorMessageSupport => {}
  | .enec _ => {}
  | .disec _ => {}
  | .rstdaa => {}
  | .entdaa _ => {}
  | .setmwl _ => {}
  | .setmrl _ => {}
  | .getpid => {}
  | .getbcr => {}
  | .getdcr => {}
  | .getstatus => {}
  | .getmwl => {}
  | .getmrl => {}
  | .powerOn _ _ => {}
  | .railAssert _ => {}
  | .railReqRetry => {}
  | .railLoss _ => {}
  | .prsntRemoval => {}
  | .inputFault => {}
  | .overcurrent => {}
  | .computeDieTestDone _ _ _ => {}
  | .bringupReady _ => {}
  | .hostLinkWindowEnd link => { links := [link] }
  | .bringupWatchdog => {}
  | .nvmErase view _ _ _ => { views := [view] }
  | .nvmProgram view _ _ _ => { views := [view] }
  | .nvmRead view _ _ _ => { views := [view] }
  | .nvmBegin view _ _ _ => { views := [view] }
  | .nvmVerify view _ _ _ => { views := [view] }
  | .nvmSwitch view _ _ _ => { views := [view] }
  | .nextBoot view _ _ _ => { views := [view] }
  | .nvmEnd view _ _ _ => { views := [view] }
  | .cfgCommit view _ _ _ => { views := [view] }
  | .keyLoad view _ _ _ => { views := [view] }
  | .enrol view _ _ _ => { views := [view] }
  | .nvmRelease view _ _ _ => { views := [view] }
  | .attest view _ _ _ => { views := [view] }
  | .nvmOpDone _ => {}
  | .updateSecondUnit => {}
  | .updateAbandon => {}
  | .nvmProfileSelWrite view _ _ _ => { views := [view] }
  | .reservedOpcode tile => { tiles := [tile] }
  | .laneRelock port _ => { ports := [port] }
  | .summaryRebuildDone ctx _ => { ctxs := [ctx] }
  | .clockEnableDone _ => {}
  | .deckleZeroingDone deckle => { deckles := [deckle] }
  | .railRemoval _ => {}
  | .perstRelease link => { links := [link] }
  | .malformedDuntusMessage _ _ => {}
  | .s7Frame port _ _ => { ports := [port] }
  | .registerReadRefused view _ _ => { views := [view] }

/-- The lengths and numbers a command carries are ones its record has. -/
def Instr.shapeOk : Instr → Bool
  | .beatBoundary silent => silent.all fun u => decide (u < 2)
  | .placementFreeze _ => true
  | .marker _ _ _ _ => true
  | .alignTimeout => true
  | .markerTimeout => true
  | .sheetProgramFetch _ => true
  | .sheetStart _ => true
  | .sheetComplete _ => true
  | .sheetWaitTimeout _ _ => true
  | .tileFence _ _ => true
  | .tileFenced _ => true
  | .fenceDrainTimeout _ => true
  | .tileDeadlock _ => true
  | .seqAdd _ => true
  | .seqSub _ => true
  | .seqMul _ => true
  | .and_ _ => true
  | .or_ _ => true
  | .xor_ _ => true
  | .shl _ => true
  | .shr _ => true
  | .sra _ => true
  | .min_ _ => true
  | .max_ _ => true
  | .slt _ => true
  | .sltu _ => true
  | .seq _ => true
  | .addi _ => true
  | .andi _ => true
  | .ori _ => true
  | .xori _ => true
  | .shli _ => true
  | .shri _ => true
  | .srai _ => true
  | .slti _ => true
  | .lil _ => true
  | .lih _ => true
  | .lds _ _ => true
  | .sts _ _ => true
  | .ldg _ _ => true
  | .stg _ _ => true
  | .l1FillDone _ _ => true
  | .beq _ => true
  | .bne _ => true
  | .blt _ => true
  | .bge _ => true
  | .bltu _ => true
  | .bgeu _ => true
  | .jmp _ => true
  | .call_ _ => true
  | .ret_ _ => true
  | .issue _ _ => true
  | .sig _ => true
  | .wait _ => true
  | .fence _ _ => true
  | .cinv _ => true
  | .cwb _ => true
  | .cwbi _ => true
  | .movs _ => true
  | .end_ _ => true
  | .descriptorStart _ _ => true
  | .descriptorComplete _ _ => true
  | .matrixMultiply _ _ => true
  | .vecAdd _ _ => true
  | .vecSub _ _ => true
  | .vecMul _ _ => true
  | .vecFma _ _ => true
  | .vecMax _ _ => true
  | .vecMin _ _ => true
  | .abs_ _ _ => true
  | .neg_ _ _ => true
  | .scale _ _ => true
  | .exp2 _ _ => true
  | .log2 _ _ => true
  | .recip _ _ => true
  | .rsqrt _ _ => true
  | .vecSqrt _ _ => true
  | .cvt _ _ => true
  | .qmx _ _ => true
  | .dqmx _ _ => true
  | .rsum _ _ => true
  | .rmax _ _ => true
  | .rmin _ _ => true
  | .dmaTransfer _ _ => true
  | .dmaBurstIssue _ _ => true
  | .dmaBurstDone _ _ _ _ => true
  | .chestTransfer _ _ _ _ => true
  | .chestWritePlaced _ _ => true
  | .chestSpaceTimeout _ _ => true
  | .screenQuery _ _ => true
  | .screenQueryDone _ _ _ => true
  | .blockMoveDone _ _ _ => true
  | .hostMemRead _ _ _ _ => true
  | .hostMemWrite _ _ _ => true
  | .scrub _ channel symbols => decide (channel < 32 ∧ symbols ≤ 72)
  | .rowRepair _ _ => true
  | .rowRepairDone _ _ => true
  | .refreshRateChange _ _ => true
  | .memoryTrainingStart => true
  | .memoryTrainingDone _ _ _ => true
  | .halfStackFail _ half => decide (half < 2)
  | .signalDetect _ _ => true
  | .signalLoss _ => true
  | .detectTimeout _ => true
  | .lanesLocked _ _ _ _ => true
  | .phyTrainTimeout _ => true
  | .identifyTimeout _ => true
  | .sealTimeout _ => true
  | .retrainTimeout _ => true
  | .absentRetry _ => true
  | .identitySetSign => true
  | .flitReceive _ f _ ucw => decide (f.payload.length = 240) && decide (ucw.length ≤ 4)
  | .replayTimeout _ => true
  | .idSeg _ _ _ _ => true
  | .echo _ _ _ _ _ => true
  | .width _ _ _ _ => true
  | .sealKey _ _ _ => true
  | .hold_ _ _ _ => true
  | .sealTag _ _ _ => true
  | .sealRekey _ => true
  | .laneLockLoss _ lane => decide (lane < 4)
  | .laneRelockTimeout _ lane => decide (lane < 4)
  | .laneCsrLimit _ lane => decide (lane < 4)
  | .ethLinkUp _ => true
  | .ethLinkTimeout _ => true
  | .ethFrame _ _ => true
  | .s7Hello _ _ _ => true
  | .s7HelloTimeout _ => true
  | .packetRoute _ _ slot _ => decide (slot < 256)
  | .escapeDivert _ _ => true
  | .packetInject _ => true
  | .pktWrite _ p => decide (p.payload.length ≤ 2048)
  | .readReq _ p => decide (p.payload.length ≤ 2048)
  | .readRsp _ p => decide (p.payload.length ≤ 2048)
  | .notice _ p => decide (p.payload.length ≤ 2048)
  | .stampNoticeSend _ _ => true
  | .ack _ p => decide (p.payload.length ≤ 2048)
  | .ackSend _ _ _ => true
  | .chestWr _ p => decide (p.payload.length ≤ 2048)
  | .chestRd _ p => decide (p.payload.length ≤ 2048)
  | .cmap _ p => decide (p.payload.length ≤ 2048)
  | .cmapClose _ => true
  | .pairUnreachable _ _ => true
  | .collHash _ p => decide (p.payload.length ≤ 2048)
  | .collGo _ p => decide (p.payload.length ≤ 2048)
  | .collData _ p => decide (p.payload.length ≤ 2048)
  | .collResult _ p => decide (p.payload.length ≤ 2048)
  | .resend _ p => decide (p.payload.length ≤ 2048)
  | .pull _ p => decide (p.payload.length ≤ 2048)
  | .done_ _ p => decide (p.payload.length ≤ 2048)
  | .finish _ p => decide (p.payload.length ≤ 2048)
  | .collAbort _ p => decide (p.payload.length ≤ 2048)
  | .chunkComplete _ _ _ _ _ => true
  | .collStepTimeout _ _ => true
  | .hostLinkUp _ _ _ _ => true
  | .hostLinkDown _ => true
  | .perst _ => true
  | .configRequest _ _ _ => true
  | .sqTailDoorbell fn queue _ => decide (fn < 20) && decide (queue < 64)
  | .cqHeadDoorbell fn queue _ => decide (fn < 20) && decide (queue < 64)
  | .commandFetch fn queue desc => decide (fn < 20) && decide (queue < 64) && decide (desc.length = 128)
  | .commandTimeout c => decide (c.fn < 20) && decide (c.queue < 64)
  | .replayWindowEnd => true
  | .sessionNonce c nonce => decide (c.fn < 20) && decide (c.queue < 64) && decide (nonce.length = 32)
  | .sessionOpen c => decide (c.fn < 20) && decide (c.queue < 64)
  | .sessionClose c => decide (c.fn < 20) && decide (c.queue < 64)
  | .queueCreate c => decide (c.fn < 20) && decide (c.queue < 64)
  | .queueDelete c => decide (c.fn < 20) && decide (c.queue < 64)
  | .bufRegister c => decide (c.fn < 20) && decide (c.queue < 64)
  | .bufUnregister c => decide (c.fn < 20) && decide (c.queue < 64)
  | .abortCmd c => decide (c.fn < 20) && decide (c.queue < 64)
  | .ctxCreate c => decide (c.fn < 20) && decide (c.queue < 64)
  | .reamLoad c => decide (c.fn < 20) && decide (c.queue < 64)
  | .ctxStart c => decide (c.fn < 20) && decide (c.queue < 64)
  | .ctxStop c => decide (c.fn < 20) && decide (c.queue < 64)
  | .ctxStatus c => decide (c.fn < 20) && decide (c.queue < 64)
  | .ctxWait c => decide (c.fn < 20) && decide (c.queue < 64)
  | .ctxTeardown c => decide (c.fn < 20) && decide (c.queue < 64)
  | .teardownDrainLimit _ => true
  | .teardownComplete _ => true
  | .teardownEscalate _ => true
  | .collGroup c => decide (c.fn < 20) && decide (c.queue < 64)
  | .chestCreate c => decide (c.fn < 20) && decide (c.queue < 64)
  | .chestFree c => decide (c.fn < 20) && decide (c.queue < 64)
  | .chestReencode c => decide (c.fn < 20) && decide (c.queue < 64)
  | .chestReadDesc c => decide (c.fn < 20) && decide (c.queue < 64)
  | .chestExport c => decide (c.fn < 20) && decide (c.queue < 64)
  | .chestImport c _ _ => decide (c.fn < 20) && decide (c.queue < 64)
  | .chestAdopt c => decide (c.fn < 20) && decide (c.queue < 64)
  | .headboxPin c => decide (c.fn < 20) && decide (c.queue < 64)
  | .headboxUnpin c => decide (c.fn < 20) && decide (c.queue < 64)
  | .headboxMove c => decide (c.fn < 20) && decide (c.queue < 64)
  | .headboxTier c => decide (c.fn < 20) && decide (c.queue < 64)
  | .headboxLend c => decide (c.fn < 20) && decide (c.queue < 64)
  | .headboxReplay c => decide (c.fn < 20) && decide (c.queue < 64)
  | .storQpCreate c => decide (c.fn < 20) && decide (c.queue < 64)
  | .storQpModify c => decide (c.fn < 20) && decide (c.queue < 64)
  | .storQpDestroy c => decide (c.fn < 20) && decide (c.queue < 64)
  | .storPost c _ => decide (c.fn < 20) && decide (c.queue < 64)
  | .deckleCreate c => decide (c.fn < 20) && decide (c.queue < 64)
  | .deckleDestroy c => decide (c.fn < 20) && decide (c.queue < 64)
  | .profileSelect c => decide (c.fn < 20) && decide (c.queue < 64)
  | .registerWrite _ _ _ _ => true
  | .splitLowRead _ _ bytes => (bytes == 4 || bytes == 8)
  | .splitHighRead _ _ bytes => (bytes == 4 || bytes == 8)
  | .splitLowWrite _ _ _ => true
  | .splitHighWrite _ _ _ => true
  | .ctrlWrite _ _ bytes _ => (bytes == 4 || bytes == 8)
  | .flogIdxWrite _ _ bytes _ => (bytes == 4 || bytes == 8)
  | .brokeIdxWrite _ _ bytes _ => (bytes == 4 || bytes == 8)
  | .dumpDataRead _ _ bytes => (bytes == 4 || bytes == 8)
  | .dumpValidClear _ _ bytes _ => (bytes == 4 || bytes == 8)
  | .rptDataRead _ _ bytes => (bytes == 4 || bytes == 8)
  | .measIdxWrite _ _ bytes _ => (bytes == 4 || bytes == 8)
  | .calenderPeakRead _ _ bytes _ => (bytes == 4 || bytes == 8)
  | .cxlpAqWrite _ _ bytes _ => (bytes == 4 || bytes == 8)
  | .deckleAqWrite _ _ bytes _ => (bytes == 4 || bytes == 8)
  | .deckleAqReset _ _ bytes _ => (bytes == 4 || bytes == 8)
  | .headboxJrnlBaseWrite _ _ bytes _ => (bytes == 4 || bytes == 8)
  | .headboxJrnlCfgWrite _ _ bytes _ => (bytes == 4 || bytes == 8)
  | .portRetrain _ _ bytes _ => (bytes == 4 || bytes == 8)
  | .portEnableWrite _ _ bytes _ => (bytes == 4 || bytes == 8)
  | .mdioRead _ _ bytes _ => (bytes == 4 || bytes == 8)
  | .mdioWrite _ _ bytes _ => (bytes == 4 || bytes == 8)
  | .mdioAddress _ _ bytes _ => (bytes == 4 || bytes == 8)
  | .clkctlSrcWrite _ _ bytes _ => (bytes == 4 || bytes == 8)
  | .clkctlEnWrite _ _ bytes _ => (bytes == 4 || bytes == 8)
  | .calenderDlimWrite _ _ bytes _ => (bytes == 4 || bytes == 8)
  | .tileFenceRequest _ _ bytes _ => (bytes == 4 || bytes == 8)
  | .tileReturn _ _ bytes _ => (bytes == 4 || bytes == 8)
  | .tileSelfTestDone _ _ => true
  | .cdReset _ _ bytes _ => (bytes == 4 || bytes == 8)
  | .pkgRecovery _ _ bytes _ => (bytes == 4 || bytes == 8)
  | .dumpRequest _ _ bytes _ => (bytes == 4 || bytes == 8)
  | .computeDomainReset _ _ => true
  | .packageRecovery _ _ => true
  | .drainLimit _ => true
  | .dumpDone unreachable => unreachable.all fun u => decide (1 ≤ u.1 ∧ u.1 ≤ 6)
  | .cdResetReady _ => true
  | .pkgRecoveryReady _ => true
  | .cdResetEscalate => true
  | .pkgRecoveryTimeout => true
  | .brokeMapPersist => true
  | .refclkLoss => true
  | .refclkReturn => true
  | .rootLock root => decide (root < 2)
  | .rootReady root => decide (root < 2)
  | .rootLockLoss root => decide (root < 2)
  | .droopTrigger die _ => decide (die < 4)
  | .droopEnd die => decide (die < 4)
  | .energyBucketClose _ => true
  | .calenderDecision _ _ _ _ _ => true
  | .tempSample _ _ => true
  | .thermtripRelease => true
  | .leakSample _ => true
  | .slackReport => true
  | .stateCopy _ _ => true
  | .copyFailure => true
  | .syncComplete => true
  | .pinPathSilent unit => decide (unit < 2)
  | .islandReset unit => decide (unit < 2)
  | .unitBootDone unit _ => decide (unit < 2)
  | .bootTimeout unit => decide (unit < 2)
  | .mgtSessionNonce _ nonce => decide (nonce.length = 32)
  | .mgtSessionOpen _ _ => true
  | .mgtSessionClose _ => true
  | .statusGet _ => true
  | .liveness _ _ _ => true
  | .regRead _ _ bytes => (bytes == 4 || bytes == 8)
  | .regWrite _ _ bytes _ => (bytes == 4 || bytes == 8)
  | .capSet _ _ _ => true
  | .powerReportGet _ => true
  | .poweroffNotice _ => true
  | .poweroffGraceEnd => true
  | .planDeliver _ _ _ _ _ _ => true
  | .planWithdraw _ _ => true
  | .resetReq _ _ => true
  | .dumpReq _ => true
  | .dumpRead _ _ _ => true
  | .setEndpointId _ _ => true
  | .getEndpointId => true
  | .getMctpVersionSupport => true
  | .getMessageTypeSupport => true
  | .getVendorMessageSupport => true
  | .enec _ => true
  | .disec _ => true
  | .rstdaa => true
  | .entdaa _ => true
  | .setmwl _ => true
  | .setmrl _ => true
  | .getpid => true
  | .getbcr => true
  | .getdcr => true
  | .getstatus => true
  | .getmwl => true
  | .getmrl => true
  | .powerOn _ _ => true
  | .railAssert rail => decide (rail < 4)
  | .railReqRetry => true
  | .railLoss rail => decide (rail < 4)
  | .prsntRemoval => true
  | .inputFault => true
  | .overcurrent => true
  | .computeDieTestDone _ _ _ => true
  | .bringupReady _ => true
  | .hostLinkWindowEnd _ => true
  | .bringupWatchdog => true
  | .nvmErase _ _ bytes _ => (bytes == 4 || bytes == 8)
  | .nvmProgram _ _ bytes _ => (bytes == 4 || bytes == 8)
  | .nvmRead _ _ bytes _ => (bytes == 4 || bytes == 8)
  | .nvmBegin _ _ bytes _ => (bytes == 4 || bytes == 8)
  | .nvmVerify _ _ bytes _ => (bytes == 4 || bytes == 8)
  | .nvmSwitch _ _ bytes _ => (bytes == 4 || bytes == 8)
  | .nextBoot _ _ bytes _ => (bytes == 4 || bytes == 8)
  | .nvmEnd _ _ bytes _ => (bytes == 4 || bytes == 8)
  | .cfgCommit _ _ bytes _ => (bytes == 4 || bytes == 8)
  | .keyLoad _ _ bytes _ => (bytes == 4 || bytes == 8)
  | .enrol _ _ bytes _ => (bytes == 4 || bytes == 8)
  | .nvmRelease _ _ bytes _ => (bytes == 4 || bytes == 8)
  | .attest _ _ bytes _ => (bytes == 4 || bytes == 8)
  | .nvmOpDone _ => true
  | .updateSecondUnit => true
  | .updateAbandon => true
  | .nvmProfileSelWrite _ _ bytes _ => (bytes == 4 || bytes == 8)
  | .reservedOpcode _ => true
  | .laneRelock _ lane => decide (lane < 4)
  | .summaryRebuildDone _ _ => true
  | .clockEnableDone _ => true
  | .deckleZeroingDone _ => true
  | .railRemoval rail => decide (rail < 4)
  | .perstRelease _ => true
  | .malformedDuntusMessage _ _ => true
  | .s7Frame _ net _ => decide (net < 2)
  | .registerReadRefused _ _ _ => true

/-- A well-formed command. -/
def Instr.wellFormed (i : Instr) : Bool := i.units.ok && i.shapeOk

end Sys2Proof
end

