-- ==== Sys2Proof/Safety.lean ====
section
/-! DEFINITION. What a safe run is: one that no command stops. -/

namespace Sys2Proof

/-- The next step is taken: it ends in no fault and no refusal. -/
def Safe (s : Machine.State) : Prop := ∃ t, Machine.step s = .next t

/-- The states `n` steps later, if no step stops. -/
def after : Nat → Machine.State → Option Machine.State
  | 0, s => some s
  | n + 1, s =>
    match Machine.step s with
    | .next t => after n t
    | .fault _ => none
    | .refused _ => none

/-- The queue can be run to its end. -/
def SafeRun (s : Machine.State) : Prop := ∃ t, after s.pending.length s = some t

/-- Every memory and every numbered resource of the state is in canonical form: equal maps are equal lists. -/
structure Canon (s : Machine.State) : Prop where
  regs : Machine.Sparse.wf Machine.regReset s.regs = true
  flog : Machine.Sparse.wf (fun _ => none) s.flog = true
  tiles : Machine.Sparse.wf (fun _ => Machine.Tile.reset) s.tiles = true
  spad : Machine.Memory.wf 0 s.spad = true
  hbm : Machine.Memory.wf 0 s.hbm = true
  poison : Machine.Sparse.wf (fun _ => false) s.poison = true
  ctxs : Machine.Sparse.wf (fun _ => Machine.Ctx.reset) s.ctxs = true
  deckles : Machine.Sparse.wf (fun _ => Machine.Deckle.reset) s.deckles = true
  queues : Machine.Sparse.wf (fun _ => Machine.Queue.reset) s.queues = true
  sessions : Machine.Sparse.wf (fun _ => Machine.Session.reset) s.sessions = true
  stackTab : Machine.Sparse.wf (fun _ => Machine.Stack.reset) s.stackTab = true
  routers : Machine.Sparse.wf (fun _ => Machine.Router.reset) s.routers = true
  ports : Machine.Sparse.wf (fun _ => Machine.Port.reset) s.ports = true
  nor : Machine.Memory.wf Machine.norBlank s.nvm.nor = true

end Sys2Proof
end

