-- ==== Sys2Proof/Certificates/Slice0/Obligations.lean ====
section
/-! DEFINITION. The statements for the provers. -/

section
open Sys2Proof Sys2Proof.Machine

/-- A step takes the command at the front of the queue and answers what exec answers with the queue's rest; on an empty queue
the block idles. Where the spec leaves it open, this states choices of the model: log 3. -/
def Obligations.StepTakesFront : Prop :=
  (∀ (s : State) (c : Instr) (r : List Instr), s.pending = c :: r → step s = exec c { s with pending := r }) ∧
  ∀ s : State, s.pending = [] → step s = .next s

/-! Tile programs: the scalar sequencer (R84-R89). -/

/-- The next instruction of a running tile is `i`, of opcode `op`, in the run `r` of its sheet. -/
def Sys2Proof.Claims.Issues (s : State) (tile op : Nat) (r : Run) (i : SeqInstr) : Prop :=
  tile < 12288 ∧ s.nextInstr tile = some (r, i) ∧ i.op = op

open Sys2Proof.Claims

/-- R58: g0 reads 0 and discards writes; a write to any other general register changes that one alone, and nothing else
of the tile. -/
def Obligations.GeneralRegisters : Prop :=
  ∀ (t : Tile) (n m : Nat) (v : Word),
    (t.setGr n v).gr m = (if m = 0 then 0 else if m = n then v else t.gr m) ∧ t.setGr 0 v = t ∧
    { t.setGr n v with g := t.g } = t

/-- R86: each row of format A writes rd with the operation named on rs1 and rs2, each of format I from rs1 and the immediate,
sign-extended to 64 bits, and goes on to the next instruction; LIL zero-extends the immediate, LIH puts it above the lower half
of rd. Nothing but that register and the tile's program counter changes. -/
def Obligations.SeqArithmeticRows : Prop :=
  (∀ (s : State) (tile op : Nat) (r : Run) (i : SeqInstr), Issues s tile op r i →
     let a := (s.tile tile).gr i.rs1
     let b := (s.tile tile).gr i.rs2
     let put (v : Word) : State := s.setTile tile ((s.tile tile).setGr i.rd v).advance
     (op = 0x10 → exec (.seqAdd tile) s = .next (put (a + b))) ∧
     (op = 0x11 → exec (.seqSub tile) s = .next (put (a - b))) ∧
     (op = 0x12 → exec (.seqMul tile) s = .next (put (a * b))) ∧
     (op = 0x13 → exec (.and_ tile) s = .next (put (a &&& b))) ∧
     (op = 0x14 → exec (.or_ tile) s = .next (put (a ||| b))) ∧
     (op = 0x15 → exec (.xor_ tile) s = .next (put (a ^^^ b))) ∧
     (op = 0x16 → exec (.shl tile) s = .next (put (a <<< (b.toNat % 64)))) ∧
     (op = 0x17 → exec (.shr tile) s = .next (put (a >>> (b.toNat % 64)))) ∧
     (op = 0x18 → exec (.sra tile) s = .next (put (a.sshiftRight (b.toNat % 64)))) ∧
     (op = 0x19 → exec (.min_ tile) s = .next (put (if b.toInt < a.toInt then b else a))) ∧
     (op = 0x1A → exec (.max_ tile) s = .next (put (if a.toInt < b.toInt then b else a))) ∧
     (op = 0x1B → exec (.slt tile) s = .next (put (if a.toInt < b.toInt then 1 else 0))) ∧
     (op = 0x1C → exec (.sltu tile) s = .next (put (if a.toNat < b.toNat then 1 else 0))) ∧
     (op = 0x1D → exec (.seq tile) s = .next (put (if a = b then 1 else 0)))) ∧
  (∀ (s : State) (tile op : Nat) (r : Run) (i : SeqInstr), Issues s tile op r i →
     let a := (s.tile tile).gr i.rs1
     let k := BitVec.ofInt 64 i.imm
     let low := BitVec.ofInt 32 i.imm
     let put (v : Word) : State := s.setTile tile ((s.tile tile).setGr i.rd v).advance
     (op = 0x20 → exec (.addi tile) s = .next (put (a + k))) ∧
     (op = 0x23 → exec (.andi tile) s = .next (put (a &&& k))) ∧
     (op = 0x24 → exec (.ori tile) s = .next (put (a ||| k))) ∧
     (op = 0x25 → exec (.xori tile) s = .next (put (a ^^^ k))) ∧
     (op = 0x26 → exec (.shli tile) s = .next (put (a <<< (k.toNat % 64)))) ∧
     (op = 0x27 → exec (.shri tile) s = .next (put (a >>> (k.toNat % 64)))) ∧
     (op = 0x28 → exec (.srai tile) s = .next (put (a.sshiftRight (k.toNat % 64)))) ∧
     (op = 0x2B → exec (.slti tile) s = .next (put (if a.toInt < k.toInt then 1 else 0))) ∧
     (op = 0x2E → exec (.lil tile) s = .next (put (low.zeroExtend 64))) ∧
     (op = 0x2F → exec (.lih tile) s =
       .next (put (low ++ ((s.tile tile).gr i.rd).extractLsb' 0 32))))

/-- R69, R85-R87: a branch goes to its target when its condition holds and on otherwise; CALL pushes the offset of the
following instruction, RET goes to the offset it pops. A target outside the program faults the context at the branch, a reserved
word at the program counter faults it there, and so does a tile in which no token can ever be signalled, which is counted and
raised first. -/
def Obligations.SeqControlRows : Prop :=
  (∀ (s : State) (tile op : Nat) (r : Run) (i : SeqInstr), Issues s tile op r i →
     let t := s.tile tile
     let a := t.gr i.rs1
     let b := t.gr i.rs2
     let aim : Int := t.pc + 8 * i.imm
     let go (x : Int) (st : List Nat) : State :=
       if 0 ≤ x ∧ x < r.h.codeLen then s.setTile tile { t with stack := st, pc := x.toNat, blocked := .no }
       else s.seqFault tile r 0x0B t.pc
     let br (c : Prop) [Decidable c] : State :=
       if c then go aim t.stack else s.setTile tile t.advance
     (op = 0x40 → exec (.beq tile) s = .next (br (a = b))) ∧
     (op = 0x41 → exec (.bne tile) s = .next (br (a ≠ b))) ∧
     (op = 0x42 → exec (.blt tile) s = .next (br (a.toInt < b.toInt))) ∧
     (op = 0x43 → exec (.bge tile) s = .next (br (b.toInt ≤ a.toInt))) ∧
     (op = 0x44 → exec (.bltu tile) s = .next (br (a.toNat < b.toNat))) ∧
     (op = 0x45 → exec (.bgeu tile) s = .next (br (b.toNat ≤ a.toNat))) ∧
     (op = 0x46 → exec (.jmp tile) s = .next (go aim t.stack)) ∧
     (op = 0x48 → t.stack.length < 8 → exec (.call_ tile) s = .next (go aim ((t.pc + 8) :: t.stack))) ∧
     (op = 0x48 → 8 ≤ t.stack.length → exec (.call_ tile) s = .next (s.seqFault tile r 0x0B t.pc)) ∧
     (op = 0x49 → ∀ p rest, t.stack = p :: rest → exec (.ret_ tile) s = .next (go p rest)) ∧
     (op = 0x49 → t.stack = [] → exec (.ret_ tile) s = .next (s.seqFault tile r 0x0B t.pc))) ∧
  (∀ (s : State) (tile : Nat) (q : Nat × Nat × Nat), tile < 12288 → (s.tile tile).running = some q →
     let t := s.tile tile
     let r := s.runOf q
     (t.blocked = .no → ∀ w, t.prog[t.pc / 8]? = some w → decodeSeq w = none →
       exec (.reservedOpcode tile) s = .next (s.seqFault tile r 0x0B t.pc)) ∧
     (s.deadlocked tile = true → exec (.tileDeadlock tile) s =
       .next (((s.bump C.TILE_DEADLOCK_CNT (groupOf tile)).raiseTo E.TILE_deadlock [r.x.deckle] (groupOf tile)).seqFault
         tile r 0x0B t.pc)))

/-- R59, R61, R85-R87, R121, R122, R137: loads and stores of an aligned address inside the tile's limit, or in local HBM allowed
to the sheet, outside the chest arena and held by the L1, with the byte value zero-extended; a line not held is waited for, and the
fill brings it. A single-bit error found is corrected in the access and counted, a tag or a clean line in error is fetched again,
and an uncorrectable error elsewhere fences the tile. Where the spec leaves it open, this states choices of the model: log 102. -/
def Obligations.SeqMemoryRows : Prop :=
  (∀ (s : State) (tile op : Nat) (r : Run) (i : SeqInstr) (ecc : StoreEcc), Issues s tile op r i →
    let t := s.tile tile
    let a := t.seqAddr i
    let n := i.bytes
    let hit (l : Line) : State := s.setTile tile (if op = 0x32
      then ((t.useLine l).setGr i.rd (BitVec.ofNat 64 (leNat (l.read (a % 128) n)))).advance
      else (t.useLine (l.write (a % 128) (leBytes n (t.gr i.rd).toNat))).advance)
    let again (l : Line) : State := s.setTile tile { t with l1 := t.l1.filter fun m => m.addr != l.addr, blocked := .miss }
    let done (x : State) : Prop :=
      (op = 0x32 → exec (.ldg tile ecc) s = .next x) ∧ (op = 0x33 → exec (.stg tile ecc) s = .next x)
    (op = 0x30 → a % n = 0 → a + n ≤ t.limit → exec (.lds tile ecc) s = .next ((s.blur tile).withEcc tile ecc fun s =>
      s.setTile tile ((s.tile tile).setGr i.rd (BitVec.ofNat 64 (leNat (s.spadRead tile a n)))).advance)) ∧
    (op = 0x31 → a % n = 0 → a + n ≤ t.limit → exec (.sts tile ecc) s = .next ((s.blur tile).withEcc tile ecc fun s =>
      (s.spadWrite tile a (leBytes n ((s.tile tile).gr i.rd).toNat)).setTile tile (s.tile tile).advance)) ∧
    (op = 0x30 → a % n = 0 → t.limit < a + n →
      exec (.lds tile ecc) s = .next (s.accessFault tile r 0x0B 1 (max a t.limit))) ∧
    (op = 0x31 → a % n = 0 → t.limit < a + n →
      exec (.sts tile ecc) s = .next (s.accessFault tile r 0x0B 1 (max a t.limit))) ∧
    (a % n = 0 → r.allowed (op == 0x33) 0 0 a n = true → s.inArena r.x.deckle a n = false →
      (∀ l, t.findLine a = some l →
        (ecc = .ok → done (hit l)) ∧
        (∀ w, ecc = .corrected w → done ((hit l).corrected tile (some w))) ∧
        (ecc = .tagParity → done ((again l).corrected tile none)) ∧
        (∀ w, ecc = .uncorrectable w → l.mask = 0 → done ((again l).corrected tile (some w))) ∧
        (∀ w, ecc = .uncorrectable w → l.mask ≠ 0 → done (s.errorFence tile 0x0D true))) ∧
      (t.findLine a = none → done (s.setTile tile { t with blocked := .miss }))) ∧
    (a % n = 0 → r.allowed (op == 0x33) 0 0 a n = true → s.inArena r.x.deckle a n = true →
      done (s.accessFault tile r 0x0B 0 a)) ∧
    (a % n = 0 → r.allowed (op == 0x33) 0 0 a n = false → done (s.confineFault tile r 0 a)) ∧
    (a % n ≠ 0 → done (s.seqFault tile r 0x0B t.pc) ∧
      (op = 0x30 → exec (.lds tile ecc) s = .next (s.seqFault tile r 0x0B t.pc)) ∧
      (op = 0x31 → exec (.sts tile ecc) s = .next (s.seqFault tile r 0x0B t.pc)))) ∧
  (∀ (s : State) (tile : Nat) (f : State → State) (w : Nat),
    ((s.tile tile).landing = [] → s.blur tile = s) ∧ (s.blur tile).regs = s.regs ∧ (s.blur tile).hbm = s.hbm ∧
      { (s.blur tile).tile tile with landing := (s.tile tile).landing } = s.tile tile ∧
      s.withEcc tile .ok f = f s ∧ s.withEcc tile (.corrected w) f = (f s).corrected tile (some w) ∧
      s.withEcc tile (.uncorrectable w) f = s.errorFence tile 0x0D true)

/-- R122, R123, R204: CINV drops the lines of the range, CWB writes the dirty ones back and keeps them clean, CWBI does both. The
line that a load or store waits for is read from its home; in a full set the least recently used line makes room, its dirty
bytes written back; and the access then completes on the new line. A line that cannot be read faults the context. -/
def Obligations.L1Rows : Prop :=
  (∀ (s : State) (tile op : Nat) (r : Run) (i : SeqInstr), Issues s tile op r i →
     let t := s.tile tile
     let a := (t.gr i.rs1).toNat
     let n := (t.gr i.rs2).toNat
     let hit (l : Line) : Bool := (t.linesIn a n).any fun m => m.addr == l.addr
     let home := s.writeBackAll r.x.deckle (t.linesIn a n)
     let drop : Tile := { t with l1 := t.l1.filter fun l => !hit l, pc := t.pc + 8, blocked := .no }
     let clean : Tile := { t with
       l1 := t.l1.map fun l => if hit l then { l with mask := 0 } else l, pc := t.pc + 8, blocked := .no }
     (n = 0 ∨ a + n ≤ s.localSize r.x.deckle) →
       (op = 0x54 → exec (.cinv tile) s = .next (s.setTile tile drop)) ∧
       (op = 0x55 → exec (.cwb tile) s = .next (home.setTile tile clean)) ∧
       (op = 0x56 → exec (.cwbi tile) s = .next (home.setTile tile drop))) ∧
  (∀ (s : State) (tile : Nat) (q : Nat × Nat × Nat) (w : Word) (i : SeqInstr),
     let t := s.tile tile
     let d := (s.runOf q).x.deckle
     let base := t.seqAddr i / 128 * 128
     let line : Line := ⟨base, s.localRead d base 128, 0⟩
     tile < 12288 → t.running = some q → t.blocked = .miss → t.prog[t.pc / 8]? = some w → decodeSeq w = some i →
     s.localBad d base 128 = none →
       (t.victim base = none → exec (.l1FillDone tile []) s =
         .next ((s.setTile tile { t with blocked := .no }).l1Access tile i line)) ∧
       (∀ v, t.victim base = some v → exec (.l1FillDone tile []) s =
         .next (((s.writeBack d v).setTile tile { t with l1 := t.l1.filter fun l => l.addr != v.addr, blocked := .no }).l1Access
           tile i line))) ∧
  (∀ (s : State) (tile : Nat) (q : Nat × Nat × Nat) (w : Word) (i : SeqInstr) (errs : List (Nat × Nat)),
     let t := s.tile tile
     let r := s.runOf q
     let base := t.seqAddr i / 128 * 128
     let s1 := s.demandRead r.x.deckle base 128 errs
     tile < 12288 → t.running = some q → t.blocked = .miss → t.prog[t.pc / 8]? = some w → decodeSeq w = some i →
     ∀ st a, s1.localBad r.x.deckle base 128 = some (st, a) →
       exec (.l1FillDone tile errs) s = .next (s1.readFault tile r st 0 base 128 a))

/-- R59, R65, R67, R128, R129, R88, R64: ISSUE copies a sound descriptor into a queue with room and stalls on a full one, SIG adds
one to a token, WAIT takes its count from one when no queue before it can, FENCE passes a quiet tile, with func 1 once its writes to
other modules are remote-complete and its writes to space 0x4 read back, MOVS reads the special values, END ends the program. -/
def Obligations.SeqQueueRows : Prop :=
  ∀ (s : State) (tile op : Nat) (r : Run) (i : SeqInstr), Issues s tile op r i →
    let t := s.tile tile
    let a := (t.gr i.rs1).toNat
    let put (v : Nat) : State := s.setTile tile (t.setGr i.rd (BitVec.ofNat 64 v)).advance
    (op = 0x50 → a % 64 = 0 → a + 64 ≤ t.limit → (∀ ecc, exec (.issue tile ecc) s =
        .next ((s.blur tile).withEcc tile ecc (State.issueAt tile r i a))) ∧
      (t.landing = [] → let d := s.spadRead tile a 64
        descOk i.func d = true → refusedAddr t.limit (descSpans i.func d) = none →
        ((t.queue i.func).length < 16 → exec (.issue tile .ok) s = .next (s.setTile tile
          (t.setQueue i.func (t.queue i.func ++ [⟨d, t.pc, false, false, [], 0, false, none⟩])).advance)) ∧
        (16 ≤ (t.queue i.func).length → exec (.issue tile .ok) s = .next (s.setTile tile { t with blocked := .issue })))) ∧
    (op = 0x50 → a % 64 ≠ 0 → ∀ ecc, exec (.issue tile ecc) s = .next (s.seqFault tile r 0x0B t.pc)) ∧
    (op = 0x51 → t.tok i.tok < 255 → exec (.sig tile) s =
      .next (s.setTile tile (t.setTok i.tok (t.tok i.tok + 1)).advance)) ∧
    (op = 0x51 → t.tok i.tok = 255 → exec (.sig tile) s = .next (((s.bump C.TILE_TOKEN_OVF_CNT (groupOf tile)).raiseTo
      E.TILE_token_overflow [r.x.deckle] (groupOf tile)).seqFault tile r 0x0B t.pc)) ∧
    (op = 0x52 → i.cnt ≤ t.tok i.tok → t.servesBefore i.tok 10 = false → exec (.wait tile) s =
      .next (s.setTile tile (t.setTok i.tok (t.tok i.tok - i.cnt)).advance)) ∧
    (op = 0x52 → t.tok i.tok < i.cnt ∨ t.servesBefore i.tok 10 = true →
      exec (.wait tile) s = .next (s.setTile tile { t with blocked := .wait })) ∧
    (op = 0x53 → i.func = 0 → t.quiet = true → ∀ rb, exec (.fence tile rb) s = .next (s.setTile tile t.advance)) ∧
    (op = 0x53 → i.func = 1 → t.quiet = true → s.remoteQuiet t = true → exec (.fence tile true) s =
      .next (s.setTile tile { t with behind := 0 }.advance)) ∧
    (op = 0x53 → i.func = 1 → 0 < t.behind → exec (.fence tile false) s =
      .next (s.setTile tile { t with blocked := .fence })) ∧
    (op = 0x53 → t.quiet = false → ∀ rb, exec (.fence tile rb) s = .next (s.setTile tile { t with blocked := .fence })) ∧
    (op = 0x60 → ∀ sel v, i.imm = Int.ofNat sel → (sel, v) ∈ [(0, r.seq), (1, r.iteration), (2, r.rbeat), (3, r.h.vtile),
      (4, tile), (5, s.handle r.c), (7, s.beatCount)] → exec (.movs tile) s = .next (put v)) ∧
    (op = 0x60 → ∀ k : Nat, k < 16 → ∀ x, r.h.refs[k]? = some x →
      (i.imm = 0x100 + k → exec (.movs tile) s = .next (put (r.ream.range x).start)) ∧
      (i.imm = 0x200 + k → exec (.movs tile) s = .next (put x.len))) ∧
    (op = 0x60 → i.imm = 6 → exec (.movs tile) s = .next (s.free.2.setTile tile
      (t.setGr i.rd (Config.freeWord s.free.1)).advance)) ∧
    (op = 0x7F → exec (.end_ tile) s = .next (s.setTile tile { t with blocked := .ended }))

/-! Engines, DMA, chest. -/

/-- A sheet runs on a tile, and `d` is the head of one of its queues, started, its engine not yet done with it. -/
def Sys2Proof.Claims.Head (s : State) (tile queue : Nat) (q : Nat × Nat × Nat) (d : QDesc) : Prop :=
  tile < 12288 ∧ (s.tile tile).running = some q ∧ (∃ rest, (s.tile tile).queue queue = d :: rest) ∧
    d.started = true ∧ d.acted = false

/-- The engine's own view `u` of a state it has acted on, as every other observer comes to find it: of what it wrote, each unit is in
place or on its way. -/
def Sys2Proof.Claims.settled (tile : Nat) (s u : State) : State := ({ u with spad := s.spad }).blur tile

/-- R61, R76-R79, R121: the vector engine executes the descriptor at its head row by row, each row read before it is written, adds the
flags raised to the tile's and keeps the stream as the rows left it; the descriptor may then complete. On a tile none of whose writes
is on its way, and with no error found in its storage, every operation completes so, its units then coming into place; an
uncorrectable error found fences the tile instead. Where the spec leaves it open, this states choices of the model: log 31, 32. -/
def Obligations.VectorRows : Prop :=
  ∀ (s : State) (tile : Nat) (q : Nat × Nat × Nat) (d : QDesc), Head s tile 1 q d →
    let v := vectorDesc d.bytes
    let act (s : State) : State :=
      let t := s.tile tile
      let w := State.vecRows tile v v.rows 0 (s, t.sv, 0)
      settled tile s (w.1.setTile tile { (w.1.tile tile).modDesc 1 0 (fun d => { d with acted := true }) with
        sv := w.2.1, flags := t.flags ||| w.2.2 })
    let runs (f : StoreEcc → Instr) : Prop :=
      ((s.tile tile).landing = [] → exec (f .ok) s = .next (act s)) ∧
        (∀ ecc, exec (f ecc) s = .next ((s.blur tile).withEcc tile ecc act)) ∧
        ∀ w, exec (f (.uncorrectable w)) s = .next ((s.blur tile).errorFence tile 0x0D true)
    (v.op = 0x01 → runs (.vecAdd tile)) ∧ (v.op = 0x02 → runs (.vecSub tile)) ∧
    (v.op = 0x03 → runs (.vecMul tile)) ∧ (v.op = 0x04 → runs (.vecFma tile)) ∧
    (v.op = 0x05 → runs (.vecMax tile)) ∧ (v.op = 0x06 → runs (.vecMin tile)) ∧
    (v.op = 0x07 → runs (.abs_ tile)) ∧ (v.op = 0x08 → runs (.neg_ tile)) ∧
    (v.op = 0x09 → runs (.scale tile)) ∧ (v.op = 0x10 → runs (.exp2 tile)) ∧
    (v.op = 0x11 → runs (.log2 tile)) ∧ (v.op = 0x12 → runs (.recip tile)) ∧
    (v.op = 0x13 → runs (.rsqrt tile)) ∧ (v.op = 0x14 → runs (.vecSqrt tile)) ∧
    (v.op = 0x20 → runs (.cvt tile)) ∧ (v.op = 0x21 → runs (.qmx tile)) ∧
    (v.op = 0x22 → runs (.dqmx tile)) ∧ (v.op = 0x30 → runs (.rsum tile)) ∧
    (v.op = 0x31 → runs (.rmax tile)) ∧ (v.op = 0x32 → runs (.rmin tile))

/-- R77, R97: a vector row touches no byte of scratchpad outside its own destination: for the elementwise operations,
whatever the operands, every byte of every tile outside the packed elements at d reads as before. -/
def Obligations.VectorRowFrame : Prop :=
  ∀ (s : State) (tile i : Nat) (v : VectorDesc) (st : Stream) (fl : Flags) (k : Nat),
    v.op ≠ 0x21 → v.op ≠ 0x22 → isReduce v.op = false →
      let out := (elemOf v.outFmt).getD .fp32
      let base := tile * spadBytes + (v.d + i * v.ds)
      (k < base ∨ base + packedBytes out.width v.cols ≤ k) →
        (s.vecStep tile v i st fl).1.spad.get (fun _ => 0) k = s.spad.get (fun _ => 0) k

/-- R67, R68: a descriptor whose token count is met, no waiter on the token before it, or that waits for none, consumes it and starts;
one that has done its work leaves its queue, its writes in place, and signals its token; a token at 255 is not added to but faults. -/
def Obligations.DescriptorRows : Prop :=
  ∀ (s : State) (tile queue : Nat) (q : Nat × Nat × Nat), tile < 12288 → queue < 10 → (s.tile tile).running = some q →
    let t := s.tile tile
    (∀ i d, t.nextDesc queue = some (i, d) → tailWaitEn d.bytes = false → exec (.descriptorStart tile queue) s =
      .next (s.setTile tile (t.modDesc queue i fun d => { d with started := true }))) ∧
    (∀ i d, t.nextDesc queue = some (i, d) → tailWaitEn d.bytes = true → tailWaitCnt d.bytes ≤ t.tok (tailWaitTok d.bytes) →
      t.servesBefore (tailWaitTok d.bytes) queue = false → exec (.descriptorStart tile queue) s = .next (s.setTile tile
        ((t.setTok (tailWaitTok d.bytes) (t.tok (tailWaitTok d.bytes) - tailWaitCnt d.bytes)).modDesc queue i
          fun d => { d with started := true }))) ∧
    (∀ i d, t.nextDesc queue = some (i, d) → tailWaitEn d.bytes = true →
      t.tok (tailWaitTok d.bytes) < tailWaitCnt d.bytes ∨ t.servesBefore (tailWaitTok d.bytes) queue = true →
      exec (.descriptorStart tile queue) s = .next s) ∧
    (∀ d rest, t.queue queue = d :: rest → d.acted = true → d.bursts = [] → d.flying = 0 → d.waiting = false →
      let s0 := s.land tile queue
      let u := (s0.tile tile).setQueue queue rest
      let s1 := s0.setTile tile u
      let tok := tailSigTok d.bytes
      (tailSigEn d.bytes = false → exec (.descriptorComplete tile queue) s = .next s1) ∧
      (tailSigEn d.bytes = true → u.tok tok < 255 → exec (.descriptorComplete tile queue) s =
        .next (s1.setTile tile (u.setTok tok (u.tok tok + 1)))) ∧
      (tailSigEn d.bytes = true → 255 ≤ u.tok tok → exec (.descriptorComplete tile queue) s =
        .next (s1.signal tile (s.runOf q) tok d.off id)) ∧
      (t.landing = [] → s0 = s))

/-- R61, R70-R75, R108-R110, R121: the matrix engine writes the 256 words of the accumulator set the descriptor names, and with wb
clear nothing else but the tile's flags and its descriptor; with wb the rows written come into place in the tile's scratchpad. -/
def Obligations.MatrixMultiply : Prop :=
  ∀ (s : State) (tile : Nat) (q : Nat × Nat × Nat) (d : QDesc), Head s tile 0 q d →
    let t := s.tile tile
    let m := matrixDesc d.bytes
    let isInt := ((matrixPair m.aFmt m.bFmt).map Prod.fst).getD false
    let r := s.multiply tile m isInt
    let acc := r.1.zipIdx.foldl (fun a p => a.set (fun _ => 0) (256 * m.acc + p.2) p.1) t.acc
    (t.landing = [] → m.wb = false → exec (.matrixMultiply tile .ok) s = .next (s.setTile tile
      { t.modDesc 0 0 (fun d => { d with acted := true }) with acc, flags := t.flags ||| r.2 })) ∧
    (t.landing = [] → m.wb = true → ∃ u, exec (.matrixMultiply tile .ok) s = .next u ∧ (u.tile tile).acc = acc ∧ u.hbm = s.hbm ∧
      u.regs = s.regs ∧ ∀ n, n ≠ tile → u.tile n = s.tile n) ∧
    (∀ ecc, ∃ u, exec (.matrixMultiply tile ecc) s = .next u) ∧
    ∀ w, exec (.matrixMultiply tile (.uncorrectable w)) s = .next ((s.blur tile).errorFence tile 0x0D true)

/-- R59, R61, R82, R83, R90, R119, R133, R137, R509: a started DMA descriptor is cut into its bursts; the next burst in rotation, if
its checks pass, takes a slot, and is refused otherwise; a burst never lands ahead of an earlier one that the order of issue puts before
it; one whose data is there is written and leaves its slot, as from local HBM to the tile's own scratchpad, and one whose source cannot
be read faults the context. Where the spec leaves it open, this states choices of the model: log 37, 102, 104. -/
def Obligations.DmaRows : Prop :=
  ∀ (s : State) (tile queue : Nat) (q : Nat × Nat × Nat), tile < 12288 → (s.tile tile).running = some q →
    let t := s.tile tile
    let r := s.runOf q
    (2 ≤ queue → queue < 10 → t.dmaStop = false → ∀ i d,
      t.findDesc queue (fun d => d.started && !d.acted && !(dmaDesc d.bytes).isChest) = some (i, d) →
      exec (.dmaTransfer tile queue) s = .next (s.setTile tile
        (t.modDesc queue i fun x => { x with acted := true, bursts := dmaBursts (dmaDesc d.bytes) }))) ∧
    (t.dmaStop = false → t.flights.length < 64 → ∀ k i d b rest ecc, t.nextBurst = some (k, i, d) → d.bursts = b :: rest →
      let s1 := s.setTile tile { t.modDesc k i (fun x => { x with bursts := rest, flying := x.flying + 1 }) with
        rotor := k, flightId := t.flightId + 1, flights := t.flights ++ [⟨t.flightId, k, b⟩] }
      (s.checkBurst tile r b = .ok →
        (b.src ≠ 2 ∨ b.fill.isSome = true → b.readsTile tile r = none → exec (.dmaBurstIssue tile ecc) s = .next s1) ∧
        (b.src = 2 → b.fill = none → exec (.dmaBurstIssue tile ecc) s = .next (s1.askPeer tile r t.flightId b)) ∧
        (∀ o, b.src = 1 → b.readsTile tile r = some o → exec (.dmaBurstIssue tile ecc) s = .next (s1.withEcc o ecc id))) ∧
      (s.checkBurst tile r b ≠ .ok →
        exec (.dmaBurstIssue tile ecc) s = .next (s.refuseBurst tile r (s.checkBurst tile r b)))) ∧
    (∀ (id : Nat) (ext : List Byte) (errs : List (Nat × Nat)) (f : Flight), t.flights.find? (fun f => f.id == id) = some f →
      (t.aheadOf f = true → exec (.dmaBurstDone tile id ext errs) s = .next s) ∧
      (t.aheadOf f = false → s.rst.landing = [] →
        let s1 := (s.blurBurst tile r f.b).burstErrors r f.b errs
        (∀ d, s1.burstData tile r f ext = .data d →
          exec (.dmaBurstDone tile id ext errs) s = .next ((s1.burstWrite tile r f d).landFlight tile f)) ∧
        (s1.burstData tile r f ext = .notYet → exec (.dmaBurstDone tile id ext errs) s = .next s1) ∧
        (∀ st sp a, s1.burstData tile r f ext = .bad st sp a → exec (.dmaBurstDone tile id ext errs) s =
          .next ((s1.landFlight tile f).readFault tile r st sp f.b.saddr f.b.size a)) ∧
        (t.landing = [] → f.b.fill = none → f.b.src = 0 → f.b.dst = 1 → f.b.dsel = r.h.vtile →
          s.localBad r.x.deckle f.b.saddr f.b.size = none → exec (.dmaBurstDone tile id ext []) s =
            .next ((s.spadWrite tile f.b.daddr (s.localRead r.x.deckle f.b.saddr f.b.size)).landFlight tile f))))

/-- R147-R150, R164, R182, R183, R185, R192: a read of the chest delivers its blocks; a write is cut into blocks and each placed, or
waits for space and then faults its context with RESOURCE. A started move that ends well switches the block to its destination, and
one that fails is abandoned, counted, and leaves it where it was; a rebuilt summary replaces the damaged one and is counted and raised.
Where the spec leaves it open, this states choices of the model: log 38, 42, 105. -/
def Obligations.ChestRows : Prop :=
  (∀ (s : State) (tile queue : Nat) (q : Nat × Nat × Nat), tile < 12288 → 2 ≤ queue → queue < 10 →
     (s.tile tile).running = some q →
     let t := s.tile tile
     let r := s.runOf q
     (∀ i d b0 lost, t.findDesc queue (fun d => d.started && !d.acted && (dmaDesc d.bytes).isChest && !(dmaDesc d.bytes).isQuery) =
       some (i, d) → t.dmaStop = false →
       let x := dmaDesc d.bytes
       (x.dst = 3 → r.x.block x.da = some b0 → let ok := s.passing tile r x b0.exchange lost (x.parts b0.exchange)
         ok.2 = .ok → ∀ errs, exec (.chestTransfer tile queue errs lost) s = .next (s.setTile tile (t.modDesc queue i fun q =>
           { q with acted := true, bursts := ok.1.map fun p =>
             ⟨x.src, x.ssel, p.addr, 3, 0, p.idx, b0.exchange, x.vc, false, none⟩ }))) ∧
       (x.dst = 1 → x.dsel = r.h.vtile → r.x.block x.sa = some b0 →
         let ok := s.passing tile r x b0.exchange lost (x.parts b0.exchange)
         let s1 := ok.1.foldl (fun s p => s.chestRead tile r x p) (s.blur tile)
         ok.2 = .ok → exec (.chestTransfer tile queue [] lost) s =
           .next (s1.setTile tile ((s1.tile tile).modDesc queue i fun q => { q with acted := true }))) ∧
       (x.dst ≠ 3 → r.x.block x.sa = none → exec (.chestTransfer tile queue [] lost) s = .next (s.accessFault tile r 0x0B 3 x.sa))) ∧
     (∀ i d b rest old data, t.findDesc queue (fun d => d.acted && (dmaDesc d.bytes).dst == 3 && !d.bursts.isEmpty) =
       some (i, d) → d.bursts = b :: rest → r.x.block b.daddr = some old →
       let s0 := s.blurBurst tile r b
       let t0 := s0.tile tile
       let s1 := s0.setTile tile (t0.modDesc queue i fun q => { q with bursts := rest, waiting := false })
       let new := old.written data
       s0.chestSource tile r b = .data data →
       (new.units * 256 ≤ s0.arenaFree r.x.deckle → r.x.moves = [] → exec (.chestWritePlaced tile queue) s =
         .next (((s1.arenaChange r.x.deckle fun s => s.modCtx r.c fun x => { x.setBlock b.daddr (some new) with
           moves := (x.moves.map fun m => if m.block == b.daddr && m.started && m.command && m.tier == 0
             then { m with decided := false, started := false } else m).filter fun m => !(m.block == b.daddr && m.started)
           }).noteWritten r.x.deckle b.daddr new).finishMoves r.c)) ∧
       (new.units * 256 ≤ s0.arenaFree r.x.deckle → ∃ u, exec (.chestWritePlaced tile queue) s = .next u) ∧
       (s0.arenaFree r.x.deckle < new.units * 256 → d.waiting = false → exec (.chestWritePlaced tile queue) s =
         .next ((s0.setTile tile (t0.modDesc queue i fun q => { q with waiting := true })).bump C.CHEST_SPACE_WAIT_CNT)) ∧
       (s0.arenaFree r.x.deckle < new.units * 256 → d.waiting = true → exec (.chestWritePlaced tile queue) s = .next s0)) ∧
     (∀ i d b rest old data, t.findDesc queue (·.waiting) = some (i, d) → d.bursts = b :: rest →
       r.x.block b.daddr = some old → s.chestSource tile r b = .data data →
       s.arenaFree r.x.deckle < (old.written data).units * 256 → exec (.chestSpaceTimeout tile queue) s =
         .next ((s.raiseTo E.CHEST_space_timeout [r.x.deckle]).chestFault tile r 0x0C b.daddr))) ∧
  (∀ (s : State) (c block : Nat) (b : Block), c < 1024 → (s.ctx c).block block = some b →
     let x := s.ctx c
     (∀ m, x.moves.find? (fun m => m.block == block && m.started) = some m →
       let x1 := { x with moves := x.moves.filter fun n => n != m }
       (b.bad = false → s.moveFits c m = true → s.copyLost x.deckle b = false → exec (.blockMoveDone c block true) s =
         .next ((s.arenaChange x.deckle fun s => s.setCtx c (x1.setBlock block (some (if m.tier = 0
           then { b with t0 := some m.v, pin := b.pin || m.pin }
           else { b with tier := m.tier, pin := b.pin || m.pin, lender := if m.tier = 2 then m.lender else none })))).finishMoves c)) ∧
       exec (.blockMoveDone c block false) s =
         .next (((s.arenaChange x.deckle fun s => s.setCtx c x1).moveAbandoned x.deckle b m).finishMoves c)) ∧
     (let st := s.homeStack x.deckle block
      b.badSummary = true → b.bad = false → s.flag F.SCREEN_STATE_rebuilding st = true → exec (.summaryRebuildDone c block) s =
       .next (((((s.setCtx c (x.setBlock block (some { b with
         badSummary := false, summary := b.summarise.1, unbounded := b.summarise.2 }))).showRebuild st).bump
           C.SCREEN_REBUILD_CNT st).raiseTo E.SCREEN_rebuild (s.ownersOfStack st) st))))

/-- R137, R153-R159, R164: a query that passes its checks is queued with its record; when it is done its result record is written to the
tile's scratchpad, or to local HBM. Where the spec leaves it open, this states choices of the model: log 43. -/
def Obligations.ScreenRows : Prop :=
  ∀ (s : State) (tile queue : Nat) (q : Nat × Nat × Nat), tile < 12288 → 2 ≤ queue → queue < 10 →
    let s0 := s.blur tile
    let t := s0.tile tile
    let r := s0.runOf q
    t.running = some q →
    (∀ i d, t.findDesc queue (fun d => d.started && !d.acted && (dmaDesc d.bytes).isQuery) = some (i, d) →
      t.dmaStop = false → (∀ st ∈ s0.queryStacks r.x.deckle, s0.queuedAt st < 64) → (dmaDesc d.bytes).ssel = r.h.vtile →
      let a := (dmaDesc d.bytes).sa
      let hd := s0.spadRead tile a 64
      let h := queryHdr hd
      let body := s0.spadRead tile (a + 64) h.vecBytes
      a + 64 + h.vecBytes ≤ t.limit → queryHdrOk hd = true →
      (∃ x ∈ r.h.refs, x.reads = true ∧ (r.ream.range x).covers 3 0 h.first h.count = true) →
      s0.checkSide tile r true h.resSpace (if h.resSpace = 1 then r.h.vtile else 0) h.resAddr (64 + 8 * h.k) = .ok →
      (∀ v ∈ h.vectors body, ∀ e ∈ v, e.finite = true) →
      (∀ p ∈ r.x.blocks, ∀ b, p.2 = some b → h.first ≤ p.1 → p.1 < h.first + h.count → b.kind ≠ 1 ∧ b.hd = h.hd) →
      exec (.screenQuery tile queue) s = .next ((s0.setTile tile
        (t.modDesc queue i fun q => { q with acted := true, flying := 1 })).modCtx r.c
          fun x => { x with queries := x.queries ++ [⟨tile, queue, hd ++ body⟩] })) ∧
    (∀ i d rec errs, t.findDesc queue (fun d => d.acted && decide (0 < d.flying) && (dmaDesc d.bytes).isQuery) = some (i, d) →
      let s1 := s0.arenaErrors r.x.deckle errs
      let x := (s1.runOf q).x
      x.queries.find? (fun q => q.tile == tile && q.queue == queue) = some rec →
      let h := queryHdr rec.record
      let res := x.screen h (h.vectors (rec.record.drop 64))
      let sel := screenSelect h res.1
      (sel.2 = false ∨ h.ovfOk = true → ∃ u, exec (.screenQueryDone tile queue errs) s = .next u ∧
        (h.resSpace = 1 →
          u.spad = (s1.spadWrite tile h.resAddr (screenResult res.1 sel.1 sel.2 res.2.1 res.2.2)).spad ∧ u.hbm = s1.hbm) ∧
        (h.resSpace = 0 → u.spad = s1.spad)) ∧
      (sel.2 = true → h.ovfOk = false →
        let front := s1.homeStack x.deckle h.first
        let s2 := (s1.queryStacks x.deckle).foldl (fun s st => s.bump C.SCREEN_QUERY_CNT st)
          (s1.modCtx r.c fun x => { x with queries := x.queries.erase rec })
        let s3 := res.1.foldl (fun s y => s.bump C.SCREEN_SCORED_CNT (s.homeStack x.deckle y.idx)) s2
        exec (.screenQueryDone tile queue errs) s = .next (((s3.bump C.SCREEN_OVF_CNT front).raiseTo E.SCREEN_overflow
          (s3.ownersOfStack front) front).accessFault tile (s1.runOf q) 0x0C 3 h.first)))

/-! Beats and sheets. -/

/-- R22, R28, R32-R36, R171, R172, R397, R437: at a boundary, while the module has power and its reference clock, the beat that ends is
closed for every context, the beat number advances by one (by what a re-phase asks for where it takes up the source's), and the steps
follow in their order; a thermal trip stops only what the last step starts and sends. A marker of the plan's job is weighed by the error
of R32: in phase it brings a module that seeks, at the second in a row, or that follows into LOCKED; out of phase it is counted and,
where no ream of the job runs, starts a re-phase; one that fails a check is counted and raised. Without one for 256 beats align_timeout is raised
once, and without one for 64 beats a locked module enters HOLDOVER. The placement of the next beat is frozen once; where the slow path
has not decided, it is carried forward, counted and raised. Where the spec leaves it open, this states choices of the model: log 62,
64, 101. -/
def Obligations.BeatRows : Prop :=
  (∀ (s : State) (silent : List Nat), s.bring.powered = true → s.rst.refLost = false →
     let s1 := (s.each s.ctxList fun s c => s.endBeatOf c).nextBeat
     let s2 := s1.throttleAll.publishAll.placeStep.controlStep.backlog.powerStep
     let s3 := if s2.rst.tripped then s2 else s2.startAll.placeFreed.sendMarkers
     exec (.beatBoundary silent) s = .next ((s3.beatUnits silent).agePass.tryPoweroff)) ∧
  (∀ s : State, s.nextBeat.beatCount = (s.beatCount + s.beat.advance) % 2 ^ 64 ∧ s.nextBeat.beat.advance = 1 ∧
     s.nextBeat.beat.lengthen = 0 ∧ s.nextBeat.beat.since = s.beat.since + 1) ∧
  (∀ (s : State) (port arrival : Nat) (m : Marker) (pl : Plan), port < 24 → s.portFitted port = true → s.plan = some pl →
     s.markerPort port = true → s.fget F.BEAT_ALIGN_state ≠ 1 →
     (8 ≤ m.hops ∨ m.log2 ≠ s.fget F.BEAT_CFG_beat_log2 ∨ pl.master ≠ some m.master ∨ leNat (pl.jobHash.take 4) ≠ m.planTag.toNat →
       exec (.marker port m arrival false) s = .next ((s.bump C.BEAT_MARKER_ERR_CNT).raise E.BEAT_marker_mismatch)) ∧
     (m.hops < 8 → m.log2 = s.fget F.BEAT_CFG_beat_log2 → pl.master = some m.master →
       leNat (pl.jobHash.take 4) = m.planTag.toNat → (s.port port).fresh = true → s.fget F.BEAT_ALIGN_state ≠ 0 →
       let s1 := { s with beat := { s.beat with hops := s.beat.hops.set (fun _ => none) port (some m.hops) } }
       (∀ p h, s1.markerSource = some (p, h) → p ≠ port → exec (.marker port m arrival false) s = .next s1) ∧
       (∀ h, s1.markerSource = some (port, h) →
         let own : Int := (m.beat - BitVec.ofNat 64 s.beatCount).toInt
         let err : Int := (own * 2 ^ s.fget F.BEAT_CFG_beat_log2 + (if 0 < own then (s.beat.lengthen : Int) else 0)) * 16 -
           ((arrival : Int) - s.fget F.PORT_LATENCY_one_way port) + m.corr
         let n := if s.beat.accepted = 0 ∨ s.fget F.BEAT_ALIGN_port ≠ port then 1 else s.beat.accepted + 1
         let s2 := { s1 with beat := { s1.beat with accepted := n, since := 0, raised := false, relay := true } }
         let s3 := ((s2.fset F.BEAT_PHASE_last_err (err % 2 ^ 16).toNat).fset F.BEAT_ALIGN_hops m.hops).fset F.BEAT_ALIGN_port port
         (-8 ≤ err → err ≤ 8 → s.fget F.BEAT_ALIGN_state ≠ 2 ∨ 2 ≤ n →
           exec (.marker port m arrival false) s = .next (s3.fset F.BEAT_ALIGN_state 3)) ∧
         (-8 ≤ err → err ≤ 8 → s.fget F.BEAT_ALIGN_state = 2 → n < 2 → exec (.marker port m arrival false) s = .next s3) ∧
         (err < -8 ∨ 8 < err → let s4 := s3.bump C.BEAT_MARKER_ERR_CNT
           let s5 := if s.fget F.BEAT_ALIGN_state = 3 then (s4.fset F.BEAT_ALIGN_state 4).raise E.BEAT_holdover else s4
           (s.fget F.BEAT_ALIGN_state ≠ 2 ∨ 2 ≤ n → s4.jobRuns = true → exec (.marker port m arrival false) s = .next s5) ∧
           (s.fget F.BEAT_ALIGN_state ≠ 2 ∨ 2 ≤ n → s4.jobRuns = false → exec (.marker port m arrival false) s =
             .next ((s5.rephase port m arrival).fset F.BEAT_ALIGN_state 3)) ∧
           (s.fget F.BEAT_ALIGN_state = 2 → n < 2 → exec (.marker port m arrival false) s = .next s4)))) ∧
     exec (.marker port m arrival true) s = .next s) ∧
  (∀ s : State,
     (s.fget F.BEAT_ALIGN_state = 2 → 256 ≤ s.beat.since → s.beat.raised = false → exec .alignTimeout s =
       .next (({ s with beat := { s.beat with raised := true, hops := [], accepted := 0 } }).raise E.BEAT_align_timeout)) ∧
     (s.fget F.BEAT_ALIGN_state = 3 → 64 ≤ s.beat.since → exec .markerTimeout s =
       .next ((({ s with beat := { s.beat with hops := [], accepted := 0 } }).fset F.BEAT_ALIGN_state 4).raise E.BEAT_holdover)) ∧
     (s.beat.frozen = false →
       let s0 := { s with beat := { s.beat with frozen := true, cycle := s.beatLen - 64 } }
       let s1 := s0.each s0.needs fun s n => s.replaceOne n.1 n.2
       let s2 := s1.each (s1.ctxList.filter fun c => s1.ctxRuns c && (s1.ctx c).startFrom.isSome) fun s c => s.decideStart c
       exec (.placementFreeze false) s = .next ((s0.bump C.HEADBOX_CARRY_CNT).raise E.HEADBOX_carry_forward) ∧
       (s.controlRuns = false → exec (.placementFreeze true) s =
         .next ((s0.bump C.HEADBOX_CARRY_CNT).raise E.HEADBOX_carry_forward)) ∧
       (s.controlRuns = true → exec (.placementFreeze true) s =
         .next (s2.each (s2.allDeckles.filter fun d => !(s2.deckle d).lost) fun s d => s.decideMoves d))) ∧
     (s.beat.frozen = true → ∀ d, exec (.placementFreeze d) s = .next s))

/-- R44, R45, R49, R62-R64: the program of the next sheet is fetched ahead; a sheet that may start runs on its tile from a tile
state cleared for it, its program the one fetched, and a late start is counted; one whose program cannot be read, or whose input was
lost with its tile, faults its context; a finished sheet gives its dirty lines back and leaves the tile idle. Where the spec leaves it
open, this states choices of the model: log 30. -/
def Obligations.SheetRows : Prop :=
  ∀ (s : State) (tile : Nat), tile < 12288 →
    let t := s.tile tile
    (∀ c v q sh, t.bind = some (c, v) → (s.ctx c).nextOn v = some (q, sh) → exec (.sheetProgramFetch tile) s =
      .next (s.setTile tile { t with next := some (s.fetch c q sh) })) ∧
    (∀ c i ream f, s.startable tile = some (c, i) → (s.ctx c).ream = some ream →
      (t.next = some f ∧ f.ctx = c ∧ f.q = i.q ∧ f.sheet = i.sheet) ∨ (t.next = none ∧ f = s.fetch c i.q i.sheet) →
      let h := ream.sheet i.sheet
      (f.fail = none → (ream.readsOf h).any (s.ctx c).lostRange = false → exec (.sheetStart tile) s = .next (((s.setTile tile
        (t.started (c, i.q, i.sheet) f.prog h.seed (i.q / ream.length))).setCtx c
          ((s.ctx c).setInst i.q i.sheet fun j => { j with st := .running })).bump C.BEAT_LATE_CNT)) ∧
      (f.fail = none → (ream.readsOf h).any (s.ctx c).lostRange = true → exec (.sheetStart tile) s =
        .next (s.faultWith (tilePage tile) c 0x05 0x01 (i.q % 2 ^ 32) 0 h.vtile tile)) ∧
      (∀ st a, f.fail = some (st, a) → exec (.sheetStart tile) s = .next ((s.notePoison (s.ctx c).deckle st a).faultWith
        (tilePage tile) c st 0x01 (i.q % 2 ^ 32) (a % 2 ^ 48) h.vtile tile))) ∧
    (∀ q, t.running = some q → t.blocked = .ended → t.quiet = true → ∃ u, exec (.sheetComplete tile) s = .next u ∧
      (u.tile tile).running = none ∧ (u.tile tile).state = .idle ∧ (u.tile tile).l1 = [] ∧ (u.tile tile).bind = t.bind ∧
      u.hbm = (s.writeBackAll (s.runOf q).x.deckle t.l1).hbm ∧ u.regs = s.regs)

/-- R52, R90, R181, R406, R410, R411: a sheet held past its wait limit faults its context with TIMEOUT; a fence stops the tile,
counts and raises, and a running sheet's context faults once where it did not drain in time, its bursts injected before going on; a
drained tile is FENCED, or RETIRED, or IDLE, as the broke map says; a self-test returns the tile with its scratchpad zeroed, or
retires it. Where the spec leaves it open, this states choices of the model: log 66. -/
def Obligations.TileFenceRows : Prop :=
  ∀ (s : State) (tile : Nat), tile < 12288 →
    let t := s.tile tile
    (∀ (c k : Nat) (ream : Ream) (i : Inst), c < 1024 → (s.ctx c).insts[k]? = some i → (s.ctx c).ream = some ream →
      i.st = .due → (s.ctx c).held ream i = true → ream.waitLimit < i.waited →
      ∃ b, exec (.sheetWaitTimeout c k) s =
        .next (s.faultWith Page.BEAT c 0x03 0x03 (i.q % 2 ^ 32) b (ream.sheet i.sheet).vtile 0x3FFF)) ∧
    (∀ cause, t.state = .idle → t.bind = none → t.running = none →
      let own := s.ownersOfGroup (groupOf tile)
      let s1 := if cause = 0x0D then (s.bump C.TILE_ECC_UE_CNT (groupOf tile)).raiseTo E.TILE_ecc_uncorrectable own
        (groupOf tile) else s
      let s2 := if cause = 0 then s1 else
        s1.logFault (tilePage tile) { s1.faultRec (tilePage tile) cause (own.headD 0x1F) 0x04 0 0 with tile }
      exec (.tileFence tile cause) s = .next ((((s2.setTile tile { Tile.reset with
        state := .draining, flights := t.flights, flightId := t.flightId, remote := t.remote, earlier := t.earlier
        behind := t.behind, hangs := t.hangs, errFences := t.errFences + 1 }).brokeAdd 0x1 tile cause
          (decide (1 ≤ t.errFences))).bump C.RSTCTL_TFENCE_CNT).raiseTo E.RSTCTL_fence (s2.ownersOfGroup (groupOf tile)))) ∧
    (∀ cause, ∃ u, exec (.tileFence tile cause) s = .next u) ∧
    (∀ q, t.state = .draining → t.draining = some q → t.overdue = false → exec (.fenceDrainTimeout tile) s =
      .next ((s.setTile tile { t with overdue := true }).faultWith (tilePage tile) q.1 0x05 0x04 0 0
        (s.runOf q).h.vtile tile)) ∧
    (t.state = .draining → t.flights = [] → s.writeInDie t = false → t.draining = none → t.asked = false →
      exec (.tileFenced tile) s = .next (s.setTile tile { t with
        state := if s.tileRetired tile then .retired else if s.tileMapped tile then .fenced else .idle
        draining := none, remote := [], overdue := false, asked := false })) ∧
    (t.state = .draining → t.flights = [] → s.writeInDie t = false → ∃ u, exec (.tileFenced tile) s = .next u ∧
      (u.tile tile).state = if s.tileRetired tile then .retired else if s.tileMapped tile then .fenced else .idle) ∧
    (t.selfTest = true →
      let s1 := s.setTile tile { t with selfTest := false, state := .idle }
      exec (.tileSelfTestDone tile true) s = .next (({ s1.spadZero tile with
        brokeDue := s1.brokeDue ++ [BrokeChange.remove 0x1 tile] }).freeLock 1 (groupOf tile))) ∧
    (t.selfTest = true → exec (.tileSelfTestDone tile false) s =
      .next (((s.setTile tile { t with selfTest := false, state := .retired }).brokeAdd 0x1 tile 0x0D true).freeLock 1
        (groupOf tile)))

/-! The host's commands. -/

/-- The command that a row names may start, its function has a session, and a deckle without its local HBM takes it. -/
def Sys2Proof.Claims.Takes (s : State) (r : CmdRef) (op : Nat) (k : Cmd) : Prop :=
  r.fn < 20 ∧ r.queue < 64 ∧ s.starting r op = some k ∧ (k.authed = true ∨ (s.session k.fn).opened = true) ∧
    (4 ≤ k.fn → (s.deckle (k.fn - 4)).lost = true → lostTakes op = true)

/-- Such a command names a live context of its deckle, in a state that accepts it. -/
def Sys2Proof.Claims.OnCtx (s : State) (r : CmdRef) (op : Nat) (k : Cmd) (i : Nat) : Prop :=
  Claims.Takes s r op k ∧ s.live k.ctx = some i ∧ (s.ctx i).deckle + 4 = k.fn ∧ accepts (s.ctx i).st op = true

/-- R305-R307, R317, R343, R489, R495: a training host link becomes active with its width and rate; a link that leaves its active state
ends the sessions and stops the queues of its functions; a reset pin holds the link and its release lets it train; a configuration
request is answered, with the function's reset where it asks one, and a function that is not present answers Unsupported Request.
Where the spec leaves it open, this states choices of the model: log 27, 28. -/
def Obligations.HostLinkRows : Prop :=
  ∀ (s : State) (l w rate : Nat) (ide : Bool), l < 4 → s.linkExists l = true →
    (s.fget (linkStateF l) = 1 → s.mayTrain = true → 1 ≤ w → w ≤ s.linkLanes → 1 ≤ rate → rate ≤ 3 →
      exec (.hostLinkUp l w rate ide) s = .next ((((s.fset (linkStateF l) 2).fset (linkWidthF l) w).fset (linkRateF l) rate).fset
        (linkIdeF l) (if ide then 1 else 0))) ∧
    (s.linkActive l = true → exec (.hostLinkDown l) s = .next (s.linkLost l)) ∧
    (s.bring.perst.contains l = false →
      let s1 := { s with bring := { s.bring with perst := l :: s.bring.perst } }
      exec (.perst l) s = .next (if s1.linkActive l then s1.linkLost l else s1.fset (linkStateF l) 0)) ∧
    (s.bring.perst.contains l = true →
      let s1 := { s with bring := { s.bring with perst := s.bring.perst.filter fun k => k != l } }
      exec (.perstRelease l) s = .next (if s1.linkExists l && s1.mayTrain then s1.fset (linkStateF l) 1 else s1)) ∧
    (s.linkActive l = true → s.upDone = true →
      exec (.configRequest l 0 false) s = .next (s.emit (.config l 0 0)) ∧
      exec (.configRequest l 0 true) s = .next (((s.endSession l).resetView l).emit (.config l 0 0)) ∧
      ∀ f, (s.deckleActive f = true → s.fget F.DECKLE_STATE_link 0 (ofDeckle f) = l →
          exec (.configRequest l (f + 1) false) s = .next (s.emit (.config l (f + 1) 0)) ∧
          exec (.configRequest l (f + 1) true) s = .next ((s.endSession (f + 4)).emit (.config l (f + 1) 0))) ∧
        (s.deckleActive f = false ∨ s.fget F.DECKLE_STATE_link 0 (ofDeckle f) ≠ l → ∀ flr,
          exec (.configRequest l (f + 1) flr) s = .next (s.emit (.config l (f + 1) 1)))) ∧
    (∀ f flr, s.linkActive l = true → s.upDone = false →
      exec (.configRequest l f flr) s = .next (s.emit (.config l f 2)))

/-- R317, R319, R320, R322, R323: a doorbell passes descriptors or frees completion entries, or stops the queue in ERROR; the descriptor
whose queue's turn it is is taken into flight, and completes at once with INVALID where it is no command of its function, or with
AUTH_FAIL where no session is open; beyond 4,096 in flight it waits in its ring and the wait is counted once. Where the spec leaves it
open, this states choices of the model: log 17, 19, 109. -/
def Obligations.DoorbellRows : Prop :=
  ∀ (s : State) (fn queue v : Nat) (desc : List Byte), s.doorbellOk fn queue = true →
    let q := s.queue fn queue
    (q.state = .running →
      (2 ^ q.e ≤ v → exec (.sqTailDoorbell fn queue v) s = .next (s.queueError fn queue) ∧
        exec (.cqHeadDoorbell fn queue v) s = .next (s.queueError fn queue)) ∧
      (∀ n, n < 2 ^ q.e → v = (q.passed + n) % 2 ^ q.e →
        (q.passed + n ≤ q.freed + 2 ^ q.e → exec (.sqTailDoorbell fn queue v) s =
          .next (s.setQueue fn queue { q with passed := q.passed + n })) ∧
        (q.freed + 2 ^ q.e < q.passed + n → exec (.sqTailDoorbell fn queue v) s = .next (s.queueError fn queue))) ∧
      (∀ n, n < 2 ^ q.e → v = (q.freed + n) % 2 ^ q.e → q.freed + n ≤ q.written →
        exec (.cqHeadDoorbell fn queue v) s = .next (s.setQueue fn queue { q with freed := q.freed + n }))) ∧
    (∀ turn, s.nextFetch = some (fn, queue, turn) →
      let opened := (s.session fn).opened
      let k : Cmd := ⟨fn, queue, desc, opened, false, false, 0, [], 0⟩
      let s1 := { s.setQueue fn queue { q with fetched := q.fetched + 1, stalled := false } with
        cmds := s.cmds ++ [k], fetching := ⟨fn, s.fetching.turns.set (fun _ => (0, 0)) fn turn⟩ }
      (s.cmds.length < 4096 →
        (commandOk k = true → exec (.commandFetch fn queue desc) s = .next s1) ∧
        (commandOk k = false → opened = true ∨ k.opcode = 0x01 ∨ k.opcode = 0x02 →
          exec (.commandFetch fn queue desc) s = .next (s1.finish k 0x0B)) ∧
        (commandOk k = false → opened = false → k.opcode ≠ 0x01 → k.opcode ≠ 0x02 →
          exec (.commandFetch fn queue desc) s = .next (s1.finish k 0x08))) ∧
      (4096 ≤ s.cmds.length → q.stalled = false → exec (.commandFetch fn queue desc) s =
        .next ((s.setQueue fn queue { q with stalled := true }).bump C.DECKLE_INFLIGHT_STALL_CNT)))

/-- R215, R313, R317, R320, R508: the row of a command that may not start does nothing; one of a function with no session completes
with AUTH_FAIL, one of a deckle without its local HBM that touches memory with UNREACHABLE, one whose handle names no live context of its
deckle with CONTEXT_GONE, and one that the context's state does not accept with BUSY and that state. Where the spec leaves it open, this
states choices of the model: log 18, 67. -/
def Obligations.CommandRefusals : Prop :=
  ∀ (s : State) (r : CmdRef), r.fn < 20 → r.queue < 64 →
    (∀ p ∈ [(exec (.ctxCreate r) s, 0x10), (exec (.queueCreate r) s, 0x04), (exec (.bufRegister r) s, 0x06),
        (exec (.abortCmd r) s, 0x08), (exec (.headboxLend r) s, 0x2C), (exec (.storPost r []) s, 0x33),
        (exec (.deckleCreate r) s, 0x40), (exec (.deckleDestroy r) s, 0x41), (exec (.ctxStart r) s, 0x12)],
      (s.starting r p.2 = none → p.1 = .next s) ∧
      ∀ k, s.starting r p.2 = some k →
        (k.authed = false → (s.session k.fn).opened = false → p.1 = .next (s.finish k 0x08)) ∧
        (k.authed = true ∨ (s.session k.fn).opened = true → 4 ≤ k.fn → (s.deckle (k.fn - 4)).lost = true →
          lostTakes p.2 = false → p.1 = .next (s.finish k 0x12))) ∧
    (∀ p ∈ [(exec (.reamLoad r) s, 0x11), (exec (.ctxStart r) s, 0x12), (exec (.ctxStop r) s, 0x13),
        (exec (.ctxStatus r) s, 0x14), (exec (.ctxWait r) s, 0x15), (exec (.ctxTeardown r) s, 0x16),
        (exec (.collGroup r) s, 0x17), (exec (.chestCreate r) s, 0x20), (exec (.chestFree r) s, 0x21),
        (exec (.chestReencode r) s, 0x22), (exec (.chestReadDesc r) s, 0x23), (exec (.chestExport r) s, 0x24),
        (exec (.chestAdopt r) s, 0x26), (exec (.headboxPin r) s, 0x28), (exec (.headboxUnpin r) s, 0x29),
        (exec (.headboxMove r) s, 0x2A), (exec (.headboxReplay r) s, 0x2D)],
      ∀ k, Claims.Takes s r p.2 k →
        (∀ i, s.live k.ctx = some i → (s.ctx i).deckle + 4 ≠ k.fn → 4 ≤ k.fn → p.1 = .next (s.finish k 0x04)) ∧
        (p.2 ≠ 0x21 → s.live k.ctx = none → p.1 = .next (s.finish k 0x04)) ∧
        (∀ i, s.live k.ctx = some i → (s.ctx i).deckle + 4 = k.fn → accepts (s.ctx i).st p.2 = false →
          p.1 = .next (s.finish k 0x07 (s.ctx i).st.code)))

/-- R315-R318, R326: nonces and sessions, queues, and registered buffers. A session opens with a nonce issued to its function in the last
second and not used, and a function that a run of failures has barred opens none. Where the spec leaves it open, this states choices
of the model: log 17, 22. -/
def Obligations.SessionAndQueueCommands : Prop :=
  ∀ (s : State) (r : CmdRef) (k : Cmd),
    (∀ nonce, Claims.Takes s r 0x01 k → let x := s.session k.fn
      exec (.sessionNonce r nonce) s = .next (((s.setSession k.fn
        { x with nonces := (nonce, s.ms) :: x.nonces.filter fun n => decide (s.ms ≤ n.2 + 1000) }).emit
          (.hostWrite (k.op 0x10 0 64) nonce)).finish k 0)) ∧
    (r.fn < 20 → r.queue < 64 → s.starting r 0x02 = some k →
      let x := s.session k.fn
      let b := s.sessionBytes k.fn
      let tag := (k.desc.drop 0x10).take 32
      (x.opened = true → exec (.sessionOpen r) s = .next (s.finish k 0x07)) ∧
      (x.opened = false → s.nonceFor k.fn b.1 b.2 tag = none →
        exec (.sessionOpen r) s = .next ((s.authFail k.fn).finish k 0x08)) ∧
      (∀ n, x.opened = false → s.nonceFor k.fn b.1 b.2 tag = some n → exec (.sessionOpen r) s = .next ((s.setSession k.fn
        { x with opened := true, nonces := x.nonces.filter fun m => m.1 != n, used := n, loads := 0 }).finish k 0)) ∧
      (s.ms < x.barred → s.nonceFor k.fn b.1 b.2 tag = none) ∧
      (∀ n key, s.nonceFor k.fn b.1 b.2 tag = some n → s.sessionKey k.fn = some key →
        tag = sessionTag key n b.1 b.2 ∧ ∃ at_, (n, at_) ∈ x.nonces ∧ s.ms ≤ at_ + 1000) ∧
      (∀ n key at_, s.sessionKey k.fn = some key → x.barred ≤ s.ms → x.nonces = [(n, at_)] → s.ms ≤ at_ + 1000 →
        tag = sessionTag key n b.1 b.2 → s.nonceFor k.fn b.1 b.2 tag = some n)) ∧
    (Claims.Takes s r 0x03 k → exec (.sessionClose r) s = .next ((s.endSession k.fn).finish k 0)) ∧
    (Claims.Takes s r 0x04 k → (s.queue k.fn (k.op 0x10 0 6)).state = .stopped → exec (.queueCreate r) s =
      .next ((s.setQueue k.fn (k.op 0x10 0 6) { Queue.reset with
        state := .running, e := k.op 0x10 8 4, weight := k.op 0x10 16 5, vector := k.op 0x10 24 7
        sq := k.op 0x18 0 64, cq := k.op 0x20 0 64 }).finish k 0)) ∧
    (Claims.Takes s r 0x05 k → (s.queue k.fn (k.op 0x10 0 6)).state = .stopped →
      exec (.queueDelete r) s = .next (s.finish k 0x0B)) ∧
    (Claims.Takes s r 0x05 k → (s.queue k.fn (k.op 0x10 0 6)).state = .running →
      (s.queue k.fn (k.op 0x10 0 6)).deleting = false → exec (.queueDelete r) s = .next (((s.begin k).setQueue k.fn
        (k.op 0x10 0 6) { s.queue k.fn (k.op 0x10 0 6) with deleting := true }).dropQueue k.fn (k.op 0x10 0 6))) ∧
    (Claims.Takes s r 0x06 k →
      let x := s.deckle (k.fn - 4)
      exec (.bufRegister r) s = .next ((s.setDeckle (k.fn - 4) { x with
        bufs := x.bufs ++ [⟨x.nextBuf, k.op 0x10 0 64, k.op 0x18 0 64⟩], nextBuf := x.nextBuf + 1 }).finish k 0 0 x.nextBuf)) ∧
    (Claims.Takes s r 0x07 k →
      let x := s.deckle (k.fn - 4)
      ∀ b, (x.bufs.find? fun b => b.id == k.op 0x10 0 32) = some b →
        (s.bufBusy (k.fn - 4) b = true → exec (.bufUnregister r) s = .next (s.finish k 0x07)) ∧
        (s.bufBusy (k.fn - 4) b = false → x.t3 = none → exec (.bufUnregister r) s =
          .next ((s.setDeckle (k.fn - 4) { x with bufs := x.bufs.filter fun y => y != b }).finish k 0)))

/-- R36, R177, R191, R231, R326, R330, R508, R274, R275, R507: the commands of a context, from its creation to its ream and groups. Where
the spec leaves it open, this states choices of the model: log 25, 109. -/
def Obligations.ContextCommands : Prop :=
  ∀ (s : State) (r : CmdRef) (k : Cmd) (i : Nat),
    (Claims.Takes s r 0x10 k → let d := k.fn - 4
      ((s.ctxsOf d).length < s.fget F.DECKLE_STATE_ctx_max 0 (ofDeckle d) →
        ((List.range 1024).find? fun j => (s.ctx j).st == .free &&
          match (s.ctx j).freedAt with | some t => decide (t + 100 ≤ s.ms) | none => true) = some i →
        let s1 := s.setCtx i { Ctx.reset with gen := nextGen i (s.ctx i).gen, st := .idle, deckle := d }
        exec (.ctxCreate r) s = .next (s1.finish k 0 0 (s1.handle i))) ∧
      (s.fget F.DECKLE_STATE_ctx_max 0 (ofDeckle d) ≤ (s.ctxsOf d).length →
        exec (.ctxCreate r) s = .next (s.finish k 0x0C))) ∧
    (Claims.OnCtx s r 0x11 k i →
      (∀ ream, s.loadReam (s.ctx i) (k.op 0x10 0 64) (k.op 0x18 0 64) (k.op 0x20 0 9) = .inr ream →
        exec (.reamLoad r) s = .next ((s.modCtx i fun y => { y with ream := some ream, st := .loaded }).finish k 0)) ∧
      (∀ kind idx, s.loadReam (s.ctx i) (k.op 0x10 0 64) (k.op 0x18 0 64) (k.op 0x20 0 9) = .inl (kind, idx, .invalid) →
        exec (.reamLoad r) s = .next ((s.notePoison (s.ctx i).deckle 0x0B 0).finish k 0x0B (kind * 2 ^ 28 + idx % 2 ^ 28)))) ∧
    (Claims.OnCtx s r 0x12 k i → s.inJob i = false ∨ (s.jobHeld = false ∧ s.unaligned = false) →
      let x := s.ctx i
      let bound := !x.bind.isEmpty && !x.release
      ((s.ctx i).st ≠ .loaded → exec (.ctxStart r) s =
        .next ((s.begin k).setCtx i { x with st := .running, startFrom := if bound then none else some x.st })) ∧
      ((s.ctx i).st = .loaded → exec (.ctxStart r) s = .next ((s.begin k).setCtx i { x with
        cursor := 0, primed := false, insts := [], steps := [], ext := [], lostTiles := [], places := []
        inReplay := x.replay.isSome, journal := x.replay.getD [], replay := none
        st := .running, startFrom := if bound then none else some .loaded }))) ∧
    (Claims.OnCtx s r 0x12 k i → s.inJob i = true → s.jobHeld = true ∨ s.unaligned = true →
      exec (.ctxStart r) s = .next (s.finish k 0x09)) ∧
    (Claims.OnCtx s r 0x13 k i → k.op 0x10 0 1 = 0 ∨ (s.ctx i).hasTileRegion = false →
      let rel := k.op 0x10 0 1 == 1
      ((s.ctx i).st = .running → exec (.ctxStop r) s = .next ((s.begin k).stopCtx i rel)) ∧
      ((s.ctx i).st = .stopping →
        exec (.ctxStop r) s = .next ((s.begin k).modCtx i fun y => { y with release := y.release || rel })) ∧
      ((s.ctx i).st = .stopped →
        exec (.ctxStop r) s = .next ((s.modCtx i fun y => { y with release := y.release || rel }).finish k 0))) ∧
    (Claims.OnCtx s r 0x13 k i → k.op 0x10 0 1 = 1 → (s.ctx i).hasTileRegion = true →
      exec (.ctxStop r) s = .next (s.finish k 0x0B)) ∧
    (Claims.OnCtx s r 0x14 k i →
      let v := (s.ctx i).flags.toNat + (s.ctx i).st.code * 2 ^ 8 + (s.ctx i).cursor % 2 ^ 32 * 2 ^ 16 +
        min 0xFFFF (s.ctx i).overruns * 2 ^ 48
      (k.op 0x10 0 1 = 0 → exec (.ctxStatus r) s = .next (s.finish k 0 (s.ctx i).lastStatus v)) ∧
      (k.op 0x10 0 1 = 1 → exec (.ctxStatus r) s =
        .next ((s.modCtx i fun y => { y with flags := 0 }).finish k 0 (s.ctx i).lastStatus v))) ∧
    (Claims.OnCtx s r 0x15 k i → exec (.ctxWait r) s =
      .next (if (s.ctx i).st = .running then s.begin k else s.finish k 0)) ∧
    (Claims.OnCtx s r 0x17 k i → (s.deckle (s.ctx i).deckle).lost = false →
      s.localSize (s.ctx i).deckle < k.op 0x10 0 64 + 32 → exec (.collGroup r) s = .next (s.finish k 0x0B)) ∧
    (let d := (s.ctx i).deckle
     let a := k.op 0x10 0 64
     let head := s.localRead d a 32
     let n := fieldAt head 0 16 9
     let bytes := s.localRead d a (32 + 8 * n)
     let ms := (List.range n).map (memberOf bytes)
     let hash := BitVec.ofNat 64 (leNat (Config.shake256 (bytes.take 4 ++ [0] ++ bytes.drop 5) 8))
     Claims.OnCtx s r 0x17 k i → (s.deckle d).lost = false → a + 32 + 8 * n ≤ s.localSize d → s.localBad d a 32 = none →
       s.localBad d (a + 32) (8 * n) = none → groupHeadOk head = true →
       (∀ j < n, fieldAt bytes (32 + 8 * j) 56 8 = 0) → (s.ctx i).group (fieldAt head 0 8 6) = none →
       s.membersOk (s.handle i) (fieldAt head 4 0 8) ms = true → exec (.collGroup r) s = .next ((s.modCtx i fun y =>
         { y with groups := y.groups ++ [⟨fieldAt head 0 8 6, fieldAt head 4 0 8, ms, hash⟩] }).finish k 0))

/-- R329, R331: a teardown releases the context's tiles and completes once nothing is outstanding; its limits revoke the
generation and close it with TIMEOUT; an abort closes the command named with ABORTED, and answers BUSY for a teardown. Where
the spec leaves it open, this states choices of the model: log 24, 26. -/
def Obligations.TeardownAndAbort : Prop :=
  ∀ (s : State) (r : CmdRef) (k : Cmd) (i : Nat),
    (Claims.OnCtx s r 0x16 k i → i < 1024 → ∃ u, exec (.ctxTeardown r) s = .next u ∧ (u.ctx i).st = .teardown ∧
      (u.ctx i).bind = [] ∧ (u.ctx i).insts = [] ∧ (u.ctx i).moves = [] ∧ (u.ctx i).gen = (s.ctx i).gen) ∧
    (i < 1024 → (s.ctx i).st = .teardown →
      (s.draining i = false → s.awayLeft i = [] → exec (.teardownComplete i) s = .next ((s.revoke i).endTeardown i 0x00)) ∧
      (s.draining i = true ∨ s.awayLeft i ≠ [] → exec (.teardownComplete i) s = .next s) ∧
      (∀ t, (s.ctx i).drainedAt = some t → t + s.fget F.DECKLE_TIMERS_drain_ms 0 (ofDeckle (s.ctx i).deckle) ≤ s.ms →
        (s.ctx i).revoked = false → exec (.teardownDrainLimit i) s =
          .next ((s.discardUnsent i (s.ctx i).away.length).revoke i)) ∧
      ((s.ctx i).torn + s.fget F.DECKLE_TIMERS_teardown_ms 0 (ofDeckle (s.ctx i).deckle) ≤ s.ms →
        s.draining i = true ∨ s.awayLeft i ≠ [] →
        let s1 := s.each (s.tilesOf i) fun s t =>
          ((s.brokeAdd 0x1 t 0x03 false).bump C.RSTCTL_TFENCE_CNT).raiseTo E.RSTCTL_fence (s.ownersOfGroup (groupOf t))
        let s2 := s1.each ((s.awayLeft i).map fun w => (w.iod, w.dst)).eraseDups fun s p => s.loseRoute p.1 p.2
        exec (.teardownEscalate i) s =
          .next (((s2.revoke i).raiseTo E.DECKLE_teardown_escalated [(s.ctx i).deckle]).endTeardown i 0x03))) ∧
    (Claims.Takes s r 0x08 k →
      let named := s.cmds.find? fun t =>
        t.fn == k.fn && t.queue == k.op 0x10 0 6 && t.id == k.op 0x14 0 32 && !t.lost && t != k
      (named = none → exec (.abortCmd r) s = .next (s.finish k 0x02)) ∧
      (∀ t, named = some t → t.opcode = 0x16 → exec (.abortCmd r) s = .next (s.finish k 0x07)) ∧
      (∀ t, named = some t → t.opcode ≠ 0x16 → t.opcode ≠ 0x40 → t.opcode ≠ 0x41 → t.begun = false →
        exec (.abortCmd r) s = .next ((s.finish t 0x01).finish k 0)) ∧
      (∀ t, named = some t → t.opcode ≠ 0x16 → t.opcode ≠ 0x40 → t.opcode ≠ 0x41 → t.begun = true →
        exec (.abortCmd r) s = .next (((s.finish t 0x01 0 (s.movesDone t)).abandon t).finish k 0)))

/-- R134, R160, R161, R146: blocks of a chest created, freed, re-encoded, described, exported, imported and adopted; an export to an
endpoint completes with the last of its packets. Where the spec leaves it open, this states choices of the model: log 41. -/
def Obligations.ChestCommands : Prop :=
  ∀ (s : State) (r : CmdRef) (k : Cmd) (i : Nat),
    let x := s.ctx i
    let d := x.deckle
    (Claims.OnCtx s r 0x20 k i →
      let kind := k.op 0x18 0 1
      let f := Block.fresh kind (k.op 0x18 1 3) (k.op 0x18 4 2) (k.op 0x18 6 1) (k.op 0x18 16 9) (k.op 0x1C 0 32)
      let tok (n : Nat) : Nat := if kind = 0 then (k.op 0x20 0 48 + 64 * n) % 2 ^ 48 else 0
      createOk kind (k.op 0x18 1 3) (k.op 0x18 4 2) (k.op 0x18 6 1) (k.op 0x18 16 9) (k.op 0x1C 0 32) = true →
        (x.created k.first k.count ≠ [] → exec (.chestCreate r) s = .next (s.finish k 0x07)) ∧
        (x.created k.first k.count = [] → s.arenaFree d < k.count * (f 0).arena →
          exec (.chestCreate r) s = .next (s.finish k 0x0C)) ∧
        (x.created k.first k.count = [] → k.count * (f 0).arena ≤ s.arenaFree d → exec (.chestCreate r) s =
          .next ((s.arenaChange d fun s => s.modCtx i fun y =>
            y.putBlocks ((List.range k.count).map fun n => (k.first + n, f (tok n)))).finish k 0))) ∧
    (Claims.Takes s r 0x21 k → s.live k.ctx = none → (s.deckle (k.fn - 4)).orphans = [] →
      exec (.chestFree r) s = .next (s.finish k 0x04)) ∧
    (Claims.OnCtx s r 0x21 k i → exec (.chestFree r) s = .next (s.freeBlocks k i)) ∧
    (Claims.Takes s r 0x21 k → s.live k.ctx = none → let z := s.deckle (k.fn - 4)
      z.orphans.any (fun o => o.1 == k.ctx) = true → exec (.chestFree r) s =
        .next ((s.arenaChange (k.fn - 4) fun s => s.setDeckle (k.fn - 4) { z with orphans := (z.orphans.map fun o =>
          if o.1 = k.ctx then (o.1, dropBlocks o.2 k.first k.count) else o).filter fun o => !o.2.isEmpty }).finish k 0)) ∧
    (Claims.OnCtx s r 0x22 k i → k.op 0x18 0 3 ≤ 4 →
      let bs := (x.created k.first k.count).filter fun b => b.2.valid
      (∀ b ∈ bs, encOk b.2.kind (k.op 0x18 0 3) b.2.xenc = true) → exec (.chestReencode r) s =
        .next (if x.started then s.finish k 0x07 else s.reencodeAll k i (k.op 0x18 0 3) bs)) ∧
    (Claims.OnCtx s r 0x23 k i → x.created k.first k.count ≠ [] → s.inBuffer d (k.op 0x18 0 64) (64 * k.count) = true →
      exec (.chestReadDesc r) s = .next ((s.each (x.created k.first k.count) fun s b =>
        s.emit (.hostWrite (k.op 0x18 0 64 + 64 * (b.1 - k.first)) b.2.descriptor)).finish k 0)) ∧
    (Claims.OnCtx s r 0x24 k i → x.started = false →
      ((x.created k.first k.count).filter fun b => b.2.valid).findSome? (fun b => s.blockBad d b.2) = none →
      let bs := x.created k.first k.count
      let bytes := (bs.map fun b => b.2.export).flatten
      let ep := k.op 0x20 16 16
      let out := s.exportTo ep (s.handle i) (k.op 0x18 0 64) (pieces (bytes.length / 2048 + 1) 0 bytes)
      (k.op 0x20 0 4 = 4 → exec (.chestExport r) s = .next (if s.inBuffer d (k.op 0x18 0 64) bytes.length
        then (s.emit (.hostWrite (k.op 0x18 0 64) bytes)).finish k 0 else s.finish k 0x0B)) ∧
      (k.op 0x20 0 4 ≠ 4 → s.planned ep = false ∨ (s.txPair 0 ep).unreachable = true →
        exec (.chestExport r) s = .next (s.finish k 0x12)) ∧
      (∀ w ws, k.op 0x20 0 4 ≠ 4 → s.planned ep = true → (s.txPair 0 ep).unreachable = false → out.2 = some (w :: ws) →
        exec (.chestExport r) s = .next { out.1 with
          cmds := out.1.cmds.replace k { k with begun := true, planned := bs.length, sent := w :: ws } })) ∧
    (∀ src bs, Claims.OnCtx s r 0x25 k i → k.op 0x20 0 4 = 4 → s.inBuffer d (k.op 0x18 0 64) src.length = true →
      (importAll s.freeCtr (src.length / 64 + 1) src = some bs →
        let put := bs.zipIdx.map fun p => (k.first + p.2, p.1)
        let s0 := { s with freeCtr := s.freeCtr + (src.length / 64 + 1) }
        k.first + bs.length ≤ 2 ^ 28 → x.created k.first bs.length = [] → arenaOf put ≤ s0.arenaFree d →
        exec (.chestImport r src true) s = .next (((s0.arenaChange d fun s => s.modCtx i fun y => y.putBlocks put).each put
          fun s b => s.noteStored d b.1 b.2).finish k 0)) ∧
      exec (.chestImport r src false) s = .next (s.finish k 0x0B)) ∧
    (∀ o, Claims.OnCtx s r 0x26 k i → (s.deckle d).orphans.find? (fun o => o.1 == k.op 0x10 0 16) = some o →
      x.blocks = [] → exec (.chestAdopt r) s =
        .next (((s.setDeckle d { s.deckle d with orphans := (s.deckle d).orphans.filter fun p => p.1 != o.1 }).modCtx i
          fun y => { y with blocks := o.2 }).finish k 0))

/-- R186, R188, R191: the placement commands: pins and moves over a range, tiers, lending, and the replay of the next ream. Where the spec leaves it
open, this states choices of the model: log 40. -/
def Obligations.HeadboxCommands : Prop :=
  ∀ (s : State) (r : CmdRef) (k : Cmd) (i : Nat),
    let x := s.ctx i
    let d := k.fn - 4
    (Claims.OnCtx s r 0x28 k i → exec (.headboxPin r) s = .next (s.moveRange k i 4 true)) ∧
    (∀ cause pin, x.created k.first k.count = [] → s.moveRange k i cause pin = s.finish k 0x0B) ∧
    (∀ cause pin b, x.created k.first k.count = [b] → k.op 0x18 0 2 = 1 → b.2.tier ≠ 1 → pin = true ∨ b.2.pin = false →
      (∀ m ∈ x.moves, m.block ≠ b.1) → b.2.units * 256 ≤ s.arenaFree x.deckle → ∃ t, s.moveRange k i cause pin = t ∧
        (t.ctx i).moves = x.moves ++ [⟨b.1, 1, 0, cause, pin, false, false, s.beatCount, x.moves.length, none⟩] ∧
        t.cmds = s.cmds.replace k { k with begun := true, planned := 1 }) ∧
    (Claims.OnCtx s r 0x29 k i → x.created k.first k.count = [] → exec (.headboxUnpin r) s = .next (s.finish k 0x0B)) ∧
    (Claims.OnCtx s r 0x29 k i → x.created k.first k.count ≠ [] → exec (.headboxUnpin r) s =
      .next ((s.modCtx i fun y => { y with blocks := y.blocks.map fun p => (p.1, p.2.map fun b =>
        if (x.created k.first k.count).any (fun h => h.1 == p.1) then { b with pin := false } else b) }).finish k 0)) ∧
    (Claims.OnCtx s r 0x2A k i → exec (.headboxMove r) s =
      .next (if s.flag F.HEADBOX_POLICY_manual 0 (ofDeckle x.deckle) then s.moveRange k i 5 false else s.finish k 0x07)) ∧
    (Claims.Takes s r 0x2B k → (s.deckle d).lost = false → k.op 0x20 0 9 = 0 → k.op 0x10 0 64 = 0 →
      k.op 0x28 0 64 ≤ s.localSize d → s.localBad d (k.op 0x28 0 64) 0 = none →
      exec (.headboxTier r) s = .next ((s.setDeckle d { s.deckle d with t3 := none, lenders := [] }).finish k 0)) ∧
    (Claims.Takes s r 0x2B k → (s.deckle d).lost = false → 
      let n := k.op 0x20 0 9
      let a := k.op 0x28 0 64
      let ls := (List.range n).map fun j => fieldAt (s.localRead d a (8 * n)) (8 * j) 0 64
      a + 8 * n ≤ s.localSize d → s.localBad d a (8 * n) = none → k.op 0x10 0 64 ≠ 0 →
      s.inBuffer d (k.op 0x10 0 64) (k.op 0x18 0 64) = true → (∀ l ∈ ls, l < 2 ^ 56 ∧ s.planned (l % 2 ^ 16) = true) →
      exec (.headboxTier r) s = .next ((s.setDeckle d { s.deckle d with
        t3 := some (k.op 0x10 0 64, k.op 0x18 0 64), lenders := ls.map fun l => (bits l 0 16, bits l 16 16, bits l 32 24) }).finish k 0)) ∧
    (Claims.Takes s r 0x2C k → ((s.deckle d).lends.any fun l => l.tag == k.op 0x10 16 16) = false →
      k.op 0x14 0 32 * 2 ^ 20 ≤ s.arenaFree d → exec (.headboxLend r) s =
        .next ((s.arenaChange d fun t => t.setDeckle d { s.deckle d with lends := (s.deckle d).lends ++
          [⟨k.op 0x10 16 16, k.op 0x10 0 16, (k.desc.drop 0x20).take 32, k.op 0x14 0 32, []⟩] }).finish k 0)) ∧
    (Claims.OnCtx s r 0x2D k i → (s.deckle x.deckle).lost = false →
      let n := k.op 0x18 0 32
      let es := chunk32 n (s.localRead x.deckle (k.op 0x10 0 64) (32 * n))
      k.op 0x10 0 64 + 32 * n ≤ s.localSize x.deckle → s.localBad x.deckle (k.op 0x10 0 64) (32 * n) = none →
      (∀ e ∈ es, entryOk e = true ∧ fieldAt e 0 16 16 = s.handle i) →
      exec (.headboxReplay r) s = .next ((s.modCtx i fun x => { x with replay := some es }).finish k 0))

/-- R134, R238, R326, R506: the queue pairs of the storage ports and the work posted on them, which is sent in packets of the path MTU
and awaited. Where the spec leaves it open, this states choices of the model: log 20, 57, 110. -/
def Obligations.QueuePairCommands : Prop :=
  ∀ (s : State) (r : CmdRef) (k : Cmd),
    let d := k.fn - 4
    let x := s.deckle d
    (Claims.Takes s r 0x30 k → s.ownsPort d (k.op 0x10 0 5) = true →
      (4096 ≤ (x.qps.filter fun q => q.port == k.op 0x10 0 5).length →
        exec (.storQpCreate r) s = .next (s.finish k 0x0C)) ∧
      ((x.qps.filter fun q => q.port == k.op 0x10 0 5).length < 4096 → exec (.storQpCreate r) s =
        .next ((s.setDeckle d { x with nextQp := (x.nextQp + 1) % 2 ^ 24, qps := x.qps ++
          [⟨x.nextQp, k.op 0x10 0 5, k.op 0x14 0 16, k.op 0x14 16 16, 0, 0, 0, 0, List.replicate 16 0, 0, 0, [], 0, none, false,
            [], [], 0⟩] }).finish k 0 0 x.nextQp))) ∧
    (Claims.Takes s r 0x30 k → s.ownsPort d (k.op 0x10 0 5) = false → exec (.storQpCreate r) s = .next (s.finish k 0x0B)) ∧
    (∀ q, x.qp (k.op 0x10 0 24) = some q →
      (let q1 := { q with
         state := k.op 0x10 24 4, remote := k.op 0x14 0 24, mtu := k.op 0x18 0 2, vlan := k.op 0x18 4 12
         ip := (k.desc.drop 0x20).take 16, mac := k.op 0x30 0 48 }
       (Claims.Takes s r 0x31 k → k.op 0x10 24 4 = 3 → exec (.storQpModify r) s = .next ((s.setQp d q1).finish k 0)) ∧
       (Claims.Takes s r 0x31 k → k.op 0x10 24 4 ≠ 2 → k.op 0x10 24 4 ≠ 3 → exec (.storQpModify r) s =
         .next (((s.flushQp q).setQp d { q1 with work := [] }).finish k 0)) ∧
       (Claims.Takes s r 0x31 k → k.op 0x10 24 4 = 2 → exec (.storQpModify r) s =
         .next (((s.free.2.flushQp q).setQp d { q1 with
           work := [], sendPsn := (Config.freeWord s.free.1).toNat % 2 ^ 24, awaitPsn := none, gap := false, part := []
           inbox := [], rate := 800000000 }).finish k 0))) ∧
      (Claims.Takes s r 0x32 k → exec (.storQpDestroy r) s = .next (((s.flushQp q).setDeckle d { (s.flushQp q).deckle d with
        qps := ((s.flushQp q).deckle d).qps.filter fun p => p.num != q.num }).finish k 0)) ∧
      (∀ src, Claims.Takes s r 0x33 k → s.workOk d (k.op 0x10 28 4) (k.op 0x18 0 64) (k.op 0x20 0 32) = true →
        let n := k.op 0x20 0 32
        let op := k.op 0x10 24 4
        let data := if op = 3 then [] else if k.op 0x10 28 4 = 0 then s.localRead d (k.op 0x18 0 64) n else fit n src
        let w : Work := ⟨q.posted, op, k.op 0x10 28 4, k.op 0x18 0 64, n, k.op 0x24 0 32, k.op 0x28 0 64, data, q.sendPsn,
          max 1 (ceilDiv n q.bytes), 0, ⟨k.fn, k.queue, k.id⟩⟩
        (q.state = 3 → q.work.length < q.sendDepth →
          op = 3 ∨ k.op 0x10 28 4 ≠ 0 ∨ s.localBad d (k.op 0x18 0 64) n = none → exec (.storPost r src) s =
            .next ((({ s with cmds := s.cmds.replace k { k with begun := true, planned := q.posted } }).setQp d { q with
              posted := (q.posted + 1) % 2 ^ 32, work := q.work ++ [w], sendPsn := (q.sendPsn + w.count) % 2 ^ 24 }).sendEth q.port
                (s.workFrames q w 0))) ∧
        (q.state ≠ 3 → exec (.storPost r src) s = .next (s.finish k 0x09)) ∧
        (q.state = 3 → q.sendDepth ≤ q.work.length → exec (.storPost r src) s = .next (s.finish k 0x0C)))) ∧
    (x.qp (k.op 0x10 0 24) = none →
      (Claims.Takes s r 0x31 k → exec (.storQpModify r) s = .next (s.finish k 0x0B)) ∧
      (Claims.Takes s r 0x32 k → exec (.storQpDestroy r) s = .next (s.finish k 0x0B)) ∧
      (∀ src, Claims.Takes s r 0x33 k → exec (.storPost r src) s = .next (s.finish k 0x0B)))

/-- R312-R314, R469: a deckle is given its resources under its lock, becomes ACTIVE with them zeroed, and goes with its
sessions and queues once it has no context; a profile is selected. Where the spec leaves it open, this states choices of the
model: log 23, 91. -/
def Obligations.DeckleCommands : Prop :=
  ∀ (s : State) (r : CmdRef) (k : Cmd),
    (Claims.Takes s r 0x40 k →
      let a := deckleAsk k
      (s.askOk a = false → exec (.deckleCreate r) s = .next (s.finish k 0x0B)) ∧
      (∀ l, s.askOk a = true → s.conflict 3 a.d a.given = some l → exec (.deckleCreate r) s = .next (s.lockRefuse k l)) ∧
      (s.askOk a = true → s.conflict 3 a.d a.given = none → s.askTaken a = true →
        exec (.deckleCreate r) s = .next (s.finish k 0x0C)) ∧
      (s.askOk a = true → s.conflict 3 a.d a.given = none → s.askTaken a = false → exec (.deckleCreate r) s =
        .next (((s.begin k).takeLock 3 a.d k.holder k.id).giveDeckle a))) ∧
    (∀ d, d < 16 → s.fget F.DECKLE_STATE_state 0 (ofDeckle d) = 1 → s.inService = true → exec (.deckleZeroingDone d) s =
      .next (((((s.zeroDeckle d).fset F.DECKLE_STATE_state 2 0 (ofDeckle d)).freeLock 3 d).resetView (4 + d)).finishAll
        (fun k => k.begun && k.opcode == 0x40 && k.op 0x10 0 4 == d) 0)) ∧
    (Claims.Takes s r 0x41 k → s.deckleExists (k.op 0x10 0 4) = true → s.conflict 3 (k.op 0x10 0 4) = none →
      exec (.deckleDestroy r) s = .next (if s.ctxsOf (k.op 0x10 0 4) = [] then (s.dropDeckle (k.op 0x10 0 4)).finish k 0
        else s.finish k 0x07)) ∧
    (Claims.Takes s r 0x42 k → exec (.profileSelect r) s = .next ((s.selectProfile (k.op 0x10 0 2)).finish k 0)) ∧
    (∀ (t : State) (d key : Nat), t.ownsHalf d (key / 2 ^ 37) (key / 2 ^ 36 % 2) = true →
      (t.zeroDeckle d).hbm.get (fun _ => 0) key = 0)

/-! Memory, power, clocks and recovery. -/

/-- R203, R204, R206-R209, R215, R310: host accesses to a deckle's memory return or place bytes, or are refused and counted; a read
that finds up to two symbols of a unit in error counts it, one that finds three to six poisons the unit; the scrubber takes the
units of a channel in turn; repairs take a row to a spare; the refresh rate follows the temperature; and a half that fails is
lost. Where the spec leaves it open, this states choices of the model: log 15, 67. -/
def Obligations.MemoryRows : Prop :=
  ∀ (s : State) (d addr n stack row : Nat) (data : List Byte),
    (∀ errs, d < 16 → s.hdmReach d addr n = true → (s.deckle d).lost = false → s.inArena d addr n = false →
      s.memFenced d = false →
      let s1 := s.demandRead d addr n errs
      (s1.localBad d addr n = none → exec (.hostMemRead d addr n errs) s =
        .next (s1.emit (.hostData (s.localRead d addr n) false))) ∧
      (∀ a, s1.localBad d addr n = some a → exec (.hostMemRead d addr n errs) s =
        .next (((s1.countPoisons d addr n).bump C.CXLP_POISON_CNT).emit (.hostData (s.localRead d addr n) true)))) ∧
    (∀ e, (s.deckle d).lost = false → s.isPoisoned d (addr / 64 * 64) = false → 0 < n → n + addr % 64 ≤ 64 →
      let key := s.localKey d (addr / 64 * 64)
      let stack := key / 2 ^ 37
      let channel := key / 2 ^ 32 % 32
      let choff := key % 2 ^ 32 / 64 * 64
      (e = 1 ∨ e = 2 → s.demandRead d addr n [(addr, e)] =
        (s.bump C.HBMC_CE_CNT stack).rowError stack (rowOf' channel choff)) ∧
      (3 ≤ e → e ≤ 6 → s.demandRead d addr n [(addr, e)] = s.poisonUnit stack channel choff)) ∧
    (∀ errs, d < 16 → s.hdmReach d addr n = true → (s.deckle d).lost = true ∨ s.inArena d addr n = true →
      exec (.hostMemRead d addr n errs) s =
        .next (((s.bump C.DECKLE_MEM_REFUSE_CNT).bump C.CXLP_POISON_CNT).emit (.hostData (s.localRead d addr n) true))) ∧
    (d < 16 → s.hdmReach d addr data.length = true → (s.deckle d).lost = false → s.inArena d addr data.length = false →
      s.memFenced d = false → exec (.hostMemWrite d addr data) s = .next (s.localWrite d addr data)) ∧
    (d < 16 → s.hdmReach d addr data.length = true → s.inArena d addr data.length = true →
      exec (.hostMemWrite d addr data) s = .next (s.bump C.DECKLE_MEM_REFUSE_CNT)) ∧
    (stackOk s stack = true →
      (∀ channel, channel < 32 → s.memState stack = memActive → s.fget F.HBMC_SCRUB_period_h stack ≠ 0 →
        let choff := (s.stack stack).scrub.get (fun _ => 0) channel * 64
        let s1 := s.modStack stack fun x =>
          { x with scrub := x.scrub.set (fun _ => 0) channel ((x.scrub.get (fun _ => 0) channel + 1) % channelUnits) }
        let bad := s.poison.get (fun _ => false) (hbmKey stack channel choff / 64)
        (bad = true → ∀ e, exec (.scrub stack channel e) s = .next (s1.bump C.HBMC_POISON_RD_CNT stack)) ∧
        (bad = false → exec (.scrub stack channel 0) s = .next s1 ∧
          (∀ e, e = 1 ∨ e = 2 → exec (.scrub stack channel e) s =
            .next ((s1.bump C.HBMC_SCRUB_CE_CNT stack).rowError stack (rowOf' channel choff))) ∧
          (∀ e, 3 ≤ e → e ≤ 6 → exec (.scrub stack channel e) s = .next (s1.poisonUnit stack channel choff)))) ∧
      (rowOk row = true → (s.stack stack).scheduled.contains row = true → (s.stack stack).repairing = none →
        s.memState stack = memActive →
        let x := { s.stack stack with scheduled := (s.stack stack).scheduled.erase row }
        ((s.stack stack).spares row ≠ 0 → s.conflict 4 stack = none → exec (.rowRepair stack row) s =
          .next ((s.modStack stack fun _ => { x with repairing := some row }).takeLock 4 stack (4, 0) 0)) ∧
        ((s.stack stack).spares row = 0 → exec (.rowRepair stack row) s =
          .next (((s.modStack stack fun _ => { x with unrepaired := x.unrepaired ++ [row] }).brokeAdd 0x5
            (rowLoc stack row) 0x0D true).raiseStack E.HBMC_no_spare stack))) ∧
      (rowOk row = true → (s.stack stack).repairing = some row → ∃ u, exec (.rowRepairDone stack row) s = .next u ∧
        u.hbm = s.hbm ∧ (u.stack stack).repairing = none ∧
        (u.stack stack).repaired = (s.stack stack).repaired ++ [row] ∧ u.broke = s.broke) ∧
      (∀ t, s.spot (8 + stack) 0 = some t → s.fget F.HBMC_STATE_refresh stack < refreshCode t →
        ∀ cooled, exec (.refreshRateChange stack cooled) s =
          .next ((s.fset F.HBMC_STATE_refresh (refreshCode t) stack).raiseStack E.HBMC_refresh_change stack)) ∧
      (∀ t, s.spot (8 + stack) 0 = some t → refreshCode (t + 7) < s.fget F.HBMC_STATE_refresh stack →
        exec (.refreshRateChange stack true) s = .next ((s.fset F.HBMC_STATE_refresh (refreshCode (t + 7)) stack).raiseStack
          E.HBMC_refresh_change stack)) ∧
      (∀ half, half < 2 → s.memState stack = memActive →
        exec (.halfStackFail stack half) s = .next (s.failHalf stack half)))

/-- R446, R447, R479-R500: power and the rails; a module without power is one before power-on, and what it keeps is its NOR
device and the repairs of its stacks. Where the spec leaves it open, this states choices of the model: log 6, 87, 88. -/
def Obligations.PowerAndRailRows : Prop :=
  ∀ s : State,
    (∀ a b, s.bring.powered = true → exec (.powerOn a b) s = .next s) ∧
    (∀ a b, s.bring.powered = false → ∃ u, exec (.powerOn a b) s = .next u ∧ u.bring.powered = true ∧
      u.boots = s.boots + 1 ∧ u.nvm.nor = s.nvm.nor ∧ u.ctxs = [] ∧ u.hbm = [] ∧ u.tiles = [] ∧
      u.bring.sel = (if a then 2 else 0) + (if b then 1 else 0) ∧ u.fget F.RSTCTL_STATE_state = rsTraining ∧
      u.fget F.CLKCTL_ROOT_refclk_ok = 1) ∧
    exec .prsntRemoval s = .next (s.powerOff false) ∧ exec .inputFault s = .next (s.powerOff true) ∧
    (s.bring.powered = true → exec .overcurrent s =
      .next ((((s.droop 0).droop 1).droop 2).droop 3)) ∧
    (∀ r, r < 4 → s.bring.powered = true →
      (r ≠ 0 → s.rail r = false → (∀ k < r, s.rail k = true) → (s.fget F.MGT_RAILS_req).testBit r = true → r < 3 →
        (s.fset (railF r) 1).rail 3 = false → (s.fset (railF r) 1).upDone = false →
        exec (.railAssert r) s = .next (s.fset (railF r) 1)) ∧
      (s.rail r = true → r = 0 → exec (.railLoss r) s = .next (s.powerOff false)) ∧
      (s.rail r = true → r = 1 → (s.fset (railF 1) 0).rsState ≠ rsFailed → (s.fset (railF 1) 0).fget F.RSTCTL_BRINGUP_phase < 5 →
        exec (.railLoss r) s = .next ((s.fset (railF 1) 0).coldDomains.restartRails)) ∧
      (s.rail r = true → (∀ k < 4, r < k → s.rail k = false) → r = 2 →
        exec (.railRemoval r) s = .next ((s.fset (railF 2) 0).fenceCompute)) ∧
      (s.rail r = true → (∃ k < 4, r < k ∧ s.rail k = true) → exec (.railRemoval r) s = .next s)) ∧
    (∀ r, r < 4 → s.fget F.RSTCTL_BRINGUP_phase = 1 → s.bring.powered = true →
      (s.fget F.MGT_RAILS_req).testBit r = true → s.rail r = false → exec .railReqRetry s =
        .next (s.duntus 0x06 [BitVec.ofNat 8 (s.fget F.MGT_RAILS_req)]))

/-- R210, R481-R485: training and the tests of bring-up; a test that fails twice fails bring-up, and a module whose
conditions are met becomes READY. Where the spec leaves it open, this states choices of the model: log 84, 87. -/
def Obligations.BringUpRows : Prop :=
  ∀ (s : State),
    (s.fget F.RSTCTL_BRINGUP_phase = 1 ∨ s.fget F.RSTCTL_BRINGUP_phase = 2 → s.upRuns = true → s.rail 1 = true → s.bring.mem = false →
      exec .memoryTrainingStart s = .next s.trainStart) ∧
    (∀ failed ms spare i, i < 12 → s.memState i = memTraining →
      let s1 := s.trainDone failed spare ms (!s.upDone)
      (s.upDone = true → exec (.memoryTrainingDone failed ms spare) s = .next s1) ∧
      (s.upDone = false → exec (.memoryTrainingDone failed ms spare) s =
        .next (({ s1 with bring := { s1.bring with mem := true } }).checkHost))) ∧
    (∀ bad, s.upDone = false → s.fget F.RSTCTL_BRINGUP_phase = 1 ∨ s.fget F.RSTCTL_BRINGUP_phase = 2 → s.upRuns = true → s.rail 2 = true →
      s.bring.test = false →
      exec (.computeDieTestDone bad true true) s = .next (({ s.retireTiles bad with
        bring := { (s.retireTiles bad).bring with test := true } }).checkHost) ∧
      (∀ u io, u = false ∨ io = false →
        (s.bring.repeated = false → exec (.computeDieTestDone bad u io) s =
          .next { s with bring := { s.bring with repeated := true } }) ∧
        (s.bring.repeated = true → exec (.computeDieTestDone bad u io) s = .next (s.failUp (if u then 5 else 4) 0x0D)))) ∧
    (∀ l, l < 4 → s.fget F.RSTCTL_BRINGUP_phase = 3 → s.linkExists l = true → s.bring.windows.contains l = false →
      exec (.hostLinkWindowEnd l) s = .next { s with bring := { s.bring with windows := s.bring.windows ++ [l] } }) ∧
    (∀ ms, s.upReady = false → exec (.bringupReady ms) s = .next s) ∧
    (∀ ms, s.upReady = true → ∃ u, exec (.bringupReady ms) s = .next u ∧ u.rsState = rsReady ∧
      u.fget F.RSTCTL_STATE_tier = 0 ∧ u.fget F.RSTCTL_BRINGUP_phase = 4 ∧
      u.fget F.RSTCTL_BRINGUP_ms = min 0xFFFF ms) ∧
    (s.fget F.RSTCTL_BRINGUP_phase = 2 ∨ s.fget F.RSTCTL_BRINGUP_phase = 3 → exec .bringupWatchdog s =
      .next ((s.fset F.RSTCTL_STATE_cause 6).failUp 6 0x03))

/-- R412-R417: the tiers of recovery. A tier fences, drains, resets and becomes READY, with its lock held from its start to
its end; a higher tier follows one that is late; and a third package recovery within 60 s fails the module. Where the spec
leaves it open, this states choices of the model: log 74. -/
def Obligations.RecoveryTierRows : Prop :=
  ∀ (s : State) (cause status : Nat),
    (s.upDone = true → s.rsState = rsReady → exec (.computeDomainReset cause status) s =
      .next ((((((s.takeLock 6 0 byModule 0).setTier rsFencing 1 cause).bump C.RSTCTL_CDRESET_CNT).planDump 1 cause
        status).fenceCompute))) ∧
    (s.rsState ≠ rsReady → exec (.computeDomainReset cause status) s = .next s) ∧
    (s.upDone = true → s.rsState ≠ rsFailed → 2 ≤ (s.rst.recoveries.filter fun t => decide (s.ms < t + 60000)).length →
      exec (.packageRecovery cause status) s = .next s.fail) ∧
    (s.rsState = rsFailed → exec (.packageRecovery cause status) s = .next s) ∧
    (let recent := s.rst.recoveries.filter fun t => decide (s.ms < t + 60000)
     let s2 := ((((s.freeLock 6 0).freeLock 7 0).takeLock 7 0 byModule 0)).setTier rsFencing 2 cause
     let s3 := ({ s2 with rst := { s2.rst with recoveries := recent ++ [s.ms] } }).bump C.RSTCTL_PKGREC_CNT
     s.upDone = true → s.rsState ≠ rsFailed → recent.length < 2 → exec (.packageRecovery cause status) s =
       .next ((s3.planDump 2 cause status).fenceCompute.dropLinks.fencePages ioPages)) ∧
    (∀ n, s.tierRuns 1 = true → s.rsState = rsFencing → s.rst.railHold = false →
      s.rst.dumping = none → s.rst.dumpDue = none → exec (.drainLimit n) s =
        .next (((s.bumpBy C.RSTCTL_DRAIN_TO_CNT n).selfRefresh).enterReset)) ∧
    (∀ ms, s.tierRuns 1 = true → s.rsState = rsResetting → ∃ u, exec (.cdResetReady ms) s = .next u ∧
      u.rsState = rsReady ∧ u.hbm = s.hbm ∧ u.fget F.RSTCTL_STATE_last_ms = min 0xFFFF ms ∧
      (∀ l ∈ u.locks, l.cls = 6 → l.inst ≠ 0)) ∧
    (∀ ms, s.tierRuns 2 = true → s.rsState = rsTraining →
      (∀ i < 12, s.stackFitted i = true → s.memState i = memActive ∨ s.memState i = memFailed) →
      ∃ u, exec (.pkgRecoveryReady ms) s = .next u ∧ u.rsState = rsReady ∧ (∀ l ∈ u.locks, l.cls = 7 → l.inst ≠ 0)) ∧
    (s.tierRuns 1 = true → exec .cdResetEscalate s = .next (s.startPkg 6 0x03 byModule)) ∧
    (s.tierRuns 2 = true → exec .pkgRecoveryTimeout s = .next s.fail) ∧
    exec .brokeMapPersist s = .next { s with nvm := { s.nvm with mapCopy := s.broke } }

/-- R324, R418-R422: a command that times out completes with TIMEOUT and its suspects are held; a replay that does not end in
its window convicts its context. A dump that is due is held, its size and what could not be read shown. Where the spec leaves
it open, this states choices of the model: log 73, 75. -/
def Obligations.SuspectAndDumpRows : Prop :=
  (∀ (s : State),
     (∀ (c : CmdRef) (k : Cmd), c.fn < 20 → c.queue < 64 →
       (s.cmds.find? fun k => k.fn == c.fn && k.queue == c.queue && k.id == c.cmdId && s.overtime k) = some k →
       let s2 := ((s.bump C.DECKLE_TIMEOUT_CNT).raiseTo E.DECKLE_command_timeout (deckleOfFn k.fn)).finish k 0x03
       exec (.commandTimeout c) s =
         .next (if s.inService then s2.suspect k else s2)) ∧
     (∀ x c b, s.rst.suspects = some x → x.replaying = some (c, b) → s.beatCount < b + s.replayWindow x →
       exec .replayWindowEnd s = .next s) ∧
     (∀ x c b, s.rst.suspects = some x → x.replaying = some (c, b) → b + s.replayWindow x ≤ s.beatCount →
       let s1 := (s.abandonRuns c).1.suspectFault x.cmd c 0x0F
       let s2 := (s1.bump C.RSTCTL_CONVICT_CNT).raise E.RSTCTL_convicted
       let x1 := { x with replaying := none, convicted := x.convicted + 1 }
       let s3 := s2.each x.waiting fun s c => s.suspectFault x.cmd c 0x0E
       let s4 := ({ s3 with rst := { s3.rst with suspects := none } }).showSuspects
       (x.convicted = 0 → exec .replayWindowEnd s =
         .next (({ s2 with rst := { s2.rst with suspects := some x1 } }).closeSet)) ∧
       (1 ≤ x.convicted → exec .replayWindowEnd s =
         .next (if x.compute then s4.startCd 7 0x0F byModule else s4.startPkg 7 0x0F byModule))) ∧
     (s.rst.suspects = none → exec .replayWindowEnd s = .next s)) ∧
  (∀ (s : State) (gone : List (Nat × Nat × Nat)),
     (s.rst.dumping = none → exec (.dumpDone gone) s = .next s) ∧
     (∀ st tier, s.rst.dumping = some (st, tier) → s.rsState ≠ rsDumping → s.rst.dumpAgain = none → ∃ u, exec (.dumpDone gone) s = .next u ∧
       u.rst.dump = s.dumpBytes st tier gone ∧ u.rst.dumping = none ∧ u.fget F.RSTCTL_DUMP_valid = 1 ∧
       u.hbm = s.hbm ∧ u.ctxs = s.ctxs ∧ u.tiles = s.tiles))

/-- R357-R373: the loss of REFCLK or of a root stops or switches what runs on it; a droop response lengthens a die's period
and ends at the divisor in force before; an enable written takes effect with STATUS.ready. Where the spec leaves it open,
this states choices of the model: log 77. -/
def Obligations.ClockRows : Prop :=
  ∀ (s : State) (r die : Nat), r < 2 → die < 4 →
    (s.rst.refLost = false → s.bring.powered = true →
      let s1 := ((s.fset F.CLKCTL_ROOT_refclk_ok 0).fset F.CLKCTL_ROOT_a_ready 0).fset F.CLKCTL_ROOT_b_ready 0
      let s2 := (s1.bump C.CLKCTL_REFCLK_LOSS_CNT).raise E.CLKCTL_refclk_loss
      exec .refclkLoss s = .next ((({ s2 with rst := { s2.rst with refLost := true } } : State).each (List.range 4) fun s d =>
        s.endDroop d).fenceAll.selfRefresh)) ∧
    (s.rst.refLost = true → s.rootReady 0 = false → s.rootReady 1 = false → exec .refclkReturn s = .next s) ∧
    (s.rst.refLost = true → s.rootReady 0 = true ∨ s.rootReady 1 = true → exec .refclkReturn s =
      .next ((({ s with rst := { s.rst with refLost := false } } : State).fset F.CLKCTL_ROOT_refclk_ok 1).recoverAll
        fun t => t.startPkg 1 0x09 byModule)) ∧
    (s.flag F.CLKCTL_ROOT_bypass = false → exec (.rootLock r) s = .next (s.fset (lockF r) 1)) ∧
    (s.flag (lockF r) = false → exec (.rootReady r) s = .next s ∧ exec (.rootLockLoss r) s = .next s) ∧
    (s.flag (lockF r) = true → s.clk.stopped = false → s.ctl.halted = [] →
      exec (.rootReady r) s = .next (s.fset (readyF r) 1)) ∧
    (s.flag (lockF r) = true →
      let recent := s.clk.losses.filter fun l => decide (s.ms < l.2 + 3600000)
      let s1 := { s with clk := { s.clk with losses := recent ++ [(r, s.ms)] } }
      let s2 := ((((s1.fset (lockF r) 0).fset (readyF r) 0).bump C.CLKCTL_LOCK_LOSS_CNT).raise E.CLKCTL_root_lock_loss)
      ((recent.filter fun l => l.1 == r).length < 2 → exec (.rootLockLoss r) s = .next (s2.loseRoot r)) ∧
      (2 ≤ (recent.filter fun l => l.1 == r).length → s.rootRetired r = false →
        exec (.rootLockLoss r) s = .next ((s2.brokeAdd 0x9 r 0x09 true).loseRoot r))) ∧
    (∀ rail,
      (rail * 100 < (100 - s.fget F.SENS_DROOP_pct die) * coreMv (s.fget (divF die)) →
        exec (.droopTrigger die rail) s = .next (s.droop die)) ∧
      ((100 - s.fget F.SENS_DROOP_pct die) * coreMv (s.fget (divF die)) ≤ rail * 100 →
        exec (.droopTrigger die rail) s = .next s)) ∧
    (s.flag (droopF die) = true → exec (.droopEnd die) s =
      .next ((({ s with clk := { s.clk with before := s.clk.before.set (fun _ => 0) die 0 } }).fset (droopF die) 0).fset
        (divF die) (s.clk.before.get (fun _ => 0) die - 1))) ∧
    (s.flag (droopF die) = false → exec (.droopEnd die) s = .next s) ∧
    (∀ rail, rail * 100 < (100 - s.fget F.SENS_DROOP_pct die) * coreMv (s.fget (divF die)) → s.flag (droopF die) = false →
      ∃ u, exec (.droopTrigger die rail) s = .next u ∧
      u.clk.before.get (fun _ => 0) die = s.fget (divF die) + 1 ∧ u.flag (droopF die) = true) ∧
    (∀ page, (clockBit page).isSome = true → s.pageFitted page = true →
      (s.clk.enables.find? fun e => e.1 == page) = some (page, true) →
      let s1 := { s with clk := { s.clk with enables := s.clk.enables.filter fun x => x != (page, true) } }
      s.pageFenced page = false → exec (.clockEnableDone page) s = .next ((s1.setReady page 1).ungate page))

/-- R378-R399: the calender's samples. A bucket closes each millisecond, decisions are made once in a beat, two samples in a
row at the trip limit trip the module, and three samples of the leak loop in a row change its state. Where the spec leaves it
open, this states choices of the model: log 78, 79, 80. -/
def Obligations.CalenderRows : Prop :=
  ∀ (s : State),
    (∀ mj, ∃ u, exec (.energyBucketClose mj) s = .next u ∧ u.ms = s.ms + 1 ∧
      u.cal.buckets = (mj :: s.cal.buckets).take 10000 ∧ u.hbm = s.hbm ∧ u.ctxs = s.ctxs) ∧
    (∀ w pred stalls loads meters, s.cal.made = true ∨ s.controlRuns = false →
      exec (.calenderDecision w pred stalls loads meters) s = .next s) ∧
    (∀ w pred stalls loads meters low, s.cal.made = false → s.controlRuns = true → predOf pred 4 4 = some low →
      let s1 := s.takeMeasures w meters
      let s2 := ((s1.each (List.range 4) fun s die => s.learnDie stalls die).each loads State.learnLoad).choosePoint pred
        stalls low
      exec (.calenderDecision w pred stalls loads meters) s =
        .next { s2 with cal := { s2.cal with made := true, fell := false } }) ∧
    (∀ rs power,
      let s0 := s.each (power.filter fun p => decide (p.1 < 20)) fun s p => s.samplePower p.1 p.2
      let s1 := s0.each s0.senseInsts fun s i => s.each (List.range (s.points i)) fun s p =>
        s.sampleOne i p (rs.find? fun r => r.inst == i && r.point == p)
      let s2 := s1.each ((List.range 12).filter s1.stackFitted) fun s i => s.samplePair i
      let s3 := s2.each s2.senseInsts fun s i => s.showHot i
      let s4 := (s3.each s3.senseInsts fun s i => (s.countTrips i).1).noteCalm
      let hot := s3.senseInsts.filter fun i => (s3.countTrips i).2
      exec (.tempSample rs power) s = .next (if hot.isEmpty then s4 else s4.trip hot)) ∧
    (s.cal.calm < 10000 → exec .thermtripRelease s = .next s) ∧
    (s.rst.tripped = true → 10000 ≤ s.cal.calm → s.upDone = true → exec .thermtripRelease s =
      .next ((({ s with rst := { s.rst with tripped := false } } : State)).startPkg 3 0 byModule)) ∧
    (∀ ohms, s.cal.leak.1 ≠ leakRange ohms → exec (.leakSample ohms) s =
      .next (({ s with cal := { s.cal with leak := (leakRange ohms, 1) } }).fset
        F.CALENDER_LEAK_ohms_100 (if 25000 < ohms then 0xFFFF else min 0xFFFF (ohms / 100)))) ∧
    (∀ ohms n, ohms < 8000 → s.cal.leak = (1, n) → 2 ≤ n → s.fget F.CALENDER_LEAK_state ≠ 1 →
      ∃ u, exec (.leakSample ohms) s = .next u ∧ u.fget F.CALENDER_LEAK_state = 1)


/-! Links, routers and collectives. -/

/-- R227, R238, R239: the states of a port's training, and what a port in Ethernet or S7 use receives. Where the spec leaves it
open, this states choices of the model: log 54, 55, 57, 106, 110. -/
def Obligations.PortTrainingRows : Prop :=
  ∀ (s : State) (p : Nat), p < 26 → s.portFitted p = true →
    let st := s.portState p
    let mode := s.portMode p
    (∀ lanes : BitVec 4, st = stDetect → mode ≠ 1 → 2 ≤ lanesIn lanes.toNat →
      exec (.signalDetect p lanes) s = .next (s.portTo p stTrain 0)) ∧
    (∀ lanes : BitVec 4, lanesIn lanes.toNat < 2 → exec (.signalDetect p lanes) s = .next s) ∧
    (st ≠ stOff → st ≠ stAbsent → st ≠ stRetired → st ≠ stDetect → exec (.signalLoss p) s = .next (s.toDetect p)) ∧
    (st = stDetect → s.portWanted p = true → mode ≠ 1 → exec (.detectTimeout p) s = .next (s.portTo p stAbsent 0)) ∧
    (st = stDetect → s.portWanted p = false → exec (.detectTimeout p) s = .next s) ∧
    (st = stTrain → ∀ lanes inv : BitVec 4, ∀ rev, lanesIn lanes.toNat < 2 →
      exec (.lanesLocked p lanes inv rev) s = .next s) ∧
    (st = stTrain → (s.port p).clearing = false → ∀ lanes inv : BitVec 4, ∀ rev,
      let ok := (List.range 4).filter fun l => lanes.getLsbD l && !s.laneRetired p l
      2 ≤ ok.length →
      let s1 := (List.range 4).foldl (fun s l => ((s.fset (laneF l 0 1) (if ok.contains l then 1 else 0) p).fset (laneF l 2 1)
        (if inv.getLsbD l then 1 else 0) p).fset (laneF l 3 2) (if rev then 3 - l else l) p) s
      exec (.lanesLocked p lanes inv rev) s = .next (((s1.fset F.PORT_STATE_lanes
        ((ok.map fun l => 2 ^ l).foldl (· + ·) 0) p).modPort p fun x => { x with clearing := false }).toIdentify p)) ∧
    (st = stTrain → exec (.phyTrainTimeout p) s = .next (s.portTo p stAbsent 0)) ∧
    (st = stIdentify → mode = 0 → exec (.identifyTimeout p) s =
      .next ((s.bump C.PORT_ID_REJECT_CNT p).hold p stHeld 0x08 0 0 0)) ∧
    (st = stSeal → exec (.sealTimeout p) s = .next (s.hold p stHeld 0x08 0 0 0)) ∧
    (st = stRetrain → exec (.retrainTimeout p) s = .next (s.toDetect p)) ∧
    (st = stAbsent → exec (.absentRetry p) s = .next (s.toDetect p)) ∧
    (mode = 1 → st ≠ stOff → st ≠ stRetired →
      exec (.ethLinkUp p) s = .next ((s.portTo p stActive 0).flushEth p) ∧
      exec (.ethLinkTimeout p) s = .next (s.portTo p stAbsent 0)) ∧
    (mode = 2 → st = stIdentify → exec (.s7HelloTimeout p) s = .next (s.portTo p stAbsent 0)) ∧
    (mode = 2 → st = stIdentify → ∀ pl serial pp, s.plan = some pl →
      let e := planEntry pl p
      let s1 := (s.fset F.PORT_PARTNER_SN_serial serial p).fset F.PORT_PARTNER_port pp p
      (serial = planSerial e → pp = planPort e → exec (.s7Hello p serial pp) s = .next (s1.toActive p)) ∧
      (serial ≠ planSerial e ∨ pp ≠ planPort e → exec (.s7Hello p serial pp) s =
        .next (((s1.bump C.PORT_ID_REJECT_CNT p).noteMiswire p 0 pp).hold p stHeld 0x10 0 0 pp))) ∧
    (∀ net f, s.portActive p = true → mode = 2 →
      (net = s.fget F.PORT_CFG_s7_net p → exec (.s7Frame p net f) s =
        .next (s.modPort p fun x => { x with frames := x.frames ++ [f] })) ∧
      (net ≠ s.fget F.PORT_CFG_s7_net p → exec (.s7Frame p net f) s = .next s)) ∧
    (∀ f : EthFrame, s.portActive p = true → mode = 1 →
      (9216 < f.len → exec (.ethFrame p f) s = .next s) ∧
      (f.len ≤ 9216 → f.dmac = Config.portMac p 0 ∨ f.dmac = Config.portMac p 1 →
        (∀ data, f.body = .other data → exec (.ethFrame p f) s =
          .next (s.modPort p fun x => { x with frames := x.frames ++ [data] })) ∧
        (∀ r d q, f.body = .roce r → s.qpAt p r = some (d, q) → exec (.ethFrame p f) s = .next (s.takeRoce d q r))) ∧
      (∀ times, f.len ≤ 9216 → f.dmac = pauseMac → f.body = .pause times →
        exec (.ethFrame p f) s = .next (s.takePause p times))) ∧
    (∀ status miswire, exec (.hold_ p status miswire) s =
      .next (s.modPort p fun x => { x with peerHold := some (status, miswire.toNat) }))

/-- R224, R229-R236, R240: identity sets, latency, widths and lanes of a port. A width proposed is answered with the lanes both ends
still have, and is in force with the answer to this end's own proposal. Where the spec leaves it open, this states choices of the
model: log 49, 50, 51, 52, 106. -/
def Obligations.PortLinkRows : Prop :=
  ∀ (s : State) (p : Nat), p < 26 → s.portFitted p = true →
    let st := s.portState p
    let x := s.port p
    (∀ sender seg, st = stIdentify → s.portMode p = 0 → seg.length < setLength →
      exec (.idSeg p sender 0 seg) s = .next (s.modPort p fun x => { x with idBuf := seg, idFrom := sender })) ∧
    (∀ sender seg, st = stIdentify → s.portMode p = 0 → setLength ≤ x.idBuf.length + seg.length → x.idBuf ≠ [] →
      exec (.idSeg p sender x.idBuf.length seg) s = .next (s.checked p (x.idBuf ++ seg) sender)) ∧
    (∀ sender seg, st = stRetrain → s.portMode p = 0 → exec (.idSeg p sender 0 seg) s =
      .next ((s.modPort p fun x => { x with idBuf := seg, idFrom := sender }).retrained p)) ∧
    (∀ stamp turn now, s.portMode p = 0 → stIdentify ≤ st → exec (.echo p true stamp turn now) s =
      .next (s.sendCtl p 2 (leBytes 1 0 ++ leBytes 8 stamp ++ leBytes 2 turn))) ∧
    (∀ stamp turn rtt b, s.portMode p = 0 → st = stLatency → x.fresh = false → x.best = some b → x.echoes < 255 →
      exec (.echo p false stamp turn (stamp + turn + rtt)) s =
        .next (s.setPort p { x with echoes := x.echoes + 1, best := some (min b rtt) })) ∧
    (∀ stamp turn rtt b, s.portMode p = 0 → st = stLatency → x.fresh = false → x.best = some b → x.echoes = 255 →
      exec (.echo p false stamp turn (stamp + turn + rtt)) s =
        .next (((s.setPort p { x with echoes := 256, best := some (min b rtt), fresh := true }).fset F.PORT_LATENCY_one_way
          (min 0xFFFF (min b rtt / 2)) p).afterLatency p)) ∧
    (∀ (m : BitVec 4) n, s.portActive p = true → s.portMode p = 0 →
      let w := m.toNat &&& (match x.width with | some w => w.1 | none => s.portLanes p)
      exec (.width p m n false) s = .next ((s.sendCtl p 3 (leBytes 1 w ++ leBytes 1 n ++ leBytes 1 1)).setWidth p w) ∧
      (∀ o, x.width = some (o, n) → exec (.width p m n true) s = .next (s.setWidth p w)) ∧
      ((∀ o, x.width ≠ some (o, n)) → exec (.width p m n true) s = .next s)) ∧
    (stIdentify ≤ st → s.portMode p = 0 → exec (.replayTimeout p) s = .next (s.replay p)) ∧
    (∀ lane, lane < 4 →
      ((s.portLanes p).testBit lane = false → exec (.laneLockLoss p lane) s = .next s) ∧
      ((s.portLanes p).testBit lane = true →
        let before := x.losses.filter fun e => e.1 == lane && decide (s.ms < e.2 + 10000)
        let s1 := ((s.bump C.PORT_LOCK_LOSS_CNT p).fset (laneF lane 0 1) 0 p).modPort p fun x =>
          { x with losses := (x.losses.filter fun e => e.1 != lane) ++ before ++ [(lane, s.ms)] }
        (s.portActive p = false → exec (.laneLockLoss p lane) s = .next s1) ∧
        (s.portActive p = true → s.portMode p ≠ 1 → 2 ≤ before.length →
          exec (.laneLockLoss p lane) s = .next (s1.retireLane p lane))) ∧
      (s.portActive p = true → st ≠ stRetrain → exec (.laneRelock p lane) s =
        .next ((s.modPort p fun x => { x with relock := x.relock.filter (· != lane) }).fset (laneF lane 0 1) 1 p)) ∧
      (s.portActive p = true → x.relock.contains lane = true → exec (.laneRelockTimeout p lane) s =
        .next (s.retireLane p lane)) ∧
      (s.portActive p = true → s.portMode p ≠ 1 → exec (.laneCsrLimit p lane) s =
        .next (if s.flag F.PORT_LANE_CFG_csr_limit p then s.retireLane p lane else s)))

/-- R223-R225, R233: a flit that fails its check or is out of order is discarded and a replay asked for; a sealed port
delivers a span once its tag verifies, has a span that fails replayed, and is held at a second failure; symbols corrected and
codewords lost are counted with every flit. Where the spec leaves it open, this states choices of the model: log 48, 53, 106. -/
def Obligations.FlitAndSealRows : Prop :=
  ∀ (s : State) (p : Nat), p < 26 → s.portFitted p = true →
    let st := s.portState p
    let x := s.port p
    (∀ (f : Flit) csym ucw, stIdentify ≤ st → st ≠ stAbsent → st ≠ stRetired → s.portMode p = 0 →
      let s0 := s.noteFec p csym ucw
      let y := s0.port p
      (flitSound f = false → exec (.flitReceive p f csym ucw) s = .next ((s0.bump C.PORT_CRC_ERR_CNT p).sendIdle p true)) ∧
      (flitSound f = true → bits f.header.toNat 4 12 ≠ y.rxNext → exec (.flitReceive p f csym ucw) s =
        .next (s0.sendIdle p true)) ∧
      (flitSound f = true → bits f.header.toNat 4 12 = y.rxNext → bits f.header.toNat 0 4 = 1 → y.keyRx = [] →
        bits f.header.toNat 28 1 = 0 → bits f.header.toNat 29 1 = 0 → bits f.header.toNat 48 1 = 0 →
        exec (.flitReceive p f csym ucw) s = .next (((s0.setPort p { y with
          rxNext := (y.rxNext + 1) % 4096, rxAny := true }).deliver p f).sendIdle p false))) ∧
    (s.portSealed p = true → s.lower p = false → st = stSeal → 
      exec (.sealKey p true []) s = .next (s.modPort p fun x => { x with ct := [] }) ∧
      ∀ seg, x.ct.length + seg.length < 1568 → exec (.sealKey p false seg) s =
        .next (s.setPort p { x with ct := x.ct ++ seg })) ∧
    (x.keyRx ≠ [] → x.nextRx = none → st = stActive →
      let msg := (x.rxSpan.map fun f => flitBytes f.header f.payload ++ leBytes 8 f.crc.toNat).flatten
      let good := fit 8 (Config.sealTag x.keyRx x.rxSpanNo msg)
      (exec (.sealTag p x.rxSpanNo good) s = .next ((x.rxSpan.foldl (fun s f => s.deliver p f) (s.setPort p { x with
          rxSpan := [], rxHeld := none, rxSpanNo := x.rxSpanNo + 1, rxSync := false, spanFailed := false })).sendIdle p false)) ∧
      (∀ tag, tag ≠ good → x.spanFailed = false → exec (.sealTag p x.rxSpanNo tag) s =
        .next (((s.bump C.PORT_SEAL_FAIL_CNT p).setPort p { x with
          rxSpan := [], rxHeld := none, rxNext := x.rxHeld.getD ((x.rxNext + 4095) % 4096), spanFailed := true }).sendIdle p true)) ∧
      (∀ tag, tag ≠ good → x.spanFailed = true → exec (.sealTag p x.rxSpanNo tag) s =
        .next (((s.bump C.PORT_SEAL_FAIL_CNT p).raisePort E.PORT_seal_fail p).hold p stHeld 0x08 0 0 0))) ∧
    (x.txSpanNo < 2 ^ 24 → exec (.sealRekey p) s = .next s) ∧
    (s.portActive p = true → s.portSealed p = true → s.lower p = true → 2 ^ 24 ≤ x.txSpanNo →
      exec (.sealRekey p) s = .next (((s.sendCtl p 5 (leBytes 8 1)).encapsulate p).2.modPort p fun x =>
        { x with nextRx := some ((s.sendCtl p 5 (leBytes 8 1)).encapsulate p).1 })) ∧
    (∃ u, exec .identitySetSign s = .next u ∧ u.freeCtr ≠ s.freeCtr ∧ u.hbm = s.hbm ∧ u.ctxs = s.ctxs)

/-- R246-R263, R267: the packets of a router's queues, injection, acknowledgements, unreachable pairs and congestion maps. A
packet at the head of its queue is ejected, crosses to the other I/O die, is dropped for want of an entry, or goes to the port its
entry names, where it is sent if the port has room for it whole and it wins the port (R252, R253). Where the spec leaves it open,
this states choices of the model: log 56, 58, 59, 107. -/
def Obligations.RouterRows : Prop :=
  ∀ (s : State) (iod : Nat), dieOk s iod = true →
    let r := s.router iod
    (∀ pos slot idle q, r.queue[pos]? = some q → r.isHead pos q = true →
      let e := s.entryOf iod q
      let x := s.dequeue iod pos
      (255 ≤ q.p.hops → exec (.packetRoute iod pos slot idle) s = .next ((x.bump C.ROUTE_HOP_LIMIT_CNT iod).release q)) ∧
      (q.p.hops < 255 → q.p.dst ≠ 0xFFFF → q.p.esc = true →
        (q.p.dst = s.endpoint iod → exec (.packetRoute iod pos slot idle) s = .next ((x.release q).arrive iod q.p)) ∧
        (q.p.dst ≠ s.endpoint iod → exec (.packetRoute iod pos slot idle) s =
          .next (s.sendOn iod pos q (s.fget F.ROUTE_ID_ring_port iod) (bubble q) slot idle q.p)) ∧
        exec (.escapeDivert iod pos) s = .next s) ∧
      (q.p.hops < 255 → q.p.dst ≠ 0xFFFF → q.p.esc = false →
        (routeValid e = false → q.p.src ≠ s.endpoint iod → exec (.packetRoute iod pos slot idle) s =
          .next ((x.bump C.ROUTE_UNREACH_DROP_CNT iod).release q)) ∧
        (routeValid e = true → routeKind e = 0 → exec (.packetRoute iod pos slot idle) s =
          .next ((x.release q).arrive iod q.p)) ∧
        (routeValid e = true → routeKind e = 2 → s.iodFitted (1 - iod) = true → exec (.packetRoute iod pos slot idle) s =
          .next ((x.release q).enqueue (1 - iod) (Queued.new none q.ch { q.p with hops := q.p.hops + 1 }))) ∧
        (routeValid e = true → routeKind e = 1 → s.portActive (routeA e) = true → routeSpread e = false →
          routeCircuit e = 0 → q.p.circ = false → exec (.packetRoute iod pos slot idle) s =
            .next (s.sendOn iod pos q (routeA e) 0 slot idle { q.p with circ := false, circuit := 0 })) ∧
        (routeValid e = true → routeKind e = 1 → routeCircuit e = 0 → q.p.circ = false →
          (∀ i ∈ s.allowed iod e q.p, s.portRoom i q.p.vc (pktFlits q.p) 0 = false) →
          s.flag F.ROUTE_CFG_esc_en iod = true → q.p.vc ≤ 4 →
          exec (.escapeDivert iod pos) s = .next (s.divert iod pos q (routeA e))))) ∧
    (∀ pos q port slot idle p, s.portRoom port (pktChannel p) (pktFlits p) 0 = true →
      (∀ a, s.wins iod pos port slot idle p = some a → s.sendOn iod pos q port 0 slot idle p =
        ((s.dequeue iod pos).modPort port fun x => { x with arb := a }).sendPkt port { q with p } { p with hops := p.hops + 1 }) ∧
      (s.wins iod pos port slot idle p = none → s.sendOn iod pos q port 0 slot idle p = s)) ∧
    (∀ pos slot idle q, r.queue[pos]? = some q → r.isHead pos q = false →
      exec (.packetRoute iod pos slot idle) s = .next s) ∧
    (r.inject = [] → exec (.packetInject iod) s = .next s) ∧
    (∀ p rest, r.inject = p :: rest → p.dst ≠ 0xFFFF →
      (p.op = opAck → exec (.packetInject iod) s =
        .next ((s.setRouter iod { r with inject := rest }).enqueue iod (Queued.new none p.vc p))) ∧
      (p.op ≠ opAck → (s.txPair iod p.dst).room (pktFlits p) = true →
        let s1 := s.setRouter iod { r with inject := rest, outst := r.outst ++ [p] }
        let pair := s1.txPair iod p.dst
        exec (.packetInject iod) s =
          .next ((s1.setTxPair iod { pair with sent := pair.sent + pktFlits p }).enqueue iod (Queued.new none p.vc p)))) ∧
    (let s1 := s.placeHeld iod
     ∀ pair ch vc src, ((s1.router iod).rx.find? fun p => p.src == src) = some pair →
      (pair.chans.find? fun c => c.vc == vc) = some ch →
      (ch.due = 0 → exec (.ackSend iod src vc) s = .next s1) ∧
      (ch.due ≠ 0 → ∃ p : Pkt, exec (.ackSend iod src vc) s =
          .next ((s1.setRxPair iod (pair.setChan { ch with due := 0 })).modRouter iod fun r => { r with inject := r.inject ++ [p] }) ∧
        p.op = opAck ∧ p.dst = src ∧ p.src = s1.endpoint iod ∧ p.epoch = pair.epoch % 256 ∧
        p.addr = (ch.accepted + 2 ^ 32 - 1) % 2 ^ 32 ∧ p.pairSeq = (ch.placed + 2 ^ 32 - 1) % 2 ^ 32 ∧
        p.aux = (pair.flits + s1.windowFlits iod) % 2 ^ 32)) ∧
    (∀ dst, (r.outst.any fun p => p.dst == dst) = true → exec (.pairUnreachable iod dst) s =
      .next (s.loseRoute iod dst)) ∧
    (r.mapIval ≠ 0 → s.fget F.ROUTE_CMAP_CFG_collector iod = 0xFFFF → ∃ u, exec (.cmapClose iod) s = .next u ∧
      (u.router iod).mapLast = s.cmapBytes iod r.mapIval ∧ (u.router iod).used = [] ∧ (u.router iod).esc = [] ∧
      (u.router iod).poolMin = s.poolFree iod ∧ (u.router iod).mapIval = s.fget F.ROUTE_CMAP_CFG_interval iod ∧
      (u.router iod).queue = r.queue ∧ u.hbm = s.hbm ∧ u.ctxs = s.ctxs) ∧
    (∀ c k n, c < 1024 → (s.ctx c).notices[k]? = some n →
      ((n.writes.all s.remoteDone) = false → exec (.stampNoticeSend c k) s = .next s) ∧
      ((n.writes.all s.remoteDone) = true → exec (.stampNoticeSend c k) s =
        .next (n.peers.foldl (fun s g => (s.post n.iod { Pkt.blank 3 g.sel opNotice with
          flagged := true, ctx := g.rctx, addr := g.rregion + g.slot * 2 ^ 12, seq := n.q % 2 ^ 32 }).1)
          (s.setCtx c { s.ctx c with notices := (s.ctx c).notices.eraseIdx k }))))

/-- R249, R261, R283: every packet of an operation that is addressed to the I/O die arrives there; one of another epoch is
dropped and counted, an ACK too, and so is one received before. Where the spec leaves it open, this states choices of the model:
log 58, 107. -/
def Obligations.PacketRows : Prop :=
  ∀ (s : State) (iod : Nat) (p : Pkt), dieOk s iod = true →
    (p.dst = s.endpoint iod ∨ p.dst = 0xFFFF →
      (p.op = opWrite → exec (.pktWrite iod p) s = .next (s.arrive iod p)) ∧
      (p.op = opReadReq → exec (.readReq iod p) s = .next (s.arrive iod p)) ∧
      (p.op = opReadRsp → exec (.readRsp iod p) s = .next (s.arrive iod p)) ∧
      (p.op = opNotice → exec (.notice iod p) s = .next (s.arrive iod p)) ∧
      (p.op = opAck → exec (.ack iod p) s = .next (s.takeAck iod p)) ∧
      (p.op = opChestWr → exec (.chestWr iod p) s = .next (s.arrive iod p)) ∧
      (p.op = opChestRd → exec (.chestRd iod p) s = .next (s.arrive iod p)) ∧
      (p.op = opCmap → exec (.cmap iod p) s = .next (s.arrive iod p)) ∧
      (p.op = opColl →
        (p.tag % 256 = 0x01 → exec (.collHash iod p) s = .next (s.arrive iod p)) ∧
        (p.tag % 256 = 0x02 → exec (.collGo iod p) s = .next (s.arrive iod p)) ∧
        (p.tag % 256 = 0x03 → exec (.collData iod p) s = .next (s.arrive iod p)) ∧
        (p.tag % 256 = 0x04 → exec (.collResult iod p) s = .next (s.arrive iod p)) ∧
        (p.tag % 256 = 0x05 → exec (.resend iod p) s = .next (s.arrive iod p)) ∧
        (p.tag % 256 = 0x06 → exec (.pull iod p) s = .next (s.arrive iod p)) ∧
        (p.tag % 256 = 0x07 → exec (.done_ iod p) s = .next (s.arrive iod p)) ∧
        (p.tag % 256 = 0x08 → exec (.finish iod p) s = .next (s.arrive iod p)) ∧
        (p.tag % 256 = 0x09 → exec (.collAbort iod p) s = .next (s.arrive iod p)))) ∧
    (p.op = opAck → p.epoch ≠ (s.txPair iod p.src).epoch % 256 → s.arrive iod p = s.bump C.ROUTE_EPOCH_DROP_CNT iod) ∧
    (p.op ≠ opAck → chanKey p < 256 → p.epoch ≠ (s.rxPair iod p.src).epoch % 256 →
      s.arrive iod p = s.bump C.ROUTE_EPOCH_DROP_CNT iod) ∧
    (p.op ≠ opAck → 256 ≤ chanKey p ∨ p.epoch = (s.rxPair iod p.src).epoch % 256 →
      ∀ a, ((s.rxPair iod p.src).chanFor p).accepted = a → 0 < a → a < 2 ^ 31 → p.pairSeq < a →
        s.arrive iod p = s.bump C.ROUTE_DUP_DROP_CNT iod)

/-- R286, R289, R291, R294: a chunk of an engine that holds every contribution passes, and its results go out, or fails its residue
check; a step past its timeout fails with TIMEOUT. Where the spec leaves it open, this states choices of the model: log 44, 45,
108. -/
def Obligations.CollectiveRows : Prop :=
  ∀ (s : State) (c k : Nat) (p : Step), c < 1024 → (s.ctx c).steps[k]? = some p →
    let x := s.ctx c
    let e := x.entryOf p
    let g := x.groupOf p
    (∀ j ok n,
      let iod := (s.engineOf g j).1
      let s0 := s.bumpBy C.COLL_RMEM_CE_CNT (if p.holding.any (fun h => h.1 == j) then n else 0) iod
      (p.st ≠ .run ∨ (p.holding.find? fun h => h.1 == j) = none → exec (.chunkComplete c k j ok n) s = .next (s0.placeHeld iod)) ∧
      (∀ h, p.st = .run → isReduceOp e = true → (p.holding.find? fun h => h.1 == j) = some h →
        let sp := if h.2 then (x.sliceNow p j).getD (0, 0) else chunkSpan e g g.rank j
        ranksLacking (p.held j sp.1 sp.2) g.n (elemBytes e.dtype) sp.2 = [] →
        exec (.chunkComplete c k j false n) s = .next ((s0.residueFail c p j h.2).placeHeld iod) ∧
        (h.2 = false → exec (.chunkComplete c k j true n) s =
          .next (((((s0.sendResults c p j (fixedOrder e g) (chunkSlices e g g.rank j)).modStep c p fun q =>
            { q with finished := q.finished ++ [j], holding := q.holding.filter fun h => h.1 != j
                     slices := q.slices.filter fun z => !((chunkSlices e g g.rank j).any fun b => b.1 == z.addr)
                     order := q.order.filter fun z => !((chunkSlices e g g.rank j).any fun b => b.1 == z.1) }).takeEngines).tryDone
              c p).placeHeld iod)) ∧
        (h.2 = true → exec (.chunkComplete c k j true n) s = .next ((s0.chunkPassed c p j true).placeHeld iod)))) ∧
    (p.st = .hash ∨ p.st = .run → e.timeout ≠ 0 → e.timeout ≤ p.age → exec (.collStepTimeout c k) s =
      .next (s.failStep c p 0x03 (s.awaited x p))) ∧
    (p.st = .hash ∨ p.st = .run → e.timeout = 0 → max 1 (s.fget F.COLL_CFG_timeout) ≤ p.age → exec (.collStepTimeout c k) s =
      .next (s.failStep c p 0x03 (s.awaited x p))) ∧
    (p.age < e.timeout → exec (.collStepTimeout c k) s = .next s)

/-! Registers. -/

/-- A write of the register at `reg` of a page reaches it: the view exists, its link is up, the access is served and the
view may write the register. -/
def Sys2Proof.Claims.Writes (s : State) (view bytes page reg : Nat) : Prop :=
  s.viewOk view = true ∧ s.viewUp view = true ∧ s.access view (page * 4096 + reg) bytes true = .served ∧
    s.viewMayWrite view page reg = true ∧ reg < 4096

/-- R339, R345-R349: a write that is served takes effect, one to a page that shows nothing is lost, and one that is refused
is recorded; a 64-bit register is written once its high half is. Where the spec leaves it open, this states choices of the
model: log 71. -/
def Obligations.RegisterWriteRows : Prop :=
  ∀ (s : State) (view off bytes : Nat) (data : Word), s.viewOk view = true → s.viewUp view = true →
    let page := off / 4096
    let o := off % 4096
    (s.access view off bytes true = .served →
      exec (.registerWrite view off bytes data) s = .next (s.writeAt view off bytes data.toNat)) ∧
    (s.access view off bytes true = .quiet → exec (.registerWrite view off bytes data) s = .next s) ∧
    (∀ e, s.access view off bytes true = .refused e → exec (.registerWrite view off bytes data) s =
      .next ((s.setHeld view page none).refuse view off bytes true e)) ∧
    (∀ d : BitVec 32, s.access view off 4 true = .served → wide page o = true → exec (.splitLowWrite view off d) s =
      .next ((s.setHeld view page none).setHeld view page (some ⟨view, page, o, d.toNat⟩))) ∧
    (∀ (d : BitVec 32) h, s.access view off 4 true = .served → o % 8 = 4 → wide page (o - 4) = true →
      wide page o = false → s.heldHalf view page = some h → h.off = o - 4 → exec (.splitHighWrite view off d) s =
        .next ((s.setHeld view page none).writeReg view off 4 page (o - 4) mask64 (h.val + d.toNat * 2 ^ 32)))

/-- R344, R351, R355, R363, R372, R390, R401, R409, R411, R412, R422, R428: the registers of the control complex that act as
they are written. Where the spec leaves it open, this states choices of the model: log 72. -/
def Obligations.ControlRegisterRows : Prop :=
  ∀ (s : State) (view : Nat) (data : Word),
    let v := data.toNat % 2 ^ 32
    (∀ page, (pageOf page).isSome = true →
      (Claims.Writes s view 4 page 0x10 → exec (.ctrlWrite view (page * 4096 + 0x10) 4 data) s =
        .next ((s.setHeld view page none).writeHeader view page 0x10 v)) ∧
      (Claims.Writes s view 4 page 0x1C → exec (.ctrlWrite view (page * 4096 + 0x1C) 4 data) s =
        .next ((s.setHeld view page none).writeHeader view page 0x1C v))) ∧
    (Claims.Writes s view 4 Page.RSTCTL 0x808 → exec (.flogIdxWrite view (Page.RSTCTL * 4096 + 0x808) 4 data) s =
      .next ((s.setHeld view Page.RSTCTL none).writeFlogIdx view v)) ∧
    (Claims.Writes s view 4 Page.RSTCTL 0x94 → exec (.brokeIdxWrite view (Page.RSTCTL * 4096 + 0x94) 4 data) s =
      .next ((s.setHeld view Page.RSTCTL none).writeBrokeIdx view v)) ∧
    (Claims.Writes s view 4 Page.RSTCTL 0xA8 → v.testBit 31 = true → exec (.dumpValidClear view (Page.RSTCTL * 4096 + 0xA8) 4 data) s =
      .next ((s.setHeld view Page.RSTCTL none).writeDumpValid view mask32 v)) ∧
    (Claims.Writes s view 4 Page.RSTCTL 0x84 →
      let s1 := (s.setHeld view Page.RSTCTL none).writeReset view (Page.RSTCTL * 4096 + 0x84) 4 v
      (v % 4 = 1 → exec (.cdReset view (Page.RSTCTL * 4096 + 0x84) 4 data) s = .next s1) ∧
      (v.testBit 1 = true → exec (.pkgRecovery view (Page.RSTCTL * 4096 + 0x84) 4 data) s = .next s1) ∧
      (v.testBit 2 = true → exec (.dumpRequest view (Page.RSTCTL * 4096 + 0x84) 4 data) s = .next s1)) ∧
    (Claims.Writes s view 4 Page.RSTCTL 0x8C →
      let s1 := s.setHeld view Page.RSTCTL none
      v % 2 ^ 14 < 12288 →
      (bits v 16 2 = 1 → exec (.tileFenceRequest view (Page.RSTCTL * 4096 + 0x8C) 4 data) s = .next (s1.askFence view (Page.RSTCTL * 4096 + 0x8C) 4 (v % 2 ^ 14))) ∧
      (bits v 16 2 = 2 → exec (.tileReturn view (Page.RSTCTL * 4096 + 0x8C) 4 data) s = .next (s1.askReturn view (Page.RSTCTL * 4096 + 0x8C) 4 (v % 2 ^ 14)))) ∧
    (Claims.Writes s view 4 Page.CLKCTL 0x84 → exec (.clkctlSrcWrite view (Page.CLKCTL * 4096 + 0x84) 4 data) s =
      .next ((s.setHeld view Page.CLKCTL none).writeSrc view 4 v)) ∧
    (Claims.Writes s view 8 Page.CLKCTL 0x90 → exec (.clkctlEnWrite view (Page.CLKCTL * 4096 + 0x90) 8 data) s =
      .next ((s.setHeld view Page.CLKCTL none).writeEnables view (Page.CLKCTL * 4096 + 0x90) 8 mask64 data.toNat)) ∧
    (∀ d, d < 16 → Claims.Writes s view 4 Page.CALENDER (0x100 + 4 * d) → s.mayLimit view d = false →
      exec (.calenderDlimWrite view (Page.CALENDER * 4096 + (0x100 + 4 * d)) 4 data) s =
        .next ((s.setHeld view Page.CALENDER none).regFault view (Page.CALENDER * 4096 + (0x100 + 4 * d)) 4 true 0x08)) ∧
    (∀ d, d < 16 → Claims.Writes s view 4 Page.CALENDER (0x100 + 4 * d) → s.mayLimit view d = true →
      exec (.calenderDlimWrite view (Page.CALENDER * 4096 + (0x100 + 4 * d)) 4 data) s =
        .next ((s.setHeld view Page.CALENDER none).writePlain view Page.CALENDER (0x100 + 4 * d) mask32 v)) ∧
    (∀ (t : State) (w : Nat), view = 20 → t.writeReset view (Page.RSTCTL * 4096 + 0x84) 4 (8 * w) = t)

/-- R190, R236, R241, R319, R476, R488: the registers of links, deckles, ports and stored operations that act as they are
written. Where the spec leaves it open, this states choices of the model: log 17, 69. -/
def Obligations.UnitRegisterRows : Prop :=
  ∀ (s : State) (view : Nat) (data : Word),
    let v := data.toNat % 2 ^ 32
    (Claims.Writes s view 8 Page.CXLP 0x98 → exec (.cxlpAqWrite view (Page.CXLP * 4096 + 0x98) 8 data) s =
      .next ((s.setHeld view Page.CXLP none).writeCxlpAq view mask64 data.toNat)) ∧
    (Claims.Writes s view 8 Page.DECKLE 0xA0 →
      let s1 := (s.setHeld view Page.DECKLE none).writeDeckleAq view mask64 data.toNat
      exec (.deckleAqWrite view (Page.DECKLE * 4096 + 0xA0) 8 data) s = .next s1 ∧
      (data.getLsbD 52 = true → exec (.deckleAqReset view (Page.DECKLE * 4096 + 0xA0) 8 data) s = .next s1)) ∧
    (Claims.Writes s view 8 Page.HEADBOX 0x98 → exec (.headboxJrnlBaseWrite view (Page.HEADBOX * 4096 + 0x98) 8 data) s =
      .next ((s.setHeld view Page.HEADBOX none).writeJrnlBase view (Page.HEADBOX * 4096 + 0x98) 8 mask64 data.toNat)) ∧
    (Claims.Writes s view 4 Page.HEADBOX 0xA0 → exec (.headboxJrnlCfgWrite view (Page.HEADBOX * 4096 + 0xA0) 4 data) s =
      .next ((s.setHeld view Page.HEADBOX none).writeJrnlCfg view (Page.HEADBOX * 4096 + 0xA0) 4 v)) ∧
    (∀ p, p < 26 →
      let page := Page.PORT + p
      let s1 := s.setHeld view page none
      (Claims.Writes s view 4 page 0x80 → exec (.portEnableWrite view (page * 4096 + 0x80) 4 data) s =
        .next (s1.writePortCfg p mask32 v)) ∧
      (Claims.Writes s view 4 page 0x88 → v.testBit 0 = true → exec (.portRetrain view (page * 4096 + 0x88) 4 data) s =
        .next (s1.writePortCtrl view (page * 4096 + 0x88) 4 p v)) ∧
      (Claims.Writes s view 4 page 0xAC →
        (v.testBit 21 = true → exec (.mdioRead view (page * 4096 + 0xAC) 4 data) s = .next (s1.writeMdio p mask32 v)) ∧
        (bits v 21 2 = 2 → exec (.mdioWrite view (page * 4096 + 0xAC) 4 data) s = .next (s1.writeMdio p mask32 v)) ∧
        (bits v 21 2 = 0 → exec (.mdioAddress view (page * 4096 + 0xAC) 4 data) s = .next (s1.writeMdio p mask32 v)))) ∧
    (Claims.Writes s view 4 Page.NVM 0x100 → exec (.measIdxWrite view (Page.NVM * 4096 + 0x100) 4 data) s =
      .next ((s.setHeld view Page.NVM none).writeMeasIdx view v)) ∧
    (Claims.Writes s view 4 Page.NVM 0x90 → exec (.nvmProfileSelWrite view (Page.NVM * 4096 + 0x90) 4 data) s =
      .next ((s.setHeld view Page.NVM none).selectProfile (v % 4))) ∧
    (Claims.Writes s view 4 Page.NVM 0x84 →
      let off := Page.NVM * 4096 + 0x84
      let s1 := s.setHeld view Page.NVM none
      let act (code : Nat) : State := s1.activityOp view off 4 code (bits v 4 5)
      s.flag F.NVM_STATE_busy = false →
      (v % 16 = 4 → exec (.nvmBegin view off 4 data) s = .next (s1.nvmBegin view off 4)) ∧
      (v % 16 = 13 → exec (.attest view off 4 data) s = .next (s1.startOp 13)) ∧
      (s1.activityStatus view = none →
        (v % 16 = 1 → exec (.nvmErase view off 4 data) s = .next (act 1)) ∧
        (v % 16 = 2 → exec (.nvmProgram view off 4 data) s = .next (act 2)) ∧
        (v % 16 = 3 → exec (.nvmRead view off 4 data) s = .next (act 3)) ∧
        (v % 16 = 5 → exec (.nvmVerify view off 4 data) s = .next (act 5)) ∧
        (v % 16 = 6 → exec (.nvmSwitch view off 4 data) s = .next (act 6)) ∧
        (v % 16 = 7 → exec (.nextBoot view off 4 data) s = .next (act 7)) ∧
        (v % 16 = 8 → exec (.nvmEnd view off 4 data) s = .next (act 8)) ∧
        (v % 16 = 9 → exec (.cfgCommit view off 4 data) s = .next (act 9)) ∧
        (v % 16 = 10 → exec (.keyLoad view off 4 data) s = .next (act 10)) ∧
        (v % 16 = 11 → exec (.enrol view off 4 data) s = .next (act 11)) ∧
        (v % 16 = 12 → exec (.nvmRelease view off 4 data) s = .next (act 12))))

/-- R12, R346, R349, R401, R428, R476: reads answer the register's value; the low half of a 64-bit read holds the high half for
the view; and three registers change as they are read. Where the spec leaves it open, this states choices of the model: log
71. -/
def Obligations.RegisterReadRows : Prop :=
  ∀ (s : State) (view off : Nat), s.viewOk view = true → s.viewUp view = true →
    let page := off / 4096
    let o := off % 4096
    (s.access view off 4 false = .served → wide page o = true →
      let v := s.readReg view page o
      exec (.splitLowRead view off 4) s = .next (((s.readEffect view page o).setLatch view page
        (some ⟨view, page, o, v / 2 ^ 32⟩)).emit (.regData view off (BitVec.ofNat 64 (v % 2 ^ 32))))) ∧
    (∀ h, s.access view off 4 false = .served → o % 8 = 4 → wide page (o - 4) = true → wide page o = false →
      s.latch view page = some h → h.off = o - 4 → exec (.splitHighRead view off 4) s =
        .next ((s.setLatch view page none).emit (.regData view off (BitVec.ofNat 64 h.val)))) ∧
    (∀ bytes e, s.access view off bytes false = .refused e → exec (.registerReadRefused view off bytes) s =
      .next ((s.refuse view off bytes false e).emit (.regAbort view off e))) ∧
    (off = Page.RSTCTL * 4096 + 0x848 → s.access view off 8 false = .served → viewDeckle view = none →
      let i := s.fget F.RSTCTL_DUMP_IDX_word 0 (bank view)
      exec (.dumpDataRead view off 8) s = .next ((s.fset F.RSTCTL_DUMP_IDX_word (i + 1) 0 (bank view)).emit
        (.regData view off (BitVec.ofNat 64 (wordOf s.rst.dump i))))) ∧
    (off = Page.NVM * 4096 + 0x168 → s.access view off 8 false = .served →
      let i := s.fget F.NVM_RPT_IDX_word 0 (bank view)
      exec (.rptDataRead view off 8) s = .next ((s.fset F.NVM_RPT_IDX_word (i + 1) 0 (bank view)).emit
        (.regData view off (BitVec.ofNat 64 (wordOf s.nvm.report i))))) ∧
    (off = Page.CALENDER * 4096 + 0x8C → s.access view off 4 false = .served → ∃ v, v.toNat = s.readReg view page o % 2 ^ 32 ∧
      let s1 := (s.fset F.CALENDER_PEAK_peak_w 0).emit (.regData view off v)
      exec (.calenderPeakRead view off 4 false) s = .next s1 ∧
      exec (.calenderPeakRead view off 4 true) s =
        .next (s1.fset F.CALENDER_PEAK_peak_w (min 0xFFFF (s.cal.buckets.headD 0))))


/-! The management port, the control units and stored operations. -/

/-- A message of the board controller that is accepted: the module is out of BOOT, a control unit runs, the header is sound and no
repeat. -/
def Sys2Proof.Claims.Msg (s : State) (h : DHdr) (code : Nat) : Prop :=
  s.bring.powered = true ∧ s.answers = true ∧ s.controlRuns = true ∧ s.repeated h = false ∧ duntusHeadOk h = true ∧ h.code = code

/-- The state with the seq of the message kept for its sender (R444). -/
def Sys2Proof.Claims.kept (s : State) (h : DHdr) : State :=
  { s with mgt := { s.mgt with rxSeq := s.mgt.rxSeq.set (fun _ => none) h.src (some (h.seq % 2 ^ 16)) } }

/-- R431, R443-R445, R452, R496: before BOOT ends a message is INVALID, a repeat is discarded and counted, a malformed one is
counted and INVALID, and one that needs a session without one is AUTH_FAIL, with no other effect; while no unit runs, messages wait.
Where the spec leaves it open, this states choices of the model: log 85, 112. -/
def Obligations.DuntusRefusals : Prop :=
  ∀ (s : State) (h : DHdr), s.bring.powered = true →
    (s.answers = false → exec (.statusGet h) s = .next (s.respond h 0x0B) ∧
      exec (.poweroffNotice h) s = .next (s.respond h 0x0B)) ∧
    (s.answers = true → s.controlRuns = true → s.repeated h = true →
      exec (.statusGet h) s = .next (s.bump C.MGT_MSG_ERR_CNT) ∧
      ∀ cap clr, exec (.capSet h cap clr) s = .next (s.bump C.MGT_MSG_ERR_CNT)) ∧
    (s.answers = true → s.controlRuns = true → s.repeated h = false →
      (duntusHeadOk h = false → ∀ n, exec (.malformedDuntusMessage h n) s =
        .next ((s.bump C.MGT_MSG_ERR_CNT).respond h 0x0B)) ∧
      (∀ n, duntusHeadOk h = true → h.len ≠ n → exec (.malformedDuntusMessage h n) s =
        .next ((s.bump C.MGT_MSG_ERR_CNT).respond h 0x0B))) ∧
    (s.answers = true → s.controlRuns = false →
      let wait (i : Waiting) : State := { s with mgt := { s.mgt with inbox := s.mgt.inbox ++ [(i, s.beatCount, s.ms)] } }
      exec (.statusGet h) s = .next (wait (.statusGet h)) ∧
      exec (.poweroffNotice h) s = .next (wait (.poweroffNotice h)) ∧
      ∀ k, exec (.resetReq h k) s = .next (wait (.resetReq h k))) ∧
    (s.mgtSession = false →
      let out := Host.Outcome.next (((Claims.kept s h).respond h 0x08))
      (Claims.Msg s h 0x03 → exec (.mgtSessionClose h) s = out) ∧
      (Claims.Msg s h 0x10 → ∀ off n, exec (.regRead h off n) s = out) ∧
      (Claims.Msg s h 0x11 → ∀ off n d, exec (.regWrite h off n d) s = out) ∧
      (Claims.Msg s h 0x20 → ∀ cap clr, exec (.capSet h cap clr) s = out) ∧
      (Claims.Msg s h 0x31 → ∀ q, exec (.planWithdraw h q) s = out) ∧
      (Claims.Msg s h 0x40 → ∀ k, exec (.resetReq h k) s = out) ∧
      (Claims.Msg s h 0x41 → exec (.dumpReq h) s = out) ∧
      (Claims.Msg s h 0x42 → ∀ w n, exec (.dumpRead h w n) s = out))

/-- R315, R316, R435, R445, R448-R450: the messages that are accepted. A session opens with the tag of a nonce issued in the last
second and not used yet. Where the spec leaves it open, this states choices of the model: log 85, 109. -/
def Obligations.DuntusRows : Prop :=
  ∀ (s : State) (h : DHdr),
    let m := Claims.kept s h
    (∀ nonce, Claims.Msg s h 0x01 → exec (.mgtSessionNonce h nonce) s =
      .next ((m.setSession 20 { s.session 20 with
        nonces := (nonce, s.ms) :: (s.session 20).nonces.filter fun n => decide (s.ms ≤ n.2 + 1000) }).respond h 0 nonce)) ∧
    (∀ tag, Claims.Msg s h 0x02 →
      ((s.session 20).opened = true → exec (.mgtSessionOpen h tag) s = .next (m.respond h 0x07)) ∧
      ((s.session 20).opened = false →
        (s.ms < (s.session 20).barred → exec (.mgtSessionOpen h tag) s = .next ((m.authFail 20).respond h 0x08)) ∧
        (∀ key, (s.session 20).barred ≤ s.ms → s.sessionKey 20 = some key →
          ((∀ n t, (n, t) ∈ (s.session 20).nonces → s.ms ≤ t + 1000 → tag ≠ sessionTag key n 0xFF 0xFE) →
            exec (.mgtSessionOpen h tag) s = .next ((m.authFail 20).respond h 0x08)) ∧
          (∀ n t, (s.session 20).nonces = [(n, t)] → s.ms ≤ t + 1000 → tag = sessionTag key n 0xFF 0xFE →
            let s1 := m.setSession 20 { s.session 20 with opened := true, nonces := [], used := n, loads := 0 }
            exec (.mgtSessionOpen h tag) s = .next (({ s1 with mgt := { s1.mgt with opener := h.src } }).respond h 0))))) ∧
    (Claims.Msg s h 0x04 → ∃ body, exec (.statusGet h) s = .next (m.respond h 0 body) ∧ body.length = 20) ∧
    (Claims.Msg s h 0x05 → exec (.liveness h false false) s =
      .next (({ m with ctl := { m.ctl with live := 0 } }).checkPaths)) ∧
    (s.mgtSession = true →
      (Claims.Msg s h 0x03 → exec (.mgtSessionClose h) s = .next ((m.endSession 20).respond h 0)) ∧
      (∀ off n v, Claims.Msg s h 0x10 → (m.regRead 20 (off % 2 ^ 25) n).1 = .inl v → exec (.regRead h off n) s =
        .next ((m.regRead 20 (off % 2 ^ 25) n).2.respond h 0 (leBytes n v))) ∧
      (∀ off n d, Claims.Msg s h 0x11 → exec (.regWrite h off n d) s =
        .next ((m.regWrite 20 (off % 2 ^ 25) n d.toNat).2.respond h ((m.regWrite 20 (off % 2 ^ 25) n d.toNat).1.getD 0))) ∧
      (∀ cap, Claims.Msg s h 0x20 → exec (.capSet h cap false) s =
        .next (if cap < 600 ∨ 3400 < cap then m.respond h 0x0B
          else ((m.fset F.CALENDER_CAP_rack_w cap).updateCap).respond h 0)) ∧
      (∀ pl o t n, Claims.Msg s h 0x30 → exec (.planDeliver h o t n false pl) s = .next { m with mgt := { m.mgt with
        plan := match (if o = 0 then some (0, t) else s.mgt.plan) with
          | some (a, b) => if a = o ∧ b = t ∧ o + n ≤ t then some (o + n, t) else none
          | none => none } }) ∧
      (∀ pl n, Claims.Msg s h 0x30 →
        let m1 := { m with mgt := { m.mgt with plan := none } }
        (m1.planStatus pl = 0 → exec (.planDeliver h 0 n n true pl) s = .next ((m1.putPlan (some pl)).respond h 0)) ∧
        (m1.planStatus pl ≠ 0 → exec (.planDeliver h 0 n n true pl) s = .next (m1.respond h (m1.planStatus pl)))) ∧
      (∀ pl, s.plan = some pl → Claims.Msg s h 0x31 →
        exec (.planWithdraw h pl.planSeq) s = .next ((m.putPlan none).respond h 0)) ∧
      (Claims.Msg s h 0x40 → s.tierBarred = false → s.conflict 7 0 = none → exec (.resetReq h 1) s =
        .next ((m.startPkg 9 0 (3, 0)).respond h 0)) ∧
      (Claims.Msg s h 0x41 → exec (.dumpReq h) s = .next (if (m.askDump (3, 0)).2 then (m.askDump (3, 0)).1.respond h 0
        else (m.askDump (3, 0)).1.lockBusy.respond h 0x07)) ∧
      (∀ w n, Claims.Msg s h 0x42 → n ≤ 4096 → exec (.dumpRead h w n) s =
        .next (m.respond h 0 (fit n (s.rst.dump.drop (8 * w)))))) ∧
    (Claims.Msg s h 0x21 → ∃ body, exec (.powerReportGet h) s =
      .next ((m.fset F.CALENDER_PEAK_peak_w 0).respond h 0 body) ∧ body.length = 13) ∧
    (Claims.Msg s h 0x24 →
      (s.flag F.MGT_OFF_pending = true → exec (.poweroffNotice h) s = .next (m.respond h 0)) ∧
      (s.flag F.MGT_OFF_pending = false →
        let s1 := (m.fset F.MGT_OFF_pending 1).fset F.MGT_OFF_remaining_ms (1000 * m.fget F.MGT_OFF_grace_s)
        exec (.poweroffNotice h) s = .next ((((({ s1 with mgt := { s1.mgt with grace := true } } : State).raiseTo
          E.MGT_poweroff_notice []).respond h 0)).tryPoweroff)))

/-- R391, R442, R450: MCTP control messages and I3C common command codes; the grace period and the slack report. Where the
spec leaves it open, this states choices of the model: log 12, 81, 86, 89. -/
def Obligations.ManagementPortRows : Prop :=
  ∀ (s : State), s.bring.powered = true →
    (∀ eid src, 0 < eid → eid < 0xFF → exec (.setEndpointId eid src) s =
      .next ((({ s with mgt := { s.mgt with assigner := src, rxSeq := s.mgt.rxSeq.set (fun _ => none) src none } }).fset F.MGT_I3C_eid eid).emit
        (.mctp 0x01 [0, 0, BitVec.ofNat 8 eid, 0]))) ∧
    exec .getEndpointId s = .next (s.emit (.mctp 0x02 [0, BitVec.ofNat 8 (s.fget F.MGT_I3C_eid), 0, 0])) ∧
    exec .getMctpVersionSupport s = .next (s.emit (.mctp 0x04 [0, 1, 0xF1, 0xF3, 0xFF, 0])) ∧
    exec .getMessageTypeSupport s = .next (s.emit (.mctp 0x05 [0, 2, 0x00, 0x7E])) ∧
    (∃ b, exec .getVendorMessageSupport s = .next (s.emit (.mctp 0x06 b)) ∧ b.length = 9) ∧
    (∀ ev : Byte, exec (.enec ev) s = .next { s with mgt := { s.mgt with events := s.mgt.events ||| ev.toNat } } ∧
      exec (.disec ev) s = .next { s with mgt := { s.mgt with events := s.mgt.events &&& (255 - ev.toNat) } }) ∧
    exec .rstdaa s = .next ((s.fset F.MGT_I3C_addr_valid 0).fset F.MGT_I3C_dyn_addr 0) ∧
    (∀ a, exec (.entdaa a) s = .next (if s.flag F.MGT_I3C_addr_valid then s
      else (s.fset F.MGT_I3C_addr_valid 1).fset F.MGT_I3C_dyn_addr a)) ∧
    (∀ n, exec (.setmwl n) s = .next { s with mgt := { s.mgt with mwl := n % 2 ^ 16 } } ∧
      exec (.setmrl n) s = .next { s with mgt := { s.mgt with mrl := n % 2 ^ 16 } }) ∧
    exec .getpid s = .next (s.emit (.mctp 0x8D (leBytes 6 Config.provisionedId).reverse)) ∧
    exec .getbcr s = .next (s.emit (.mctp 0x8E [0x06])) ∧ exec .getdcr s = .next (s.emit (.mctp 0x8F [0xCC])) ∧
    (∃ b, exec .getstatus s = .next ({ s with freeCtr := s.freeCtr + 1, out := s.out ++ [.mctp 0x90 b] }) ∧ b.length = 2) ∧
    exec .getmwl s = .next (s.emit (.mctp 0x8B (leBytes 2 s.mgt.mwl).reverse)) ∧
    exec .getmrl s = .next (s.emit (.mctp 0x8C (leBytes 2 s.mgt.mrl).reverse)) ∧
    (s.mgt.grace = true → s.flag F.MGT_OFF_ready = false → s.fget F.MGT_OFF_remaining_ms = 0 → s.controlRuns = true →
      exec .poweroffGraceEnd s = .next (s.sendPoweroffReady true)) ∧
    (s.mgt.grace = false → exec .poweroffGraceEnd s = .next s) ∧
    (s.cal.slackAge < s.fget F.CALENDER_SLACK_CFG_interval → exec .slackReport s = .next s) ∧
    (0 < s.fget F.CALENDER_SLACK_CFG_interval → s.fget F.CALENDER_SLACK_CFG_interval ≤ s.cal.slackAge →
      ∃ u, exec .slackReport s = .next u ∧ u.cal.slackN = 0 ∧ u.cal.slackAge = 0 ∧ u.ctxs = s.ctxs ∧ u.hbm = s.hbm)

/-- R433-R440, R466, R471, R472, R486: state copies and heartbeats of the control units, boots, and the end of an update.
Where the spec leaves it open, this states choices of the model: log 82, 83, 84. -/
def Obligations.ControlUnitRows : Prop :=
  ∀ (s : State) (u : Nat), u < 2 →
    (∀ b : Word, s.unit s.standby = cuStandby →
      (b.toNat + 1 = s.beatCount → exec (.stateCopy b true) s =
        .next (({ s with ctl := { s.ctl with copied := b.toNat } }).fset F.MGT_CU_couch_ok 1)) ∧
      exec (.stateCopy b false) s = .next s.copyFails) ∧
    (∀ b ok, s.unit s.standby ≠ cuStandby → exec (.stateCopy b ok) s = .next s) ∧
    exec .copyFailure s = .next s.copyFails ∧
    (s.unit s.standby = cuSync → s.ctl.quiet = [] → s.ctl.halted = [] →
      let s1 := (s.setUnit s.standby cuStandby).fset F.MGT_CU_couch_ok 1
      s1.nvm.phase = .none → exec .syncComplete s =
        .next { s1 with ctl := { s1.ctl with full := true, copied := s1.beatCount - 1, stand := 0 } }) ∧
    (s.pinUnknown = false → exec (.pinPathSilent u) s =
      .next ((s.setAges u (s.ondieAge u) (max 32 (s.pinAge u))).checkPaths)) ∧
    (s.ctl.isle ≠ some (u, 0) → exec (.islandReset u) s = .next s) ∧
    (s.ctl.isle = some (u, 0) → s.unit u ≠ cuFailed → u ≠ s.standby → ∃ t, exec (.islandReset u) s = .next t ∧
      t.ctl.isle = none ∧ t.ctl.full = s.ctl.full ∧ t.hbm = s.hbm ∧ t.ctxs = s.ctxs) ∧
    (∀ b, s.inFirstBoot u = true → s.unit u ≠ cuFailed →
      (b.factoryOk = false → exec (.unitBootDone u b) s = .next (s.failUp 1 0x08)) ∧
      (b.factoryOk = true → b.pufOk = false → exec (.unitBootDone u b) s = .next (s.failUp 2 0x08))) ∧
    (∀ b, s.inFirstBoot u = false → s.unit u = cuBoot →
      let s1 := (s.loadRegion u (s.unitRegion u) b).setUnit u cuSync
      exec (.unitBootDone u b) s = .next (({ s1 with ctl := { s1.ctl with full := false } }).setAges u 0 0)) ∧
    (s.inFirstBoot u = false → s.unit u = cuBoot → exec (.bootTimeout u) s = .next (s.unitFails u cuBoot)) ∧
    (s.nvm.op = none → ∀ f, exec (.nvmOpDone f) s = .next s) ∧
    (∀ op, s.nvm.op = some op → op.code ≠ 1 → op.code ≠ 2 → op.code < 10 →
      let s1 := ({ s with nvm := { s.nvm with op := none } }).fset F.NVM_STATE_busy 0
      ∀ f, exec (.nvmOpDone f) s = .next ((s1.endOp op).2.nvmResult (s1.endOp op).1)) ∧
    (s.nvm.phase = .second → s.nvm.wait = 0 → s.unit s.standby ≠ cuUpdating →
      s.unitRegion s.standby ≠ s.unitRegion s.active → exec .updateSecondUnit s =
        .next ((s.setUnitRegion s.standby (s.unitRegion s.active)).setUnit s.standby cuUpdating)) ∧
    (s.nvm.phase = .first → exec .updateAbandon s = .next ((s.abandonSwitch 0x03).endActivity)) ∧
    (s.nvm.phase ≠ .first → exec .updateAbandon s = .next s)

/-! What every step keeps, memory, frames and the rules of bits. -/

/-- Every map of the state is canonical, and at most 4,096 commands are in flight. -/
def Sys2Proof.Claims.Inv (s : State) : Prop := Canon s ∧ s.cmds.length ≤ 4096

/-- At reset nothing waits, nothing is in flight, and every map is canonical. -/
def Obligations.ResetInvariant : Prop :=
  Claims.Inv State.reset ∧ State.reset.cmds = [] ∧ State.reset.pending = []

/-- Whatever the state and the command at the front of its queue, a step from canonical maps answers canonical maps: equal
memories stay equal data; and it keeps the limit on commands in flight. -/
def Obligations.StepKeepsInvariant : Prop :=
  ∀ s t : State, Claims.Inv s → step s = .next t → Claims.Inv t

/-- A step takes one command from the queue and none but it, its output goes on from what was sent before and its free values
are new ones; the one thing that stops a step is a unit that does not exist. -/
def Obligations.StepTakesOneCommand : Prop :=
  ∀ (s : State) (c : Instr) (r : List Instr), s.pending = c :: r →
    (∃ t, step s = .next t ∧ t.pending = r ∧ s.out <+: t.out ∧ s.freeCtr ≤ t.freeCtr) ∨ step s = .fault .noSuchUnit

/-- R322, R323: at most 4,096 commands are in flight, from the fetch that adds one to the completion that takes it away. A
descriptor that would exceed this stays in its ring unfetched, not refused, and each hold is counted once; a function's admin queue is
fetched from before its others. The order within the rotations is the model's (log 109). -/
def Obligations.InFlightLimit : Prop :=
  (∀ s t : State, s.cmds.length ≤ 4096 → step s = .next t → t.cmds.length ≤ 4096) ∧
  (∀ (s : State) (fn queue : Nat) (desc : List Byte), s.doorbellOk fn queue = true →
    ∀ turn, s.nextFetch = some (fn, queue, turn) →
      (s.fetchable fn 0 = true → queue = 0) ∧
      (s.cmds.length < 4096 → commandOk ⟨fn, queue, desc, (s.session fn).opened, false, false, 0, [], 0⟩ = true →
        ∃ u, exec (.commandFetch fn queue desc) s = .next u ∧ u.cmds.length = s.cmds.length + 1 ∧
          (u.queue fn queue).fetched = (s.queue fn queue).fetched + 1) ∧
      (4096 ≤ s.cmds.length → (s.queue fn queue).stalled = false → ∃ u, exec (.commandFetch fn queue desc) s = .next u ∧
        u.cmds = s.cmds ∧ (u.queue fn queue).fetched = (s.queue fn queue).fetched ∧ (u.queue fn queue).stalled = true ∧
        u.count C.DECKLE_INFLIGHT_STALL_CNT = min (s.count C.DECKLE_INFLIGHT_STALL_CNT + 1) (2 ^ 48 - 1)) ∧
      (4096 ≤ s.cmds.length → (s.queue fn queue).stalled = true → exec (.commandFetch fn queue desc) s = .next s)) ∧
  ∀ (s : State) (k : Cmd) (status detail result : Nat), k ∈ s.cmds →
    (s.close k status detail result).cmds.length + 1 = s.cmds.length

/-- R202: a local address maps to its entry, channel and channel offset as the rule computes them; the mapping is
one-to-one; consecutive granules of 4 KiB rotate through the entries, and the sixteen 256-byte units of a granule lie on
sixteen channels. -/
def Obligations.LocalAddressMap : Prop :=
  ∀ (s : State) (d : Nat), s.entries d ≠ [] →
    (∀ a, s.localKey d a =
      let n := (s.entries d).length
      let g := a / 2 ^ 12
      let entry := (s.entries d).getD (g % n) (0, 0)
      let x := g / n * 2 ^ 12 + a % 2 ^ 12
      let u := x / 2 ^ 8
      if (s.deckle d).half then
        hbmKey entry.1 (16 * entry.2 + ((u % 16) ^^^ (u / 16 % 16) ^^^ (u / 256 % 16))) (u / 16 * 256 + x % 256)
      else hbmKey entry.1 ((u % 32) ^^^ (u / 32 % 32) ^^^ (u / 1024 % 32)) (u / 32 * 256 + x % 256)) ∧
    (∀ a b, a < s.localSize d → b < s.localSize d → s.localKey d a = s.localKey d b → a = b) ∧
    ∀ g i j, i < 16 → j < 16 → g * 4096 < s.localSize d → i ≠ j →
      s.localKey d (g * 4096 + 256 * i) / 2 ^ 32 ≠ s.localKey d (g * 4096 + 256 * j) / 2 ^ 32

/-- R205: a write places its bytes and changes no other byte of the deckle's HBM. A unit of 64 bytes that it covers whole loses
its poison; any other keeps what it had, and a range that takes in a poisoned unit cannot be read. -/
def Obligations.HomeWrites : Prop :=
  ∀ (s : State) (d a : Nat) (data : List Byte), a + data.length ≤ s.localSize d →
    let t := s.localWrite d a data
    t.localRead d a data.length = data ∧
    (∀ b, b < s.localSize d → b < a ∨ a + data.length ≤ b →
      t.hbm.get (fun _ => 0) (s.localKey d b) = s.hbm.get (fun _ => 0) (s.localKey d b)) ∧
    (∀ u, 64 * u + 64 ≤ s.localSize d → a ≤ 64 * u → 64 * u + 64 ≤ a + data.length → t.isPoisoned d (64 * u) = false) ∧
    (∀ u, 64 * u + 64 ≤ s.localSize d → 64 * u < a ∨ a + data.length < 64 * u + 64 →
      t.isPoisoned d (64 * u) = s.isPoisoned d (64 * u)) ∧
    ∀ u b n, t.isPoisoned d (64 * u) = true → b < 64 * u + 64 → 64 * u < b + n → 0 < n → t.localBad d b n ≠ none

/-- R202, R308, R310, R312: a deckle cannot reach another deckle's memory. Where no half stack belongs to both, neither a host
access to deckle `d` nor the zeroing of what it owns changes a byte at any local address of deckle `e`. -/
def Obligations.DeckleIsolation : Prop :=
  ∀ (s : State) (d e : Nat),
    (∀ k, k < 24 → s.ownsHalf d (k / 2) (k % 2) = true → s.ownsHalf e (k / 2) (k % 2) = false) →
    (∀ x, x = d ∨ x = e → (s.deckle x).half = false → ∀ i, i < 12 → s.ownsHalf x i 0 = s.ownsHalf x i 1) →
    ∀ b, b < s.localSize e →
      let byte (t : State) : Byte := t.hbm.get (fun _ => 0) (s.localKey e b)
      (∀ addr data t, exec (.hostMemWrite d addr data) s = .next t → byte t = byte s) ∧
      (∀ addr n errs t, exec (.hostMemRead d addr n errs) s = .next t → byte t = byte s) ∧ byte (s.zeroDeckle d) = byte s

/-- R86: the frame of the arithmetic rows. Nothing outside the tile changes; in the tile only its program counter, its being
blocked and its general registers; and of those only rd. -/
def Obligations.SequencerFrame : Prop :=
  ∀ (s t : State) (tile : Nat),
    ∀ c ∈ [Instr.seqAdd tile, .seqSub tile, .seqMul tile, .and_ tile, .or_ tile, .xor_ tile, .shl tile, .shr tile, .sra tile,
      .min_ tile, .max_ tile, .slt tile, .sltu tile, .seq tile, .addi tile, .andi tile, .ori tile, .xori tile, .shli tile,
      .shri tile, .srai tile, .slti tile, .lil tile, .lih tile],
    exec c s = .next t →
      { t with tiles := s.tiles } = s ∧ (∀ n, n ≠ tile → t.tile n = s.tile n) ∧
      { t.tile tile with g := (s.tile tile).g, pc := (s.tile tile).pc, blocked := (s.tile tile).blocked } = s.tile tile ∧
      ∀ r i, s.nextInstr tile = some (r, i) → ∀ k, k ≠ i.rd → (t.tile tile).gr k = (s.tile tile).gr k

/-- R61, R86, R121, R122: the frame of the loads and stores, whether or not they fault, and whatever error the tile's store has. STS
changes no byte of scratchpad outside the bytes it stores at the address it computes, LDS none; but for the units of engine writes not
yet in place, which an access may find placed. LDG and STG, whose store goes to the tile's L1, change none. None changes HBM, but
where an error fences the tile, whose virtual tile's journal entries are then written (R189). -/
def Obligations.StoreFrame : Prop :=
  ∀ (s t : State) (tile : Nat) (ecc : StoreEcc),
    let base := tile * spadBytes
    let placed (k : Nat) : Prop := ∃ u ∈ (s.tile tile).landing, base + u.2.1 ≤ k ∧ k < base + u.2.1 + u.2.2.length
    (∀ c ∈ [Instr.sts tile ecc, .lds tile ecc, .ldg tile ecc, .stg tile ecc], exec c s = .next t →
      (t.tile tile).state ≠ .draining → t.hbm = s.hbm) ∧
    (exec (.sts tile ecc) s = .next t → ∀ r i, s.nextInstr tile = some (r, i) →
      let at_ := base + (s.tile tile).seqAddr i
      ∀ k, k < at_ ∨ at_ + i.bytes ≤ k → ¬ placed k → t.spad.get (fun _ => 0) k = s.spad.get (fun _ => 0) k) ∧
    (exec (.lds tile ecc) s = .next t → ∀ k, ¬ placed k → t.spad.get (fun _ => 0) k = s.spad.get (fun _ => 0) k) ∧
    ∀ c ∈ [Instr.ldg tile ecc, .stg tile ecc], exec c s = .next t → t.spad = s.spad

/-- R346, R349: a read of a register changes no memory, no tile, no context, no queue and no command in flight. -/
def Obligations.ReadFrame : Prop :=
  ∀ (s t : State) (view off bytes : Nat),
    ∀ c ∈ [Instr.splitLowRead view off bytes, .splitHighRead view off bytes, .dumpDataRead view off bytes,
      .rptDataRead view off bytes, .calenderPeakRead view off bytes false, .calenderPeakRead view off bytes true,
      .registerReadRefused view off bytes],
    exec c s = .next t → t.hbm = s.hbm ∧ t.poison = s.poison ∧ t.spad = s.spad ∧ t.tiles = s.tiles ∧ t.ctxs = s.ctxs ∧
      t.deckles = s.deckles ∧ t.queues = s.queues ∧ t.sessions = s.sessions ∧ t.cmds = s.cmds ∧ t.routers = s.routers ∧
      t.ports = s.ports ∧ t.nvm = s.nvm ∧ t.locks = s.locks ∧ t.broke = s.broke

/-- R11, R344, R55: a written register takes the data in its RW bits, clears the W1C bits written 1 and keeps every other
bit. An event sets its bit of EVENT in one view and no other register, and is delivered when it makes EVENT and EVENT_EN meet
with ev_irq set; a bit of EVENT is cleared where a 1 is written. A counter stops at its maximum and sets ovf there. -/
def Obligations.RegisterBitRules : Prop :=
  (∀ (r : RegSpec) (old mask v i : Nat),
    (mergeWrite r old mask v).testBit i =
      ((if r.rw.testBit i && mask.testBit i then v.testBit i else old.testBit i) &&
        !(r.w1c.testBit i && mask.testBit i && v.testBit i))) ∧
  (∀ (s : State) (view page v i : Nat), i < 64 →
    ((s.writeHeader view page 0x18 v).reg (bank view) page 0x18).testBit i =
      ((s.reg (bank view) page 0x18).testBit i && !v.testBit i)) ∧
  (∀ (s : State) (page bit view : Nat), page < 8192 → bit < 32 →
    let t := s.raiseIn page bit view
    let ev := s.reg (bank view) page 0x18
    let en := s.reg (bank view) page 0x1C
    t.reg (bank view) page 0x18 = ev ||| 2 ^ bit ∧
    (∀ sel p o, p < 8192 → o < 4096 → (sel, p, o) ≠ (bank view, page, 0x18) → t.reg sel p o = s.reg sel p o) ∧
    (view ≠ 20 → t.out = if ev &&& en = 0 ∧ en.testBit bit = true ∧ (s.reg (bank view) page 0x10).testBit 0 = true
      then s.out ++ [.msix view 0] else s.out)) ∧
  (∀ (s : State) (c : Cnt) (n inst : Nat), c.page + inst < 8192 → 0x80 ≤ c.off → c.off < 4096 →
    (s.bumpBy c n inst).count c inst = min (s.count c inst + n) (2 ^ 48 - 1) ∧
    (n ≠ 0 → 2 ^ 48 - 1 ≤ s.count c inst + n → ((s.bumpBy c n inst).reg 0 (c.page + inst) c.off).testBit 63 = true) ∧
    (s.count c inst + n < 2 ^ 48 - 1 →
      (s.bumpBy c n inst).reg 0 (c.page + inst) c.off / 2 ^ 48 = s.reg 0 (c.page + inst) c.off / 2 ^ 48))

/-- R424-R426: the conflict matrix is symmetric. A lock that is held bars its own activity on its instance until it is freed,
and a package recovery's bars every activity. A lock that is not held is not freed. -/
def Obligations.LockRules : Prop :=
  (∀ a b, 1 ≤ a → a ≤ 8 → 1 ≤ b → b ≤ 8 → clash a b = clash b a) ∧
  ∀ (s : State) (cls inst tag : Nat) (holder : Nat × Nat) (g : Given), 1 ≤ cls → cls ≤ 8 →
    (s.takeLock cls inst holder tag).conflict cls inst g ≠ none ∧
    (∀ l ∈ s.locks, l.cls = 7 → s.conflict cls inst g ≠ none) ∧
    (∀ l ∈ (s.freeLock cls inst).locks, l.cls = cls → l.inst ≠ inst) ∧
    ((∀ l ∈ s.locks, l.cls = cls → l.inst ≠ inst) → s.freeLock cls inst = s) ∧
    (s.conflict cls inst g = none → (∀ l ∈ s.locks, l.cls = cls → l.inst ≠ inst))

end
end

