-- ==== Sys2Proof/Laws/Frames.lean ====
section
/-! SUPPORT. What the shared operations can change: a raised event, a counter and a fault record show themselves in the register
file, the fault log and what is sent; the fault of a context goes further only to contexts, routers, queues and commands in
flight. -/

namespace Sys2Proof.Machine

/-- `t` is `s` but for the register file, the fault log, what is sent, and the number of the next message. -/
def Shows (s t : State) : Prop := ∃ regs flog out mgt, t = { s with regs := regs, flog := flog, out := out, mgt := mgt }

/-- `t` is `s` but for what Shows allows and for contexts, routers, queues and commands in flight. -/
def Reports (s t : State) : Prop := ∃ regs flog out mgt ctxs routers queues cmds,
  t = { s with regs := regs, flog := flog, out := out, mgt := mgt, ctxs := ctxs, routers := routers, queues := queues, cmds := cmds }

theorem Shows.refl (s : State) : Shows s s := ⟨s.regs, s.flog, s.out, s.mgt, rfl⟩

theorem Shows.trans {a b c : State} (h : Shows a b) (k : Shows b c) : Shows a c := by
  obtain ⟨_, _, _, _, rfl⟩ := h
  obtain ⟨r, f, o, m, rfl⟩ := k
  exact ⟨r, f, o, m, rfl⟩

theorem Shows.ite {a b c : State} {p : Prop} {_ : Decidable p} (h : Shows a b) (k : Shows a c) :
    Shows a (if p then b else c) := by split <;> assumption

theorem Shows.foldl {α : Type} {a s : State} {f : State → α → State} {l : List α} (hf : ∀ t x, Shows t (f t x)) (h : Shows a s) :
    Shows a (l.foldl f s) := by
  induction l generalizing s with
  | nil => exact h
  | cons x r ih => exact ih (h.trans (hf s x))

theorem Reports.refl (s : State) : Reports s s := ⟨_, _, _, _, _, _, _, _, rfl⟩

theorem Reports.trans {a b c : State} (h : Reports a b) (k : Reports b c) : Reports a c := by
  obtain ⟨_, _, _, _, _, _, _, _, rfl⟩ := h
  obtain ⟨r, f, o, m, x, u, q, d, rfl⟩ := k
  exact ⟨r, f, o, m, x, u, q, d, rfl⟩

theorem Reports.ite {a b c : State} {p : Prop} {_ : Decidable p} (h : Reports a b) (k : Reports a c) :
    Reports a (if p then b else c) := by split <;> assumption

theorem Reports.iteFst {β : Type} {a : State} {b c : State × β} {p : Prop} {_ : Decidable p} (h : Reports a b.1) (k : Reports a c.1) :
    Reports a (if p then b else c).1 := by split <;> assumption

theorem Reports.foldl {α : Type} {a s : State} {f : State → α → State} {l : List α} (hf : ∀ t x, Reports t (f t x))
    (h : Reports a s) : Reports a (l.foldl f s) := by
  induction l generalizing s with
  | nil => exact h
  | cons x r ih => exact ih (h.trans (hf s x))

theorem Shows.reports {a b : State} (h : Shows a b) : Reports a b := by
  obtain ⟨r, f, o, m, rfl⟩ := h
  exact ⟨r, f, o, m, _, _, _, _, rfl⟩

/-! What both leave as it was. -/

theorem Reports.tiles {s t : State} (h : Reports s t) : t.tiles = s.tiles := by obtain ⟨_, _, _, _, _, _, _, _, rfl⟩ := h; rfl
theorem Reports.spad {s t : State} (h : Reports s t) : t.spad = s.spad := by obtain ⟨_, _, _, _, _, _, _, _, rfl⟩ := h; rfl
theorem Reports.hbm {s t : State} (h : Reports s t) : t.hbm = s.hbm := by obtain ⟨_, _, _, _, _, _, _, _, rfl⟩ := h; rfl
theorem Reports.poison {s t : State} (h : Reports s t) : t.poison = s.poison := by obtain ⟨_, _, _, _, _, _, _, _, rfl⟩ := h; rfl
theorem Reports.deckles {s t : State} (h : Reports s t) : t.deckles = s.deckles := by obtain ⟨_, _, _, _, _, _, _, _, rfl⟩ := h; rfl
theorem Reports.locks {s t : State} (h : Reports s t) : t.locks = s.locks := by obtain ⟨_, _, _, _, _, _, _, _, rfl⟩ := h; rfl
theorem Reports.pending {s t : State} (h : Reports s t) : t.pending = s.pending := by obtain ⟨_, _, _, _, _, _, _, _, rfl⟩ := h; rfl
theorem Reports.ports {s t : State} (h : Reports s t) : t.ports = s.ports := by obtain ⟨_, _, _, _, _, _, _, _, rfl⟩ := h; rfl
theorem Shows.ctxs {s t : State} (h : Shows s t) : t.ctxs = s.ctxs := by obtain ⟨_, _, _, _, rfl⟩ := h; rfl
theorem Shows.cmds {s t : State} (h : Shows s t) : t.cmds = s.cmds := by obtain ⟨_, _, _, _, rfl⟩ := h; rfl
theorem Shows.queues {s t : State} (h : Shows s t) : t.queues = s.queues := by obtain ⟨_, _, _, _, rfl⟩ := h; rfl
theorem Shows.routers {s t : State} (h : Shows s t) : t.routers = s.routers := by obtain ⟨_, _, _, _, rfl⟩ := h; rfl

/-! The operations that show. -/

theorem State.setReg_shows (s : State) (sel page off v : Nat) : Shows s (s.setReg sel page off v) := ⟨_, _, _, _, rfl⟩

theorem State.fset_shows (s : State) (f : Fld) (v inst sel : Nat) : Shows s (s.fset f v inst sel) := ⟨_, _, _, _, rfl⟩

theorem State.emit_shows (s : State) (o : Out) : Shows s (s.emit o) := ⟨_, _, _, _, rfl⟩

theorem State.duntus_shows (s : State) (code : Nat) (body : List Byte) : Shows s (s.duntus code body) := ⟨_, _, _, _, rfl⟩

theorem State.notify_shows (s : State) (page view : Nat) : Shows s (s.notify page view) := by
  unfold State.notify State.duntusEvent
  exact Shows.ite (Shows.ite (State.duntus_shows _ _ _) (Shows.refl _)) (State.emit_shows _ _)

theorem State.raiseIn_shows (s : State) (page bit view : Nat) : Shows s (s.raiseIn page bit view) := by
  unfold State.raiseIn
  exact Shows.ite ((State.setReg_shows _ _ _ _ _).trans (State.notify_shows _ _ _)) (State.setReg_shows _ _ _ _ _)

theorem State.raiseBit_shows (s : State) (page bit : Nat) (att : List Nat) : Shows s (s.raiseBit page bit att) :=
  Shows.foldl (fun _ _ => State.raiseIn_shows _ _ _ _) (Shows.refl s)

theorem State.raiseTo_shows (s : State) (e : Ev) (att : List Nat) (inst : Nat) : Shows s (s.raiseTo e att inst) :=
  State.raiseBit_shows _ _ _ _

theorem State.raise_shows (s : State) (e : Ev) (inst : Nat) : Shows s (s.raise e inst) := State.raiseTo_shows _ _ _ _

theorem State.bumpBy_shows (s : State) (c : Cnt) (n inst : Nat) : Shows s (s.bumpBy c n inst) := by
  unfold State.bumpBy
  refine Shows.ite (Shows.refl s) (Shows.ite (State.setReg_shows _ _ _ _ _) ?_)
  exact Shows.ite (State.setReg_shows _ _ _ _ _) ((State.setReg_shows _ _ _ _ _).trans (State.raiseBit_shows _ _ _ _))

theorem State.bump_shows (s : State) (c : Cnt) (inst : Nat) : Shows s (s.bump c inst) := State.bumpBy_shows _ _ _ _

theorem State.noteFault_shows (s : State) (page status idx view : Nat) : Shows s (s.noteFault page status idx view) := by
  unfold State.noteFault
  refine Shows.trans ?_ (State.raiseIn_shows _ _ _ _)
  refine Shows.trans ?_ (State.setReg_shows _ _ _ _ _)
  exact State.setReg_shows _ _ _ _ _

theorem State.logFault_shows (s : State) (page : Nat) (f : FaultRec) : Shows s (s.logFault page f) := by
  unfold State.logFault
  extract_lets head idx s1 s2 att
  have h1 : Shows s s1 := ⟨_, _, _, _, rfl⟩
  have h2 : Shows s s2 := h1.trans (State.fset_shows _ _ _ _ _)
  exact Shows.foldl (fun _ _ => State.noteFault_shows _ _ _ _ _) h2

theorem State.regFault_shows (s : State) (view off bytes : Nat) (write : Bool) (status : Nat) :
    Shows s (s.regFault view off bytes write status) := by
  unfold State.regFault
  exact State.logFault_shows s _ _

/-! The operations that report. -/

theorem State.setCtx_reports (s : State) (c : Nat) (x : Ctx) : Reports s (s.setCtx c x) := ⟨_, _, _, _, _, _, _, _, rfl⟩

theorem State.setQueue_reports (s : State) (fn queue : Nat) (q : Queue) : Reports s (s.setQueue fn queue q) :=
  ⟨_, _, _, _, _, _, _, _, rfl⟩

theorem State.setRouter_reports (s : State) (iod : Nat) (r : Router) : Reports s (s.setRouter iod r) :=
  ⟨_, _, _, _, _, _, _, _, rfl⟩

theorem State.close_reports (s : State) (k : Cmd) (status detail result : Nat) : Reports s (s.close k status detail result) := by
  have h : Reports s (({ s with cmds := s.cmds.erase k } : State).bump C.DECKLE_CMD_CNT) :=
    Reports.trans (b := { s with cmds := s.cmds.erase k }) ⟨_, _, _, _, _, _, _, _, rfl⟩ (State.bump_shows _ _ _).reports
  unfold State.close
  exact Reports.ite (h.trans (State.bump_shows _ _ _).reports) (Reports.ite h (((h.trans (State.setQueue_reports _ _ _ _)).trans
    (State.emit_shows _ _).reports).trans (State.emit_shows _ _).reports))

theorem State.dropQueue_reports (s : State) (fn queue : Nat) : Reports s (s.dropQueue fn queue) := by
  unfold State.dropQueue
  refine Reports.ite ?_ (Reports.refl s)
  dsimp only
  split
  · exact (State.setQueue_reports _ _ _ _).trans (State.close_reports _ _ _ _ _)
  · exact State.setQueue_reports _ _ _ _

theorem State.finish_reports (s : State) (k : Cmd) (status detail result : Nat) : Reports s (s.finish k status detail result) := by
  unfold State.finish
  exact Reports.ite ((State.close_reports _ _ _ _ _).trans (State.dropQueue_reports _ _ _)) (Reports.refl s)

theorem State.finishAll_reports (s : State) (p : Cmd → Bool) (status result : Nat) : Reports s (s.finishAll p status result) :=
  Reports.foldl (fun _ _ => State.finish_reports _ _ _ _ _) (Reports.refl s)

theorem State.post_reports (s : State) (iod : Nat) (p : Pkt) : Reports s (s.post iod p).1 := by
  unfold State.post State.when
  dsimp only
  split
  · exact (State.bump_shows _ _ _).reports
  · refine Reports.trans (b := (s.setTxPair _ _).modRouter _ _) ?_ (Reports.ite (State.bump_shows _ _ _).reports (Reports.refl _))
    exact Reports.trans (State.setRouter_reports _ _ _) (State.setRouter_reports _ _ _)

theorem State.postTree_reports (s : State) (iod tree : Nat) (dests : List Nat) (p : Pkt) : Reports s (s.postTree iod tree dests p).1 := by
  unfold State.postTree State.when
  dsimp only
  exact Reports.trans (State.setRouter_reports _ _ _) (Reports.ite (State.bump_shows _ _ _).reports (Reports.refl _))

theorem State.collTo_reports (s : State) (g : Group) (hash : Word) (iod die dest sub pass addr flags : Nat) (payload : List Byte) :
    Reports s (s.collTo g hash iod die dest sub pass addr flags payload).1 := State.post_reports _ _ _

theorem State.collToAll_reports (s : State) (g : Group) (hash : Word) (iod die sub pass addr flags : Nat) (payload : List Byte) :
    Reports s (s.collToAll g hash iod die sub pass addr flags payload).1 := by
  unfold State.collToAll
  dsimp only
  split
  · exact Reports.iteFst (Reports.refl s) (State.postTree_reports _ _ _ _ _)
  · generalize g.others = l
    suffices h : ∀ (a : State × List Nat × List RWrite), Reports s a.1 → Reports s (l.foldl (fun a dest =>
        let r := a.1.collTo g hash iod die dest sub pass addr flags payload
        match r.2 with
        | none => (r.1, a.2.1 ++ [dest], a.2.2)
        | some (ep, q) => (r.1, a.2.1, a.2.2 ++ [s.follow iod ep 0 q true])) a).1 from h (s, [], []) (Reports.refl s)
    induction l with
    | nil => exact fun _ h => h
    | cons d l ih =>
      intro a h
      refine ih _ ?_
      dsimp only
      split
      · exact h.trans (State.collTo_reports _ _ _ _ _ _ _ _ _ _ _)
      · exact h.trans (State.collTo_reports _ _ _ _ _ _ _ _ _ _ _)

theorem State.abortAll_reports (s : State) (c : Nat) (g : Group) (hash : Word) (status rank : Nat) :
    Reports s (s.abortAll c g hash status rank) :=
  Reports.ite (Reports.refl s) ((State.collToAll_reports _ _ _ _ _ _ _ _ _ _).trans (State.setCtx_reports _ _ _))

theorem State.closeStep_reports (s : State) (c : Nat) (p : Step) (status rank : Nat) : Reports s (s.closeStep c p status rank) := by
  refine Reports.trans ?_ (State.setReg_shows _ _ _ _ _).reports
  refine Reports.trans ?_ (State.setReg_shows _ _ _ _ _).reports
  refine Reports.trans ?_ (State.raiseTo_shows _ _ _ _).reports
  refine Reports.trans ?_ (State.bump_shows _ _ _).reports
  refine Reports.trans ?_ (State.setCtx_reports _ _ _)
  exact State.abortAll_reports _ _ _ _ _ _

theorem State.closeSteps_reports (s : State) (c : Nat) : Reports s (s.closeSteps c) :=
  Reports.foldl (fun _ _ => State.closeStep_reports _ _ _ _ _) (Reports.refl s)

theorem State.faultCtx_reports (s : State) (c status : Nat) : Reports s (s.faultCtx c status) := by
  unfold State.faultCtx
  refine Reports.ite (Reports.refl s) ?_
  exact (((State.closeSteps_reports s c).trans (State.setCtx_reports _ _ _)).trans (State.finishAll_reports _ _ _ _)).trans
    (State.finishAll_reports _ _ _ _)

/-- A fault of a context (R330, R353, R354) changes no memory, no tile and no lock. -/
theorem State.faultWith_reports (s : State) (page c status kind a b vtile tile : Nat) :
    Reports s (s.faultWith page c status kind a b vtile tile) := by
  unfold State.faultWith
  exact Reports.ite (Reports.refl s) ((State.logFault_shows _ _ _).reports.trans (State.faultCtx_reports _ _ _))

theorem State.failStep_reports (s : State) (c : Nat) (p : Step) (status rank : Nat) : Reports s (s.failStep c p status rank) :=
  (State.closeStep_reports _ _ _ _ _).trans (State.faultWith_reports _ _ _ _ _ _ _ _ _)

end Sys2Proof.Machine
end

