-- ==== Sys2Proof/Laws/Sparse.lean ====
section
/-! SUPPORT. The laws of sparse maps: what a read finds after a write, and that every operation keeps the canonical form. -/

namespace Sys2Proof.Machine

variable {α : Type}

/-! Canonical form. -/

theorem Sparse.wfFrom_mono [DecidableEq α] {d : Nat → α} {lo lo' : Nat} {m : Sparse α} (h : lo' ≤ lo)
    (w : Sparse.wfFrom d lo m = true) : Sparse.wfFrom d lo' m = true := by
  cases m with
  | nil => rfl
  | cons p r =>
    simp only [Sparse.wfFrom, Bool.and_eq_true, decide_eq_true_eq] at w ⊢
    exact ⟨⟨by omega, w.1.2⟩, w.2⟩

theorem Sparse.unlist_wfFrom [DecidableEq α] {d : Nat → α} (m : Sparse α) (k lo : Nat)
    (w : Sparse.wfFrom d lo m = true) : Sparse.wfFrom d lo (Sparse.unlist m k) = true := by
  induction m generalizing lo with
  | nil => rfl
  | cons x r ih =>
    obtain ⟨j, y⟩ := x
    simp only [Sparse.wfFrom, Bool.and_eq_true, decide_eq_true_eq] at w
    obtain ⟨⟨hlo, hy⟩, hr⟩ := w
    unfold Sparse.unlist
    split
    · exact Sparse.wfFrom_mono (by omega) (ih _ hr)
    · simp [Sparse.wfFrom, hlo, hy, ih _ hr]

theorem Sparse.enlist_wfFrom [DecidableEq α] {d : Nat → α} (m : Sparse α) (k : Nat) (v : α) (lo : Nat) (hk : lo ≤ k)
    (hv : v ≠ d k) (hn : ∀ p ∈ m, p.1 ≠ k) (w : Sparse.wfFrom d lo m = true) :
    Sparse.wfFrom d lo (Sparse.enlist m k v) = true := by
  induction m generalizing lo with
  | nil => simp [Sparse.enlist, Sparse.wfFrom, hv, hk]
  | cons x r ih =>
    obtain ⟨j, y⟩ := x
    simp only [Sparse.wfFrom, Bool.and_eq_true, decide_eq_true_eq] at w
    obtain ⟨⟨hlo, hy⟩, hr⟩ := w
    have hj : j ≠ k := hn (j, y) (by simp)
    unfold Sparse.enlist
    split
    · rename_i h
      have : k + 1 ≤ j := h
      simp [Sparse.wfFrom, hk, hv, hy, hr, this]
    · rename_i h
      have : j + 1 ≤ k := by omega
      simp [Sparse.wfFrom, hlo, hy, ih _ this (fun p hp => hn p (by simp [hp])) hr]

theorem Sparse.unlist_ne (m : Sparse α) (k : Nat) : ∀ p ∈ Sparse.unlist m k, p.1 ≠ k := by
  induction m with
  | nil => simp [Sparse.unlist]
  | cons x r ih =>
    obtain ⟨j, y⟩ := x
    unfold Sparse.unlist
    split
    · exact ih
    · rename_i h
      intro p hp
      rcases List.mem_cons.mp hp with h1 | h1
      · subst h1; exact h
      · exact ih p h1

theorem Sparse.set_wfFrom [DecidableEq α] {d : Nat → α} (m : Sparse α) (k : Nat) (v : α) (lo : Nat) (hk : lo ≤ k)
    (w : Sparse.wfFrom d lo m = true) : Sparse.wfFrom d lo (Sparse.set d m k v) = true := by
  unfold Sparse.set
  split
  · exact Sparse.unlist_wfFrom m k lo w
  · exact Sparse.enlist_wfFrom _ k v lo hk (by assumption) (Sparse.unlist_ne m k) (Sparse.unlist_wfFrom m k lo w)

theorem Sparse.set_wf [DecidableEq α] {d : Nat → α} {m : Sparse α} (w : Sparse.wf d m = true) (k : Nat) (v : α) :
    Sparse.wf d (Sparse.set d m k v) = true := Sparse.set_wfFrom m k v 0 (Nat.zero_le _) w

theorem Sparse.filter_wfFrom [DecidableEq α] {d : Nat → α} (p : Nat × α → Bool) (m : Sparse α) (lo : Nat)
    (w : Sparse.wfFrom d lo m = true) : Sparse.wfFrom d lo (m.filter p) = true := by
  induction m generalizing lo with
  | nil => rfl
  | cons x r ih =>
    obtain ⟨k', v'⟩ := x
    simp only [Sparse.wfFrom, Bool.and_eq_true, decide_eq_true_eq] at w
    obtain ⟨⟨hlo, hv'⟩, hr⟩ := w
    by_cases hp : p (k', v') = true
    · simp [List.filter_cons, hp, Sparse.wfFrom, hlo, hv', ih _ hr]
    · simp only [List.filter_cons, hp]
      exact ih _ (Sparse.wfFrom_mono (by omega) hr)

theorem Sparse.clear_wf [DecidableEq α] {d : Nat → α} {m : Sparse α} (w : Sparse.wf d m = true) (p : Nat → Bool) :
    Sparse.wf d (Sparse.clear p m) = true := Sparse.filter_wfFrom _ m 0 w

theorem Sparse.mapVals_wfFrom [DecidableEq α] {d : Nat → α} (f : Nat → α → α) (m : Sparse α) (lo : Nat)
    (w : Sparse.wfFrom d lo m = true) : Sparse.wfFrom d lo (Sparse.mapVals d f m) = true := by
  induction m generalizing lo with
  | nil => rfl
  | cons x r ih =>
    obtain ⟨k', v'⟩ := x
    simp only [Sparse.wfFrom, Bool.and_eq_true, decide_eq_true_eq] at w
    obtain ⟨⟨hlo, hv'⟩, hr⟩ := w
    have ih' := ih (k' + 1) hr
    simp only [Sparse.mapVals] at ih' ⊢
    by_cases hp : f k' v' = d k'
    · simp only [List.map_cons, List.filter_cons, hp, ne_eq, not_true, decide_false, Bool.false_eq_true, if_false]
      exact Sparse.wfFrom_mono (by omega) ih'
    · simpa [hp, Sparse.wfFrom, hlo] using ih'

theorem Sparse.mapVals_wf [DecidableEq α] {d : Nat → α} {m : Sparse α} (w : Sparse.wf d m = true) (f : Nat → α → α) :
    Sparse.wf d (Sparse.mapVals d f m) = true := Sparse.mapVals_wfFrom f m 0 w

theorem Sparse.setRange_wf [DecidableEq α] {d : Nat → α} (l : List α) {m : Sparse α} (w : Sparse.wf d m = true) (a : Nat) :
    Sparse.wf d (Sparse.setRange d m a l) = true := by
  induction l generalizing m a with
  | nil => exact w
  | cons v r ih => exact ih (Sparse.set_wf w a v) (a + 1)

/-- A fold of writes keeps the form. -/
theorem Sparse.foldl_set_wf [DecidableEq α] {β : Type} {d : Nat → α} (f : β → Nat) (g : β → α) (l : List β) {m : Sparse α}
    (w : Sparse.wf d m = true) : Sparse.wf d (l.foldl (fun m x => Sparse.set d m (f x) (g x)) m) = true := by
  induction l generalizing m with
  | nil => exact w
  | cons x r ih => exact ih (Sparse.set_wf w _ _)

/-! Reads after writes. -/

theorem Sparse.get_unlist (d : Nat → α) (m : Sparse α) (k k' : Nat) :
    Sparse.get d (Sparse.unlist m k) k' = if k' = k then d k' else Sparse.get d m k' := by
  induction m with
  | nil => simp [Sparse.unlist, Sparse.get]
  | cons x r ih =>
    obtain ⟨j, y⟩ := x
    by_cases hj : j = k <;> by_cases hk : k' = k <;> by_cases he : k' = j <;>
      simp_all [Sparse.unlist, Sparse.get]

theorem Sparse.get_enlist (d : Nat → α) (m : Sparse α) (k k' : Nat) (v : α) (hn : ∀ p ∈ m, p.1 ≠ k) :
    Sparse.get d (Sparse.enlist m k v) k' = if k' = k then v else Sparse.get d m k' := by
  induction m with
  | nil => simp [Sparse.enlist, Sparse.get]
  | cons x r ih =>
    obtain ⟨j, y⟩ := x
    have hj : j ≠ k := hn (j, y) (by simp)
    have ih' := ih fun p hp => hn p (by simp [hp])
    unfold Sparse.enlist
    split
    · simp [Sparse.get]
    · by_cases hk : k' = k
      · subst hk; simp [Sparse.get, Ne.symm hj, ih']
      · simp [Sparse.get, hk, ih']

/-- What a read finds after a write: the value at the key written, what was there at every other. -/
theorem Sparse.get_set [DecidableEq α] (d : Nat → α) (m : Sparse α) (k k' : Nat) (v : α) :
    Sparse.get d (Sparse.set d m k v) k' = if k' = k then v else Sparse.get d m k' := by
  unfold Sparse.set
  split
  · rename_i h; subst h; by_cases hk : k' = k <;> simp [Sparse.get_unlist, hk]
  · rw [Sparse.get_enlist _ _ _ _ _ (Sparse.unlist_ne m k), Sparse.get_unlist]
    by_cases hk : k' = k <;> simp [hk]

@[simp] theorem Sparse.get_set_same [DecidableEq α] (d : Nat → α) (m : Sparse α) (k : Nat) (v : α) :
    Sparse.get d (Sparse.set d m k v) k = v := by simp [Sparse.get_set]

theorem Sparse.get_set_other [DecidableEq α] (d : Nat → α) (m : Sparse α) {k k' : Nat} (v : α) (h : k' ≠ k) :
    Sparse.get d (Sparse.set d m k v) k' = Sparse.get d m k' := by simp [Sparse.get_set, h]

theorem Sparse.get_clear (d : Nat → α) (p : Nat → Bool) (m : Sparse α) (k : Nat) :
    Sparse.get d (Sparse.clear p m) k = if p k then d k else Sparse.get d m k := by
  induction m with
  | nil => simp [Sparse.clear, Sparse.get]
  | cons x r ih =>
    obtain ⟨j, v⟩ := x
    simp only [Sparse.clear] at ih ⊢
    by_cases hp : p j = true <;> by_cases he : k = j <;> simp_all [List.filter_cons, Sparse.get]

/-- A range written is read back, and every key outside it reads as before. -/
theorem Sparse.get_setRange [DecidableEq α] (d : Nat → α) (l : List α) (m : Sparse α) (a k : Nat) :
    Sparse.get d (Sparse.setRange d m a l) k = if a ≤ k ∧ k < a + l.length then l.getD (k - a) (d k) else Sparse.get d m k := by
  induction l generalizing m a with
  | nil => simp [Sparse.setRange]
  | cons v r ih =>
    simp only [Sparse.setRange, ih, Sparse.get_set, List.length_cons]
    by_cases h1 : a + 1 ≤ k ∧ k < a + 1 + r.length
    · have h2 : a ≤ k ∧ k < a + (r.length + 1) := by omega
      have h3 : k - a = (k - (a + 1)) + 1 := by omega
      simp [h1, h2, h3]
    · by_cases hk : k = a
      · subst hk; simp [h1]
      · have h2 : ¬ (a ≤ k ∧ k < a + (r.length + 1)) := by omega
        rw [if_neg h1, if_neg hk, if_neg h2]

end Sys2Proof.Machine
end

