-- ==== Sys2Proof/Laws/Keep.lean ====
section
/-! SUPPORT. What every operation keeps: the queue, the output sent so far, and the canonical form of the maps. One lemma
for each operation under its own name with `_keeps`, so that no proof about a step unfolds one twice. -/

namespace Sys2Proof.Machine

/-- `s` has the queue of `s0`; its output goes on from that of `s0`, its free counter from that of `s0`; it has no more
commands in flight than `s0`, or than 4,096; and its maps are canonical if those of `s0` are. -/
structure Keeps (s0 s : State) : Prop where
  pending : s.pending = s0.pending
  out : s0.out <+: s.out
  cmds : s.cmds.length ≤ max s0.cmds.length 4096
  fresh : s0.freeCtr ≤ s.freeCtr
  canon : Canon s0 → Canon s

/-- An outcome that keeps: a next state does, and the one stop is the fault of an absent unit. -/
def KeepsOut (s0 : State) (o : Host.Outcome State Fault Refusal) : Prop :=
  (∃ t, o = .next t ∧ Keeps s0 t) ∨ o = .fault .noSuchUnit

theorem Keeps.rfl' (s : State) : Keeps s s := ⟨rfl, List.prefix_refl _, Nat.le_max_left _ _, Nat.le_refl _, id⟩

theorem Keeps.trans {a b c : State} (h : Keeps a b) (k : Keeps b c) : Keeps a c :=
  ⟨k.pending.trans h.pending, h.out.trans k.out, Nat.le_trans k.cmds (Nat.max_le.mpr ⟨h.cmds, Nat.le_max_right _ _⟩),
    Nat.le_trans h.fresh k.fresh, fun w => k.canon (h.canon w)⟩

theorem KeepsOut.next {s0 t : State} (h : Keeps s0 t) : KeepsOut s0 (.next t) := .inl ⟨t, rfl, h⟩

theorem KeepsOut.fault {s0 : State} : KeepsOut s0 (.fault .noSuchUnit) := .inr rfl

theorem KeepsOut.ite {s0 : State} {a b : Host.Outcome State Fault Refusal} {c : Prop} {_ : Decidable c} (ha : KeepsOut s0 a)
    (hb : KeepsOut s0 b) : KeepsOut s0 (if c then a else b) := by split <;> assumption

theorem Keeps.cut {s0 a : State} (x : State) (hx : Keeps s0 x) (hg : Keeps s0 x → Keeps s0 a) : Keeps s0 a := hg hx

theorem KeepsOut.cut {s0 : State} {a : Host.Outcome State Fault Refusal} (x : State) (hx : Keeps s0 x)
    (hg : Keeps s0 x → KeepsOut s0 a) : KeepsOut s0 a := hg hx

theorem Keeps.ite {s0 a b : State} {c : Prop} {_ : Decidable c} (ha : Keeps s0 a) (hb : Keeps s0 b) :
    Keeps s0 (if c then a else b) := by split <;> assumption

theorem Keeps.foldl {α : Type} {s0 s : State} {f : State → α → State} {l : List α}
    (hf : ∀ t, Keeps s0 t → ∀ x, Keeps s0 (f t x)) (h : Keeps s0 s) : Keeps s0 (l.foldl f s) := by
  induction l generalizing s with
  | nil => exact h
  | cons x r ih => exact ih (hf s h x)

theorem Keeps.foldlFst {α β : Type} {s0 : State} {p : State × β} {f : State × β → α → State × β} {l : List α}
    (hf : ∀ t, Keeps s0 t.1 → ∀ x, Keeps s0 (f t x).1) (h : Keeps s0 p.1) : Keeps s0 (l.foldl f p).1 := by
  induction l generalizing p with
  | nil => exact h
  | cons x r ih => exact ih (hf p h x)

theorem Keeps.foldlSnd {α β : Type} {s0 : State} {p : β × State} {f : β × State → α → β × State} {l : List α}
    (hf : ∀ t, Keeps s0 t.2 → ∀ x, Keeps s0 (f t x).2) (h : Keeps s0 p.2) : Keeps s0 (l.foldl f p).2 := by
  induction l generalizing p with
  | nil => exact h
  | cons x r ih => exact ih (hf p h x)

theorem Keeps.iteFst {β : Type} {s0 : State} {a b : State × β} {c : Prop} {_ : Decidable c} (ha : Keeps s0 a.1)
    (hb : Keeps s0 b.1) : Keeps s0 (if c then a else b).1 := by split <;> assumption

theorem Keeps.iteSnd {β : Type} {s0 : State} {a b : β × State} {c : Prop} {_ : Decidable c} (ha : Keeps s0 a.2)
    (hb : Keeps s0 b.2) : Keeps s0 (if c then a else b).2 := by split <;> assumption

theorem Keeps.ofFst {β : Type} {s0 t : State} {p : State × β} {b : β} (e : p = (t, b)) (h : Keeps s0 p.1) : Keeps s0 t := by
  subst e; exact h

theorem KeepsOut.ofNext {s0 t : State} {o : Host.Outcome State Fault Refusal} (e : o = .next t) (h : KeepsOut s0 o) :
    Keeps s0 t := by
  rcases h with ⟨u, hu, k⟩ | hf
  · rw [hu] at e; cases e; exact k
  · rw [hf] at e; cases e

theorem Keeps.ofSnd {β : Type} {s0 t : State} {p : β × State} {b : β} (e : p = (b, t)) (h : Keeps s0 p.2) : Keeps s0 t := by
  subst e; exact h

theorem State.each_keeps {α : Type} {s0 s : State} {f : State → α → State} {l : List α}
    (hf : ∀ t, Keeps s0 t → ∀ x, Keeps s0 (f t x)) (h : Keeps s0 s) : Keeps s0 (s.each l f) := Keeps.foldl hf h

theorem State.when_keeps {s0 s : State} {c : Bool} {f : State → State}
    (hf : ∀ t, Keeps s0 t → Keeps s0 (f t)) (h : Keeps s0 s) : Keeps s0 (s.when c f) := by
  unfold State.when; exact Keeps.ite (hf s h) h

/-- A record update that leaves the queue, the output and the maps. -/
theorem Keeps.mk0 {s0 s : State} (h : Keeps s0 s) {fe la he fr br bd lo be ident pl clk cal rst ctl mgt bri bo ms} :
    Keeps s0 (.mk s.regs la he fr s.flog br bd lo be s.tiles s.spad s.hbm s.poison s.ctxs s.deckles s.queues s.sessions
      s.cmds fe s.stackTab s.routers s.ports ident pl clk cal rst ctl mgt s.nvm bri bo ms s.out s.pending s.freeCtr) :=
  ⟨h.pending, h.out, h.cmds, h.fresh, fun w => let c := h.canon w
    ⟨c.regs, c.flog, c.tiles, c.spad, c.hbm, c.poison, c.ctxs, c.deckles, c.queues, c.sessions, c.stackTab, c.routers,
      c.ports, c.nor⟩⟩

/-- The same for one that changes the commands in flight or uses free values. -/
theorem Keeps.mk2 {s0 s : State} (h : Keeps s0 s) {fe la he fr br bd lo be cm ident pl clk cal rst ctl mgt bri bo ms fc}
    (hc : cm.length ≤ max s.cmds.length 4096) (hf : s.freeCtr ≤ fc) :
    Keeps s0 (.mk s.regs la he fr s.flog br bd lo be s.tiles s.spad s.hbm s.poison s.ctxs s.deckles s.queues s.sessions cm
      fe s.stackTab s.routers s.ports ident pl clk cal rst ctl mgt s.nvm bri bo ms s.out s.pending fc) :=
  ⟨h.pending, h.out, Nat.le_trans hc (Nat.max_le.mpr ⟨h.cmds, Nat.le_max_right _ _⟩), Nat.le_trans h.fresh hf, fun w => let c := h.canon w
    ⟨c.regs, c.flog, c.tiles, c.spad, c.hbm, c.poison, c.ctxs, c.deckles, c.queues, c.sessions, c.stackTab, c.routers,
      c.ports, c.nor⟩⟩

/-- A record update that changes maps, each in canonical form. -/
theorem Keeps.mk1 {s0 s : State} (h : Keeps s0 s)
    {fe re la he fr fl br bd lo be ti sp hb po ct de qu se st ro pt ident pl clk cal rst ctl mgt nv bri bo ms}
    (h1 : Sparse.wf regReset s.regs = true → Sparse.wf regReset re = true)
    (h2 : Sparse.wf (fun _ => none) s.flog = true → Sparse.wf (fun _ => none) fl = true)
    (h3 : Sparse.wf (fun _ => Tile.reset) s.tiles = true → Sparse.wf (fun _ => Tile.reset) ti = true)
    (h4 : Sparse.wf (fun _ => 0) s.spad = true → Sparse.wf (fun _ => 0) sp = true)
    (h5 : Sparse.wf (fun _ => 0) s.hbm = true → Sparse.wf (fun _ => 0) hb = true)
    (h6 : Sparse.wf (fun _ => false) s.poison = true → Sparse.wf (fun _ => false) po = true)
    (h7 : Sparse.wf (fun _ => Ctx.reset) s.ctxs = true → Sparse.wf (fun _ => Ctx.reset) ct = true)
    (h8 : Sparse.wf (fun _ => Deckle.reset) s.deckles = true → Sparse.wf (fun _ => Deckle.reset) de = true)
    (h9 : Sparse.wf (fun _ => Queue.reset) s.queues = true → Sparse.wf (fun _ => Queue.reset) qu = true)
    (h10 : Sparse.wf (fun _ => Session.reset) s.sessions = true → Sparse.wf (fun _ => Session.reset) se = true)
    (h11 : Sparse.wf (fun _ => Stack.reset) s.stackTab = true → Sparse.wf (fun _ => Stack.reset) st = true)
    (h12 : Sparse.wf (fun _ => Router.reset) s.routers = true → Sparse.wf (fun _ => Router.reset) ro = true)
    (h13 : Sparse.wf (fun _ => Port.reset) s.ports = true → Sparse.wf (fun _ => Port.reset) pt = true)
    (h14 : Sparse.wf (fun _ => norBlank) s.nvm.nor = true → Sparse.wf (fun _ => norBlank) nv.nor = true) :
    Keeps s0 (.mk re la he fr fl br bd lo be ti sp hb po ct de qu se s.cmds fe st ro pt ident pl clk cal rst ctl mgt nv bri
      bo ms s.out s.pending s.freeCtr) :=
  ⟨h.pending, h.out, h.cmds, h.fresh, fun w => let c := h.canon w
    ⟨h1 c.regs, h2 c.flog, h3 c.tiles, h4 c.spad, h5 c.hbm, h6 c.poison, h7 c.ctxs, h8 c.deckles, h9 c.queues,
      h10 c.sessions, h11 c.stackTab, h12 c.routers, h13 c.ports, h14 c.nor⟩⟩

/-- Both. -/
theorem Keeps.mk3 {s0 s : State} (h : Keeps s0 s)
    {fe re la he fr fl br bd lo be ti sp hb po ct de qu se st ro pt ident pl clk cal rst ctl mgt nv bri bo ms cm fc}
    (h1 : Sparse.wf regReset s.regs = true → Sparse.wf regReset re = true)
    (h2 : Sparse.wf (fun _ => none) s.flog = true → Sparse.wf (fun _ => none) fl = true)
    (h3 : Sparse.wf (fun _ => Tile.reset) s.tiles = true → Sparse.wf (fun _ => Tile.reset) ti = true)
    (h4 : Sparse.wf (fun _ => 0) s.spad = true → Sparse.wf (fun _ => 0) sp = true)
    (h5 : Sparse.wf (fun _ => 0) s.hbm = true → Sparse.wf (fun _ => 0) hb = true)
    (h6 : Sparse.wf (fun _ => false) s.poison = true → Sparse.wf (fun _ => false) po = true)
    (h7 : Sparse.wf (fun _ => Ctx.reset) s.ctxs = true → Sparse.wf (fun _ => Ctx.reset) ct = true)
    (h8 : Sparse.wf (fun _ => Deckle.reset) s.deckles = true → Sparse.wf (fun _ => Deckle.reset) de = true)
    (h9 : Sparse.wf (fun _ => Queue.reset) s.queues = true → Sparse.wf (fun _ => Queue.reset) qu = true)
    (h10 : Sparse.wf (fun _ => Session.reset) s.sessions = true → Sparse.wf (fun _ => Session.reset) se = true)
    (h11 : Sparse.wf (fun _ => Stack.reset) s.stackTab = true → Sparse.wf (fun _ => Stack.reset) st = true)
    (h12 : Sparse.wf (fun _ => Router.reset) s.routers = true → Sparse.wf (fun _ => Router.reset) ro = true)
    (h13 : Sparse.wf (fun _ => Port.reset) s.ports = true → Sparse.wf (fun _ => Port.reset) pt = true)
    (h14 : Sparse.wf (fun _ => norBlank) s.nvm.nor = true → Sparse.wf (fun _ => norBlank) nv.nor = true)
    (hc : cm.length ≤ max s.cmds.length 4096) (hf : s.freeCtr ≤ fc) :
    Keeps s0 (.mk re la he fr fl br bd lo be ti sp hb po ct de qu se cm fe st ro pt ident pl clk cal rst ctl mgt nv bri bo
      ms s.out s.pending fc) :=
  ⟨h.pending, h.out, Nat.le_trans hc (Nat.max_le.mpr ⟨h.cmds, Nat.le_max_right _ _⟩), Nat.le_trans h.fresh hf, fun w => let c := h.canon w
    ⟨h1 c.regs, h2 c.flog, h3 c.tiles, h4 c.spad, h5 c.hbm, h6 c.poison, h7 c.ctxs, h8 c.deckles, h9 c.queues,
      h10 c.sessions, h11 c.stackTab, h12 c.routers, h13 c.ports, h14 c.nor⟩⟩

theorem cmdsMap (f : Cmd → Cmd) (l : List Cmd) : (l.map f).length ≤ max l.length 4096 := by
  rw [List.length_map]; exact Nat.le_max_left _ _

theorem cmdsFilterMap (f : Cmd → Cmd) (p : Cmd → Bool) (l : List Cmd) :
    ((l.filter p).map f).length ≤ max l.length 4096 := by
  rw [List.length_map]; exact Nat.le_trans (List.length_filter_le _ _) (Nat.le_max_left _ _)

theorem cmdsErase (k : Cmd) (l : List Cmd) : (l.erase k).length ≤ max l.length 4096 :=
  Nat.le_trans (List.length_erase_le) (Nat.le_max_left _ _)

theorem cmdsReplace (k j : Cmd) (l : List Cmd) : (l.replace k j).length ≤ max l.length 4096 := by
  rw [List.length_replace]; exact Nat.le_max_left _ _

theorem cmdsNil (l : List Cmd) : ([] : List Cmd).length ≤ max l.length 4096 := Nat.zero_le _

theorem cmdsFetch (k : Cmd) (l : List Cmd) (h : ¬ 4096 ≤ l.length) : (l ++ [k]).length ≤ max l.length 4096 :=
  Nat.le_trans (by simp; omega) (Nat.le_max_right _ _)

theorem State.emit_keeps {s0 s : State} (h : Keeps s0 s) (o : Out) : Keeps s0 (s.emit o) :=
  ⟨h.pending, h.out.trans ⟨[o], rfl⟩, h.cmds, h.fresh, fun w => let c := h.canon w
    ⟨c.regs, c.flog, c.tiles, c.spad, c.hbm, c.poison, c.ctxs, c.deckles, c.queues, c.sessions, c.stackTab, c.routers,
      c.ports, c.nor⟩⟩

theorem State.setReg_keeps {s0 s : State} (h : Keeps s0 s) (sel page off v : Nat) : Keeps s0 (s.setReg sel page off v) :=
  Keeps.mk1 h (fun w => Sparse.set_wf w _ _) id id id id id id id id id id id id id

end Sys2Proof.Machine
end

