-- ==== Sys2Proof/Laws/KeepOps.lean ====
section
/-! SUPPORT. What the operations of Machine/Ops.lean keep (see Laws/Keep.lean). -/

set_option linter.all false

namespace Sys2Proof.Machine

theorem State.fset_keeps {s0 s : State} (h : Keeps s0 s) (f : Fld) (v : Nat) (inst : Nat) (sel : Nat) :
    Keeps s0 (State.fset s f v inst sel) := by
  unfold State.fset
  repeat' first
    | with_reducible first
      | assumption | (intro) | apply State.setReg_keeps | apply Keeps.ite
    | split

theorem State.fsetInt_keeps {s0 s : State} (h : Keeps s0 s) (f : Fld) (v : Int) (inst : Nat) (sel : Nat) :
    Keeps s0 (State.fsetInt s f v inst sel) := by
  unfold State.fsetInt
  repeat' first
    | with_reducible first
      | assumption | (intro) | apply State.fset_keeps | apply Keeps.ite
    | split

theorem State.free_keeps {s0 s : State} (h : Keeps s0 s) : Keeps s0 s.free.2 :=
  Keeps.mk2 h (Nat.le_max_left _ _) (Nat.le_succ _)

theorem State.setDeckle_keeps {s0 s : State} (h : Keeps s0 s) (d : Nat) (x : Deckle) :
    Keeps s0 (State.setDeckle s d x) := by
  unfold State.setDeckle
  repeat' first
    | exact id | exact fun w => Sparse.set_wf w _ _ | exact fun w => Sparse.clear_wf w _ | exact fun w => Sparse.mapVals_wf w _
    | exact fun _ => rfl | exact fun w => Sparse.setRange_wf _ w _ | exact fun w => Sparse.foldl_set_wf _ _ _ w
    | with_reducible first
      | assumption | (intro) | apply Keeps.ite | (fail_if_no_progress apply Keeps.mk0)
    | with_reducible ((fail_if_success apply Keeps.mk0); apply Keeps.mk1)
    | split

theorem State.duntus_keeps {s0 s : State} (h : Keeps s0 s) (code : Nat) (body : List Byte) : Keeps s0 (s.duntus code body) :=
  State.emit_keeps (Keeps.mk0 h (mgt := { s.mgt with txSeq := (s.mgt.txSeq + 1) % 2 ^ 16 })) _

theorem State.duntusEvent_keeps {s0 s : State} (h : Keeps s0 s) (code : Nat) (body : List Byte) :
    Keeps s0 (State.duntusEvent s code body) := by
  unfold State.duntusEvent
  repeat' first
    | with_reducible first
      | assumption | (intro) | apply State.duntus_keeps | apply Keeps.ite
    | split

theorem State.notify_keeps {s0 s : State} (h : Keeps s0 s) (page view : Nat) :
    Keeps s0 (State.notify s page view) := by
  unfold State.notify
  repeat' first
    | with_reducible first
      | assumption | (intro) | apply State.duntusEvent_keeps | apply State.emit_keeps | apply Keeps.ite
    | split

theorem State.raiseIn_keeps {s0 s : State} (h : Keeps s0 s) (page bit view : Nat) :
    Keeps s0 (State.raiseIn s page bit view) := by
  unfold State.raiseIn
  repeat' first
    | with_reducible first
      | assumption | (intro)
      | (extract_lets +onlyGivenNames x; first | (refine Keeps.cut x ?_ ?_; subst x; rotate_left; intro; clear_value x) | clear_value x)
      | apply State.notify_keeps | apply State.setReg_keeps | apply Keeps.ite
    | split

theorem State.raiseBit_keeps {s0 s : State} (h : Keeps s0 s) (page bit : Nat) (att : List Nat) :
    Keeps s0 (State.raiseBit s page bit att) := by
  unfold State.raiseBit
  repeat' first
    | with_reducible first
      | assumption | (intro) | apply State.raiseIn_keeps | apply Keeps.foldl | apply Keeps.foldlFst
      | apply Keeps.foldlSnd | apply Keeps.ite
    | split

theorem State.raiseTo_keeps {s0 s : State} (h : Keeps s0 s) (e : Ev) (att : List Nat) (inst : Nat) :
    Keeps s0 (State.raiseTo s e att inst) := by
  unfold State.raiseTo
  repeat' first
    | with_reducible first
      | assumption | (intro) | apply State.raiseBit_keeps | apply Keeps.ite
    | split

theorem State.raise_keeps {s0 s : State} (h : Keeps s0 s) (e : Ev) (inst : Nat) :
    Keeps s0 (State.raise s e inst) := by
  unfold State.raise
  repeat' first
    | with_reducible first
      | assumption | (intro) | apply State.raiseTo_keeps | apply Keeps.ite
    | split

theorem State.bumpBy_keeps {s0 s : State} (h : Keeps s0 s) (c : Cnt) (n : Nat) (inst : Nat) :
    Keeps s0 (State.bumpBy s c n inst) := by
  unfold State.bumpBy
  repeat' first
    | with_reducible first
      | assumption | (intro)
      | (extract_lets +onlyGivenNames x; first | (refine Keeps.cut x ?_ ?_; subst x; rotate_left; intro; clear_value x) | clear_value x)
      | apply State.raiseBit_keeps | apply State.setReg_keeps | apply Keeps.ite
    | split

theorem State.bump_keeps {s0 s : State} (h : Keeps s0 s) (c : Cnt) (inst : Nat) :
    Keeps s0 (State.bump s c inst) := by
  unfold State.bump
  repeat' first
    | with_reducible first
      | assumption | (intro) | apply State.bumpBy_keeps | apply Keeps.ite
    | split

theorem State.noteFault_keeps {s0 s : State} (h : Keeps s0 s) (page status idx view : Nat) :
    Keeps s0 (State.noteFault s page status idx view) := by
  unfold State.noteFault
  repeat' first
    | with_reducible first
      | assumption | (intro)
      | (extract_lets +onlyGivenNames x; first | (refine Keeps.cut x ?_ ?_; subst x; rotate_left; intro; clear_value x) | clear_value x)
      | apply State.raiseIn_keeps | apply State.setReg_keeps | apply Keeps.ite
    | split

theorem State.logFault_keeps {s0 s : State} (h : Keeps s0 s) (page : Nat) (f : FaultRec) :
    Keeps s0 (State.logFault s page f) := by
  unfold State.logFault
  repeat' first
    | exact id | exact fun w => Sparse.set_wf w _ _ | exact fun w => Sparse.clear_wf w _ | exact fun w => Sparse.mapVals_wf w _
    | exact fun _ => rfl | exact fun w => Sparse.setRange_wf _ w _ | exact fun w => Sparse.foldl_set_wf _ _ _ w
    | with_reducible first
      | assumption | (intro)
      | (extract_lets +onlyGivenNames x; first | (refine Keeps.cut x ?_ ?_; subst x; rotate_left; intro; clear_value x) | clear_value x)
      | apply State.fset_keeps | apply State.noteFault_keeps | apply Keeps.foldl | apply Keeps.foldlFst | apply Keeps.foldlSnd
      | apply Keeps.ite | (fail_if_no_progress apply Keeps.mk0)
    | with_reducible ((fail_if_success apply Keeps.mk0); apply Keeps.mk1)
    | split

theorem State.regFault_keeps {s0 s : State} (h : Keeps s0 s) (view off bytes : Nat) (write : Bool) (status : Nat) :
    Keeps s0 (State.regFault s view off bytes write status) := by
  unfold State.regFault
  repeat' first
    | with_reducible first
      | assumption | (intro)
      | (extract_lets +onlyGivenNames x; first | (refine Keeps.cut x ?_ ?_; subst x; rotate_left; intro; clear_value x) | clear_value x)
      | apply State.logFault_keeps | apply Keeps.ite
    | split

theorem State.setTile_keeps {s0 s : State} (h : Keeps s0 s) (t : Nat) (x : Tile) :
    Keeps s0 (State.setTile s t x) := by
  unfold State.setTile
  repeat' first
    | exact id | exact fun w => Sparse.set_wf w _ _ | exact fun w => Sparse.clear_wf w _ | exact fun w => Sparse.mapVals_wf w _
    | exact fun _ => rfl | exact fun w => Sparse.setRange_wf _ w _ | exact fun w => Sparse.foldl_set_wf _ _ _ w
    | with_reducible first
      | assumption | (intro) | apply Keeps.ite | (fail_if_no_progress apply Keeps.mk0)
    | with_reducible ((fail_if_success apply Keeps.mk0); apply Keeps.mk1)
    | split

theorem State.spadWrite_keeps {s0 s : State} (h : Keeps s0 s) (t a : Nat) (d : List Byte) :
    Keeps s0 (State.spadWrite s t a d) := by
  unfold State.spadWrite
  repeat' first
    | exact id | exact fun w => Sparse.set_wf w _ _ | exact fun w => Sparse.clear_wf w _ | exact fun w => Sparse.mapVals_wf w _
    | exact fun _ => rfl | exact fun w => Sparse.setRange_wf _ w _ | exact fun w => Sparse.foldl_set_wf _ _ _ w
    | with_reducible first
      | assumption | (intro) | apply Keeps.ite | (fail_if_no_progress apply Keeps.mk0)
    | with_reducible ((fail_if_success apply Keeps.mk0); apply Keeps.mk1)
    | split

theorem State.spadZero_keeps {s0 s : State} (h : Keeps s0 s) (t : Nat) :
    Keeps s0 (State.spadZero s t) := by
  unfold State.spadZero
  repeat' first
    | exact id | exact fun w => Sparse.set_wf w _ _ | exact fun w => Sparse.clear_wf w _ | exact fun w => Sparse.mapVals_wf w _
    | exact fun _ => rfl | exact fun w => Sparse.setRange_wf _ w _ | exact fun w => Sparse.foldl_set_wf _ _ _ w
    | with_reducible first
      | assumption | (intro) | apply Keeps.ite | (fail_if_no_progress apply Keeps.mk0)
    | with_reducible ((fail_if_success apply Keeps.mk0); apply Keeps.mk1)
    | split

theorem State.localWrite_keeps {s0 s : State} (h : Keeps s0 s) (d a : Nat) (data : List Byte) :
    Keeps s0 (State.localWrite s d a data) :=
  Keeps.mk1 h id id id id (fun w => Sparse.foldl_set_wf _ _ _ w) (fun w => Sparse.foldl_set_wf _ _ _ w) id id id id id id id id

theorem State.countPoison_keeps {s0 s : State} (h : Keeps s0 s) (d a : Nat) :
    Keeps s0 (State.countPoison s d a) := by
  unfold State.countPoison
  repeat' first
    | with_reducible first
      | assumption | (intro) | apply State.bump_keeps | apply Keeps.ite
    | split

theorem State.countPoisons_keeps {s0 s : State} (h : Keeps s0 s) (d a n : Nat) :
    Keeps s0 (State.countPoisons s d a n) := by
  unfold State.countPoisons
  repeat' first
    | with_reducible first
      | assumption | (intro) | apply State.countPoison_keeps | apply State.each_keeps
      | apply State.when_keeps | apply Keeps.ite
    | split

theorem State.setCtx_keeps {s0 s : State} (h : Keeps s0 s) (c : Nat) (x : Ctx) :
    Keeps s0 (State.setCtx s c x) := by
  unfold State.setCtx
  repeat' first
    | exact id | exact fun w => Sparse.set_wf w _ _ | exact fun w => Sparse.clear_wf w _ | exact fun w => Sparse.mapVals_wf w _
    | exact fun _ => rfl | exact fun w => Sparse.setRange_wf _ w _ | exact fun w => Sparse.foldl_set_wf _ _ _ w
    | with_reducible first
      | assumption | (intro) | apply Keeps.ite | (fail_if_no_progress apply Keeps.mk0)
    | with_reducible ((fail_if_success apply Keeps.mk0); apply Keeps.mk1)
    | split

theorem State.modCtx_keeps {s0 s : State} (h : Keeps s0 s) (c : Nat) (f : Ctx → Ctx) :
    Keeps s0 (State.modCtx s c f) := by
  unfold State.modCtx
  repeat' first
    | with_reducible first
      | assumption | (intro) | apply State.setCtx_keeps | apply Keeps.ite
    | split

theorem State.setQueue_keeps {s0 s : State} (h : Keeps s0 s) (fn q : Nat) (x : Queue) :
    Keeps s0 (State.setQueue s fn q x) := by
  unfold State.setQueue
  repeat' first
    | exact id | exact fun w => Sparse.set_wf w _ _ | exact fun w => Sparse.clear_wf w _ | exact fun w => Sparse.mapVals_wf w _
    | exact fun _ => rfl | exact fun w => Sparse.setRange_wf _ w _ | exact fun w => Sparse.foldl_set_wf _ _ _ w
    | with_reducible first
      | assumption | (intro) | apply Keeps.ite | (fail_if_no_progress apply Keeps.mk0)
    | with_reducible ((fail_if_success apply Keeps.mk0); apply Keeps.mk1)
    | split

theorem State.close_keeps {s0 s : State} (h : Keeps s0 s) (c : Cmd) (status detail result : Nat) :
    Keeps s0 (State.close s c status detail result) := by
  unfold State.close
  repeat' first
    | with_reducible first
      | assumption | (intro)
      | (extract_lets +onlyGivenNames x; first | (refine Keeps.cut x ?_ ?_; subst x; rotate_left; intro; clear_value x) | clear_value x)
      | apply State.bump_keeps | apply State.emit_keeps | apply State.setQueue_keeps | apply Keeps.ite
      | (fail_if_no_progress apply Keeps.mk0) | (fail_if_no_progress apply Keeps.mk2)
    | with_reducible exact Nat.le_max_left _ _
    | with_reducible exact Nat.le_refl _
    | with_reducible exact Nat.le_add_right _ _
    | with_reducible exact cmdsMap _ _
    | with_reducible exact cmdsFilterMap _ _ _
    | with_reducible exact cmdsErase _ _
    | with_reducible exact cmdsReplace _ _ _
    | with_reducible exact cmdsNil _
    | split

theorem State.dropQueue_keeps {s0 s : State} (h : Keeps s0 s) (fn queue : Nat) :
    Keeps s0 (State.dropQueue s fn queue) := by
  unfold State.dropQueue
  repeat' first
    | with_reducible first
      | assumption | (intro)
      | (extract_lets +onlyGivenNames x; first | (refine Keeps.cut x ?_ ?_; subst x; rotate_left; intro; clear_value x) | clear_value x)
      | apply State.close_keeps | apply State.setQueue_keeps | apply Keeps.ite | (fail_if_no_progress apply Keeps.mk0)
    | split

theorem State.finish_keeps {s0 s : State} (h : Keeps s0 s) (c : Cmd) (status : Nat) (detail : Nat) (result : Nat) :
    Keeps s0 (State.finish s c status detail result) := by
  unfold State.finish
  repeat' first
    | with_reducible first
      | assumption | (intro) | apply State.close_keeps | apply State.dropQueue_keeps | apply Keeps.ite
    | split

theorem State.finishAll_keeps {s0 s : State} (h : Keeps s0 s) (p : Cmd → Bool) (status : Nat) (result : Nat) :
    Keeps s0 (State.finishAll s p status result) := by
  unfold State.finishAll
  repeat' first
    | with_reducible first
      | assumption | (intro) | apply State.finish_keeps | apply Keeps.foldl | apply Keeps.foldlFst
      | apply Keeps.foldlSnd | apply Keeps.ite
    | split

end Sys2Proof.Machine
end

