-- ==== Sys2Proof/Laws/KeepFaults.lean ====
section
/-! SUPPORT. What the operations of Machine/Faults.lean keep (see Laws/Keep.lean). -/

set_option linter.all false

namespace Sys2Proof.Machine

theorem State.setRouter_keeps {s0 s : State} (h : Keeps s0 s) (iod : Nat) (r : Router) :
    Keeps s0 (State.setRouter s iod r) := by
  unfold State.setRouter
  repeat' first
    | exact id | exact fun w => Sparse.set_wf w _ _ | exact fun w => Sparse.clear_wf w _ | exact fun w => Sparse.mapVals_wf w _
    | exact fun _ => rfl | exact fun w => Sparse.setRange_wf _ w _ | exact fun w => Sparse.foldl_set_wf _ _ _ w
    | with_reducible first
      | assumption | (intro) | apply Keeps.ite | (fail_if_no_progress apply Keeps.mk0)
    | with_reducible ((fail_if_success apply Keeps.mk0); apply Keeps.mk1)
    | split

theorem State.modRouter_keeps {s0 s : State} (h : Keeps s0 s) (iod : Nat) (f : Router → Router) :
    Keeps s0 (State.modRouter s iod f) := by
  unfold State.modRouter
  repeat' first
    | with_reducible first
      | assumption | (intro) | apply State.setRouter_keeps | apply Keeps.ite
    | split

theorem State.setTxPair_keeps {s0 s : State} (h : Keeps s0 s) (iod : Nat) (p : TxPair) :
    Keeps s0 (State.setTxPair s iod p) := by
  unfold State.setTxPair
  repeat' first
    | with_reducible first
      | assumption | (intro) | apply State.modRouter_keeps | apply Keeps.ite
      | (fail_if_no_progress apply Keeps.mk0)
    | split

theorem State.post_keeps {s0 s : State} (h : Keeps s0 s) (iod : Nat) (p : Pkt) :
    Keeps s0 (State.post s iod p).1 := by
  unfold State.post
  repeat' first
    | with_reducible first
      | assumption | (intro)
      | (extract_lets +onlyGivenNames x; first | (refine Keeps.cut x ?_ ?_; subst x; rotate_left; intro; clear_value x) | clear_value x)
      | apply State.bump_keeps | apply State.modRouter_keeps | apply State.setTxPair_keeps | apply State.when_keeps
      | apply Keeps.ite | apply Keeps.iteFst | apply Keeps.iteSnd | (fail_if_no_progress apply Keeps.mk0)
    | split

theorem State.collTo_keeps {s0 s : State} (h : Keeps s0 s) (g : Group) (hash : Word) (iod die dest sub pass addr flags : Nat) (payload : List Byte) :
    Keeps s0 (State.collTo s g hash iod die dest sub pass addr flags payload).1 := by
  unfold State.collTo
  repeat' first
    | with_reducible first
      | assumption | (intro)
      | (extract_lets +onlyGivenNames x; first | (refine Keeps.cut x ?_ ?_; subst x; rotate_left; intro; clear_value x) | (refine Keeps.cut x.2 ?_ ?_; subst x; rotate_left; intro; clear_value x) | (refine Keeps.cut x.1 ?_ ?_; subst x; rotate_left; intro; clear_value x) | clear_value x)
      | apply State.post_keeps | apply Keeps.ite | apply Keeps.iteFst | apply Keeps.iteSnd
    | with_reducible (refine Keeps.ofFst (by assumption) ?_) | with_reducible (refine Keeps.ofSnd (by assumption) ?_)
    | (show Keeps s0 _; assumption)
    | split

theorem State.postTree_keeps {s0 s : State} (h : Keeps s0 s) (iod tree : Nat) (dests : List Nat) (p : Pkt) :
    Keeps s0 (State.postTree s iod tree dests p).1 := by
  unfold State.postTree
  repeat' first
    | with_reducible first
      | assumption | (intro)
      | (extract_lets +onlyGivenNames x; first | (refine Keeps.cut x ?_ ?_; subst x; rotate_left; intro; clear_value x) | clear_value x)
      | apply State.bump_keeps | apply State.setRouter_keeps | apply State.when_keeps | apply Keeps.ite | apply Keeps.iteFst
      | apply Keeps.iteSnd | (fail_if_no_progress apply Keeps.mk0)
    | split

theorem State.collToAll_keeps {s0 s : State} (h : Keeps s0 s) (g : Group) (hash : Word) (iod die sub pass addr flags : Nat) (payload : List Byte) :
    Keeps s0 (State.collToAll s g hash iod die sub pass addr flags payload).1 := by
  unfold State.collToAll
  repeat' first
    | with_reducible first
      | assumption | (intro)
      | (extract_lets +onlyGivenNames x; first | (refine Keeps.cut x ?_ ?_; subst x; rotate_left; intro; clear_value x) | (refine Keeps.cut x.2 ?_ ?_; subst x; rotate_left; intro; clear_value x) | (refine Keeps.cut x.1 ?_ ?_; subst x; rotate_left; intro; clear_value x) | clear_value x)
      | apply State.collTo_keeps | apply State.postTree_keeps | apply Keeps.foldl | apply Keeps.foldlFst | apply Keeps.foldlSnd
      | apply Keeps.ite | apply Keeps.iteFst | apply Keeps.iteSnd | (fail_if_no_progress apply Keeps.mk0)
    | with_reducible (refine Keeps.ofFst (by assumption) ?_) | with_reducible (refine Keeps.ofSnd (by assumption) ?_)
    | (show Keeps s0 _; assumption)
    | split

theorem State.abortAll_keeps {s0 s : State} (h : Keeps s0 s) (c : Nat) (g : Group) (hash : Word) (status rank : Nat) :
    Keeps s0 (State.abortAll s c g hash status rank) :=
  Keeps.ite h (State.modCtx_keeps (State.collToAll_keeps h _ _ _ _ _ _ _ _ _) _ _)

theorem State.closeStep_keeps {s0 s : State} (h : Keeps s0 s) (c : Nat) (p : Step) (status rank : Nat) :
    Keeps s0 (State.closeStep s c p status rank) := by
  unfold State.closeStep
  repeat' first
    | with_reducible first
      | assumption | (intro)
      | (extract_lets +onlyGivenNames x; first | (refine Keeps.cut x ?_ ?_; subst x; rotate_left; intro; clear_value x) | (refine Keeps.cut x.2 ?_ ?_; subst x; rotate_left; intro; clear_value x) | (refine Keeps.cut x.1 ?_ ?_; subst x; rotate_left; intro; clear_value x) | clear_value x)
      | apply State.bump_keeps | apply State.abortAll_keeps | apply State.modCtx_keeps | apply State.raiseTo_keeps
      | apply State.setReg_keeps | apply Keeps.ite | apply Keeps.iteFst | apply Keeps.iteSnd
      | (fail_if_no_progress apply Keeps.mk0)
    | with_reducible (refine Keeps.ofFst (by assumption) ?_) | with_reducible (refine Keeps.ofSnd (by assumption) ?_)
    | split

theorem State.closeSteps_keeps {s0 s : State} (h : Keeps s0 s) (c : Nat) :
    Keeps s0 (State.closeSteps s c) := by
  unfold State.closeSteps
  repeat' first
    | with_reducible first
      | assumption | (intro) | apply State.closeStep_keeps | apply Keeps.foldl | apply Keeps.foldlFst
      | apply Keeps.foldlSnd | apply Keeps.ite
    | split

theorem State.faultCtx_keeps {s0 s : State} (h : Keeps s0 s) (c status : Nat) :
    Keeps s0 (State.faultCtx s c status) := by
  unfold State.faultCtx
  repeat' first
    | with_reducible first
      | assumption | (intro)
      | (extract_lets +onlyGivenNames x; first | (refine Keeps.cut x ?_ ?_; subst x; rotate_left; intro; clear_value x) | (refine Keeps.cut x.2 ?_ ?_; subst x; rotate_left; intro; clear_value x) | (refine Keeps.cut x.1 ?_ ?_; subst x; rotate_left; intro; clear_value x) | clear_value x)
      | apply State.closeSteps_keeps | apply State.finishAll_keeps | apply State.free_keeps | apply State.setCtx_keeps
      | apply Keeps.ite | apply Keeps.iteFst | apply Keeps.iteSnd | (fail_if_no_progress apply Keeps.mk0)
    | with_reducible (refine Keeps.ofFst (by assumption) ?_) | with_reducible (refine Keeps.ofSnd (by assumption) ?_)
    | split

theorem State.faultWith_keeps {s0 s : State} (h : Keeps s0 s) (page c status kind a b vtile tile : Nat) :
    Keeps s0 (State.faultWith s page c status kind a b vtile tile) := by
  unfold State.faultWith
  repeat' first
    | with_reducible first
      | assumption | (intro)
      | (extract_lets +onlyGivenNames x; first | (refine Keeps.cut x ?_ ?_; subst x; rotate_left; intro; clear_value x) | (refine Keeps.cut x.2 ?_ ?_; subst x; rotate_left; intro; clear_value x) | (refine Keeps.cut x.1 ?_ ?_; subst x; rotate_left; intro; clear_value x) | clear_value x)
      | apply State.faultCtx_keeps | apply State.free_keeps | apply State.logFault_keeps | apply Keeps.ite | apply Keeps.iteFst
      | apply Keeps.iteSnd | (fail_if_no_progress apply Keeps.mk0)
    | with_reducible (refine Keeps.ofFst (by assumption) ?_) | with_reducible (refine Keeps.ofSnd (by assumption) ?_)
    | split

theorem State.failStep_keeps {s0 s : State} (h : Keeps s0 s) (c : Nat) (p : Step) (status rank : Nat) :
    Keeps s0 (State.failStep s c p status rank) := by
  unfold State.failStep
  repeat' first
    | with_reducible first
      | assumption | (intro)
      | (extract_lets +onlyGivenNames x; first | (refine Keeps.cut x ?_ ?_; subst x; rotate_left; intro; clear_value x) | clear_value x)
      | apply State.closeStep_keeps | apply State.faultWith_keeps | apply Keeps.ite
    | split

end Sys2Proof.Machine
end

