-- ==== Sys2Proof/Laws/KeepSheets.lean ====
section
/-! SUPPORT. What the operations of Machine/Sheets.lean keep (see Laws/Keep.lean). -/

set_option linter.all false

namespace Sys2Proof.Machine

theorem guardUnit_keeps {s0 s : State} (h : Keeps s0 s) (ok : Bool) :
    KeepsOut s0 (guardUnit ok s) := by
  unfold guardUnit
  repeat' first
    | with_reducible first
      | assumption | (intro) | apply KeepsOut.next | exact KeepsOut.fault | apply KeepsOut.ite
      | apply Keeps.ite
    | split

theorem State.seqFault_keeps {s0 s : State} (h : Keeps s0 s) (t : Nat) (r : Run) (status off : Nat) :
    Keeps s0 (State.seqFault s t r status off) := by
  unfold State.seqFault
  repeat' first
    | with_reducible first
      | assumption | (intro)
      | (extract_lets +onlyGivenNames x; first | (refine Keeps.cut x ?_ ?_; subst x; rotate_left; intro; clear_value x) | clear_value x)
      | apply State.faultWith_keeps | apply State.setTile_keeps | apply Keeps.ite | (fail_if_no_progress apply Keeps.mk0)
    | split

theorem State.accessFault_keeps {s0 s : State} (h : Keeps s0 s) (t : Nat) (r : Run) (status space addr : Nat) :
    Keeps s0 (State.accessFault s t r status space addr) := by
  unfold State.accessFault
  repeat' first
    | with_reducible first
      | assumption | (intro)
      | (extract_lets +onlyGivenNames x; first | (refine Keeps.cut x ?_ ?_; subst x; rotate_left; intro; clear_value x) | clear_value x)
      | apply State.faultWith_keeps | apply State.setTile_keeps | apply Keeps.ite | (fail_if_no_progress apply Keeps.mk0)
    | split

theorem State.readFault_keeps {s0 s : State} (h : Keeps s0 s) (t : Nat) (r : Run) (status space a n at_ : Nat) :
    Keeps s0 (State.readFault s t r status space a n at_) := by
  unfold State.readFault
  repeat' first
    | with_reducible first
      | assumption | (intro)
      | (extract_lets +onlyGivenNames x; first | (refine Keeps.cut x ?_ ?_; subst x; rotate_left; intro; clear_value x) | clear_value x)
      | apply State.accessFault_keeps | apply State.countPoisons_keeps | apply State.faultWith_keeps | apply State.setTile_keeps
      | apply Keeps.ite | (fail_if_no_progress apply Keeps.mk0)
    | split

theorem State.confineFault_keeps {s0 s : State} (h : Keeps s0 s) (t : Nat) (r : Run) (space addr : Nat) :
    Keeps s0 (State.confineFault s t r space addr) := by
  unfold State.confineFault
  repeat' first
    | with_reducible first
      | assumption | (intro)
      | (extract_lets +onlyGivenNames x; first | (refine Keeps.cut x ?_ ?_; subst x; rotate_left; intro; clear_value x) | clear_value x)
      | apply State.accessFault_keeps | apply State.bump_keeps | apply State.raiseTo_keeps | apply Keeps.ite
    | split

theorem execSheetProgramFetch_keeps {s0 s : State} (h : Keeps s0 s) (tile : Nat) :
    KeepsOut s0 (execSheetProgramFetch tile s) := by
  unfold execSheetProgramFetch
  repeat' first
    | with_reducible first
      | assumption | (intro)
      | (extract_lets +onlyGivenNames x; first | (refine Keeps.cut x ?_ ?_; subst x; rotate_left; intro; clear_value x) | (refine KeepsOut.cut x ?_ ?_; subst x; rotate_left; intro; clear_value x) | clear_value x)
      | apply guardUnit_keeps | apply KeepsOut.next | exact KeepsOut.fault | apply KeepsOut.ite | apply State.setTile_keeps
      | apply Keeps.ite | (fail_if_no_progress apply Keeps.mk0)
    | split

theorem State.notePoison_keeps {s0 s : State} (h : Keeps s0 s) (d status a : Nat) :
    Keeps s0 (State.notePoison s d status a) := by
  unfold State.notePoison
  repeat' first
    | with_reducible first
      | assumption | (intro) | apply State.countPoison_keeps | apply State.when_keeps | apply Keeps.ite
    | split

theorem State.startSheet_keeps {s0 s : State} (h : Keeps s0 s) (tile : Nat) (late : Bool) :
    Keeps s0 (State.startSheet s tile late) := by
  unfold State.startSheet
  repeat' first
    | with_reducible first
      | assumption | (intro)
      | (extract_lets +onlyGivenNames x; first | (refine Keeps.cut x ?_ ?_; subst x; rotate_left; intro; clear_value x) | clear_value x)
      | apply State.bump_keeps | apply State.faultWith_keeps | apply State.notePoison_keeps | apply State.setCtx_keeps
      | apply State.setTile_keeps | apply State.when_keeps | apply Keeps.ite | (fail_if_no_progress apply Keeps.mk0)
    | split

theorem execSheetStart_keeps {s0 s : State} (h : Keeps s0 s) (tile : Nat) :
    KeepsOut s0 (execSheetStart tile s) := by
  unfold execSheetStart
  repeat' first
    | with_reducible first
      | assumption | (intro) | apply guardUnit_keeps | apply KeepsOut.next | exact KeepsOut.fault
      | apply KeepsOut.ite | apply State.startSheet_keeps | apply Keeps.ite
    | split

theorem State.writeBack_keeps {s0 s : State} (h : Keeps s0 s) (d : Nat) (l : Line) :
    Keeps s0 (State.writeBack s d l) := by
  unfold State.writeBack
  repeat' first
    | with_reducible first
      | assumption | (intro) | apply State.localWrite_keeps | apply Keeps.foldl | apply Keeps.foldlFst
      | apply Keeps.foldlSnd | apply Keeps.ite
    | with_reducible (refine Keeps.ofFst (by assumption) ?_) | with_reducible (refine Keeps.ofSnd (by assumption) ?_)
    | split

theorem State.writeBackAll_keeps {s0 s : State} (h : Keeps s0 s) (d : Nat) (ls : List Line) :
    Keeps s0 (State.writeBackAll s d ls) := by
  unfold State.writeBackAll
  repeat' first
    | with_reducible first
      | assumption | (intro) | apply State.writeBack_keeps | apply Keeps.foldl | apply Keeps.foldlFst
      | apply Keeps.foldlSnd | apply Keeps.ite
    | split

theorem execSheetComplete_keeps {s0 s : State} (h : Keeps s0 s) (tile : Nat) :
    KeepsOut s0 (execSheetComplete tile s) := by
  unfold execSheetComplete
  repeat' first
    | with_reducible first
      | assumption | (intro)
      | (extract_lets +onlyGivenNames x; first | (refine Keeps.cut x ?_ ?_; subst x; rotate_left; intro; clear_value x) | (refine KeepsOut.cut x ?_ ?_; subst x; rotate_left; intro; clear_value x) | clear_value x)
      | apply guardUnit_keeps | apply KeepsOut.next | exact KeepsOut.fault | apply KeepsOut.ite | apply State.setCtx_keeps
      | apply State.setTile_keeps | apply State.writeBackAll_keeps | apply Keeps.ite | (fail_if_no_progress apply Keeps.mk0)
    | split

theorem execSheetWaitTimeout_keeps {s0 s : State} (h : Keeps s0 s) (c inst : Nat) :
    KeepsOut s0 (execSheetWaitTimeout c inst s) := by
  unfold execSheetWaitTimeout
  repeat' first
    | with_reducible first
      | assumption | (intro)
      | (extract_lets +onlyGivenNames x; first | (refine Keeps.cut x ?_ ?_; subst x; rotate_left; intro; clear_value x) | (refine KeepsOut.cut x ?_ ?_; subst x; rotate_left; intro; clear_value x) | clear_value x)
      | apply guardUnit_keeps | apply KeepsOut.next | exact KeepsOut.fault | apply KeepsOut.ite | apply State.failStep_keeps
      | apply State.faultWith_keeps | apply Keeps.ite | (fail_if_no_progress apply Keeps.mk0)
    | split

theorem State.journal_keeps {s0 s : State} (h : Keeps s0 s) (d : Nat) (e : JEntry) :
    Keeps s0 (State.journal s d e) := by
  unfold State.journal
  repeat' first
    | with_reducible first
      | assumption | (intro)
      | (extract_lets +onlyGivenNames x; first | (refine Keeps.cut x ?_ ?_; subst x; rotate_left; intro; clear_value x) | clear_value x)
      | apply State.bump_keeps | apply State.fset_keeps | apply State.localWrite_keeps | apply State.raiseTo_keeps
      | apply State.when_keeps | apply Keeps.ite
    | split

theorem State.tileEntry_keeps {s0 s : State} (h : Keeps s0 s) (c kind cause seq beat v : Nat) (src dst : Option Nat) :
    Keeps s0 (State.tileEntry s c kind cause seq beat v src dst) := by
  unfold State.tileEntry
  repeat' first
    | with_reducible first
      | assumption | (intro) | apply State.journal_keeps | apply Keeps.ite
    | split

theorem State.dropEntry_keeps {s0 s : State} (h : Keeps s0 s) (c cause beat i : Nat) :
    Keeps s0 (State.dropEntry s c cause beat i) := by
  unfold State.dropEntry
  repeat' first
    | with_reducible first
      | assumption | (intro)
      | (extract_lets +onlyGivenNames x; first | (refine Keeps.cut x ?_ ?_; subst x; rotate_left; intro; clear_value x) | clear_value x)
      | apply State.journal_keeps | apply Keeps.ite
    | split

theorem State.brokeAdd_keeps {s0 s : State} (h : Keeps s0 s) (kind loc cause : Nat) (retired : Bool) :
    Keeps s0 (State.brokeAdd s kind loc cause retired) := by
  unfold State.brokeAdd
  repeat' first
    | with_reducible first
      | assumption | (intro) | apply Keeps.ite | (fail_if_no_progress apply Keeps.mk0)
    | split

theorem State.loseSheet_keeps {s0 s : State} (h : Keeps s0 s) (tile : Nat) (r : Nat × Nat × Nat) :
    Keeps s0 (State.loseSheet s tile r) := by
  unfold State.loseSheet
  repeat' first
    | with_reducible first
      | assumption | (intro)
      | (extract_lets +onlyGivenNames x; first | (refine Keeps.cut x ?_ ?_; subst x; rotate_left; intro; clear_value x) | clear_value x)
      | apply State.faultWith_keeps | apply State.setCtx_keeps | apply Keeps.ite | (fail_if_no_progress apply Keeps.mk0)
    | split

theorem State.unbindLost_keeps {s0 s : State} (h : Keeps s0 s) (tile c v : Nat) :
    Keeps s0 (State.unbindLost s tile c v) := by
  unfold State.unbindLost
  repeat' first
    | with_reducible first
      | assumption | (intro)
      | (extract_lets +onlyGivenNames x; first | (refine Keeps.cut x ?_ ?_; subst x; rotate_left; intro; clear_value x) | (refine Keeps.cut x.2 ?_ ?_; subst x; rotate_left; intro; clear_value x) | (refine Keeps.cut x.1 ?_ ?_; subst x; rotate_left; intro; clear_value x) | clear_value x)
      | apply State.dropEntry_keeps | apply State.each_keeps | apply State.modCtx_keeps | apply Keeps.ite
      | (fail_if_no_progress apply Keeps.mk0)
    | with_reducible (refine Keeps.ofFst (by assumption) ?_) | with_reducible (refine Keeps.ofSnd (by assumption) ?_)
    | split

theorem State.fenceTile_keeps {s0 s : State} (h : Keeps s0 s) (tile cause : Nat) (error : Bool) :
    Keeps s0 (State.fenceTile s tile cause error) := by
  unfold State.fenceTile
  repeat' first
    | with_reducible first
      | assumption | (intro)
      | (extract_lets +onlyGivenNames x; first | (refine Keeps.cut x ?_ ?_; subst x; rotate_left; intro; clear_value x) | clear_value x)
      | apply State.brokeAdd_keeps | apply State.bump_keeps | apply State.loseSheet_keeps | apply State.raiseTo_keeps
      | apply State.setTile_keeps | apply State.unbindLost_keeps | apply Keeps.ite | (fail_if_no_progress apply Keeps.mk0)
    | split

theorem State.errorFence_keeps {s0 s : State} (h : Keeps s0 s) (tile cause : Nat) (ue : Bool) :
    Keeps s0 (State.errorFence s tile cause ue) := by
  unfold State.errorFence
  repeat' first
    | with_reducible first
      | assumption | (intro)
      | (extract_lets +onlyGivenNames x; first | (refine Keeps.cut x ?_ ?_; subst x; rotate_left; intro; clear_value x) | clear_value x)
      | apply State.bump_keeps | apply State.fenceTile_keeps | apply State.logFault_keeps | apply State.raiseTo_keeps
      | apply State.when_keeps | apply Keeps.ite | (fail_if_no_progress apply Keeps.mk0)
    | split

theorem execTileFence_keeps {s0 s : State} (h : Keeps s0 s) (tile cause : Nat) :
    KeepsOut s0 (execTileFence tile cause s) := by
  unfold execTileFence
  repeat' first
    | with_reducible first
      | assumption | (intro) | apply guardUnit_keeps | apply KeepsOut.next | exact KeepsOut.fault
      | apply KeepsOut.ite | apply State.errorFence_keeps | apply Keeps.ite
    | split

theorem State.corrected_keeps {s0 s : State} (h : Keeps s0 s) (tile : Nat) (word : Option Nat) :
    Keeps s0 (State.corrected s tile word) := by
  unfold State.corrected
  repeat' first
    | with_reducible first
      | assumption | (intro)
      | (extract_lets +onlyGivenNames x; first | (refine Keeps.cut x ?_ ?_; subst x; rotate_left; intro; clear_value x) | (refine Keeps.cut x.2 ?_ ?_; subst x; rotate_left; intro; clear_value x) | (refine Keeps.cut x.1 ?_ ?_; subst x; rotate_left; intro; clear_value x) | clear_value x)
      | apply State.bump_keeps | apply State.errorFence_keeps | apply Keeps.ite | (fail_if_no_progress apply Keeps.mk0)
    | with_reducible (refine Keeps.ofFst (by assumption) ?_) | with_reducible (refine Keeps.ofSnd (by assumption) ?_)
    | split

theorem State.withEcc_keeps {s0 s : State} (h : Keeps s0 s) (tile : Nat) (ecc : StoreEcc) {f : State → State}
    (hf : ∀ t, Keeps s0 t → Keeps s0 (f t)) : Keeps s0 (s.withEcc tile ecc f) := by
  cases ecc
  · exact hf s h
  · exact State.corrected_keeps (hf s h) _ _
  · exact hf s h
  · exact State.errorFence_keeps h _ _ _

theorem execFenceDrainTimeout_keeps {s0 s : State} (h : Keeps s0 s) (tile : Nat) :
    KeepsOut s0 (execFenceDrainTimeout tile s) := by
  unfold execFenceDrainTimeout
  repeat' first
    | with_reducible first
      | assumption | (intro)
      | (extract_lets +onlyGivenNames x; first | (refine Keeps.cut x ?_ ?_; subst x; rotate_left; intro; clear_value x) | (refine Keeps.cut x.2 ?_ ?_; subst x; rotate_left; intro; clear_value x) | (refine Keeps.cut x.1 ?_ ?_; subst x; rotate_left; intro; clear_value x) | (refine KeepsOut.cut x ?_ ?_; subst x; rotate_left; intro; clear_value x) | (refine KeepsOut.cut x.2 ?_ ?_; subst x; rotate_left; intro; clear_value x) | clear_value x)
      | apply guardUnit_keeps | apply KeepsOut.next | exact KeepsOut.fault | apply KeepsOut.ite | apply State.faultWith_keeps
      | apply State.setTile_keeps | apply Keeps.ite | (fail_if_no_progress apply Keeps.mk0)
    | with_reducible (refine Keeps.ofFst (by assumption) ?_) | with_reducible (refine Keeps.ofSnd (by assumption) ?_)
    | split

end Sys2Proof.Machine
end

