-- ==== Sys2Proof/Laws/KeepHbm.lean ====
section
/-! SUPPORT. What the operations of Machine/Hbm.lean keep (see Laws/Keep.lean). -/

set_option linter.all false

namespace Sys2Proof.Machine

theorem State.modStack_keeps {s0 s : State} (h : Keeps s0 s) (i : Nat) (f : Stack → Stack) :
    Keeps s0 (State.modStack s i f) := by
  unfold State.modStack
  repeat' first
    | exact id | exact fun w => Sparse.set_wf w _ _ | exact fun w => Sparse.clear_wf w _ | exact fun w => Sparse.mapVals_wf w _
    | exact fun _ => rfl | exact fun w => Sparse.setRange_wf _ w _ | exact fun w => Sparse.foldl_set_wf _ _ _ w
    | with_reducible first
      | assumption | (intro) | apply Keeps.ite | (fail_if_no_progress apply Keeps.mk0)
    | with_reducible ((fail_if_success apply Keeps.mk0); apply Keeps.mk1)
    | split

theorem State.raiseStack_keeps {s0 s : State} (h : Keeps s0 s) (e : Ev) (i : Nat) :
    Keeps s0 (State.raiseStack s e i) := by
  unfold State.raiseStack
  repeat' first
    | with_reducible first
      | assumption | (intro) | apply State.raiseTo_keeps | apply Keeps.ite
    | split

theorem State.scheduleRow_keeps {s0 s : State} (h : Keeps s0 s) (stack row : Nat) :
    Keeps s0 (State.scheduleRow s stack row) := by
  unfold State.scheduleRow
  repeat' first
    | with_reducible first
      | assumption | (intro) | apply State.modStack_keeps | apply Keeps.ite
      | (fail_if_no_progress apply Keeps.mk0)
    | split

theorem State.showRebuild_keeps {s0 s : State} (h : Keeps s0 s) (stack : Nat) :
    Keeps s0 (State.showRebuild s stack) := by
  unfold State.showRebuild
  repeat' first
    | with_reducible first
      | assumption | (intro) | apply State.fset_keeps | apply Keeps.ite
    | split

theorem State.hurtArena_keeps {s0 s : State} (h : Keeps s0 s) (d a : Nat) :
    Keeps s0 (State.hurtArena s d a) := by
  unfold State.hurtArena
  repeat' first
    | with_reducible first
      | assumption | (intro)
      | (extract_lets +onlyGivenNames x; first | (refine Keeps.cut x ?_ ?_; subst x; rotate_left; intro; clear_value x) | (refine Keeps.cut x.2 ?_ ?_; subst x; rotate_left; intro; clear_value x) | (refine Keeps.cut x.1 ?_ ?_; subst x; rotate_left; intro; clear_value x) | clear_value x)
      | apply State.each_keeps | apply State.modCtx_keeps | apply State.setDeckle_keeps | apply State.showRebuild_keeps
      | apply Keeps.foldl | apply Keeps.foldlFst | apply Keeps.foldlSnd | apply Keeps.ite | (fail_if_no_progress apply Keeps.mk0)
    | with_reducible (refine Keeps.ofFst (by assumption) ?_) | with_reducible (refine Keeps.ofSnd (by assumption) ?_)
    | split

theorem State.loseHbm_keeps {s0 s : State} (h : Keeps s0 s) (d stack : Nat) :
    Keeps s0 (State.loseHbm s d stack) := by
  unfold State.loseHbm
  repeat' first
    | with_reducible first
      | assumption | (intro)
      | (extract_lets +onlyGivenNames x; first | (refine Keeps.cut x ?_ ?_; subst x; rotate_left; intro; clear_value x) | clear_value x)
      | apply State.each_keeps | apply State.faultWith_keeps | apply State.modCtx_keeps | apply State.setDeckle_keeps
      | apply Keeps.ite | (fail_if_no_progress apply Keeps.mk0)
    | split

theorem State.failHalf_keeps {s0 s : State} (h : Keeps s0 s) (stack half : Nat) :
    Keeps s0 (State.failHalf s stack half) := by
  unfold State.failHalf
  repeat' first
    | with_reducible first
      | assumption | (intro)
      | (extract_lets +onlyGivenNames x; first | (refine Keeps.cut x ?_ ?_; subst x; rotate_left; intro; clear_value x) | clear_value x)
      | apply State.brokeAdd_keeps | apply State.each_keeps | apply State.fset_keeps | apply State.loseHbm_keeps
      | apply State.raiseStack_keeps | apply State.when_keeps | apply Keeps.ite
    | split

theorem State.poisonUnit_keeps {s0 s : State} (h : Keeps s0 s) (stack channel choff : Nat) :
    Keeps s0 (State.poisonUnit s stack channel choff) := by
  unfold State.poisonUnit
  repeat' first
    | exact id | exact fun w => Sparse.set_wf w _ _ | exact fun w => Sparse.clear_wf w _ | exact fun w => Sparse.mapVals_wf w _
    | exact fun _ => rfl | exact fun w => Sparse.setRange_wf _ w _ | exact fun w => Sparse.foldl_set_wf _ _ _ w
    | with_reducible first
      | assumption | (intro)
      | (extract_lets +onlyGivenNames x; first | (refine Keeps.cut x ?_ ?_; subst x; rotate_left; intro; clear_value x) | (refine Keeps.cut x.2 ?_ ?_; subst x; rotate_left; intro; clear_value x) | (refine Keeps.cut x.1 ?_ ?_; subst x; rotate_left; intro; clear_value x) | clear_value x)
      | apply State.bump_keeps | apply State.each_keeps | apply State.failHalf_keeps | apply State.hurtArena_keeps
      | apply State.modStack_keeps | apply State.raiseStack_keeps | apply State.scheduleRow_keeps | apply State.setReg_keeps
      | apply State.when_keeps | apply Keeps.ite | (fail_if_no_progress apply Keeps.mk0)
    | with_reducible ((fail_if_success apply Keeps.mk0); apply Keeps.mk1)
    | with_reducible (refine Keeps.ofFst (by assumption) ?_) | with_reducible (refine Keeps.ofSnd (by assumption) ?_)
    | split

theorem State.rowError_keeps {s0 s : State} (h : Keeps s0 s) (stack row : Nat) :
    Keeps s0 (State.rowError s stack row) := by
  unfold State.rowError
  repeat' first
    | with_reducible first
      | assumption | (intro)
      | (extract_lets +onlyGivenNames x; first | (refine Keeps.cut x ?_ ?_; subst x; rotate_left; intro; clear_value x) | (refine Keeps.cut x.2 ?_ ?_; subst x; rotate_left; intro; clear_value x) | (refine Keeps.cut x.1 ?_ ?_; subst x; rotate_left; intro; clear_value x) | clear_value x)
      | apply State.modStack_keeps | apply State.scheduleRow_keeps | apply State.when_keeps | apply Keeps.ite
      | (fail_if_no_progress apply Keeps.mk0)
    | with_reducible (refine Keeps.ofFst (by assumption) ?_) | with_reducible (refine Keeps.ofSnd (by assumption) ?_)
    | split

theorem State.eccFound_keeps {s0 s : State} (h : Keeps s0 s) (symbols : Nat) :
    Keeps s0 (State.eccFound s symbols).2 := by
  unfold State.eccFound
  repeat' first
    | with_reducible first
      | assumption | (intro)
      | (extract_lets +onlyGivenNames x; first | (refine Keeps.cut x ?_ ?_; subst x; rotate_left; intro; clear_value x) | (refine Keeps.cut x.2 ?_ ?_; subst x; rotate_left; intro; clear_value x) | (refine Keeps.cut x.1 ?_ ?_; subst x; rotate_left; intro; clear_value x) | clear_value x)
      | apply State.corrected_keeps | apply State.free_keeps | apply Keeps.ite | apply Keeps.iteFst | apply Keeps.iteSnd
      | (fail_if_no_progress apply Keeps.mk0)
    | with_reducible (refine Keeps.ofFst (by assumption) ?_) | with_reducible (refine Keeps.ofSnd (by assumption) ?_)
    | split

theorem State.demandUnit_keeps {s0 s : State} (h : Keeps s0 s) (d a symbols : Nat) :
    Keeps s0 (State.demandUnit s d a symbols) := by
  unfold State.demandUnit
  repeat' first
    | with_reducible first
      | assumption | (intro)
      | (extract_lets +onlyGivenNames x; first | (refine Keeps.cut x ?_ ?_; subst x; rotate_left; intro; clear_value x) | (refine Keeps.cut x.2 ?_ ?_; subst x; rotate_left; intro; clear_value x) | (refine Keeps.cut x.1 ?_ ?_; subst x; rotate_left; intro; clear_value x) | clear_value x)
      | apply State.bump_keeps | apply State.corrected_keeps | apply State.eccFound_keeps | apply State.poisonUnit_keeps
      | apply State.rowError_keeps | apply Keeps.ite | apply Keeps.iteFst | apply Keeps.iteSnd
      | (fail_if_no_progress apply Keeps.mk0)
    | with_reducible (refine Keeps.ofFst (by assumption) ?_) | with_reducible (refine Keeps.ofSnd (by assumption) ?_)
    | split

theorem State.demandRead_keeps {s0 s : State} (h : Keeps s0 s) (d a n : Nat) (errs : List (Nat × Nat)) :
    Keeps s0 (State.demandRead s d a n errs) := by
  unfold State.demandRead
  repeat' first
    | with_reducible first
      | assumption | (intro)
      | (extract_lets +onlyGivenNames x; first | (refine Keeps.cut x ?_ ?_; subst x; rotate_left; intro; clear_value x) | (refine Keeps.cut x.2 ?_ ?_; subst x; rotate_left; intro; clear_value x) | (refine Keeps.cut x.1 ?_ ?_; subst x; rotate_left; intro; clear_value x) | clear_value x)
      | apply State.demandUnit_keeps | apply State.each_keeps | apply Keeps.ite
    | with_reducible (refine Keeps.ofFst (by assumption) ?_) | with_reducible (refine Keeps.ofSnd (by assumption) ?_)
    | split

end Sys2Proof.Machine
end

