-- ==== Sys2Proof/Laws/KeepFabric.lean ====
section
/-! SUPPORT. What the operations of Machine/Fabric.lean keep (see Laws/Keep.lean). -/

set_option linter.all false

namespace Sys2Proof.Machine

theorem State.coalesce_keeps {s0 s t : State} (h : Keeps s0 s) {iod dst vc seq addr : Nat} {data : List Byte} {flagged : Bool}
    (e : State.coalesce s iod dst vc seq addr data flagged = some t) : Keeps s0 t := by
  simp only [State.coalesce] at e
  split at e
  · split at e
    · cases e; exact State.when_keeps (fun u k => State.bump_keeps k _ _) (State.setRouter_keeps h _ _)
    · cases e
  · cases e

theorem State.coalesceBind_keeps {s0 s t : State} (h : Keeps s0 s) {iod dst vc addr : Nat} {data : List Byte} {flagged : Bool}
    {o : Option Nat} (e : (o.bind fun q => State.coalesce s iod dst vc q addr data flagged) = some t) : Keeps s0 t := by
  cases o with
  | none => cases e
  | some q => exact State.coalesce_keeps h e

end Sys2Proof.Machine
end

