-- ==== Sys2Proof/Laws/KeepSequencer.lean ====
section
/-! SUPPORT. What the operations of Machine/Sequencer.lean keep (see Laws/Keep.lean). -/

set_option linter.all false

namespace Sys2Proof.Machine

theorem seqRow_keeps {s0 s : State} (h : Keeps s0 s) {op tile : Nat} {f : Run → SeqInstr → State}
    (hf : ∀ r i, Keeps s0 (f r i)) : KeepsOut s0 (seqRow op tile s f) := by
  unfold seqRow
  apply guardUnit_keeps
  split
  · exact h
  · exact Keeps.ite (hf _ _) h

theorem State.seqPut_keeps {s0 s : State} (h : Keeps s0 s) (tile rd : Nat) (v : Word) :
    Keeps s0 (State.seqPut s tile rd v) := by
  unfold State.seqPut
  repeat' first
    | with_reducible first
      | assumption | (intro) | apply State.setTile_keeps | apply Keeps.ite
    | split

theorem seqAlu_keeps {s0 s : State} (h : Keeps s0 s) (op : Nat) (f : Word → Word → Word) (tile : Nat) :
    KeepsOut s0 (seqAlu op f tile s) := by
  unfold seqAlu
  repeat' first
    | with_reducible first
      | assumption | (intro) | apply KeepsOut.next | exact KeepsOut.fault | apply KeepsOut.ite
      | apply State.seqPut_keeps | apply seqRow_keeps | apply Keeps.ite
    | split

theorem seqImm_keeps {s0 s : State} (h : Keeps s0 s) (op : Nat) (f : Word → Word → Word) (tile : Nat) :
    KeepsOut s0 (seqImm op f tile s) := by
  unfold seqImm
  repeat' first
    | with_reducible first
      | assumption | (intro) | apply KeepsOut.next | exact KeepsOut.fault | apply KeepsOut.ite
      | apply State.seqPut_keeps | apply seqRow_keeps | apply Keeps.ite
    | split

theorem State.seqJump_keeps {s0 s : State} (h : Keeps s0 s) (tile : Nat) (r : Run) (target : Int) (f : Tile → Tile) :
    Keeps s0 (State.seqJump s tile r target f) := by
  unfold State.seqJump
  repeat' first
    | with_reducible first
      | assumption | (intro)
      | (extract_lets +onlyGivenNames x; first | (refine Keeps.cut x ?_ ?_; subst x; rotate_left; intro; clear_value x) | clear_value x)
      | apply State.seqFault_keeps | apply State.setTile_keeps | apply Keeps.ite | (fail_if_no_progress apply Keeps.mk0)
    | split

theorem seqBranch_keeps {s0 s : State} (h : Keeps s0 s) (op : Nat) (rel : Word → Word → Bool) (tile : Nat) :
    KeepsOut s0 (seqBranch op rel tile s) := by
  unfold seqBranch
  repeat' first
    | with_reducible first
      | assumption | (intro)
      | (extract_lets +onlyGivenNames x; first | (refine Keeps.cut x ?_ ?_; subst x; rotate_left; intro; clear_value x) | (refine KeepsOut.cut x ?_ ?_; subst x; rotate_left; intro; clear_value x) | clear_value x)
      | apply KeepsOut.next | exact KeepsOut.fault | apply KeepsOut.ite | apply State.seqJump_keeps | apply seqRow_keeps
      | apply State.setTile_keeps | apply Keeps.ite
    | (show Keeps s0 _; assumption)
    | split

theorem State.engineWrite_keeps {s0 s : State} (h : Keeps s0 s) (tile k a : Nat) (d : List Byte) :
    Keeps s0 (State.engineWrite s tile k a d) := by
  unfold State.engineWrite
  repeat' first
    | with_reducible first
      | assumption | (intro)
      | (extract_lets +onlyGivenNames x; first | (refine Keeps.cut x ?_ ?_; subst x; rotate_left; intro; clear_value x) | (refine Keeps.cut x.2 ?_ ?_; subst x; rotate_left; intro; clear_value x) | (refine Keeps.cut x.1 ?_ ?_; subst x; rotate_left; intro; clear_value x) | clear_value x)
      | apply State.setTile_keeps | apply State.spadWrite_keeps | apply Keeps.ite | (fail_if_no_progress apply Keeps.mk0)
    | with_reducible (refine Keeps.ofFst (by assumption) ?_) | with_reducible (refine Keeps.ofSnd (by assumption) ?_)
    | split

theorem State.settleUnits_keeps {s0 s : State} (h : Keeps s0 s) (tile : Nat) (l : List (Nat × Nat × List Byte)) :
    Keeps s0 (State.settleUnits tile l s) := by
  induction l generalizing s with
  | nil => exact h
  | cons u rest ih =>
    have k : Keeps s0 s.free.2 := State.free_keeps h
    exact Keeps.ite (ih (State.setTile_keeps k _ _)) (ih (State.spadWrite_keeps k _ _ _))

theorem State.blur_keeps {s0 s : State} (h : Keeps s0 s) (tile : Nat) :
    Keeps s0 (State.blur s tile) := by
  unfold State.blur
  repeat' first
    | with_reducible first
      | assumption | (intro)
      | (extract_lets +onlyGivenNames x; first | (refine Keeps.cut x ?_ ?_; subst x; rotate_left; intro; clear_value x) | (refine Keeps.cut x.2 ?_ ?_; subst x; rotate_left; intro; clear_value x) | (refine Keeps.cut x.1 ?_ ?_; subst x; rotate_left; intro; clear_value x) | clear_value x)
      | apply State.setTile_keeps | apply State.settleUnits_keeps | apply Keeps.ite | apply Keeps.iteFst | apply Keeps.iteSnd
      | (fail_if_no_progress apply Keeps.mk0)
    | with_reducible (refine Keeps.ofFst (by assumption) ?_) | with_reducible (refine Keeps.ofSnd (by assumption) ?_)
    | split

theorem State.land_keeps {s0 s : State} (h : Keeps s0 s) (tile k : Nat) :
    Keeps s0 (State.land s tile k) := by
  unfold State.land
  repeat' first
    | with_reducible first
      | assumption | (intro)
      | (extract_lets +onlyGivenNames x; first | (refine Keeps.cut x ?_ ?_; subst x; rotate_left; intro; clear_value x) | (refine Keeps.cut x.2 ?_ ?_; subst x; rotate_left; intro; clear_value x) | (refine Keeps.cut x.1 ?_ ?_; subst x; rotate_left; intro; clear_value x) | clear_value x)
      | apply State.setTile_keeps | apply State.spadWrite_keeps | apply Keeps.foldl | apply Keeps.foldlFst | apply Keeps.foldlSnd
      | apply Keeps.ite | (fail_if_no_progress apply Keeps.mk0)
    | with_reducible (refine Keeps.ofFst (by assumption) ?_) | with_reducible (refine Keeps.ofSnd (by assumption) ?_)
    | split

theorem State.spadAccess_keeps {s0 s : State} (h : Keeps s0 s) {tile : Nat} {r : Run} {i : SeqInstr} {ecc : StoreEcc}
    {f : Nat → State → State} (hf : ∀ a t, Keeps s0 t → Keeps s0 (f a t)) : Keeps s0 (s.spadAccess tile r i ecc f) := by
  unfold State.spadAccess
  exact Keeps.ite (State.seqFault_keeps h _ _ _ _) (Keeps.ite (State.accessFault_keeps h _ _ _ _ _)
    (State.withEcc_keeps (State.blur_keeps h _) _ _ (hf _)))

theorem State.l1Access_keeps {s0 s : State} (h : Keeps s0 s) (tile : Nat) (i : SeqInstr) (l : Line) :
    Keeps s0 (State.l1Access s tile i l) := by
  unfold State.l1Access
  repeat' first
    | with_reducible first
      | assumption | (intro)
      | (extract_lets +onlyGivenNames x; first | (refine Keeps.cut x ?_ ?_; subst x; rotate_left; intro; clear_value x) | clear_value x)
      | apply State.setTile_keeps | apply Keeps.ite
    | split

theorem State.refetch_keeps {s0 s : State} (h : Keeps s0 s) (tile : Nat) (l : Line) :
    Keeps s0 (State.refetch s tile l) := by
  unfold State.refetch
  repeat' first
    | with_reducible first
      | assumption | (intro)
      | (extract_lets +onlyGivenNames x; first | (refine Keeps.cut x ?_ ?_; subst x; rotate_left; intro; clear_value x) | clear_value x)
      | apply State.setTile_keeps | apply Keeps.ite | (fail_if_no_progress apply Keeps.mk0)
    | split

theorem State.globalAccess_keeps {s0 s : State} (h : Keeps s0 s) (tile : Nat) (r : Run) (i : SeqInstr) (ecc : StoreEcc) :
    Keeps s0 (State.globalAccess s tile r i ecc) := by
  unfold State.globalAccess
  repeat' first
    | with_reducible first
      | assumption | (intro)
      | (extract_lets +onlyGivenNames x; first | (refine Keeps.cut x ?_ ?_; subst x; rotate_left; intro; clear_value x) | clear_value x)
      | apply State.accessFault_keeps | apply State.confineFault_keeps | apply State.corrected_keeps
      | apply State.errorFence_keeps | apply State.l1Access_keeps | apply State.refetch_keeps | apply State.seqFault_keeps
      | apply State.setTile_keeps | apply Keeps.ite | (fail_if_no_progress apply Keeps.mk0)
    | split

theorem State.cacheOp_keeps {s0 s : State} (h : Keeps s0 s) (tile : Nat) (r : Run) (i : SeqInstr) (wb drop : Bool) :
    Keeps s0 (State.cacheOp s tile r i wb drop) := by
  unfold State.cacheOp
  repeat' first
    | with_reducible first
      | assumption | (intro)
      | (extract_lets +onlyGivenNames x; first | (refine Keeps.cut x ?_ ?_; subst x; rotate_left; intro; clear_value x) | clear_value x)
      | apply State.confineFault_keeps | apply State.setTile_keeps | apply State.writeBackAll_keeps | apply Keeps.ite
      | (fail_if_no_progress apply Keeps.mk0)
    | split

theorem State.special_keeps {s0 s : State} (h : Keeps s0 s) (tile : Nat) (r : Run) (sel : Nat) :
    Keeps s0 (State.special s tile r sel).2 := by
  unfold State.special
  dsimp only
  repeat' first
    | with_reducible first
      | assumption | (intro)
      | (extract_lets +onlyGivenNames x; first | (refine Keeps.cut x ?_ ?_; subst x; rotate_left; intro; clear_value x) | (refine Keeps.cut x.2 ?_ ?_; subst x; rotate_left; intro; clear_value x) | (refine Keeps.cut x.1 ?_ ?_; subst x; rotate_left; intro; clear_value x) | subst x)
      | apply State.free_keeps | apply Keeps.ite | apply Keeps.iteFst | apply Keeps.iteSnd
    | with_reducible (refine Keeps.ofFst (by assumption) ?_) | with_reducible (refine Keeps.ofSnd (by assumption) ?_)
    | split

theorem execSeqAdd_keeps {s0 s : State} (h : Keeps s0 s) (tile : Nat) :
    KeepsOut s0 (execSeqAdd tile s) := by
  unfold execSeqAdd
  repeat' first
    | with_reducible first
      | assumption | (intro) | apply KeepsOut.next | exact KeepsOut.fault | apply KeepsOut.ite
      | apply seqAlu_keeps | apply Keeps.ite
    | split

theorem execSeqSub_keeps {s0 s : State} (h : Keeps s0 s) (tile : Nat) :
    KeepsOut s0 (execSeqSub tile s) := by
  unfold execSeqSub
  repeat' first
    | with_reducible first
      | assumption | (intro) | apply KeepsOut.next | exact KeepsOut.fault | apply KeepsOut.ite
      | apply seqAlu_keeps | apply Keeps.ite
    | split

theorem execSeqMul_keeps {s0 s : State} (h : Keeps s0 s) (tile : Nat) :
    KeepsOut s0 (execSeqMul tile s) := by
  unfold execSeqMul
  repeat' first
    | with_reducible first
      | assumption | (intro) | apply KeepsOut.next | exact KeepsOut.fault | apply KeepsOut.ite
      | apply seqAlu_keeps | apply Keeps.ite
    | split

theorem execAnd_keeps {s0 s : State} (h : Keeps s0 s) (tile : Nat) :
    KeepsOut s0 (execAnd tile s) := by
  unfold execAnd
  repeat' first
    | with_reducible first
      | assumption | (intro) | apply KeepsOut.next | exact KeepsOut.fault | apply KeepsOut.ite
      | apply seqAlu_keeps | apply Keeps.ite
    | split

theorem execOr_keeps {s0 s : State} (h : Keeps s0 s) (tile : Nat) :
    KeepsOut s0 (execOr tile s) := by
  unfold execOr
  repeat' first
    | with_reducible first
      | assumption | (intro) | apply KeepsOut.next | exact KeepsOut.fault | apply KeepsOut.ite
      | apply seqAlu_keeps | apply Keeps.ite
    | split

theorem execXor_keeps {s0 s : State} (h : Keeps s0 s) (tile : Nat) :
    KeepsOut s0 (execXor tile s) := by
  unfold execXor
  repeat' first
    | with_reducible first
      | assumption | (intro) | apply KeepsOut.next | exact KeepsOut.fault | apply KeepsOut.ite
      | apply seqAlu_keeps | apply Keeps.ite
    | split

theorem execShl_keeps {s0 s : State} (h : Keeps s0 s) (tile : Nat) :
    KeepsOut s0 (execShl tile s) := by
  unfold execShl
  repeat' first
    | with_reducible first
      | assumption | (intro) | apply KeepsOut.next | exact KeepsOut.fault | apply KeepsOut.ite
      | apply seqAlu_keeps | apply Keeps.ite
    | split

theorem execShr_keeps {s0 s : State} (h : Keeps s0 s) (tile : Nat) :
    KeepsOut s0 (execShr tile s) := by
  unfold execShr
  repeat' first
    | with_reducible first
      | assumption | (intro) | apply KeepsOut.next | exact KeepsOut.fault | apply KeepsOut.ite
      | apply seqAlu_keeps | apply Keeps.ite
    | split

theorem execSra_keeps {s0 s : State} (h : Keeps s0 s) (tile : Nat) :
    KeepsOut s0 (execSra tile s) := by
  unfold execSra
  repeat' first
    | with_reducible first
      | assumption | (intro) | apply KeepsOut.next | exact KeepsOut.fault | apply KeepsOut.ite
      | apply seqAlu_keeps | apply Keeps.ite
    | split

theorem execMin_keeps {s0 s : State} (h : Keeps s0 s) (tile : Nat) :
    KeepsOut s0 (execMin tile s) := by
  unfold execMin
  repeat' first
    | with_reducible first
      | assumption | (intro) | apply KeepsOut.next | exact KeepsOut.fault | apply KeepsOut.ite
      | apply seqAlu_keeps | apply Keeps.ite
    | split

theorem execMax_keeps {s0 s : State} (h : Keeps s0 s) (tile : Nat) :
    KeepsOut s0 (execMax tile s) := by
  unfold execMax
  repeat' first
    | with_reducible first
      | assumption | (intro) | apply KeepsOut.next | exact KeepsOut.fault | apply KeepsOut.ite
      | apply seqAlu_keeps | apply Keeps.ite
    | split

theorem execSlt_keeps {s0 s : State} (h : Keeps s0 s) (tile : Nat) :
    KeepsOut s0 (execSlt tile s) := by
  unfold execSlt
  repeat' first
    | with_reducible first
      | assumption | (intro) | apply KeepsOut.next | exact KeepsOut.fault | apply KeepsOut.ite
      | apply seqAlu_keeps | apply Keeps.ite
    | split

theorem execSltu_keeps {s0 s : State} (h : Keeps s0 s) (tile : Nat) :
    KeepsOut s0 (execSltu tile s) := by
  unfold execSltu
  repeat' first
    | with_reducible first
      | assumption | (intro) | apply KeepsOut.next | exact KeepsOut.fault | apply KeepsOut.ite
      | apply seqAlu_keeps | apply Keeps.ite
    | split

theorem execSeq_keeps {s0 s : State} (h : Keeps s0 s) (tile : Nat) :
    KeepsOut s0 (execSeq tile s) := by
  unfold execSeq
  repeat' first
    | with_reducible first
      | assumption | (intro) | apply KeepsOut.next | exact KeepsOut.fault | apply KeepsOut.ite
      | apply seqAlu_keeps | apply Keeps.ite
    | split

theorem execAddi_keeps {s0 s : State} (h : Keeps s0 s) (tile : Nat) :
    KeepsOut s0 (execAddi tile s) := by
  unfold execAddi
  repeat' first
    | with_reducible first
      | assumption | (intro) | apply KeepsOut.next | exact KeepsOut.fault | apply KeepsOut.ite
      | apply seqImm_keeps | apply Keeps.ite
    | split

theorem execAndi_keeps {s0 s : State} (h : Keeps s0 s) (tile : Nat) :
    KeepsOut s0 (execAndi tile s) := by
  unfold execAndi
  repeat' first
    | with_reducible first
      | assumption | (intro) | apply KeepsOut.next | exact KeepsOut.fault | apply KeepsOut.ite
      | apply seqImm_keeps | apply Keeps.ite
    | split

theorem execOri_keeps {s0 s : State} (h : Keeps s0 s) (tile : Nat) :
    KeepsOut s0 (execOri tile s) := by
  unfold execOri
  repeat' first
    | with_reducible first
      | assumption | (intro) | apply KeepsOut.next | exact KeepsOut.fault | apply KeepsOut.ite
      | apply seqImm_keeps | apply Keeps.ite
    | split

theorem execXori_keeps {s0 s : State} (h : Keeps s0 s) (tile : Nat) :
    KeepsOut s0 (execXori tile s) := by
  unfold execXori
  repeat' first
    | with_reducible first
      | assumption | (intro) | apply KeepsOut.next | exact KeepsOut.fault | apply KeepsOut.ite
      | apply seqImm_keeps | apply Keeps.ite
    | split

theorem execShli_keeps {s0 s : State} (h : Keeps s0 s) (tile : Nat) :
    KeepsOut s0 (execShli tile s) := by
  unfold execShli
  repeat' first
    | with_reducible first
      | assumption | (intro) | apply KeepsOut.next | exact KeepsOut.fault | apply KeepsOut.ite
      | apply seqImm_keeps | apply Keeps.ite
    | split

theorem execShri_keeps {s0 s : State} (h : Keeps s0 s) (tile : Nat) :
    KeepsOut s0 (execShri tile s) := by
  unfold execShri
  repeat' first
    | with_reducible first
      | assumption | (intro) | apply KeepsOut.next | exact KeepsOut.fault | apply KeepsOut.ite
      | apply seqImm_keeps | apply Keeps.ite
    | split

theorem execSrai_keeps {s0 s : State} (h : Keeps s0 s) (tile : Nat) :
    KeepsOut s0 (execSrai tile s) := by
  unfold execSrai
  repeat' first
    | with_reducible first
      | assumption | (intro) | apply KeepsOut.next | exact KeepsOut.fault | apply KeepsOut.ite
      | apply seqImm_keeps | apply Keeps.ite
    | split

theorem execSlti_keeps {s0 s : State} (h : Keeps s0 s) (tile : Nat) :
    KeepsOut s0 (execSlti tile s) := by
  unfold execSlti
  repeat' first
    | with_reducible first
      | assumption | (intro) | apply KeepsOut.next | exact KeepsOut.fault | apply KeepsOut.ite
      | apply seqImm_keeps | apply Keeps.ite
    | split

theorem execLil_keeps {s0 s : State} (h : Keeps s0 s) (tile : Nat) :
    KeepsOut s0 (execLil tile s) := by
  unfold execLil
  repeat' first
    | with_reducible first
      | assumption | (intro) | apply KeepsOut.next | exact KeepsOut.fault | apply KeepsOut.ite
      | apply State.seqPut_keeps | apply seqRow_keeps | apply Keeps.ite
    | split

theorem execLih_keeps {s0 s : State} (h : Keeps s0 s) (tile : Nat) :
    KeepsOut s0 (execLih tile s) := by
  unfold execLih
  repeat' first
    | with_reducible first
      | assumption | (intro) | apply KeepsOut.next | exact KeepsOut.fault | apply KeepsOut.ite
      | apply State.seqPut_keeps | apply seqRow_keeps | apply Keeps.ite
    | split

theorem execLds_keeps {s0 s : State} (h : Keeps s0 s) (tile : Nat) (ecc : StoreEcc) :
    KeepsOut s0 (execLds tile ecc s) := by
  unfold execLds
  repeat' first
    | with_reducible first
      | assumption | (intro) | apply KeepsOut.next | exact KeepsOut.fault | apply KeepsOut.ite
      | apply State.seqPut_keeps | apply seqRow_keeps | apply State.spadAccess_keeps | apply Keeps.ite
    | split

theorem execSts_keeps {s0 s : State} (h : Keeps s0 s) (tile : Nat) (ecc : StoreEcc) :
    KeepsOut s0 (execSts tile ecc s) := by
  unfold execSts
  repeat' first
    | with_reducible first
      | assumption | (intro) | apply KeepsOut.next | exact KeepsOut.fault | apply KeepsOut.ite
      | apply seqRow_keeps | apply State.setTile_keeps | apply State.spadAccess_keeps | apply State.spadWrite_keeps
      | apply Keeps.ite
    | split

theorem execLdg_keeps {s0 s : State} (h : Keeps s0 s) (tile : Nat) (ecc : StoreEcc) :
    KeepsOut s0 (execLdg tile ecc s) := by
  unfold execLdg
  repeat' first
    | with_reducible first
      | assumption | (intro) | apply KeepsOut.next | exact KeepsOut.fault | apply KeepsOut.ite
      | apply State.globalAccess_keeps | apply seqRow_keeps | apply Keeps.ite
    | split

theorem execStg_keeps {s0 s : State} (h : Keeps s0 s) (tile : Nat) (ecc : StoreEcc) :
    KeepsOut s0 (execStg tile ecc s) := by
  unfold execStg
  repeat' first
    | with_reducible first
      | assumption | (intro) | apply KeepsOut.next | exact KeepsOut.fault | apply KeepsOut.ite
      | apply State.globalAccess_keeps | apply seqRow_keeps | apply Keeps.ite
    | split

theorem execL1FillDone_keeps {s0 s : State} (h : Keeps s0 s) (tile : Nat) (errs : List (Nat × Nat)) :
    KeepsOut s0 (execL1FillDone tile errs s) := by
  unfold execL1FillDone
  repeat' first
    | with_reducible first
      | assumption | (intro)
      | (extract_lets +onlyGivenNames x; first | (refine Keeps.cut x ?_ ?_; subst x; rotate_left; intro; clear_value x) | (refine KeepsOut.cut x ?_ ?_; subst x; rotate_left; intro; clear_value x) | clear_value x)
      | apply guardUnit_keeps | apply KeepsOut.next | exact KeepsOut.fault | apply KeepsOut.ite | apply State.demandRead_keeps
      | apply State.l1Access_keeps | apply State.readFault_keeps | apply State.setTile_keeps | apply State.writeBack_keeps
      | apply Keeps.ite | (fail_if_no_progress apply Keeps.mk0)
    | split

theorem execBeq_keeps {s0 s : State} (h : Keeps s0 s) (tile : Nat) :
    KeepsOut s0 (execBeq tile s) := by
  unfold execBeq
  repeat' first
    | with_reducible first
      | assumption | (intro) | apply KeepsOut.next | exact KeepsOut.fault | apply KeepsOut.ite
      | apply seqBranch_keeps | apply Keeps.ite
    | split

theorem execBne_keeps {s0 s : State} (h : Keeps s0 s) (tile : Nat) :
    KeepsOut s0 (execBne tile s) := by
  unfold execBne
  repeat' first
    | with_reducible first
      | assumption | (intro) | apply KeepsOut.next | exact KeepsOut.fault | apply KeepsOut.ite
      | apply seqBranch_keeps | apply Keeps.ite
    | split

theorem execBlt_keeps {s0 s : State} (h : Keeps s0 s) (tile : Nat) :
    KeepsOut s0 (execBlt tile s) := by
  unfold execBlt
  repeat' first
    | with_reducible first
      | assumption | (intro) | apply KeepsOut.next | exact KeepsOut.fault | apply KeepsOut.ite
      | apply seqBranch_keeps | apply Keeps.ite
    | split

theorem execBge_keeps {s0 s : State} (h : Keeps s0 s) (tile : Nat) :
    KeepsOut s0 (execBge tile s) := by
  unfold execBge
  repeat' first
    | with_reducible first
      | assumption | (intro) | apply KeepsOut.next | exact KeepsOut.fault | apply KeepsOut.ite
      | apply seqBranch_keeps | apply Keeps.ite
    | split

theorem execBltu_keeps {s0 s : State} (h : Keeps s0 s) (tile : Nat) :
    KeepsOut s0 (execBltu tile s) := by
  unfold execBltu
  repeat' first
    | with_reducible first
      | assumption | (intro) | apply KeepsOut.next | exact KeepsOut.fault | apply KeepsOut.ite
      | apply seqBranch_keeps | apply Keeps.ite
    | split

theorem execBgeu_keeps {s0 s : State} (h : Keeps s0 s) (tile : Nat) :
    KeepsOut s0 (execBgeu tile s) := by
  unfold execBgeu
  repeat' first
    | with_reducible first
      | assumption | (intro) | apply KeepsOut.next | exact KeepsOut.fault | apply KeepsOut.ite
      | apply seqBranch_keeps | apply Keeps.ite
    | split

theorem execJmp_keeps {s0 s : State} (h : Keeps s0 s) (tile : Nat) :
    KeepsOut s0 (execJmp tile s) := by
  unfold execJmp
  repeat' first
    | with_reducible first
      | assumption | (intro) | apply KeepsOut.next | exact KeepsOut.fault | apply KeepsOut.ite
      | apply State.seqJump_keeps | apply seqRow_keeps | apply Keeps.ite
    | (show Keeps s0 _; assumption)
    | split

theorem execCall_keeps {s0 s : State} (h : Keeps s0 s) (tile : Nat) :
    KeepsOut s0 (execCall tile s) := by
  unfold execCall
  repeat' first
    | with_reducible first
      | assumption | (intro)
      | (extract_lets +onlyGivenNames x; first | (refine Keeps.cut x ?_ ?_; subst x; rotate_left; intro; clear_value x) | (refine KeepsOut.cut x ?_ ?_; subst x; rotate_left; intro; clear_value x) | clear_value x)
      | apply KeepsOut.next | exact KeepsOut.fault | apply KeepsOut.ite | apply State.seqFault_keeps | apply State.seqJump_keeps
      | apply seqRow_keeps | apply Keeps.ite | (fail_if_no_progress apply Keeps.mk0)
    | split

theorem execRet_keeps {s0 s : State} (h : Keeps s0 s) (tile : Nat) :
    KeepsOut s0 (execRet tile s) := by
  unfold execRet
  repeat' first
    | with_reducible first
      | assumption | (intro) | apply KeepsOut.next | exact KeepsOut.fault | apply KeepsOut.ite
      | apply State.seqFault_keeps | apply State.seqJump_keeps | apply seqRow_keeps | apply Keeps.ite
      | (fail_if_no_progress apply Keeps.mk0)
    | split

theorem State.issueAt_keeps {s0 s : State} (h : Keeps s0 s) (tile : Nat) (r : Run) (i : SeqInstr) (a : Nat) :
    Keeps s0 (State.issueAt tile r i a s) := by
  unfold State.issueAt
  repeat' first
    | with_reducible first
      | assumption | (intro)
      | (extract_lets +onlyGivenNames x; first | (refine Keeps.cut x ?_ ?_; subst x; rotate_left; intro; clear_value x) | clear_value x)
      | apply State.accessFault_keeps | apply State.seqFault_keeps | apply State.setQueue_keeps | apply State.setTile_keeps
      | apply Keeps.ite | (fail_if_no_progress apply Keeps.mk0)
    | split

theorem execIssue_keeps {s0 s : State} (h : Keeps s0 s) (tile : Nat) (ecc : StoreEcc) :
    KeepsOut s0 (execIssue tile ecc s) := by
  unfold execIssue
  repeat' first
    | with_reducible first
      | assumption | (intro)
      | (extract_lets +onlyGivenNames x; first | (refine Keeps.cut x ?_ ?_; subst x; rotate_left; intro; clear_value x) | (refine KeepsOut.cut x ?_ ?_; subst x; rotate_left; intro; clear_value x) | clear_value x)
      | apply KeepsOut.next | exact KeepsOut.fault | apply KeepsOut.ite | apply State.accessFault_keeps | apply State.blur_keeps
      | apply State.issueAt_keeps | apply State.seqFault_keeps | apply seqRow_keeps | apply State.withEcc_keeps | apply Keeps.ite
    | split

theorem State.signal_keeps {s0 s : State} (h : Keeps s0 s) (tile : Nat) (r : Run) (tok off : Nat) (k : Tile → Tile) :
    Keeps s0 (State.signal s tile r tok off k) := by
  unfold State.signal
  repeat' first
    | with_reducible first
      | assumption | (intro)
      | (extract_lets +onlyGivenNames x; first | (refine Keeps.cut x ?_ ?_; subst x; rotate_left; intro; clear_value x) | clear_value x)
      | apply State.bump_keeps | apply State.raiseTo_keeps | apply State.seqFault_keeps | apply State.setTile_keeps
      | apply Keeps.ite
    | split

theorem execSig_keeps {s0 s : State} (h : Keeps s0 s) (tile : Nat) :
    KeepsOut s0 (execSig tile s) := by
  unfold execSig
  repeat' first
    | with_reducible first
      | assumption | (intro) | apply KeepsOut.next | exact KeepsOut.fault | apply KeepsOut.ite
      | apply seqRow_keeps | apply State.signal_keeps | apply Keeps.ite
    | split

theorem execWait_keeps {s0 s : State} (h : Keeps s0 s) (tile : Nat) :
    KeepsOut s0 (execWait tile s) := by
  unfold execWait
  repeat' first
    | with_reducible first
      | assumption | (intro)
      | (extract_lets +onlyGivenNames x; first | (refine Keeps.cut x ?_ ?_; subst x; rotate_left; intro; clear_value x) | (refine KeepsOut.cut x ?_ ?_; subst x; rotate_left; intro; clear_value x) | clear_value x)
      | apply KeepsOut.next | exact KeepsOut.fault | apply KeepsOut.ite | apply seqRow_keeps | apply State.setTile_keeps
      | apply Keeps.ite | (fail_if_no_progress apply Keeps.mk0)
    | split

theorem execFence_keeps {s0 s : State} (h : Keeps s0 s) (tile : Nat) (readBack : Bool) :
    KeepsOut s0 (execFence tile readBack s) := by
  unfold execFence
  repeat' first
    | with_reducible first
      | assumption | (intro)
      | (extract_lets +onlyGivenNames x; first | (refine Keeps.cut x ?_ ?_; subst x; rotate_left; intro; clear_value x) | (refine KeepsOut.cut x ?_ ?_; subst x; rotate_left; intro; clear_value x) | clear_value x)
      | apply KeepsOut.next | exact KeepsOut.fault | apply KeepsOut.ite | apply seqRow_keeps | apply State.setTile_keeps
      | apply Keeps.ite | (fail_if_no_progress apply Keeps.mk0)
    | split

theorem execCinv_keeps {s0 s : State} (h : Keeps s0 s) (tile : Nat) :
    KeepsOut s0 (execCinv tile s) := by
  unfold execCinv
  repeat' first
    | with_reducible first
      | assumption | (intro) | apply KeepsOut.next | exact KeepsOut.fault | apply KeepsOut.ite
      | apply State.cacheOp_keeps | apply seqRow_keeps | apply Keeps.ite
    | split

theorem execCwb_keeps {s0 s : State} (h : Keeps s0 s) (tile : Nat) :
    KeepsOut s0 (execCwb tile s) := by
  unfold execCwb
  repeat' first
    | with_reducible first
      | assumption | (intro) | apply KeepsOut.next | exact KeepsOut.fault | apply KeepsOut.ite
      | apply State.cacheOp_keeps | apply seqRow_keeps | apply Keeps.ite
    | split

theorem execCwbi_keeps {s0 s : State} (h : Keeps s0 s) (tile : Nat) :
    KeepsOut s0 (execCwbi tile s) := by
  unfold execCwbi
  repeat' first
    | with_reducible first
      | assumption | (intro) | apply KeepsOut.next | exact KeepsOut.fault | apply KeepsOut.ite
      | apply State.cacheOp_keeps | apply seqRow_keeps | apply Keeps.ite
    | split

theorem execMovs_keeps {s0 s : State} (h : Keeps s0 s) (tile : Nat) :
    KeepsOut s0 (execMovs tile s) := by
  unfold execMovs
  repeat' first
    | with_reducible first
      | assumption | (intro)
      | (extract_lets +onlyGivenNames x; first | (refine Keeps.cut x ?_ ?_; subst x; rotate_left; intro; clear_value x) | (refine Keeps.cut x.2 ?_ ?_; subst x; rotate_left; intro; clear_value x) | (refine Keeps.cut x.1 ?_ ?_; subst x; rotate_left; intro; clear_value x) | (refine KeepsOut.cut x ?_ ?_; subst x; rotate_left; intro; clear_value x) | (refine KeepsOut.cut x.2 ?_ ?_; subst x; rotate_left; intro; clear_value x) | clear_value x)
      | apply KeepsOut.next | exact KeepsOut.fault | apply KeepsOut.ite | apply State.seqPut_keeps | apply seqRow_keeps
      | apply State.special_keeps | apply Keeps.ite | apply Keeps.iteFst | apply Keeps.iteSnd
    | with_reducible (refine Keeps.ofFst (by assumption) ?_) | with_reducible (refine Keeps.ofSnd (by assumption) ?_)
    | split

theorem execEnd_keeps {s0 s : State} (h : Keeps s0 s) (tile : Nat) :
    KeepsOut s0 (execEnd tile s) := by
  unfold execEnd
  repeat' first
    | with_reducible first
      | assumption | (intro) | apply KeepsOut.next | exact KeepsOut.fault | apply KeepsOut.ite
      | apply seqRow_keeps | apply State.setTile_keeps | apply Keeps.ite | (fail_if_no_progress apply Keeps.mk0)
    | split

theorem execReservedOpcode_keeps {s0 s : State} (h : Keeps s0 s) (tile : Nat) :
    KeepsOut s0 (execReservedOpcode tile s) := by
  unfold execReservedOpcode
  repeat' first
    | with_reducible first
      | assumption | (intro)
      | (extract_lets +onlyGivenNames x; first | (refine Keeps.cut x ?_ ?_; subst x; rotate_left; intro; clear_value x) | (refine KeepsOut.cut x ?_ ?_; subst x; rotate_left; intro; clear_value x) | clear_value x)
      | apply guardUnit_keeps | apply KeepsOut.next | exact KeepsOut.fault | apply KeepsOut.ite | apply State.seqFault_keeps
      | apply Keeps.ite | (fail_if_no_progress apply Keeps.mk0)
    | split

theorem execTileDeadlock_keeps {s0 s : State} (h : Keeps s0 s) (tile : Nat) :
    KeepsOut s0 (execTileDeadlock tile s) := by
  unfold execTileDeadlock
  repeat' first
    | with_reducible first
      | assumption | (intro)
      | (extract_lets +onlyGivenNames x; first | (refine Keeps.cut x ?_ ?_; subst x; rotate_left; intro; clear_value x) | (refine KeepsOut.cut x ?_ ?_; subst x; rotate_left; intro; clear_value x) | clear_value x)
      | apply guardUnit_keeps | apply KeepsOut.next | exact KeepsOut.fault | apply KeepsOut.ite | apply State.bump_keeps
      | apply State.raiseTo_keeps | apply State.seqFault_keeps | apply Keeps.ite | (fail_if_no_progress apply Keeps.mk0)
    | split

end Sys2Proof.Machine
end

