-- ==== Sys2Proof/Laws/KeepEngines.lean ====
section
/-! SUPPORT. What the operations of Machine/Engines.lean keep (see Laws/Keep.lean). -/

set_option linter.all false

namespace Sys2Proof.Machine

theorem execDescriptorStart_keeps {s0 s : State} (h : Keeps s0 s) (tile queue : Nat) :
    KeepsOut s0 (execDescriptorStart tile queue s) := by
  unfold execDescriptorStart
  repeat' first
    | with_reducible first
      | assumption | (intro)
      | (extract_lets +onlyGivenNames x; first | (refine Keeps.cut x ?_ ?_; subst x; rotate_left; intro; clear_value x) | (refine KeepsOut.cut x ?_ ?_; subst x; rotate_left; intro; clear_value x) | clear_value x)
      | apply guardUnit_keeps | apply KeepsOut.next | exact KeepsOut.fault | apply KeepsOut.ite | apply State.setTile_keeps
      | apply Keeps.ite | (fail_if_no_progress apply Keeps.mk0)
    | split

theorem execDescriptorComplete_keeps {s0 s : State} (h : Keeps s0 s) (tile queue : Nat) :
    KeepsOut s0 (execDescriptorComplete tile queue s) := by
  unfold execDescriptorComplete
  repeat' first
    | with_reducible first
      | assumption | (intro)
      | (extract_lets +onlyGivenNames x; first | (refine Keeps.cut x ?_ ?_; subst x; rotate_left; intro; clear_value x) | (refine KeepsOut.cut x ?_ ?_; subst x; rotate_left; intro; clear_value x) | clear_value x)
      | apply guardUnit_keeps | apply KeepsOut.next | exact KeepsOut.fault | apply KeepsOut.ite | apply State.land_keeps
      | apply State.setQueue_keeps | apply State.setTile_keeps | apply State.signal_keeps | apply Keeps.ite
      | (fail_if_no_progress apply Keeps.mk0)
    | (show Keeps s0 _; assumption)
    | split

/-- A scratchpad taken from another state that keeps. -/
theorem Keeps.withSpad {s0 s t : State} (h : Keeps s0 s) (k : Keeps s0 t) : Keeps s0 { s with spad := t.spad } :=
  ⟨h.pending, h.out, h.cmds, h.fresh, fun w => let c := h.canon w
    ⟨c.regs, c.flog, c.tiles, (k.canon w).spad, c.hbm, c.poison, c.ctxs, c.deckles, c.queues, c.sessions, c.stackTab, c.routers,
      c.ports, c.nor⟩⟩

theorem engineRow_keeps {s0 s : State} (h : Keeps s0 s) {queue tile : Nat} {ecc : StoreEcc} {p : QDesc → Bool}
    {f : QDesc → State → State} (hf : ∀ d t, Keeps s0 t → Keeps s0 (f d t)) : KeepsOut s0 (engineRow queue tile ecc s p f) := by
  unfold engineRow
  apply guardUnit_keeps
  split
  · refine Keeps.ite (State.withEcc_keeps (State.blur_keeps h _) _ _ fun t k => State.blur_keeps ?_ _) h
    exact Keeps.withSpad (hf _ t k) k
  · exact h

theorem State.putRows_keeps {s0 s : State} (h : Keeps s0 s) (tile : Nat) (el : Elem) (mode : Nat) (draws : Bool) (addr stride : Nat)
    (rows : List (List Num)) (st : Stream) (fl : Flags) : Keeps s0 (s.putRows tile el mode draws addr stride rows st fl).1 := by
  induction rows generalizing s st fl addr with
  | nil => exact h
  | cons r rest ih => exact ih (State.engineWrite_keeps h _ _ _ _) _ _ _

theorem execMatrixMultiply_keeps {s0 s : State} (h : Keeps s0 s) (tile : Nat) (ecc : StoreEcc) :
    KeepsOut s0 (execMatrixMultiply tile ecc s) := by
  unfold execMatrixMultiply
  repeat' first
    | with_reducible first
      | assumption | (intro)
      | (extract_lets +onlyGivenNames x; first | (refine Keeps.cut x ?_ ?_; subst x; rotate_left; intro; clear_value x) | (refine Keeps.cut x.2 ?_ ?_; subst x; rotate_left; intro; clear_value x) | (refine Keeps.cut x.1 ?_ ?_; subst x; rotate_left; intro; clear_value x) | (refine KeepsOut.cut x ?_ ?_; subst x; rotate_left; intro; clear_value x) | (refine KeepsOut.cut x.2 ?_ ?_; subst x; rotate_left; intro; clear_value x) | clear_value x)
      | apply KeepsOut.next | exact KeepsOut.fault | apply KeepsOut.ite | apply engineRow_keeps | apply State.putRows_keeps
      | apply State.setTile_keeps | apply Keeps.foldl | apply Keeps.foldlFst | apply Keeps.foldlSnd | apply Keeps.ite
      | apply Keeps.iteFst | apply Keeps.iteSnd | (fail_if_no_progress apply Keeps.mk0)
    | with_reducible (refine Keeps.ofFst (by assumption) ?_) | with_reducible (refine Keeps.ofSnd (by assumption) ?_)
    | split

theorem State.vecStep_keeps {s0 s : State} (h : Keeps s0 s) (tile : Nat) (v : VectorDesc) (i : Nat) (st : Stream) (fl : Flags) :
    Keeps s0 (State.vecStep s tile v i st fl).1 := by
  unfold State.vecStep
  repeat' first
    | with_reducible first
      | assumption | (intro)
      | (extract_lets +onlyGivenNames x; first | (refine Keeps.cut x ?_ ?_; subst x; rotate_left; intro; clear_value x) | (refine Keeps.cut x.2 ?_ ?_; subst x; rotate_left; intro; clear_value x) | (refine Keeps.cut x.1 ?_ ?_; subst x; rotate_left; intro; clear_value x) | clear_value x)
      | apply State.engineWrite_keeps | apply State.when_keeps | apply Keeps.ite | apply Keeps.iteFst | apply Keeps.iteSnd
    | with_reducible (refine Keeps.ofFst (by assumption) ?_) | with_reducible (refine Keeps.ofSnd (by assumption) ?_)
    | split

theorem State.vecRows_keeps {s0 : State} (tile : Nat) (v : VectorDesc) (n i : Nat) (w : State × Stream × Flags) (h : Keeps s0 w.1) :
    Keeps s0 (State.vecRows tile v n i w).1 := by
  induction n generalizing i w with
  | zero => exact h
  | succ n ih => exact ih _ _ (State.vecStep_keeps h _ _ _ _ _)

theorem vectorRow_keeps {s0 s : State} (h : Keeps s0 s) (op tile : Nat) (ecc : StoreEcc) :
    KeepsOut s0 (vectorRow op tile ecc s) := by
  unfold vectorRow
  repeat' first
    | with_reducible first
      | assumption | (intro)
      | (extract_lets +onlyGivenNames x; first | (refine Keeps.cut x ?_ ?_; subst x; rotate_left; intro; clear_value x) | (refine Keeps.cut x.2 ?_ ?_; subst x; rotate_left; intro; clear_value x) | (refine Keeps.cut x.1 ?_ ?_; subst x; rotate_left; intro; clear_value x) | (refine KeepsOut.cut x ?_ ?_; subst x; rotate_left; intro; clear_value x) | (refine KeepsOut.cut x.2 ?_ ?_; subst x; rotate_left; intro; clear_value x) | clear_value x)
      | apply KeepsOut.next | exact KeepsOut.fault | apply KeepsOut.ite | apply engineRow_keeps | apply State.setTile_keeps
      | apply State.vecRows_keeps | apply Keeps.ite | apply Keeps.iteFst | apply Keeps.iteSnd
      | (fail_if_no_progress apply Keeps.mk0)
    | with_reducible (refine Keeps.ofFst (by assumption) ?_) | with_reducible (refine Keeps.ofSnd (by assumption) ?_)
    | split

theorem execVecAdd_keeps {s0 s : State} (h : Keeps s0 s) (tile : Nat) (ecc : StoreEcc) :
    KeepsOut s0 (execVecAdd tile ecc s) := by
  unfold execVecAdd
  repeat' first
    | with_reducible first
      | assumption | (intro) | apply KeepsOut.next | exact KeepsOut.fault | apply KeepsOut.ite
      | apply vectorRow_keeps | apply Keeps.ite
    | split

theorem execVecSub_keeps {s0 s : State} (h : Keeps s0 s) (tile : Nat) (ecc : StoreEcc) :
    KeepsOut s0 (execVecSub tile ecc s) := by
  unfold execVecSub
  repeat' first
    | with_reducible first
      | assumption | (intro) | apply KeepsOut.next | exact KeepsOut.fault | apply KeepsOut.ite
      | apply vectorRow_keeps | apply Keeps.ite
    | split

theorem execVecMul_keeps {s0 s : State} (h : Keeps s0 s) (tile : Nat) (ecc : StoreEcc) :
    KeepsOut s0 (execVecMul tile ecc s) := by
  unfold execVecMul
  repeat' first
    | with_reducible first
      | assumption | (intro) | apply KeepsOut.next | exact KeepsOut.fault | apply KeepsOut.ite
      | apply vectorRow_keeps | apply Keeps.ite
    | split

theorem execVecFma_keeps {s0 s : State} (h : Keeps s0 s) (tile : Nat) (ecc : StoreEcc) :
    KeepsOut s0 (execVecFma tile ecc s) := by
  unfold execVecFma
  repeat' first
    | with_reducible first
      | assumption | (intro) | apply KeepsOut.next | exact KeepsOut.fault | apply KeepsOut.ite
      | apply vectorRow_keeps | apply Keeps.ite
    | split

theorem execVecMax_keeps {s0 s : State} (h : Keeps s0 s) (tile : Nat) (ecc : StoreEcc) :
    KeepsOut s0 (execVecMax tile ecc s) := by
  unfold execVecMax
  repeat' first
    | with_reducible first
      | assumption | (intro) | apply KeepsOut.next | exact KeepsOut.fault | apply KeepsOut.ite
      | apply vectorRow_keeps | apply Keeps.ite
    | split

theorem execVecMin_keeps {s0 s : State} (h : Keeps s0 s) (tile : Nat) (ecc : StoreEcc) :
    KeepsOut s0 (execVecMin tile ecc s) := by
  unfold execVecMin
  repeat' first
    | with_reducible first
      | assumption | (intro) | apply KeepsOut.next | exact KeepsOut.fault | apply KeepsOut.ite
      | apply vectorRow_keeps | apply Keeps.ite
    | split

theorem execAbs_keeps {s0 s : State} (h : Keeps s0 s) (tile : Nat) (ecc : StoreEcc) :
    KeepsOut s0 (execAbs tile ecc s) := by
  unfold execAbs
  repeat' first
    | with_reducible first
      | assumption | (intro) | apply KeepsOut.next | exact KeepsOut.fault | apply KeepsOut.ite
      | apply vectorRow_keeps | apply Keeps.ite
    | split

theorem execNeg_keeps {s0 s : State} (h : Keeps s0 s) (tile : Nat) (ecc : StoreEcc) :
    KeepsOut s0 (execNeg tile ecc s) := by
  unfold execNeg
  repeat' first
    | with_reducible first
      | assumption | (intro) | apply KeepsOut.next | exact KeepsOut.fault | apply KeepsOut.ite
      | apply vectorRow_keeps | apply Keeps.ite
    | split

theorem execScale_keeps {s0 s : State} (h : Keeps s0 s) (tile : Nat) (ecc : StoreEcc) :
    KeepsOut s0 (execScale tile ecc s) := by
  unfold execScale
  repeat' first
    | with_reducible first
      | assumption | (intro) | apply KeepsOut.next | exact KeepsOut.fault | apply KeepsOut.ite
      | apply vectorRow_keeps | apply Keeps.ite
    | split

theorem execExp2_keeps {s0 s : State} (h : Keeps s0 s) (tile : Nat) (ecc : StoreEcc) :
    KeepsOut s0 (execExp2 tile ecc s) := by
  unfold execExp2
  repeat' first
    | with_reducible first
      | assumption | (intro) | apply KeepsOut.next | exact KeepsOut.fault | apply KeepsOut.ite
      | apply vectorRow_keeps | apply Keeps.ite
    | split

theorem execLog2_keeps {s0 s : State} (h : Keeps s0 s) (tile : Nat) (ecc : StoreEcc) :
    KeepsOut s0 (execLog2 tile ecc s) := by
  unfold execLog2
  repeat' first
    | with_reducible first
      | assumption | (intro) | apply KeepsOut.next | exact KeepsOut.fault | apply KeepsOut.ite
      | apply vectorRow_keeps | apply Keeps.ite
    | split

theorem execRecip_keeps {s0 s : State} (h : Keeps s0 s) (tile : Nat) (ecc : StoreEcc) :
    KeepsOut s0 (execRecip tile ecc s) := by
  unfold execRecip
  repeat' first
    | with_reducible first
      | assumption | (intro) | apply KeepsOut.next | exact KeepsOut.fault | apply KeepsOut.ite
      | apply vectorRow_keeps | apply Keeps.ite
    | split

theorem execRsqrt_keeps {s0 s : State} (h : Keeps s0 s) (tile : Nat) (ecc : StoreEcc) :
    KeepsOut s0 (execRsqrt tile ecc s) := by
  unfold execRsqrt
  repeat' first
    | with_reducible first
      | assumption | (intro) | apply KeepsOut.next | exact KeepsOut.fault | apply KeepsOut.ite
      | apply vectorRow_keeps | apply Keeps.ite
    | split

theorem execVecSqrt_keeps {s0 s : State} (h : Keeps s0 s) (tile : Nat) (ecc : StoreEcc) :
    KeepsOut s0 (execVecSqrt tile ecc s) := by
  unfold execVecSqrt
  repeat' first
    | with_reducible first
      | assumption | (intro) | apply KeepsOut.next | exact KeepsOut.fault | apply KeepsOut.ite
      | apply vectorRow_keeps | apply Keeps.ite
    | split

theorem execCvt_keeps {s0 s : State} (h : Keeps s0 s) (tile : Nat) (ecc : StoreEcc) :
    KeepsOut s0 (execCvt tile ecc s) := by
  unfold execCvt
  repeat' first
    | with_reducible first
      | assumption | (intro) | apply KeepsOut.next | exact KeepsOut.fault | apply KeepsOut.ite
      | apply vectorRow_keeps | apply Keeps.ite
    | split

theorem execQmx_keeps {s0 s : State} (h : Keeps s0 s) (tile : Nat) (ecc : StoreEcc) :
    KeepsOut s0 (execQmx tile ecc s) := by
  unfold execQmx
  repeat' first
    | with_reducible first
      | assumption | (intro) | apply KeepsOut.next | exact KeepsOut.fault | apply KeepsOut.ite
      | apply vectorRow_keeps | apply Keeps.ite
    | split

theorem execDqmx_keeps {s0 s : State} (h : Keeps s0 s) (tile : Nat) (ecc : StoreEcc) :
    KeepsOut s0 (execDqmx tile ecc s) := by
  unfold execDqmx
  repeat' first
    | with_reducible first
      | assumption | (intro) | apply KeepsOut.next | exact KeepsOut.fault | apply KeepsOut.ite
      | apply vectorRow_keeps | apply Keeps.ite
    | split

theorem execRsum_keeps {s0 s : State} (h : Keeps s0 s) (tile : Nat) (ecc : StoreEcc) :
    KeepsOut s0 (execRsum tile ecc s) := by
  unfold execRsum
  repeat' first
    | with_reducible first
      | assumption | (intro) | apply KeepsOut.next | exact KeepsOut.fault | apply KeepsOut.ite
      | apply vectorRow_keeps | apply Keeps.ite
    | split

theorem execRmax_keeps {s0 s : State} (h : Keeps s0 s) (tile : Nat) (ecc : StoreEcc) :
    KeepsOut s0 (execRmax tile ecc s) := by
  unfold execRmax
  repeat' first
    | with_reducible first
      | assumption | (intro) | apply KeepsOut.next | exact KeepsOut.fault | apply KeepsOut.ite
      | apply vectorRow_keeps | apply Keeps.ite
    | split

theorem execRmin_keeps {s0 s : State} (h : Keeps s0 s) (tile : Nat) (ecc : StoreEcc) :
    KeepsOut s0 (execRmin tile ecc s) := by
  unfold execRmin
  repeat' first
    | with_reducible first
      | assumption | (intro) | apply KeepsOut.next | exact KeepsOut.fault | apply KeepsOut.ite
      | apply vectorRow_keeps | apply Keeps.ite
    | split

end Sys2Proof.Machine
end

