-- ==== Sys2Proof/Laws/KeepDma.lean ====
section
/-! SUPPORT. What the operations of Machine/Dma.lean keep (see Laws/Keep.lean). -/

set_option linter.all false

namespace Sys2Proof.Machine

theorem execDmaTransfer_keeps {s0 s : State} (h : Keeps s0 s) (tile queue : Nat) :
    KeepsOut s0 (execDmaTransfer tile queue s) := by
  unfold execDmaTransfer
  repeat' first
    | with_reducible first
      | assumption | (intro)
      | (extract_lets +onlyGivenNames x; first | (refine Keeps.cut x ?_ ?_; subst x; rotate_left; intro; clear_value x) | (refine KeepsOut.cut x ?_ ?_; subst x; rotate_left; intro; clear_value x) | clear_value x)
      | apply guardUnit_keeps | apply KeepsOut.next | exact KeepsOut.fault | apply KeepsOut.ite | apply State.setTile_keeps
      | apply Keeps.ite | (fail_if_no_progress apply Keeps.mk0)
    | split

theorem State.refuseBurst_keeps {s0 s : State} (h : Keeps s0 s) (tile : Nat) (r : Run) (b : BurstCheck) : Keeps s0 (s.refuseBurst tile r b) := by
  cases b
  · exact h
  · exact State.confineFault_keeps h _ _ _ _
  all_goals exact State.accessFault_keeps h _ _ _ _ _

theorem State.askPeer_keeps {s0 s : State} (h : Keeps s0 s) (tile : Nat) (r : Run) (id : Nat) (b : Burst) :
    Keeps s0 (State.askPeer s tile r id b) := by
  unfold State.askPeer
  repeat' first
    | with_reducible first
      | assumption | (intro)
      | (extract_lets +onlyGivenNames x; first | (refine Keeps.cut x ?_ ?_; subst x; rotate_left; intro; clear_value x) | (refine Keeps.cut x.2 ?_ ?_; subst x; rotate_left; intro; clear_value x) | (refine Keeps.cut x.1 ?_ ?_; subst x; rotate_left; intro; clear_value x) | clear_value x)
      | apply State.accessFault_keeps | apply State.modRouter_keeps | apply State.post_keeps | apply Keeps.ite
      | apply Keeps.iteFst | apply Keeps.iteSnd | (fail_if_no_progress apply Keeps.mk0)
    | with_reducible (refine Keeps.ofFst (by assumption) ?_) | with_reducible (refine Keeps.ofSnd (by assumption) ?_)
    | (show Keeps s0 _; assumption)
    | split

theorem execDmaBurstIssue_keeps {s0 s : State} (h : Keeps s0 s) (tile : Nat) (ecc : StoreEcc) :
    KeepsOut s0 (execDmaBurstIssue tile ecc s) := by
  unfold execDmaBurstIssue
  repeat' first
    | with_reducible first
      | assumption | (intro)
      | (extract_lets +onlyGivenNames x; first | (refine Keeps.cut x ?_ ?_; subst x; rotate_left; intro; clear_value x) | (refine KeepsOut.cut x ?_ ?_; subst x; rotate_left; intro; clear_value x) | clear_value x)
      | apply guardUnit_keeps | apply KeepsOut.next | exact KeepsOut.fault | apply KeepsOut.ite | apply State.askPeer_keeps
      | apply State.refuseBurst_keeps | apply State.setTile_keeps | apply State.withEcc_keeps | apply Keeps.ite
      | (fail_if_no_progress apply Keeps.mk0)
    | (show Keeps s0 _; assumption)
    | split

theorem State.blurBurst_keeps {s0 s : State} (h : Keeps s0 s) (tile : Nat) (r : Run) (b : Burst) :
    Keeps s0 (State.blurBurst s tile r b) := by
  unfold State.blurBurst
  repeat' first
    | with_reducible first
      | assumption | (intro)
      | (extract_lets +onlyGivenNames x; first | (refine Keeps.cut x ?_ ?_; subst x; rotate_left; intro; clear_value x) | clear_value x)
      | apply State.blur_keeps | apply State.each_keeps | apply Keeps.ite
    | split

theorem State.burstErrors_keeps {s0 s : State} (h : Keeps s0 s) (r : Run) (b : Burst) (errs : List (Nat × Nat)) :
    Keeps s0 (State.burstErrors s r b errs) := by
  unfold State.burstErrors
  repeat' first
    | with_reducible first
      | assumption | (intro) | apply State.demandRead_keeps | apply Keeps.ite
    | split

theorem State.writePeer_keeps {s0 s : State} (h : Keeps s0 s) (tile : Nat) (r : Run) (f : Flight) (d : List Byte) :
    Keeps s0 (State.writePeer s tile r f d) := by
  unfold State.writePeer
  repeat' first
    | with_reducible first
      | assumption | (intro)
      | (extract_lets +onlyGivenNames x; first | (refine Keeps.cut x ?_ ?_; subst x; rotate_left; intro; clear_value x) | (refine Keeps.cut x.2 ?_ ?_; subst x; rotate_left; intro; clear_value x) | (refine Keeps.cut x.1 ?_ ?_; subst x; rotate_left; intro; clear_value x) | clear_value x)
      | apply State.accessFault_keeps | (refine State.coalesceBind_keeps ?_ (by assumption)) | apply State.post_keeps
      | apply State.setTile_keeps | apply Keeps.ite | apply Keeps.iteFst | apply Keeps.iteSnd
      | (fail_if_no_progress apply Keeps.mk0)
    | with_reducible (refine Keeps.ofFst (by assumption) ?_) | with_reducible (refine Keeps.ofSnd (by assumption) ?_)
    | split

theorem State.burstWrite_keeps {s0 s : State} (h : Keeps s0 s) (tile : Nat) (r : Run) (f : Flight) (d : List Byte) :
    Keeps s0 (State.burstWrite s tile r f d) := by
  unfold State.burstWrite
  repeat' first
    | with_reducible first
      | assumption | (intro)
      | (extract_lets +onlyGivenNames x; first | (refine Keeps.cut x ?_ ?_; subst x; rotate_left; intro; clear_value x) | clear_value x)
      | apply State.accessFault_keeps | apply State.emit_keeps | apply State.localWrite_keeps | apply State.setTile_keeps
      | apply State.spadWrite_keeps | apply State.writePeer_keeps | apply Keeps.ite | (fail_if_no_progress apply Keeps.mk0)
    | split

theorem State.landFlight_keeps {s0 s : State} (h : Keeps s0 s) (tile : Nat) (f : Flight) :
    Keeps s0 (State.landFlight s tile f) := by
  unfold State.landFlight
  repeat' first
    | with_reducible first
      | assumption | (intro)
      | (extract_lets +onlyGivenNames x; first | (refine Keeps.cut x ?_ ?_; subst x; rotate_left; intro; clear_value x) | clear_value x)
      | apply State.modRouter_keeps | apply State.setTile_keeps | apply Keeps.ite | (fail_if_no_progress apply Keeps.mk0)
    | (show Keeps s0 _; assumption)
    | split

theorem execDmaBurstDone_keeps {s0 s : State} (h : Keeps s0 s) (tile burst : Nat) (data : List Byte) (errs : List (Nat × Nat)) :
    KeepsOut s0 (execDmaBurstDone tile burst data errs s) := by
  unfold execDmaBurstDone
  repeat' first
    | with_reducible first
      | assumption | (intro)
      | (extract_lets +onlyGivenNames x; first | (refine Keeps.cut x ?_ ?_; subst x; rotate_left; intro; clear_value x) | (refine KeepsOut.cut x ?_ ?_; subst x; rotate_left; intro; clear_value x) | clear_value x)
      | apply guardUnit_keeps | apply KeepsOut.next | exact KeepsOut.fault | apply KeepsOut.ite | apply State.blurBurst_keeps
      | apply State.burstErrors_keeps | apply State.burstWrite_keeps | apply State.countPoisons_keeps
      | apply State.landFlight_keeps | apply State.readFault_keeps | apply State.when_keeps | apply Keeps.ite
      | (fail_if_no_progress apply Keeps.mk0)
    | (show Keeps s0 _; assumption)
    | split

end Sys2Proof.Machine
end

