-- ==== Sys2Proof/Laws/KeepChest.lean ====
section
/-! SUPPORT. What the operations of Machine/Chest.lean keep (see Laws/Keep.lean). -/

set_option linter.all false

namespace Sys2Proof.Machine

theorem State.arenaChange_keeps {s0 s : State} (h : Keeps s0 s) (d : Nat) {f : State → State} (hf : ∀ t, Keeps s0 t → Keeps s0 (f t)) :
    Keeps s0 (s.arenaChange d f) := by
  exact State.when_keeps (fun t k => State.raiseTo_keeps k _ _ _) (State.each_keeps (fun t k x => State.showRebuild_keeps k x) (hf s h))

theorem State.useBlock_keeps {s0 s : State} (h : Keeps s0 s) (c i : Nat) (v : Option Nat) :
    Keeps s0 (State.useBlock s c i v) := by
  unfold State.useBlock
  repeat' first
    | with_reducible first
      | assumption | (intro)
      | (extract_lets +onlyGivenNames x; first | (refine Keeps.cut x ?_ ?_; subst x; rotate_left; intro; clear_value x) | (refine Keeps.cut x.2 ?_ ?_; subst x; rotate_left; intro; clear_value x) | (refine Keeps.cut x.1 ?_ ?_; subst x; rotate_left; intro; clear_value x) | clear_value x)
      | apply State.modCtx_keeps | apply Keeps.ite | (fail_if_no_progress apply Keeps.mk0)
    | with_reducible (refine Keeps.ofFst (by assumption) ?_) | with_reducible (refine Keeps.ofSnd (by assumption) ?_)
    | split

theorem State.chestFault_keeps {s0 s : State} (h : Keeps s0 s) (tile : Nat) (r : Run) (status i : Nat) :
    Keeps s0 (State.chestFault s tile r status i) := by
  unfold State.chestFault
  repeat' first
    | with_reducible first
      | assumption | (intro)
      | (extract_lets +onlyGivenNames x; first | (refine Keeps.cut x ?_ ?_; subst x; rotate_left; intro; clear_value x) | clear_value x)
      | apply State.faultWith_keeps | apply State.setTile_keeps | apply Keeps.ite | (fail_if_no_progress apply Keeps.mk0)
    | split

theorem State.refuseChest_keeps {s0 s : State} (h : Keeps s0 s) (tile : Nat) (r : Run) (b : ChestCheck) : Keeps s0 (s.refuseChest tile r b) := by
  cases b
  case ok => exact h
  case confine => exact State.confineFault_keeps h _ _ _ _
  case bad => exact State.chestFault_keeps (State.when_keeps (fun t k => State.raiseTo_keeps (State.bump_keeps k _ _) _ _ _) h) _ _ _ _
  all_goals exact State.accessFault_keeps h _ _ _ _ _

theorem State.chestDeliver_keeps {s0 s : State} (h : Keeps s0 s) (tile : Nat) (r : Run) (x : DmaDesc) (a : Nat) (d : List Byte) :
    Keeps s0 (State.chestDeliver s tile r x a d) := by
  unfold State.chestDeliver
  repeat' first
    | with_reducible first
      | assumption | (intro) | apply State.localWrite_keeps | apply State.spadWrite_keeps
      | apply Keeps.ite
    | split

theorem State.chestRead_keeps {s0 s : State} (h : Keeps s0 s) (tile : Nat) (r : Run) (x : DmaDesc) (p : BlockPart) :
    Keeps s0 (State.chestRead s tile r x p) := by
  unfold State.chestRead
  repeat' first
    | with_reducible first
      | assumption | (intro)
      | (extract_lets +onlyGivenNames x; first | (refine Keeps.cut x ?_ ?_; subst x; rotate_left; intro; clear_value x) | clear_value x)
      | apply State.bump_keeps | apply State.chestDeliver_keeps | apply State.modCtx_keeps | apply State.useBlock_keeps
      | apply Keeps.ite | (fail_if_no_progress apply Keeps.mk0)
    | split

theorem State.arenaErrors_keeps {s0 s : State} (h : Keeps s0 s) (d : Nat) (errs : List (Nat × Nat)) :
    Keeps s0 (State.arenaErrors s d errs) := by
  unfold State.arenaErrors
  repeat' first
    | with_reducible first
      | assumption | (intro) | apply State.demandRead_keeps | apply Keeps.ite
    | split

theorem execChestTransfer_keeps {s0 s : State} (h : Keeps s0 s) (tile queue : Nat) (errs : List (Nat × Nat)) (lost : List Nat) :
    KeepsOut s0 (execChestTransfer tile queue errs lost s) := by
  unfold execChestTransfer
  repeat' first
    | with_reducible first
      | assumption | (intro)
      | (extract_lets +onlyGivenNames x; first | (refine Keeps.cut x ?_ ?_; subst x; rotate_left; intro; clear_value x) | (refine Keeps.cut x.2 ?_ ?_; subst x; rotate_left; intro; clear_value x) | (refine Keeps.cut x.1 ?_ ?_; subst x; rotate_left; intro; clear_value x) | (refine KeepsOut.cut x ?_ ?_; subst x; rotate_left; intro; clear_value x) | (refine KeepsOut.cut x.2 ?_ ?_; subst x; rotate_left; intro; clear_value x) | clear_value x)
      | apply guardUnit_keeps | apply KeepsOut.next | exact KeepsOut.fault | apply KeepsOut.ite | apply State.accessFault_keeps
      | apply State.arenaErrors_keeps | apply State.blur_keeps | apply State.chestRead_keeps | apply State.each_keeps
      | apply State.refuseChest_keeps | apply State.setTile_keeps | apply Keeps.foldl | apply Keeps.foldlFst
      | apply Keeps.foldlSnd | apply Keeps.ite | (fail_if_no_progress apply Keeps.mk0)
    | with_reducible (refine Keeps.ofFst (by assumption) ?_) | with_reducible (refine Keeps.ofSnd (by assumption) ?_)
    | split

theorem State.noteStored_keeps {s0 s : State} (h : Keeps s0 s) (d i : Nat) (b : Block) :
    Keeps s0 (State.noteStored s d i b) := by
  unfold State.noteStored
  repeat' first
    | with_reducible first
      | assumption | (intro)
      | (extract_lets +onlyGivenNames x; first | (refine Keeps.cut x ?_ ?_; subst x; rotate_left; intro; clear_value x) | clear_value x)
      | apply State.bump_keeps | apply State.when_keeps | apply Keeps.ite
    | split

theorem State.noteWritten_keeps {s0 s : State} (h : Keeps s0 s) (d i : Nat) (b : Block) :
    Keeps s0 (State.noteWritten s d i b) := by
  unfold State.noteWritten
  repeat' first
    | with_reducible first
      | assumption | (intro) | apply State.bump_keeps | apply State.noteStored_keeps | apply Keeps.ite
    | split

theorem State.finishMoves_keeps {s0 s : State} (h : Keeps s0 s) (c : Nat) :
    Keeps s0 (State.finishMoves s c) := by
  unfold State.finishMoves
  repeat' first
    | with_reducible first
      | assumption | (intro)
      | (extract_lets +onlyGivenNames x; first | (refine Keeps.cut x ?_ ?_; subst x; rotate_left; intro; clear_value x) | clear_value x)
      | apply State.finishAll_keeps | apply Keeps.ite
    | split

theorem execChestWritePlaced_keeps {s0 s : State} (h : Keeps s0 s) (tile queue : Nat) :
    KeepsOut s0 (execChestWritePlaced tile queue s) := by
  unfold execChestWritePlaced
  repeat' first
    | with_reducible first
      | assumption | (intro)
      | (extract_lets +onlyGivenNames x; first | (refine Keeps.cut x ?_ ?_; subst x; rotate_left; intro; clear_value x) | (refine KeepsOut.cut x ?_ ?_; subst x; rotate_left; intro; clear_value x) | clear_value x)
      | apply guardUnit_keeps | apply KeepsOut.next | exact KeepsOut.fault | apply KeepsOut.ite | apply State.accessFault_keeps
      | apply State.arenaChange_keeps | apply State.blurBurst_keeps | apply State.bump_keeps | apply State.finishMoves_keeps
      | apply State.modCtx_keeps | apply State.noteWritten_keeps | apply State.readFault_keeps | apply State.setTile_keeps
      | apply Keeps.ite | (fail_if_no_progress apply Keeps.mk0)
    | split

theorem execChestSpaceTimeout_keeps {s0 s : State} (h : Keeps s0 s) (tile queue : Nat) :
    KeepsOut s0 (execChestSpaceTimeout tile queue s) := by
  unfold execChestSpaceTimeout
  repeat' first
    | with_reducible first
      | assumption | (intro)
      | (extract_lets +onlyGivenNames x; first | (refine Keeps.cut x ?_ ?_; subst x; rotate_left; intro; clear_value x) | (refine KeepsOut.cut x ?_ ?_; subst x; rotate_left; intro; clear_value x) | clear_value x)
      | apply guardUnit_keeps | apply KeepsOut.next | exact KeepsOut.fault | apply KeepsOut.ite | apply State.chestFault_keeps
      | apply State.raiseTo_keeps | apply Keeps.ite | (fail_if_no_progress apply Keeps.mk0)
    | split

theorem State.moveAbandoned_keeps {s0 s : State} (h : Keeps s0 s) (d : Nat) (b : Block) (m : Move) :
    Keeps s0 (State.moveAbandoned s d b m) := by
  unfold State.moveAbandoned
  repeat' first
    | with_reducible first
      | assumption | (intro) | apply State.bump_keeps | apply State.raiseTo_keeps | apply Keeps.ite
    | split

theorem execBlockMoveDone_keeps {s0 s : State} (h : Keeps s0 s) (c block : Nat) (ok : Bool) :
    KeepsOut s0 (execBlockMoveDone c block ok s) := by
  unfold execBlockMoveDone
  repeat' first
    | with_reducible first
      | assumption | (intro)
      | (extract_lets +onlyGivenNames x; first | (refine Keeps.cut x ?_ ?_; subst x; rotate_left; intro; clear_value x) | (refine KeepsOut.cut x ?_ ?_; subst x; rotate_left; intro; clear_value x) | clear_value x)
      | apply guardUnit_keeps | apply KeepsOut.next | exact KeepsOut.fault | apply KeepsOut.ite | apply State.arenaChange_keeps
      | apply State.finishMoves_keeps | apply State.moveAbandoned_keeps | apply State.setCtx_keeps | apply Keeps.ite
      | (fail_if_no_progress apply Keeps.mk0)
    | split

theorem execSummaryRebuildDone_keeps {s0 s : State} (h : Keeps s0 s) (c block : Nat) :
    KeepsOut s0 (execSummaryRebuildDone c block s) := by
  unfold execSummaryRebuildDone
  repeat' first
    | with_reducible first
      | assumption | (intro)
      | (extract_lets +onlyGivenNames x; first | (refine Keeps.cut x ?_ ?_; subst x; rotate_left; intro; clear_value x) | (refine Keeps.cut x.2 ?_ ?_; subst x; rotate_left; intro; clear_value x) | (refine Keeps.cut x.1 ?_ ?_; subst x; rotate_left; intro; clear_value x) | (refine KeepsOut.cut x ?_ ?_; subst x; rotate_left; intro; clear_value x) | (refine KeepsOut.cut x.2 ?_ ?_; subst x; rotate_left; intro; clear_value x) | clear_value x)
      | apply guardUnit_keeps | apply KeepsOut.next | exact KeepsOut.fault | apply KeepsOut.ite | apply State.bump_keeps
      | apply State.raiseTo_keeps | apply State.setCtx_keeps | apply State.showRebuild_keeps | apply Keeps.ite
      | (fail_if_no_progress apply Keeps.mk0)
    | with_reducible (refine Keeps.ofFst (by assumption) ?_) | with_reducible (refine Keeps.ofSnd (by assumption) ?_)
    | split

theorem State.dropChest_keeps {s0 s : State} (h : Keeps s0 s) (c : Nat) :
    Keeps s0 (State.dropChest s c) := by
  unfold State.dropChest
  repeat' first
    | with_reducible first
      | assumption | (intro)
      | (extract_lets +onlyGivenNames x; first | (refine Keeps.cut x ?_ ?_; subst x; rotate_left; intro; clear_value x) | (refine Keeps.cut x.2 ?_ ?_; subst x; rotate_left; intro; clear_value x) | (refine Keeps.cut x.1 ?_ ?_; subst x; rotate_left; intro; clear_value x) | clear_value x)
      | apply State.bumpBy_keeps | apply State.raiseTo_keeps | apply State.when_keeps | apply Keeps.foldl | apply Keeps.foldlFst
      | apply Keeps.foldlSnd | apply Keeps.ite
    | with_reducible (refine Keeps.ofFst (by assumption) ?_) | with_reducible (refine Keeps.ofSnd (by assumption) ?_)
    | split

theorem execScreenQuery_keeps {s0 s : State} (h : Keeps s0 s) (tile queue : Nat) :
    KeepsOut s0 (execScreenQuery tile queue s) := by
  unfold execScreenQuery
  repeat' first
    | with_reducible first
      | assumption | (intro)
      | (extract_lets +onlyGivenNames x; first | (refine Keeps.cut x ?_ ?_; subst x; rotate_left; intro; clear_value x) | (refine Keeps.cut x.2 ?_ ?_; subst x; rotate_left; intro; clear_value x) | (refine Keeps.cut x.1 ?_ ?_; subst x; rotate_left; intro; clear_value x) | (refine KeepsOut.cut x ?_ ?_; subst x; rotate_left; intro; clear_value x) | (refine KeepsOut.cut x.2 ?_ ?_; subst x; rotate_left; intro; clear_value x) | clear_value x)
      | apply guardUnit_keeps | apply KeepsOut.next | exact KeepsOut.fault | apply KeepsOut.ite | apply State.accessFault_keeps
      | apply State.blur_keeps | apply State.confineFault_keeps | apply State.modCtx_keeps | apply State.refuseBurst_keeps
      | apply State.setTile_keeps | apply Keeps.ite | (fail_if_no_progress apply Keeps.mk0)
    | with_reducible (refine Keeps.ofFst (by assumption) ?_) | with_reducible (refine Keeps.ofSnd (by assumption) ?_)
    | split

theorem State.noteSelected_keeps {s0 s : State} (h : Keeps s0 s) (c : Nat) (sel : List Scored) :
    Keeps s0 (State.noteSelected s c sel) := by
  unfold State.noteSelected
  repeat' first
    | with_reducible first
      | assumption | (intro)
      | (extract_lets +onlyGivenNames x; first | (refine Keeps.cut x ?_ ?_; subst x; rotate_left; intro; clear_value x) | clear_value x)
      | apply State.modCtx_keeps | apply State.useBlock_keeps | apply Keeps.foldl | apply Keeps.foldlFst | apply Keeps.foldlSnd
      | apply Keeps.ite
    | split

theorem execScreenQueryDone_keeps {s0 s : State} (h : Keeps s0 s) (tile queue : Nat) (errs : List (Nat × Nat)) :
    KeepsOut s0 (execScreenQueryDone tile queue errs s) := by
  unfold execScreenQueryDone
  repeat' first
    | with_reducible first
      | assumption | (intro)
      | (extract_lets +onlyGivenNames x; first | (refine Keeps.cut x ?_ ?_; subst x; rotate_left; intro; clear_value x) | (refine Keeps.cut x.2 ?_ ?_; subst x; rotate_left; intro; clear_value x) | (refine Keeps.cut x.1 ?_ ?_; subst x; rotate_left; intro; clear_value x) | (refine KeepsOut.cut x ?_ ?_; subst x; rotate_left; intro; clear_value x) | (refine KeepsOut.cut x.2 ?_ ?_; subst x; rotate_left; intro; clear_value x) | clear_value x)
      | apply guardUnit_keeps | apply KeepsOut.next | exact KeepsOut.fault | apply KeepsOut.ite | apply State.accessFault_keeps
      | apply State.arenaErrors_keeps | apply State.blur_keeps | apply State.bump_keeps | apply State.localWrite_keeps
      | apply State.modCtx_keeps | apply State.noteSelected_keeps | apply State.raiseTo_keeps | apply State.setTile_keeps
      | apply State.spadWrite_keeps | apply State.when_keeps | apply Keeps.foldl | apply Keeps.foldlFst | apply Keeps.foldlSnd
      | apply Keeps.ite | (fail_if_no_progress apply Keeps.mk0)
    | with_reducible (refine Keeps.ofFst (by assumption) ?_) | with_reducible (refine Keeps.ofSnd (by assumption) ?_)
    | split

end Sys2Proof.Machine
end

