-- ==== Sys2Proof/Laws/KeepCollectives.lean ====
section
/-! SUPPORT. What the operations of Machine/Collectives.lean keep (see Laws/Keep.lean). -/

set_option linter.all false

namespace Sys2Proof.Machine

theorem State.modStep_keeps {s0 s : State} (h : Keeps s0 s) (c : Nat) (p : Step) (f : Step → Step) :
    Keeps s0 (State.modStep s c p f) := by
  unfold State.modStep
  repeat' first
    | with_reducible first
      | assumption | (intro) | apply State.modCtx_keeps | apply Keeps.ite
    | split

theorem State.sendStep_keeps {s0 s : State} (h : Keeps s0 s) (c : Nat) (p : Step) (die dest sub pass addr flags : Nat) (data : Except Nat (List Byte)) :
    Keeps s0 (State.sendStep s c p die dest sub pass addr flags data) := by
  unfold State.sendStep
  repeat' first
    | with_reducible first
      | assumption | (intro)
      | (extract_lets +onlyGivenNames x; first | (refine Keeps.cut x ?_ ?_; subst x; rotate_left; intro; clear_value x) | (refine Keeps.cut x.2 ?_ ?_; subst x; rotate_left; intro; clear_value x) | (refine Keeps.cut x.1 ?_ ?_; subst x; rotate_left; intro; clear_value x) | clear_value x)
      | apply State.collTo_keeps | apply State.failStep_keeps | apply State.modStep_keeps | apply Keeps.ite | apply Keeps.iteFst
      | apply Keeps.iteSnd | (fail_if_no_progress apply Keeps.mk0)
    | with_reducible (refine Keeps.ofFst (by assumption) ?_) | with_reducible (refine Keeps.ofSnd (by assumption) ?_)
    | split

theorem State.sendAll_keeps {s0 s : State} (h : Keeps s0 s) (c : Nat) (p : Step) (die sub pass addr flags : Nat) (data : Except Nat (List Byte)) :
    Keeps s0 (State.sendAll s c p die sub pass addr flags data) := by
  unfold State.sendAll
  repeat' first
    | with_reducible first
      | assumption | (intro)
      | (extract_lets +onlyGivenNames x; first | (refine Keeps.cut x ?_ ?_; subst x; rotate_left; intro; clear_value x) | (refine Keeps.cut x.2 ?_ ?_; subst x; rotate_left; intro; clear_value x) | (refine Keeps.cut x.1 ?_ ?_; subst x; rotate_left; intro; clear_value x) | clear_value x)
      | apply State.collToAll_keeps | apply State.failStep_keeps | apply State.modStep_keeps | apply Keeps.ite
      | apply Keeps.iteFst | apply Keeps.iteSnd | (fail_if_no_progress apply Keeps.mk0)
    | with_reducible (refine Keeps.ofFst (by assumption) ?_) | with_reducible (refine Keeps.ofSnd (by assumption) ?_)
    | split

theorem State.placeOut_keeps {s0 s : State} (h : Keeps s0 s) (c : Nat) (p : Step) (from_ addr flags : Nat) (d : List Byte) :
    Keeps s0 (State.placeOut s c p from_ addr flags d) := by
  unfold State.placeOut
  repeat' first
    | with_reducible first
      | assumption | (intro)
      | (extract_lets +onlyGivenNames x; first | (refine Keeps.cut x ?_ ?_; subst x; rotate_left; intro; clear_value x) | clear_value x)
      | apply State.failStep_keeps | apply State.localWrite_keeps | apply State.modStep_keeps | apply Keeps.ite
      | (fail_if_no_progress apply Keeps.mk0)
    | split

theorem State.noteDone_keeps {s0 s : State} (h : Keeps s0 s) (c : Nat) (p : Step) (rank : Nat) :
    Keeps s0 (State.noteDone s c p rank) := by
  unfold State.noteDone
  repeat' first
    | with_reducible first
      | assumption | (intro)
      | (extract_lets +onlyGivenNames x; first | (refine Keeps.cut x ?_ ?_; subst x; rotate_left; intro; clear_value x) | clear_value x)
      | apply State.modStep_keeps | apply State.sendAll_keeps | apply Keeps.ite | (fail_if_no_progress apply Keeps.mk0)
    | split

theorem State.tryDone_keeps {s0 s : State} (h : Keeps s0 s) (c : Nat) (p : Step) :
    Keeps s0 (State.tryDone s c p) := by
  unfold State.tryDone
  repeat' first
    | with_reducible first
      | assumption | (intro)
      | (extract_lets +onlyGivenNames x; first | (refine Keeps.cut x ?_ ?_; subst x; rotate_left; intro; clear_value x) | clear_value x)
      | apply State.modStep_keeps | apply State.noteDone_keeps | apply State.sendStep_keeps | apply Keeps.ite
      | (fail_if_no_progress apply Keeps.mk0)
    | split

theorem State.tryAllDone_keeps {s0 s : State} (h : Keeps s0 s)  :
    Keeps s0 (State.tryAllDone s) := by
  unfold State.tryAllDone
  repeat' first
    | with_reducible first
      | assumption | (intro) | apply State.tryDone_keeps | apply Keeps.foldl | apply Keeps.foldlFst
      | apply Keeps.foldlSnd | apply Keeps.ite
    | split

theorem State.sendChunk_keeps {s0 s : State} (h : Keeps s0 s) (c : Nat) (p : Step) (o j pass : Nat) :
    Keeps s0 (State.sendChunk s c p o j pass) := by
  unfold State.sendChunk
  repeat' first
    | with_reducible first
      | assumption | (intro)
      | (extract_lets +onlyGivenNames x; first | (refine Keeps.cut x ?_ ?_; subst x; rotate_left; intro; clear_value x) | (refine Keeps.cut x.2 ?_ ?_; subst x; rotate_left; intro; clear_value x) | (refine Keeps.cut x.1 ?_ ?_; subst x; rotate_left; intro; clear_value x) | clear_value x)
      | apply State.sendStep_keeps | apply Keeps.foldl | apply Keeps.foldlFst | apply Keeps.foldlSnd | apply Keeps.ite
    | with_reducible (refine Keeps.ofFst (by assumption) ?_) | with_reducible (refine Keeps.ofSnd (by assumption) ?_)
    | split

theorem State.ownSlices_keeps {s0 s : State} (h : Keeps s0 s) (c : Nat) (p : Step) (j : Nat) (l : List (Nat × Nat)) :
    Keeps s0 (State.ownSlices s c p j l) := by
  unfold State.ownSlices
  repeat' first
    | with_reducible first
      | assumption | (intro)
      | (extract_lets +onlyGivenNames x; first | (refine Keeps.cut x ?_ ?_; subst x; rotate_left; intro; clear_value x) | (refine Keeps.cut x.2 ?_ ?_; subst x; rotate_left; intro; clear_value x) | (refine Keeps.cut x.1 ?_ ?_; subst x; rotate_left; intro; clear_value x) | clear_value x)
      | apply State.failStep_keeps | apply State.modStep_keeps | apply Keeps.foldl | apply Keeps.foldlFst | apply Keeps.foldlSnd
      | apply Keeps.ite | (fail_if_no_progress apply Keeps.mk0)
    | with_reducible (refine Keeps.ofFst (by assumption) ?_) | with_reducible (refine Keeps.ofSnd (by assumption) ?_)
    | split

theorem State.pulls_keeps {s0 s : State} (h : Keeps s0 s) (c : Nat) (p : Step) (j a lo hi : Nat) :
    Keeps s0 (State.pulls s c p j a lo hi) := by
  unfold State.pulls
  repeat' first
    | with_reducible first
      | assumption | (intro)
      | (extract_lets +onlyGivenNames x; first | (refine Keeps.cut x ?_ ?_; subst x; rotate_left; intro; clear_value x) | clear_value x)
      | apply State.sendStep_keeps | apply Keeps.foldl | apply Keeps.foldlFst | apply Keeps.foldlSnd | apply Keeps.ite
    | split

theorem State.startSlice_keeps {s0 s : State} (h : Keeps s0 s) (c : Nat) (p : Step) (j : Nat) :
    Keeps s0 (State.startSlice s c p j) := by
  unfold State.startSlice
  repeat' first
    | with_reducible first
      | assumption | (intro)
      | (extract_lets +onlyGivenNames x; first | (refine Keeps.cut x ?_ ?_; subst x; rotate_left; intro; clear_value x) | (refine Keeps.cut x.2 ?_ ?_; subst x; rotate_left; intro; clear_value x) | (refine Keeps.cut x.1 ?_ ?_; subst x; rotate_left; intro; clear_value x) | clear_value x)
      | apply State.ownSlices_keeps | apply State.pulls_keeps | apply Keeps.ite | (fail_if_no_progress apply Keeps.mk0)
    | with_reducible (refine Keeps.ofFst (by assumption) ?_) | with_reducible (refine Keeps.ofSnd (by assumption) ?_)
    | split

theorem State.startChunk_keeps {s0 s : State} (h : Keeps s0 s) (c : Nat) (p : Step) (j : Nat) :
    Keeps s0 (State.startChunk s c p j) := by
  unfold State.startChunk
  repeat' first
    | with_reducible first
      | assumption | (intro)
      | (extract_lets +onlyGivenNames x; first | (refine Keeps.cut x ?_ ?_; subst x; rotate_left; intro; clear_value x) | clear_value x)
      | apply State.modStep_keeps | apply State.ownSlices_keeps | apply State.startSlice_keeps | apply Keeps.ite
      | (fail_if_no_progress apply Keeps.mk0)
    | split

theorem State.takeChunks_keeps {s0 s : State} (h : Keeps s0 s) (c : Nat) (p : Step) :
    Keeps s0 (State.takeChunks s c p) := by
  unfold State.takeChunks
  repeat' first
    | with_reducible first
      | assumption | (intro)
      | (extract_lets +onlyGivenNames x; first | (refine Keeps.cut x ?_ ?_; subst x; rotate_left; intro; clear_value x) | (refine Keeps.cut x.2 ?_ ?_; subst x; rotate_left; intro; clear_value x) | (refine Keeps.cut x.1 ?_ ?_; subst x; rotate_left; intro; clear_value x) | clear_value x)
      | apply State.failStep_keeps | apply State.startChunk_keeps | apply Keeps.foldl | apply Keeps.foldlFst
      | apply Keeps.foldlSnd | apply Keeps.ite | (fail_if_no_progress apply Keeps.mk0)
    | with_reducible (refine Keeps.ofFst (by assumption) ?_) | with_reducible (refine Keeps.ofSnd (by assumption) ?_)
    | split

theorem State.takeEngines_keeps {s0 s : State} (h : Keeps s0 s)  :
    Keeps s0 (State.takeEngines s) := by
  unfold State.takeEngines
  repeat' first
    | with_reducible first
      | assumption | (intro) | apply State.takeChunks_keeps | apply Keeps.foldl | apply Keeps.foldlFst
      | apply Keeps.foldlSnd | apply Keeps.ite
    | split

theorem State.sendMoves_keeps {s0 s : State} (h : Keeps s0 s) (c : Nat) (p : Step) :
    Keeps s0 (State.sendMoves s c p) := by
  unfold State.sendMoves
  repeat' first
    | with_reducible first
      | assumption | (intro)
      | (extract_lets +onlyGivenNames x; first | (refine Keeps.cut x ?_ ?_; subst x; rotate_left; intro; clear_value x) | (refine Keeps.cut x.2 ?_ ?_; subst x; rotate_left; intro; clear_value x) | (refine Keeps.cut x.1 ?_ ?_; subst x; rotate_left; intro; clear_value x) | clear_value x)
      | apply State.placeOut_keeps | apply State.sendAll_keeps | apply State.sendStep_keeps | apply Keeps.foldl
      | apply Keeps.foldlFst | apply Keeps.foldlSnd | apply Keeps.ite | (fail_if_no_progress apply Keeps.mk0)
    | with_reducible (refine Keeps.ofFst (by assumption) ?_) | with_reducible (refine Keeps.ofSnd (by assumption) ?_)
    | split

theorem State.noteSlack_keeps {s0 s : State} (h : Keeps s0 s)  :
    Keeps s0 (State.noteSlack s) := by
  unfold State.noteSlack
  repeat' first
    | with_reducible first
      | assumption | (intro)
      | (extract_lets +onlyGivenNames x; first | (refine Keeps.cut x ?_ ?_; subst x; rotate_left; intro; clear_value x) | (refine Keeps.cut x.2 ?_ ?_; subst x; rotate_left; intro; clear_value x) | (refine Keeps.cut x.1 ?_ ?_; subst x; rotate_left; intro; clear_value x) | clear_value x)
      | apply State.free_keeps | apply Keeps.ite | apply Keeps.iteFst | apply Keeps.iteSnd | (fail_if_no_progress apply Keeps.mk0)
    | with_reducible (refine Keeps.ofFst (by assumption) ?_) | with_reducible (refine Keeps.ofSnd (by assumption) ?_)
    | split

theorem State.onGo_keeps {s0 s : State} (h : Keeps s0 s) (c : Nat) (p : Step) :
    Keeps s0 (State.onGo s c p) := by
  unfold State.onGo
  repeat' first
    | with_reducible first
      | assumption | (intro)
      | (extract_lets +onlyGivenNames x; first | (refine Keeps.cut x ?_ ?_; subst x; rotate_left; intro; clear_value x) | subst x)
      | apply State.modStep_keeps | apply State.noteSlack_keeps | apply State.sendChunk_keeps | apply State.sendMoves_keeps
      | apply State.takeEngines_keeps | apply State.tryDone_keeps | apply State.when_keeps | apply Keeps.foldl
      | apply Keeps.foldlFst | apply Keeps.foldlSnd | apply Keeps.ite | (fail_if_no_progress apply Keeps.mk0)
    | split

theorem State.noteHash_keeps {s0 s : State} (h : Keeps s0 s) (c : Nat) (p : Step) (rank : Nat) (h : Word) :
    Keeps s0 (State.noteHash s c p rank h) := by
  unfold State.noteHash
  repeat' first
    | with_reducible first
      | assumption | (intro)
      | (extract_lets +onlyGivenNames x; first | (refine Keeps.cut x ?_ ?_; subst x; rotate_left; intro; clear_value x) | (refine Keeps.cut x.2 ?_ ?_; subst x; rotate_left; intro; clear_value x) | (refine Keeps.cut x.1 ?_ ?_; subst x; rotate_left; intro; clear_value x) | clear_value x)
      | apply State.bump_keeps | apply State.failStep_keeps | apply State.modStep_keeps | apply State.noteSlack_keeps
      | apply State.onGo_keeps | apply State.raiseTo_keeps | apply State.sendAll_keeps | apply Keeps.ite
      | (fail_if_no_progress apply Keeps.mk0)
    | with_reducible (refine Keeps.ofFst (by assumption) ?_) | with_reducible (refine Keeps.ofSnd (by assumption) ?_)
    | split

theorem State.startStep_keeps {s0 s : State} (h : Keeps s0 s) (c : Nat) (p : Step) :
    Keeps s0 (State.startStep s c p) := by
  unfold State.startStep
  repeat' first
    | with_reducible first
      | assumption | (intro)
      | (extract_lets +onlyGivenNames x; first | (refine Keeps.cut x ?_ ?_; subst x; rotate_left; intro; clear_value x) | clear_value x)
      | apply State.modStep_keeps | apply State.noteHash_keeps | apply State.sendStep_keeps | apply Keeps.ite
      | (fail_if_no_progress apply Keeps.mk0)
    | split

theorem State.restartChunk_keeps {s0 s : State} (h : Keeps s0 s) (c : Nat) (p : Step) (j pass : Nat) (zc : Bool) :
    Keeps s0 (State.restartChunk s c p j pass zc) := by
  unfold State.restartChunk
  repeat' first
    | with_reducible first
      | assumption | (intro)
      | (extract_lets +onlyGivenNames x; first | (refine Keeps.cut x ?_ ?_; subst x; rotate_left; intro; clear_value x) | (refine Keeps.cut x.2 ?_ ?_; subst x; rotate_left; intro; clear_value x) | (refine Keeps.cut x.1 ?_ ?_; subst x; rotate_left; intro; clear_value x) | clear_value x)
      | apply State.modStep_keeps | apply State.ownSlices_keeps | apply State.sendAll_keeps | apply State.startSlice_keeps
      | apply Keeps.ite | (fail_if_no_progress apply Keeps.mk0)
    | with_reducible (refine Keeps.ofFst (by assumption) ?_) | with_reducible (refine Keeps.ofSnd (by assumption) ?_)
    | split

theorem State.residueFail_keeps {s0 s : State} (h : Keeps s0 s) (c : Nat) (p : Step) (j : Nat) (zc : Bool) :
    Keeps s0 (State.residueFail s c p j zc) := by
  unfold State.residueFail
  repeat' first
    | with_reducible first
      | assumption | (intro)
      | (extract_lets +onlyGivenNames x; first | (refine Keeps.cut x ?_ ?_; subst x; rotate_left; intro; clear_value x) | (refine Keeps.cut x.2 ?_ ?_; subst x; rotate_left; intro; clear_value x) | (refine Keeps.cut x.1 ?_ ?_; subst x; rotate_left; intro; clear_value x) | clear_value x)
      | apply State.brokeAdd_keeps | apply State.bump_keeps | apply State.failStep_keeps | apply State.modRouter_keeps
      | apply State.modStep_keeps | apply State.raiseTo_keeps | apply State.restartChunk_keeps | apply State.takeEngines_keeps
      | apply State.when_keeps | apply Keeps.ite | (fail_if_no_progress apply Keeps.mk0)
    | with_reducible (refine Keeps.ofFst (by assumption) ?_) | with_reducible (refine Keeps.ofSnd (by assumption) ?_)
    | split

theorem State.sendResults_keeps {s0 s : State} (h : Keeps s0 s) (c : Nat) (p : Step) (j : Nat) (fixed : Bool) (l : List (Nat × Nat)) :
    Keeps s0 (State.sendResults s c p j fixed l) := by
  unfold State.sendResults
  repeat' first
    | with_reducible first
      | assumption | (intro)
      | (extract_lets +onlyGivenNames x; first | (refine Keeps.cut x ?_ ?_; subst x; rotate_left; intro; clear_value x) | (refine Keeps.cut x.2 ?_ ?_; subst x; rotate_left; intro; clear_value x) | (refine Keeps.cut x.1 ?_ ?_; subst x; rotate_left; intro; clear_value x) | clear_value x)
      | apply State.placeOut_keeps | apply State.sendAll_keeps | apply Keeps.foldl | apply Keeps.foldlFst | apply Keeps.foldlSnd
      | apply Keeps.ite
    | with_reducible (refine Keeps.ofFst (by assumption) ?_) | with_reducible (refine Keeps.ofSnd (by assumption) ?_)
    | split

theorem State.chunkPassed_keeps {s0 s : State} (h : Keeps s0 s) (c : Nat) (p : Step) (j : Nat) (zc : Bool) :
    Keeps s0 (State.chunkPassed s c p j zc) := by
  unfold State.chunkPassed
  repeat' first
    | with_reducible first
      | assumption | (intro)
      | (extract_lets +onlyGivenNames x; first | (refine Keeps.cut x ?_ ?_; subst x; rotate_left; intro; clear_value x) | (refine Keeps.cut x.2 ?_ ?_; subst x; rotate_left; intro; clear_value x) | (refine Keeps.cut x.1 ?_ ?_; subst x; rotate_left; intro; clear_value x) | clear_value x)
      | apply State.modStep_keeps | apply State.sendResults_keeps | apply State.startSlice_keeps | apply State.takeEngines_keeps
      | apply State.tryDone_keeps | apply Keeps.ite | (fail_if_no_progress apply Keeps.mk0)
    | with_reducible (refine Keeps.ofFst (by assumption) ?_) | with_reducible (refine Keeps.ofSnd (by assumption) ?_)
    | split

theorem State.completeChunk_keeps {s0 s : State} (h : Keeps s0 s) (c : Nat) (p : Step) (j : Nat) (ok : Bool) :
    Keeps s0 (State.completeChunk s c p j ok) := by
  unfold State.completeChunk
  repeat' first
    | with_reducible first
      | assumption | (intro)
      | (extract_lets +onlyGivenNames x; first | (refine Keeps.cut x ?_ ?_; subst x; rotate_left; intro; clear_value x) | (refine Keeps.cut x.2 ?_ ?_; subst x; rotate_left; intro; clear_value x) | (refine Keeps.cut x.1 ?_ ?_; subst x; rotate_left; intro; clear_value x) | clear_value x)
      | apply State.chunkPassed_keeps | apply State.residueFail_keeps | apply Keeps.ite | (fail_if_no_progress apply Keeps.mk0)
    | with_reducible (refine Keeps.ofFst (by assumption) ?_) | with_reducible (refine Keeps.ofSnd (by assumption) ?_)
    | split

theorem State.collDrop_keeps {s0 s : State} (h : Keeps s0 s) (iod : Nat) :
    Keeps s0 (State.collDrop s iod) := by
  unfold State.collDrop
  repeat' first
    | with_reducible first
      | assumption | (intro) | apply State.bump_keeps | apply Keeps.ite
    | split

theorem State.onData_keeps {s0 s : State} (h : Keeps s0 s) (iod c : Nat) (q : Step) (p : Pkt) :
    Keeps s0 (State.onData s iod c q p) := by
  unfold State.onData
  repeat' first
    | with_reducible first
      | assumption | (intro)
      | (extract_lets +onlyGivenNames x; first | (refine Keeps.cut x ?_ ?_; subst x; rotate_left; intro; clear_value x) | clear_value x)
      | apply State.collDrop_keeps | apply State.modStep_keeps | apply State.pulls_keeps | apply Keeps.ite
      | (fail_if_no_progress apply Keeps.mk0)
    | split

theorem State.onResend_keeps {s0 s : State} (h : Keeps s0 s) (iod c : Nat) (q : Step) (p : Pkt) :
    Keeps s0 (State.onResend s iod c q p) := by
  unfold State.onResend
  repeat' first
    | with_reducible first
      | assumption | (intro)
      | (extract_lets +onlyGivenNames x; first | (refine Keeps.cut x ?_ ?_; subst x; rotate_left; intro; clear_value x) | (refine Keeps.cut x.2 ?_ ?_; subst x; rotate_left; intro; clear_value x) | (refine Keeps.cut x.1 ?_ ?_; subst x; rotate_left; intro; clear_value x) | clear_value x)
      | apply State.collDrop_keeps | apply State.sendChunk_keeps | apply Keeps.ite | (fail_if_no_progress apply Keeps.mk0)
    | with_reducible (refine Keeps.ofFst (by assumption) ?_) | with_reducible (refine Keeps.ofSnd (by assumption) ?_)
    | split

theorem State.onPull_keeps {s0 s : State} (h : Keeps s0 s) (iod c : Nat) (q : Step) (p : Pkt) :
    Keeps s0 (State.onPull s iod c q p) := by
  unfold State.onPull
  repeat' first
    | with_reducible first
      | assumption | (intro)
      | (extract_lets +onlyGivenNames x; first | (refine Keeps.cut x ?_ ?_; subst x; rotate_left; intro; clear_value x) | (refine Keeps.cut x.2 ?_ ?_; subst x; rotate_left; intro; clear_value x) | (refine Keeps.cut x.1 ?_ ?_; subst x; rotate_left; intro; clear_value x) | clear_value x)
      | apply State.collDrop_keeps | apply State.sendStep_keeps | apply Keeps.ite | (fail_if_no_progress apply Keeps.mk0)
    | with_reducible (refine Keeps.ofFst (by assumption) ?_) | with_reducible (refine Keeps.ofSnd (by assumption) ?_)
    | (show Keeps s0 _; assumption)
    | split

theorem State.collOne_keeps {s0 s : State} (h : Keeps s0 s) (iod c : Nat) (q : Step) (p : Pkt) :
    Keeps s0 (State.collOne s iod c q p) := by
  unfold State.collOne
  repeat' first
    | with_reducible first
      | assumption | (intro)
      | (extract_lets +onlyGivenNames x; first | (refine Keeps.cut x ?_ ?_; subst x; rotate_left; intro; clear_value x) | clear_value x)
      | apply State.collDrop_keeps | apply State.failStep_keeps | apply State.modStep_keeps | apply State.noteDone_keeps
      | apply State.noteHash_keeps | apply State.onData_keeps | apply State.onGo_keeps | apply State.onPull_keeps
      | apply State.onResend_keeps | apply State.placeOut_keeps | apply State.tryDone_keeps | apply Keeps.ite
      | (fail_if_no_progress apply Keeps.mk0)
    | split

theorem State.fencedMember_keeps {s0 s : State} (h : Keeps s0 s) (c : Nat) (p : Pkt) : Keeps s0 (State.fencedMember s c p) := by
  unfold State.fencedMember
  split
  · exact h
  · exact Keeps.ite h (State.abortAll_keeps h _ _ _ _ _)

theorem State.collPlace_keeps {s0 s : State} (h : Keeps s0 s) (iod : Nat) (p : Pkt) :
    Keeps s0 (State.collPlace s iod p) := by
  unfold State.collPlace
  repeat' first
    | with_reducible first
      | assumption | (intro) | apply State.collDrop_keeps | apply State.collOne_keeps | apply State.fencedMember_keeps
      | apply State.when_keeps | apply State.each_keeps
      | apply Keeps.foldl | apply Keeps.foldlFst | apply Keeps.foldlSnd | apply Keeps.ite | (fail_if_no_progress apply Keeps.mk0)
    | with_reducible (refine Keeps.ofFst (by assumption) ?_) | with_reducible (refine Keeps.ofSnd (by assumption) ?_)
    | split

theorem execCollStepTimeout_keeps {s0 s : State} (h : Keeps s0 s) (c step : Nat) :
    KeepsOut s0 (execCollStepTimeout c step s) := by
  unfold execCollStepTimeout
  repeat' first
    | with_reducible first
      | assumption | (intro)
      | (extract_lets +onlyGivenNames x; first | (refine Keeps.cut x ?_ ?_; subst x; rotate_left; intro; clear_value x) | (refine KeepsOut.cut x ?_ ?_; subst x; rotate_left; intro; clear_value x) | clear_value x)
      | apply guardUnit_keeps | apply KeepsOut.next | exact KeepsOut.fault | apply KeepsOut.ite | apply State.failStep_keeps
      | apply Keeps.ite | (fail_if_no_progress apply Keeps.mk0)
    | split

end Sys2Proof.Machine
end

