-- ==== Sys2Proof/Laws/KeepLocks.lean ====
section
/-! SUPPORT. What the operations of Machine/Locks.lean keep (see Laws/Keep.lean). -/

set_option linter.all false

namespace Sys2Proof.Machine

theorem State.takeLock_keeps {s0 s : State} (h : Keeps s0 s) (cls inst : Nat) (holder : Nat × Nat) (tag : Nat) :
    Keeps s0 (State.takeLock s cls inst holder tag) := by
  unfold State.takeLock
  repeat' first
    | with_reducible first
      | assumption | (intro) | apply Keeps.ite | (fail_if_no_progress apply Keeps.mk0)
    | with_reducible (refine Keeps.ofFst (by assumption) ?_) | with_reducible (refine Keeps.ofSnd (by assumption) ?_)
    | split

theorem State.freeLock_keeps {s0 s : State} (h : Keeps s0 s) (cls inst : Nat) :
    Keeps s0 (State.freeLock s cls inst) := by
  unfold State.freeLock
  repeat' first
    | with_reducible first
      | assumption | (intro) | apply State.raiseBit_keeps | apply Keeps.ite
      | (fail_if_no_progress apply Keeps.mk0)
    | split

theorem State.modRst_keeps {s0 s : State} (h : Keeps s0 s) (f : Rst → Rst) :
    Keeps s0 (State.modRst s f) := by
  unfold State.modRst
  repeat' first
    | with_reducible first
      | assumption | (intro) | apply Keeps.ite | (fail_if_no_progress apply Keeps.mk0)
    | split

theorem State.lockBusy_keeps {s0 s : State} (h : Keeps s0 s)  :
    Keeps s0 (State.lockBusy s) := by
  unfold State.lockBusy
  repeat' first
    | with_reducible first
      | assumption | (intro) | apply State.bump_keeps | apply State.raise_keeps | apply Keeps.ite
    | split

end Sys2Proof.Machine
end

