-- ==== Sys2Proof/Laws/KeepLinks.lean ====
section
/-! SUPPORT. What the operations of Machine/Links.lean keep (see Laws/Keep.lean). -/

set_option linter.all false

namespace Sys2Proof.Machine

theorem State.setPort_keeps {s0 s : State} (h : Keeps s0 s) (p : Nat) (x : Port) :
    Keeps s0 (State.setPort s p x) := by
  unfold State.setPort
  repeat' first
    | exact id | exact fun w => Sparse.set_wf w _ _ | exact fun w => Sparse.clear_wf w _ | exact fun w => Sparse.mapVals_wf w _
    | exact fun _ => rfl | exact fun w => Sparse.setRange_wf _ w _ | exact fun w => Sparse.foldl_set_wf _ _ _ w
    | with_reducible first
      | assumption | (intro) | apply Keeps.ite | (fail_if_no_progress apply Keeps.mk0)
    | with_reducible ((fail_if_success apply Keeps.mk0); apply Keeps.mk1)
    | split

theorem State.modPort_keeps {s0 s : State} (h : Keeps s0 s) (p : Nat) (f : Port → Port) :
    Keeps s0 (State.modPort s p f) := by
  unfold State.modPort
  repeat' first
    | with_reducible first
      | assumption | (intro) | apply State.setPort_keeps | apply Keeps.ite
    | split

theorem State.sendFlit_keeps {s0 s : State} (h : Keeps s0 s) (p ftype vc : Nat) (first last nak : Bool) (payload : List Byte) (pkt : Option Queued) :
    Keeps s0 (State.sendFlit s p ftype vc first last nak payload pkt) := by
  unfold State.sendFlit
  repeat' first
    | with_reducible first
      | assumption | (intro)
      | (extract_lets +onlyGivenNames x; first | (refine Keeps.cut x ?_ ?_; subst x; rotate_left; intro; clear_value x) | (refine Keeps.cut x.2 ?_ ?_; subst x; rotate_left; intro; clear_value x) | (refine Keeps.cut x.1 ?_ ?_; subst x; rotate_left; intro; clear_value x) | clear_value x)
      | apply State.emit_keeps | apply State.setPort_keeps | apply Keeps.ite | (fail_if_no_progress apply Keeps.mk0)
    | with_reducible (refine Keeps.ofFst (by assumption) ?_) | with_reducible (refine Keeps.ofSnd (by assumption) ?_)
    | split

theorem State.sendTag_keeps {s0 s : State} (h : Keeps s0 s) (p : Nat) :
    Keeps s0 (State.sendTag s p) := by
  unfold State.sendTag
  repeat' first
    | with_reducible first
      | assumption | (intro)
      | (extract_lets +onlyGivenNames x; first | (refine Keeps.cut x ?_ ?_; subst x; rotate_left; intro; clear_value x) | clear_value x)
      | apply State.modPort_keeps | apply State.sendFlit_keeps | apply Keeps.ite | (fail_if_no_progress apply Keeps.mk0)
    | split

theorem State.send_keeps {s0 s : State} (h : Keeps s0 s) (p ftype vc : Nat) (first last : Bool) (payload : List Byte) (pkt : Option Queued) :
    Keeps s0 (State.send s p ftype vc first last payload pkt) := by
  unfold State.send
  repeat' first
    | with_reducible first
      | assumption | (intro)
      | (extract_lets +onlyGivenNames x; first | (refine Keeps.cut x ?_ ?_; subst x; rotate_left; intro; clear_value x) | clear_value x)
      | apply State.sendFlit_keeps | apply State.sendTag_keeps | apply Keeps.ite
    | split

theorem State.sendIdle_keeps {s0 s : State} (h : Keeps s0 s) (p : Nat) (nak : Bool) :
    Keeps s0 (State.sendIdle s p nak) := by
  unfold State.sendIdle
  repeat' first
    | with_reducible first
      | assumption | (intro) | apply State.sendFlit_keeps | apply Keeps.ite
    | split

theorem State.pump_keeps {s0 s : State} (h : Keeps s0 s) (p : Nat) (l : List LinkCtl) : Keeps s0 (State.pump p l s) := by
  induction l generalizing s with
  | nil => exact h
  | cons c rest ih =>
    simp only [State.pump]
    refine Keeps.ite (State.modPort_keeps h _ _) ?_
    cases c with
    | flit b => exact ih (State.send_keeps h _ _ _ _ _ _ _)
    | key k =>
      exact Keeps.ite (ih (State.sendTag_keeps (State.modPort_keeps h _ _) _)) (ih (State.modPort_keeps h _ _))

theorem State.pumpCtl_keeps {s0 s : State} (h : Keeps s0 s) (p : Nat) :
    Keeps s0 (State.pumpCtl s p) := by
  unfold State.pumpCtl
  repeat' first
    | with_reducible first
      | assumption | (intro) | apply State.modPort_keeps | apply State.pump_keeps | apply Keeps.ite
      | (fail_if_no_progress apply Keeps.mk0)
    | split

theorem State.pushCtl_keeps {s0 s : State} (h : Keeps s0 s) (p : Nat) (c : LinkCtl) :
    Keeps s0 (State.pushCtl s p c) := by
  unfold State.pushCtl
  repeat' first
    | with_reducible first
      | assumption | (intro) | apply State.modPort_keeps | apply State.pumpCtl_keeps | apply Keeps.ite
      | (fail_if_no_progress apply Keeps.mk0)
    | split

theorem State.sendCtl_keeps {s0 s : State} (h : Keeps s0 s) (p ctype : Nat) (args : List Byte) :
    Keeps s0 (State.sendCtl s p ctype args) := by
  unfold State.sendCtl
  repeat' first
    | with_reducible first
      | assumption | (intro) | apply State.pushCtl_keeps | apply Keeps.ite
    | split

theorem State.sendPkt_keeps {s0 s : State} (h : Keeps s0 s) (port : Nat) (q : Queued) (out : Pkt) :
    Keeps s0 (State.sendPkt s port q out) := by
  unfold State.sendPkt
  repeat' first
    | with_reducible first
      | assumption | (intro)
      | (extract_lets +onlyGivenNames x; first | (refine Keeps.cut x ?_ ?_; subst x; rotate_left; intro; clear_value x) | clear_value x)
      | apply State.modPort_keeps | apply State.modRouter_keeps | apply State.send_keeps | apply Keeps.foldl
      | apply Keeps.foldlFst | apply Keeps.foldlSnd | apply Keeps.ite | (fail_if_no_progress apply Keeps.mk0)
    | split

theorem State.notePool_keeps {s0 s : State} (h : Keeps s0 s) (iod : Nat) :
    Keeps s0 (State.notePool s iod) := by
  unfold State.notePool
  repeat' first
    | with_reducible first
      | assumption | (intro) | apply State.modRouter_keeps | apply Keeps.ite
      | (fail_if_no_progress apply Keeps.mk0)
    | split

theorem State.enqueue_keeps {s0 s : State} (h : Keeps s0 s) (iod : Nat) (q : Queued) :
    Keeps s0 (State.enqueue s iod q) := by
  unfold State.enqueue
  repeat' first
    | with_reducible first
      | assumption | (intro)
      | (extract_lets +onlyGivenNames x; first | (refine Keeps.cut x ?_ ?_; subst x; rotate_left; intro; clear_value x) | clear_value x)
      | apply State.modRouter_keeps | apply State.notePool_keeps | apply Keeps.ite | (fail_if_no_progress apply Keeps.mk0)
    | split

theorem State.grant_keeps {s0 s : State} (h : Keeps s0 s) (p vc : Nat) (floor : Bool) :
    Keeps s0 (State.grant s p vc floor) := by
  unfold State.grant
  repeat' first
    | with_reducible first
      | assumption | (intro)
      | (extract_lets +onlyGivenNames x; first | (refine Keeps.cut x ?_ ?_; subst x; rotate_left; intro; clear_value x) | (refine Keeps.cut x.2 ?_ ?_; subst x; rotate_left; intro; clear_value x) | (refine Keeps.cut x.1 ?_ ?_; subst x; rotate_left; intro; clear_value x) | clear_value x)
      | apply State.free_keeps | apply State.modPort_keeps | apply Keeps.ite | apply Keeps.iteFst | apply Keeps.iteSnd
      | (fail_if_no_progress apply Keeps.mk0)
    | with_reducible (refine Keeps.ofFst (by assumption) ?_) | with_reducible (refine Keeps.ofSnd (by assumption) ?_)
    | split

theorem State.release_keeps {s0 s : State} (h : Keeps s0 s) (q : Queued) :
    Keeps s0 (State.release s q) := by
  unfold State.release
  repeat' first
    | with_reducible first
      | assumption | (intro)
      | (extract_lets +onlyGivenNames x; first | (refine Keeps.cut x ?_ ?_; subst x; rotate_left; intro; clear_value x) | clear_value x)
      | apply State.grant_keeps | apply State.modPort_keeps | apply State.sendIdle_keeps | apply Keeps.ite
      | (fail_if_no_progress apply Keeps.mk0)
    | split

theorem State.raisePort_keeps {s0 s : State} (h : Keeps s0 s) (e : Ev) (p : Nat) :
    Keeps s0 (State.raisePort s e p) := by
  unfold State.raisePort
  repeat' first
    | with_reducible first
      | assumption | (intro) | apply State.raiseTo_keeps | apply Keeps.ite
    | split

theorem State.leaveActive_keeps {s0 s : State} (h : Keeps s0 s) (p : Nat) :
    Keeps s0 (State.leaveActive s p) := by
  unfold State.leaveActive
  repeat' first
    | with_reducible first
      | assumption | (intro)
      | (extract_lets +onlyGivenNames x; first | (refine Keeps.cut x ?_ ?_; subst x; rotate_left; intro; clear_value x) | clear_value x)
      | apply State.bumpBy_keeps | apply State.modPort_keeps | apply State.modRouter_keeps | apply State.raise_keeps
      | apply State.when_keeps | apply Keeps.ite | (fail_if_no_progress apply Keeps.mk0)
    | split

theorem State.portTo_keeps {s0 s : State} (h : Keeps s0 s) (p st cause : Nat) :
    Keeps s0 (State.portTo s p st cause) := by
  unfold State.portTo
  repeat' first
    | with_reducible first
      | assumption | (intro)
      | (extract_lets +onlyGivenNames x; first | (refine Keeps.cut x ?_ ?_; subst x; rotate_left; intro; clear_value x) | clear_value x)
      | apply State.freeLock_keeps | apply State.fset_keeps | apply State.leaveActive_keeps | apply State.raisePort_keeps
      | apply State.when_keeps | apply Keeps.ite
    | split

theorem State.toDetect_keeps {s0 s : State} (h : Keeps s0 s) (p : Nat) :
    Keeps s0 (State.toDetect s p) := by
  unfold State.toDetect
  repeat' first
    | with_reducible first
      | assumption | (intro)
      | (extract_lets +onlyGivenNames x; first | (refine Keeps.cut x ?_ ?_; subst x; rotate_left; intro; clear_value x) | clear_value x)
      | apply State.fset_keeps | apply State.modPort_keeps | apply State.portTo_keeps | apply Keeps.foldl | apply Keeps.foldlFst
      | apply Keeps.foldlSnd | apply Keeps.ite
    | split

theorem State.portStart_keeps {s0 s : State} (h : Keeps s0 s) (p : Nat) :
    Keeps s0 (State.portStart s p) := by
  unfold State.portStart
  repeat' first
    | with_reducible first
      | assumption | (intro) | apply State.portTo_keeps | apply State.toDetect_keeps | apply Keeps.ite
    | split

theorem State.toOff_keeps {s0 s : State} (h : Keeps s0 s) (p : Nat) :
    Keeps s0 (State.toOff s p) := by
  unfold State.toOff
  repeat' first
    | with_reducible first
      | assumption | (intro)
      | (extract_lets +onlyGivenNames x; first | (refine Keeps.cut x ?_ ?_; subst x; rotate_left; intro; clear_value x) | clear_value x)
      | apply State.fset_keeps | apply State.modPort_keeps | apply State.portTo_keeps | apply Keeps.foldl | apply Keeps.foldlFst
      | apply Keeps.foldlSnd | apply Keeps.ite
    | split

theorem State.portRec_keeps {s0 s : State} (h : Keeps s0 s) (p lane status rack slot port : Nat) :
    Keeps s0 (State.portRec s p lane status rack slot port) := by
  unfold State.portRec
  repeat' first
    | with_reducible first
      | assumption | (intro)
      | (extract_lets +onlyGivenNames x; first | (refine Keeps.cut x ?_ ?_; subst x; rotate_left; intro; clear_value x) | clear_value x)
      | apply State.logFault_keeps | apply Keeps.ite
    | split

theorem State.hold_keeps {s0 s : State} (h : Keeps s0 s) (p st status rack slot port : Nat) :
    Keeps s0 (State.hold s p st status rack slot port) := by
  unfold State.hold
  repeat' first
    | with_reducible first
      | assumption | (intro)
      | (extract_lets +onlyGivenNames x; first | (refine Keeps.cut x ?_ ?_; subst x; rotate_left; intro; clear_value x) | clear_value x)
      | apply State.duntusEvent_keeps | apply State.portRec_keeps | apply State.portTo_keeps | apply State.raisePort_keeps
      | apply State.sendCtl_keeps | apply State.when_keeps | apply Keeps.ite | (fail_if_no_progress apply Keeps.mk0)
    | split

theorem State.noteMiswire_keeps {s0 s : State} (h : Keeps s0 s) (p slot port : Nat) :
    Keeps s0 (State.noteMiswire s p slot port) := by
  unfold State.noteMiswire
  repeat' first
    | with_reducible first
      | assumption | (intro)
      | (extract_lets +onlyGivenNames x; first | (refine Keeps.cut x ?_ ?_; subst x; rotate_left; intro; clear_value x) | clear_value x)
      | apply State.raisePort_keeps | apply State.setReg_keeps | apply Keeps.ite | (fail_if_no_progress apply Keeps.mk0)
    | split

theorem State.sendSet_keeps {s0 s : State} (h : Keeps s0 s) (p : Nat) :
    Keeps s0 (State.sendSet s p) := by
  unfold State.sendSet
  repeat' first
    | with_reducible first
      | assumption | (intro)
      | (extract_lets +onlyGivenNames x; first | (refine Keeps.cut x ?_ ?_; subst x; rotate_left; intro; clear_value x) | clear_value x)
      | apply State.sendCtl_keeps | apply Keeps.foldl | apply Keeps.foldlFst | apply Keeps.foldlSnd | apply Keeps.ite
    | split

theorem State.toIdentify_keeps {s0 s : State} (h : Keeps s0 s) (p : Nat) :
    Keeps s0 (State.toIdentify s p) := by
  unfold State.toIdentify
  repeat' first
    | with_reducible first
      | assumption | (intro)
      | (extract_lets +onlyGivenNames x; first | (refine Keeps.cut x ?_ ?_; subst x; rotate_left; intro; clear_value x) | clear_value x)
      | apply State.emit_keeps | apply State.modPort_keeps | apply State.portTo_keeps | apply State.sendSet_keeps
      | apply State.when_keeps | apply Keeps.ite | (fail_if_no_progress apply Keeps.mk0)
    | split

theorem execIdentitySetSign_keeps {s0 s : State} (h : Keeps s0 s)  :
    KeepsOut s0 (execIdentitySetSign s) := by
  unfold execIdentitySetSign
  repeat' first
    | with_reducible first
      | assumption | (intro)
      | (extract_lets +onlyGivenNames x; first | (refine Keeps.cut x ?_ ?_; subst x; rotate_left; intro; clear_value x) | (refine Keeps.cut x.2 ?_ ?_; subst x; rotate_left; intro; clear_value x) | (refine Keeps.cut x.1 ?_ ?_; subst x; rotate_left; intro; clear_value x) | (refine KeepsOut.cut x ?_ ?_; subst x; rotate_left; intro; clear_value x) | (refine KeepsOut.cut x.2 ?_ ?_; subst x; rotate_left; intro; clear_value x) | clear_value x)
      | apply KeepsOut.next | exact KeepsOut.fault | apply KeepsOut.ite | apply State.free_keeps | apply State.sendSet_keeps
      | apply State.when_keeps | apply Keeps.foldl | apply Keeps.foldlFst | apply Keeps.foldlSnd | apply Keeps.ite
      | apply Keeps.iteFst | apply Keeps.iteSnd | (fail_if_no_progress apply Keeps.mk0)
    | with_reducible (refine Keeps.ofFst (by assumption) ?_) | with_reducible (refine Keeps.ofSnd (by assumption) ?_)
    | split

theorem State.measure_keeps {s0 s : State} (h : Keeps s0 s) (p : Nat) :
    Keeps s0 (State.measure s p) := by
  unfold State.measure
  repeat' first
    | with_reducible first
      | assumption | (intro)
      | (extract_lets +onlyGivenNames x; first | (refine Keeps.cut x ?_ ?_; subst x; rotate_left; intro; clear_value x) | (refine Keeps.cut x.2 ?_ ?_; subst x; rotate_left; intro; clear_value x) | (refine Keeps.cut x.1 ?_ ?_; subst x; rotate_left; intro; clear_value x) | clear_value x)
      | apply State.free_keeps | apply State.modPort_keeps | apply State.sendCtl_keeps | apply Keeps.foldl | apply Keeps.foldlFst
      | apply Keeps.foldlSnd | apply Keeps.ite | apply Keeps.iteFst | apply Keeps.iteSnd | (fail_if_no_progress apply Keeps.mk0)
    | with_reducible (refine Keeps.ofFst (by assumption) ?_) | with_reducible (refine Keeps.ofSnd (by assumption) ?_)
    | split

theorem State.toActive_keeps {s0 s : State} (h : Keeps s0 s) (p : Nat) :
    Keeps s0 (State.toActive s p) := by
  unfold State.toActive
  repeat' first
    | with_reducible first
      | assumption | (intro)
      | (extract_lets +onlyGivenNames x; first | (refine Keeps.cut x ?_ ?_; subst x; rotate_left; intro; clear_value x) | clear_value x)
      | apply State.fset_keeps | apply State.grant_keeps | apply State.modPort_keeps | apply State.portTo_keeps
      | apply State.sendIdle_keeps | apply Keeps.foldl | apply Keeps.foldlFst | apply Keeps.foldlSnd | apply Keeps.ite
      | (fail_if_no_progress apply Keeps.mk0)
    | split

theorem State.encapsulate_keeps {s0 s : State} (h : Keeps s0 s) (p : Nat) :
    Keeps s0 (State.encapsulate s p).2 := by
  unfold State.encapsulate
  repeat' first
    | with_reducible first
      | assumption | (intro)
      | (extract_lets +onlyGivenNames x; first | (refine Keeps.cut x ?_ ?_; subst x; rotate_left; intro; clear_value x) | (refine Keeps.cut x.2 ?_ ?_; subst x; rotate_left; intro; clear_value x) | (refine Keeps.cut x.1 ?_ ?_; subst x; rotate_left; intro; clear_value x) | clear_value x)
      | apply State.free_keeps | apply State.pushCtl_keeps | apply State.sendCtl_keeps | apply Keeps.foldl | apply Keeps.foldlFst
      | apply Keeps.foldlSnd | apply Keeps.ite | apply Keeps.iteFst | apply Keeps.iteSnd
    | with_reducible (refine Keeps.ofFst (by assumption) ?_) | with_reducible (refine Keeps.ofSnd (by assumption) ?_)
    | split

theorem State.toSeal_keeps {s0 s : State} (h : Keeps s0 s) (p : Nat) :
    Keeps s0 (State.toSeal s p) := by
  unfold State.toSeal
  repeat' first
    | with_reducible first
      | assumption | (intro)
      | (extract_lets +onlyGivenNames x; first | (refine Keeps.cut x ?_ ?_; subst x; rotate_left; intro; clear_value x) | (refine Keeps.cut x.2 ?_ ?_; subst x; rotate_left; intro; clear_value x) | (refine Keeps.cut x.1 ?_ ?_; subst x; rotate_left; intro; clear_value x) | clear_value x)
      | apply State.encapsulate_keeps | apply State.modPort_keeps | apply State.portTo_keeps | apply Keeps.ite
      | apply Keeps.iteFst | apply Keeps.iteSnd | (fail_if_no_progress apply Keeps.mk0)
    | with_reducible (refine Keeps.ofFst (by assumption) ?_) | with_reducible (refine Keeps.ofSnd (by assumption) ?_)
    | split

theorem State.afterLatency_keeps {s0 s : State} (h : Keeps s0 s) (p : Nat) :
    Keeps s0 (State.afterLatency s p) := by
  unfold State.afterLatency
  repeat' first
    | with_reducible first
      | assumption | (intro) | apply State.toActive_keeps | apply State.toSeal_keeps | apply Keeps.ite
    | split

theorem State.checked_keeps {s0 s : State} (h : Keeps s0 s) (p : Nat) (set : List Byte) (sender : Nat) :
    Keeps s0 (State.checked s p set sender) := by
  unfold State.checked
  repeat' first
    | with_reducible first
      | assumption | (intro)
      | (extract_lets +onlyGivenNames x; first | (refine Keeps.cut x ?_ ?_; subst x; rotate_left; intro; clear_value x) | clear_value x)
      | apply State.bump_keeps | apply State.fset_keeps | apply State.hold_keeps | apply State.measure_keeps
      | apply State.modPort_keeps | apply State.noteMiswire_keeps | apply State.portTo_keeps | apply State.setReg_keeps
      | apply State.when_keeps | apply Keeps.ite | (fail_if_no_progress apply Keeps.mk0)
    | split

theorem execSignalDetect_keeps {s0 s : State} (h : Keeps s0 s) (port : Nat) (lanes : BitVec 4) :
    KeepsOut s0 (execSignalDetect port lanes s) := by
  unfold execSignalDetect
  repeat' first
    | with_reducible first
      | assumption | (intro) | apply guardUnit_keeps | apply KeepsOut.next | exact KeepsOut.fault
      | apply KeepsOut.ite | apply State.portTo_keeps | apply Keeps.ite
    | split

theorem execSignalLoss_keeps {s0 s : State} (h : Keeps s0 s) (port : Nat) :
    KeepsOut s0 (execSignalLoss port s) := by
  unfold execSignalLoss
  repeat' first
    | with_reducible first
      | assumption | (intro)
      | (extract_lets +onlyGivenNames x; first | (refine Keeps.cut x ?_ ?_; subst x; rotate_left; intro; clear_value x) | (refine KeepsOut.cut x ?_ ?_; subst x; rotate_left; intro; clear_value x) | clear_value x)
      | apply guardUnit_keeps | apply KeepsOut.next | exact KeepsOut.fault | apply KeepsOut.ite | apply State.toDetect_keeps
      | apply Keeps.ite
    | split

theorem execDetectTimeout_keeps {s0 s : State} (h : Keeps s0 s) (port : Nat) :
    KeepsOut s0 (execDetectTimeout port s) := by
  unfold execDetectTimeout
  repeat' first
    | with_reducible first
      | assumption | (intro) | apply guardUnit_keeps | apply KeepsOut.next | exact KeepsOut.fault
      | apply KeepsOut.ite | apply State.portTo_keeps | apply Keeps.ite
    | split

theorem execLanesLocked_keeps {s0 s : State} (h : Keeps s0 s) (port : Nat) (lanes inverted : BitVec 4) (reversed : Bool) :
    KeepsOut s0 (execLanesLocked port lanes inverted reversed s) := by
  unfold execLanesLocked
  repeat' first
    | with_reducible first
      | assumption | (intro)
      | (extract_lets +onlyGivenNames x; first | (refine Keeps.cut x ?_ ?_; subst x; rotate_left; intro; clear_value x) | (refine KeepsOut.cut x ?_ ?_; subst x; rotate_left; intro; clear_value x) | clear_value x)
      | apply guardUnit_keeps | apply KeepsOut.next | exact KeepsOut.fault | apply KeepsOut.ite | apply State.fset_keeps
      | apply State.modPort_keeps | apply State.toIdentify_keeps | apply Keeps.foldl | apply Keeps.foldlFst | apply Keeps.foldlSnd
      | apply Keeps.ite | (fail_if_no_progress apply Keeps.mk0)
    | split

theorem execPhyTrainTimeout_keeps {s0 s : State} (h : Keeps s0 s) (port : Nat) :
    KeepsOut s0 (execPhyTrainTimeout port s) := by
  unfold execPhyTrainTimeout
  repeat' first
    | with_reducible first
      | assumption | (intro) | apply guardUnit_keeps | apply KeepsOut.next | exact KeepsOut.fault
      | apply KeepsOut.ite | apply State.portTo_keeps | apply Keeps.ite
    | split

theorem execIdentifyTimeout_keeps {s0 s : State} (h : Keeps s0 s) (port : Nat) :
    KeepsOut s0 (execIdentifyTimeout port s) := by
  unfold execIdentifyTimeout
  repeat' first
    | with_reducible first
      | assumption | (intro) | apply guardUnit_keeps | apply KeepsOut.next | exact KeepsOut.fault
      | apply KeepsOut.ite | apply State.bump_keeps | apply State.hold_keeps | apply Keeps.ite
    | split

theorem execSealTimeout_keeps {s0 s : State} (h : Keeps s0 s) (port : Nat) :
    KeepsOut s0 (execSealTimeout port s) := by
  unfold execSealTimeout
  repeat' first
    | with_reducible first
      | assumption | (intro) | apply guardUnit_keeps | apply KeepsOut.next | exact KeepsOut.fault
      | apply KeepsOut.ite | apply State.hold_keeps | apply Keeps.ite
    | split

theorem execRetrainTimeout_keeps {s0 s : State} (h : Keeps s0 s) (port : Nat) :
    KeepsOut s0 (execRetrainTimeout port s) := by
  unfold execRetrainTimeout
  repeat' first
    | with_reducible first
      | assumption | (intro) | apply guardUnit_keeps | apply KeepsOut.next | exact KeepsOut.fault
      | apply KeepsOut.ite | apply State.toDetect_keeps | apply Keeps.ite
    | split

theorem execAbsentRetry_keeps {s0 s : State} (h : Keeps s0 s) (port : Nat) :
    KeepsOut s0 (execAbsentRetry port s) := by
  unfold execAbsentRetry
  repeat' first
    | with_reducible first
      | assumption | (intro) | apply guardUnit_keeps | apply KeepsOut.next | exact KeepsOut.fault
      | apply KeepsOut.ite | apply State.toDetect_keeps | apply Keeps.ite
    | split

theorem State.retrained_keeps {s0 s : State} (h : Keeps s0 s) (p : Nat) :
    Keeps s0 (State.retrained s p) := by
  unfold State.retrained
  repeat' first
    | with_reducible first
      | assumption | (intro)
      | (extract_lets +onlyGivenNames x; first | (refine Keeps.cut x ?_ ?_; subst x; rotate_left; intro; clear_value x) | clear_value x)
      | apply State.checked_keeps | apply State.measure_keeps | apply State.modPort_keeps | apply State.toActive_keeps
      | apply Keeps.ite | (fail_if_no_progress apply Keeps.mk0)
    | split

theorem execIdSeg_keeps {s0 s : State} (h : Keeps s0 s) (port sender offset : Nat) (seg : List Byte) :
    KeepsOut s0 (execIdSeg port sender offset seg s) := by
  unfold execIdSeg
  repeat' first
    | with_reducible first
      | assumption | (intro)
      | (extract_lets +onlyGivenNames x; first | (refine Keeps.cut x ?_ ?_; subst x; rotate_left; intro; clear_value x) | (refine KeepsOut.cut x ?_ ?_; subst x; rotate_left; intro; clear_value x) | clear_value x)
      | apply guardUnit_keeps | apply KeepsOut.next | exact KeepsOut.fault | apply KeepsOut.ite | apply State.checked_keeps
      | apply State.modPort_keeps | apply State.retrained_keeps | apply State.when_keeps | apply Keeps.ite
      | (fail_if_no_progress apply Keeps.mk0)
    | split

theorem execEcho_keeps {s0 s : State} (h : Keeps s0 s) (port : Nat) (request : Bool) (stamp turnaround now : Nat) :
    KeepsOut s0 (execEcho port request stamp turnaround now s) := by
  unfold execEcho
  repeat' first
    | with_reducible first
      | assumption | (intro)
      | (extract_lets +onlyGivenNames x; first | (refine Keeps.cut x ?_ ?_; subst x; rotate_left; intro; clear_value x) | (refine Keeps.cut x.2 ?_ ?_; subst x; rotate_left; intro; clear_value x) | (refine Keeps.cut x.1 ?_ ?_; subst x; rotate_left; intro; clear_value x) | (refine KeepsOut.cut x ?_ ?_; subst x; rotate_left; intro; clear_value x) | (refine KeepsOut.cut x.2 ?_ ?_; subst x; rotate_left; intro; clear_value x) | clear_value x)
      | apply guardUnit_keeps | apply KeepsOut.next | exact KeepsOut.fault | apply KeepsOut.ite | apply State.afterLatency_keeps
      | apply State.fset_keeps | apply State.sendCtl_keeps | apply State.setPort_keeps | apply Keeps.ite | apply Keeps.iteFst
      | apply Keeps.iteSnd | (fail_if_no_progress apply Keeps.mk0)
    | with_reducible (refine Keeps.ofFst (by assumption) ?_) | with_reducible (refine Keeps.ofSnd (by assumption) ?_)
    | split

theorem execHold_keeps {s0 s : State} (h : Keeps s0 s) (port status : Nat) (miswire : BitVec 32) :
    KeepsOut s0 (execHold port status miswire s) := by
  unfold execHold
  repeat' first
    | with_reducible first
      | assumption | (intro) | apply guardUnit_keeps | apply KeepsOut.next | exact KeepsOut.fault
      | apply KeepsOut.ite | apply State.modPort_keeps | apply Keeps.ite | (fail_if_no_progress apply Keeps.mk0)
    | split

theorem State.retirePort_keeps {s0 s : State} (h : Keeps s0 s) (p : Nat) :
    Keeps s0 (State.retirePort s p) := by
  unfold State.retirePort
  repeat' first
    | with_reducible first
      | assumption | (intro)
      | (extract_lets +onlyGivenNames x; first | (refine Keeps.cut x ?_ ?_; subst x; rotate_left; intro; clear_value x) | clear_value x)
      | apply State.brokeAdd_keeps | apply State.portRec_keeps | apply State.portTo_keeps | apply State.raisePort_keeps
      | apply Keeps.ite
    | split

theorem State.setWidth_keeps {s0 s : State} (h : Keeps s0 s) (p mask : Nat) :
    Keeps s0 (State.setWidth s p mask) := by
  unfold State.setWidth
  repeat' first
    | with_reducible first
      | assumption | (intro)
      | (extract_lets +onlyGivenNames x; first | (refine Keeps.cut x ?_ ?_; subst x; rotate_left; intro; clear_value x) | clear_value x)
      | apply State.bumpBy_keeps | apply State.emit_keeps | apply State.fset_keeps | apply State.measure_keeps
      | apply State.raise_keeps | apply State.retirePort_keeps | apply State.setPort_keeps | apply State.when_keeps
      | apply Keeps.foldl | apply Keeps.foldlFst | apply Keeps.foldlSnd | apply Keeps.ite | (fail_if_no_progress apply Keeps.mk0)
    | split

theorem State.retireLane_keeps {s0 s : State} (h : Keeps s0 s) (p lane : Nat) :
    Keeps s0 (State.retireLane s p lane) := by
  unfold State.retireLane
  repeat' first
    | with_reducible first
      | assumption | (intro)
      | (extract_lets +onlyGivenNames x; first | (refine Keeps.cut x ?_ ?_; subst x; rotate_left; intro; clear_value x) | (refine Keeps.cut x.2 ?_ ?_; subst x; rotate_left; intro; clear_value x) | (refine Keeps.cut x.1 ?_ ?_; subst x; rotate_left; intro; clear_value x) | clear_value x)
      | apply State.brokeAdd_keeps | apply State.bump_keeps | apply State.fset_keeps | apply State.modPort_keeps
      | apply State.portRec_keeps | apply State.raisePort_keeps | apply State.retirePort_keeps | apply State.sendCtl_keeps
      | apply Keeps.ite | (fail_if_no_progress apply Keeps.mk0)
    | with_reducible (refine Keeps.ofFst (by assumption) ?_) | with_reducible (refine Keeps.ofSnd (by assumption) ?_)
    | split

theorem execWidth_keeps {s0 s : State} (h : Keeps s0 s) (port : Nat) (mask : BitVec 4) (proposal : Nat) (accept : Bool) :
    KeepsOut s0 (execWidth port mask proposal accept s) := by
  unfold execWidth
  repeat' first
    | with_reducible first
      | assumption | (intro)
      | (extract_lets +onlyGivenNames x; first | (refine Keeps.cut x ?_ ?_; subst x; rotate_left; intro; clear_value x) | (refine Keeps.cut x.2 ?_ ?_; subst x; rotate_left; intro; clear_value x) | (refine Keeps.cut x.1 ?_ ?_; subst x; rotate_left; intro; clear_value x) | (refine KeepsOut.cut x ?_ ?_; subst x; rotate_left; intro; clear_value x) | (refine KeepsOut.cut x.2 ?_ ?_; subst x; rotate_left; intro; clear_value x) | clear_value x)
      | apply guardUnit_keeps | apply KeepsOut.next | exact KeepsOut.fault | apply KeepsOut.ite | apply State.sendCtl_keeps
      | apply State.setWidth_keeps | apply Keeps.ite | (fail_if_no_progress apply Keeps.mk0)
    | with_reducible (refine Keeps.ofFst (by assumption) ?_) | with_reducible (refine Keeps.ofSnd (by assumption) ?_)
    | split

theorem State.toRetrain_keeps {s0 s : State} (h : Keeps s0 s) (p : Nat) :
    Keeps s0 (State.toRetrain s p) := by
  unfold State.toRetrain
  repeat' first
    | with_reducible first
      | assumption | (intro)
      | (extract_lets +onlyGivenNames x; first | (refine Keeps.cut x ?_ ?_; subst x; rotate_left; intro; clear_value x) | clear_value x)
      | apply State.fset_keeps | apply State.portTo_keeps | apply State.setPort_keeps | apply Keeps.foldl | apply Keeps.foldlFst
      | apply Keeps.foldlSnd | apply Keeps.ite | (fail_if_no_progress apply Keeps.mk0)
    | split

theorem State.replayExhausted_keeps {s0 s : State} (h : Keeps s0 s) (p : Nat) :
    Keeps s0 (State.replayExhausted s p) := by
  unfold State.replayExhausted
  repeat' first
    | with_reducible first
      | assumption | (intro)
      | (extract_lets +onlyGivenNames x; first | (refine Keeps.cut x ?_ ?_; subst x; rotate_left; intro; clear_value x) | clear_value x)
      | apply State.bump_keeps | apply State.modPort_keeps | apply State.retireLane_keeps | apply State.retirePort_keeps
      | apply State.toRetrain_keeps | apply Keeps.ite | (fail_if_no_progress apply Keeps.mk0)
    | split

theorem State.replay_keeps {s0 s : State} (h : Keeps s0 s) (p : Nat) :
    Keeps s0 (State.replay s p) := by
  unfold State.replay
  repeat' first
    | with_reducible first
      | assumption | (intro)
      | (extract_lets +onlyGivenNames x; first | (refine Keeps.cut x ?_ ?_; subst x; rotate_left; intro; clear_value x) | clear_value x)
      | apply State.bumpBy_keeps | apply State.emit_keeps | apply State.replayExhausted_keeps | apply State.setPort_keeps
      | apply Keeps.foldl | apply Keeps.foldlFst | apply Keeps.foldlSnd | apply Keeps.ite | (fail_if_no_progress apply Keeps.mk0)
    | split

theorem execReplayTimeout_keeps {s0 s : State} (h : Keeps s0 s) (port : Nat) :
    KeepsOut s0 (execReplayTimeout port s) := by
  unfold execReplayTimeout
  repeat' first
    | with_reducible first
      | assumption | (intro) | apply guardUnit_keeps | apply KeepsOut.next | exact KeepsOut.fault
      | apply KeepsOut.ite | apply State.replay_keeps | apply Keeps.ite
    | split

theorem execLaneLockLoss_keeps {s0 s : State} (h : Keeps s0 s) (port lane : Nat) :
    KeepsOut s0 (execLaneLockLoss port lane s) := by
  unfold execLaneLockLoss
  repeat' first
    | with_reducible first
      | assumption | (intro)
      | (extract_lets +onlyGivenNames x; first | (refine Keeps.cut x ?_ ?_; subst x; rotate_left; intro; clear_value x) | (refine Keeps.cut x.2 ?_ ?_; subst x; rotate_left; intro; clear_value x) | (refine Keeps.cut x.1 ?_ ?_; subst x; rotate_left; intro; clear_value x) | (refine KeepsOut.cut x ?_ ?_; subst x; rotate_left; intro; clear_value x) | (refine KeepsOut.cut x.2 ?_ ?_; subst x; rotate_left; intro; clear_value x) | clear_value x)
      | apply guardUnit_keeps | apply KeepsOut.next | exact KeepsOut.fault | apply KeepsOut.ite | apply State.bump_keeps
      | apply State.fset_keeps | apply State.modPort_keeps | apply State.retireLane_keeps | apply State.toRetrain_keeps
      | apply Keeps.ite | (fail_if_no_progress apply Keeps.mk0)
    | with_reducible (refine Keeps.ofFst (by assumption) ?_) | with_reducible (refine Keeps.ofSnd (by assumption) ?_)
    | split

theorem execLaneRelock_keeps {s0 s : State} (h : Keeps s0 s) (port lane : Nat) :
    KeepsOut s0 (execLaneRelock port lane s) := by
  unfold execLaneRelock
  repeat' first
    | with_reducible first
      | assumption | (intro)
      | (extract_lets +onlyGivenNames x; first | (refine Keeps.cut x ?_ ?_; subst x; rotate_left; intro; clear_value x) | (refine KeepsOut.cut x ?_ ?_; subst x; rotate_left; intro; clear_value x) | clear_value x)
      | apply guardUnit_keeps | apply KeepsOut.next | exact KeepsOut.fault | apply KeepsOut.ite | apply State.fset_keeps
      | apply State.retrained_keeps | apply State.sendSet_keeps | apply State.setPort_keeps | apply State.toIdentify_keeps
      | apply Keeps.ite | (fail_if_no_progress apply Keeps.mk0)
    | split

theorem execLaneRelockTimeout_keeps {s0 s : State} (h : Keeps s0 s) (port lane : Nat) :
    KeepsOut s0 (execLaneRelockTimeout port lane s) := by
  unfold execLaneRelockTimeout
  repeat' first
    | with_reducible first
      | assumption | (intro) | apply guardUnit_keeps | apply KeepsOut.next | exact KeepsOut.fault
      | apply KeepsOut.ite | apply State.retireLane_keeps | apply Keeps.ite
    | split

theorem execLaneCsrLimit_keeps {s0 s : State} (h : Keeps s0 s) (port lane : Nat) :
    KeepsOut s0 (execLaneCsrLimit port lane s) := by
  unfold execLaneCsrLimit
  repeat' first
    | with_reducible first
      | assumption | (intro) | apply guardUnit_keeps | apply KeepsOut.next | exact KeepsOut.fault
      | apply KeepsOut.ite | apply State.retireLane_keeps | apply Keeps.ite
    | split

theorem State.deliver_keeps {s0 s : State} (h : Keeps s0 s) (p : Nat) (f : Flit) :
    Keeps s0 (State.deliver s p f) := by
  unfold State.deliver
  repeat' first
    | with_reducible first
      | assumption | (intro)
      | (extract_lets +onlyGivenNames x; first | (refine Keeps.cut x ?_ ?_; subst x; rotate_left; intro; clear_value x) | (refine Keeps.cut x.2 ?_ ?_; subst x; rotate_left; intro; clear_value x) | (refine Keeps.cut x.1 ?_ ?_; subst x; rotate_left; intro; clear_value x) | clear_value x)
      | apply State.bump_keeps | apply State.enqueue_keeps | apply State.notePool_keeps | apply State.raise_keeps
      | apply State.setPort_keeps | apply State.when_keeps | apply Keeps.ite | (fail_if_no_progress apply Keeps.mk0)
    | with_reducible (refine Keeps.ofFst (by assumption) ?_) | with_reducible (refine Keeps.ofSnd (by assumption) ?_)
    | split

theorem State.acked_keeps {s0 s : State} (h : Keeps s0 s) (p ack : Nat) :
    Keeps s0 (State.acked s p ack) := by
  unfold State.acked
  repeat' first
    | with_reducible first
      | assumption | (intro)
      | (extract_lets +onlyGivenNames x; first | (refine Keeps.cut x ?_ ?_; subst x; rotate_left; intro; clear_value x) | clear_value x)
      | apply State.pumpCtl_keeps | apply State.release_keeps | apply State.setPort_keeps | apply Keeps.foldl
      | apply Keeps.foldlFst | apply Keeps.foldlSnd | apply Keeps.ite | (fail_if_no_progress apply Keeps.mk0)
    | split

theorem State.noteFec_keeps {s0 s : State} (h : Keeps s0 s) (p csym : Nat) (ucw : List Nat) :
    Keeps s0 (State.noteFec s p csym ucw) := by
  unfold State.noteFec
  repeat' first
    | with_reducible first
      | assumption | (intro)
      | (extract_lets +onlyGivenNames x; first | (refine Keeps.cut x ?_ ?_; subst x; rotate_left; intro; clear_value x) | clear_value x)
      | apply State.bumpBy_keeps | apply State.modPort_keeps | apply Keeps.foldl | apply Keeps.foldlFst | apply Keeps.foldlSnd
      | apply Keeps.ite | (fail_if_no_progress apply Keeps.mk0)
    | split

theorem execFlitReceive_keeps {s0 s : State} (h : Keeps s0 s) (port : Nat) (f : Flit) (csym : Nat) (ucw : List Nat) :
    KeepsOut s0 (execFlitReceive port f csym ucw s) := by
  unfold execFlitReceive
  repeat' first
    | with_reducible first
      | assumption | (intro)
      | (extract_lets +onlyGivenNames x; first | (refine Keeps.cut x ?_ ?_; subst x; rotate_left; intro; clear_value x) | (refine KeepsOut.cut x ?_ ?_; subst x; rotate_left; intro; clear_value x) | clear_value x)
      | apply guardUnit_keeps | apply KeepsOut.next | exact KeepsOut.fault | apply KeepsOut.ite | apply State.acked_keeps
      | apply State.bump_keeps | apply State.deliver_keeps | apply State.modPort_keeps | apply State.noteFec_keeps
      | apply State.replay_keeps | apply State.sendIdle_keeps | apply State.setPort_keeps | apply State.when_keeps
      | apply Keeps.ite | (fail_if_no_progress apply Keeps.mk0)
    | split

theorem execSealKey_keeps {s0 s : State} (h : Keeps s0 s) (port : Nat) (rekey : Bool) (seg : List Byte) :
    KeepsOut s0 (execSealKey port rekey seg s) := by
  unfold execSealKey
  repeat' first
    | with_reducible first
      | assumption | (intro)
      | (extract_lets +onlyGivenNames x; first | (refine Keeps.cut x ?_ ?_; subst x; rotate_left; intro; clear_value x) | (refine Keeps.cut x.2 ?_ ?_; subst x; rotate_left; intro; clear_value x) | (refine Keeps.cut x.1 ?_ ?_; subst x; rotate_left; intro; clear_value x) | (refine KeepsOut.cut x ?_ ?_; subst x; rotate_left; intro; clear_value x) | (refine KeepsOut.cut x.2 ?_ ?_; subst x; rotate_left; intro; clear_value x) | clear_value x)
      | apply guardUnit_keeps | apply KeepsOut.next | exact KeepsOut.fault | apply KeepsOut.ite | apply State.modPort_keeps
      | apply State.pushCtl_keeps | apply State.setPort_keeps | apply Keeps.ite | (fail_if_no_progress apply Keeps.mk0)
    | with_reducible (refine Keeps.ofFst (by assumption) ?_) | with_reducible (refine Keeps.ofSnd (by assumption) ?_)
    | split

theorem execSealTag_keeps {s0 s : State} (h : Keeps s0 s) (port : Nat) (span : Nat) (tag : List Byte) :
    KeepsOut s0 (execSealTag port span tag s) := by
  unfold execSealTag
  repeat' first
    | with_reducible first
      | assumption | (intro)
      | (extract_lets +onlyGivenNames x; first | (refine Keeps.cut x ?_ ?_; subst x; rotate_left; intro; clear_value x) | (refine KeepsOut.cut x ?_ ?_; subst x; rotate_left; intro; clear_value x) | clear_value x)
      | apply guardUnit_keeps | apply KeepsOut.next | exact KeepsOut.fault | apply KeepsOut.ite | apply State.bump_keeps
      | apply State.deliver_keeps | apply State.hold_keeps | apply State.raisePort_keeps | apply State.sendIdle_keeps
      | apply State.setPort_keeps | apply State.toActive_keeps | apply Keeps.foldl | apply Keeps.foldlFst | apply Keeps.foldlSnd
      | apply Keeps.ite | (fail_if_no_progress apply Keeps.mk0)
    | split

theorem execSealRekey_keeps {s0 s : State} (h : Keeps s0 s) (port : Nat) :
    KeepsOut s0 (execSealRekey port s) := by
  unfold execSealRekey
  repeat' first
    | with_reducible first
      | assumption | (intro)
      | (extract_lets +onlyGivenNames x; first | (refine Keeps.cut x ?_ ?_; subst x; rotate_left; intro; clear_value x) | (refine Keeps.cut x.2 ?_ ?_; subst x; rotate_left; intro; clear_value x) | (refine Keeps.cut x.1 ?_ ?_; subst x; rotate_left; intro; clear_value x) | (refine KeepsOut.cut x ?_ ?_; subst x; rotate_left; intro; clear_value x) | (refine KeepsOut.cut x.2 ?_ ?_; subst x; rotate_left; intro; clear_value x) | clear_value x)
      | apply guardUnit_keeps | apply KeepsOut.next | exact KeepsOut.fault | apply KeepsOut.ite | apply State.encapsulate_keeps
      | apply State.modPort_keeps | apply State.sendCtl_keeps | apply Keeps.ite | apply Keeps.iteFst | apply Keeps.iteSnd
      | (fail_if_no_progress apply Keeps.mk0)
    | with_reducible (refine Keeps.ofFst (by assumption) ?_) | with_reducible (refine Keeps.ofSnd (by assumption) ?_)
    | split

theorem execEthLinkTimeout_keeps {s0 s : State} (h : Keeps s0 s) (port : Nat) :
    KeepsOut s0 (execEthLinkTimeout port s) := by
  unfold execEthLinkTimeout
  repeat' first
    | with_reducible first
      | assumption | (intro) | apply guardUnit_keeps | apply KeepsOut.next | exact KeepsOut.fault
      | apply KeepsOut.ite | apply State.portTo_keeps | apply Keeps.ite
    | split

theorem execS7Hello_keeps {s0 s : State} (h : Keeps s0 s) (port serial partnerPort : Nat) :
    KeepsOut s0 (execS7Hello port serial partnerPort s) := by
  unfold execS7Hello
  repeat' first
    | with_reducible first
      | assumption | (intro)
      | (extract_lets +onlyGivenNames x; first | (refine Keeps.cut x ?_ ?_; subst x; rotate_left; intro; clear_value x) | (refine KeepsOut.cut x ?_ ?_; subst x; rotate_left; intro; clear_value x) | clear_value x)
      | apply guardUnit_keeps | apply KeepsOut.next | exact KeepsOut.fault | apply KeepsOut.ite | apply State.bump_keeps
      | apply State.fset_keeps | apply State.hold_keeps | apply State.noteMiswire_keeps | apply State.toActive_keeps
      | apply Keeps.ite | (fail_if_no_progress apply Keeps.mk0)
    | split

theorem execS7HelloTimeout_keeps {s0 s : State} (h : Keeps s0 s) (port : Nat) :
    KeepsOut s0 (execS7HelloTimeout port s) := by
  unfold execS7HelloTimeout
  repeat' first
    | with_reducible first
      | assumption | (intro) | apply guardUnit_keeps | apply KeepsOut.next | exact KeepsOut.fault
      | apply KeepsOut.ite | apply State.portTo_keeps | apply Keeps.ite
    | split

theorem execS7Frame_keeps {s0 s : State} (h : Keeps s0 s) (port net : Nat) (frame : List Byte) :
    KeepsOut s0 (execS7Frame port net frame s) := by
  unfold execS7Frame
  repeat' first
    | with_reducible first
      | assumption | (intro) | apply guardUnit_keeps | apply KeepsOut.next | exact KeepsOut.fault
      | apply KeepsOut.ite | apply State.modPort_keeps | apply Keeps.ite | (fail_if_no_progress apply Keeps.mk0)
    | split

end Sys2Proof.Machine
end

