-- ==== Sys2Proof/Laws/KeepPlacing.lean ====
section
/-! SUPPORT. What the operations of Machine/Placing.lean keep (see Laws/Keep.lean). -/

set_option linter.all false

namespace Sys2Proof.Machine

theorem State.peerOk_keeps {s0 s t : State} (h : Keeps s0 s) {p : Held} {n : Nat} (e : s.peerOk p n = .inl t) :
    Keeps s0 t := by
  simp only [State.peerOk] at e
  split at e
  · cases e; exact State.bump_keeps h _ _
  · split at e
    · cases e; exact State.bump_keeps h _ _
    · cases e

theorem State.serveRead_keeps {s0 s : State} (h : Keeps s0 s) (iod : Nat) (p : Pkt) (d : Nat) :
    Keeps s0 (State.serveRead s iod p d) := by
  unfold State.serveRead
  repeat' first
    | with_reducible first
      | assumption | (intro)
      | (extract_lets +onlyGivenNames x; first | (refine Keeps.cut x ?_ ?_; subst x; rotate_left; intro; clear_value x) | (refine Keeps.cut x.2 ?_ ?_; subst x; rotate_left; intro; clear_value x) | (refine Keeps.cut x.1 ?_ ?_; subst x; rotate_left; intro; clear_value x) | clear_value x)
      | apply State.notePoison_keeps | apply State.post_keeps | apply Keeps.ite | apply Keeps.iteFst | apply Keeps.iteSnd
      | (fail_if_no_progress apply Keeps.mk0)
    | with_reducible (refine Keeps.ofFst (by assumption) ?_) | with_reducible (refine Keeps.ofSnd (by assumption) ?_)
    | split

theorem State.readAnswer_keeps {s0 s : State} (h : Keeps s0 s) (iod : Nat) (p : Pkt) :
    Keeps s0 (State.readAnswer s iod p) := by
  unfold State.readAnswer
  repeat' first
    | with_reducible first
      | assumption | (intro)
      | (extract_lets +onlyGivenNames x; first | (refine Keeps.cut x ?_ ?_; subst x; rotate_left; intro; clear_value x) | clear_value x)
      | apply State.accessFault_keeps | apply State.modRouter_keeps | apply Keeps.ite | (fail_if_no_progress apply Keeps.mk0)
    | split

theorem State.placeNotice_keeps {s0 s : State} (h : Keeps s0 s) (p : Pkt) :
    Keeps s0 (State.placeNotice s p) := by
  unfold State.placeNotice
  repeat' first
    | with_reducible first
      | assumption | (intro)
      | (extract_lets +onlyGivenNames x; first | (refine Keeps.cut x ?_ ?_; subst x; rotate_left; intro; clear_value x) | (refine Keeps.cut x.2 ?_ ?_; subst x; rotate_left; intro; clear_value x) | (refine Keeps.cut x.1 ?_ ?_; subst x; rotate_left; intro; clear_value x) | clear_value x)
      | apply State.bump_keeps | apply State.setCtx_keeps | apply Keeps.ite | (fail_if_no_progress apply Keeps.mk0)
    | with_reducible (refine Keeps.ofFst (by assumption) ?_) | with_reducible (refine Keeps.ofSnd (by assumption) ?_)
    | split

theorem State.placeChestWr_keeps {s0 s : State} (h : Keeps s0 s) (p : Pkt) :
    Keeps s0 (State.placeChestWr s p) := by
  unfold State.placeChestWr
  repeat' first
    | with_reducible first
      | assumption | (intro)
      | (extract_lets +onlyGivenNames x; first | (refine Keeps.cut x ?_ ?_; subst x; rotate_left; intro; clear_value x) | clear_value x)
      | apply State.bump_keeps | apply State.raise_keeps | apply State.setDeckle_keeps | apply Keeps.ite
      | (fail_if_no_progress apply Keeps.mk0)
    | split

theorem State.placeChestRd_keeps {s0 s : State} (h : Keeps s0 s) (iod : Nat) (p : Pkt) :
    Keeps s0 (State.placeChestRd s iod p) := by
  unfold State.placeChestRd
  repeat' first
    | with_reducible first
      | assumption | (intro)
      | (extract_lets +onlyGivenNames x; first | (refine Keeps.cut x ?_ ?_; subst x; rotate_left; intro; clear_value x) | (refine Keeps.cut x.2 ?_ ?_; subst x; rotate_left; intro; clear_value x) | (refine Keeps.cut x.1 ?_ ?_; subst x; rotate_left; intro; clear_value x) | clear_value x)
      | apply State.bump_keeps | apply State.post_keeps | apply State.raise_keeps | apply Keeps.foldl | apply Keeps.foldlFst
      | apply Keeps.foldlSnd | apply Keeps.ite | apply Keeps.iteFst | apply Keeps.iteSnd | (fail_if_no_progress apply Keeps.mk0)
    | with_reducible (refine Keeps.ofFst (by assumption) ?_) | with_reducible (refine Keeps.ofSnd (by assumption) ?_)
    | split

theorem State.place_keeps {s0 s : State} (h : Keeps s0 s) (iod : Nat) (h : Held) :
    Keeps s0 (State.place s iod h) := by
  unfold State.place
  repeat' first
    | with_reducible first
      | assumption | (intro)
      | (extract_lets +onlyGivenNames x; first | (refine Keeps.cut x ?_ ?_; subst x; rotate_left; intro; clear_value x) | clear_value x)
      | apply State.bump_keeps | apply State.collPlace_keeps | apply State.localWrite_keeps | apply State.modRouter_keeps
      | (refine State.peerOk_keeps ?_ (by assumption)) | apply State.placeChestRd_keeps | apply State.placeChestWr_keeps
      | apply State.placeNotice_keeps | apply State.raise_keeps | apply State.readAnswer_keeps | apply State.serveRead_keeps
      | apply Keeps.ite | (fail_if_no_progress apply Keeps.mk0)
    | split

theorem State.setRxPair_keeps {s0 s : State} (h : Keeps s0 s) (iod : Nat) (p : RxPair) :
    Keeps s0 (State.setRxPair s iod p) := by
  unfold State.setRxPair
  repeat' first
    | with_reducible first
      | assumption | (intro) | apply State.modRouter_keeps | apply Keeps.ite
      | (fail_if_no_progress apply Keeps.mk0)
    | split

theorem State.placeOne_keeps {s0 s : State} (h : Keeps s0 s) (iod src : Nat) (ch : RxChan) (h : Held) :
    Keeps s0 (State.placeOne s iod src ch h) := by
  unfold State.placeOne
  repeat' first
    | with_reducible first
      | assumption | (intro)
      | (extract_lets +onlyGivenNames x; first | (refine Keeps.cut x ?_ ?_; subst x; rotate_left; intro; clear_value x) | clear_value x)
      | apply State.place_keeps | apply State.setRxPair_keeps | apply Keeps.ite | (fail_if_no_progress apply Keeps.mk0)
    | split

theorem State.placeHeldN_keeps {s0 s : State} (h : Keeps s0 s) (iod n : Nat) : Keeps s0 (State.placeHeldN iod n s) := by
  induction n generalizing s with
  | zero => exact h
  | succ n ih =>
    simp only [State.placeHeldN]
    have k : Keeps s0 s.takeEngines := State.takeEngines_keeps h
    split
    · exact k
    · exact ih (State.placeOne_keeps k _ _ _ _)

theorem State.placeHeld_keeps {s0 s : State} (h : Keeps s0 s) (iod : Nat) :
    Keeps s0 (State.placeHeld s iod) := by
  unfold State.placeHeld
  repeat' first
    | with_reducible first
      | assumption | (intro) | apply State.placeHeldN_keeps | apply Keeps.ite
    | split

theorem State.finishSent_keeps {s0 s : State} (h : Keeps s0 s)  :
    Keeps s0 (State.finishSent s) := by
  unfold State.finishSent
  repeat' first
    | with_reducible first
      | assumption | (intro) | apply State.finish_keeps | apply Keeps.foldl | apply Keeps.foldlFst
      | apply Keeps.foldlSnd | apply Keeps.ite
    | split

theorem State.takeAck_keeps {s0 s : State} (h : Keeps s0 s) (iod : Nat) (p : Pkt) :
    Keeps s0 (State.takeAck s iod p) := by
  unfold State.takeAck
  repeat' first
    | with_reducible first
      | assumption | (intro)
      | (extract_lets +onlyGivenNames x; first | (refine Keeps.cut x ?_ ?_; subst x; rotate_left; intro; clear_value x) | clear_value x)
      | apply State.bump_keeps | apply State.finishSent_keeps | apply State.modRouter_keeps | apply State.setTxPair_keeps
      | apply State.tryAllDone_keeps | apply Keeps.ite | (fail_if_no_progress apply Keeps.mk0)
    | split

theorem State.arrive_keeps {s0 s : State} (h : Keeps s0 s) (iod : Nat) (p : Pkt) :
    Keeps s0 (State.arrive s iod p) := by
  unfold State.arrive
  repeat' first
    | with_reducible first
      | assumption | (intro)
      | (extract_lets +onlyGivenNames x; first | (refine Keeps.cut x ?_ ?_; subst x; rotate_left; intro; clear_value x) | clear_value x)
      | apply State.bump_keeps | apply State.modRouter_keeps | apply State.notePool_keeps | apply State.placeHeld_keeps
      | apply State.setRxPair_keeps | apply State.takeAck_keeps | apply Keeps.ite | (fail_if_no_progress apply Keeps.mk0)
    | split

theorem execAckSend_keeps {s0 s : State} (h : Keeps s0 s) (iod src vc : Nat) :
    KeepsOut s0 (execAckSend iod src vc s) := by
  unfold execAckSend
  repeat' first
    | with_reducible first
      | assumption | (intro)
      | (extract_lets +onlyGivenNames x; first | (refine Keeps.cut x ?_ ?_; subst x; rotate_left; intro; clear_value x) | (refine KeepsOut.cut x ?_ ?_; subst x; rotate_left; intro; clear_value x) | clear_value x)
      | apply guardUnit_keeps | apply KeepsOut.next | exact KeepsOut.fault | apply KeepsOut.ite | apply State.modRouter_keeps
      | apply State.placeHeld_keeps | apply State.setRxPair_keeps | apply Keeps.ite | (fail_if_no_progress apply Keeps.mk0)
    | split

theorem execChunkComplete_keeps {s0 s : State} (h : Keeps s0 s) (c step chunk : Nat) (residueOk : Bool) (corrected : Nat) :
    KeepsOut s0 (execChunkComplete c step chunk residueOk corrected s) := by
  unfold execChunkComplete
  repeat' first
    | with_reducible first
      | assumption | (intro)
      | (extract_lets +onlyGivenNames x; first | (refine Keeps.cut x ?_ ?_; subst x; rotate_left; intro; clear_value x) | (refine Keeps.cut x.2 ?_ ?_; subst x; rotate_left; intro; clear_value x) | (refine Keeps.cut x.1 ?_ ?_; subst x; rotate_left; intro; clear_value x) | (refine KeepsOut.cut x ?_ ?_; subst x; rotate_left; intro; clear_value x) | (refine KeepsOut.cut x.2 ?_ ?_; subst x; rotate_left; intro; clear_value x) | clear_value x)
      | apply guardUnit_keeps | apply KeepsOut.next | exact KeepsOut.fault | apply KeepsOut.ite | apply State.bumpBy_keeps
      | apply State.completeChunk_keeps | apply State.corrected_keeps | apply State.placeHeld_keeps | apply Keeps.ite
      | (fail_if_no_progress apply Keeps.mk0)
    | with_reducible (refine Keeps.ofFst (by assumption) ?_) | with_reducible (refine Keeps.ofSnd (by assumption) ?_)
    | split

end Sys2Proof.Machine
end

