-- ==== Sys2Proof/Laws/KeepRouting.lean ====
section
/-! SUPPORT. What the operations of Machine/Routing.lean keep (see Laws/Keep.lean). -/

set_option linter.all false

namespace Sys2Proof.Machine

theorem State.dequeue_keeps {s0 s : State} (h : Keeps s0 s) (iod pos : Nat) :
    Keeps s0 (State.dequeue s iod pos) := by
  unfold State.dequeue
  repeat' first
    | with_reducible first
      | assumption | (intro) | apply State.modRouter_keeps | apply Keeps.ite
      | (fail_if_no_progress apply Keeps.mk0)
    | split

theorem State.requeue_keeps {s0 s : State} (h : Keeps s0 s) (iod pos : Nat) (q : Queued) :
    Keeps s0 (State.requeue s iod pos q) := by
  unfold State.requeue
  repeat' first
    | with_reducible first
      | assumption | (intro) | apply State.modRouter_keeps | apply Keeps.ite
      | (fail_if_no_progress apply Keeps.mk0)
    | split

theorem State.sendOn_keeps {s0 s : State} (h : Keeps s0 s) (iod pos : Nat) (q : Queued) (port extra slot idle : Nat) (p : Pkt) :
    Keeps s0 (State.sendOn s iod pos q port extra slot idle p) := by
  unfold State.sendOn
  repeat' first
    | with_reducible first
      | assumption | (intro) | apply State.dequeue_keeps | apply State.modPort_keeps
      | apply State.sendPkt_keeps | apply Keeps.ite | (fail_if_no_progress apply Keeps.mk0)
    | split

theorem State.divert_keeps {s0 s : State} (h : Keeps s0 s) (iod pos : Nat) (q : Queued) (port : Nat) :
    Keeps s0 (State.divert s iod pos q port) := by
  unfold State.divert
  repeat' first
    | with_reducible first
      | assumption | (intro)
      | (extract_lets +onlyGivenNames x; first | (refine Keeps.cut x ?_ ?_; subst x; rotate_left; intro; clear_value x) | clear_value x)
      | apply State.bump_keeps | apply State.modRouter_keeps | apply State.raise_keeps | apply State.requeue_keeps
      | apply Keeps.ite | (fail_if_no_progress apply Keeps.mk0)
    | split

theorem State.sendBranch_keeps {s0 : State} (s : State) (iod pos : Nat) (q : Queued) (slot idle : Nat) {a : State × List Nat} (h : Keeps s0 a.1) (port : Nat) :
    Keeps s0 (s.sendBranch iod pos q slot idle a port).1 := by
  have r : Keeps s0 ((a.1.bump C.COLL_BRANCH_DROP_CNT iod).raise E.COLL_branch_drop iod) :=
    State.raise_keeps (State.bump_keeps h _ _) _ _
  unfold State.sendBranch
  split
  · exact r
  · split
    · split
      · exact h
      · rename_i b _
        exact State.sendPkt_keeps (State.modPort_keeps h port fun x => { x with arb := b }) _ _ _
    · exact h

theorem State.routeTree_keeps {s0 s : State} (h : Keeps s0 s) (iod pos : Nat) (q : Queued) (slot idle : Nat) :
    Keeps s0 (State.routeTree s iod pos q slot idle) := by
  unfold State.routeTree
  repeat' first
    | with_reducible first
      | assumption | (intro)
      | (extract_lets +onlyGivenNames x; first | (refine Keeps.cut x ?_ ?_; subst x; rotate_left; intro; clear_value x) | (refine Keeps.cut x.2 ?_ ?_; subst x; rotate_left; intro; clear_value x) | (refine Keeps.cut x.1 ?_ ?_; subst x; rotate_left; intro; clear_value x) | clear_value x)
      | apply State.arrive_keeps | apply State.bump_keeps | apply State.dequeue_keeps | apply State.release_keeps
      | apply State.requeue_keeps | apply State.sendBranch_keeps | apply Keeps.foldl | apply Keeps.foldlFst | apply Keeps.foldlSnd
      | apply Keeps.ite | apply Keeps.iteFst | apply Keeps.iteSnd | (fail_if_no_progress apply Keeps.mk0)
    | with_reducible (refine Keeps.ofFst (by assumption) ?_) | with_reducible (refine Keeps.ofSnd (by assumption) ?_)
    | split

theorem State.routeOne_keeps {s0 s : State} (h : Keeps s0 s) (iod pos : Nat) (q : Queued) (slot idle : Nat) :
    Keeps s0 (State.routeOne s iod pos q slot idle) := by
  unfold State.routeOne
  repeat' first
    | with_reducible first
      | assumption | (intro)
      | (extract_lets +onlyGivenNames x; first | (refine Keeps.cut x ?_ ?_; subst x; rotate_left; intro; clear_value x) | clear_value x)
      | apply State.arrive_keeps | apply State.bump_keeps | apply State.dequeue_keeps | apply State.divert_keeps
      | apply State.enqueue_keeps | apply State.faultWith_keeps | apply State.release_keeps | apply State.requeue_keeps
      | apply State.routeTree_keeps | apply State.sendOn_keeps | apply State.when_keeps | apply Keeps.foldl | apply Keeps.foldlFst
      | apply Keeps.foldlSnd | apply Keeps.ite | (fail_if_no_progress apply Keeps.mk0)
    | split

theorem execPacketRoute_keeps {s0 s : State} (h : Keeps s0 s) (iod pos slot idle : Nat) :
    KeepsOut s0 (execPacketRoute iod pos slot idle s) := by
  unfold execPacketRoute
  repeat' first
    | with_reducible first
      | assumption | (intro) | apply guardUnit_keeps | apply KeepsOut.next | exact KeepsOut.fault
      | apply KeepsOut.ite | apply State.routeOne_keeps | apply Keeps.ite | (fail_if_no_progress apply Keeps.mk0)
    | split

theorem execEscapeDivert_keeps {s0 s : State} (h : Keeps s0 s) (iod pos : Nat) :
    KeepsOut s0 (execEscapeDivert iod pos s) := by
  unfold execEscapeDivert
  repeat' first
    | with_reducible first
      | assumption | (intro)
      | (extract_lets +onlyGivenNames x; first | (refine Keeps.cut x ?_ ?_; subst x; rotate_left; intro; clear_value x) | (refine KeepsOut.cut x ?_ ?_; subst x; rotate_left; intro; clear_value x) | clear_value x)
      | apply guardUnit_keeps | apply KeepsOut.next | exact KeepsOut.fault | apply KeepsOut.ite | apply State.divert_keeps
      | apply Keeps.ite | (fail_if_no_progress apply Keeps.mk0)
    | split

theorem execPacketInject_keeps {s0 s : State} (h : Keeps s0 s) (iod : Nat) :
    KeepsOut s0 (execPacketInject iod s) := by
  unfold execPacketInject
  repeat' first
    | with_reducible first
      | assumption | (intro)
      | (extract_lets +onlyGivenNames x; first | (refine Keeps.cut x ?_ ?_; subst x; rotate_left; intro; clear_value x) | (refine Keeps.cut x.2 ?_ ?_; subst x; rotate_left; intro; clear_value x) | (refine Keeps.cut x.1 ?_ ?_; subst x; rotate_left; intro; clear_value x) | (refine KeepsOut.cut x ?_ ?_; subst x; rotate_left; intro; clear_value x) | (refine KeepsOut.cut x.2 ?_ ?_; subst x; rotate_left; intro; clear_value x) | clear_value x)
      | apply guardUnit_keeps | apply KeepsOut.next | exact KeepsOut.fault | apply KeepsOut.ite | apply State.enqueue_keeps
      | apply State.setRouter_keeps | apply State.setTxPair_keeps | apply Keeps.foldl | apply Keeps.foldlFst
      | apply Keeps.foldlSnd | apply Keeps.ite | (fail_if_no_progress apply Keeps.mk0)
    | with_reducible (refine Keeps.ofFst (by assumption) ?_) | with_reducible (refine Keeps.ofSnd (by assumption) ?_)
    | split

theorem State.arriveOp_keeps {s0 s : State} (h : Keeps s0 s) (iod : Nat) (p : Pkt) (ok : Bool) :
    KeepsOut s0 (State.arriveOp s iod p ok) := by
  unfold State.arriveOp
  repeat' first
    | with_reducible first
      | assumption | (intro) | apply guardUnit_keeps | apply KeepsOut.next | exact KeepsOut.fault
      | apply KeepsOut.ite | apply State.arrive_keeps | apply Keeps.ite
    | split

theorem execPktWrite_keeps {s0 s : State} (h : Keeps s0 s) (iod : Nat) (p : Pkt) :
    KeepsOut s0 (execPktWrite iod p s) := by
  unfold execPktWrite
  repeat' first
    | with_reducible first
      | assumption | (intro) | apply KeepsOut.next | exact KeepsOut.fault | apply KeepsOut.ite
      | apply State.arriveOp_keeps | apply Keeps.ite
    | split

theorem execReadReq_keeps {s0 s : State} (h : Keeps s0 s) (iod : Nat) (p : Pkt) :
    KeepsOut s0 (execReadReq iod p s) := by
  unfold execReadReq
  repeat' first
    | with_reducible first
      | assumption | (intro) | apply KeepsOut.next | exact KeepsOut.fault | apply KeepsOut.ite
      | apply State.arriveOp_keeps | apply Keeps.ite
    | split

theorem execReadRsp_keeps {s0 s : State} (h : Keeps s0 s) (iod : Nat) (p : Pkt) :
    KeepsOut s0 (execReadRsp iod p s) := by
  unfold execReadRsp
  repeat' first
    | with_reducible first
      | assumption | (intro) | apply KeepsOut.next | exact KeepsOut.fault | apply KeepsOut.ite
      | apply State.arriveOp_keeps | apply Keeps.ite
    | split

theorem execNotice_keeps {s0 s : State} (h : Keeps s0 s) (iod : Nat) (p : Pkt) :
    KeepsOut s0 (execNotice iod p s) := by
  unfold execNotice
  repeat' first
    | with_reducible first
      | assumption | (intro) | apply KeepsOut.next | exact KeepsOut.fault | apply KeepsOut.ite
      | apply State.arriveOp_keeps | apply Keeps.ite
    | split

theorem execAck_keeps {s0 s : State} (h : Keeps s0 s) (iod : Nat) (p : Pkt) :
    KeepsOut s0 (execAck iod p s) := by
  unfold execAck
  repeat' first
    | with_reducible first
      | assumption | (intro) | apply KeepsOut.next | exact KeepsOut.fault | apply KeepsOut.ite
      | apply State.arriveOp_keeps | apply Keeps.ite
    | split

theorem execChestWr_keeps {s0 s : State} (h : Keeps s0 s) (iod : Nat) (p : Pkt) :
    KeepsOut s0 (execChestWr iod p s) := by
  unfold execChestWr
  repeat' first
    | with_reducible first
      | assumption | (intro) | apply KeepsOut.next | exact KeepsOut.fault | apply KeepsOut.ite
      | apply State.arriveOp_keeps | apply Keeps.ite
    | split

theorem execChestRd_keeps {s0 s : State} (h : Keeps s0 s) (iod : Nat) (p : Pkt) :
    KeepsOut s0 (execChestRd iod p s) := by
  unfold execChestRd
  repeat' first
    | with_reducible first
      | assumption | (intro) | apply KeepsOut.next | exact KeepsOut.fault | apply KeepsOut.ite
      | apply State.arriveOp_keeps | apply Keeps.ite
    | split

theorem execCmap_keeps {s0 s : State} (h : Keeps s0 s) (iod : Nat) (p : Pkt) :
    KeepsOut s0 (execCmap iod p s) := by
  unfold execCmap
  repeat' first
    | with_reducible first
      | assumption | (intro) | apply KeepsOut.next | exact KeepsOut.fault | apply KeepsOut.ite
      | apply State.arriveOp_keeps | apply Keeps.ite
    | split

theorem execCollHash_keeps {s0 s : State} (h : Keeps s0 s) (iod : Nat) (p : Pkt) :
    KeepsOut s0 (execCollHash iod p s) := by
  unfold execCollHash
  repeat' first
    | with_reducible first
      | assumption | (intro) | apply KeepsOut.next | exact KeepsOut.fault | apply KeepsOut.ite
      | apply State.arriveOp_keeps | apply Keeps.ite
    | split

theorem execCollGo_keeps {s0 s : State} (h : Keeps s0 s) (iod : Nat) (p : Pkt) :
    KeepsOut s0 (execCollGo iod p s) := by
  unfold execCollGo
  repeat' first
    | with_reducible first
      | assumption | (intro) | apply KeepsOut.next | exact KeepsOut.fault | apply KeepsOut.ite
      | apply State.arriveOp_keeps | apply Keeps.ite
    | split

theorem execCollData_keeps {s0 s : State} (h : Keeps s0 s) (iod : Nat) (p : Pkt) :
    KeepsOut s0 (execCollData iod p s) := by
  unfold execCollData
  repeat' first
    | with_reducible first
      | assumption | (intro) | apply KeepsOut.next | exact KeepsOut.fault | apply KeepsOut.ite
      | apply State.arriveOp_keeps | apply Keeps.ite
    | split

theorem execCollResult_keeps {s0 s : State} (h : Keeps s0 s) (iod : Nat) (p : Pkt) :
    KeepsOut s0 (execCollResult iod p s) := by
  unfold execCollResult
  repeat' first
    | with_reducible first
      | assumption | (intro) | apply KeepsOut.next | exact KeepsOut.fault | apply KeepsOut.ite
      | apply State.arriveOp_keeps | apply Keeps.ite
    | split

theorem execResend_keeps {s0 s : State} (h : Keeps s0 s) (iod : Nat) (p : Pkt) :
    KeepsOut s0 (execResend iod p s) := by
  unfold execResend
  repeat' first
    | with_reducible first
      | assumption | (intro) | apply KeepsOut.next | exact KeepsOut.fault | apply KeepsOut.ite
      | apply State.arriveOp_keeps | apply Keeps.ite
    | split

theorem execPull_keeps {s0 s : State} (h : Keeps s0 s) (iod : Nat) (p : Pkt) :
    KeepsOut s0 (execPull iod p s) := by
  unfold execPull
  repeat' first
    | with_reducible first
      | assumption | (intro) | apply KeepsOut.next | exact KeepsOut.fault | apply KeepsOut.ite
      | apply State.arriveOp_keeps | apply Keeps.ite
    | split

theorem execDone_keeps {s0 s : State} (h : Keeps s0 s) (iod : Nat) (p : Pkt) :
    KeepsOut s0 (execDone iod p s) := by
  unfold execDone
  repeat' first
    | with_reducible first
      | assumption | (intro) | apply KeepsOut.next | exact KeepsOut.fault | apply KeepsOut.ite
      | apply State.arriveOp_keeps | apply Keeps.ite
    | split

theorem execFinish_keeps {s0 s : State} (h : Keeps s0 s) (iod : Nat) (p : Pkt) :
    KeepsOut s0 (execFinish iod p s) := by
  unfold execFinish
  repeat' first
    | with_reducible first
      | assumption | (intro) | apply KeepsOut.next | exact KeepsOut.fault | apply KeepsOut.ite
      | apply State.arriveOp_keeps | apply Keeps.ite
    | split

theorem execCollAbort_keeps {s0 s : State} (h : Keeps s0 s) (iod : Nat) (p : Pkt) :
    KeepsOut s0 (execCollAbort iod p s) := by
  unfold execCollAbort
  repeat' first
    | with_reducible first
      | assumption | (intro) | apply KeepsOut.next | exact KeepsOut.fault | apply KeepsOut.ite
      | apply State.arriveOp_keeps | apply Keeps.ite
    | split

theorem execStampNoticeSend_keeps {s0 s : State} (h : Keeps s0 s) (c inst : Nat) :
    KeepsOut s0 (execStampNoticeSend c inst s) := by
  unfold execStampNoticeSend
  repeat' first
    | with_reducible first
      | assumption | (intro)
      | (extract_lets +onlyGivenNames x; first | (refine Keeps.cut x ?_ ?_; subst x; rotate_left; intro; clear_value x) | (refine Keeps.cut x.2 ?_ ?_; subst x; rotate_left; intro; clear_value x) | (refine Keeps.cut x.1 ?_ ?_; subst x; rotate_left; intro; clear_value x) | (refine KeepsOut.cut x ?_ ?_; subst x; rotate_left; intro; clear_value x) | (refine KeepsOut.cut x.2 ?_ ?_; subst x; rotate_left; intro; clear_value x) | clear_value x)
      | apply guardUnit_keeps | apply KeepsOut.next | exact KeepsOut.fault | apply KeepsOut.ite | apply State.post_keeps
      | apply State.setCtx_keeps | apply Keeps.foldl | apply Keeps.foldlFst | apply Keeps.foldlSnd | apply Keeps.ite
      | apply Keeps.iteFst | apply Keeps.iteSnd | (fail_if_no_progress apply Keeps.mk0)
    | with_reducible (refine Keeps.ofFst (by assumption) ?_) | with_reducible (refine Keeps.ofSnd (by assumption) ?_)
    | split

theorem State.loseRoute_keeps {s0 s : State} (h : Keeps s0 s) (iod dst : Nat) :
    Keeps s0 (State.loseRoute s iod dst) := by
  unfold State.loseRoute
  repeat' first
    | with_reducible first
      | assumption | (intro)
      | (extract_lets +onlyGivenNames x; first | (refine Keeps.cut x ?_ ?_; subst x; rotate_left; intro; clear_value x) | (refine Keeps.cut x.2 ?_ ?_; subst x; rotate_left; intro; clear_value x) | (refine Keeps.cut x.1 ?_ ?_; subst x; rotate_left; intro; clear_value x) | clear_value x)
      | apply State.bumpBy_keeps | apply State.failStep_keeps | apply State.faultWith_keeps | apply State.finishSent_keeps
      | apply State.raise_keeps | apply State.setReg_keeps | apply State.setRouter_keeps | apply State.setTxPair_keeps
      | apply Keeps.foldl | apply Keeps.foldlFst | apply Keeps.foldlSnd | apply Keeps.ite | (fail_if_no_progress apply Keeps.mk0)
    | with_reducible (refine Keeps.ofFst (by assumption) ?_) | with_reducible (refine Keeps.ofSnd (by assumption) ?_)
    | split

theorem execPairUnreachable_keeps {s0 s : State} (h : Keeps s0 s) (iod dst : Nat) :
    KeepsOut s0 (execPairUnreachable iod dst s) := by
  unfold execPairUnreachable
  repeat' first
    | with_reducible first
      | assumption | (intro) | apply guardUnit_keeps | apply KeepsOut.next | exact KeepsOut.fault
      | apply KeepsOut.ite | apply State.loseRoute_keeps | apply Keeps.ite
    | split

theorem execCmapClose_keeps {s0 s : State} (h : Keeps s0 s) (iod : Nat) :
    KeepsOut s0 (execCmapClose iod s) := by
  unfold execCmapClose
  repeat' first
    | with_reducible first
      | assumption | (intro)
      | (extract_lets +onlyGivenNames x; first | (refine Keeps.cut x ?_ ?_; subst x; rotate_left; intro; clear_value x) | (refine Keeps.cut x.2 ?_ ?_; subst x; rotate_left; intro; clear_value x) | (refine Keeps.cut x.1 ?_ ?_; subst x; rotate_left; intro; clear_value x) | (refine KeepsOut.cut x ?_ ?_; subst x; rotate_left; intro; clear_value x) | (refine KeepsOut.cut x.2 ?_ ?_; subst x; rotate_left; intro; clear_value x) | clear_value x)
      | apply guardUnit_keeps | apply KeepsOut.next | exact KeepsOut.fault | apply KeepsOut.ite | apply State.modRouter_keeps
      | apply State.post_keeps | apply Keeps.foldl | apply Keeps.foldlFst | apply Keeps.foldlSnd | apply Keeps.ite
      | apply Keeps.iteFst | apply Keeps.iteSnd | (fail_if_no_progress apply Keeps.mk0)
    | with_reducible (refine Keeps.ofFst (by assumption) ?_) | with_reducible (refine Keeps.ofSnd (by assumption) ?_)
    | split

theorem State.planPorts_keeps {s0 s : State} (h : Keeps s0 s) (pl : Option Plan) :
    Keeps s0 (State.planPorts s pl) := by
  unfold State.planPorts
  repeat' first
    | with_reducible first
      | assumption | (intro)
      | (extract_lets +onlyGivenNames x; first | (refine Keeps.cut x ?_ ?_; subst x; rotate_left; intro; clear_value x) | clear_value x)
      | apply State.fset_keeps | apply Keeps.foldl | apply Keeps.foldlFst | apply Keeps.foldlSnd | apply Keeps.ite
      | (fail_if_no_progress apply Keeps.mk0)
    | split

theorem State.planRouter_keeps {s0 s : State} (h : Keeps s0 s) (iod : Nat) (pl : Plan) :
    Keeps s0 (State.planRouter s iod pl) := by
  unfold State.planRouter
  repeat' first
    | with_reducible first
      | assumption | (intro)
      | (extract_lets +onlyGivenNames x; first | (refine Keeps.cut x ?_ ?_; subst x; rotate_left; intro; clear_value x) | (refine Keeps.cut x.2 ?_ ?_; subst x; rotate_left; intro; clear_value x) | (refine Keeps.cut x.1 ?_ ?_; subst x; rotate_left; intro; clear_value x) | clear_value x)
      | apply State.fset_keeps | apply State.loseRoute_keeps | apply State.setReg_keeps | apply State.setRouter_keeps
      | apply Keeps.foldl | apply Keeps.foldlFst | apply Keeps.foldlSnd | apply Keeps.ite | (fail_if_no_progress apply Keeps.mk0)
    | with_reducible (refine Keeps.ofFst (by assumption) ?_) | with_reducible (refine Keeps.ofSnd (by assumption) ?_)
    | split

theorem State.planTrain_keeps {s0 s : State} (h : Keeps s0 s) (old : Option Plan) (pl : Option Plan) :
    Keeps s0 (State.planTrain s old pl) := by
  unfold State.planTrain
  repeat' first
    | with_reducible first
      | assumption | (intro)
      | (extract_lets +onlyGivenNames x; first | (refine Keeps.cut x ?_ ?_; subst x; rotate_left; intro; clear_value x) | clear_value x)
      | apply State.toDetect_keeps | apply State.toIdentify_keeps | apply Keeps.foldl | apply Keeps.foldlFst
      | apply Keeps.foldlSnd | apply Keeps.ite | (fail_if_no_progress apply Keeps.mk0)
    | split

theorem State.planBeat_keeps {s0 s : State} (h : Keeps s0 s) (pl : Plan) :
    Keeps s0 (State.planBeat s pl) := by
  unfold State.planBeat
  repeat' first
    | with_reducible first
      | assumption | (intro)
      | (extract_lets +onlyGivenNames x; first | (refine Keeps.cut x ?_ ?_; subst x; rotate_left; intro; clear_value x) | clear_value x)
      | apply State.fset_keeps | apply State.when_keeps | apply Keeps.ite | (fail_if_no_progress apply Keeps.mk0)
    | split

end Sys2Proof.Machine
end

