-- ==== Sys2Proof/Laws/KeepSense.lean ====
section
/-! SUPPORT. What the operations of Machine/Sense.lean keep (see Laws/Keep.lean). -/

set_option linter.all false

namespace Sys2Proof.Machine

theorem State.setSensor_keeps {s0 s : State} (h : Keeps s0 s) (inst point : Nat) (x : Sensor) :
    Keeps s0 (State.setSensor s inst point x) := by
  unfold State.setSensor
  repeat' first
    | with_reducible first
      | assumption | (intro) | apply Keeps.ite | (fail_if_no_progress apply Keeps.mk0)
    | split

end Sys2Proof.Machine
end

