-- ==== Sys2Proof/Laws/KeepMemory.lean ====
section
/-! SUPPORT. What the operations of Machine/Memory.lean keep (see Laws/Keep.lean). -/

set_option linter.all false

namespace Sys2Proof.Machine

theorem execHostMemRead_keeps {s0 s : State} (h : Keeps s0 s) (deckle addr len : Nat) (errs : List (Nat × Nat)) :
    KeepsOut s0 (execHostMemRead deckle addr len errs s) := by
  unfold execHostMemRead
  repeat' first
    | with_reducible first
      | assumption | (intro)
      | (extract_lets +onlyGivenNames x; first | (refine Keeps.cut x ?_ ?_; subst x; rotate_left; intro; clear_value x) | (refine KeepsOut.cut x ?_ ?_; subst x; rotate_left; intro; clear_value x) | subst x)
      | apply guardUnit_keeps | apply KeepsOut.next | exact KeepsOut.fault | apply KeepsOut.ite | apply State.bump_keeps
      | apply State.countPoisons_keeps | apply State.demandRead_keeps | apply State.emit_keeps | apply Keeps.ite
      | (fail_if_no_progress apply Keeps.mk0)
    | split

theorem execHostMemWrite_keeps {s0 s : State} (h : Keeps s0 s) (deckle addr : Nat) (data : List Byte) :
    KeepsOut s0 (execHostMemWrite deckle addr data s) := by
  unfold execHostMemWrite
  repeat' first
    | with_reducible first
      | assumption | (intro) | apply guardUnit_keeps | apply KeepsOut.next | exact KeepsOut.fault
      | apply KeepsOut.ite | apply State.bump_keeps | apply State.localWrite_keeps | apply Keeps.ite
    | split

theorem execScrub_keeps {s0 s : State} (h : Keeps s0 s) (stack channel symbols : Nat) :
    KeepsOut s0 (execScrub stack channel symbols s) := by
  unfold execScrub
  repeat' first
    | with_reducible first
      | assumption | (intro)
      | (extract_lets +onlyGivenNames x; first | (refine Keeps.cut x ?_ ?_; subst x; rotate_left; intro; clear_value x) | (refine Keeps.cut x.2 ?_ ?_; subst x; rotate_left; intro; clear_value x) | (refine Keeps.cut x.1 ?_ ?_; subst x; rotate_left; intro; clear_value x) | (refine KeepsOut.cut x ?_ ?_; subst x; rotate_left; intro; clear_value x) | (refine KeepsOut.cut x.2 ?_ ?_; subst x; rotate_left; intro; clear_value x) | clear_value x)
      | apply guardUnit_keeps | apply KeepsOut.next | exact KeepsOut.fault | apply KeepsOut.ite | apply State.bump_keeps
      | apply State.corrected_keeps | apply State.eccFound_keeps | apply State.modStack_keeps | apply State.poisonUnit_keeps
      | apply State.rowError_keeps | apply Keeps.ite | apply Keeps.iteFst | apply Keeps.iteSnd
      | (fail_if_no_progress apply Keeps.mk0)
    | with_reducible (refine Keeps.ofFst (by assumption) ?_) | with_reducible (refine Keeps.ofSnd (by assumption) ?_)
    | split

theorem execRowRepair_keeps {s0 s : State} (h : Keeps s0 s) (stack row : Nat) :
    KeepsOut s0 (execRowRepair stack row s) := by
  unfold execRowRepair
  repeat' first
    | with_reducible first
      | assumption | (intro)
      | (extract_lets +onlyGivenNames x; first | (refine Keeps.cut x ?_ ?_; subst x; rotate_left; intro; clear_value x) | (refine KeepsOut.cut x ?_ ?_; subst x; rotate_left; intro; clear_value x) | clear_value x)
      | apply guardUnit_keeps | apply KeepsOut.next | exact KeepsOut.fault | apply KeepsOut.ite | apply State.brokeAdd_keeps
      | apply State.modStack_keeps | apply State.raiseStack_keeps | apply State.takeLock_keeps | apply Keeps.ite
      | (fail_if_no_progress apply Keeps.mk0)
    | split

theorem execRowRepairDone_keeps {s0 s : State} (h : Keeps s0 s) (stack row : Nat) :
    KeepsOut s0 (execRowRepairDone stack row s) := by
  unfold execRowRepairDone
  repeat' first
    | with_reducible first
      | assumption | (intro)
      | (extract_lets +onlyGivenNames x; first | (refine Keeps.cut x ?_ ?_; subst x; rotate_left; intro; clear_value x) | (refine Keeps.cut x.2 ?_ ?_; subst x; rotate_left; intro; clear_value x) | (refine Keeps.cut x.1 ?_ ?_; subst x; rotate_left; intro; clear_value x) | (refine KeepsOut.cut x ?_ ?_; subst x; rotate_left; intro; clear_value x) | (refine KeepsOut.cut x.2 ?_ ?_; subst x; rotate_left; intro; clear_value x) | clear_value x)
      | apply guardUnit_keeps | apply KeepsOut.next | exact KeepsOut.fault | apply KeepsOut.ite | apply State.brokeAdd_keeps
      | apply State.bump_keeps | apply State.freeLock_keeps | apply State.fset_keeps | apply State.modStack_keeps
      | apply State.raiseStack_keeps | apply Keeps.ite | (fail_if_no_progress apply Keeps.mk0)
    | with_reducible (refine Keeps.ofFst (by assumption) ?_) | with_reducible (refine Keeps.ofSnd (by assumption) ?_)
    | split

theorem State.repairAtFence_keeps {s0 s : State} (h : Keeps s0 s) (stack : Nat) :
    Keeps s0 (State.repairAtFence s stack) := by
  unfold State.repairAtFence
  repeat' first
    | with_reducible first
      | assumption | (intro)
      | (extract_lets +onlyGivenNames x; first | (refine Keeps.cut x ?_ ?_; subst x; rotate_left; intro; clear_value x) | (refine Keeps.cut x.2 ?_ ?_; subst x; rotate_left; intro; clear_value x) | (refine Keeps.cut x.1 ?_ ?_; subst x; rotate_left; intro; clear_value x) | clear_value x)
      | apply execRowRepairDone_keeps | apply State.free_keeps | apply State.freeLock_keeps | apply State.modStack_keeps
      | apply Keeps.ite | apply Keeps.iteFst | apply Keeps.iteSnd | (fail_if_no_progress apply Keeps.mk0)
    | with_reducible (refine Keeps.ofFst (by assumption) ?_) | with_reducible (refine Keeps.ofSnd (by assumption) ?_)
    | with_reducible (refine KeepsOut.ofNext (by assumption) ?_)
    | split

theorem execRefreshRateChange_keeps {s0 s : State} (h : Keeps s0 s) (stack : Nat) (cooled : Bool) :
    KeepsOut s0 (execRefreshRateChange stack cooled s) := by
  unfold execRefreshRateChange
  repeat' first
    | with_reducible first
      | assumption | (intro)
      | (extract_lets +onlyGivenNames x; first | (refine Keeps.cut x ?_ ?_; subst x; rotate_left; intro; clear_value x) | (refine KeepsOut.cut x ?_ ?_; subst x; rotate_left; intro; clear_value x) | clear_value x)
      | apply guardUnit_keeps | apply KeepsOut.next | exact KeepsOut.fault | apply KeepsOut.ite | apply State.fset_keeps
      | apply State.raiseStack_keeps | apply Keeps.ite | (fail_if_no_progress apply Keeps.mk0)
    | split

theorem execHalfStackFail_keeps {s0 s : State} (h : Keeps s0 s) (stack half : Nat) :
    KeepsOut s0 (execHalfStackFail stack half s) := by
  unfold execHalfStackFail
  repeat' first
    | with_reducible first
      | assumption | (intro) | apply guardUnit_keeps | apply KeepsOut.next | exact KeepsOut.fault
      | apply KeepsOut.ite | apply State.failHalf_keeps | apply Keeps.ite
    | split

theorem State.trainStart_keeps {s0 s : State} (h : Keeps s0 s)  :
    Keeps s0 (State.trainStart s) := by
  unfold State.trainStart
  repeat' first
    | with_reducible first
      | assumption | (intro) | apply State.each_keeps | apply State.fset_keeps | apply Keeps.ite
    | split

theorem State.moveTraining_keeps {s0 s : State} (h : Keeps s0 s) (i row : Nat) :
    Keeps s0 (State.moveTraining s i row) := by
  unfold State.moveTraining
  repeat' first
    | with_reducible first
      | assumption | (intro)
      | (extract_lets +onlyGivenNames x; first | (refine Keeps.cut x ?_ ?_; subst x; rotate_left; intro; clear_value x) | clear_value x)
      | apply State.fset_keeps | apply State.modStack_keeps | apply Keeps.ite | (fail_if_no_progress apply Keeps.mk0)
    | split

theorem State.trainStack_keeps {s0 s : State} (h : Keeps s0 s) (failed : List Nat) (spare : List (Nat × Nat)) (ms : Nat) (zero : Bool) (i : Nat) :
    Keeps s0 (State.trainStack s failed spare ms zero i) := by
  unfold State.trainStack
  repeat' first
    | exact id | exact fun w => Sparse.set_wf w _ _ | exact fun w => Sparse.clear_wf w _ | exact fun w => Sparse.mapVals_wf w _
    | exact fun _ => rfl | exact fun w => Sparse.setRange_wf _ w _ | exact fun w => Sparse.foldl_set_wf _ _ _ w
    | with_reducible first
      | assumption | (intro)
      | (extract_lets +onlyGivenNames x; first | (refine Keeps.cut x ?_ ?_; subst x; rotate_left; intro; clear_value x) | (refine Keeps.cut x.2 ?_ ?_; subst x; rotate_left; intro; clear_value x) | (refine Keeps.cut x.1 ?_ ?_; subst x; rotate_left; intro; clear_value x) | clear_value x)
      | apply State.bump_keeps | apply State.each_keeps | apply State.failHalf_keeps | apply State.fset_keeps
      | apply State.moveTraining_keeps | apply State.when_keeps | apply Keeps.ite | apply Keeps.iteFst | apply Keeps.iteSnd
      | (fail_if_no_progress apply Keeps.mk0)
    | with_reducible ((fail_if_success apply Keeps.mk0); apply Keeps.mk1)
    | with_reducible (refine Keeps.ofFst (by assumption) ?_) | with_reducible (refine Keeps.ofSnd (by assumption) ?_)
    | split

theorem State.trainDone_keeps {s0 s : State} (h : Keeps s0 s) (failed : List Nat) (spare : List (Nat × Nat)) (ms : Nat) (zero : Bool) :
    Keeps s0 (State.trainDone s failed spare ms zero) := by
  unfold State.trainDone
  repeat' first
    | with_reducible first
      | assumption | (intro) | apply State.each_keeps | apply State.trainStack_keeps | apply Keeps.ite
    | split

end Sys2Proof.Machine
end

