-- ==== Sys2Proof/Laws/KeepUnits.lean ====
section
/-! SUPPORT. What the operations of Machine/Units.lean keep (see Laws/Keep.lean). -/

set_option linter.all false

namespace Sys2Proof.Machine

theorem State.powerEvent_keeps {s0 s : State} (h : Keeps s0 s) (cause : Nat) :
    Keeps s0 (State.powerEvent s cause) := by
  unfold State.powerEvent
  repeat' first
    | with_reducible first
      | assumption | (intro) | apply State.duntus_keeps | apply Keeps.ite
    | split

theorem State.alarm_keeps {s0 s : State} (h : Keeps s0 s) (cause : Nat) :
    Keeps s0 (State.alarm s cause) := by
  unfold State.alarm
  repeat' first
    | with_reducible first
      | assumption | (intro) | apply State.duntus_keeps | apply Keeps.ite
    | split

theorem State.cuEvent_keeps {s0 s : State} (h : Keeps s0 s) (cause : Nat) :
    Keeps s0 (State.cuEvent s cause) := by
  unfold State.cuEvent
  repeat' first
    | with_reducible first
      | assumption | (intro) | apply State.duntusEvent_keeps | apply Keeps.ite
    | split

theorem State.fencePages_keeps {s0 s : State} (h : Keeps s0 s) (ps : List Nat) :
    Keeps s0 (State.fencePages s ps) := by
  unfold State.fencePages
  repeat' first
    | with_reducible first
      | assumption | (intro)
      | (extract_lets +onlyGivenNames x; first | (refine Keeps.cut x ?_ ?_; subst x; rotate_left; intro; clear_value x) | clear_value x)
      | apply State.each_keeps | apply State.setReg_keeps | apply Keeps.ite | (fail_if_no_progress apply Keeps.mk0)
    | split

theorem State.unfencePages_keeps {s0 s : State} (h : Keeps s0 s) (ps : List Nat) :
    Keeps s0 (State.unfencePages s ps) := by
  unfold State.unfencePages
  repeat' first
    | with_reducible first
      | assumption | (intro) | apply State.each_keeps | apply State.setReg_keeps | apply Keeps.ite
    | split

theorem State.fail_keeps {s0 s : State} (h : Keeps s0 s)  :
    Keeps s0 (State.fail s) := by
  unfold State.fail
  repeat' first
    | with_reducible first
      | assumption | (intro) | apply State.alarm_keeps | apply State.fencePages_keeps
      | apply State.fset_keeps | apply Keeps.ite
    | split

theorem State.failUp_keeps {s0 s : State} (h : Keeps s0 s) (step status : Nat) :
    Keeps s0 (State.failUp s step status) := by
  unfold State.failUp
  repeat' first
    | with_reducible first
      | assumption | (intro) | apply State.fail_keeps | apply State.fset_keeps | apply Keeps.ite
    | split

theorem State.setUnit_keeps {s0 s : State} (h : Keeps s0 s) (u st : Nat) :
    Keeps s0 (State.setUnit s u st) := by
  unfold State.setUnit
  repeat' first
    | with_reducible first
      | assumption | (intro)
      | (extract_lets +onlyGivenNames x; first | (refine Keeps.cut x ?_ ?_; subst x; rotate_left; intro; clear_value x) | clear_value x)
      | apply State.fset_keeps | apply Keeps.ite
    | split

theorem State.unitFails_keeps {s0 s : State} (h : Keeps s0 s) (u next : Nat) :
    Keeps s0 (State.unitFails s u next) := by
  unfold State.unitFails
  repeat' first
    | with_reducible first
      | assumption | (intro)
      | (extract_lets +onlyGivenNames x; first | (refine Keeps.cut x ?_ ?_; subst x; rotate_left; intro; clear_value x) | (refine Keeps.cut x.2 ?_ ?_; subst x; rotate_left; intro; clear_value x) | (refine Keeps.cut x.1 ?_ ?_; subst x; rotate_left; intro; clear_value x) | clear_value x)
      | apply State.alarm_keeps | apply State.raise_keeps | apply State.setUnit_keeps | apply Keeps.ite
      | (fail_if_no_progress apply Keeps.mk0)
    | with_reducible (refine Keeps.ofFst (by assumption) ?_) | with_reducible (refine Keeps.ofSnd (by assumption) ?_)
    | split

theorem State.notePending_keeps {s0 s : State} (h : Keeps s0 s)  :
    Keeps s0 (State.notePending s) := by
  unfold State.notePending
  repeat' first
    | with_reducible first
      | assumption | (intro)
      | (extract_lets +onlyGivenNames x; first | (refine Keeps.cut x ?_ ?_; subst x; rotate_left; intro; clear_value x) | clear_value x)
      | apply State.fset_keeps | apply Keeps.ite
    | split

theorem State.profileTakes_keeps {s0 s : State} (h : Keeps s0 s)  :
    Keeps s0 (State.profileTakes s) := by
  unfold State.profileTakes
  repeat' first
    | exact id | exact fun w => Sparse.set_wf w _ _ | exact fun w => Sparse.clear_wf w _ | exact fun w => Sparse.mapVals_wf w _
    | exact fun _ => rfl | exact fun w => Sparse.setRange_wf _ w _ | exact fun w => Sparse.foldl_set_wf _ _ _ w
    | with_reducible first
      | assumption | (intro) | apply State.notePending_keeps | apply Keeps.ite
      | (fail_if_no_progress apply Keeps.mk0)
    | with_reducible ((fail_if_success apply Keeps.mk0); apply Keeps.mk1)
    | split

theorem State.selectProfile_keeps {s0 s : State} (h : Keeps s0 s) (n : Nat) :
    Keeps s0 (State.selectProfile s n) := by
  unfold State.selectProfile
  repeat' first
    | with_reducible first
      | assumption | (intro) | apply State.fset_keeps | apply State.profileTakes_keeps
      | apply Keeps.ite
    | split

theorem State.samplePins_keeps {s0 s : State} (h : Keeps s0 s)  :
    Keeps s0 (State.samplePins s) := by
  unfold State.samplePins
  repeat' first
    | with_reducible first
      | assumption | (intro)
      | (extract_lets +onlyGivenNames x; first | (refine Keeps.cut x ?_ ?_; subst x; rotate_left; intro; clear_value x) | clear_value x)
      | apply State.fset_keeps | apply State.profileTakes_keeps | apply State.when_keeps | apply Keeps.ite
    | split

theorem State.applyCd_keeps {s0 s : State} (h : Keeps s0 s)  :
    Keeps s0 (State.applyCd s) := by
  unfold State.applyCd
  repeat' first
    | with_reducible first
      | assumption | (intro) | apply State.fset_keeps | apply State.notePending_keeps | apply Keeps.ite
    | split

theorem State.applyPkg_keeps {s0 s : State} (h : Keeps s0 s)  :
    Keeps s0 (State.applyPkg s) := by
  unfold State.applyPkg
  repeat' first
    | exact id | exact fun w => Sparse.set_wf w _ _ | exact fun w => Sparse.clear_wf w _ | exact fun w => Sparse.mapVals_wf w _
    | exact fun _ => rfl | exact fun w => Sparse.setRange_wf _ w _ | exact fun w => Sparse.foldl_set_wf _ _ _ w
    | with_reducible first
      | assumption | (intro)
      | (extract_lets +onlyGivenNames x; first | (refine Keeps.cut x ?_ ?_; subst x; rotate_left; intro; clear_value x) | subst x)
      | apply State.applyCd_keeps | apply State.fset_keeps | apply Keeps.ite | (fail_if_no_progress apply Keeps.mk0)
    | with_reducible ((fail_if_success apply Keeps.mk0); apply Keeps.mk1)
    | split

theorem State.applyLive_keeps {s0 s : State} (h : Keeps s0 s)  :
    Keeps s0 (State.applyLive s) := by
  unfold State.applyLive
  repeat' first
    | exact id | exact fun w => Sparse.set_wf w _ _ | exact fun w => Sparse.clear_wf w _ | exact fun w => Sparse.mapVals_wf w _
    | exact fun _ => rfl | exact fun w => Sparse.setRange_wf _ w _ | exact fun w => Sparse.foldl_set_wf _ _ _ w
    | with_reducible first
      | assumption | (intro)
      | (extract_lets +onlyGivenNames x; first | (refine Keeps.cut x ?_ ?_; subst x; rotate_left; intro; clear_value x) | subst x)
      | apply State.fset_keeps | apply Keeps.ite | (fail_if_no_progress apply Keeps.mk0)
    | with_reducible ((fail_if_success apply Keeps.mk0); apply Keeps.mk1)
    | split

theorem State.endActivity_keeps {s0 s : State} (h : Keeps s0 s)  :
    Keeps s0 (State.endActivity s) := by
  unfold State.endActivity
  repeat' first
    | exact id | exact fun w => Sparse.set_wf w _ _ | exact fun w => Sparse.clear_wf w _ | exact fun w => Sparse.mapVals_wf w _
    | exact fun _ => rfl | exact fun w => Sparse.setRange_wf _ w _ | exact fun w => Sparse.foldl_set_wf _ _ _ w
    | with_reducible first
      | assumption | (intro) | apply State.freeLock_keeps | apply Keeps.ite
      | (fail_if_no_progress apply Keeps.mk0)
    | with_reducible ((fail_if_success apply Keeps.mk0); apply Keeps.mk1)
    | split

theorem State.setUnitRegion_keeps {s0 s : State} (h : Keeps s0 s) (u r : Nat) :
    Keeps s0 (State.setUnitRegion s u r) := by
  unfold State.setUnitRegion
  repeat' first
    | exact id | exact fun w => Sparse.set_wf w _ _ | exact fun w => Sparse.clear_wf w _ | exact fun w => Sparse.mapVals_wf w _
    | exact fun _ => rfl | exact fun w => Sparse.setRange_wf _ w _ | exact fun w => Sparse.foldl_set_wf _ _ _ w
    | with_reducible first
      | assumption | (intro) | apply Keeps.ite | (fail_if_no_progress apply Keeps.mk0)
    | with_reducible ((fail_if_success apply Keeps.mk0); apply Keeps.mk1)
    | split

theorem State.showFirmware_keeps {s0 s : State} (h : Keeps s0 s)  :
    Keeps s0 (State.showFirmware s) := by
  unfold State.showFirmware
  repeat' first
    | with_reducible first
      | assumption | (intro)
      | (extract_lets +onlyGivenNames x; first | (refine Keeps.cut x ?_ ?_; subst x; rotate_left; intro; clear_value x) | clear_value x)
      | apply State.each_keeps | apply State.fset_keeps | apply Keeps.ite
    | split

theorem State.abandonSwitch_keeps {s0 s : State} (h : Keeps s0 s) (result : Nat) :
    Keeps s0 (State.abandonSwitch s result) := by
  unfold State.abandonSwitch
  repeat' first
    | exact id | exact fun w => Sparse.set_wf w _ _ | exact fun w => Sparse.clear_wf w _ | exact fun w => Sparse.mapVals_wf w _
    | exact fun _ => rfl | exact fun w => Sparse.setRange_wf _ w _ | exact fun w => Sparse.foldl_set_wf _ _ _ w
    | with_reducible first
      | assumption | (intro)
      | (extract_lets +onlyGivenNames x; first | (refine Keeps.cut x ?_ ?_; subst x; rotate_left; intro; clear_value x) | subst x)
      | apply State.bump_keeps | apply State.fset_keeps | apply State.raise_keeps | apply State.setUnit_keeps
      | apply State.setUnitRegion_keeps | apply Keeps.ite | (fail_if_no_progress apply Keeps.mk0)
    | with_reducible ((fail_if_success apply Keeps.mk0); apply Keeps.mk1)
    | split

theorem State.endActivityOf_keeps {s0 s : State} (h : Keeps s0 s) (view : Nat) :
    Keeps s0 (State.endActivityOf s view) := by
  unfold State.endActivityOf
  repeat' first
    | with_reducible first
      | assumption | (intro) | apply State.abandonSwitch_keeps | apply State.endActivity_keeps
      | apply Keeps.ite | (fail_if_no_progress apply Keeps.mk0)
    | split

end Sys2Proof.Machine
end

