-- ==== Sys2Proof/Laws/KeepHost.lean ====
section
/-! SUPPORT. What the operations of Machine/Host.lean keep (see Laws/Keep.lean). -/

set_option linter.all false

namespace Sys2Proof.Machine

theorem State.setSession_keeps {s0 s : State} (h : Keeps s0 s) (fn : Nat) (x : Session) :
    Keeps s0 (State.setSession s fn x) := by
  unfold State.setSession
  repeat' first
    | exact id | exact fun w => Sparse.set_wf w _ _ | exact fun w => Sparse.clear_wf w _ | exact fun w => Sparse.mapVals_wf w _
    | exact fun _ => rfl | exact fun w => Sparse.setRange_wf _ w _ | exact fun w => Sparse.foldl_set_wf _ _ _ w
    | with_reducible first
      | assumption | (intro)
      | (extract_lets +onlyGivenNames x; first | (refine Keeps.cut x ?_ ?_; subst x; rotate_left; intro; clear_value x) | clear_value x)
      | apply State.fset_keeps | apply Keeps.ite | (fail_if_no_progress apply Keeps.mk0)
    | with_reducible ((fail_if_success apply Keeps.mk0); apply Keeps.mk1)
    | split

theorem State.endSession_keeps {s0 s : State} (h : Keeps s0 s) (fn : Nat) :
    Keeps s0 (State.endSession s fn) := by
  unfold State.endSession
  repeat' first
    | with_reducible first
      | assumption | (intro)
      | (extract_lets +onlyGivenNames x; first | (refine Keeps.cut x ?_ ?_; subst x; rotate_left; intro; clear_value x) | clear_value x)
      | apply State.endActivityOf_keeps | apply State.setSession_keeps | apply Keeps.ite | (fail_if_no_progress apply Keeps.mk0)
    | split

theorem State.stopQueues_keeps {s0 s : State} (h : Keeps s0 s) (fn : Nat) :
    Keeps s0 (State.stopQueues s fn) := by
  unfold State.stopQueues
  repeat' first
    | exact id | exact fun w => Sparse.set_wf w _ _ | exact fun w => Sparse.clear_wf w _ | exact fun w => Sparse.mapVals_wf w _
    | exact fun _ => rfl | exact fun w => Sparse.setRange_wf _ w _ | exact fun w => Sparse.foldl_set_wf _ _ _ w
    | with_reducible first
      | assumption | (intro)
      | (extract_lets +onlyGivenNames x; first | (refine Keeps.cut x ?_ ?_; subst x; rotate_left; intro; clear_value x) | clear_value x)
      | apply State.finishAll_keeps | apply Keeps.ite | (fail_if_no_progress apply Keeps.mk0)
      | (fail_if_no_progress apply Keeps.mk2)
    | with_reducible ((fail_if_success apply Keeps.mk0); apply Keeps.mk1)
    | with_reducible exact Nat.le_max_left _ _
    | with_reducible exact Nat.le_refl _
    | with_reducible exact Nat.le_add_right _ _
    | with_reducible exact cmdsMap _ _
    | with_reducible exact cmdsFilterMap _ _ _
    | with_reducible exact cmdsErase _ _
    | with_reducible exact cmdsReplace _ _ _
    | with_reducible exact cmdsNil _
    | with_reducible ((fail_if_success apply Keeps.mk0); apply Keeps.mk3)
    | split

theorem State.resetView_keeps {s0 s : State} (h : Keeps s0 s) (view : Nat) :
    Keeps s0 (State.resetView s view) := by
  unfold State.resetView
  repeat' first
    | exact id | exact fun w => Sparse.set_wf w _ _ | exact fun w => Sparse.clear_wf w _ | exact fun w => Sparse.mapVals_wf w _
    | exact fun _ => rfl | exact fun w => Sparse.setRange_wf _ w _ | exact fun w => Sparse.foldl_set_wf _ _ _ w
    | with_reducible first
      | assumption | (intro) | apply Keeps.ite | (fail_if_no_progress apply Keeps.mk0)
    | with_reducible ((fail_if_success apply Keeps.mk0); apply Keeps.mk1)
    | split

theorem State.linkLost_keeps {s0 s : State} (h : Keeps s0 s) (link : Nat) :
    Keeps s0 (State.linkLost s link) := by
  unfold State.linkLost
  repeat' first
    | with_reducible first
      | assumption | (intro)
      | (extract_lets +onlyGivenNames x; first | (refine Keeps.cut x ?_ ?_; subst x; rotate_left; intro; clear_value x) | clear_value x)
      | apply State.each_keeps | apply State.endSession_keeps | apply State.fset_keeps | apply State.stopQueues_keeps
      | apply Keeps.ite
    | split

theorem execHostLinkUp_keeps {s0 s : State} (h : Keeps s0 s) (link width rate : Nat) (ide : Bool) :
    KeepsOut s0 (execHostLinkUp link width rate ide s) := by
  unfold execHostLinkUp
  repeat' first
    | with_reducible first
      | assumption | (intro) | apply guardUnit_keeps | apply KeepsOut.next | exact KeepsOut.fault
      | apply KeepsOut.ite | apply State.fset_keeps | apply Keeps.ite
    | split

theorem execHostLinkDown_keeps {s0 s : State} (h : Keeps s0 s) (link : Nat) :
    KeepsOut s0 (execHostLinkDown link s) := by
  unfold execHostLinkDown
  repeat' first
    | with_reducible first
      | assumption | (intro) | apply guardUnit_keeps | apply KeepsOut.next | exact KeepsOut.fault
      | apply KeepsOut.ite | apply State.linkLost_keeps | apply Keeps.ite
    | split

theorem execPerst_keeps {s0 s : State} (h : Keeps s0 s) (link : Nat) :
    KeepsOut s0 (execPerst link s) := by
  unfold execPerst
  repeat' first
    | with_reducible first
      | assumption | (intro)
      | (extract_lets +onlyGivenNames x; first | (refine Keeps.cut x ?_ ?_; subst x; rotate_left; intro; clear_value x) | (refine KeepsOut.cut x ?_ ?_; subst x; rotate_left; intro; clear_value x) | clear_value x)
      | apply guardUnit_keeps | apply KeepsOut.next | exact KeepsOut.fault | apply KeepsOut.ite | apply State.fset_keeps
      | apply State.linkLost_keeps | apply Keeps.ite | (fail_if_no_progress apply Keeps.mk0)
    | split

theorem execPerstRelease_keeps {s0 s : State} (h : Keeps s0 s) (link : Nat) :
    KeepsOut s0 (execPerstRelease link s) := by
  unfold execPerstRelease
  repeat' first
    | with_reducible first
      | assumption | (intro)
      | (extract_lets +onlyGivenNames x; first | (refine Keeps.cut x ?_ ?_; subst x; rotate_left; intro; clear_value x) | (refine KeepsOut.cut x ?_ ?_; subst x; rotate_left; intro; clear_value x) | clear_value x)
      | apply guardUnit_keeps | apply KeepsOut.next | exact KeepsOut.fault | apply KeepsOut.ite | apply State.fset_keeps
      | apply State.when_keeps | apply Keeps.ite | (fail_if_no_progress apply Keeps.mk0)
    | split

theorem execConfigRequest_keeps {s0 s : State} (h : Keeps s0 s) (link fn : Nat) (flr : Bool) :
    KeepsOut s0 (execConfigRequest link fn flr s) := by
  unfold execConfigRequest
  repeat' first
    | with_reducible first
      | assumption | (intro) | apply guardUnit_keeps | apply KeepsOut.next | exact KeepsOut.fault
      | apply KeepsOut.ite | apply State.emit_keeps | apply State.endSession_keeps | apply State.resetView_keeps
      | apply State.when_keeps | apply Keeps.ite
    | split

theorem State.queueError_keeps {s0 s : State} (h : Keeps s0 s) (fn queue : Nat) :
    Keeps s0 (State.queueError s fn queue) := by
  unfold State.queueError
  repeat' first
    | with_reducible first
      | assumption | (intro) | apply State.raiseTo_keeps | apply State.setQueue_keeps | apply Keeps.ite
      | (fail_if_no_progress apply Keeps.mk0)
    | split

theorem execSqTailDoorbell_keeps {s0 s : State} (h : Keeps s0 s) (fn queue value : Nat) :
    KeepsOut s0 (execSqTailDoorbell fn queue value s) := by
  unfold execSqTailDoorbell
  repeat' first
    | with_reducible first
      | assumption | (intro)
      | (extract_lets +onlyGivenNames x; first | (refine Keeps.cut x ?_ ?_; subst x; rotate_left; intro; clear_value x) | (refine KeepsOut.cut x ?_ ?_; subst x; rotate_left; intro; clear_value x) | clear_value x)
      | apply guardUnit_keeps | apply KeepsOut.next | exact KeepsOut.fault | apply KeepsOut.ite | apply State.queueError_keeps
      | apply State.setQueue_keeps | apply Keeps.ite | (fail_if_no_progress apply Keeps.mk0)
    | split

theorem execCqHeadDoorbell_keeps {s0 s : State} (h : Keeps s0 s) (fn queue value : Nat) :
    KeepsOut s0 (execCqHeadDoorbell fn queue value s) := by
  unfold execCqHeadDoorbell
  repeat' first
    | with_reducible first
      | assumption | (intro)
      | (extract_lets +onlyGivenNames x; first | (refine Keeps.cut x ?_ ?_; subst x; rotate_left; intro; clear_value x) | (refine KeepsOut.cut x ?_ ?_; subst x; rotate_left; intro; clear_value x) | clear_value x)
      | apply guardUnit_keeps | apply KeepsOut.next | exact KeepsOut.fault | apply KeepsOut.ite | apply State.queueError_keeps
      | apply State.setQueue_keeps | apply Keeps.ite | (fail_if_no_progress apply Keeps.mk0)
    | split

theorem State.enlist_keeps {s0 s : State} (h : Keeps s0 s) (k : Cmd) (x : Fetch) (hl : ¬ 4096 ≤ s.cmds.length) :
    Keeps s0 { s with cmds := s.cmds ++ [k], fetching := x } := Keeps.mk2 h (cmdsFetch k _ hl) (Nat.le_refl _)

theorem execCommandFetch_keeps {s0 s : State} (h : Keeps s0 s) (fn queue : Nat) (desc : List Byte) :
    KeepsOut s0 (execCommandFetch fn queue desc s) := by
  unfold execCommandFetch
  apply guardUnit_keeps
  dsimp only
  split
  · exact h
  · refine Keeps.ite h ?_
    split
    · exact Keeps.ite h (State.bump_keeps (State.setQueue_keeps h _ _ _) _ _)
    · rename_i t _ hl
      have k := State.enlist_keeps (State.setQueue_keeps h fn queue { s.queue fn queue with
        fetched := (s.queue fn queue).fetched + 1, stalled := false })
          { fn, queue, desc, authed := (s.session fn).opened, lost := false, begun := false, planned := 0, sent := [], age := 0 }
          ⟨fn, s.fetching.turns.set (fun _ => (0, 0)) fn t.2.2⟩ hl
      exact Keeps.ite k (Keeps.ite (State.finish_keeps k _ _ _ _) (State.finish_keeps k _ _ _ _))

theorem State.begin_keeps {s0 s : State} (h : Keeps s0 s) (k : Cmd) :
    Keeps s0 (State.begin s k) := by
  unfold State.begin
  repeat' first
    | with_reducible first
      | assumption | (intro) | apply Keeps.ite | (fail_if_no_progress apply Keeps.mk0)
      | (fail_if_no_progress apply Keeps.mk2)
    | with_reducible exact Nat.le_max_left _ _
    | with_reducible exact Nat.le_refl _
    | with_reducible exact Nat.le_add_right _ _
    | with_reducible exact cmdsMap _ _
    | with_reducible exact cmdsFilterMap _ _ _
    | with_reducible exact cmdsErase _ _
    | with_reducible exact cmdsReplace _ _ _
    | with_reducible exact cmdsNil _
    | split

theorem cmdRow_keeps {s0 s : State} (h : Keeps s0 s) {op : Nat} {r : CmdRef} {f : Cmd → State} (hf : ∀ k, Keeps s0 (f k)) :
    KeepsOut s0 (cmdRow op r s f) := by
  unfold cmdRow
  apply guardUnit_keeps
  split
  · exact h
  · exact Keeps.ite (State.finish_keeps h _ _ _ _) (Keeps.ite (State.finish_keeps h _ _ _ _) (hf _))

theorem ctxRow_keeps {s0 s : State} (h : Keeps s0 s) {op : Nat} {r : CmdRef} {f : Cmd → Nat → State} (hf : ∀ k c, Keeps s0 (f k c)) :
    KeepsOut s0 (ctxRow op r s f) := by
  unfold ctxRow
  apply cmdRow_keeps h
  intro k
  split
  · exact State.finish_keeps h _ _ _ _
  · exact Keeps.ite (State.finish_keeps h _ _ _ _) (Keeps.ite (hf _ _) (State.finish_keeps h _ _ _ _))

theorem State.authFail_keeps {s0 s : State} (h : Keeps s0 s) (fn : Nat) :
    Keeps s0 (State.authFail s fn) := by
  unfold State.authFail
  repeat' first
    | with_reducible first
      | assumption | (intro)
      | (extract_lets +onlyGivenNames x; first | (refine Keeps.cut x ?_ ?_; subst x; rotate_left; intro; clear_value x) | clear_value x)
      | apply State.bump_keeps | apply State.raise_keeps | apply State.raiseTo_keeps | apply State.setSession_keeps
      | apply Keeps.ite
    | split

theorem State.issueNonce_keeps {s0 s : State} (h : Keeps s0 s) (fn : Nat) (nonce : List Byte) :
    Keeps s0 (State.issueNonce s fn nonce) := by
  unfold State.issueNonce
  repeat' first
    | with_reducible first
      | assumption | (intro)
      | (extract_lets +onlyGivenNames x; first | (refine Keeps.cut x ?_ ?_; subst x; rotate_left; intro; clear_value x) | (refine Keeps.cut x.2 ?_ ?_; subst x; rotate_left; intro; clear_value x) | (refine Keeps.cut x.1 ?_ ?_; subst x; rotate_left; intro; clear_value x) | clear_value x)
      | apply State.setSession_keeps | apply Keeps.ite | (fail_if_no_progress apply Keeps.mk0)
    | with_reducible (refine Keeps.ofFst (by assumption) ?_) | with_reducible (refine Keeps.ofSnd (by assumption) ?_)
    | split

theorem State.openSession_keeps {s0 s : State} (h : Keeps s0 s) (fn : Nat) (nonce : List Byte) :
    Keeps s0 (State.openSession s fn nonce) := by
  unfold State.openSession
  repeat' first
    | with_reducible first
      | assumption | (intro)
      | (extract_lets +onlyGivenNames x; first | (refine Keeps.cut x ?_ ?_; subst x; rotate_left; intro; clear_value x) | (refine Keeps.cut x.2 ?_ ?_; subst x; rotate_left; intro; clear_value x) | (refine Keeps.cut x.1 ?_ ?_; subst x; rotate_left; intro; clear_value x) | clear_value x)
      | apply State.setSession_keeps | apply Keeps.ite | (fail_if_no_progress apply Keeps.mk0)
    | with_reducible (refine Keeps.ofFst (by assumption) ?_) | with_reducible (refine Keeps.ofSnd (by assumption) ?_)
    | split

theorem execSessionNonce_keeps {s0 s : State} (h : Keeps s0 s) (c : CmdRef) (nonce : List Byte) :
    KeepsOut s0 (execSessionNonce c nonce s) := by
  unfold execSessionNonce
  repeat' first
    | with_reducible first
      | assumption | (intro) | apply KeepsOut.next | exact KeepsOut.fault | apply KeepsOut.ite
      | apply cmdRow_keeps | apply State.emit_keeps | apply State.finish_keeps | apply State.issueNonce_keeps | apply Keeps.ite
    | split

theorem execSessionOpen_keeps {s0 s : State} (h : Keeps s0 s) (c : CmdRef) :
    KeepsOut s0 (execSessionOpen c s) := by
  unfold execSessionOpen
  repeat' first
    | with_reducible first
      | assumption | (intro)
      | (extract_lets +onlyGivenNames x; first | (refine Keeps.cut x ?_ ?_; subst x; rotate_left; intro; clear_value x) | (refine Keeps.cut x.2 ?_ ?_; subst x; rotate_left; intro; clear_value x) | (refine Keeps.cut x.1 ?_ ?_; subst x; rotate_left; intro; clear_value x) | (refine KeepsOut.cut x ?_ ?_; subst x; rotate_left; intro; clear_value x) | (refine KeepsOut.cut x.2 ?_ ?_; subst x; rotate_left; intro; clear_value x) | clear_value x)
      | apply KeepsOut.next | exact KeepsOut.fault | apply KeepsOut.ite | apply State.authFail_keeps | apply cmdRow_keeps
      | apply State.finish_keeps | apply State.openSession_keeps | apply Keeps.ite | (fail_if_no_progress apply Keeps.mk0)
    | with_reducible (refine Keeps.ofFst (by assumption) ?_) | with_reducible (refine Keeps.ofSnd (by assumption) ?_)
    | split

theorem execSessionClose_keeps {s0 s : State} (h : Keeps s0 s) (c : CmdRef) :
    KeepsOut s0 (execSessionClose c s) := by
  unfold execSessionClose
  repeat' first
    | with_reducible first
      | assumption | (intro) | apply KeepsOut.next | exact KeepsOut.fault | apply KeepsOut.ite
      | apply cmdRow_keeps | apply State.endSession_keeps | apply State.finish_keeps | apply Keeps.ite
    | split

theorem execQueueCreate_keeps {s0 s : State} (h : Keeps s0 s) (c : CmdRef) :
    KeepsOut s0 (execQueueCreate c s) := by
  unfold execQueueCreate
  repeat' first
    | with_reducible first
      | assumption | (intro)
      | (extract_lets +onlyGivenNames x; first | (refine Keeps.cut x ?_ ?_; subst x; rotate_left; intro; clear_value x) | (refine KeepsOut.cut x ?_ ?_; subst x; rotate_left; intro; clear_value x) | clear_value x)
      | apply KeepsOut.next | exact KeepsOut.fault | apply KeepsOut.ite | apply cmdRow_keeps | apply State.finish_keeps
      | apply State.setQueue_keeps | apply Keeps.ite | (fail_if_no_progress apply Keeps.mk0)
    | split

theorem execQueueDelete_keeps {s0 s : State} (h : Keeps s0 s) (c : CmdRef) :
    KeepsOut s0 (execQueueDelete c s) := by
  unfold execQueueDelete
  repeat' first
    | with_reducible first
      | assumption | (intro)
      | (extract_lets +onlyGivenNames x; first | (refine Keeps.cut x ?_ ?_; subst x; rotate_left; intro; clear_value x) | (refine KeepsOut.cut x ?_ ?_; subst x; rotate_left; intro; clear_value x) | clear_value x)
      | apply KeepsOut.next | exact KeepsOut.fault | apply KeepsOut.ite | apply State.begin_keeps | apply cmdRow_keeps
      | apply State.dropQueue_keeps | apply State.finish_keeps | apply State.setQueue_keeps | apply Keeps.ite
      | (fail_if_no_progress apply Keeps.mk0)
    | split

theorem execBufRegister_keeps {s0 s : State} (h : Keeps s0 s) (c : CmdRef) :
    KeepsOut s0 (execBufRegister c s) := by
  unfold execBufRegister
  repeat' first
    | with_reducible first
      | assumption | (intro)
      | (extract_lets +onlyGivenNames x; first | (refine Keeps.cut x ?_ ?_; subst x; rotate_left; intro; clear_value x) | (refine KeepsOut.cut x ?_ ?_; subst x; rotate_left; intro; clear_value x) | clear_value x)
      | apply KeepsOut.next | exact KeepsOut.fault | apply KeepsOut.ite | apply cmdRow_keeps | apply State.finish_keeps
      | apply State.setDeckle_keeps | apply Keeps.ite | (fail_if_no_progress apply Keeps.mk0)
    | (show Keeps s0 _; assumption)
    | split

theorem execBufUnregister_keeps {s0 s : State} (h : Keeps s0 s) (c : CmdRef) :
    KeepsOut s0 (execBufUnregister c s) := by
  unfold execBufUnregister
  repeat' first
    | with_reducible first
      | assumption | (intro)
      | (extract_lets +onlyGivenNames x; first | (refine Keeps.cut x ?_ ?_; subst x; rotate_left; intro; clear_value x) | (refine Keeps.cut x.2 ?_ ?_; subst x; rotate_left; intro; clear_value x) | (refine Keeps.cut x.1 ?_ ?_; subst x; rotate_left; intro; clear_value x) | (refine KeepsOut.cut x ?_ ?_; subst x; rotate_left; intro; clear_value x) | (refine KeepsOut.cut x.2 ?_ ?_; subst x; rotate_left; intro; clear_value x) | clear_value x)
      | apply KeepsOut.next | exact KeepsOut.fault | apply KeepsOut.ite | apply cmdRow_keeps | apply State.finish_keeps
      | apply State.setDeckle_keeps | apply Keeps.ite | (fail_if_no_progress apply Keeps.mk0)
    | with_reducible (refine Keeps.ofFst (by assumption) ?_) | with_reducible (refine Keeps.ofSnd (by assumption) ?_)
    | (show Keeps s0 _; assumption)
    | split

end Sys2Proof.Machine
end

