-- ==== Sys2Proof/Laws/KeepHeadbox.lean ====
section
/-! SUPPORT. What the operations of Machine/Headbox.lean keep (see Laws/Keep.lean). -/

set_option linter.all false

namespace Sys2Proof.Machine

theorem State.unbindAll_keeps {s0 s : State} (h : Keeps s0 s) (c : Nat) :
    Keeps s0 (State.unbindAll s c) := by
  unfold State.unbindAll
  repeat' first
    | with_reducible first
      | assumption | (intro)
      | (extract_lets +onlyGivenNames x; first | (refine Keeps.cut x ?_ ?_; subst x; rotate_left; intro; clear_value x) | (refine Keeps.cut x.2 ?_ ?_; subst x; rotate_left; intro; clear_value x) | (refine Keeps.cut x.1 ?_ ?_; subst x; rotate_left; intro; clear_value x) | clear_value x)
      | apply State.dropEntry_keeps | apply State.each_keeps | apply State.modCtx_keeps | apply State.release_keeps
      | apply State.setTile_keeps | apply State.tileEntry_keeps | apply Keeps.ite | (fail_if_no_progress apply Keeps.mk0)
    | with_reducible (refine Keeps.ofFst (by assumption) ?_) | with_reducible (refine Keeps.ofSnd (by assumption) ?_)
    | split

theorem State.diverge_keeps {s0 s : State} (h : Keeps s0 s) (c subject : Nat) :
    Keeps s0 (State.diverge s c subject) := by
  unfold State.diverge
  repeat' first
    | with_reducible first
      | assumption | (intro)
      | (extract_lets +onlyGivenNames x; first | (refine Keeps.cut x ?_ ?_; subst x; rotate_left; intro; clear_value x) | clear_value x)
      | apply State.bump_keeps | apply State.journal_keeps | apply State.raiseTo_keeps | apply Keeps.ite
    | split

theorem State.choose_keeps {s0 s : State} (h : Keeps s0 s) (c : Nat) (p : Place) :
    Keeps s0 (State.choose s c p) := by
  unfold State.choose
  repeat' first
    | with_reducible first
      | assumption | (intro)
      | (extract_lets +onlyGivenNames x; first | (refine Keeps.cut x ?_ ?_; subst x; rotate_left; intro; clear_value x) | clear_value x)
      | apply State.modCtx_keeps | apply State.spadZero_keeps | apply State.tileEntry_keeps | apply Keeps.ite
      | (fail_if_no_progress apply Keeps.mk0)
    | split

theorem State.replaceOne_keeps {s0 s : State} (h : Keeps s0 s) (c : Nat) (p : Place) :
    Keeps s0 (State.replaceOne s c p) := by
  unfold State.replaceOne
  repeat' first
    | with_reducible first
      | assumption | (intro)
      | (extract_lets +onlyGivenNames x; first | (refine Keeps.cut x ?_ ?_; subst x; rotate_left; intro; clear_value x) | clear_value x)
      | apply State.bump_keeps | apply State.choose_keeps | apply State.diverge_keeps | apply State.faultWith_keeps
      | apply State.modCtx_keeps | apply State.raiseTo_keeps | apply State.when_keeps | apply Keeps.ite
      | (fail_if_no_progress apply Keeps.mk0)
    | split

theorem State.bindFree_keeps {s0 s : State} (h : Keeps s0 s) (c v : Nat) :
    Keeps s0 (State.bindFree s c v) := by
  unfold State.bindFree
  repeat' first
    | with_reducible first
      | assumption | (intro)
      | (extract_lets +onlyGivenNames x; first | (refine Keeps.cut x ?_ ?_; subst x; rotate_left; intro; clear_value x) | clear_value x)
      | apply State.choose_keeps | apply State.diverge_keeps | apply State.modCtx_keeps | apply State.when_keeps | apply Keeps.ite
      | (fail_if_no_progress apply Keeps.mk0)
    | split

theorem State.bindPinned_keeps {s0 s : State} (h : Keeps s0 s) (c v : Nat) :
    Keeps s0 (State.bindPinned s c v) := by
  unfold State.bindPinned
  repeat' first
    | with_reducible first
      | assumption | (intro)
      | (extract_lets +onlyGivenNames x; first | (refine Keeps.cut x ?_ ?_; subst x; rotate_left; intro; clear_value x) | clear_value x)
      | apply State.choose_keeps | apply State.diverge_keeps | apply State.modCtx_keeps | apply State.when_keeps | apply Keeps.ite
    | split

theorem State.bindStart_keeps {s0 s : State} (h : Keeps s0 s) (c : Nat) :
    Keeps s0 (State.bindStart s c) := by
  unfold State.bindStart
  repeat' first
    | with_reducible first
      | assumption | (intro)
      | (extract_lets +onlyGivenNames x; first | (refine Keeps.cut x ?_ ?_; subst x; rotate_left; intro; clear_value x) | clear_value x)
      | apply State.bindFree_keeps | apply State.bindPinned_keeps | apply State.each_keeps | apply Keeps.ite
    | split

theorem State.decideStart_keeps {s0 s : State} (h : Keeps s0 s) (c : Nat) :
    Keeps s0 (State.decideStart s c) := by
  unfold State.decideStart
  repeat' first
    | with_reducible first
      | assumption | (intro)
      | (extract_lets +onlyGivenNames x; first | (refine Keeps.cut x ?_ ?_; subst x; rotate_left; intro; clear_value x) | (refine Keeps.cut x.2 ?_ ?_; subst x; rotate_left; intro; clear_value x) | (refine Keeps.cut x.1 ?_ ?_; subst x; rotate_left; intro; clear_value x) | clear_value x)
      | apply State.bindStart_keeps | apply State.finishAll_keeps | apply State.free_keeps | apply State.modCtx_keeps
      | apply Keeps.ite | apply Keeps.iteFst | apply Keeps.iteSnd | (fail_if_no_progress apply Keeps.mk0)
    | with_reducible (refine Keeps.ofFst (by assumption) ?_) | with_reducible (refine Keeps.ofSnd (by assumption) ?_)
    | split

theorem State.propose_keeps {s0 s : State} (h : Keeps s0 s) (c block tier v cause since ord : Nat) (lender : Option (Nat × Nat)) :
    Keeps s0 (State.propose s c block tier v cause since ord lender) := by
  unfold State.propose
  repeat' first
    | with_reducible first
      | assumption | (intro) | apply State.modCtx_keeps | apply Keeps.ite
      | (fail_if_no_progress apply Keeps.mk0)
    | split

theorem State.demote_keeps {s0 s : State} (h : Keeps s0 s) (d goal : Nat) (l : List (Nat × Nat × Nat)) (free : Nat) :
    Keeps s0 (s.demote d goal l free) := by
  induction l generalizing s free with
  | nil => exact h
  | cons x rest ih =>
    obtain ⟨c, i, n⟩ := x
    simp only [State.demote]
    refine Keeps.ite h ?_
    split
    · exact ih h _
    · exact ih (State.propose_keeps (State.when_keeps (fun t k => State.diverge_keeps k _ _) h) _ _ _ _ _ _ _ _) _

theorem State.makeRoom_keeps {s0 s : State} (h : Keeps s0 s) (c v n cause m : Nat) : Keeps s0 (s.makeRoom c v n cause m) := by
  induction m generalizing s with
  | zero => exact h
  | succ m ih =>
    simp only [State.makeRoom]
    refine Keeps.ite h ?_
    split
    · exact h
    · exact ih (State.dropEntry_keeps (State.modCtx_keeps h _ _) _ _ _ _)

theorem State.promoteUsed_keeps {s0 s : State} (h : Keeps s0 s) (d floor c i since : Nat) :
    Keeps s0 (State.promoteUsed s d floor c i since) := by
  unfold State.promoteUsed
  repeat' first
    | with_reducible first
      | assumption | (intro)
      | (extract_lets +onlyGivenNames x; first | (refine Keeps.cut x ?_ ?_; subst x; rotate_left; intro; clear_value x) | clear_value x)
      | apply State.propose_keeps | apply Keeps.ite | (fail_if_no_progress apply Keeps.mk0)
    | split

theorem State.copyUsed_keeps {s0 s : State} (h : Keeps s0 s) (c i v : Nat) :
    Keeps s0 (State.copyUsed s c i v) := by
  unfold State.copyUsed
  repeat' first
    | with_reducible first
      | assumption | (intro)
      | (extract_lets +onlyGivenNames x; first | (refine Keeps.cut x ?_ ?_; subst x; rotate_left; intro; clear_value x) | clear_value x)
      | apply State.makeRoom_keeps | apply State.propose_keeps | apply Keeps.ite | (fail_if_no_progress apply Keeps.mk0)
    | split

theorem State.policy_keeps {s0 s : State} (h : Keeps s0 s) (d : Nat) :
    Keeps s0 (State.policy s d) := by
  unfold State.policy
  repeat' first
    | with_reducible first
      | assumption | (intro)
      | (extract_lets +onlyGivenNames x; first | (refine Keeps.cut x ?_ ?_; subst x; rotate_left; intro; clear_value x) | (refine Keeps.cut x.2 ?_ ?_; subst x; rotate_left; intro; clear_value x) | (refine Keeps.cut x.1 ?_ ?_; subst x; rotate_left; intro; clear_value x) | clear_value x)
      | apply State.copyUsed_keeps | apply State.each_keeps | apply State.modCtx_keeps | apply State.promoteUsed_keeps
      | apply Keeps.ite | (fail_if_no_progress apply Keeps.mk0)
    | with_reducible (refine Keeps.ofFst (by assumption) ?_) | with_reducible (refine Keeps.ofSnd (by assumption) ?_)
    | split

theorem State.replayMove_keeps {s0 s : State} (h : Keeps s0 s) (c : Nat) (e : JEntry) :
    Keeps s0 (State.replayMove s c e) := by
  unfold State.replayMove
  repeat' first
    | with_reducible first
      | assumption | (intro)
      | (extract_lets +onlyGivenNames x; first | (refine Keeps.cut x ?_ ?_; subst x; rotate_left; intro; clear_value x) | clear_value x)
      | apply State.diverge_keeps | apply State.propose_keeps | apply Keeps.ite | (fail_if_no_progress apply Keeps.mk0)
    | split

theorem State.replayDrop_keeps {s0 s : State} (h : Keeps s0 s) (c : Nat) (e : JEntry) :
    Keeps s0 (State.replayDrop s c e) := by
  unfold State.replayDrop
  repeat' first
    | with_reducible first
      | assumption | (intro) | apply State.diverge_keeps | apply State.dropEntry_keeps
      | apply State.modCtx_keeps | apply Keeps.ite | (fail_if_no_progress apply Keeps.mk0)
    | split

theorem State.replayMoves_keeps {s0 s : State} (h : Keeps s0 s) (c : Nat) :
    Keeps s0 (State.replayMoves s c) := by
  unfold State.replayMoves
  repeat' first
    | with_reducible first
      | assumption | (intro)
      | (extract_lets +onlyGivenNames x; first | (refine Keeps.cut x ?_ ?_; subst x; rotate_left; intro; clear_value x) | clear_value x)
      | apply State.each_keeps | apply State.journal_keeps | apply State.modCtx_keeps | apply State.replayDrop_keeps
      | apply State.replayMove_keeps | apply Keeps.ite | (fail_if_no_progress apply Keeps.mk0)
    | split

theorem State.dropMove_keeps {s0 s : State} (h : Keeps s0 s) (c : Nat) (m : Move) :
    Keeps s0 (State.dropMove s c m) := by
  unfold State.dropMove
  repeat' first
    | with_reducible first
      | assumption | (intro) | apply State.finishMoves_keeps | apply State.modCtx_keeps
      | apply Keeps.ite | (fail_if_no_progress apply Keeps.mk0)
    | split

theorem State.decideMove_keeps {s0 s : State} (h : Keeps s0 s) (d budget used c : Nat) (m : Move) :
    Keeps s0 (State.decideMove s d budget used c m).1 := by
  unfold State.decideMove
  repeat' first
    | with_reducible first
      | assumption | (intro)
      | (extract_lets +onlyGivenNames x; first | (refine Keeps.cut x ?_ ?_; subst x; rotate_left; intro; clear_value x) | clear_value x)
      | apply State.bump_keeps | apply State.dropMove_keeps | apply State.journal_keeps | apply State.makeRoom_keeps
      | apply State.modCtx_keeps | apply Keeps.ite | apply Keeps.iteFst | apply Keeps.iteSnd
      | (fail_if_no_progress apply Keeps.mk0)
    | split

theorem State.budgeted_keeps {s0 s : State} (h : Keeps s0 s) (d : Nat) :
    Keeps s0 (State.budgeted s d) := by
  unfold State.budgeted
  repeat' first
    | with_reducible first
      | assumption | (intro)
      | (extract_lets +onlyGivenNames x; first | (refine Keeps.cut x ?_ ?_; subst x; rotate_left; intro; clear_value x) | (refine Keeps.cut x.2 ?_ ?_; subst x; rotate_left; intro; clear_value x) | (refine Keeps.cut x.1 ?_ ?_; subst x; rotate_left; intro; clear_value x) | clear_value x)
      | apply State.decideMove_keeps | apply Keeps.foldl | apply Keeps.foldlFst | apply Keeps.foldlSnd | apply Keeps.ite
      | apply Keeps.iteFst | apply Keeps.iteSnd
    | with_reducible (refine Keeps.ofFst (by assumption) ?_) | with_reducible (refine Keeps.ofSnd (by assumption) ?_)
    | split

theorem State.decideMoves_keeps {s0 s : State} (h : Keeps s0 s) (d : Nat) :
    Keeps s0 (State.decideMoves s d) := by
  unfold State.decideMoves
  repeat' first
    | with_reducible first
      | assumption | (intro)
      | (extract_lets +onlyGivenNames x; first | (refine Keeps.cut x ?_ ?_; subst x; rotate_left; intro; clear_value x) | (refine Keeps.cut x.2 ?_ ?_; subst x; rotate_left; intro; clear_value x) | (refine Keeps.cut x.1 ?_ ?_; subst x; rotate_left; intro; clear_value x) | clear_value x)
      | apply State.budgeted_keeps | apply State.demote_keeps | apply State.each_keeps | apply State.policy_keeps
      | apply State.replayMoves_keeps | apply Keeps.ite | apply Keeps.iteFst | apply Keeps.iteSnd
    | with_reducible (refine Keeps.ofFst (by assumption) ?_) | with_reducible (refine Keeps.ofSnd (by assumption) ?_)
    | split

theorem execPlacementFreeze_keeps {s0 s : State} (h : Keeps s0 s) (decided : Bool) :
    KeepsOut s0 (execPlacementFreeze decided s) := by
  unfold execPlacementFreeze
  repeat' first
    | with_reducible first
      | assumption | (intro)
      | (extract_lets +onlyGivenNames x; first | (refine Keeps.cut x ?_ ?_; subst x; rotate_left; intro; clear_value x) | (refine Keeps.cut x.2 ?_ ?_; subst x; rotate_left; intro; clear_value x) | (refine Keeps.cut x.1 ?_ ?_; subst x; rotate_left; intro; clear_value x) | (refine KeepsOut.cut x ?_ ?_; subst x; rotate_left; intro; clear_value x) | (refine KeepsOut.cut x.2 ?_ ?_; subst x; rotate_left; intro; clear_value x) | clear_value x)
      | apply guardUnit_keeps | apply KeepsOut.next | exact KeepsOut.fault | apply KeepsOut.ite | apply State.bump_keeps
      | apply State.decideMoves_keeps | apply State.decideStart_keeps | apply State.each_keeps | apply State.raise_keeps
      | apply State.replaceOne_keeps | apply Keeps.ite | (fail_if_no_progress apply Keeps.mk0)
    | with_reducible (refine Keeps.ofFst (by assumption) ?_) | with_reducible (refine Keeps.ofSnd (by assumption) ?_)
    | split

theorem State.applyPlace_keeps {s0 s : State} (h : Keeps s0 s) (c : Nat) (p : Place) :
    Keeps s0 (State.applyPlace s c p) := by
  unfold State.applyPlace
  repeat' first
    | with_reducible first
      | assumption | (intro)
      | (extract_lets +onlyGivenNames x; first | (refine Keeps.cut x ?_ ?_; subst x; rotate_left; intro; clear_value x) | clear_value x)
      | apply State.bump_keeps | apply State.modCtx_keeps | apply State.raiseTo_keeps | apply State.setTile_keeps
      | apply State.unbindLost_keeps | apply State.when_keeps | apply Keeps.ite | (fail_if_no_progress apply Keeps.mk0)
    | split

theorem State.startMove_keeps {s0 s : State} (h : Keeps s0 s) (c : Nat) (m : Move) :
    Keeps s0 (State.startMove s c m) := by
  unfold State.startMove
  repeat' first
    | with_reducible first
      | assumption | (intro)
      | (extract_lets +onlyGivenNames x; first | (refine Keeps.cut x ?_ ?_; subst x; rotate_left; intro; clear_value x) | subst x)
      | apply State.arenaChange_keeps | apply State.bump_keeps | apply State.modCtx_keeps | apply Keeps.ite
      | (fail_if_no_progress apply Keeps.mk0)
    | split

theorem State.placeCtx_keeps {s0 s : State} (h : Keeps s0 s) (c : Nat) :
    Keeps s0 (State.placeCtx s c) := by
  unfold State.placeCtx
  repeat' first
    | with_reducible first
      | assumption | (intro)
      | (extract_lets +onlyGivenNames x; first | (refine Keeps.cut x ?_ ?_; subst x; rotate_left; intro; clear_value x) | clear_value x)
      | apply State.applyPlace_keeps | apply State.each_keeps | apply State.faultWith_keeps | apply State.modCtx_keeps
      | apply State.release_keeps | apply State.startMove_keeps | apply State.unbindAll_keeps | apply State.when_keeps
      | apply Keeps.ite | (fail_if_no_progress apply Keeps.mk0)
    | split

theorem State.applyPlacement_keeps {s0 s : State} (h : Keeps s0 s)  :
    Keeps s0 (State.applyPlacement s) := by
  unfold State.applyPlacement
  repeat' first
    | with_reducible first
      | assumption | (intro) | apply State.each_keeps | apply State.placeCtx_keeps | apply Keeps.ite
    | split

theorem State.moveRange_keeps {s0 s : State} (h : Keeps s0 s) (k : Cmd) (c cause : Nat) (pin : Bool) :
    Keeps s0 (State.moveRange s k c cause pin) := by
  unfold State.moveRange
  repeat' first
    | with_reducible first
      | assumption | (intro)
      | (extract_lets +onlyGivenNames x; first | (refine Keeps.cut x ?_ ?_; subst x; rotate_left; intro; clear_value x) | (refine Keeps.cut x.2 ?_ ?_; subst x; rotate_left; intro; clear_value x) | (refine Keeps.cut x.1 ?_ ?_; subst x; rotate_left; intro; clear_value x) | clear_value x)
      | apply State.finish_keeps | apply State.modCtx_keeps | apply Keeps.foldl | apply Keeps.foldlFst | apply Keeps.foldlSnd
      | apply Keeps.ite | (fail_if_no_progress apply Keeps.mk0) | (fail_if_no_progress apply Keeps.mk2)
    | with_reducible exact Nat.le_max_left _ _
    | with_reducible exact Nat.le_refl _
    | with_reducible exact Nat.le_add_right _ _
    | with_reducible exact cmdsMap _ _
    | with_reducible exact cmdsFilterMap _ _ _
    | with_reducible exact cmdsErase _ _
    | with_reducible exact cmdsReplace _ _ _
    | with_reducible exact cmdsNil _
    | with_reducible (refine Keeps.ofFst (by assumption) ?_) | with_reducible (refine Keeps.ofSnd (by assumption) ?_)
    | split

theorem execHeadboxPin_keeps {s0 s : State} (h : Keeps s0 s) (c : CmdRef) :
    KeepsOut s0 (execHeadboxPin c s) := by
  unfold execHeadboxPin
  repeat' first
    | with_reducible first
      | assumption | (intro) | apply KeepsOut.next | exact KeepsOut.fault | apply KeepsOut.ite
      | apply ctxRow_keeps | apply State.moveRange_keeps | apply Keeps.ite
    | split

theorem execHeadboxUnpin_keeps {s0 s : State} (h : Keeps s0 s) (c : CmdRef) :
    KeepsOut s0 (execHeadboxUnpin c s) := by
  unfold execHeadboxUnpin
  repeat' first
    | with_reducible first
      | assumption | (intro)
      | (extract_lets +onlyGivenNames x; first | (refine Keeps.cut x ?_ ?_; subst x; rotate_left; intro; clear_value x) | (refine Keeps.cut x.2 ?_ ?_; subst x; rotate_left; intro; clear_value x) | (refine Keeps.cut x.1 ?_ ?_; subst x; rotate_left; intro; clear_value x) | (refine KeepsOut.cut x ?_ ?_; subst x; rotate_left; intro; clear_value x) | (refine KeepsOut.cut x.2 ?_ ?_; subst x; rotate_left; intro; clear_value x) | clear_value x)
      | apply KeepsOut.next | exact KeepsOut.fault | apply KeepsOut.ite | apply ctxRow_keeps | apply State.finish_keeps
      | apply State.modCtx_keeps | apply Keeps.ite | (fail_if_no_progress apply Keeps.mk0)
    | with_reducible (refine Keeps.ofFst (by assumption) ?_) | with_reducible (refine Keeps.ofSnd (by assumption) ?_)
    | split

theorem execHeadboxMove_keeps {s0 s : State} (h : Keeps s0 s) (c : CmdRef) :
    KeepsOut s0 (execHeadboxMove c s) := by
  unfold execHeadboxMove
  repeat' first
    | with_reducible first
      | assumption | (intro) | apply KeepsOut.next | exact KeepsOut.fault | apply KeepsOut.ite
      | apply ctxRow_keeps | apply State.finish_keeps | apply State.moveRange_keeps | apply Keeps.ite
    | split

theorem execHeadboxTier_keeps {s0 s : State} (h : Keeps s0 s) (c : CmdRef) :
    KeepsOut s0 (execHeadboxTier c s) := by
  unfold execHeadboxTier
  repeat' first
    | with_reducible first
      | assumption | (intro)
      | (extract_lets +onlyGivenNames x; first | (refine Keeps.cut x ?_ ?_; subst x; rotate_left; intro; clear_value x) | (refine Keeps.cut x.2 ?_ ?_; subst x; rotate_left; intro; clear_value x) | (refine Keeps.cut x.1 ?_ ?_; subst x; rotate_left; intro; clear_value x) | (refine KeepsOut.cut x ?_ ?_; subst x; rotate_left; intro; clear_value x) | (refine KeepsOut.cut x.2 ?_ ?_; subst x; rotate_left; intro; clear_value x) | clear_value x)
      | apply KeepsOut.next | exact KeepsOut.fault | apply KeepsOut.ite | apply cmdRow_keeps | apply State.finish_keeps
      | apply State.notePoison_keeps | apply State.setDeckle_keeps | apply Keeps.ite | (fail_if_no_progress apply Keeps.mk0)
    | with_reducible (refine Keeps.ofFst (by assumption) ?_) | with_reducible (refine Keeps.ofSnd (by assumption) ?_)
    | split

theorem execHeadboxLend_keeps {s0 s : State} (h : Keeps s0 s) (c : CmdRef) :
    KeepsOut s0 (execHeadboxLend c s) := by
  unfold execHeadboxLend
  repeat' first
    | with_reducible first
      | assumption | (intro)
      | (extract_lets +onlyGivenNames x; first | (refine Keeps.cut x ?_ ?_; subst x; rotate_left; intro; clear_value x) | (refine KeepsOut.cut x ?_ ?_; subst x; rotate_left; intro; clear_value x) | clear_value x)
      | apply KeepsOut.next | exact KeepsOut.fault | apply KeepsOut.ite | apply State.arenaChange_keeps | apply cmdRow_keeps
      | apply State.finish_keeps | apply State.setDeckle_keeps | apply Keeps.ite | (fail_if_no_progress apply Keeps.mk0)
    | split

theorem execHeadboxReplay_keeps {s0 s : State} (h : Keeps s0 s) (c : CmdRef) :
    KeepsOut s0 (execHeadboxReplay c s) := by
  unfold execHeadboxReplay
  repeat' first
    | with_reducible first
      | assumption | (intro)
      | (extract_lets +onlyGivenNames x; first | (refine Keeps.cut x ?_ ?_; subst x; rotate_left; intro; clear_value x) | (refine KeepsOut.cut x ?_ ?_; subst x; rotate_left; intro; clear_value x) | clear_value x)
      | apply KeepsOut.next | exact KeepsOut.fault | apply KeepsOut.ite | apply ctxRow_keeps | apply State.finish_keeps
      | apply State.modCtx_keeps | apply State.notePoison_keeps | apply State.replay_keeps | apply Keeps.ite
      | (fail_if_no_progress apply Keeps.mk0)
    | split

end Sys2Proof.Machine
end

