-- ==== Sys2Proof/Laws/KeepContexts.lean ====
section
/-! SUPPORT. What the operations of Machine/Contexts.lean keep (see Laws/Keep.lean). -/

set_option linter.all false

namespace Sys2Proof.Machine

theorem State.wakeWaits_keeps {s0 s : State} (h : Keeps s0 s) (c : Nat) :
    Keeps s0 (State.wakeWaits s c) := by
  unfold State.wakeWaits
  repeat' first
    | with_reducible first
      | assumption | (intro) | apply State.finishAll_keeps | apply Keeps.ite
    | split

theorem State.settle_keeps {s0 s : State} (h : Keeps s0 s) (c : Nat) :
    Keeps s0 (State.settle s c) := by
  unfold State.settle
  repeat' first
    | with_reducible first
      | assumption | (intro)
      | (extract_lets +onlyGivenNames x; first | (refine Keeps.cut x ?_ ?_; subst x; rotate_left; intro; clear_value x) | clear_value x)
      | apply State.finishAll_keeps | apply State.setCtx_keeps | apply Keeps.ite | (fail_if_no_progress apply Keeps.mk0)
    | split

theorem State.stopCtx_keeps {s0 s : State} (h : Keeps s0 s) (c : Nat) (release : Bool) :
    Keeps s0 (State.stopCtx s c release) := by
  unfold State.stopCtx
  repeat' first
    | with_reducible first
      | assumption | (intro)
      | (extract_lets +onlyGivenNames x; first | (refine Keeps.cut x ?_ ?_; subst x; rotate_left; intro; clear_value x) | (refine Keeps.cut x.2 ?_ ?_; subst x; rotate_left; intro; clear_value x) | (refine Keeps.cut x.1 ?_ ?_; subst x; rotate_left; intro; clear_value x) | clear_value x)
      | apply State.each_keeps | apply State.release_keeps | apply State.setCtx_keeps | apply State.setTile_keeps
      | apply State.settle_keeps | apply State.wakeWaits_keeps | apply Keeps.ite | (fail_if_no_progress apply Keeps.mk0)
    | with_reducible (refine Keeps.ofFst (by assumption) ?_) | with_reducible (refine Keeps.ofSnd (by assumption) ?_)
    | split

theorem execCtxCreate_keeps {s0 s : State} (h : Keeps s0 s) (c : CmdRef) :
    KeepsOut s0 (execCtxCreate c s) := by
  unfold execCtxCreate
  repeat' first
    | with_reducible first
      | assumption | (intro)
      | (extract_lets +onlyGivenNames x; first | (refine Keeps.cut x ?_ ?_; subst x; rotate_left; intro; clear_value x) | (refine KeepsOut.cut x ?_ ?_; subst x; rotate_left; intro; clear_value x) | clear_value x)
      | apply KeepsOut.next | exact KeepsOut.fault | apply KeepsOut.ite | apply cmdRow_keeps | apply State.finish_keeps
      | apply State.setCtx_keeps | apply Keeps.ite | (fail_if_no_progress apply Keeps.mk0)
    | split

theorem execCtxStart_keeps {s0 s : State} (h : Keeps s0 s) (c : CmdRef) :
    KeepsOut s0 (execCtxStart c s) := by
  unfold execCtxStart
  repeat' first
    | with_reducible first
      | assumption | (intro)
      | (extract_lets +onlyGivenNames x; first | (refine Keeps.cut x ?_ ?_; subst x; rotate_left; intro; clear_value x) | (refine Keeps.cut x.2 ?_ ?_; subst x; rotate_left; intro; clear_value x) | (refine Keeps.cut x.1 ?_ ?_; subst x; rotate_left; intro; clear_value x) | (refine KeepsOut.cut x ?_ ?_; subst x; rotate_left; intro; clear_value x) | (refine KeepsOut.cut x.2 ?_ ?_; subst x; rotate_left; intro; clear_value x) | clear_value x)
      | apply KeepsOut.next | exact KeepsOut.fault | apply KeepsOut.ite | apply State.begin_keeps | apply ctxRow_keeps
      | apply State.finish_keeps | apply State.journal_keeps | apply State.release_keeps | apply State.replay_keeps
      | apply State.setCtx_keeps | apply Keeps.ite | apply Keeps.iteFst | apply Keeps.iteSnd
      | (fail_if_no_progress apply Keeps.mk0)
    | with_reducible (refine Keeps.ofFst (by assumption) ?_) | with_reducible (refine Keeps.ofSnd (by assumption) ?_)
    | split

theorem execCtxStop_keeps {s0 s : State} (h : Keeps s0 s) (c : CmdRef) :
    KeepsOut s0 (execCtxStop c s) := by
  unfold execCtxStop
  repeat' first
    | with_reducible first
      | assumption | (intro)
      | (extract_lets +onlyGivenNames x; first | (refine Keeps.cut x ?_ ?_; subst x; rotate_left; intro; clear_value x) | (refine KeepsOut.cut x ?_ ?_; subst x; rotate_left; intro; clear_value x) | clear_value x)
      | apply KeepsOut.next | exact KeepsOut.fault | apply KeepsOut.ite | apply State.begin_keeps | apply ctxRow_keeps
      | apply State.finish_keeps | apply State.modCtx_keeps | apply State.release_keeps | apply State.stopCtx_keeps
      | apply Keeps.ite | (fail_if_no_progress apply Keeps.mk0)
    | split

theorem execCtxStatus_keeps {s0 s : State} (h : Keeps s0 s) (c : CmdRef) :
    KeepsOut s0 (execCtxStatus c s) := by
  unfold execCtxStatus
  repeat' first
    | with_reducible first
      | assumption | (intro)
      | (extract_lets +onlyGivenNames x; first | (refine Keeps.cut x ?_ ?_; subst x; rotate_left; intro; clear_value x) | (refine KeepsOut.cut x ?_ ?_; subst x; rotate_left; intro; clear_value x) | clear_value x)
      | apply KeepsOut.next | exact KeepsOut.fault | apply KeepsOut.ite | apply ctxRow_keeps | apply State.finish_keeps
      | apply State.modCtx_keeps | apply State.when_keeps | apply Keeps.ite | (fail_if_no_progress apply Keeps.mk0)
    | split

theorem execCtxWait_keeps {s0 s : State} (h : Keeps s0 s) (c : CmdRef) :
    KeepsOut s0 (execCtxWait c s) := by
  unfold execCtxWait
  repeat' first
    | with_reducible first
      | assumption | (intro) | apply KeepsOut.next | exact KeepsOut.fault | apply KeepsOut.ite
      | apply State.begin_keeps | apply ctxRow_keeps | apply State.finish_keeps | apply Keeps.ite
    | split

theorem State.sendPoweroffReady_keeps {s0 s : State} (h : Keeps s0 s) (expired : Bool) :
    Keeps s0 (State.sendPoweroffReady s expired) := by
  unfold State.sendPoweroffReady
  repeat' first
    | with_reducible first
      | assumption | (intro)
      | (extract_lets +onlyGivenNames x; first | (refine Keeps.cut x ?_ ?_; subst x; rotate_left; intro; clear_value x) | clear_value x)
      | apply State.duntus_keeps | apply State.fset_keeps | apply Keeps.ite | (fail_if_no_progress apply Keeps.mk0)
    | split

theorem State.tryPoweroff_keeps {s0 s : State} (h : Keeps s0 s)  :
    Keeps s0 (State.tryPoweroff s) := by
  unfold State.tryPoweroff
  repeat' first
    | with_reducible first
      | assumption | (intro) | apply State.sendPoweroffReady_keeps | apply Keeps.ite
    | split

theorem State.stopTile_keeps {s0 s : State} (h : Keeps s0 s) (tile : Nat) (unbind : Bool) :
    Keeps s0 (State.stopTile s tile unbind) := by
  unfold State.stopTile
  repeat' first
    | with_reducible first
      | assumption | (intro)
      | (extract_lets +onlyGivenNames x; first | (refine Keeps.cut x ?_ ?_; subst x; rotate_left; intro; clear_value x) | clear_value x)
      | apply State.setTile_keeps | apply Keeps.ite | (fail_if_no_progress apply Keeps.mk0)
    | split

theorem State.noteDrained_keeps {s0 s : State} (h : Keeps s0 s) (c : Nat) :
    Keeps s0 (State.noteDrained s c) := by
  unfold State.noteDrained
  repeat' first
    | with_reducible first
      | assumption | (intro) | apply State.modCtx_keeps | apply Keeps.ite
      | (fail_if_no_progress apply Keeps.mk0)
    | split

theorem execCtxTeardown_keeps {s0 s : State} (h : Keeps s0 s) (c : CmdRef) :
    KeepsOut s0 (execCtxTeardown c s) := by
  unfold execCtxTeardown
  repeat' first
    | with_reducible first
      | assumption | (intro)
      | (extract_lets +onlyGivenNames x; first | (refine Keeps.cut x ?_ ?_; subst x; rotate_left; intro; clear_value x) | (refine Keeps.cut x.2 ?_ ?_; subst x; rotate_left; intro; clear_value x) | (refine Keeps.cut x.1 ?_ ?_; subst x; rotate_left; intro; clear_value x) | (refine KeepsOut.cut x ?_ ?_; subst x; rotate_left; intro; clear_value x) | (refine KeepsOut.cut x.2 ?_ ?_; subst x; rotate_left; intro; clear_value x) | clear_value x)
      | apply KeepsOut.next | exact KeepsOut.fault | apply KeepsOut.ite | apply State.begin_keeps | apply State.closeSteps_keeps
      | apply ctxRow_keeps | apply State.dropChest_keeps | apply State.each_keeps | apply State.finishAll_keeps
      | apply State.modCtx_keeps | apply State.noteDrained_keeps | apply State.stopTile_keeps | apply State.tileEntry_keeps
      | apply Keeps.ite | (fail_if_no_progress apply Keeps.mk0)
    | with_reducible (refine Keeps.ofFst (by assumption) ?_) | with_reducible (refine Keeps.ofSnd (by assumption) ?_)
    | split

theorem State.revoke_keeps {s0 s : State} (h : Keeps s0 s) (c : Nat) :
    Keeps s0 (State.revoke s c) := by
  unfold State.revoke
  repeat' first
    | with_reducible first
      | assumption | (intro) | apply State.duntusEvent_keeps | apply State.modCtx_keeps
      | apply Keeps.ite | (fail_if_no_progress apply Keeps.mk0)
    | split

theorem State.freeCtx_keeps {s0 s : State} (h : Keeps s0 s) (c : Nat) :
    Keeps s0 (State.freeCtx s c) := by
  unfold State.freeCtx
  repeat' first
    | with_reducible first
      | assumption | (intro) | apply State.arenaChange_keeps | apply State.setCtx_keeps
      | apply Keeps.ite | (fail_if_no_progress apply Keeps.mk0)
    | split

theorem State.endTeardown_keeps {s0 s : State} (h : Keeps s0 s) (c status : Nat) :
    Keeps s0 (State.endTeardown s c status) := by
  unfold State.endTeardown
  repeat' first
    | with_reducible first
      | assumption | (intro)
      | (extract_lets +onlyGivenNames x; first | (refine Keeps.cut x ?_ ?_; subst x; rotate_left; intro; clear_value x) | clear_value x)
      | apply State.finish_keeps | apply State.finishAll_keeps | apply State.freeCtx_keeps | apply State.tryPoweroff_keeps
      | apply Keeps.foldl | apply Keeps.foldlFst | apply Keeps.foldlSnd | apply Keeps.ite
    | split

theorem execTeardownComplete_keeps {s0 s : State} (h : Keeps s0 s) (c : Nat) :
    KeepsOut s0 (execTeardownComplete c s) := by
  unfold execTeardownComplete
  repeat' first
    | with_reducible first
      | assumption | (intro) | apply guardUnit_keeps | apply KeepsOut.next | exact KeepsOut.fault
      | apply KeepsOut.ite | apply State.endTeardown_keeps | apply State.revoke_keeps | apply Keeps.ite
    | split

theorem State.mapWrites_keeps {s0 s : State} (h : Keeps s0 s) (f : RWrite → RWrite) :
    Keeps s0 (State.mapWrites s f) := by
  unfold State.mapWrites
  repeat' first
    | exact id | exact fun w => Sparse.set_wf w _ _ | exact fun w => Sparse.clear_wf w _ | exact fun w => Sparse.mapVals_wf w _
    | exact fun _ => rfl | exact fun w => Sparse.setRange_wf _ w _ | exact fun w => Sparse.foldl_set_wf _ _ _ w
    | with_reducible first
      | assumption | (intro)
      | (extract_lets +onlyGivenNames x; first | (refine Keeps.cut x ?_ ?_; subst x; rotate_left; intro; clear_value x) | (refine Keeps.cut x.2 ?_ ?_; subst x; rotate_left; intro; clear_value x) | (refine Keeps.cut x.1 ?_ ?_; subst x; rotate_left; intro; clear_value x) | clear_value x)
      | apply Keeps.ite | (fail_if_no_progress apply Keeps.mk0) | (fail_if_no_progress apply Keeps.mk2)
    | with_reducible ((fail_if_success apply Keeps.mk0); apply Keeps.mk1)
    | with_reducible exact Nat.le_max_left _ _
    | with_reducible exact Nat.le_refl _
    | with_reducible exact Nat.le_add_right _ _
    | with_reducible exact cmdsMap _ _
    | with_reducible exact cmdsFilterMap _ _ _
    | with_reducible exact cmdsErase _ _
    | with_reducible exact cmdsReplace _ _ _
    | with_reducible exact cmdsNil _
    | with_reducible ((fail_if_success apply Keeps.mk0); apply Keeps.mk3)
    | with_reducible (refine Keeps.ofFst (by assumption) ?_) | with_reducible (refine Keeps.ofSnd (by assumption) ?_)
    | split

theorem State.discard_keeps {s0 s : State} (h : Keeps s0 s) (w : RWrite) :
    Keeps s0 (State.discard s w) := by
  unfold State.discard
  repeat' first
    | with_reducible first
      | assumption | (intro)
      | (extract_lets +onlyGivenNames x; first | (refine Keeps.cut x ?_ ?_; subst x; rotate_left; intro; clear_value x) | clear_value x)
      | apply State.bump_keeps | apply State.mapWrites_keeps | apply State.setRouter_keeps | apply State.setTxPair_keeps
      | apply Keeps.ite | (fail_if_no_progress apply Keeps.mk0)
    | split

theorem State.discardUnsent_keeps {s0 s : State} (h : Keeps s0 s) (c n : Nat) : Keeps s0 (s.discardUnsent c n) := by
  induction n generalizing s with
  | zero => exact h
  | succ n ih =>
    simp only [State.discardUnsent]
    split
    · exact h
    · exact ih (State.discard_keeps (State.modCtx_keeps h _ _) _)

theorem execTeardownDrainLimit_keeps {s0 s : State} (h : Keeps s0 s) (c : Nat) :
    KeepsOut s0 (execTeardownDrainLimit c s) := by
  unfold execTeardownDrainLimit
  repeat' first
    | with_reducible first
      | assumption | (intro)
      | (extract_lets +onlyGivenNames x; first | (refine Keeps.cut x ?_ ?_; subst x; rotate_left; intro; clear_value x) | (refine KeepsOut.cut x ?_ ?_; subst x; rotate_left; intro; clear_value x) | clear_value x)
      | apply guardUnit_keeps | apply KeepsOut.next | exact KeepsOut.fault | apply KeepsOut.ite | apply State.discardUnsent_keeps
      | apply State.revoke_keeps | apply Keeps.ite | (fail_if_no_progress apply Keeps.mk0)
    | split

theorem execTeardownEscalate_keeps {s0 s : State} (h : Keeps s0 s) (c : Nat) :
    KeepsOut s0 (execTeardownEscalate c s) := by
  unfold execTeardownEscalate
  repeat' first
    | with_reducible first
      | assumption | (intro)
      | (extract_lets +onlyGivenNames x; first | (refine Keeps.cut x ?_ ?_; subst x; rotate_left; intro; clear_value x) | (refine Keeps.cut x.2 ?_ ?_; subst x; rotate_left; intro; clear_value x) | (refine Keeps.cut x.1 ?_ ?_; subst x; rotate_left; intro; clear_value x) | (refine KeepsOut.cut x ?_ ?_; subst x; rotate_left; intro; clear_value x) | (refine KeepsOut.cut x.2 ?_ ?_; subst x; rotate_left; intro; clear_value x) | clear_value x)
      | apply guardUnit_keeps | apply KeepsOut.next | exact KeepsOut.fault | apply KeepsOut.ite | apply State.brokeAdd_keeps
      | apply State.bump_keeps | apply State.each_keeps | apply State.endTeardown_keeps | apply State.loseRoute_keeps
      | apply State.raiseTo_keeps | apply State.revoke_keeps | apply Keeps.ite
    | with_reducible (refine Keeps.ofFst (by assumption) ?_) | with_reducible (refine Keeps.ofSnd (by assumption) ?_)
    | split

theorem State.abandon_keeps {s0 s : State} (h : Keeps s0 s) (k : Cmd) :
    Keeps s0 (State.abandon s k) := by
  unfold State.abandon
  repeat' first
    | with_reducible first
      | assumption | (intro) | apply State.modCtx_keeps | apply State.stopCtx_keeps | apply Keeps.ite
      | (fail_if_no_progress apply Keeps.mk0)
    | split

theorem execAbortCmd_keeps {s0 s : State} (h : Keeps s0 s) (c : CmdRef) :
    KeepsOut s0 (execAbortCmd c s) := by
  unfold execAbortCmd
  repeat' first
    | with_reducible first
      | assumption | (intro)
      | (extract_lets +onlyGivenNames x; first | (refine Keeps.cut x ?_ ?_; subst x; rotate_left; intro; clear_value x) | (refine KeepsOut.cut x ?_ ?_; subst x; rotate_left; intro; clear_value x) | clear_value x)
      | apply KeepsOut.next | exact KeepsOut.fault | apply KeepsOut.ite | apply State.abandon_keeps | apply cmdRow_keeps
      | apply State.finish_keeps | apply State.when_keeps | apply Keeps.ite | (fail_if_no_progress apply Keeps.mk0)
    | (show Keeps s0 _; assumption)
    | split

theorem execCollGroup_keeps {s0 s : State} (h : Keeps s0 s) (c : CmdRef) :
    KeepsOut s0 (execCollGroup c s) := by
  unfold execCollGroup
  repeat' first
    | with_reducible first
      | assumption | (intro)
      | (extract_lets +onlyGivenNames x; first | (refine Keeps.cut x ?_ ?_; subst x; rotate_left; intro; clear_value x) | (refine KeepsOut.cut x ?_ ?_; subst x; rotate_left; intro; clear_value x) | clear_value x)
      | apply KeepsOut.next | exact KeepsOut.fault | apply KeepsOut.ite | apply ctxRow_keeps | apply State.finish_keeps
      | apply State.modCtx_keeps | apply State.notePoison_keeps | apply Keeps.ite | (fail_if_no_progress apply Keeps.mk0)
    | (show Keeps s0 _; assumption)
    | split

end Sys2Proof.Machine
end

