-- ==== Sys2Proof/Laws/KeepLoad.lean ====
section
/-! SUPPORT. What the operations of Machine/Load.lean keep (see Laws/Keep.lean). -/

set_option linter.all false

namespace Sys2Proof.Machine

theorem execReamLoad_keeps {s0 s : State} (h : Keeps s0 s) (c : CmdRef) :
    KeepsOut s0 (execReamLoad c s) := by
  unfold execReamLoad
  repeat' first
    | with_reducible first
      | assumption | (intro)
      | (extract_lets +onlyGivenNames x; first | (refine Keeps.cut x ?_ ?_; subst x; rotate_left; intro; clear_value x) | (refine KeepsOut.cut x ?_ ?_; subst x; rotate_left; intro; clear_value x) | clear_value x)
      | apply KeepsOut.next | exact KeepsOut.fault | apply KeepsOut.ite | apply ctxRow_keeps | apply State.finish_keeps
      | apply State.modCtx_keeps | apply State.notePoison_keeps | apply Keeps.ite | (fail_if_no_progress apply Keeps.mk0)
    | split

end Sys2Proof.Machine
end

