-- ==== Sys2Proof/Laws/KeepBlocks.lean ====
section
/-! SUPPORT. What the operations of Machine/Blocks.lean keep (see Laws/Keep.lean). -/

set_option linter.all false

namespace Sys2Proof.Machine

theorem execChestCreate_keeps {s0 s : State} (h : Keeps s0 s) (c : CmdRef) :
    KeepsOut s0 (execChestCreate c s) := by
  unfold execChestCreate
  repeat' first
    | with_reducible first
      | assumption | (intro)
      | (extract_lets +onlyGivenNames x; first | (refine Keeps.cut x ?_ ?_; subst x; rotate_left; intro; clear_value x) | (refine Keeps.cut x.2 ?_ ?_; subst x; rotate_left; intro; clear_value x) | (refine Keeps.cut x.1 ?_ ?_; subst x; rotate_left; intro; clear_value x) | (refine KeepsOut.cut x ?_ ?_; subst x; rotate_left; intro; clear_value x) | (refine KeepsOut.cut x.2 ?_ ?_; subst x; rotate_left; intro; clear_value x) | clear_value x)
      | apply KeepsOut.next | exact KeepsOut.fault | apply KeepsOut.ite | apply State.arenaChange_keeps | apply ctxRow_keeps
      | apply State.finish_keeps | apply State.modCtx_keeps | apply Keeps.ite | apply Keeps.iteFst | apply Keeps.iteSnd
    | with_reducible (refine Keeps.ofFst (by assumption) ?_) | with_reducible (refine Keeps.ofSnd (by assumption) ?_)
    | split

theorem State.freeBlocks_keeps {s0 s : State} (h : Keeps s0 s) (k : Cmd) (i : Nat) :
    Keeps s0 (State.freeBlocks s k i) := by
  unfold State.freeBlocks
  repeat' first
    | with_reducible first
      | assumption | (intro)
      | (extract_lets +onlyGivenNames x; first | (refine Keeps.cut x ?_ ?_; subst x; rotate_left; intro; clear_value x) | (refine Keeps.cut x.2 ?_ ?_; subst x; rotate_left; intro; clear_value x) | (refine Keeps.cut x.1 ?_ ?_; subst x; rotate_left; intro; clear_value x) | clear_value x)
      | apply State.arenaChange_keeps | apply State.finish_keeps | apply State.finishMoves_keeps | apply State.modCtx_keeps
      | apply Keeps.ite | (fail_if_no_progress apply Keeps.mk0)
    | with_reducible (refine Keeps.ofFst (by assumption) ?_) | with_reducible (refine Keeps.ofSnd (by assumption) ?_)
    | split

theorem execChestFree_keeps {s0 s : State} (h : Keeps s0 s) (c : CmdRef) :
    KeepsOut s0 (execChestFree c s) := by
  unfold execChestFree
  repeat' first
    | with_reducible first
      | assumption | (intro)
      | (extract_lets +onlyGivenNames x; first | (refine Keeps.cut x ?_ ?_; subst x; rotate_left; intro; clear_value x) | (refine Keeps.cut x.2 ?_ ?_; subst x; rotate_left; intro; clear_value x) | (refine Keeps.cut x.1 ?_ ?_; subst x; rotate_left; intro; clear_value x) | (refine KeepsOut.cut x ?_ ?_; subst x; rotate_left; intro; clear_value x) | (refine KeepsOut.cut x.2 ?_ ?_; subst x; rotate_left; intro; clear_value x) | clear_value x)
      | apply KeepsOut.next | exact KeepsOut.fault | apply KeepsOut.ite | apply State.arenaChange_keeps | apply cmdRow_keeps
      | apply State.finish_keeps | apply State.freeBlocks_keeps | apply State.setDeckle_keeps | apply Keeps.ite
      | (fail_if_no_progress apply Keeps.mk0)
    | with_reducible (refine Keeps.ofFst (by assumption) ?_) | with_reducible (refine Keeps.ofSnd (by assumption) ?_)
    | split

theorem State.noteBlock_keeps {s0 s : State} (h : Keeps s0 s) (d status : Nat) :
    Keeps s0 (State.noteBlock s d status) := by
  unfold State.noteBlock
  repeat' first
    | with_reducible first
      | assumption | (intro) | apply State.bump_keeps | apply State.raiseTo_keeps
      | apply State.when_keeps | apply Keeps.ite
    | split

theorem State.reencodeAll_keeps {s0 s : State} (h : Keeps s0 s) (k : Cmd) (i enc : Nat) (l : List (Nat × Block)) : Keeps s0 (s.reencodeAll k i enc l) := by
  induction l generalizing s with
  | nil => exact State.finish_keeps h _ _ _ _
  | cons x rest ih =>
    obtain ⟨n, b⟩ := x
    simp only [State.reencodeAll]
    split
    · exact State.finish_keeps (State.noteBlock_keeps h _ _) _ _ _ _
    · exact Keeps.ite (State.finish_keeps h _ _ _ _)
        (ih (State.noteStored_keeps (State.arenaChange_keeps h _ fun t k => State.modCtx_keeps k _ _) _ _ _))

theorem execChestReencode_keeps {s0 s : State} (h : Keeps s0 s) (c : CmdRef) :
    KeepsOut s0 (execChestReencode c s) := by
  unfold execChestReencode
  repeat' first
    | with_reducible first
      | assumption | (intro)
      | (extract_lets +onlyGivenNames x; first | (refine Keeps.cut x ?_ ?_; subst x; rotate_left; intro; clear_value x) | (refine Keeps.cut x.2 ?_ ?_; subst x; rotate_left; intro; clear_value x) | (refine Keeps.cut x.1 ?_ ?_; subst x; rotate_left; intro; clear_value x) | (refine KeepsOut.cut x ?_ ?_; subst x; rotate_left; intro; clear_value x) | (refine KeepsOut.cut x.2 ?_ ?_; subst x; rotate_left; intro; clear_value x) | clear_value x)
      | apply KeepsOut.next | exact KeepsOut.fault | apply KeepsOut.ite | apply ctxRow_keeps | apply State.finish_keeps
      | apply State.reencodeAll_keeps | apply Keeps.ite | apply Keeps.iteFst | apply Keeps.iteSnd
    | with_reducible (refine Keeps.ofFst (by assumption) ?_) | with_reducible (refine Keeps.ofSnd (by assumption) ?_)
    | split

theorem execChestReadDesc_keeps {s0 s : State} (h : Keeps s0 s) (c : CmdRef) :
    KeepsOut s0 (execChestReadDesc c s) := by
  unfold execChestReadDesc
  repeat' first
    | with_reducible first
      | assumption | (intro)
      | (extract_lets +onlyGivenNames x; first | (refine Keeps.cut x ?_ ?_; subst x; rotate_left; intro; clear_value x) | (refine Keeps.cut x.2 ?_ ?_; subst x; rotate_left; intro; clear_value x) | (refine Keeps.cut x.1 ?_ ?_; subst x; rotate_left; intro; clear_value x) | (refine KeepsOut.cut x ?_ ?_; subst x; rotate_left; intro; clear_value x) | (refine KeepsOut.cut x.2 ?_ ?_; subst x; rotate_left; intro; clear_value x) | clear_value x)
      | apply KeepsOut.next | exact KeepsOut.fault | apply KeepsOut.ite | apply ctxRow_keeps | apply State.each_keeps
      | apply State.emit_keeps | apply State.finish_keeps | apply Keeps.ite
    | with_reducible (refine Keeps.ofFst (by assumption) ?_) | with_reducible (refine Keeps.ofSnd (by assumption) ?_)
    | split

theorem State.exportTo_keeps {s0 s : State} (h : Keeps s0 s) (ep ctx a : Nat) (l : List (Nat × List Byte)) :
    Keeps s0 (s.exportTo ep ctx a l).1 := by
  induction l generalizing s with
  | nil => exact h
  | cons p rest ih =>
    have k := State.post_keeps h 0 { Pkt.blank 2 ep opWrite with addr := a + p.1, ctx, payload := p.2 }
    unfold State.exportTo
    generalize s.post 0 { Pkt.blank 2 ep opWrite with addr := a + p.1, ctx, payload := p.2 } = q at k ⊢
    obtain ⟨s1, o⟩ := q
    cases o with
    | none => exact k
    | some n => exact ih k

theorem execChestExport_keeps {s0 s : State} (h : Keeps s0 s) (c : CmdRef) : KeepsOut s0 (execChestExport c s) := by
  unfold execChestExport
  apply ctxRow_keeps h
  intro k i
  dsimp only
  refine Keeps.ite (State.finish_keeps h _ _ _ _) ?_
  split
  · exact State.finish_keeps (State.noteBlock_keeps h _ _) _ _ _ _
  · refine Keeps.ite (Keeps.ite (State.finish_keeps (State.emit_keeps h _) _ _ _ _) (State.finish_keeps h _ _ _ _))
      (Keeps.ite (State.finish_keeps h _ _ _ _) ?_)
    have x := State.exportTo_keeps h (k.op 0x20 16 16) (s.handle i) (k.op 0x18 0 64)
      (pieces ((((s.ctx i).created k.first k.count).map fun b => b.2.export).flatten.length / 2048 + 1) 0
        (((s.ctx i).created k.first k.count).map fun b => b.2.export).flatten)
    generalize State.exportTo s _ _ _ _ = q at x ⊢
    obtain ⟨s1, o⟩ := q
    match o with
    | none => exact State.finish_keeps x _ _ _ _
    | some [] => exact State.finish_keeps x _ _ _ _
    | some (w :: ws) => exact Keeps.mk2 x (cmdsReplace _ _ _) (Nat.le_refl _)

theorem State.spend_keeps {s0 s : State} (h : Keeps s0 s) (n : Nat) : Keeps s0 { s with freeCtr := s.freeCtr + n } :=
  Keeps.mk2 h (Nat.le_max_left _ _) (Nat.le_add_right _ _)

theorem execChestImport_keeps {s0 s : State} (h : Keeps s0 s) (c : CmdRef) (source : List Byte) (sameVersion : Bool) :
    KeepsOut s0 (execChestImport c source sameVersion s) := by
  unfold execChestImport
  apply ctxRow_keeps h
  intro k i
  dsimp only
  refine Keeps.ite (State.finish_keeps h _ _ _ _) (Keeps.ite (State.finish_keeps h _ _ _ _) ?_)
  split
  · exact State.finish_keeps h _ _ _ _
  · have u := State.spend_keeps h (source.length / 64 + 1)
    refine Keeps.ite (State.finish_keeps u _ _ _ _) (Keeps.ite (State.finish_keeps u _ _ _ _)
      (Keeps.ite (State.finish_keeps u _ _ _ _) (State.finish_keeps ?_ _ _ _ _)))
    exact State.each_keeps (fun t k x => State.noteStored_keeps k _ _ _)
      (State.arenaChange_keeps u _ fun t k => State.modCtx_keeps k _ _)

theorem execChestAdopt_keeps {s0 s : State} (h : Keeps s0 s) (c : CmdRef) :
    KeepsOut s0 (execChestAdopt c s) := by
  unfold execChestAdopt
  repeat' first
    | with_reducible first
      | assumption | (intro)
      | (extract_lets +onlyGivenNames x; first | (refine Keeps.cut x ?_ ?_; subst x; rotate_left; intro; clear_value x) | (refine Keeps.cut x.2 ?_ ?_; subst x; rotate_left; intro; clear_value x) | (refine Keeps.cut x.1 ?_ ?_; subst x; rotate_left; intro; clear_value x) | (refine KeepsOut.cut x ?_ ?_; subst x; rotate_left; intro; clear_value x) | (refine KeepsOut.cut x.2 ?_ ?_; subst x; rotate_left; intro; clear_value x) | clear_value x)
      | apply KeepsOut.next | exact KeepsOut.fault | apply KeepsOut.ite | apply ctxRow_keeps | apply State.finish_keeps
      | apply State.modCtx_keeps | apply State.setDeckle_keeps | apply Keeps.ite | (fail_if_no_progress apply Keeps.mk0)
    | with_reducible (refine Keeps.ofFst (by assumption) ?_) | with_reducible (refine Keeps.ofSnd (by assumption) ?_)
    | split

end Sys2Proof.Machine
end

