-- ==== Sys2Proof/Laws/KeepStorage.lean ====
section
/-! SUPPORT. What the operations of Machine/Storage.lean keep (see Laws/Keep.lean). -/

set_option linter.all false

namespace Sys2Proof.Machine

theorem State.sendEth_keeps {s0 s : State} (h : Keeps s0 s) (port : Nat) (fs : List EthFrame) :
    Keeps s0 (State.sendEth s port fs) := by
  unfold State.sendEth
  repeat' first
    | with_reducible first
      | assumption | (intro) | apply State.each_keeps | apply State.emit_keeps
      | apply State.modPort_keeps | apply Keeps.ite | (fail_if_no_progress apply Keeps.mk0)
    | split

theorem State.flushEth_keeps {s0 s : State} (h : Keeps s0 s) (port : Nat) :
    Keeps s0 (State.flushEth s port) := by
  unfold State.flushEth
  repeat' first
    | with_reducible first
      | assumption | (intro) | apply State.modPort_keeps | apply State.sendEth_keeps | apply Keeps.ite
      | (fail_if_no_progress apply Keeps.mk0)
    | split

theorem execEthLinkUp_keeps {s0 s : State} (h : Keeps s0 s) (port : Nat) :
    KeepsOut s0 (execEthLinkUp port s) := by
  unfold execEthLinkUp
  repeat' first
    | with_reducible first
      | assumption | (intro) | apply guardUnit_keeps | apply KeepsOut.next | exact KeepsOut.fault
      | apply KeepsOut.ite | apply State.flushEth_keeps | apply State.portTo_keeps | apply Keeps.ite
    | split

theorem State.setQp_keeps {s0 s : State} (h : Keeps s0 s) (d : Nat) (q : Qp) :
    Keeps s0 (State.setQp s d q) := by
  unfold State.setQp
  repeat' first
    | with_reducible first
      | assumption | (intro) | apply State.setDeckle_keeps | apply Keeps.ite
    | split

theorem State.endWork_keeps {s0 s : State} (h : Keeps s0 s) (q : Qp) (w : Work) (status : Nat) :
    Keeps s0 (State.endWork s q w status) := by
  unfold State.endWork
  repeat' first
    | with_reducible first
      | assumption | (intro) | apply State.finishAll_keeps | apply Keeps.ite
    | (show Keeps s0 _; assumption)
    | split

theorem State.flushQp_keeps {s0 s : State} (h : Keeps s0 s) (q : Qp) :
    Keeps s0 (State.flushQp s q) := by
  unfold State.flushQp
  repeat' first
    | with_reducible first
      | assumption | (intro) | apply State.each_keeps | apply State.endWork_keeps | apply Keeps.ite
    | split

theorem execStorQpCreate_keeps {s0 s : State} (h : Keeps s0 s) (c : CmdRef) :
    KeepsOut s0 (execStorQpCreate c s) := by
  unfold execStorQpCreate
  repeat' first
    | with_reducible first
      | assumption | (intro)
      | (extract_lets +onlyGivenNames x; first | (refine Keeps.cut x ?_ ?_; subst x; rotate_left; intro; clear_value x) | (refine KeepsOut.cut x ?_ ?_; subst x; rotate_left; intro; clear_value x) | clear_value x)
      | apply KeepsOut.next | exact KeepsOut.fault | apply KeepsOut.ite | apply cmdRow_keeps | apply State.finish_keeps
      | apply State.setDeckle_keeps | apply Keeps.ite | (fail_if_no_progress apply Keeps.mk0)
    | split

theorem execStorQpModify_keeps {s0 s : State} (h : Keeps s0 s) (c : CmdRef) :
    KeepsOut s0 (execStorQpModify c s) := by
  unfold execStorQpModify
  repeat' first
    | with_reducible first
      | assumption | (intro)
      | (extract_lets +onlyGivenNames x; first | (refine Keeps.cut x ?_ ?_; subst x; rotate_left; intro; clear_value x) | (refine Keeps.cut x.2 ?_ ?_; subst x; rotate_left; intro; clear_value x) | (refine Keeps.cut x.1 ?_ ?_; subst x; rotate_left; intro; clear_value x) | (refine KeepsOut.cut x ?_ ?_; subst x; rotate_left; intro; clear_value x) | (refine KeepsOut.cut x.2 ?_ ?_; subst x; rotate_left; intro; clear_value x) | clear_value x)
      | apply KeepsOut.next | exact KeepsOut.fault | apply KeepsOut.ite | apply cmdRow_keeps | apply State.finish_keeps
      | apply State.flushQp_keeps | apply State.free_keeps | apply State.setQp_keeps | apply State.when_keeps | apply Keeps.ite
      | apply Keeps.iteFst | apply Keeps.iteSnd | (fail_if_no_progress apply Keeps.mk0)
    | with_reducible (refine Keeps.ofFst (by assumption) ?_) | with_reducible (refine Keeps.ofSnd (by assumption) ?_)
    | split

theorem execStorQpDestroy_keeps {s0 s : State} (h : Keeps s0 s) (c : CmdRef) :
    KeepsOut s0 (execStorQpDestroy c s) := by
  unfold execStorQpDestroy
  repeat' first
    | with_reducible first
      | assumption | (intro)
      | (extract_lets +onlyGivenNames x; first | (refine Keeps.cut x ?_ ?_; subst x; rotate_left; intro; clear_value x) | (refine KeepsOut.cut x ?_ ?_; subst x; rotate_left; intro; clear_value x) | clear_value x)
      | apply KeepsOut.next | exact KeepsOut.fault | apply KeepsOut.ite | apply cmdRow_keeps | apply State.finish_keeps
      | apply State.flushQp_keeps | apply State.setDeckle_keeps | apply Keeps.ite | (fail_if_no_progress apply Keeps.mk0)
    | split

theorem State.replaceCmd_keeps {s0 s : State} (h : Keeps s0 s) (k j : Cmd) :
    Keeps s0 { s with cmds := s.cmds.replace k j } := Keeps.mk2 h (cmdsReplace _ _ _) (Nat.le_refl _)

theorem execStorPost_keeps {s0 s : State} (h : Keeps s0 s) (c : CmdRef) (source : List Byte) :
    KeepsOut s0 (execStorPost c source s) := by
  unfold execStorPost
  apply cmdRow_keeps h
  intro k
  have f : ∀ n, Keeps s0 (s.finish k n) := fun n => State.finish_keeps h _ _ _ _
  dsimp only
  split
  · exact f _
  · refine Keeps.ite (f _) (Keeps.ite (f _) (Keeps.ite (f _) ?_))
    split
    · exact State.finish_keeps (State.notePoison_keeps h _ _ _) _ _ _ _
    · exact State.sendEth_keeps (State.setQp_keeps (State.replaceCmd_keeps h _ _) _ _) _ _

theorem State.endWorks_keeps {s0 s : State} (h : Keeps s0 s) (d : Nat) (q : Qp) (ws : List Work) :
    Keeps s0 (State.endWorks s d q ws) := by
  unfold State.endWorks
  repeat' first
    | with_reducible first
      | assumption | (intro) | apply State.each_keeps | apply State.endWork_keeps
      | apply State.setQp_keeps | apply Keeps.ite | (fail_if_no_progress apply Keeps.mk0)
    | split

theorem State.qpError_keeps {s0 s : State} (h : Keeps s0 s) (d : Nat) (q : Qp) :
    Keeps s0 (State.qpError s d q) := by
  unfold State.qpError
  repeat' first
    | with_reducible first
      | assumption | (intro) | apply State.flushQp_keeps | apply State.setQp_keeps | apply Keeps.ite
      | (fail_if_no_progress apply Keeps.mk0)
    | split

theorem State.takeSend_keeps {s0 s : State} (h : Keeps s0 s) (d : Nat) (q : Qp) (psn : Nat) (first last : Bool) (data : List Byte) :
    Keeps s0 (State.takeSend s d q psn first last data) := by
  unfold State.takeSend
  repeat' first
    | with_reducible first
      | assumption | (intro)
      | (extract_lets +onlyGivenNames x; first | (refine Keeps.cut x ?_ ?_; subst x; rotate_left; intro; clear_value x) | clear_value x)
      | apply State.sendEth_keeps | apply State.setQp_keeps | apply State.when_keeps | apply Keeps.ite
      | (fail_if_no_progress apply Keeps.mk0)
    | split

theorem State.takeRequest_keeps {s0 s : State} (h : Keeps s0 s) (d : Nat) (q : Qp) (r : Roce) :
    Keeps s0 (State.takeRequest s d q r) := by
  unfold State.takeRequest
  repeat' first
    | with_reducible first
      | assumption | (intro)
      | (extract_lets +onlyGivenNames x; first | (refine Keeps.cut x ?_ ?_; subst x; rotate_left; intro; clear_value x) | clear_value x)
      | apply State.qpError_keeps | apply State.send_keeps | apply State.sendEth_keeps | apply State.setQp_keeps
      | apply State.takeSend_keeps | apply Keeps.ite | (fail_if_no_progress apply Keeps.mk0)
    | split

theorem State.takeRead_keeps {s0 s : State} (h : Keeps s0 s) (d : Nat) (q : Qp) (psn : Nat) (data : List Byte) :
    Keeps s0 (State.takeRead s d q psn data) := by
  unfold State.takeRead
  repeat' first
    | with_reducible first
      | assumption | (intro)
      | (extract_lets +onlyGivenNames x; first | (refine Keeps.cut x ?_ ?_; subst x; rotate_left; intro; clear_value x) | clear_value x)
      | apply State.emit_keeps | apply State.endWorks_keeps | apply State.localWrite_keeps | apply State.when_keeps
      | apply Keeps.ite | (fail_if_no_progress apply Keeps.mk0)
    | split

theorem State.resend_keeps {s0 s : State} (h : Keeps s0 s) (q : Qp) (psn : Nat) :
    Keeps s0 (State.resend s q psn) := by
  unfold State.resend
  repeat' first
    | with_reducible first
      | assumption | (intro)
      | (extract_lets +onlyGivenNames x; first | (refine Keeps.cut x ?_ ?_; subst x; rotate_left; intro; clear_value x) | clear_value x)
      | apply State.sendEth_keeps | apply Keeps.ite
    | split

theorem State.takeRoce_keeps {s0 s : State} (h : Keeps s0 s) (d : Nat) (q : Qp) (r : Roce) :
    Keeps s0 (State.takeRoce s d q r) := by
  unfold State.takeRoce
  repeat' first
    | with_reducible first
      | assumption | (intro)
      | (extract_lets +onlyGivenNames x; first | (refine Keeps.cut x ?_ ?_; subst x; rotate_left; intro; clear_value x) | clear_value x)
      | apply State.endWorks_keeps | apply State.qpError_keeps | apply State.resend_keeps | apply State.sendEth_keeps
      | apply State.setQp_keeps | apply State.takeRead_keeps | apply State.takeRequest_keeps | apply State.when_keeps
      | apply Keeps.ite | (fail_if_no_progress apply Keeps.mk0)
    | split

theorem State.takePause_keeps {s0 s : State} (h : Keeps s0 s) (port : Nat) (times : List (Nat × Nat)) :
    Keeps s0 (State.takePause s port times) := by
  unfold State.takePause
  repeat' first
    | with_reducible first
      | assumption | (intro) | apply State.flushEth_keeps | apply State.modPort_keeps | apply Keeps.ite
      | (fail_if_no_progress apply Keeps.mk0)
    | with_reducible (refine Keeps.ofFst (by assumption) ?_) | with_reducible (refine Keeps.ofSnd (by assumption) ?_)
    | split

theorem execEthFrame_keeps {s0 s : State} (h : Keeps s0 s) (port : Nat) (f : EthFrame) :
    KeepsOut s0 (execEthFrame port f s) := by
  unfold execEthFrame
  repeat' first
    | with_reducible first
      | assumption | (intro)
      | (extract_lets +onlyGivenNames x; first | (refine Keeps.cut x ?_ ?_; subst x; rotate_left; intro; clear_value x) | (refine KeepsOut.cut x ?_ ?_; subst x; rotate_left; intro; clear_value x) | clear_value x)
      | apply guardUnit_keeps | apply KeepsOut.next | exact KeepsOut.fault | apply KeepsOut.ite | apply State.modPort_keeps
      | apply State.takePause_keeps | apply State.takeRoce_keeps | apply Keeps.ite | (fail_if_no_progress apply Keeps.mk0)
    | split

theorem State.pauseTick_keeps {s0 s : State} (h : Keeps s0 s)  :
    Keeps s0 (State.pauseTick s) := by
  unfold State.pauseTick
  repeat' first
    | with_reducible first
      | assumption | (intro) | apply State.each_keeps | apply State.flushEth_keeps
      | apply State.modPort_keeps | apply Keeps.ite | (fail_if_no_progress apply Keeps.mk0)
    | split

end Sys2Proof.Machine
end

