-- ==== Sys2Proof/Laws/KeepDeckles.lean ====
section
/-! SUPPORT. What the operations of Machine/Deckles.lean keep (see Laws/Keep.lean). -/

set_option linter.all false

namespace Sys2Proof.Machine

theorem State.giveDeckle_keeps {s0 s : State} (h : Keeps s0 s) (a : DeckleAsk) :
    Keeps s0 (State.giveDeckle s a) := by
  unfold State.giveDeckle
  repeat' first
    | exact id | exact fun w => Sparse.set_wf w _ _ | exact fun w => Sparse.clear_wf w _ | exact fun w => Sparse.mapVals_wf w _
    | exact fun _ => rfl | exact fun w => Sparse.setRange_wf _ w _ | exact fun w => Sparse.foldl_set_wf _ _ _ w
    | with_reducible first
      | assumption | (intro)
      | (extract_lets +onlyGivenNames x; first | (refine Keeps.cut x ?_ ?_; subst x; rotate_left; intro; clear_value x) | clear_value x)
      | apply State.fset_keeps | apply State.setDeckle_keeps | apply Keeps.ite | (fail_if_no_progress apply Keeps.mk0)
    | with_reducible ((fail_if_success apply Keeps.mk0); apply Keeps.mk1)
    | split

theorem State.lockRefuse_keeps {s0 s : State} (h : Keeps s0 s) (k : Cmd) (l : Lock) :
    Keeps s0 (State.lockRefuse s k l) := by
  unfold State.lockRefuse
  repeat' first
    | with_reducible first
      | assumption | (intro) | apply State.finish_keeps | apply State.lockBusy_keeps | apply Keeps.ite
    | split

theorem execDeckleCreate_keeps {s0 s : State} (h : Keeps s0 s) (c : CmdRef) :
    KeepsOut s0 (execDeckleCreate c s) := by
  unfold execDeckleCreate
  repeat' first
    | with_reducible first
      | assumption | (intro)
      | (extract_lets +onlyGivenNames x; first | (refine Keeps.cut x ?_ ?_; subst x; rotate_left; intro; clear_value x) | (refine KeepsOut.cut x ?_ ?_; subst x; rotate_left; intro; clear_value x) | clear_value x)
      | apply KeepsOut.next | exact KeepsOut.fault | apply KeepsOut.ite | apply State.begin_keeps | apply cmdRow_keeps
      | apply State.finish_keeps | apply State.giveDeckle_keeps | apply State.lockRefuse_keeps | apply State.takeLock_keeps
      | apply Keeps.ite | (fail_if_no_progress apply Keeps.mk0)
    | (show Keeps s0 _; assumption)
    | split

theorem State.zeroDeckle_keeps {s0 s : State} (h : Keeps s0 s) (d : Nat) :
    Keeps s0 (State.zeroDeckle s d) := by
  unfold State.zeroDeckle
  repeat' first
    | exact id | exact fun w => Sparse.set_wf w _ _ | exact fun w => Sparse.clear_wf w _ | exact fun w => Sparse.mapVals_wf w _
    | exact fun _ => rfl | exact fun w => Sparse.setRange_wf _ w _ | exact fun w => Sparse.foldl_set_wf _ _ _ w
    | with_reducible first
      | assumption | (intro)
      | (extract_lets +onlyGivenNames x; first | (refine Keeps.cut x ?_ ?_; subst x; rotate_left; intro; clear_value x) | clear_value x)
      | apply Keeps.ite | (fail_if_no_progress apply Keeps.mk0)
    | with_reducible ((fail_if_success apply Keeps.mk0); apply Keeps.mk1)
    | split

theorem execDeckleZeroingDone_keeps {s0 s : State} (h : Keeps s0 s) (deckle : Nat) :
    KeepsOut s0 (execDeckleZeroingDone deckle s) := by
  unfold execDeckleZeroingDone
  repeat' first
    | with_reducible first
      | assumption | (intro)
      | (extract_lets +onlyGivenNames x; first | (refine Keeps.cut x ?_ ?_; subst x; rotate_left; intro; clear_value x) | (refine KeepsOut.cut x ?_ ?_; subst x; rotate_left; intro; clear_value x) | clear_value x)
      | apply guardUnit_keeps | apply KeepsOut.next | exact KeepsOut.fault | apply KeepsOut.ite | apply State.finishAll_keeps
      | apply State.freeLock_keeps | apply State.fset_keeps | apply State.resetView_keeps | apply State.zeroDeckle_keeps
      | apply Keeps.ite
    | split

theorem State.dropDeckle_keeps {s0 s : State} (h : Keeps s0 s) (d : Nat) :
    Keeps s0 (State.dropDeckle s d) := by
  unfold State.dropDeckle
  repeat' first
    | exact id | exact fun w => Sparse.set_wf w _ _ | exact fun w => Sparse.clear_wf w _ | exact fun w => Sparse.mapVals_wf w _
    | exact fun _ => rfl | exact fun w => Sparse.setRange_wf _ w _ | exact fun w => Sparse.foldl_set_wf _ _ _ w
    | with_reducible first
      | assumption | (intro)
      | (extract_lets +onlyGivenNames x; first | (refine Keeps.cut x ?_ ?_; subst x; rotate_left; intro; clear_value x) | clear_value x)
      | apply State.endSession_keeps | apply State.finishAll_keeps | apply State.resetView_keeps | apply State.setDeckle_keeps
      | apply Keeps.ite | (fail_if_no_progress apply Keeps.mk0)
    | with_reducible ((fail_if_success apply Keeps.mk0); apply Keeps.mk1)
    | split

theorem execDeckleDestroy_keeps {s0 s : State} (h : Keeps s0 s) (c : CmdRef) :
    KeepsOut s0 (execDeckleDestroy c s) := by
  unfold execDeckleDestroy
  repeat' first
    | with_reducible first
      | assumption | (intro)
      | (extract_lets +onlyGivenNames x; first | (refine Keeps.cut x ?_ ?_; subst x; rotate_left; intro; clear_value x) | (refine KeepsOut.cut x ?_ ?_; subst x; rotate_left; intro; clear_value x) | clear_value x)
      | apply KeepsOut.next | exact KeepsOut.fault | apply KeepsOut.ite | apply cmdRow_keeps | apply State.dropDeckle_keeps
      | apply State.finish_keeps | apply State.lockRefuse_keeps | apply Keeps.ite | (fail_if_no_progress apply Keeps.mk0)
    | split

theorem execProfileSelect_keeps {s0 s : State} (h : Keeps s0 s) (c : CmdRef) :
    KeepsOut s0 (execProfileSelect c s) := by
  unfold execProfileSelect
  repeat' first
    | with_reducible first
      | assumption | (intro) | apply KeepsOut.next | exact KeepsOut.fault | apply KeepsOut.ite
      | apply cmdRow_keeps | apply State.finish_keeps | apply State.selectProfile_keeps | apply Keeps.ite
    | split

end Sys2Proof.Machine
end

