-- ==== Sys2Proof/Laws/KeepRecovery.lean ====
section
/-! SUPPORT. What the operations of Machine/Recovery.lean keep (see Laws/Keep.lean). -/

set_option linter.all false

namespace Sys2Proof.Machine

theorem State.applyMap_keeps {s0 s : State} (h : Keeps s0 s)  :
    Keeps s0 (State.applyMap s) := by
  unfold State.applyMap
  repeat' first
    | with_reducible first
      | assumption | (intro)
      | (extract_lets +onlyGivenNames x; first | (refine Keeps.cut x ?_ ?_; subst x; rotate_left; intro; clear_value x) | clear_value x)
      | apply State.each_keeps | apply State.fset_keeps | apply State.setReg_keeps | apply Keeps.foldl | apply Keeps.foldlFst
      | apply Keeps.foldlSnd | apply Keeps.ite
    | split

theorem State.mapChange_keeps {s0 s : State} (h : Keeps s0 s) (b : BrokeChange) : Keeps s0 (s.mapChange b) := by
  cases b with
  | remove k loc => exact Keeps.mk0 h
  | add e =>
    simp only [State.mapChange]
    split
    · exact Keeps.ite h (Keeps.mk0 h)
    · split
      · exact Keeps.mk0 h
      · split
        · exact Keeps.mk0 h
        · exact State.bump_keeps h _ _

theorem State.mapStep_keeps {s0 s : State} (h : Keeps s0 s)  :
    Keeps s0 (State.mapStep s) := by
  unfold State.mapStep
  repeat' first
    | with_reducible first
      | assumption | (intro)
      | (extract_lets +onlyGivenNames x; first | (refine Keeps.cut x ?_ ?_; subst x; rotate_left; intro; clear_value x) | clear_value x)
      | apply State.applyMap_keeps | apply State.fset_keeps | apply State.mapChange_keeps | apply State.raise_keeps
      | apply Keeps.foldl | apply Keeps.foldlFst | apply Keeps.foldlSnd | apply Keeps.ite | (fail_if_no_progress apply Keeps.mk0)
    | split

theorem execBrokeMapPersist_keeps {s0 s : State} (h : Keeps s0 s)  :
    KeepsOut s0 (execBrokeMapPersist s) := by
  unfold execBrokeMapPersist
  repeat' first
    | exact id | exact fun w => Sparse.set_wf w _ _ | exact fun w => Sparse.clear_wf w _ | exact fun w => Sparse.mapVals_wf w _
    | exact fun _ => rfl | exact fun w => Sparse.setRange_wf _ w _ | exact fun w => Sparse.foldl_set_wf _ _ _ w
    | with_reducible first
      | assumption | (intro) | apply guardUnit_keeps | apply KeepsOut.next | exact KeepsOut.fault
      | apply KeepsOut.ite | apply Keeps.ite | (fail_if_no_progress apply Keeps.mk0)
    | with_reducible ((fail_if_success apply Keeps.mk0); apply Keeps.mk1)
    | split

theorem execTileFenced_keeps {s0 s : State} (h : Keeps s0 s) (tile : Nat) :
    KeepsOut s0 (execTileFenced tile s) := by
  unfold execTileFenced
  repeat' first
    | with_reducible first
      | assumption | (intro)
      | (extract_lets +onlyGivenNames x; first | (refine Keeps.cut x ?_ ?_; subst x; rotate_left; intro; clear_value x) | (refine Keeps.cut x.2 ?_ ?_; subst x; rotate_left; intro; clear_value x) | (refine Keeps.cut x.1 ?_ ?_; subst x; rotate_left; intro; clear_value x) | (refine KeepsOut.cut x ?_ ?_; subst x; rotate_left; intro; clear_value x) | (refine KeepsOut.cut x.2 ?_ ?_; subst x; rotate_left; intro; clear_value x) | clear_value x)
      | apply guardUnit_keeps | apply KeepsOut.next | exact KeepsOut.fault | apply KeepsOut.ite | apply State.freeLock_keeps
      | apply State.modCtx_keeps | apply State.noteDrained_keeps | apply State.setTile_keeps | apply State.when_keeps
      | apply Keeps.ite | (fail_if_no_progress apply Keeps.mk0)
    | with_reducible (refine Keeps.ofFst (by assumption) ?_) | with_reducible (refine Keeps.ofSnd (by assumption) ?_)
    | split

theorem State.writeBusy_keeps {s0 s : State} (h : Keeps s0 s) (view off bytes : Nat) :
    Keeps s0 (State.writeBusy s view off bytes) := by
  unfold State.writeBusy
  repeat' first
    | with_reducible first
      | assumption | (intro) | apply State.lockBusy_keeps | apply State.regFault_keeps
      | apply Keeps.ite
    | split

theorem State.askFence_keeps {s0 s : State} (h : Keeps s0 s) (view off bytes tile : Nat) :
    Keeps s0 (State.askFence s view off bytes tile) := by
  unfold State.askFence
  repeat' first
    | with_reducible first
      | assumption | (intro)
      | (extract_lets +onlyGivenNames x; first | (refine Keeps.cut x ?_ ?_; subst x; rotate_left; intro; clear_value x) | clear_value x)
      | apply State.fenceTile_keeps | apply State.setTile_keeps | apply State.takeLock_keeps | apply State.writeBusy_keeps
      | apply Keeps.ite | (fail_if_no_progress apply Keeps.mk0)
    | split

theorem State.askReturn_keeps {s0 s : State} (h : Keeps s0 s) (view off bytes tile : Nat) :
    Keeps s0 (State.askReturn s view off bytes tile) := by
  unfold State.askReturn
  repeat' first
    | with_reducible first
      | assumption | (intro)
      | (extract_lets +onlyGivenNames x; first | (refine Keeps.cut x ?_ ?_; subst x; rotate_left; intro; clear_value x) | clear_value x)
      | apply State.regFault_keeps | apply State.setTile_keeps | apply State.takeLock_keeps | apply State.writeBusy_keeps
      | apply Keeps.ite | (fail_if_no_progress apply Keeps.mk0)
    | split

theorem execTileSelfTestDone_keeps {s0 s : State} (h : Keeps s0 s) (tile : Nat) (pass : Bool) :
    KeepsOut s0 (execTileSelfTestDone tile pass s) := by
  unfold execTileSelfTestDone
  repeat' first
    | with_reducible first
      | assumption | (intro)
      | (extract_lets +onlyGivenNames x; first | (refine Keeps.cut x ?_ ?_; subst x; rotate_left; intro; clear_value x) | (refine KeepsOut.cut x ?_ ?_; subst x; rotate_left; intro; clear_value x) | clear_value x)
      | apply guardUnit_keeps | apply KeepsOut.next | exact KeepsOut.fault | apply KeepsOut.ite | apply State.brokeAdd_keeps
      | apply State.freeLock_keeps | apply State.setTile_keeps | apply State.spadZero_keeps | apply Keeps.ite
      | (fail_if_no_progress apply Keeps.mk0)
    | split

theorem State.abandonTests_keeps {s0 s : State} (h : Keeps s0 s)  :
    Keeps s0 (State.abandonTests s) := by
  unfold State.abandonTests
  repeat' first
    | with_reducible first
      | assumption | (intro) | apply State.each_keeps | apply State.freeLock_keeps
      | apply State.setTile_keeps | apply Keeps.ite | (fail_if_no_progress apply Keeps.mk0)
    | with_reducible (refine Keeps.ofFst (by assumption) ?_) | with_reducible (refine Keeps.ofSnd (by assumption) ?_)
    | split

theorem State.askDump_keeps {s0 s : State} (h : Keeps s0 s) (holder : Nat × Nat) :
    Keeps s0 (State.askDump s holder).1 := by
  unfold State.askDump
  repeat' first
    | with_reducible first
      | assumption | (intro)
      | (extract_lets +onlyGivenNames x; first | (refine Keeps.cut x ?_ ?_; subst x; rotate_left; intro; clear_value x) | clear_value x)
      | apply State.takeLock_keeps | apply Keeps.ite | apply Keeps.iteFst | apply Keeps.iteSnd
      | (fail_if_no_progress apply Keeps.mk0)
    | split

theorem State.planDump_keeps {s0 s : State} (h : Keeps s0 s) (tier cause status : Nat) :
    Keeps s0 (State.planDump s tier cause status) := by
  unfold State.planDump
  repeat' first
    | with_reducible first
      | assumption | (intro) | apply State.bump_keeps | apply Keeps.ite
      | (fail_if_no_progress apply Keeps.mk0)
    | split

theorem State.showSuspects_keeps {s0 s : State} (h : Keeps s0 s)  :
    Keeps s0 (State.showSuspects s) := by
  unfold State.showSuspects
  repeat' first
    | with_reducible first
      | assumption | (intro)
      | (extract_lets +onlyGivenNames x; first | (refine Keeps.cut x ?_ ?_; subst x; rotate_left; intro; clear_value x) | (refine Keeps.cut x.2 ?_ ?_; subst x; rotate_left; intro; clear_value x) | (refine Keeps.cut x.1 ?_ ?_; subst x; rotate_left; intro; clear_value x) | clear_value x)
      | apply State.fset_keeps | apply Keeps.ite | (fail_if_no_progress apply Keeps.mk0)
    | with_reducible (refine Keeps.ofFst (by assumption) ?_) | with_reducible (refine Keeps.ofSnd (by assumption) ?_)
    | split

theorem State.loseCtx_keeps {s0 s : State} (h : Keeps s0 s) (c : Nat) :
    Keeps s0 (State.loseCtx s c) := by
  unfold State.loseCtx
  repeat' first
    | with_reducible first
      | assumption | (intro)
      | (extract_lets +onlyGivenNames x; first | (refine Keeps.cut x ?_ ?_; subst x; rotate_left; intro; clear_value x) | (refine Keeps.cut x.2 ?_ ?_; subst x; rotate_left; intro; clear_value x) | (refine Keeps.cut x.1 ?_ ?_; subst x; rotate_left; intro; clear_value x) | clear_value x)
      | apply State.closeSteps_keeps | apply State.dropChest_keeps | apply State.finishAll_keeps | apply State.setCtx_keeps
      | apply State.setDeckle_keeps | apply Keeps.ite | (fail_if_no_progress apply Keeps.mk0)
    | with_reducible (refine Keeps.ofFst (by assumption) ?_) | with_reducible (refine Keeps.ofSnd (by assumption) ?_)
    | split

theorem State.fenceCompute_keeps {s0 s : State} (h : Keeps s0 s)  :
    Keeps s0 (State.fenceCompute s) := by
  unfold State.fenceCompute
  repeat' first
    | exact id | exact fun w => Sparse.set_wf w _ _ | exact fun w => Sparse.clear_wf w _ | exact fun w => Sparse.mapVals_wf w _
    | exact fun _ => rfl | exact fun w => Sparse.setRange_wf _ w _ | exact fun w => Sparse.foldl_set_wf _ _ _ w
    | with_reducible first
      | assumption | (intro)
      | (extract_lets +onlyGivenNames x; first | (refine Keeps.cut x ?_ ?_; subst x; rotate_left; intro; clear_value x) | (refine Keeps.cut x.2 ?_ ?_; subst x; rotate_left; intro; clear_value x) | (refine Keeps.cut x.1 ?_ ?_; subst x; rotate_left; intro; clear_value x) | clear_value x)
      | apply State.abandonTests_keeps | apply State.each_keeps | apply State.fencePages_keeps | apply State.freeLock_keeps
      | apply State.loseCtx_keeps | apply State.repairAtFence_keeps | apply State.showSuspects_keeps
      | apply State.tryPoweroff_keeps | apply Keeps.ite | (fail_if_no_progress apply Keeps.mk0)
    | with_reducible ((fail_if_success apply Keeps.mk0); apply Keeps.mk1)
    | with_reducible (refine Keeps.ofFst (by assumption) ?_) | with_reducible (refine Keeps.ofSnd (by assumption) ?_)
    | split

theorem State.resetPages_keeps {s0 s : State} (h : Keeps s0 s) (ps : List Nat) :
    Keeps s0 (State.resetPages s ps) := by
  unfold State.resetPages
  repeat' first
    | exact id | exact fun w => Sparse.set_wf w _ _ | exact fun w => Sparse.clear_wf w _ | exact fun w => Sparse.mapVals_wf w _
    | exact fun _ => rfl | exact fun w => Sparse.setRange_wf _ w _ | exact fun w => Sparse.foldl_set_wf _ _ _ w
    | with_reducible first
      | assumption | (intro)
      | (extract_lets +onlyGivenNames x; first | (refine Keeps.cut x ?_ ?_; subst x; rotate_left; intro; clear_value x) | (refine Keeps.cut x.2 ?_ ?_; subst x; rotate_left; intro; clear_value x) | (refine Keeps.cut x.1 ?_ ?_; subst x; rotate_left; intro; clear_value x) | clear_value x)
      | apply Keeps.ite | (fail_if_no_progress apply Keeps.mk0)
    | with_reducible ((fail_if_success apply Keeps.mk0); apply Keeps.mk1)
    | with_reducible (refine Keeps.ofFst (by assumption) ?_) | with_reducible (refine Keeps.ofSnd (by assumption) ?_)
    | split

theorem State.zeroCounters_keeps {s0 s : State} (h : Keeps s0 s) (ps : List Nat) :
    Keeps s0 (State.zeroCounters s ps) := by
  unfold State.zeroCounters
  repeat' first
    | exact id | exact fun w => Sparse.set_wf w _ _ | exact fun w => Sparse.clear_wf w _ | exact fun w => Sparse.mapVals_wf w _
    | exact fun _ => rfl | exact fun w => Sparse.setRange_wf _ w _ | exact fun w => Sparse.foldl_set_wf _ _ _ w
    | with_reducible first
      | assumption | (intro)
      | (extract_lets +onlyGivenNames x; first | (refine Keeps.cut x ?_ ?_; subst x; rotate_left; intro; clear_value x) | (refine Keeps.cut x.2 ?_ ?_; subst x; rotate_left; intro; clear_value x) | (refine Keeps.cut x.1 ?_ ?_; subst x; rotate_left; intro; clear_value x) | clear_value x)
      | apply Keeps.ite | (fail_if_no_progress apply Keeps.mk0)
    | with_reducible ((fail_if_success apply Keeps.mk0); apply Keeps.mk1)
    | with_reducible (refine Keeps.ofFst (by assumption) ?_) | with_reducible (refine Keeps.ofSnd (by assumption) ?_)
    | split

theorem State.dropLinks_keeps {s0 s : State} (h : Keeps s0 s)  :
    Keeps s0 (State.dropLinks s) := by
  unfold State.dropLinks
  repeat' first
    | with_reducible first
      | assumption | (intro)
      | (extract_lets +onlyGivenNames x; first | (refine Keeps.cut x ?_ ?_; subst x; rotate_left; intro; clear_value x) | clear_value x)
      | apply State.each_keeps | apply State.fset_keeps | apply State.linkLost_keeps | apply State.toOff_keeps | apply Keeps.ite
      | (fail_if_no_progress apply Keeps.mk0)
    | split

theorem State.restartBeats_keeps {s0 s : State} (h : Keeps s0 s)  :
    Keeps s0 (State.restartBeats s) := by
  unfold State.restartBeats
  repeat' first
    | with_reducible first
      | assumption | (intro)
      | (extract_lets +onlyGivenNames x; first | (refine Keeps.cut x ?_ ?_; subst x; rotate_left; intro; clear_value x) | clear_value x)
      | apply State.fset_keeps | apply State.zeroCounters_keeps | apply Keeps.ite | (fail_if_no_progress apply Keeps.mk0)
    | split

theorem State.resetTiles_keeps {s0 s : State} (h : Keeps s0 s)  :
    Keeps s0 (State.resetTiles s) := by
  unfold State.resetTiles
  repeat' first
    | exact id | exact fun w => Sparse.set_wf w _ _ | exact fun w => Sparse.clear_wf w _ | exact fun w => Sparse.mapVals_wf w _
    | exact fun _ => rfl | exact fun w => Sparse.setRange_wf _ w _ | exact fun w => Sparse.foldl_set_wf _ _ _ w
    | with_reducible first
      | assumption | (intro) | apply Keeps.ite | (fail_if_no_progress apply Keeps.mk0)
    | with_reducible ((fail_if_success apply Keeps.mk0); apply Keeps.mk1)
    | split

theorem State.resetCompute_keeps {s0 s : State} (h : Keeps s0 s)  :
    Keeps s0 (State.resetCompute s) := by
  unfold State.resetCompute
  repeat' first
    | with_reducible first
      | assumption | (intro) | apply State.applyMap_keeps | apply State.resetPages_keeps
      | apply State.resetTiles_keeps | apply Keeps.ite
    | split

theorem State.showStacks_keeps {s0 s : State} (h : Keeps s0 s) (st : Nat) :
    Keeps s0 (State.showStacks s st) := by
  unfold State.showStacks
  repeat' first
    | with_reducible first
      | assumption | (intro)
      | (extract_lets +onlyGivenNames x; first | (refine Keeps.cut x ?_ ?_; subst x; rotate_left; intro; clear_value x) | clear_value x)
      | apply State.each_keeps | apply State.fset_keeps | apply Keeps.foldl | apply Keeps.foldlFst | apply Keeps.foldlSnd
      | apply Keeps.ite
    | split

theorem State.renewSensors_keeps {s0 s : State} (h : Keeps s0 s)  :
    Keeps s0 (State.renewSensors s) := by
  unfold State.renewSensors
  repeat' first
    | with_reducible first
      | assumption | (intro)
      | (extract_lets +onlyGivenNames x; first | (refine Keeps.cut x ?_ ?_; subst x; rotate_left; intro; clear_value x) | clear_value x)
      | apply Keeps.ite | (fail_if_no_progress apply Keeps.mk0)
    | split

theorem State.showPorts_keeps {s0 s : State} (h : Keeps s0 s)  :
    Keeps s0 (State.showPorts s) := by
  unfold State.showPorts
  repeat' first
    | with_reducible first
      | assumption | (intro) | apply State.each_keeps | apply State.fset_keeps | apply Keeps.ite
    | split

theorem State.resetPackage_keeps {s0 s : State} (h : Keeps s0 s)  :
    Keeps s0 (State.resetPackage s) := by
  unfold State.resetPackage
  repeat' first
    | exact id | exact fun w => Sparse.set_wf w _ _ | exact fun w => Sparse.clear_wf w _ | exact fun w => Sparse.mapVals_wf w _
    | exact fun _ => rfl | exact fun w => Sparse.setRange_wf _ w _ | exact fun w => Sparse.foldl_set_wf _ _ _ w
    | with_reducible first
      | assumption | (intro)
      | (extract_lets +onlyGivenNames x; first | (refine Keeps.cut x ?_ ?_; subst x; rotate_left; intro; clear_value x) | clear_value x)
      | apply State.applyMap_keeps | apply State.applyPkg_keeps | apply State.renewSensors_keeps | apply State.resetPages_keeps
      | apply State.resetTiles_keeps | apply State.restartBeats_keeps | apply State.samplePins_keeps
      | apply State.showFirmware_keeps | apply State.showPorts_keeps | apply State.showStacks_keeps
      | apply State.zeroCounters_keeps | apply Keeps.ite | (fail_if_no_progress apply Keeps.mk0)
    | with_reducible ((fail_if_success apply Keeps.mk0); apply Keeps.mk1)
    | split

theorem State.setTier_keeps {s0 s : State} (h : Keeps s0 s) (state tier cause : Nat) :
    Keeps s0 (State.setTier s state tier cause) := by
  unfold State.setTier
  repeat' first
    | with_reducible first
      | assumption | (intro) | apply State.fset_keeps | apply Keeps.ite
    | split

theorem State.startCd_keeps {s0 s : State} (h : Keeps s0 s) (cause status : Nat) (holder : Nat × Nat) :
    Keeps s0 (State.startCd s cause status holder) := by
  unfold State.startCd
  repeat' first
    | with_reducible first
      | assumption | (intro)
      | (extract_lets +onlyGivenNames x; first | (refine Keeps.cut x ?_ ?_; subst x; rotate_left; intro; clear_value x) | clear_value x)
      | apply State.bump_keeps | apply State.fenceCompute_keeps | apply State.planDump_keeps | apply State.setTier_keeps
      | apply State.takeLock_keeps | apply Keeps.ite
    | split

theorem State.startPkg_keeps {s0 s : State} (h : Keeps s0 s) (cause status : Nat) (holder : Nat × Nat) :
    Keeps s0 (State.startPkg s cause status holder) := by
  unfold State.startPkg
  repeat' first
    | with_reducible first
      | assumption | (intro)
      | (extract_lets +onlyGivenNames x; first | (refine Keeps.cut x ?_ ?_; subst x; rotate_left; intro; clear_value x) | clear_value x)
      | apply State.bump_keeps | apply State.dropLinks_keeps | apply State.fail_keeps | apply State.fenceCompute_keeps
      | apply State.fencePages_keeps | apply State.freeLock_keeps | apply State.planDump_keeps | apply State.setTier_keeps
      | apply State.takeLock_keeps | apply Keeps.ite | (fail_if_no_progress apply Keeps.mk0)
    | split

theorem State.restartTraining_keeps {s0 s : State} (h : Keeps s0 s)  :
    Keeps s0 (State.restartTraining s) := by
  unfold State.restartTraining
  repeat' first
    | with_reducible first
      | assumption | (intro)
      | (extract_lets +onlyGivenNames x; first | (refine Keeps.cut x ?_ ?_; subst x; rotate_left; intro; clear_value x) | clear_value x)
      | apply State.each_keeps | apply State.fset_keeps | apply State.portStart_keeps | apply State.unfencePages_keeps
      | apply Keeps.ite | (fail_if_no_progress apply Keeps.mk0)
    | split

theorem State.recoverAll_keeps {s0 s : State} (h : Keeps s0 s) {f : State → State} (hf : ∀ t, Keeps s0 t → Keeps s0 (f t)) : Keeps s0 (s.recoverAll f) := by
  exact Keeps.ite (hf s h) (State.restartTraining_keeps h)

theorem State.askTier_keeps {s0 s : State} (h : Keeps s0 s) (pkg : Bool) (cause : Nat) (holder : Nat × Nat) :
    Keeps s0 (State.askTier s pkg cause holder).1 := by
  unfold State.askTier
  repeat' first
    | with_reducible first
      | assumption | (intro) | apply State.startCd_keeps | apply State.startPkg_keeps | apply Keeps.ite
      | apply Keeps.iteFst | apply Keeps.iteSnd
    | split

theorem execComputeDomainReset_keeps {s0 s : State} (h : Keeps s0 s) (cause status : Nat) :
    KeepsOut s0 (execComputeDomainReset cause status s) := by
  unfold execComputeDomainReset
  repeat' first
    | with_reducible first
      | assumption | (intro) | apply guardUnit_keeps | apply KeepsOut.next | exact KeepsOut.fault
      | apply KeepsOut.ite | apply State.startCd_keeps | apply Keeps.ite
    | split

theorem execPackageRecovery_keeps {s0 s : State} (h : Keeps s0 s) (cause status : Nat) :
    KeepsOut s0 (execPackageRecovery cause status s) := by
  unfold execPackageRecovery
  repeat' first
    | with_reducible first
      | assumption | (intro) | apply guardUnit_keeps | apply KeepsOut.next | exact KeepsOut.fault
      | apply KeepsOut.ite | apply State.startPkg_keeps | apply Keeps.ite
    | split

theorem State.enterReset_keeps {s0 s : State} (h : Keeps s0 s)  :
    Keeps s0 (State.enterReset s) := by
  unfold State.enterReset
  repeat' first
    | with_reducible first
      | assumption | (intro)
      | (extract_lets +onlyGivenNames x; first | (refine Keeps.cut x ?_ ?_; subst x; rotate_left; intro; clear_value x) | clear_value x)
      | apply State.fset_keeps | apply State.resetCompute_keeps | apply State.resetPackage_keeps | apply Keeps.ite
    | split

theorem execDrainLimit_keeps {s0 s : State} (h : Keeps s0 s) (requests : Nat) :
    KeepsOut s0 (execDrainLimit requests s) := by
  unfold execDrainLimit
  repeat' first
    | with_reducible first
      | assumption | (intro)
      | (extract_lets +onlyGivenNames x; first | (refine Keeps.cut x ?_ ?_; subst x; rotate_left; intro; clear_value x) | (refine KeepsOut.cut x ?_ ?_; subst x; rotate_left; intro; clear_value x) | clear_value x)
      | apply guardUnit_keeps | apply KeepsOut.next | exact KeepsOut.fault | apply KeepsOut.ite | apply State.bumpBy_keeps
      | apply State.each_keeps | apply State.enterReset_keeps | apply State.fset_keeps | apply Keeps.ite
      | (fail_if_no_progress apply Keeps.mk0)
    | split

theorem State.tierReady_keeps {s0 s : State} (h : Keeps s0 s) (ms : Nat) :
    Keeps s0 (State.tierReady s ms) := by
  unfold State.tierReady
  repeat' first
    | with_reducible first
      | assumption | (intro) | apply State.fset_keeps | apply Keeps.ite
    | split

theorem execCdResetReady_keeps {s0 s : State} (h : Keeps s0 s) (ms : Nat) :
    KeepsOut s0 (execCdResetReady ms s) := by
  unfold execCdResetReady
  repeat' first
    | with_reducible first
      | assumption | (intro)
      | (extract_lets +onlyGivenNames x; first | (refine Keeps.cut x ?_ ?_; subst x; rotate_left; intro; clear_value x) | (refine KeepsOut.cut x ?_ ?_; subst x; rotate_left; intro; clear_value x) | clear_value x)
      | apply guardUnit_keeps | apply KeepsOut.next | exact KeepsOut.fault | apply KeepsOut.ite | apply State.applyCd_keeps
      | apply State.each_keeps | apply State.freeLock_keeps | apply State.fset_keeps | apply State.raise_keeps
      | apply State.tierReady_keeps | apply State.unfencePages_keeps | apply Keeps.ite
    | split

theorem execPkgRecoveryReady_keeps {s0 s : State} (h : Keeps s0 s) (ms : Nat) :
    KeepsOut s0 (execPkgRecoveryReady ms s) := by
  unfold execPkgRecoveryReady
  repeat' first
    | with_reducible first
      | assumption | (intro)
      | (extract_lets +onlyGivenNames x; first | (refine Keeps.cut x ?_ ?_; subst x; rotate_left; intro; clear_value x) | (refine KeepsOut.cut x ?_ ?_; subst x; rotate_left; intro; clear_value x) | clear_value x)
      | apply guardUnit_keeps | apply KeepsOut.next | exact KeepsOut.fault | apply KeepsOut.ite | apply State.freeLock_keeps
      | apply State.raise_keeps | apply State.tierReady_keeps | apply State.unfencePages_keeps | apply Keeps.ite
      | (fail_if_no_progress apply Keeps.mk0)
    | split

theorem execCdResetEscalate_keeps {s0 s : State} (h : Keeps s0 s)  :
    KeepsOut s0 (execCdResetEscalate s) := by
  unfold execCdResetEscalate
  repeat' first
    | with_reducible first
      | assumption | (intro) | apply guardUnit_keeps | apply KeepsOut.next | exact KeepsOut.fault
      | apply KeepsOut.ite | apply State.startPkg_keeps | apply Keeps.ite
    | split

theorem execPkgRecoveryTimeout_keeps {s0 s : State} (h : Keeps s0 s)  :
    KeepsOut s0 (execPkgRecoveryTimeout s) := by
  unfold execPkgRecoveryTimeout
  repeat' first
    | with_reducible first
      | assumption | (intro) | apply guardUnit_keeps | apply KeepsOut.next | exact KeepsOut.fault
      | apply KeepsOut.ite | apply State.fail_keeps | apply Keeps.ite
    | split

theorem State.suspectFault_keeps {s0 s : State} (h : Keeps s0 s) (k : Cmd) (c status : Nat) :
    Keeps s0 (State.suspectFault s k c status) := by
  unfold State.suspectFault
  repeat' first
    | with_reducible first
      | assumption | (intro) | apply State.faultWith_keeps | apply Keeps.ite
    | (show Keeps s0 _; assumption)
    | split

theorem State.abandonRuns_keeps {s0 s : State} (h : Keeps s0 s) (c : Nat) :
    Keeps s0 (State.abandonRuns s c).1 := by
  unfold State.abandonRuns
  repeat' first
    | exact id | exact fun w => Sparse.set_wf w _ _ | exact fun w => Sparse.clear_wf w _ | exact fun w => Sparse.mapVals_wf w _
    | exact fun _ => rfl | exact fun w => Sparse.setRange_wf _ w _ | exact fun w => Sparse.foldl_set_wf _ _ _ w
    | with_reducible first
      | assumption | (intro)
      | (extract_lets +onlyGivenNames x; first | (refine Keeps.cut x ?_ ?_; subst x; rotate_left; intro; clear_value x) | clear_value x)
      | apply State.each_keeps | apply State.modCtx_keeps | apply State.stopTile_keeps | apply Keeps.ite | apply Keeps.iteFst
      | apply Keeps.iteSnd | (fail_if_no_progress apply Keeps.mk0)
    | with_reducible ((fail_if_success apply Keeps.mk0); apply Keeps.mk1)
    | split

theorem State.holdSuspect_keeps {s0 s : State} (h : Keeps s0 s) (k : Cmd) (c : Nat) :
    Keeps s0 (State.holdSuspect s k c) := by
  unfold State.holdSuspect
  repeat' first
    | with_reducible first
      | assumption | (intro)
      | (extract_lets +onlyGivenNames x; first | (refine Keeps.cut x ?_ ?_; subst x; rotate_left; intro; clear_value x) | (refine Keeps.cut x.2 ?_ ?_; subst x; rotate_left; intro; clear_value x) | (refine Keeps.cut x.1 ?_ ?_; subst x; rotate_left; intro; clear_value x) | clear_value x)
      | apply State.abandonRuns_keeps | apply State.release_keeps | apply State.setCtx_keeps | apply State.suspectFault_keeps
      | apply State.wakeWaits_keeps | apply Keeps.ite | apply Keeps.iteFst | apply Keeps.iteSnd
      | (fail_if_no_progress apply Keeps.mk0)
    | with_reducible (refine Keeps.ofFst (by assumption) ?_) | with_reducible (refine Keeps.ofSnd (by assumption) ?_)
    | split

theorem State.chargeHang_keeps {s0 s : State} (h : Keeps s0 s) (tile : Nat) :
    Keeps s0 (State.chargeHang s tile) := by
  unfold State.chargeHang
  repeat' first
    | with_reducible first
      | assumption | (intro)
      | (extract_lets +onlyGivenNames x; first | (refine Keeps.cut x ?_ ?_; subst x; rotate_left; intro; clear_value x) | clear_value x)
      | apply State.fenceTile_keeps | apply State.setTile_keeps | apply Keeps.ite | (fail_if_no_progress apply Keeps.mk0)
    | split

theorem State.closeSet_keeps {s0 s : State} (h : Keeps s0 s)  :
    Keeps s0 (State.closeSet s) := by
  unfold State.closeSet
  repeat' first
    | with_reducible first
      | assumption | (intro)
      | (extract_lets +onlyGivenNames x; first | (refine Keeps.cut x ?_ ?_; subst x; rotate_left; intro; clear_value x) | clear_value x)
      | apply State.chargeHang_keeps | apply State.each_keeps | apply State.showSuspects_keeps | apply Keeps.ite
      | (fail_if_no_progress apply Keeps.mk0)
    | split

theorem State.pruneSet_keeps {s0 s : State} (h : Keeps s0 s)  :
    Keeps s0 (State.pruneSet s) := by
  unfold State.pruneSet
  repeat' first
    | with_reducible first
      | assumption | (intro) | apply State.closeSet_keeps | apply Keeps.ite
      | (fail_if_no_progress apply Keeps.mk0)
    | with_reducible (refine Keeps.ofFst (by assumption) ?_) | with_reducible (refine Keeps.ofSnd (by assumption) ?_)
    | split

theorem State.suspect_keeps {s0 s : State} (h : Keeps s0 s) (k : Cmd) :
    Keeps s0 (State.suspect s k) := by
  unfold State.suspect
  repeat' first
    | exact id | exact fun w => Sparse.set_wf w _ _ | exact fun w => Sparse.clear_wf w _ | exact fun w => Sparse.mapVals_wf w _
    | exact fun _ => rfl | exact fun w => Sparse.setRange_wf _ w _ | exact fun w => Sparse.foldl_set_wf _ _ _ w
    | with_reducible first
      | assumption | (intro)
      | (extract_lets +onlyGivenNames x; first | (refine Keeps.cut x ?_ ?_; subst x; rotate_left; intro; clear_value x) | (refine Keeps.cut x.2 ?_ ?_; subst x; rotate_left; intro; clear_value x) | (refine Keeps.cut x.1 ?_ ?_; subst x; rotate_left; intro; clear_value x) | clear_value x)
      | apply State.bump_keeps | apply State.each_keeps | apply State.holdSuspect_keeps | apply State.pruneSet_keeps
      | apply State.raise_keeps | apply Keeps.ite | (fail_if_no_progress apply Keeps.mk0)
    | with_reducible ((fail_if_success apply Keeps.mk0); apply Keeps.mk1)
    | with_reducible (refine Keeps.ofFst (by assumption) ?_) | with_reducible (refine Keeps.ofSnd (by assumption) ?_)
    | split

theorem execCommandTimeout_keeps {s0 s : State} (h : Keeps s0 s) (c : CmdRef) :
    KeepsOut s0 (execCommandTimeout c s) := by
  unfold execCommandTimeout
  repeat' first
    | with_reducible first
      | assumption | (intro)
      | (extract_lets +onlyGivenNames x; first | (refine Keeps.cut x ?_ ?_; subst x; rotate_left; intro; clear_value x) | (refine KeepsOut.cut x ?_ ?_; subst x; rotate_left; intro; clear_value x) | clear_value x)
      | apply guardUnit_keeps | apply KeepsOut.next | exact KeepsOut.fault | apply KeepsOut.ite | apply State.bump_keeps
      | apply State.finish_keeps | apply State.raiseTo_keeps | apply State.suspect_keeps | apply Keeps.ite
      | (fail_if_no_progress apply Keeps.mk0)
    | (show Keeps s0 _; assumption)
    | split

theorem State.startReplay_keeps {s0 s : State} (h : Keeps s0 s)  :
    Keeps s0 (State.startReplay s) := by
  unfold State.startReplay
  repeat' first
    | with_reducible first
      | assumption | (intro) | apply State.showSuspects_keeps | apply Keeps.ite
      | (fail_if_no_progress apply Keeps.mk0)
    | split

theorem State.clearSuspect_keeps {s0 s : State} (h : Keeps s0 s)  :
    Keeps s0 (State.clearSuspect s) := by
  unfold State.clearSuspect
  repeat' first
    | with_reducible first
      | assumption | (intro)
      | (extract_lets +onlyGivenNames x; first | (refine Keeps.cut x ?_ ?_; subst x; rotate_left; intro; clear_value x) | clear_value x)
      | apply State.closeSet_keeps | apply State.setCtx_keeps | apply Keeps.ite | (fail_if_no_progress apply Keeps.mk0)
    | split

theorem execReplayWindowEnd_keeps {s0 s : State} (h : Keeps s0 s)  :
    KeepsOut s0 (execReplayWindowEnd s) := by
  unfold execReplayWindowEnd
  repeat' first
    | with_reducible first
      | assumption | (intro)
      | (extract_lets +onlyGivenNames x; first | (refine Keeps.cut x ?_ ?_; subst x; rotate_left; intro; clear_value x) | (refine Keeps.cut x.2 ?_ ?_; subst x; rotate_left; intro; clear_value x) | (refine Keeps.cut x.1 ?_ ?_; subst x; rotate_left; intro; clear_value x) | (refine KeepsOut.cut x ?_ ?_; subst x; rotate_left; intro; clear_value x) | (refine KeepsOut.cut x.2 ?_ ?_; subst x; rotate_left; intro; clear_value x) | clear_value x)
      | apply guardUnit_keeps | apply KeepsOut.next | exact KeepsOut.fault | apply KeepsOut.ite | apply State.abandonRuns_keeps
      | apply State.bump_keeps | apply State.closeSet_keeps | apply State.each_keeps | apply State.raise_keeps
      | apply State.showSuspects_keeps | apply State.startCd_keeps | apply State.startPkg_keeps | apply State.suspectFault_keeps
      | apply Keeps.ite | apply Keeps.iteFst | apply Keeps.iteSnd | (fail_if_no_progress apply Keeps.mk0)
    | with_reducible (refine Keeps.ofFst (by assumption) ?_) | with_reducible (refine Keeps.ofSnd (by assumption) ?_)
    | split

end Sys2Proof.Machine
end

