-- ==== Sys2Proof/Laws/KeepClocks.lean ====
section
/-! SUPPORT. What the operations of Machine/Clocks.lean keep (see Laws/Keep.lean). -/

set_option linter.all false

namespace Sys2Proof.Machine

theorem State.fenceAll_keeps {s0 s : State} (h : Keeps s0 s)  :
    Keeps s0 (State.fenceAll s) := by
  unfold State.fenceAll
  repeat' first
    | with_reducible first
      | assumption | (intro) | apply State.dropLinks_keeps | apply State.fenceCompute_keeps
      | apply State.fencePages_keeps | apply Keeps.ite
    | split

theorem State.selfRefresh_keeps {s0 s : State} (h : Keeps s0 s)  :
    Keeps s0 (State.selfRefresh s) := by
  unfold State.selfRefresh
  repeat' first
    | with_reducible first
      | assumption | (intro) | apply State.each_keeps | apply State.fset_keeps | apply Keeps.ite
    | split

theorem State.endDroop_keeps {s0 s : State} (h : Keeps s0 s) (die : Nat) :
    Keeps s0 (State.endDroop s die) := by
  unfold State.endDroop
  repeat' first
    | with_reducible first
      | assumption | (intro)
      | (extract_lets +onlyGivenNames x; first | (refine Keeps.cut x ?_ ?_; subst x; rotate_left; intro; clear_value x) | clear_value x)
      | apply State.fset_keeps | apply Keeps.ite | (fail_if_no_progress apply Keeps.mk0)
    | split

theorem execRefclkLoss_keeps {s0 s : State} (h : Keeps s0 s)  :
    KeepsOut s0 (execRefclkLoss s) := by
  unfold execRefclkLoss
  repeat' first
    | with_reducible first
      | assumption | (intro)
      | (extract_lets +onlyGivenNames x; first | (refine Keeps.cut x ?_ ?_; subst x; rotate_left; intro; clear_value x) | (refine KeepsOut.cut x ?_ ?_; subst x; rotate_left; intro; clear_value x) | clear_value x)
      | apply guardUnit_keeps | apply KeepsOut.next | exact KeepsOut.fault | apply KeepsOut.ite | apply State.bump_keeps
      | apply State.each_keeps | apply State.endDroop_keeps | apply State.fenceAll_keeps | apply State.fset_keeps
      | apply State.raise_keeps | apply State.selfRefresh_keeps | apply Keeps.ite | (fail_if_no_progress apply Keeps.mk0)
    | split

theorem execRefclkReturn_keeps {s0 s : State} (h : Keeps s0 s)  :
    KeepsOut s0 (execRefclkReturn s) := by
  unfold execRefclkReturn
  repeat' first
    | with_reducible first
      | assumption | (intro) | apply guardUnit_keeps | apply KeepsOut.next | exact KeepsOut.fault
      | apply KeepsOut.ite | apply State.fset_keeps | apply State.recoverAll_keeps | apply State.startPkg_keeps | apply Keeps.ite
      | (fail_if_no_progress apply Keeps.mk0)
    | split

theorem execRootLock_keeps {s0 s : State} (h : Keeps s0 s) (root : Nat) :
    KeepsOut s0 (execRootLock root s) := by
  unfold execRootLock
  repeat' first
    | with_reducible first
      | assumption | (intro) | apply guardUnit_keeps | apply KeepsOut.next | exact KeepsOut.fault
      | apply KeepsOut.ite | apply State.fset_keeps | apply Keeps.ite
    | split

theorem execRootReady_keeps {s0 s : State} (h : Keeps s0 s) (root : Nat) :
    KeepsOut s0 (execRootReady root s) := by
  unfold execRootReady
  repeat' first
    | with_reducible first
      | assumption | (intro)
      | (extract_lets +onlyGivenNames x; first | (refine Keeps.cut x ?_ ?_; subst x; rotate_left; intro; clear_value x) | (refine KeepsOut.cut x ?_ ?_; subst x; rotate_left; intro; clear_value x) | clear_value x)
      | apply guardUnit_keeps | apply KeepsOut.next | exact KeepsOut.fault | apply KeepsOut.ite | apply State.fset_keeps
      | apply State.recoverAll_keeps | apply State.startPkg_keeps | apply Keeps.ite | (fail_if_no_progress apply Keeps.mk0)
    | split

theorem State.loseRoot_keeps {s0 s : State} (h : Keeps s0 s) (root : Nat) :
    Keeps s0 (State.loseRoot s root) := by
  unfold State.loseRoot
  repeat' first
    | with_reducible first
      | assumption | (intro)
      | (extract_lets +onlyGivenNames x; first | (refine Keeps.cut x ?_ ?_; subst x; rotate_left; intro; clear_value x) | clear_value x)
      | apply State.bumpBy_keeps | apply State.dropLinks_keeps | apply State.each_keeps | apply State.fenceCompute_keeps
      | apply State.fencePages_keeps | apply State.fset_keeps | apply State.raise_keeps | apply State.selfRefresh_keeps
      | apply State.when_keeps | apply Keeps.ite | (fail_if_no_progress apply Keeps.mk0)
    | split

theorem execRootLockLoss_keeps {s0 s : State} (h : Keeps s0 s) (root : Nat) :
    KeepsOut s0 (execRootLockLoss root s) := by
  unfold execRootLockLoss
  repeat' first
    | with_reducible first
      | assumption | (intro)
      | (extract_lets +onlyGivenNames x; first | (refine Keeps.cut x ?_ ?_; subst x; rotate_left; intro; clear_value x) | (refine Keeps.cut x.2 ?_ ?_; subst x; rotate_left; intro; clear_value x) | (refine Keeps.cut x.1 ?_ ?_; subst x; rotate_left; intro; clear_value x) | (refine KeepsOut.cut x ?_ ?_; subst x; rotate_left; intro; clear_value x) | (refine KeepsOut.cut x.2 ?_ ?_; subst x; rotate_left; intro; clear_value x) | clear_value x)
      | apply guardUnit_keeps | apply KeepsOut.next | exact KeepsOut.fault | apply KeepsOut.ite | apply State.brokeAdd_keeps
      | apply State.bump_keeps | apply State.fset_keeps | apply State.loseRoot_keeps | apply State.raise_keeps
      | apply State.when_keeps | apply Keeps.ite | (fail_if_no_progress apply Keeps.mk0)
    | with_reducible (refine Keeps.ofFst (by assumption) ?_) | with_reducible (refine Keeps.ofSnd (by assumption) ?_)
    | split

theorem State.srcRefuse_keeps {s0 s : State} (h : Keeps s0 s) (view bytes : Nat) :
    Keeps s0 (State.srcRefuse s view bytes) := by
  unfold State.srcRefuse
  repeat' first
    | with_reducible first
      | assumption | (intro) | apply State.regFault_keeps | apply Keeps.ite
    | split

theorem State.writeSrcField_keeps {s0 s : State} (h : Keeps s0 s) (view bytes : Nat) (f : Fld) (root : Nat) :
    Keeps s0 (State.writeSrcField s view bytes f root) := by
  unfold State.writeSrcField
  repeat' first
    | with_reducible first
      | assumption | (intro) | apply State.bump_keeps | apply State.fset_keeps
      | apply State.srcRefuse_keeps | apply Keeps.ite | (fail_if_no_progress apply Keeps.mk0)
    | split

theorem State.writeSrc_keeps {s0 s : State} (h : Keeps s0 s) (view bytes v : Nat) :
    Keeps s0 (State.writeSrc s view bytes v) := by
  unfold State.writeSrc
  repeat' first
    | with_reducible first
      | assumption | (intro) | apply State.each_keeps | apply State.writeSrcField_keeps
      | apply Keeps.ite
    | split

theorem State.switchTile_keeps {s0 s : State} (h : Keeps s0 s)  :
    Keeps s0 (State.switchTile s) := by
  unfold State.switchTile
  repeat' first
    | with_reducible first
      | assumption | (intro)
      | (extract_lets +onlyGivenNames x; first | (refine Keeps.cut x ?_ ?_; subst x; rotate_left; intro; clear_value x) | clear_value x)
      | apply State.bump_keeps | apply State.fset_keeps | apply State.srcRefuse_keeps | apply Keeps.ite
      | (fail_if_no_progress apply Keeps.mk0)
    | split

theorem State.applyDivs_keeps {s0 s : State} (h : Keeps s0 s)  :
    Keeps s0 (State.applyDivs s) := by
  unfold State.applyDivs
  repeat' first
    | with_reducible first
      | assumption | (intro)
      | (extract_lets +onlyGivenNames x; first | (refine Keeps.cut x ?_ ?_; subst x; rotate_left; intro; clear_value x) | clear_value x)
      | apply State.each_keeps | apply State.fset_keeps | apply State.switchTile_keeps | apply Keeps.ite
    | split

theorem State.droop_keeps {s0 s : State} (h : Keeps s0 s) (die : Nat) :
    Keeps s0 (State.droop s die) := by
  unfold State.droop
  repeat' first
    | with_reducible first
      | assumption | (intro)
      | (extract_lets +onlyGivenNames x; first | (refine Keeps.cut x ?_ ?_; subst x; rotate_left; intro; clear_value x) | clear_value x)
      | apply State.bump_keeps | apply State.fset_keeps | apply State.raise_keeps | apply Keeps.ite
      | (fail_if_no_progress apply Keeps.mk0)
    | split

theorem execDroopTrigger_keeps {s0 s : State} (h : Keeps s0 s) (die rail : Nat) :
    KeepsOut s0 (execDroopTrigger die rail s) := by
  unfold execDroopTrigger
  repeat' first
    | with_reducible first
      | assumption | (intro) | apply guardUnit_keeps | apply KeepsOut.next | exact KeepsOut.fault
      | apply KeepsOut.ite | apply State.droop_keeps | apply Keeps.ite
    | split

theorem execDroopEnd_keeps {s0 s : State} (h : Keeps s0 s) (die : Nat) :
    KeepsOut s0 (execDroopEnd die s) := by
  unfold execDroopEnd
  repeat' first
    | with_reducible first
      | assumption | (intro) | apply guardUnit_keeps | apply KeepsOut.next | exact KeepsOut.fault
      | apply KeepsOut.ite | apply State.endDroop_keeps | apply Keeps.ite
    | split

theorem State.protect_keeps {s0 s : State} (h : Keeps s0 s) (die code : Nat) :
    Keeps s0 (State.protect s die code) := by
  unfold State.protect
  repeat' first
    | with_reducible first
      | assumption | (intro)
      | (extract_lets +onlyGivenNames x; first | (refine Keeps.cut x ?_ ?_; subst x; rotate_left; intro; clear_value x) | clear_value x)
      | apply State.fset_keeps | apply Keeps.ite | (fail_if_no_progress apply Keeps.mk0)
    | split

theorem State.enableLater_keeps {s0 s : State} (h : Keeps s0 s) (page : Nat) (on : Bool) :
    Keeps s0 (State.enableLater s page on) := by
  unfold State.enableLater
  repeat' first
    | with_reducible first
      | assumption | (intro) | apply Keeps.ite | (fail_if_no_progress apply Keeps.mk0)
    | with_reducible (refine Keeps.ofFst (by assumption) ?_) | with_reducible (refine Keeps.ofSnd (by assumption) ?_)
    | split

theorem State.writeEnable_keeps {s0 s : State} (h : Keeps s0 s) (view off bytes page : Nat) (on : Bool) :
    Keeps s0 (State.writeEnable s view off bytes page on) := by
  unfold State.writeEnable
  repeat' first
    | with_reducible first
      | assumption | (intro) | apply State.bump_keeps | apply State.enableLater_keeps
      | apply State.fset_keeps | apply State.raise_keeps | apply State.regFault_keeps | apply Keeps.ite
      | (fail_if_no_progress apply Keeps.mk0)
    | split

theorem State.writeEnables_keeps {s0 s : State} (h : Keeps s0 s) (view off bytes mask v : Nat) :
    Keeps s0 (State.writeEnables s view off bytes mask v) := by
  unfold State.writeEnables
  repeat' first
    | with_reducible first
      | assumption | (intro)
      | (extract_lets +onlyGivenNames x; first | (refine Keeps.cut x ?_ ?_; subst x; rotate_left; intro; clear_value x) | clear_value x)
      | apply State.each_keeps | apply State.writeEnable_keeps | apply Keeps.ite | (fail_if_no_progress apply Keeps.mk0)
    | split

theorem State.gate_keeps {s0 s : State} (h : Keeps s0 s) (page : Nat) :
    Keeps s0 (State.gate s page) := by
  unfold State.gate
  repeat' first
    | with_reducible first
      | assumption | (intro) | apply State.each_keeps | apply State.fset_keeps | apply Keeps.ite
    | split

theorem State.ungate_keeps {s0 s : State} (h : Keeps s0 s) (page : Nat) :
    Keeps s0 (State.ungate s page) := by
  unfold State.ungate
  repeat' first
    | with_reducible first
      | assumption | (intro) | apply State.each_keeps | apply State.fset_keeps | apply Keeps.ite
    | split

theorem State.setReady_keeps {s0 s : State} (h : Keeps s0 s) (page v : Nat) :
    Keeps s0 (State.setReady s page v) := by
  unfold State.setReady
  repeat' first
    | with_reducible first
      | assumption | (intro) | apply State.setReg_keeps | apply Keeps.ite
    | split

theorem execClockEnableDone_keeps {s0 s : State} (h : Keeps s0 s) (page : Nat) :
    KeepsOut s0 (execClockEnableDone page s) := by
  unfold execClockEnableDone
  repeat' first
    | with_reducible first
      | assumption | (intro)
      | (extract_lets +onlyGivenNames x; first | (refine Keeps.cut x ?_ ?_; subst x; rotate_left; intro; clear_value x) | (refine Keeps.cut x.2 ?_ ?_; subst x; rotate_left; intro; clear_value x) | (refine Keeps.cut x.1 ?_ ?_; subst x; rotate_left; intro; clear_value x) | (refine KeepsOut.cut x ?_ ?_; subst x; rotate_left; intro; clear_value x) | (refine KeepsOut.cut x.2 ?_ ?_; subst x; rotate_left; intro; clear_value x) | clear_value x)
      | apply guardUnit_keeps | apply KeepsOut.next | exact KeepsOut.fault | apply KeepsOut.ite | apply State.gate_keeps
      | apply State.setReady_keeps | apply State.ungate_keeps | apply State.when_keeps | apply Keeps.ite
      | (fail_if_no_progress apply Keeps.mk0)
    | with_reducible (refine Keeps.ofFst (by assumption) ?_) | with_reducible (refine Keeps.ofSnd (by assumption) ?_)
    | split

end Sys2Proof.Machine
end

