-- ==== Sys2Proof/Laws/KeepPower.lean ====
section
/-! SUPPORT. What the operations of Machine/Power.lean keep (see Laws/Keep.lean). -/

set_option linter.all false

namespace Sys2Proof.Machine

theorem State.updateCap_keeps {s0 s : State} (h : Keeps s0 s)  :
    Keeps s0 (State.updateCap s) := by
  unfold State.updateCap
  repeat' first
    | with_reducible first
      | assumption | (intro)
      | (extract_lets +onlyGivenNames x; first | (refine Keeps.cut x ?_ ?_; subst x; rotate_left; intro; clear_value x) | (refine Keeps.cut x.2 ?_ ?_; subst x; rotate_left; intro; clear_value x) | (refine Keeps.cut x.1 ?_ ?_; subst x; rotate_left; intro; clear_value x) | clear_value x)
      | apply State.bump_keeps | apply State.fset_keeps | apply State.powerEvent_keeps | apply State.raise_keeps
      | apply State.when_keeps | apply Keeps.ite | (fail_if_no_progress apply Keeps.mk0)
    | with_reducible (refine Keeps.ofFst (by assumption) ?_) | with_reducible (refine Keeps.ofSnd (by assumption) ?_)
    | split

theorem State.tickMs_keeps {s0 s : State} (h : Keeps s0 s)  :
    Keeps s0 (State.tickMs s) := by
  unfold State.tickMs
  repeat' first
    | with_reducible first
      | assumption | (intro)
      | (extract_lets +onlyGivenNames x; first | (refine Keeps.cut x ?_ ?_; subst x; rotate_left; intro; clear_value x) | clear_value x)
      | apply State.fset_keeps | apply State.when_keeps | apply Keeps.ite
    | split

theorem execEnergyBucketClose_keeps {s0 s : State} (h : Keeps s0 s) (mj : Nat) :
    KeepsOut s0 (execEnergyBucketClose mj s) := by
  unfold execEnergyBucketClose
  repeat' first
    | with_reducible first
      | assumption | (intro) | apply guardUnit_keeps | apply KeepsOut.next | exact KeepsOut.fault
      | apply KeepsOut.ite | apply State.fset_keeps | apply State.tickMs_keeps | apply Keeps.ite
      | (fail_if_no_progress apply Keeps.mk0)
    | split

theorem State.learnPhase_keeps {s0 s : State} (h : Keeps s0 s) (code : Nat) (e : Int) (sq : Nat) (p : PhaseStall) :
    Keeps s0 (State.learnPhase s code e sq p) := by
  unfold State.learnPhase
  repeat' first
    | with_reducible first
      | assumption | (intro)
      | (extract_lets +onlyGivenNames x; first | (refine Keeps.cut x ?_ ?_; subst x; rotate_left; intro; clear_value x) | clear_value x)
      | apply Keeps.ite | (fail_if_no_progress apply Keeps.mk0)
    | split

theorem State.learnDie_keeps {s0 s : State} (h : Keeps s0 s) (rows : List PhaseStall) (die : Nat) :
    Keeps s0 (State.learnDie s rows die) := by
  unfold State.learnDie
  repeat' first
    | with_reducible first
      | assumption | (intro)
      | (extract_lets +onlyGivenNames x; first | (refine Keeps.cut x ?_ ?_; subst x; rotate_left; intro; clear_value x) | clear_value x)
      | apply State.each_keeps | apply State.learnPhase_keeps | apply Keeps.foldl | apply Keeps.foldlFst | apply Keeps.foldlSnd
      | apply Keeps.ite | (fail_if_no_progress apply Keeps.mk0)
    | split

theorem State.learnLoad_keeps {s0 s : State} (h : Keeps s0 s) (p : LoadPower) :
    Keeps s0 (State.learnLoad s p) := by
  unfold State.learnLoad
  repeat' first
    | with_reducible first
      | assumption | (intro)
      | (extract_lets +onlyGivenNames x; first | (refine Keeps.cut x ?_ ?_; subst x; rotate_left; intro; clear_value x) | clear_value x)
      | apply Keeps.ite | (fail_if_no_progress apply Keeps.mk0)
    | split

theorem State.commandPoint_keeps {s0 s : State} (h : Keeps s0 s) (p : Point) (restart : Bool) :
    Keeps s0 (State.commandPoint s p restart) := by
  unfold State.commandPoint
  repeat' first
    | with_reducible first
      | assumption | (intro)
      | (extract_lets +onlyGivenNames x; first | (refine Keeps.cut x ?_ ?_; subst x; rotate_left; intro; clear_value x) | clear_value x)
      | apply State.fset_keeps | apply Keeps.ite | (fail_if_no_progress apply Keeps.mk0)
    | split

theorem State.enterUnattainable_keeps {s0 s : State} (h : Keeps s0 s)  :
    Keeps s0 (State.enterUnattainable s) := by
  unfold State.enterUnattainable
  repeat' first
    | with_reducible first
      | assumption | (intro)
      | (extract_lets +onlyGivenNames x; first | (refine Keeps.cut x ?_ ?_; subst x; rotate_left; intro; clear_value x) | clear_value x)
      | apply State.fset_keeps | apply State.logFault_keeps | apply State.powerEvent_keeps | apply State.raise_keeps
      | apply Keeps.ite
    | split

theorem State.chooseFloor_keeps {s0 s : State} (h : Keeps s0 s) (low : PointPower) (t : Nat) :
    Keeps s0 (State.chooseFloor s low t) := by
  unfold State.chooseFloor
  repeat' first
    | with_reducible first
      | assumption | (intro) | apply State.commandPoint_keeps | apply State.enterUnattainable_keeps
      | apply Keeps.ite | (fail_if_no_progress apply Keeps.mk0)
    | split

theorem State.choosePoint_keeps {s0 s : State} (h : Keeps s0 s) (pred : List PointPower) (rows : List PhaseStall) (low : PointPower) :
    Keeps s0 (State.choosePoint s pred rows low) := by
  unfold State.choosePoint
  repeat' first
    | with_reducible first
      | assumption | (intro)
      | (extract_lets +onlyGivenNames x; first | (refine Keeps.cut x ?_ ?_; subst x; rotate_left; intro; clear_value x) | (refine Keeps.cut x.2 ?_ ?_; subst x; rotate_left; intro; clear_value x) | (refine Keeps.cut x.1 ?_ ?_; subst x; rotate_left; intro; clear_value x) | clear_value x)
      | apply State.chooseFloor_keeps | apply State.commandPoint_keeps | apply State.fset_keeps | apply State.when_keeps
      | apply Keeps.ite | (fail_if_no_progress apply Keeps.mk0)
    | with_reducible (refine Keeps.ofFst (by assumption) ?_) | with_reducible (refine Keeps.ofSnd (by assumption) ?_)
    | split

theorem State.meterDeckles_keeps {s0 s : State} (h : Keeps s0 s) (meters : List Nat) :
    Keeps s0 (State.meterDeckles s meters) := by
  unfold State.meterDeckles
  repeat' first
    | with_reducible first
      | assumption | (intro)
      | (extract_lets +onlyGivenNames x; first | (refine Keeps.cut x ?_ ?_; subst x; rotate_left; intro; clear_value x) | (refine Keeps.cut x.2 ?_ ?_; subst x; rotate_left; intro; clear_value x) | (refine Keeps.cut x.1 ?_ ?_; subst x; rotate_left; intro; clear_value x) | clear_value x)
      | apply State.each_keeps | apply State.fset_keeps | apply Keeps.ite | (fail_if_no_progress apply Keeps.mk0)
    | with_reducible (refine Keeps.ofFst (by assumption) ?_) | with_reducible (refine Keeps.ofSnd (by assumption) ?_)
    | split

theorem State.takeMeasures_keeps {s0 s : State} (h : Keeps s0 s) (beatW : Nat) (meters : List Nat) :
    Keeps s0 (State.takeMeasures s beatW meters) := by
  unfold State.takeMeasures
  repeat' first
    | with_reducible first
      | assumption | (intro)
      | (extract_lets +onlyGivenNames x; first | (refine Keeps.cut x ?_ ?_; subst x; rotate_left; intro; clear_value x) | clear_value x)
      | apply State.fset_keeps | apply State.meterDeckles_keeps | apply Keeps.ite | (fail_if_no_progress apply Keeps.mk0)
    | split

theorem execCalenderDecision_keeps {s0 s : State} (h : Keeps s0 s) (beatW : Nat) (pred : List PointPower) (stalls : List PhaseStall) (loads : List LoadPower) (meters : List Nat) :
    KeepsOut s0 (execCalenderDecision beatW pred stalls loads meters s) := by
  unfold execCalenderDecision
  repeat' first
    | with_reducible first
      | assumption | (intro)
      | (extract_lets +onlyGivenNames x; first | (refine Keeps.cut x ?_ ?_; subst x; rotate_left; intro; clear_value x) | (refine KeepsOut.cut x ?_ ?_; subst x; rotate_left; intro; clear_value x) | clear_value x)
      | apply guardUnit_keeps | apply KeepsOut.next | exact KeepsOut.fault | apply KeepsOut.ite | apply State.choosePoint_keeps
      | apply State.each_keeps | apply State.learnDie_keeps | apply State.learnLoad_keeps | apply State.takeMeasures_keeps
      | apply Keeps.ite | (fail_if_no_progress apply Keeps.mk0)
    | split

theorem State.takeStep_keeps {s0 s : State} (h : Keeps s0 s) (res : Nat) (t : Throttle) :
    Keeps s0 (State.takeStep s res t) := by
  unfold State.takeStep
  repeat' first
    | with_reducible first
      | assumption | (intro)
      | (extract_lets +onlyGivenNames x; first | (refine Keeps.cut x ?_ ?_; subst x; rotate_left; intro; clear_value x) | clear_value x)
      | apply State.bump_keeps | apply State.protect_keeps | apply State.raise_keeps | apply State.when_keeps | apply Keeps.ite
      | (fail_if_no_progress apply Keeps.mk0)
    | split

theorem State.throttleDie_keeps {s0 s : State} (h : Keeps s0 s) (die base : Nat) (h : Hot) :
    Keeps s0 (State.throttleDie s die base h).1 := by
  unfold State.throttleDie
  repeat' first
    | with_reducible first
      | assumption | (intro)
      | (extract_lets +onlyGivenNames x; first | (refine Keeps.cut x ?_ ?_; subst x; rotate_left; intro; clear_value x) | clear_value x)
      | apply State.takeStep_keeps | apply State.when_keeps | apply Keeps.ite | apply Keeps.iteFst | apply Keeps.iteSnd
      | (fail_if_no_progress apply Keeps.mk0)
    | split

theorem State.throttleUp_keeps {s0 s : State} (h : Keeps s0 s) (h : Hot) :
    Keeps s0 (State.throttleUp s h).1 := by
  unfold State.throttleUp
  repeat' first
    | with_reducible first
      | assumption | (intro)
      | (extract_lets +onlyGivenNames x; first | (refine Keeps.cut x ?_ ?_; subst x; rotate_left; intro; clear_value x) | (refine Keeps.cut x.2 ?_ ?_; subst x; rotate_left; intro; clear_value x) | (refine Keeps.cut x.1 ?_ ?_; subst x; rotate_left; intro; clear_value x) | clear_value x)
      | apply State.raise_keeps | apply State.takeStep_keeps | apply State.throttleDie_keeps | apply State.when_keeps
      | apply Keeps.ite | apply Keeps.iteFst | apply Keeps.iteSnd | (fail_if_no_progress apply Keeps.mk0)
    | with_reducible (refine Keeps.ofFst (by assumption) ?_) | with_reducible (refine Keeps.ofSnd (by assumption) ?_)
    | split

theorem State.throttle_keeps {s0 s : State} (h : Keeps s0 s) (res : Nat) :
    Keeps s0 (State.throttle s res) := by
  unfold State.throttle
  repeat' first
    | with_reducible first
      | assumption | (intro)
      | (extract_lets +onlyGivenNames x; first | (refine Keeps.cut x ?_ ?_; subst x; rotate_left; intro; clear_value x) | (refine Keeps.cut x.2 ?_ ?_; subst x; rotate_left; intro; clear_value x) | (refine Keeps.cut x.1 ?_ ?_; subst x; rotate_left; intro; clear_value x) | subst x)
      | apply State.throttleUp_keeps | apply Keeps.ite | apply Keeps.iteFst | apply Keeps.iteSnd
      | (fail_if_no_progress apply Keeps.mk0)
    | with_reducible (refine Keeps.ofFst (by assumption) ?_) | with_reducible (refine Keeps.ofSnd (by assumption) ?_)
    | split

theorem State.throttleAll_keeps {s0 s : State} (h : Keeps s0 s)  :
    Keeps s0 (State.throttleAll s) := by
  unfold State.throttleAll
  repeat' first
    | with_reducible first
      | assumption | (intro)
      | (extract_lets +onlyGivenNames x; first | (refine Keeps.cut x ?_ ?_; subst x; rotate_left; intro; clear_value x) | clear_value x)
      | apply State.each_keeps | apply State.fset_keeps | apply State.raise_keeps | apply State.throttle_keeps
      | apply State.when_keeps | apply Keeps.ite
    | split

theorem State.applyPoint_keeps {s0 s : State} (h : Keeps s0 s)  :
    Keeps s0 (State.applyPoint s) := by
  unfold State.applyPoint
  repeat' first
    | with_reducible first
      | assumption | (intro)
      | (extract_lets +onlyGivenNames x; first | (refine Keeps.cut x ?_ ?_; subst x; rotate_left; intro; clear_value x) | clear_value x)
      | apply State.applyDivs_keeps | apply State.fset_keeps | apply State.when_keeps | apply Keeps.ite
      | (fail_if_no_progress apply Keeps.mk0)
    | split

theorem State.commandFaster_keeps {s0 s : State} (h : Keeps s0 s)  :
    Keeps s0 (State.commandFaster s) := by
  unfold State.commandFaster
  repeat' first
    | with_reducible first
      | assumption | (intro)
      | (extract_lets +onlyGivenNames x; first | (refine Keeps.cut x ?_ ?_; subst x; rotate_left; intro; clear_value x) | clear_value x)
      | apply State.fset_keeps | apply Keeps.ite
    | split

theorem State.applyPattern_keeps {s0 s : State} (h : Keeps s0 s)  :
    Keeps s0 (State.applyPattern s) := by
  unfold State.applyPattern
  repeat' first
    | with_reducible first
      | assumption | (intro)
      | (extract_lets +onlyGivenNames x; first | (refine Keeps.cut x ?_ ?_; subst x; rotate_left; intro; clear_value x) | clear_value x)
      | apply State.bump_keeps | apply State.when_keeps | apply Keeps.ite | (fail_if_no_progress apply Keeps.mk0)
    | split

theorem State.applyAllowances_keeps {s0 s : State} (h : Keeps s0 s)  :
    Keeps s0 (State.applyAllowances s) := by
  unfold State.applyAllowances
  repeat' first
    | with_reducible first
      | assumption | (intro)
      | (extract_lets +onlyGivenNames x; first | (refine Keeps.cut x ?_ ?_; subst x; rotate_left; intro; clear_value x) | clear_value x)
      | apply State.bump_keeps | apply State.each_keeps | apply State.raiseTo_keeps | apply Keeps.ite
      | (fail_if_no_progress apply Keeps.mk0)
    | split

theorem State.applyCalender_keeps {s0 s : State} (h : Keeps s0 s)  :
    Keeps s0 (State.applyCalender s) := by
  unfold State.applyCalender
  repeat' first
    | with_reducible first
      | assumption | (intro)
      | (extract_lets +onlyGivenNames x; first | (refine Keeps.cut x ?_ ?_; subst x; rotate_left; intro; clear_value x) | clear_value x)
      | apply State.applyAllowances_keeps | apply State.applyPattern_keeps | apply State.applyPoint_keeps | apply State.bump_keeps
      | apply State.commandFaster_keeps | apply State.when_keeps | apply Keeps.ite
    | split

theorem State.noteSensor_keeps {s0 s : State} (h : Keeps s0 s) (inst point cause : Nat) :
    Keeps s0 (State.noteSensor s inst point cause) := by
  unfold State.noteSensor
  repeat' first
    | with_reducible first
      | assumption | (intro)
      | (extract_lets +onlyGivenNames x; first | (refine Keeps.cut x ?_ ?_; subst x; rotate_left; intro; clear_value x) | clear_value x)
      | apply State.brokeAdd_keeps | apply State.when_keeps | apply Keeps.ite | (fail_if_no_progress apply Keeps.mk0)
    | split

theorem State.samplePower_keeps {s0 s : State} (h : Keeps s0 s) (inst mw : Nat) :
    Keeps s0 (State.samplePower s inst mw) := by
  unfold State.samplePower
  repeat' first
    | with_reducible first
      | assumption | (intro)
      | (extract_lets +onlyGivenNames x; first | (refine Keeps.cut x ?_ ?_; subst x; rotate_left; intro; clear_value x) | clear_value x)
      | apply Keeps.ite | (fail_if_no_progress apply Keeps.mk0)
    | split

theorem State.sampleOne_keeps {s0 s : State} (h : Keeps s0 s) (inst point : Nat) (r : Option TempReading) :
    Keeps s0 (State.sampleOne s inst point r) := by
  unfold State.sampleOne
  repeat' first
    | with_reducible first
      | assumption | (intro)
      | (extract_lets +onlyGivenNames x; first | (refine Keeps.cut x ?_ ?_; subst x; rotate_left; intro; clear_value x) | clear_value x)
      | apply State.bump_keeps | apply State.noteSensor_keeps | apply State.raise_keeps | apply State.setSensor_keeps
      | apply State.when_keeps | apply Keeps.ite | (fail_if_no_progress apply Keeps.mk0)
    | split

theorem State.samplePair_keeps {s0 s : State} (h : Keeps s0 s) (stack : Nat) :
    Keeps s0 (State.samplePair s stack) := by
  unfold State.samplePair
  repeat' first
    | with_reducible first
      | assumption | (intro)
      | (extract_lets +onlyGivenNames x; first | (refine Keeps.cut x ?_ ?_; subst x; rotate_left; intro; clear_value x) | clear_value x)
      | apply State.bump_keeps | apply State.fset_keeps | apply State.raiseTo_keeps | apply State.when_keeps | apply Keeps.ite
      | (fail_if_no_progress apply Keeps.mk0)
    | split

theorem State.showHot_keeps {s0 s : State} (h : Keeps s0 s) (inst : Nat) :
    Keeps s0 (State.showHot s inst) := by
  unfold State.showHot
  repeat' first
    | with_reducible first
      | assumption | (intro) | apply State.fset_keeps | apply Keeps.ite
      | (fail_if_no_progress apply Keeps.mk0)
    | split

theorem State.countTrips_keeps {s0 s : State} (h : Keeps s0 s) (inst : Nat) :
    Keeps s0 (State.countTrips s inst).1 := by
  unfold State.countTrips
  repeat' first
    | with_reducible first
      | assumption | (intro)
      | (extract_lets +onlyGivenNames x; first | (refine Keeps.cut x ?_ ?_; subst x; rotate_left; intro; clear_value x) | clear_value x)
      | apply Keeps.foldl | apply Keeps.foldlFst | apply Keeps.foldlSnd | apply Keeps.ite | apply Keeps.iteFst
      | apply Keeps.iteSnd | (fail_if_no_progress apply Keeps.mk0)
    | split

theorem State.trip_keeps {s0 s : State} (h : Keeps s0 s) (insts : List Nat) :
    Keeps s0 (State.trip s insts) := by
  unfold State.trip
  repeat' first
    | with_reducible first
      | assumption | (intro)
      | (extract_lets +onlyGivenNames x; first | (refine Keeps.cut x ?_ ?_; subst x; rotate_left; intro; clear_value x) | clear_value x)
      | apply State.alarm_keeps | apply State.each_keeps | apply State.fenceAll_keeps | apply State.powerEvent_keeps
      | apply State.raise_keeps | apply State.selfRefresh_keeps | apply Keeps.ite | (fail_if_no_progress apply Keeps.mk0)
    | split

theorem State.noteCalm_keeps {s0 s : State} (h : Keeps s0 s)  :
    Keeps s0 (State.noteCalm s) := by
  unfold State.noteCalm
  repeat' first
    | with_reducible first
      | assumption | (intro) | apply Keeps.ite | (fail_if_no_progress apply Keeps.mk0)
    | split

theorem execTempSample_keeps {s0 s : State} (h : Keeps s0 s) (readings : List TempReading) (power : List (Nat × Nat)) :
    KeepsOut s0 (execTempSample readings power s) := by
  unfold execTempSample
  repeat' first
    | with_reducible first
      | assumption | (intro)
      | (extract_lets +onlyGivenNames x; first | (refine Keeps.cut x ?_ ?_; subst x; rotate_left; intro; clear_value x) | (refine Keeps.cut x.2 ?_ ?_; subst x; rotate_left; intro; clear_value x) | (refine Keeps.cut x.1 ?_ ?_; subst x; rotate_left; intro; clear_value x) | (refine KeepsOut.cut x ?_ ?_; subst x; rotate_left; intro; clear_value x) | (refine KeepsOut.cut x.2 ?_ ?_; subst x; rotate_left; intro; clear_value x) | clear_value x)
      | apply guardUnit_keeps | apply KeepsOut.next | exact KeepsOut.fault | apply KeepsOut.ite | apply State.countTrips_keeps
      | apply State.each_keeps | apply State.noteCalm_keeps | apply State.sampleOne_keeps | apply State.samplePair_keeps
      | apply State.samplePower_keeps | apply State.showHot_keeps | apply State.trip_keeps | apply Keeps.ite | apply Keeps.iteFst
      | apply Keeps.iteSnd
    | with_reducible (refine Keeps.ofFst (by assumption) ?_) | with_reducible (refine Keeps.ofSnd (by assumption) ?_)
    | split

theorem execThermtripRelease_keeps {s0 s : State} (h : Keeps s0 s)  :
    KeepsOut s0 (execThermtripRelease s) := by
  unfold execThermtripRelease
  repeat' first
    | with_reducible first
      | assumption | (intro)
      | (extract_lets +onlyGivenNames x; first | (refine Keeps.cut x ?_ ?_; subst x; rotate_left; intro; clear_value x) | (refine KeepsOut.cut x ?_ ?_; subst x; rotate_left; intro; clear_value x) | clear_value x)
      | apply guardUnit_keeps | apply KeepsOut.next | exact KeepsOut.fault | apply KeepsOut.ite | apply State.recoverAll_keeps
      | apply State.startPkg_keeps | apply State.when_keeps | apply Keeps.ite | (fail_if_no_progress apply Keeps.mk0)
    | split

theorem execLeakSample_keeps {s0 s : State} (h : Keeps s0 s) (ohms : Nat) :
    KeepsOut s0 (execLeakSample ohms s) := by
  unfold execLeakSample
  repeat' first
    | with_reducible first
      | assumption | (intro)
      | (extract_lets +onlyGivenNames x; first | (refine Keeps.cut x ?_ ?_; subst x; rotate_left; intro; clear_value x) | (refine Keeps.cut x.2 ?_ ?_; subst x; rotate_left; intro; clear_value x) | (refine Keeps.cut x.1 ?_ ?_; subst x; rotate_left; intro; clear_value x) | (refine KeepsOut.cut x ?_ ?_; subst x; rotate_left; intro; clear_value x) | (refine KeepsOut.cut x.2 ?_ ?_; subst x; rotate_left; intro; clear_value x) | clear_value x)
      | apply guardUnit_keeps | apply KeepsOut.next | exact KeepsOut.fault | apply KeepsOut.ite | apply State.alarm_keeps
      | apply State.bump_keeps | apply State.fset_keeps | apply State.powerEvent_keeps | apply State.raise_keeps
      | apply State.updateCap_keeps | apply Keeps.ite | (fail_if_no_progress apply Keeps.mk0)
    | with_reducible (refine Keeps.ofFst (by assumption) ?_) | with_reducible (refine Keeps.ofSnd (by assumption) ?_)
    | split

end Sys2Proof.Machine
end

