-- ==== Sys2Proof/Laws/KeepNvm.lean ====
section
/-! SUPPORT. What the operations of Machine/Nvm.lean keep (see Laws/Keep.lean). -/

set_option linter.all false

namespace Sys2Proof.Machine

theorem State.norPut_keeps {s0 s : State} (h : Keeps s0 s) (a : Nat) (d : List Byte) :
    Keeps s0 (State.norPut s a d) := by
  unfold State.norPut
  repeat' first
    | exact id | exact fun w => Sparse.set_wf w _ _ | exact fun w => Sparse.clear_wf w _ | exact fun w => Sparse.mapVals_wf w _
    | exact fun _ => rfl | exact fun w => Sparse.setRange_wf _ w _ | exact fun w => Sparse.foldl_set_wf _ _ _ w
    | with_reducible first
      | assumption | (intro) | apply Keeps.ite | (fail_if_no_progress apply Keeps.mk0)
    | with_reducible ((fail_if_success apply Keeps.mk0); apply Keeps.mk1)
    | split

theorem State.norErase_keeps {s0 s : State} (h : Keeps s0 s) (a n : Nat) : Keeps s0 (s.norErase a n) :=
  Keeps.mk1 (nv := { s.nvm with nor := s.nvm.nor.clear fun k => decide (a ≤ k ∧ k < a + n) }) h id id id id id id id id id id id id id
    (fun w => Sparse.clear_wf w (fun k => decide (a ≤ k ∧ k < a + n)))

theorem State.fresh_keeps {s0 s : State} (h : Keeps s0 s) (n : Nat) :
    Keeps s0 (State.fresh s n).2 := by
  unfold State.fresh
  repeat' first
    | with_reducible first
      | assumption | (intro) | apply Keeps.ite | apply Keeps.iteFst | apply Keeps.iteSnd
      | (fail_if_no_progress apply Keeps.mk0) | (fail_if_no_progress apply Keeps.mk2)
    | with_reducible exact Nat.le_max_left _ _
    | with_reducible exact Nat.le_refl _
    | with_reducible exact Nat.le_add_right _ _
    | with_reducible exact cmdsMap _ _
    | with_reducible exact cmdsFilterMap _ _ _
    | with_reducible exact cmdsErase _ _
    | with_reducible exact cmdsReplace _ _ _
    | with_reducible exact cmdsNil _
    | split

theorem State.fillWindow_keeps {s0 s : State} (h : Keeps s0 s) (d : List Byte) :
    Keeps s0 (State.fillWindow s d) := by
  unfold State.fillWindow
  repeat' first
    | with_reducible first
      | assumption | (intro)
      | (extract_lets +onlyGivenNames x; first | (refine Keeps.cut x ?_ ?_; subst x; rotate_left; intro; clear_value x) | clear_value x)
      | apply State.each_keeps | apply State.setReg_keeps | apply Keeps.ite
    | split

theorem State.verifyFailed_keeps {s0 s : State} (h : Keeps s0 s)  :
    Keeps s0 (State.verifyFailed s) := by
  unfold State.verifyFailed
  repeat' first
    | with_reducible first
      | assumption | (intro) | apply State.bump_keeps | apply State.raise_keeps | apply Keeps.ite
    | split

theorem State.useSlot_keeps {s0 s : State} (h : Keeps s0 s) (slot : Nat) :
    Keeps s0 (State.useSlot s slot) := by
  unfold State.useSlot
  repeat' first
    | exact id | exact fun w => Sparse.set_wf w _ _ | exact fun w => Sparse.clear_wf w _ | exact fun w => Sparse.mapVals_wf w _
    | exact fun _ => rfl | exact fun w => Sparse.setRange_wf _ w _ | exact fun w => Sparse.foldl_set_wf _ _ _ w
    | with_reducible first
      | assumption | (intro)
      | (extract_lets +onlyGivenNames x; first | (refine Keeps.cut x ?_ ?_; subst x; rotate_left; intro; clear_value x) | subst x)
      | apply State.fset_keeps | apply Keeps.ite | (fail_if_no_progress apply Keeps.mk0)
    | with_reducible ((fail_if_success apply Keeps.mk0); apply Keeps.mk1)
    | split

theorem State.useFactory_keeps {s0 s : State} (h : Keeps s0 s)  :
    Keeps s0 (State.useFactory s) := by
  unfold State.useFactory
  repeat' first
    | exact id | exact fun w => Sparse.set_wf w _ _ | exact fun w => Sparse.clear_wf w _ | exact fun w => Sparse.mapVals_wf w _
    | exact fun _ => rfl | exact fun w => Sparse.setRange_wf _ w _ | exact fun w => Sparse.foldl_set_wf _ _ _ w
    | with_reducible first
      | assumption | (intro) | apply State.fset_keeps | apply State.raise_keeps | apply Keeps.ite
      | (fail_if_no_progress apply Keeps.mk0)
    | with_reducible ((fail_if_success apply Keeps.mk0); apply Keeps.mk1)
    | split

theorem State.loadConfig_keeps {s0 s : State} (h : Keeps s0 s)  :
    Keeps s0 (State.loadConfig s) := by
  unfold State.loadConfig
  repeat' first
    | with_reducible first
      | assumption | (intro)
      | (extract_lets +onlyGivenNames x; first | (refine Keeps.cut x ?_ ?_; subst x; rotate_left; intro; clear_value x) | clear_value x)
      | apply State.bumpBy_keeps | apply State.raise_keeps | apply State.useFactory_keeps | apply State.useSlot_keeps
      | apply State.when_keeps | apply Keeps.ite | (fail_if_no_progress apply Keeps.mk0)
    | split

theorem State.putKey_keeps {s0 s : State} (h : Keeps s0 s) (entry : Nat) (key : Option (List Byte)) :
    Keeps s0 (State.putKey s entry key) := by
  unfold State.putKey
  repeat' first
    | exact id | exact fun w => Sparse.set_wf w _ _ | exact fun w => Sparse.clear_wf w _ | exact fun w => Sparse.mapVals_wf w _
    | exact fun _ => rfl | exact fun w => Sparse.setRange_wf _ w _ | exact fun w => Sparse.foldl_set_wf _ _ _ w
    | with_reducible first
      | assumption | (intro)
      | (extract_lets +onlyGivenNames x; first | (refine Keeps.cut x ?_ ?_; subst x; rotate_left; intro; clear_value x) | (refine Keeps.cut x.2 ?_ ?_; subst x; rotate_left; intro; clear_value x) | (refine Keeps.cut x.1 ?_ ?_; subst x; rotate_left; intro; clear_value x) | subst x)
      | apply State.fresh_keeps | apply State.raise_keeps | apply Keeps.ite | apply Keeps.iteFst | apply Keeps.iteSnd
      | (fail_if_no_progress apply Keeps.mk0)
    | with_reducible ((fail_if_success apply Keeps.mk0); apply Keeps.mk1)
    | with_reducible (refine Keeps.ofFst (by assumption) ?_) | with_reducible (refine Keeps.ofSnd (by assumption) ?_)
    | split

theorem State.endKeySessions_keeps {s0 s : State} (h : Keeps s0 s) (entry : Nat) :
    Keeps s0 (State.endKeySessions s entry) := by
  unfold State.endKeySessions
  repeat' first
    | with_reducible first
      | assumption | (intro) | apply State.each_keeps | apply State.endSession_keeps | apply Keeps.ite
    | split

theorem State.keyLoad_keeps {s0 s : State} (h : Keeps s0 s) (view target : Nat) (w : List Byte) :
    Keeps s0 (State.keyLoad s view target w).2 := by
  unfold State.keyLoad
  repeat' first
    | with_reducible first
      | assumption | (intro)
      | (extract_lets +onlyGivenNames x; first | (refine Keeps.cut x ?_ ?_; subst x; rotate_left; intro; clear_value x) | clear_value x)
      | apply State.endKeySessions_keeps | apply State.putKey_keeps | apply State.setSession_keeps | apply Keeps.ite
      | apply Keeps.iteFst | apply Keeps.iteSnd | (fail_if_no_progress apply Keeps.mk0)
    | split

theorem State.enrol_keeps {s0 s : State} (h : Keeps s0 s) (view : Nat) (w : List Byte) :
    Keeps s0 (State.enrol s view w).2 := by
  unfold State.enrol
  repeat' first
    | exact id | exact fun w => Sparse.set_wf w _ _ | exact fun w => Sparse.clear_wf w _ | exact fun w => Sparse.mapVals_wf w _
    | exact fun _ => rfl | exact fun w => Sparse.setRange_wf _ w _ | exact fun w => Sparse.foldl_set_wf _ _ _ w
    | with_reducible first
      | assumption | (intro)
      | (extract_lets +onlyGivenNames x; first | (refine Keeps.cut x ?_ ?_; subst x; rotate_left; intro; clear_value x) | subst x)
      | apply State.endKeySessions_keeps | apply State.fset_keeps | apply State.putKey_keeps | apply Keeps.ite
      | apply Keeps.iteFst | apply Keeps.iteSnd | (fail_if_no_progress apply Keeps.mk0)
    | with_reducible ((fail_if_success apply Keeps.mk0); apply Keeps.mk1)
    | split

theorem State.release'_keeps {s0 s : State} (h : Keeps s0 s) (w : List Byte) :
    Keeps s0 (State.release' s w).2 := by
  unfold State.release'
  repeat' first
    | exact id | exact fun w => Sparse.set_wf w _ _ | exact fun w => Sparse.clear_wf w _ | exact fun w => Sparse.mapVals_wf w _
    | exact fun _ => rfl | exact fun w => Sparse.setRange_wf _ w _ | exact fun w => Sparse.foldl_set_wf _ _ _ w
    | with_reducible first
      | assumption | (intro)
      | (extract_lets +onlyGivenNames x; first | (refine Keeps.cut x ?_ ?_; subst x; rotate_left; intro; clear_value x) | subst x)
      | apply State.endKeySessions_keeps | apply State.fset_keeps | apply State.norErase_keeps | apply State.profileTakes_keeps
      | apply State.raise_keeps | apply State.useFactory_keeps | apply Keeps.ite | apply Keeps.iteFst | apply Keeps.iteSnd
      | (fail_if_no_progress apply Keeps.mk0)
    | with_reducible ((fail_if_success apply Keeps.mk0); apply Keeps.mk1)
    | split

theorem State.nvmRefuse_keeps {s0 s : State} (h : Keeps s0 s) (view off bytes status : Nat) :
    Keeps s0 (State.nvmRefuse s view off bytes status) := by
  unfold State.nvmRefuse
  repeat' first
    | with_reducible first
      | assumption | (intro) | apply State.regFault_keeps | apply Keeps.ite
    | split

theorem State.nvmResult_keeps {s0 s : State} (h : Keeps s0 s) (status : Nat) :
    Keeps s0 (State.nvmResult s status) := by
  unfold State.nvmResult
  repeat' first
    | with_reducible first
      | assumption | (intro) | apply State.fset_keeps | apply Keeps.ite
    | split

theorem State.startOp_keeps {s0 s : State} (h : Keeps s0 s) (code : Nat) (result : Nat) :
    Keeps s0 (State.startOp s code result) := by
  unfold State.startOp
  repeat' first
    | exact id | exact fun w => Sparse.set_wf w _ _ | exact fun w => Sparse.clear_wf w _ | exact fun w => Sparse.mapVals_wf w _
    | exact fun _ => rfl | exact fun w => Sparse.setRange_wf _ w _ | exact fun w => Sparse.foldl_set_wf _ _ _ w
    | with_reducible first
      | assumption | (intro)
      | (extract_lets +onlyGivenNames x; first | (refine Keeps.cut x ?_ ?_; subst x; rotate_left; intro; clear_value x) | subst x)
      | apply State.fset_keeps | apply Keeps.ite | (fail_if_no_progress apply Keeps.mk0)
    | with_reducible ((fail_if_success apply Keeps.mk0); apply Keeps.mk1)
    | split

theorem State.nvmSwitch_keeps {s0 s : State} (h : Keeps s0 s)  :
    Keeps s0 (State.nvmSwitch s) := by
  unfold State.nvmSwitch
  repeat' first
    | exact id | exact fun w => Sparse.set_wf w _ _ | exact fun w => Sparse.clear_wf w _ | exact fun w => Sparse.mapVals_wf w _
    | exact fun _ => rfl | exact fun w => Sparse.setRange_wf _ w _ | exact fun w => Sparse.foldl_set_wf _ _ _ w
    | with_reducible first
      | assumption | (intro)
      | (extract_lets +onlyGivenNames x; first | (refine Keeps.cut x ?_ ?_; subst x; rotate_left; intro; clear_value x) | subst x)
      | apply State.nvmResult_keeps | apply State.setUnit_keeps | apply State.setUnitRegion_keeps | apply Keeps.ite
      | (fail_if_no_progress apply Keeps.mk0)
    | with_reducible ((fail_if_success apply Keeps.mk0); apply Keeps.mk1)
    | split

theorem State.nextBoot_keeps {s0 s : State} (h : Keeps s0 s)  :
    Keeps s0 (State.nextBoot s) := by
  unfold State.nextBoot
  repeat' first
    | exact id | exact fun w => Sparse.set_wf w _ _ | exact fun w => Sparse.clear_wf w _ | exact fun w => Sparse.mapVals_wf w _
    | exact fun _ => rfl | exact fun w => Sparse.setRange_wf _ w _ | exact fun w => Sparse.foldl_set_wf _ _ _ w
    | with_reducible first
      | assumption | (intro) | apply State.endActivity_keeps | apply State.nvmResult_keeps
      | apply Keeps.ite | (fail_if_no_progress apply Keeps.mk0)
    | with_reducible ((fail_if_success apply Keeps.mk0); apply Keeps.mk1)
    | split

theorem State.nvmBegin_keeps {s0 s : State} (h : Keeps s0 s) (view off bytes : Nat) :
    Keeps s0 (State.nvmBegin s view off bytes) := by
  unfold State.nvmBegin
  repeat' first
    | exact id | exact fun w => Sparse.set_wf w _ _ | exact fun w => Sparse.clear_wf w _ | exact fun w => Sparse.mapVals_wf w _
    | exact fun _ => rfl | exact fun w => Sparse.setRange_wf _ w _ | exact fun w => Sparse.foldl_set_wf _ _ _ w
    | with_reducible first
      | assumption | (intro)
      | (extract_lets +onlyGivenNames x; first | (refine Keeps.cut x ?_ ?_; subst x; rotate_left; intro; clear_value x) | subst x)
      | apply State.lockBusy_keeps | apply State.nvmRefuse_keeps | apply State.nvmResult_keeps | apply State.takeLock_keeps
      | apply Keeps.ite | (fail_if_no_progress apply Keeps.mk0)
    | with_reducible ((fail_if_success apply Keeps.mk0); apply Keeps.mk1)
    | split

theorem State.activityOp_keeps {s0 s : State} (h : Keeps s0 s) (view off bytes code target : Nat) :
    Keeps s0 (State.activityOp s view off bytes code target) := by
  unfold State.activityOp
  repeat' first
    | with_reducible first
      | assumption | (intro)
      | (extract_lets +onlyGivenNames x; first | (refine Keeps.cut x ?_ ?_; subst x; rotate_left; intro; clear_value x) | (refine Keeps.cut x.2 ?_ ?_; subst x; rotate_left; intro; clear_value x) | (refine Keeps.cut x.1 ?_ ?_; subst x; rotate_left; intro; clear_value x) | subst x)
      | apply State.endActivityOf_keeps | apply State.enrol_keeps | apply State.keyLoad_keeps | apply State.nextBoot_keeps
      | apply State.nvmRefuse_keeps | apply State.nvmResult_keeps | apply State.nvmSwitch_keeps | apply State.release'_keeps
      | apply State.startOp_keeps | apply Keeps.ite | apply Keeps.iteFst | apply Keeps.iteSnd
      | (fail_if_no_progress apply Keeps.mk0)
    | with_reducible (refine Keeps.ofFst (by assumption) ?_) | with_reducible (refine Keeps.ofSnd (by assumption) ?_)
    | split

theorem State.writeNvmOp_keeps {s0 s : State} (h : Keeps s0 s) (view off bytes v : Nat) :
    Keeps s0 (State.writeNvmOp s view off bytes v) := by
  unfold State.writeNvmOp
  repeat' first
    | with_reducible first
      | assumption | (intro)
      | (extract_lets +onlyGivenNames x; first | (refine Keeps.cut x ?_ ?_; subst x; rotate_left; intro; clear_value x) | clear_value x)
      | apply State.activityOp_keeps | apply State.nvmBegin_keeps | apply State.nvmRefuse_keeps | apply State.startOp_keeps
      | apply Keeps.ite | (fail_if_no_progress apply Keeps.mk0)
    | split

theorem State.program_keeps {s0 s : State} (h : Keeps s0 s) (a : Nat) (d : List Byte) :
    Keeps s0 (s.program a d) :=
  Keeps.mk2 (State.norPut_keeps h _ _) (Nat.le_max_left _ _) (Nat.le_add_right _ _)

theorem State.commitConfig_keeps {s0 s : State} (h : Keeps s0 s)  :
    Keeps s0 (State.commitConfig s).2 := by
  unfold State.commitConfig
  repeat' first
    | with_reducible first
      | assumption | (intro)
      | (extract_lets +onlyGivenNames x; first | (refine Keeps.cut x ?_ ?_; subst x; rotate_left; intro; clear_value x) | clear_value x)
      | apply State.profileTakes_keeps | apply State.raise_keeps | apply State.useSlot_keeps | apply State.verifyFailed_keeps
      | apply State.when_keeps | apply Keeps.ite | apply Keeps.iteFst | apply Keeps.iteSnd
    | split

theorem State.setNvm_keeps {s0 s : State} (h : Keeps s0 s) (v : Nvm) (e : v.nor = s.nvm.nor) :
    Keeps s0 { s with nvm := v } :=
  Keeps.mk1 h id id id id id id id id id id id id id (fun w => e ▸ w)

theorem State.endOp_keeps {s0 s : State} (h : Keeps s0 s) (op : NvmOp) : Keeps s0 (State.endOp s op).2 := by
  have n1 : ∀ b : Bool, Keeps s0 { s with nvm := { s.nvm with verified := b } } := fun b => State.setNvm_keeps h _ rfl
  have f1 : Keeps s0 { s with freeCtr := s.freeCtr + 1 } := Keeps.mk2 h (Nat.le_max_left _ _) (Nat.le_succ _)
  have v1 : Keeps s0 s.verifyFailed := State.verifyFailed_keeps h
  have r1 : Keeps s0 { s with nvm := { s.nvm with report := s.attestReport } } := State.setNvm_keeps h _ rfl
  have c1 : Keeps s0 s.commitConfig.2 := State.commitConfig_keeps h
  have e1 := State.norErase_keeps (n1 false) op.addr op.len
  have p1 := State.program_keeps (n1 false) op.addr op.data
  have w1 := State.fillWindow_keeps f1 ((List.range op.len).map fun i => s.norRead (op.addr + i))
  unfold State.endOp
  split
  · exact e1
  · exact p1
  · dsimp only
    exact w1
  · split
    · exact n1 s.nvm.activity.isSome
    · exact v1
  · exact c1
  · exact r1
  · exact h

theorem execNvmOpDone_keeps {s0 s : State} (h : Keeps s0 s) (fail : Bool) :
    KeepsOut s0 (execNvmOpDone fail s) := by
  unfold execNvmOpDone
  repeat' first
    | exact id | exact fun w => Sparse.set_wf w _ _ | exact fun w => Sparse.clear_wf w _ | exact fun w => Sparse.mapVals_wf w _
    | exact fun _ => rfl | exact fun w => Sparse.setRange_wf _ w _ | exact fun w => Sparse.foldl_set_wf _ _ _ w
    | with_reducible first
      | assumption | (intro)
      | (extract_lets +onlyGivenNames x; first | (refine Keeps.cut x ?_ ?_; subst x; rotate_left; intro; clear_value x) | (refine Keeps.cut x.2 ?_ ?_; subst x; rotate_left; intro; clear_value x) | (refine Keeps.cut x.1 ?_ ?_; subst x; rotate_left; intro; clear_value x) | (refine KeepsOut.cut x ?_ ?_; subst x; rotate_left; intro; clear_value x) | (refine KeepsOut.cut x.2 ?_ ?_; subst x; rotate_left; intro; clear_value x) | subst x)
      | apply guardUnit_keeps | apply KeepsOut.next | exact KeepsOut.fault | apply KeepsOut.ite | apply State.bump_keeps
      | apply State.endOp_keeps | apply State.fail_keeps | apply State.free_keeps | apply State.fresh_keeps
      | apply State.fset_keeps | apply State.norPut_keeps | apply State.nvmResult_keeps | apply Keeps.ite | apply Keeps.iteFst
      | apply Keeps.iteSnd | (fail_if_no_progress apply Keeps.mk0)
    | with_reducible ((fail_if_success apply Keeps.mk0); apply Keeps.mk1)
    | with_reducible (refine Keeps.ofFst (by assumption) ?_) | with_reducible (refine Keeps.ofSnd (by assumption) ?_)
    | split

theorem execUpdateSecondUnit_keeps {s0 s : State} (h : Keeps s0 s)  :
    KeepsOut s0 (execUpdateSecondUnit s) := by
  unfold execUpdateSecondUnit
  repeat' first
    | with_reducible first
      | assumption | (intro) | apply guardUnit_keeps | apply KeepsOut.next | exact KeepsOut.fault
      | apply KeepsOut.ite | apply State.setUnit_keeps | apply State.setUnitRegion_keeps | apply Keeps.ite
    | split

theorem execUpdateAbandon_keeps {s0 s : State} (h : Keeps s0 s)  :
    KeepsOut s0 (execUpdateAbandon s) := by
  unfold execUpdateAbandon
  repeat' first
    | with_reducible first
      | assumption | (intro) | apply guardUnit_keeps | apply KeepsOut.next | exact KeepsOut.fault
      | apply KeepsOut.ite | apply State.abandonSwitch_keeps | apply State.endActivity_keeps | apply Keeps.ite
    | split

end Sys2Proof.Machine
end

