-- ==== Sys2Proof/Laws/KeepRegRead.lean ====
section
/-! SUPPORT. What the operations of Machine/RegRead.lean keep (see Laws/Keep.lean). -/

set_option linter.all false

namespace Sys2Proof.Machine

theorem State.readEffect_keeps {s0 s : State} (h : Keeps s0 s) (view page off : Nat) :
    Keeps s0 (State.readEffect s view page off) := by
  unfold State.readEffect
  repeat' first
    | with_reducible first
      | assumption | (intro) | apply State.fset_keeps | apply Keeps.ite
      | (fail_if_no_progress apply Keeps.mk0) | (fail_if_no_progress apply Keeps.mk2)
    | with_reducible exact Nat.le_max_left _ _
    | with_reducible exact Nat.le_refl _
    | with_reducible exact Nat.le_add_right _ _
    | with_reducible exact cmdsMap _ _
    | with_reducible exact cmdsFilterMap _ _ _
    | with_reducible exact cmdsErase _ _
    | with_reducible exact cmdsReplace _ _ _
    | with_reducible exact cmdsNil _
    | split

theorem State.setLatch_keeps {s0 s : State} (h : Keeps s0 s) (view page : Nat) (h : Option Half) :
    Keeps s0 (State.setLatch s view page h) := by
  unfold State.setLatch
  repeat' first
    | with_reducible first
      | assumption | (intro) | apply Keeps.ite | (fail_if_no_progress apply Keeps.mk0)
    | split

theorem State.readAt_keeps {s0 s : State} (h : Keeps s0 s) (view page off bytes : Nat) :
    Keeps s0 (State.readAt s view page off bytes).2 := by
  unfold State.readAt
  repeat' first
    | with_reducible first
      | assumption | (intro)
      | (extract_lets +onlyGivenNames x; first | (refine Keeps.cut x ?_ ?_; subst x; rotate_left; intro; clear_value x) | clear_value x)
      | apply State.readEffect_keeps | apply State.setLatch_keeps | apply State.when_keeps | apply Keeps.ite | apply Keeps.iteFst
      | apply Keeps.iteSnd | (fail_if_no_progress apply Keeps.mk0)
    | split

theorem State.refuse_keeps {s0 s : State} (h : Keeps s0 s) (view off bytes : Nat) (write : Bool) (status : Nat) :
    Keeps s0 (State.refuse s view off bytes write status) := by
  unfold State.refuse
  repeat' first
    | with_reducible first
      | assumption | (intro)
      | (extract_lets +onlyGivenNames x; first | (refine Keeps.cut x ?_ ?_; subst x; rotate_left; intro; clear_value x) | clear_value x)
      | apply State.bump_keeps | apply State.regFault_keeps | apply State.when_keeps | apply Keeps.ite
    | split

theorem State.regRead_keeps {s0 s : State} (h : Keeps s0 s) (view off bytes : Nat) :
    Keeps s0 (State.regRead s view off bytes).2 := by
  unfold State.regRead
  repeat' first
    | with_reducible first
      | assumption | (intro)
      | (extract_lets +onlyGivenNames x; first | (refine Keeps.cut x ?_ ?_; subst x; rotate_left; intro; clear_value x) | (refine Keeps.cut x.2 ?_ ?_; subst x; rotate_left; intro; clear_value x) | (refine Keeps.cut x.1 ?_ ?_; subst x; rotate_left; intro; clear_value x) | clear_value x)
      | apply State.readAt_keeps | apply State.refuse_keeps | apply Keeps.ite | apply Keeps.iteFst | apply Keeps.iteSnd
      | (fail_if_no_progress apply Keeps.mk0)
    | with_reducible (refine Keeps.ofFst (by assumption) ?_) | with_reducible (refine Keeps.ofSnd (by assumption) ?_)
    | split

theorem State.answerRead_keeps {s0 s : State} (h : Keeps s0 s) (view off bytes : Nat) :
    Keeps s0 (State.answerRead s view off bytes) := by
  unfold State.answerRead
  repeat' first
    | with_reducible first
      | assumption | (intro)
      | (extract_lets +onlyGivenNames x; first | (refine Keeps.cut x ?_ ?_; subst x; rotate_left; intro; clear_value x) | (refine Keeps.cut x.2 ?_ ?_; subst x; rotate_left; intro; clear_value x) | (refine Keeps.cut x.1 ?_ ?_; subst x; rotate_left; intro; clear_value x) | clear_value x)
      | apply State.emit_keeps | apply State.regRead_keeps | apply Keeps.ite | apply Keeps.iteFst | apply Keeps.iteSnd
      | (fail_if_no_progress apply Keeps.mk0)
    | with_reducible (refine Keeps.ofFst (by assumption) ?_) | with_reducible (refine Keeps.ofSnd (by assumption) ?_)
    | split

theorem readRow_keeps {s0 s : State} (h : Keeps s0 s) (view off bytes : Nat) (cond : Bool) :
    KeepsOut s0 (readRow view off bytes cond s) := by
  unfold readRow
  repeat' first
    | with_reducible first
      | assumption | (intro) | apply guardUnit_keeps | apply KeepsOut.next | exact KeepsOut.fault
      | apply KeepsOut.ite | apply State.answerRead_keeps | apply Keeps.ite
    | split

theorem execSplitLowRead_keeps {s0 s : State} (h : Keeps s0 s) (view off bytes : Nat) :
    KeepsOut s0 (execSplitLowRead view off bytes s) := by
  unfold execSplitLowRead
  repeat' first
    | with_reducible first
      | assumption | (intro) | apply KeepsOut.next | exact KeepsOut.fault | apply KeepsOut.ite
      | apply readRow_keeps | apply Keeps.ite
    | split

theorem execSplitHighRead_keeps {s0 s : State} (h : Keeps s0 s) (view off bytes : Nat) :
    KeepsOut s0 (execSplitHighRead view off bytes s) := by
  unfold execSplitHighRead
  repeat' first
    | with_reducible first
      | assumption | (intro) | apply KeepsOut.next | exact KeepsOut.fault | apply KeepsOut.ite
      | apply readRow_keeps | apply Keeps.ite
    | split

theorem execDumpDataRead_keeps {s0 s : State} (h : Keeps s0 s) (view off bytes : Nat) :
    KeepsOut s0 (execDumpDataRead view off bytes s) := by
  unfold execDumpDataRead
  repeat' first
    | with_reducible first
      | assumption | (intro) | apply KeepsOut.next | exact KeepsOut.fault | apply KeepsOut.ite
      | apply readRow_keeps | apply Keeps.ite
    | split

theorem execRptDataRead_keeps {s0 s : State} (h : Keeps s0 s) (view off bytes : Nat) :
    KeepsOut s0 (execRptDataRead view off bytes s) := by
  unfold execRptDataRead
  repeat' first
    | with_reducible first
      | assumption | (intro) | apply KeepsOut.next | exact KeepsOut.fault | apply KeepsOut.ite
      | apply readRow_keeps | apply Keeps.ite
    | split

theorem execCalenderPeakRead_keeps {s0 s : State} (h : Keeps s0 s) (view off bytes : Nat) (same : Bool) :
    KeepsOut s0 (execCalenderPeakRead view off bytes same s) := by
  unfold execCalenderPeakRead
  repeat' first
    | with_reducible first
      | assumption | (intro) | apply guardUnit_keeps | apply KeepsOut.next | exact KeepsOut.fault
      | apply KeepsOut.ite | apply State.answerRead_keeps | apply State.fset_keeps | apply State.when_keeps | apply Keeps.ite
    | split

theorem execRegisterReadRefused_keeps {s0 s : State} (h : Keeps s0 s) (view off bytes : Nat) :
    KeepsOut s0 (execRegisterReadRefused view off bytes s) := by
  unfold execRegisterReadRefused
  repeat' first
    | with_reducible first
      | assumption | (intro) | apply KeepsOut.next | exact KeepsOut.fault | apply KeepsOut.ite
      | apply readRow_keeps | apply Keeps.ite | (fail_if_no_progress apply Keeps.mk0)
    | split

end Sys2Proof.Machine
end

