-- ==== Sys2Proof/Laws/KeepRegWrite.lean ====
section
/-! SUPPORT. What the operations of Machine/RegWrite.lean keep (see Laws/Keep.lean). -/

set_option linter.all false

namespace Sys2Proof.Machine

theorem State.deliverOn_keeps {s0 s : State} (h : Keeps s0 s) (view page : Nat) {f : State → State} (hf : ∀ t, Keeps s0 t → Keeps s0 (f t)) :
    Keeps s0 (s.deliverOn view page f) := by
  exact State.when_keeps (fun t k => State.notify_keeps k _ _) (hf s h)

theorem State.setFreeze_keeps {s0 s : State} (h : Keeps s0 s) (view page : Nat) (on : Bool) :
    Keeps s0 (State.setFreeze s view page on) := by
  unfold State.setFreeze
  repeat' first
    | with_reducible first
      | assumption | (intro)
      | (extract_lets +onlyGivenNames x; first | (refine Keeps.cut x ?_ ?_; subst x; rotate_left; intro; clear_value x) | (refine Keeps.cut x.2 ?_ ?_; subst x; rotate_left; intro; clear_value x) | (refine Keeps.cut x.1 ?_ ?_; subst x; rotate_left; intro; clear_value x) | clear_value x)
      | apply State.setReg_keeps | apply Keeps.ite | (fail_if_no_progress apply Keeps.mk0)
    | with_reducible (refine Keeps.ofFst (by assumption) ?_) | with_reducible (refine Keeps.ofSnd (by assumption) ?_)
    | split

theorem State.writeHeader_keeps {s0 s : State} (h : Keeps s0 s) (view page off v : Nat) :
    Keeps s0 (State.writeHeader s view page off v) := by
  unfold State.writeHeader
  repeat' first
    | with_reducible first
      | assumption | (intro)
      | (extract_lets +onlyGivenNames x; first | (refine Keeps.cut x ?_ ?_; subst x; rotate_left; intro; clear_value x) | clear_value x)
      | apply State.deliverOn_keeps | apply State.setFreeze_keeps | apply State.setReg_keeps | apply Keeps.ite
    | split

theorem State.writePlain_keeps {s0 s : State} (h : Keeps s0 s) (view page off mask v : Nat) :
    Keeps s0 (State.writePlain s view page off mask v) := by
  unfold State.writePlain
  repeat' first
    | with_reducible first
      | assumption | (intro)
      | (extract_lets +onlyGivenNames x; first | (refine Keeps.cut x ?_ ?_; subst x; rotate_left; intro; clear_value x) | clear_value x)
      | apply State.setReg_keeps | apply Keeps.ite | (fail_if_no_progress apply Keeps.mk0)
    | split

theorem State.writeLimited_keeps {s0 s : State} (h : Keeps s0 s) (view page off mask v : Nat) (fields : List (Nat × Nat × Bool)) :
    Keeps s0 (State.writeLimited s view page off mask v fields) := by
  unfold State.writeLimited
  repeat' first
    | with_reducible first
      | assumption | (intro)
      | (extract_lets +onlyGivenNames x; first | (refine Keeps.cut x ?_ ?_; subst x; rotate_left; intro; clear_value x) | (refine Keeps.cut x.2 ?_ ?_; subst x; rotate_left; intro; clear_value x) | (refine Keeps.cut x.1 ?_ ?_; subst x; rotate_left; intro; clear_value x) | clear_value x)
      | apply State.writePlain_keeps | apply Keeps.foldl | apply Keeps.foldlFst | apply Keeps.foldlSnd | apply Keeps.ite
    | with_reducible (refine Keeps.ofFst (by assumption) ?_) | with_reducible (refine Keeps.ofSnd (by assumption) ?_)
    | split

theorem State.writeBrokeIdx_keeps {s0 s : State} (h : Keeps s0 s) (view v : Nat) :
    Keeps s0 (State.writeBrokeIdx s view v) := by
  unfold State.writeBrokeIdx
  repeat' first
    | with_reducible first
      | assumption | (intro)
      | (extract_lets +onlyGivenNames x; first | (refine Keeps.cut x ?_ ?_; subst x; rotate_left; intro; clear_value x) | (refine Keeps.cut x.2 ?_ ?_; subst x; rotate_left; intro; clear_value x) | (refine Keeps.cut x.1 ?_ ?_; subst x; rotate_left; intro; clear_value x) | clear_value x)
      | apply State.setReg_keeps | apply Keeps.ite
    | with_reducible (refine Keeps.ofFst (by assumption) ?_) | with_reducible (refine Keeps.ofSnd (by assumption) ?_)
    | split

theorem State.writeFlogIdx_keeps {s0 s : State} (h : Keeps s0 s) (view v : Nat) :
    Keeps s0 (State.writeFlogIdx s view v) := by
  unfold State.writeFlogIdx
  repeat' first
    | with_reducible first
      | assumption | (intro)
      | (extract_lets +onlyGivenNames x; first | (refine Keeps.cut x ?_ ?_; subst x; rotate_left; intro; clear_value x) | clear_value x)
      | apply State.each_keeps | apply State.setReg_keeps | apply Keeps.ite
    | split

theorem State.writeReset_keeps {s0 s : State} (h : Keeps s0 s) (view off bytes v : Nat) :
    Keeps s0 (State.writeReset s view off bytes v) := by
  unfold State.writeReset
  repeat' first
    | with_reducible first
      | assumption | (intro)
      | (extract_lets +onlyGivenNames x; first | (refine Keeps.cut x ?_ ?_; subst x; rotate_left; intro; clear_value x) | (refine Keeps.cut x.2 ?_ ?_; subst x; rotate_left; intro; clear_value x) | (refine Keeps.cut x.1 ?_ ?_; subst x; rotate_left; intro; clear_value x) | clear_value x)
      | apply State.askDump_keeps | apply State.askTier_keeps | apply State.regFault_keeps | apply State.writeBusy_keeps
      | apply Keeps.ite | apply Keeps.iteFst | apply Keeps.iteSnd
    | with_reducible (refine Keeps.ofFst (by assumption) ?_) | with_reducible (refine Keeps.ofSnd (by assumption) ?_)
    | split

theorem State.writeTfence_keeps {s0 s : State} (h : Keeps s0 s) (view off bytes v : Nat) :
    Keeps s0 (State.writeTfence s view off bytes v) := by
  unfold State.writeTfence
  repeat' first
    | with_reducible first
      | assumption | (intro)
      | (extract_lets +onlyGivenNames x; first | (refine Keeps.cut x ?_ ?_; subst x; rotate_left; intro; clear_value x) | clear_value x)
      | apply State.askFence_keeps | apply State.askReturn_keeps | apply State.regFault_keeps | apply Keeps.ite
    | split

theorem State.writeDumpValid_keeps {s0 s : State} (h : Keeps s0 s) (view mask v : Nat) :
    Keeps s0 (State.writeDumpValid s view mask v) := by
  unfold State.writeDumpValid
  repeat' first
    | with_reducible first
      | assumption | (intro)
      | (extract_lets +onlyGivenNames x; first | (refine Keeps.cut x ?_ ?_; subst x; rotate_left; intro; clear_value x) | clear_value x)
      | apply State.when_keeps | apply State.writePlain_keeps | apply Keeps.ite | (fail_if_no_progress apply Keeps.mk0)
    | split

theorem State.writeRstctl_keeps {s0 s : State} (h : Keeps s0 s) (view off bytes reg mask v : Nat) :
    Keeps s0 (State.writeRstctl s view off bytes reg mask v) := by
  unfold State.writeRstctl
  repeat' first
    | with_reducible first
      | assumption | (intro) | apply State.writeBrokeIdx_keeps | apply State.writeDumpValid_keeps
      | apply State.writeFlogIdx_keeps | apply State.writeLimited_keeps | apply State.writePlain_keeps
      | apply State.writeReset_keeps | apply State.writeTfence_keeps | apply Keeps.ite | (fail_if_no_progress apply Keeps.mk0)
    | split

theorem State.writeMeasIdx_keeps {s0 s : State} (h : Keeps s0 s) (view v : Nat) :
    Keeps s0 (State.writeMeasIdx s view v) := by
  unfold State.writeMeasIdx
  repeat' first
    | with_reducible first
      | assumption | (intro)
      | (extract_lets +onlyGivenNames x; first | (refine Keeps.cut x ?_ ?_; subst x; rotate_left; intro; clear_value x) | clear_value x)
      | apply State.each_keeps | apply State.setReg_keeps | apply Keeps.ite
    | split

theorem State.writeNvm_keeps {s0 s : State} (h : Keeps s0 s) (view off bytes reg mask v : Nat) :
    Keeps s0 (State.writeNvm s view off bytes reg mask v) := by
  unfold State.writeNvm
  repeat' first
    | with_reducible first
      | assumption | (intro)
      | (extract_lets +onlyGivenNames x; first | (refine Keeps.cut x ?_ ?_; subst x; rotate_left; intro; clear_value x) | subst x)
      | apply State.nvmRefuse_keeps | apply State.selectProfile_keeps | apply State.setReg_keeps | apply State.writeMeasIdx_keeps
      | apply State.writeNvmOp_keeps | apply State.writePlain_keeps | apply Keeps.ite | (fail_if_no_progress apply Keeps.mk0)
    | split

theorem State.dropAdmin_keeps {s0 s : State} (h : Keeps s0 s) (fn : Nat) (q : Queue) (p : Cmd → Bool) (f : Cmd → Cmd) :
    Keeps s0 { s.setQueue fn 0 q with cmds := (s.cmds.filter p).map f } :=
  Keeps.mk2 (State.setQueue_keeps h fn 0 q) (cmdsFilterMap f p s.cmds) (Nat.le_refl _)

theorem State.writeAq_keeps {s0 s : State} (h : Keeps s0 s) (copy page off fn mask v : Nat) :
    Keeps s0 (State.writeAq s copy page off fn mask v) := by
  unfold State.writeAq
  extract_lets old w ef e base s1 q qr made keep
  have k : Keeps s0 s1 := State.setReg_keeps h _ _ _ _
  exact Keeps.ite (State.dropAdmin_keeps k fn made _ _) (Keeps.ite (State.setQueue_keeps k _ _ _)
    (State.setQueue_keeps k _ _ _))

theorem State.writeCxlpAq_keeps {s0 s : State} (h : Keeps s0 s) (view mask v : Nat) :
    Keeps s0 (State.writeCxlpAq s view mask v) := by
  unfold State.writeCxlpAq
  repeat' first
    | with_reducible first
      | assumption | (intro)
      | (extract_lets +onlyGivenNames x; first | (refine Keeps.cut x ?_ ?_; subst x; rotate_left; intro; clear_value x) | clear_value x)
      | apply State.writeAq_keeps | apply Keeps.ite
    | split

theorem State.writeDeckleAq_keeps {s0 s : State} (h : Keeps s0 s) (view mask v : Nat) :
    Keeps s0 (State.writeDeckleAq s view mask v) := by
  unfold State.writeDeckleAq
  repeat' first
    | with_reducible first
      | assumption | (intro)
      | (extract_lets +onlyGivenNames x; first | (refine Keeps.cut x ?_ ?_; subst x; rotate_left; intro; clear_value x) | clear_value x)
      | apply State.writeAq_keeps | apply Keeps.ite
    | split

theorem State.writeTimers_keeps {s0 s : State} (h : Keeps s0 s) (view mask v : Nat) :
    Keeps s0 (State.writeTimers s view mask v) := by
  unfold State.writeTimers
  repeat' first
    | with_reducible first
      | assumption | (intro)
      | (extract_lets +onlyGivenNames x; first | (refine Keeps.cut x ?_ ?_; subst x; rotate_left; intro; clear_value x) | clear_value x)
      | apply State.writeLimited_keeps | apply Keeps.ite
    | split

theorem State.writeJrnlBase_keeps {s0 s : State} (h : Keeps s0 s) (view off bytes mask v : Nat) :
    Keeps s0 (State.writeJrnlBase s view off bytes mask v) := by
  unfold State.writeJrnlBase
  repeat' first
    | with_reducible first
      | assumption | (intro)
      | (extract_lets +onlyGivenNames x; first | (refine Keeps.cut x ?_ ?_; subst x; rotate_left; intro; clear_value x) | (refine Keeps.cut x.2 ?_ ?_; subst x; rotate_left; intro; clear_value x) | (refine Keeps.cut x.1 ?_ ?_; subst x; rotate_left; intro; clear_value x) | clear_value x)
      | apply State.regFault_keeps | apply State.setReg_keeps | apply Keeps.ite | (fail_if_no_progress apply Keeps.mk0)
    | with_reducible (refine Keeps.ofFst (by assumption) ?_) | with_reducible (refine Keeps.ofSnd (by assumption) ?_)
    | split

theorem State.writeJrnlCfg_keeps {s0 s : State} (h : Keeps s0 s) (view off bytes v : Nat) :
    Keeps s0 (State.writeJrnlCfg s view off bytes v) := by
  unfold State.writeJrnlCfg
  repeat' first
    | with_reducible first
      | assumption | (intro)
      | (extract_lets +onlyGivenNames x; first | (refine Keeps.cut x ?_ ?_; subst x; rotate_left; intro; clear_value x) | (refine Keeps.cut x.2 ?_ ?_; subst x; rotate_left; intro; clear_value x) | (refine Keeps.cut x.1 ?_ ?_; subst x; rotate_left; intro; clear_value x) | clear_value x)
      | apply State.fset_keeps | apply State.regFault_keeps | apply State.setReg_keeps | apply Keeps.ite
      | (fail_if_no_progress apply Keeps.mk0)
    | with_reducible (refine Keeps.ofFst (by assumption) ?_) | with_reducible (refine Keeps.ofSnd (by assumption) ?_)
    | split

theorem State.writePortCfg_keeps {s0 s : State} (h : Keeps s0 s) (p mask v : Nat) :
    Keeps s0 (State.writePortCfg s p mask v) := by
  unfold State.writePortCfg
  repeat' first
    | with_reducible first
      | assumption | (intro)
      | (extract_lets +onlyGivenNames x; first | (refine Keeps.cut x ?_ ?_; subst x; rotate_left; intro; clear_value x) | clear_value x)
      | apply State.portStart_keeps | apply State.toOff_keeps | apply State.writePlain_keeps | apply Keeps.ite
    | split

theorem State.writePortCtrl_keeps {s0 s : State} (h : Keeps s0 s) (view off bytes p v : Nat) :
    Keeps s0 (State.writePortCtrl s view off bytes p v) := by
  unfold State.writePortCtrl
  repeat' first
    | with_reducible first
      | assumption | (intro)
      | (extract_lets +onlyGivenNames x; first | (refine Keeps.cut x ?_ ?_; subst x; rotate_left; intro; clear_value x) | clear_value x)
      | apply State.modPort_keeps | apply State.takeLock_keeps | apply State.toDetect_keeps | apply State.writeBusy_keeps
      | apply Keeps.ite | (fail_if_no_progress apply Keeps.mk0)
    | split

theorem State.writeMdio_keeps {s0 s : State} (h : Keeps s0 s) (p mask v : Nat) :
    Keeps s0 (State.writeMdio s p mask v) := by
  unfold State.writeMdio
  repeat' first
    | with_reducible first
      | assumption | (intro)
      | (extract_lets +onlyGivenNames x; first | (refine Keeps.cut x ?_ ?_; subst x; rotate_left; intro; clear_value x) | (refine Keeps.cut x.2 ?_ ?_; subst x; rotate_left; intro; clear_value x) | (refine Keeps.cut x.1 ?_ ?_; subst x; rotate_left; intro; clear_value x) | clear_value x)
      | apply State.free_keeps | apply State.fset_keeps | apply State.modPort_keeps | apply State.writePlain_keeps
      | apply Keeps.ite | apply Keeps.iteFst | apply Keeps.iteSnd | (fail_if_no_progress apply Keeps.mk0)
    | with_reducible (refine Keeps.ofFst (by assumption) ?_) | with_reducible (refine Keeps.ofSnd (by assumption) ?_)
    | split

theorem State.writeCalender_keeps {s0 s : State} (h : Keeps s0 s) (view off bytes reg mask v : Nat) :
    Keeps s0 (State.writeCalender s view off bytes reg mask v) := by
  unfold State.writeCalender
  repeat' first
    | with_reducible first
      | assumption | (intro) | apply State.regFault_keeps | apply State.writeLimited_keeps
      | apply State.writePlain_keeps | apply Keeps.ite
    | split

theorem State.writeBody_keeps {s0 s : State} (h : Keeps s0 s) (view off bytes page reg mask v : Nat) :
    Keeps s0 (State.writeBody s view off bytes page reg mask v) := by
  unfold State.writeBody
  repeat' first
    | with_reducible first
      | assumption | (intro) | apply State.writeCalender_keeps | apply State.writeCxlpAq_keeps
      | apply State.writeDeckleAq_keeps | apply State.writeEnables_keeps | apply State.writeJrnlBase_keeps
      | apply State.writeJrnlCfg_keeps | apply State.writeLimited_keeps | apply State.writeMdio_keeps | apply State.writeNvm_keeps
      | apply State.writePlain_keeps | apply State.writePortCfg_keeps | apply State.writePortCtrl_keeps
      | apply State.writeRstctl_keeps | apply State.writeSrc_keeps | apply State.writeTimers_keeps | apply Keeps.ite
    | split

theorem State.writeReg_keeps {s0 s : State} (h : Keeps s0 s) (view off bytes page reg mask v : Nat) :
    Keeps s0 (State.writeReg s view off bytes page reg mask v) := by
  unfold State.writeReg
  repeat' first
    | with_reducible first
      | assumption | (intro) | apply State.setReg_keeps | apply State.when_keeps
      | apply State.writeBody_keeps | apply State.writeHeader_keeps | apply Keeps.ite
    | split

theorem State.setHeld_keeps {s0 s : State} (h : Keeps s0 s) (view page : Nat) (h : Option Half) :
    Keeps s0 (State.setHeld s view page h) := by
  unfold State.setHeld
  repeat' first
    | with_reducible first
      | assumption | (intro) | apply Keeps.ite | (fail_if_no_progress apply Keeps.mk0)
    | split

theorem State.writeAt_keeps {s0 s : State} (h : Keeps s0 s) (view off bytes v : Nat) :
    Keeps s0 (State.writeAt s view off bytes v) := by
  unfold State.writeAt
  repeat' first
    | with_reducible first
      | assumption | (intro)
      | (extract_lets +onlyGivenNames x; first | (refine Keeps.cut x ?_ ?_; subst x; rotate_left; intro; clear_value x) | clear_value x)
      | apply State.setHeld_keeps | apply State.writeReg_keeps | apply Keeps.ite | (fail_if_no_progress apply Keeps.mk0)
    | split

theorem State.regWrite_keeps {s0 s : State} (h : Keeps s0 s) (view off bytes v : Nat) :
    Keeps s0 (State.regWrite s view off bytes v).2 := by
  unfold State.regWrite
  repeat' first
    | with_reducible first
      | assumption | (intro) | apply State.refuse_keeps | apply State.setHeld_keeps
      | apply State.writeAt_keeps | apply Keeps.ite | apply Keeps.iteFst | apply Keeps.iteSnd
      | (fail_if_no_progress apply Keeps.mk0)
    | split

theorem writeRow_keeps {s0 s : State} (h : Keeps s0 s) (view off bytes : Nat) (data : Word) (cond : Bool) :
    KeepsOut s0 (writeRow view off bytes data cond s) := by
  unfold writeRow
  repeat' first
    | with_reducible first
      | assumption | (intro) | apply guardUnit_keeps | apply KeepsOut.next | exact KeepsOut.fault
      | apply KeepsOut.ite | apply State.regWrite_keeps | apply Keeps.ite | apply Keeps.iteFst | apply Keeps.iteSnd
    | with_reducible (refine Keeps.ofFst (by assumption) ?_) | with_reducible (refine Keeps.ofSnd (by assumption) ?_)
    | split

theorem execRegisterWrite_keeps {s0 s : State} (h : Keeps s0 s) (view off bytes : Nat) (data : Word) :
    KeepsOut s0 (execRegisterWrite view off bytes data s) := by
  unfold execRegisterWrite
  repeat' first
    | with_reducible first
      | assumption | (intro) | apply KeepsOut.next | exact KeepsOut.fault | apply KeepsOut.ite
      | apply writeRow_keeps | apply Keeps.ite
    | split

theorem execSplitLowWrite_keeps {s0 s : State} (h : Keeps s0 s) (view off : Nat) (data : BitVec 32) :
    KeepsOut s0 (execSplitLowWrite view off data s) := by
  unfold execSplitLowWrite
  repeat' first
    | with_reducible first
      | assumption | (intro) | apply KeepsOut.next | exact KeepsOut.fault | apply KeepsOut.ite
      | apply writeRow_keeps | apply Keeps.ite
    | split

theorem execSplitHighWrite_keeps {s0 s : State} (h : Keeps s0 s) (view off : Nat) (data : BitVec 32) :
    KeepsOut s0 (execSplitHighWrite view off data s) := by
  unfold execSplitHighWrite
  repeat' first
    | with_reducible first
      | assumption | (intro) | apply KeepsOut.next | exact KeepsOut.fault | apply KeepsOut.ite
      | apply writeRow_keeps | apply Keeps.ite
    | split

theorem execCtrlWrite_keeps {s0 s : State} (h : Keeps s0 s) (view off bytes : Nat) (data : Word) :
    KeepsOut s0 (execCtrlWrite view off bytes data s) := by
  unfold execCtrlWrite
  repeat' first
    | with_reducible first
      | assumption | (intro) | apply KeepsOut.next | exact KeepsOut.fault | apply KeepsOut.ite
      | apply writeRow_keeps | apply Keeps.ite
    | split

theorem execFlogIdxWrite_keeps {s0 s : State} (h : Keeps s0 s) (view off bytes : Nat) (data : Word) :
    KeepsOut s0 (execFlogIdxWrite view off bytes data s) := by
  unfold execFlogIdxWrite
  repeat' first
    | with_reducible first
      | assumption | (intro) | apply KeepsOut.next | exact KeepsOut.fault | apply KeepsOut.ite
      | apply writeRow_keeps | apply Keeps.ite
    | split

theorem execBrokeIdxWrite_keeps {s0 s : State} (h : Keeps s0 s) (view off bytes : Nat) (data : Word) :
    KeepsOut s0 (execBrokeIdxWrite view off bytes data s) := by
  unfold execBrokeIdxWrite
  repeat' first
    | with_reducible first
      | assumption | (intro) | apply KeepsOut.next | exact KeepsOut.fault | apply KeepsOut.ite
      | apply writeRow_keeps | apply Keeps.ite
    | split

theorem execDumpValidClear_keeps {s0 s : State} (h : Keeps s0 s) (view off bytes : Nat) (data : Word) :
    KeepsOut s0 (execDumpValidClear view off bytes data s) := by
  unfold execDumpValidClear
  repeat' first
    | with_reducible first
      | assumption | (intro) | apply KeepsOut.next | exact KeepsOut.fault | apply KeepsOut.ite
      | apply writeRow_keeps | apply Keeps.ite
    | split

theorem execMeasIdxWrite_keeps {s0 s : State} (h : Keeps s0 s) (view off bytes : Nat) (data : Word) :
    KeepsOut s0 (execMeasIdxWrite view off bytes data s) := by
  unfold execMeasIdxWrite
  repeat' first
    | with_reducible first
      | assumption | (intro) | apply KeepsOut.next | exact KeepsOut.fault | apply KeepsOut.ite
      | apply writeRow_keeps | apply Keeps.ite
    | split

theorem execCxlpAqWrite_keeps {s0 s : State} (h : Keeps s0 s) (view off bytes : Nat) (data : Word) :
    KeepsOut s0 (execCxlpAqWrite view off bytes data s) := by
  unfold execCxlpAqWrite
  repeat' first
    | with_reducible first
      | assumption | (intro) | apply KeepsOut.next | exact KeepsOut.fault | apply KeepsOut.ite
      | apply writeRow_keeps | apply Keeps.ite
    | split

theorem execDeckleAqWrite_keeps {s0 s : State} (h : Keeps s0 s) (view off bytes : Nat) (data : Word) :
    KeepsOut s0 (execDeckleAqWrite view off bytes data s) := by
  unfold execDeckleAqWrite
  repeat' first
    | with_reducible first
      | assumption | (intro) | apply KeepsOut.next | exact KeepsOut.fault | apply KeepsOut.ite
      | apply writeRow_keeps | apply Keeps.ite
    | split

theorem execDeckleAqReset_keeps {s0 s : State} (h : Keeps s0 s) (view off bytes : Nat) (data : Word) :
    KeepsOut s0 (execDeckleAqReset view off bytes data s) := by
  unfold execDeckleAqReset
  repeat' first
    | with_reducible first
      | assumption | (intro) | apply KeepsOut.next | exact KeepsOut.fault | apply KeepsOut.ite
      | apply writeRow_keeps | apply Keeps.ite
    | split

theorem execHeadboxJrnlBaseWrite_keeps {s0 s : State} (h : Keeps s0 s) (view off bytes : Nat) (data : Word) :
    KeepsOut s0 (execHeadboxJrnlBaseWrite view off bytes data s) := by
  unfold execHeadboxJrnlBaseWrite
  repeat' first
    | with_reducible first
      | assumption | (intro) | apply KeepsOut.next | exact KeepsOut.fault | apply KeepsOut.ite
      | apply writeRow_keeps | apply Keeps.ite
    | split

theorem execHeadboxJrnlCfgWrite_keeps {s0 s : State} (h : Keeps s0 s) (view off bytes : Nat) (data : Word) :
    KeepsOut s0 (execHeadboxJrnlCfgWrite view off bytes data s) := by
  unfold execHeadboxJrnlCfgWrite
  repeat' first
    | with_reducible first
      | assumption | (intro) | apply KeepsOut.next | exact KeepsOut.fault | apply KeepsOut.ite
      | apply writeRow_keeps | apply Keeps.ite
    | split

theorem execPortRetrain_keeps {s0 s : State} (h : Keeps s0 s) (view off bytes : Nat) (data : Word) :
    KeepsOut s0 (execPortRetrain view off bytes data s) := by
  unfold execPortRetrain
  repeat' first
    | with_reducible first
      | assumption | (intro) | apply KeepsOut.next | exact KeepsOut.fault | apply KeepsOut.ite
      | apply writeRow_keeps | apply Keeps.ite
    | split

theorem execPortEnableWrite_keeps {s0 s : State} (h : Keeps s0 s) (view off bytes : Nat) (data : Word) :
    KeepsOut s0 (execPortEnableWrite view off bytes data s) := by
  unfold execPortEnableWrite
  repeat' first
    | with_reducible first
      | assumption | (intro) | apply KeepsOut.next | exact KeepsOut.fault | apply KeepsOut.ite
      | apply writeRow_keeps | apply Keeps.ite
    | split

theorem execMdioRead_keeps {s0 s : State} (h : Keeps s0 s) (view off bytes : Nat) (data : Word) :
    KeepsOut s0 (execMdioRead view off bytes data s) := by
  unfold execMdioRead
  repeat' first
    | with_reducible first
      | assumption | (intro) | apply KeepsOut.next | exact KeepsOut.fault | apply KeepsOut.ite
      | apply writeRow_keeps | apply Keeps.ite
    | split

theorem execMdioWrite_keeps {s0 s : State} (h : Keeps s0 s) (view off bytes : Nat) (data : Word) :
    KeepsOut s0 (execMdioWrite view off bytes data s) := by
  unfold execMdioWrite
  repeat' first
    | with_reducible first
      | assumption | (intro) | apply KeepsOut.next | exact KeepsOut.fault | apply KeepsOut.ite
      | apply writeRow_keeps | apply Keeps.ite
    | split

theorem execMdioAddress_keeps {s0 s : State} (h : Keeps s0 s) (view off bytes : Nat) (data : Word) :
    KeepsOut s0 (execMdioAddress view off bytes data s) := by
  unfold execMdioAddress
  repeat' first
    | with_reducible first
      | assumption | (intro) | apply KeepsOut.next | exact KeepsOut.fault | apply KeepsOut.ite
      | apply writeRow_keeps | apply Keeps.ite
    | split

theorem execClkctlSrcWrite_keeps {s0 s : State} (h : Keeps s0 s) (view off bytes : Nat) (data : Word) :
    KeepsOut s0 (execClkctlSrcWrite view off bytes data s) := by
  unfold execClkctlSrcWrite
  repeat' first
    | with_reducible first
      | assumption | (intro) | apply KeepsOut.next | exact KeepsOut.fault | apply KeepsOut.ite
      | apply writeRow_keeps | apply Keeps.ite
    | split

theorem execClkctlEnWrite_keeps {s0 s : State} (h : Keeps s0 s) (view off bytes : Nat) (data : Word) :
    KeepsOut s0 (execClkctlEnWrite view off bytes data s) := by
  unfold execClkctlEnWrite
  repeat' first
    | with_reducible first
      | assumption | (intro) | apply KeepsOut.next | exact KeepsOut.fault | apply KeepsOut.ite
      | apply writeRow_keeps | apply Keeps.ite
    | split

theorem execCalenderDlimWrite_keeps {s0 s : State} (h : Keeps s0 s) (view off bytes : Nat) (data : Word) :
    KeepsOut s0 (execCalenderDlimWrite view off bytes data s) := by
  unfold execCalenderDlimWrite
  repeat' first
    | with_reducible first
      | assumption | (intro) | apply KeepsOut.next | exact KeepsOut.fault | apply KeepsOut.ite
      | apply writeRow_keeps | apply Keeps.ite
    | split

theorem execTileFenceRequest_keeps {s0 s : State} (h : Keeps s0 s) (view off bytes : Nat) (data : Word) :
    KeepsOut s0 (execTileFenceRequest view off bytes data s) := by
  unfold execTileFenceRequest
  repeat' first
    | with_reducible first
      | assumption | (intro) | apply KeepsOut.next | exact KeepsOut.fault | apply KeepsOut.ite
      | apply writeRow_keeps | apply Keeps.ite
    | split

theorem execTileReturn_keeps {s0 s : State} (h : Keeps s0 s) (view off bytes : Nat) (data : Word) :
    KeepsOut s0 (execTileReturn view off bytes data s) := by
  unfold execTileReturn
  repeat' first
    | with_reducible first
      | assumption | (intro) | apply KeepsOut.next | exact KeepsOut.fault | apply KeepsOut.ite
      | apply writeRow_keeps | apply Keeps.ite
    | split

theorem execCdReset_keeps {s0 s : State} (h : Keeps s0 s) (view off bytes : Nat) (data : Word) :
    KeepsOut s0 (execCdReset view off bytes data s) := by
  unfold execCdReset
  repeat' first
    | with_reducible first
      | assumption | (intro) | apply KeepsOut.next | exact KeepsOut.fault | apply KeepsOut.ite
      | apply writeRow_keeps | apply Keeps.ite
    | split

theorem execPkgRecovery_keeps {s0 s : State} (h : Keeps s0 s) (view off bytes : Nat) (data : Word) :
    KeepsOut s0 (execPkgRecovery view off bytes data s) := by
  unfold execPkgRecovery
  repeat' first
    | with_reducible first
      | assumption | (intro) | apply KeepsOut.next | exact KeepsOut.fault | apply KeepsOut.ite
      | apply writeRow_keeps | apply Keeps.ite
    | split

theorem execDumpRequest_keeps {s0 s : State} (h : Keeps s0 s) (view off bytes : Nat) (data : Word) :
    KeepsOut s0 (execDumpRequest view off bytes data s) := by
  unfold execDumpRequest
  repeat' first
    | with_reducible first
      | assumption | (intro) | apply KeepsOut.next | exact KeepsOut.fault | apply KeepsOut.ite
      | apply writeRow_keeps | apply Keeps.ite
    | split

theorem nvmRow_keeps {s0 s : State} (h : Keeps s0 s) (code view off bytes : Nat) (data : Word) :
    KeepsOut s0 (nvmRow code view off bytes data s) := by
  unfold nvmRow
  repeat' first
    | with_reducible first
      | assumption | (intro) | apply KeepsOut.next | exact KeepsOut.fault | apply KeepsOut.ite
      | apply writeRow_keeps | apply Keeps.ite
    | split

theorem execNvmErase_keeps {s0 s : State} (h : Keeps s0 s) (view off bytes : Nat) (data : Word) :
    KeepsOut s0 (execNvmErase view off bytes data s) := by
  unfold execNvmErase
  repeat' first
    | with_reducible first
      | assumption | (intro) | apply KeepsOut.next | exact KeepsOut.fault | apply KeepsOut.ite
      | apply nvmRow_keeps | apply Keeps.ite
    | split

theorem execNvmProgram_keeps {s0 s : State} (h : Keeps s0 s) (view off bytes : Nat) (data : Word) :
    KeepsOut s0 (execNvmProgram view off bytes data s) := by
  unfold execNvmProgram
  repeat' first
    | with_reducible first
      | assumption | (intro) | apply KeepsOut.next | exact KeepsOut.fault | apply KeepsOut.ite
      | apply nvmRow_keeps | apply Keeps.ite
    | split

theorem execNvmRead_keeps {s0 s : State} (h : Keeps s0 s) (view off bytes : Nat) (data : Word) :
    KeepsOut s0 (execNvmRead view off bytes data s) := by
  unfold execNvmRead
  repeat' first
    | with_reducible first
      | assumption | (intro) | apply KeepsOut.next | exact KeepsOut.fault | apply KeepsOut.ite
      | apply nvmRow_keeps | apply Keeps.ite
    | split

theorem execNvmBegin_keeps {s0 s : State} (h : Keeps s0 s) (view off bytes : Nat) (data : Word) :
    KeepsOut s0 (execNvmBegin view off bytes data s) := by
  unfold execNvmBegin
  repeat' first
    | with_reducible first
      | assumption | (intro) | apply KeepsOut.next | exact KeepsOut.fault | apply KeepsOut.ite
      | apply nvmRow_keeps | apply Keeps.ite
    | split

theorem execNvmVerify_keeps {s0 s : State} (h : Keeps s0 s) (view off bytes : Nat) (data : Word) :
    KeepsOut s0 (execNvmVerify view off bytes data s) := by
  unfold execNvmVerify
  repeat' first
    | with_reducible first
      | assumption | (intro) | apply KeepsOut.next | exact KeepsOut.fault | apply KeepsOut.ite
      | apply nvmRow_keeps | apply Keeps.ite
    | split

theorem execNvmSwitch_keeps {s0 s : State} (h : Keeps s0 s) (view off bytes : Nat) (data : Word) :
    KeepsOut s0 (execNvmSwitch view off bytes data s) := by
  unfold execNvmSwitch
  repeat' first
    | with_reducible first
      | assumption | (intro) | apply KeepsOut.next | exact KeepsOut.fault | apply KeepsOut.ite
      | apply nvmRow_keeps | apply Keeps.ite
    | split

theorem execNextBoot_keeps {s0 s : State} (h : Keeps s0 s) (view off bytes : Nat) (data : Word) :
    KeepsOut s0 (execNextBoot view off bytes data s) := by
  unfold execNextBoot
  repeat' first
    | with_reducible first
      | assumption | (intro) | apply KeepsOut.next | exact KeepsOut.fault | apply KeepsOut.ite
      | apply nvmRow_keeps | apply Keeps.ite
    | split

theorem execNvmEnd_keeps {s0 s : State} (h : Keeps s0 s) (view off bytes : Nat) (data : Word) :
    KeepsOut s0 (execNvmEnd view off bytes data s) := by
  unfold execNvmEnd
  repeat' first
    | with_reducible first
      | assumption | (intro) | apply KeepsOut.next | exact KeepsOut.fault | apply KeepsOut.ite
      | apply nvmRow_keeps | apply Keeps.ite
    | split

theorem execCfgCommit_keeps {s0 s : State} (h : Keeps s0 s) (view off bytes : Nat) (data : Word) :
    KeepsOut s0 (execCfgCommit view off bytes data s) := by
  unfold execCfgCommit
  repeat' first
    | with_reducible first
      | assumption | (intro) | apply KeepsOut.next | exact KeepsOut.fault | apply KeepsOut.ite
      | apply nvmRow_keeps | apply Keeps.ite
    | split

theorem execKeyLoad_keeps {s0 s : State} (h : Keeps s0 s) (view off bytes : Nat) (data : Word) :
    KeepsOut s0 (execKeyLoad view off bytes data s) := by
  unfold execKeyLoad
  repeat' first
    | with_reducible first
      | assumption | (intro) | apply KeepsOut.next | exact KeepsOut.fault | apply KeepsOut.ite
      | apply nvmRow_keeps | apply Keeps.ite
    | split

theorem execEnrol_keeps {s0 s : State} (h : Keeps s0 s) (view off bytes : Nat) (data : Word) :
    KeepsOut s0 (execEnrol view off bytes data s) := by
  unfold execEnrol
  repeat' first
    | with_reducible first
      | assumption | (intro) | apply KeepsOut.next | exact KeepsOut.fault | apply KeepsOut.ite
      | apply nvmRow_keeps | apply Keeps.ite
    | split

theorem execNvmRelease_keeps {s0 s : State} (h : Keeps s0 s) (view off bytes : Nat) (data : Word) :
    KeepsOut s0 (execNvmRelease view off bytes data s) := by
  unfold execNvmRelease
  repeat' first
    | with_reducible first
      | assumption | (intro) | apply KeepsOut.next | exact KeepsOut.fault | apply KeepsOut.ite
      | apply nvmRow_keeps | apply Keeps.ite
    | split

theorem execAttest_keeps {s0 s : State} (h : Keeps s0 s) (view off bytes : Nat) (data : Word) :
    KeepsOut s0 (execAttest view off bytes data s) := by
  unfold execAttest
  repeat' first
    | with_reducible first
      | assumption | (intro) | apply KeepsOut.next | exact KeepsOut.fault | apply KeepsOut.ite
      | apply nvmRow_keeps | apply Keeps.ite
    | split

theorem execNvmProfileSelWrite_keeps {s0 s : State} (h : Keeps s0 s) (view off bytes : Nat) (data : Word) :
    KeepsOut s0 (execNvmProfileSelWrite view off bytes data s) := by
  unfold execNvmProfileSelWrite
  repeat' first
    | with_reducible first
      | assumption | (intro) | apply KeepsOut.next | exact KeepsOut.fault | apply KeepsOut.ite
      | apply writeRow_keeps | apply Keeps.ite
    | split

end Sys2Proof.Machine
end

