-- ==== Sys2Proof/Laws/KeepDump.lean ====
section
/-! SUPPORT. What the operations of Machine/Dump.lean keep (see Laws/Keep.lean). -/

set_option linter.all false

namespace Sys2Proof.Machine

theorem State.afterDump_keeps {s0 s : State} (h : Keeps s0 s)  :
    Keeps s0 (State.afterDump s) := by
  unfold State.afterDump
  repeat' first
    | with_reducible first
      | assumption | (intro) | apply State.enterReset_keeps | apply State.modRst_keeps
      | apply State.takeLock_keeps | apply Keeps.ite | (fail_if_no_progress apply Keeps.mk0)
    | split

theorem State.setDump_keeps {s0 s : State} (h : Keeps s0 s) (r : Rst) :
    Keeps s0 { s with rst := r, freeCtr := s.freeCtr + 1 } := Keeps.mk2 h (Nat.le_max_left _ _) (Nat.le_succ _)

theorem execDumpDone_keeps {s0 s : State} (h : Keeps s0 s) (unreachable : List (Nat × Nat × Nat)) :
    KeepsOut s0 (execDumpDone unreachable s) := by
  unfold execDumpDone
  apply guardUnit_keeps
  split
  · exact h
  · exact State.afterDump_keeps (State.freeLock_keeps (State.raise_keeps (State.fset_keeps (State.fset_keeps (State.fset_keeps
      (State.setDump_keeps h _) _ _ _ _) _ _ _ _) _ _ _ _) _ _) 8 0)

end Sys2Proof.Machine
end

