-- ==== Sys2Proof/Laws/KeepControl.lean ====
section
/-! SUPPORT. What the operations of Machine/Control.lean keep (see Laws/Keep.lean). -/

set_option linter.all false

namespace Sys2Proof.Machine

theorem State.copyFails_keeps {s0 s : State} (h : Keeps s0 s)  :
    Keeps s0 (State.copyFails s) := by
  unfold State.copyFails
  repeat' first
    | with_reducible first
      | assumption | (intro)
      | (extract_lets +onlyGivenNames x; first | (refine Keeps.cut x ?_ ?_; subst x; rotate_left; intro; clear_value x) | clear_value x)
      | apply State.bump_keeps | apply State.cuEvent_keeps | apply State.fset_keeps | apply State.raise_keeps
      | apply State.setUnit_keeps | apply Keeps.ite | (fail_if_no_progress apply Keeps.mk0)
    | split

theorem execStateCopy_keeps {s0 s : State} (h : Keeps s0 s) (beat : Word) (crcOk : Bool) :
    KeepsOut s0 (execStateCopy beat crcOk s) := by
  unfold execStateCopy
  repeat' first
    | with_reducible first
      | assumption | (intro) | apply guardUnit_keeps | apply KeepsOut.next | exact KeepsOut.fault
      | apply KeepsOut.ite | apply State.copyFails_keeps | apply State.fset_keeps | apply Keeps.ite
      | (fail_if_no_progress apply Keeps.mk0)
    | split

theorem execCopyFailure_keeps {s0 s : State} (h : Keeps s0 s)  :
    KeepsOut s0 (execCopyFailure s) := by
  unfold execCopyFailure
  repeat' first
    | with_reducible first
      | assumption | (intro) | apply guardUnit_keeps | apply KeepsOut.next | exact KeepsOut.fault
      | apply KeepsOut.ite | apply State.copyFails_keeps | apply Keeps.ite
    | split

theorem State.endUpdate_keeps {s0 s : State} (h : Keeps s0 s)  :
    Keeps s0 (State.endUpdate s) := by
  unfold State.endUpdate
  repeat' first
    | exact id | exact fun w => Sparse.set_wf w _ _ | exact fun w => Sparse.clear_wf w _ | exact fun w => Sparse.mapVals_wf w _
    | exact fun _ => rfl | exact fun w => Sparse.setRange_wf _ w _ | exact fun w => Sparse.foldl_set_wf _ _ _ w
    | with_reducible first
      | assumption | (intro)
      | (extract_lets +onlyGivenNames x; first | (refine Keeps.cut x ?_ ?_; subst x; rotate_left; intro; clear_value x) | subst x)
      | apply State.bump_keeps | apply State.endActivity_keeps | apply State.fset_keeps | apply State.nvmResult_keeps
      | apply State.raise_keeps | apply Keeps.ite | (fail_if_no_progress apply Keeps.mk0)
    | with_reducible ((fail_if_success apply Keeps.mk0); apply Keeps.mk1)
    | split

theorem execSyncComplete_keeps {s0 s : State} (h : Keeps s0 s)  :
    KeepsOut s0 (execSyncComplete s) := by
  unfold execSyncComplete
  repeat' first
    | exact id | exact fun w => Sparse.set_wf w _ _ | exact fun w => Sparse.clear_wf w _ | exact fun w => Sparse.mapVals_wf w _
    | exact fun _ => rfl | exact fun w => Sparse.setRange_wf _ w _ | exact fun w => Sparse.foldl_set_wf _ _ _ w
    | with_reducible first
      | assumption | (intro)
      | (extract_lets +onlyGivenNames x; first | (refine Keeps.cut x ?_ ?_; subst x; rotate_left; intro; clear_value x) | (refine KeepsOut.cut x ?_ ?_; subst x; rotate_left; intro; clear_value x) | subst x)
      | apply guardUnit_keeps | apply KeepsOut.next | exact KeepsOut.fault | apply KeepsOut.ite | apply State.endUpdate_keeps
      | apply State.fset_keeps | apply State.setUnit_keeps | apply Keeps.ite | (fail_if_no_progress apply Keeps.mk0)
    | with_reducible ((fail_if_success apply Keeps.mk0); apply Keeps.mk1)
    | split

theorem State.setAges_keeps {s0 s : State} (h : Keeps s0 s) (u ondie pin : Nat) :
    Keeps s0 (State.setAges s u ondie pin) := by
  unfold State.setAges
  repeat' first
    | with_reducible first
      | assumption | (intro) | apply Keeps.ite | (fail_if_no_progress apply Keeps.mk0)
    | with_reducible (refine Keeps.ofFst (by assumption) ?_) | with_reducible (refine Keeps.ofSnd (by assumption) ?_)
    | split

theorem State.noteQuiet_keeps {s0 s : State} (h : Keeps s0 s) (u : Nat) :
    Keeps s0 (State.noteQuiet s u) := by
  unfold State.noteQuiet
  repeat' first
    | with_reducible first
      | assumption | (intro)
      | (extract_lets +onlyGivenNames x; first | (refine Keeps.cut x ?_ ?_; subst x; rotate_left; intro; clear_value x) | clear_value x)
      | apply State.unitFails_keeps | apply Keeps.ite | (fail_if_no_progress apply Keeps.mk0)
    | split

theorem State.checkPaths_keeps {s0 s : State} (h : Keeps s0 s)  :
    Keeps s0 (State.checkPaths s) := by
  unfold State.checkPaths
  repeat' first
    | with_reducible first
      | assumption | (intro)
      | (extract_lets +onlyGivenNames x; first | (refine Keeps.cut x ?_ ?_; subst x; rotate_left; intro; clear_value x) | clear_value x)
      | apply State.bump_keeps | apply State.cuEvent_keeps | apply State.fset_keeps | apply State.noteQuiet_keeps
      | apply State.raise_keeps | apply State.when_keeps | apply Keeps.ite | (fail_if_no_progress apply Keeps.mk0)
    | split

theorem execPinPathSilent_keeps {s0 s : State} (h : Keeps s0 s) (unit : Nat) :
    KeepsOut s0 (execPinPathSilent unit s) := by
  unfold execPinPathSilent
  repeat' first
    | with_reducible first
      | assumption | (intro) | apply guardUnit_keeps | apply KeepsOut.next | exact KeepsOut.fault
      | apply KeepsOut.ite | apply State.checkPaths_keeps | apply State.setAges_keeps | apply Keeps.ite
    | split

theorem State.beatUnit_keeps {s0 s : State} (h : Keeps s0 s) (silent : List Nat) (u : Nat) :
    Keeps s0 (State.beatUnit s silent u) := by
  unfold State.beatUnit
  repeat' first
    | with_reducible first
      | assumption | (intro)
      | (extract_lets +onlyGivenNames x; first | (refine Keeps.cut x ?_ ?_; subst x; rotate_left; intro; clear_value x) | clear_value x)
      | apply State.setAges_keeps | apply Keeps.ite | (fail_if_no_progress apply Keeps.mk0)
    | split

theorem State.beatUnits_keeps {s0 s : State} (h : Keeps s0 s) (silent : List Nat) :
    Keeps s0 (State.beatUnits s silent) := by
  unfold State.beatUnits
  repeat' first
    | exact id | exact fun w => Sparse.set_wf w _ _ | exact fun w => Sparse.clear_wf w _ | exact fun w => Sparse.mapVals_wf w _
    | exact fun _ => rfl | exact fun w => Sparse.setRange_wf _ w _ | exact fun w => Sparse.foldl_set_wf _ _ _ w
    | with_reducible first
      | assumption | (intro)
      | (extract_lets +onlyGivenNames x; first | (refine Keeps.cut x ?_ ?_; subst x; rotate_left; intro; clear_value x) | (refine Keeps.cut x.2 ?_ ?_; subst x; rotate_left; intro; clear_value x) | (refine Keeps.cut x.1 ?_ ?_; subst x; rotate_left; intro; clear_value x) | subst x)
      | apply State.beatUnit_keeps | apply State.checkPaths_keeps | apply Keeps.ite | (fail_if_no_progress apply Keeps.mk0)
    | with_reducible ((fail_if_success apply Keeps.mk0); apply Keeps.mk1)
    | with_reducible (refine Keeps.ofFst (by assumption) ?_) | with_reducible (refine Keeps.ofSnd (by assumption) ?_)
    | split

theorem State.swapUnits_keeps {s0 s : State} (h : Keeps s0 s)  :
    Keeps s0 (State.swapUnits s) := by
  unfold State.swapUnits
  repeat' first
    | with_reducible first
      | assumption | (intro)
      | (extract_lets +onlyGivenNames x; first | (refine Keeps.cut x ?_ ?_; subst x; rotate_left; intro; clear_value x) | clear_value x)
      | apply State.fset_keeps | apply State.setUnit_keeps | apply State.showFirmware_keeps | apply Keeps.ite
    | split

theorem State.dropSwitch_keeps {s0 s : State} (h : Keeps s0 s)  :
    Keeps s0 (State.dropSwitch s) := by
  unfold State.dropSwitch
  repeat' first
    | exact id | exact fun w => Sparse.set_wf w _ _ | exact fun w => Sparse.clear_wf w _ | exact fun w => Sparse.mapVals_wf w _
    | exact fun _ => rfl | exact fun w => Sparse.setRange_wf _ w _ | exact fun w => Sparse.foldl_set_wf _ _ _ w
    | with_reducible first
      | assumption | (intro)
      | (extract_lets +onlyGivenNames x; first | (refine Keeps.cut x ?_ ?_; subst x; rotate_left; intro; clear_value x) | subst x)
      | apply State.bump_keeps | apply State.endActivity_keeps | apply State.nvmResult_keeps | apply State.raise_keeps
      | apply Keeps.ite | (fail_if_no_progress apply Keeps.mk0)
    | with_reducible ((fail_if_success apply Keeps.mk0); apply Keeps.mk1)
    | split

theorem State.takeover_keeps {s0 s : State} (h : Keeps s0 s)  :
    Keeps s0 (State.takeover s) := by
  unfold State.takeover
  repeat' first
    | with_reducible first
      | assumption | (intro)
      | (extract_lets +onlyGivenNames x; first | (refine Keeps.cut x ?_ ?_; subst x; rotate_left; intro; clear_value x) | clear_value x)
      | apply State.bump_keeps | apply State.cuEvent_keeps | apply State.dropSwitch_keeps | apply State.logFault_keeps
      | apply State.raise_keeps | apply State.swapUnits_keeps | apply State.unitFails_keeps | apply Keeps.ite
      | (fail_if_no_progress apply Keeps.mk0)
    | split

theorem State.activeSilent_keeps {s0 s : State} (h : Keeps s0 s)  :
    Keeps s0 (State.activeSilent s) := by
  unfold State.activeSilent
  repeat' first
    | with_reducible first
      | assumption | (intro)
      | (extract_lets +onlyGivenNames x; first | (refine Keeps.cut x ?_ ?_; subst x; rotate_left; intro; clear_value x) | clear_value x)
      | apply State.fail_keeps | apply State.startPkg_keeps | apply State.takeover_keeps | apply Keeps.ite
    | split

theorem State.handover_keeps {s0 s : State} (h : Keeps s0 s)  :
    Keeps s0 (State.handover s) := by
  unfold State.handover
  repeat' first
    | with_reducible first
      | assumption | (intro)
      | (extract_lets +onlyGivenNames x; first | (refine Keeps.cut x ?_ ?_; subst x; rotate_left; intro; clear_value x) | clear_value x)
      | apply State.bump_keeps | apply State.cuEvent_keeps | apply State.raise_keeps | apply State.setUnit_keeps
      | apply State.swapUnits_keeps | apply State.when_keeps | apply Keeps.ite | (fail_if_no_progress apply Keeps.mk0)
    | split

theorem State.controlStep_keeps {s0 s : State} (h : Keeps s0 s)  :
    Keeps s0 (State.controlStep s) := by
  unfold State.controlStep
  repeat' first
    | exact id | exact fun w => Sparse.set_wf w _ _ | exact fun w => Sparse.clear_wf w _ | exact fun w => Sparse.mapVals_wf w _
    | exact fun _ => rfl | exact fun w => Sparse.setRange_wf _ w _ | exact fun w => Sparse.foldl_set_wf _ _ _ w
    | with_reducible first
      | assumption | (intro)
      | (extract_lets +onlyGivenNames x; first | (refine Keeps.cut x ?_ ?_; subst x; rotate_left; intro; clear_value x) | subst x)
      | apply State.activeSilent_keeps | apply State.handover_keeps | apply Keeps.ite | (fail_if_no_progress apply Keeps.mk0)
    | with_reducible ((fail_if_success apply Keeps.mk0); apply Keeps.mk1)
    | split

theorem execIslandReset_keeps {s0 s : State} (h : Keeps s0 s) (unit : Nat) :
    KeepsOut s0 (execIslandReset unit s) := by
  unfold execIslandReset
  repeat' first
    | with_reducible first
      | assumption | (intro)
      | (extract_lets +onlyGivenNames x; first | (refine Keeps.cut x ?_ ?_; subst x; rotate_left; intro; clear_value x) | (refine KeepsOut.cut x ?_ ?_; subst x; rotate_left; intro; clear_value x) | clear_value x)
      | apply guardUnit_keeps | apply KeepsOut.next | exact KeepsOut.fault | apply KeepsOut.ite | apply State.setAges_keeps
      | apply State.setUnit_keeps | apply State.when_keeps | apply Keeps.ite | (fail_if_no_progress apply Keeps.mk0)
    | split

theorem State.loadRegion_keeps {s0 s : State} (h : Keeps s0 s) (unit want : Nat) (b : BootResult) :
    Keeps s0 (State.loadRegion s unit want b) := by
  unfold State.loadRegion
  repeat' first
    | exact id | exact fun w => Sparse.set_wf w _ _ | exact fun w => Sparse.clear_wf w _ | exact fun w => Sparse.mapVals_wf w _
    | exact fun _ => rfl | exact fun w => Sparse.setRange_wf _ w _ | exact fun w => Sparse.foldl_set_wf _ _ _ w
    | with_reducible first
      | assumption | (intro)
      | (extract_lets +onlyGivenNames x; first | (refine Keeps.cut x ?_ ?_; subst x; rotate_left; intro; clear_value x) | subst x)
      | apply State.bumpBy_keeps | apply State.raise_keeps | apply State.setUnitRegion_keeps | apply State.when_keeps
      | apply Keeps.ite | (fail_if_no_progress apply Keeps.mk0)
    | with_reducible ((fail_if_success apply Keeps.mk0); apply Keeps.mk1)
    | split

theorem State.addFactory_keeps {s0 s : State} (h : Keeps s0 s) (l : List (Nat × Nat)) :
    Keeps s0 (State.addFactory s l) := by
  unfold State.addFactory
  repeat' first
    | with_reducible first
      | assumption | (intro)
      | (extract_lets +onlyGivenNames x; first | (refine Keeps.cut x ?_ ?_; subst x; rotate_left; intro; clear_value x) | (refine Keeps.cut x.2 ?_ ?_; subst x; rotate_left; intro; clear_value x) | (refine Keeps.cut x.1 ?_ ?_; subst x; rotate_left; intro; clear_value x) | clear_value x)
      | apply Keeps.ite | (fail_if_no_progress apply Keeps.mk0)
    | with_reducible (refine Keeps.ofFst (by assumption) ?_) | with_reducible (refine Keeps.ofSnd (by assumption) ?_)
    | split

theorem State.loadImage_keeps {s0 s : State} (h : Keeps s0 s) (unit : Nat) (b : BootResult) :
    Keeps s0 (State.loadImage s unit b) := by
  unfold State.loadImage
  repeat' first
    | exact id | exact fun w => Sparse.set_wf w _ _ | exact fun w => Sparse.clear_wf w _ | exact fun w => Sparse.mapVals_wf w _
    | exact fun _ => rfl | exact fun w => Sparse.setRange_wf _ w _ | exact fun w => Sparse.foldl_set_wf _ _ _ w
    | with_reducible first
      | assumption | (intro)
      | (extract_lets +onlyGivenNames x; first | (refine Keeps.cut x ?_ ?_; subst x; rotate_left; intro; clear_value x) | (refine Keeps.cut x.2 ?_ ?_; subst x; rotate_left; intro; clear_value x) | (refine Keeps.cut x.1 ?_ ?_; subst x; rotate_left; intro; clear_value x) | subst x)
      | apply State.addFactory_keeps | apply State.applyLive_keeps | apply State.applyMap_keeps | apply State.applyPkg_keeps
      | apply State.fset_keeps | apply State.loadConfig_keeps | apply State.samplePins_keeps | apply State.showPorts_keeps
      | apply State.showStacks_keeps | apply Keeps.ite | (fail_if_no_progress apply Keeps.mk0)
    | with_reducible ((fail_if_success apply Keeps.mk0); apply Keeps.mk1)
    | with_reducible (refine Keeps.ofFst (by assumption) ?_) | with_reducible (refine Keeps.ofSnd (by assumption) ?_)
    | split

theorem State.activate_keeps {s0 s : State} (h : Keeps s0 s) (u : Nat) :
    Keeps s0 (State.activate s u) := by
  unfold State.activate
  repeat' first
    | with_reducible first
      | assumption | (intro)
      | (extract_lets +onlyGivenNames x; first | (refine Keeps.cut x ?_ ?_; subst x; rotate_left; intro; clear_value x) | subst x)
      | apply State.duntus_keeps | apply State.fset_keeps | apply State.setUnit_keeps | apply State.showFirmware_keeps
      | apply Keeps.ite
    | split

theorem State.activateB_keeps {s0 s : State} (h : Keeps s0 s)  :
    Keeps s0 (State.activateB s) := by
  unfold State.activateB
  repeat' first
    | with_reducible first
      | assumption | (intro)
      | (extract_lets +onlyGivenNames x; first | (refine Keeps.cut x ?_ ?_; subst x; rotate_left; intro; clear_value x) | clear_value x)
      | apply State.activate_keeps | apply Keeps.ite | (fail_if_no_progress apply Keeps.mk0)
    | split

theorem State.bootUp_keeps {s0 s : State} (h : Keeps s0 s) (unit : Nat) (b : BootResult) :
    Keeps s0 (State.bootUp s unit b) := by
  unfold State.bootUp
  repeat' first
    | with_reducible first
      | assumption | (intro) | apply State.activate_keeps | apply State.activateB_keeps
      | apply State.failUp_keeps | apply State.loadImage_keeps | apply State.loadRegion_keeps | apply State.setAges_keeps
      | apply State.setUnit_keeps | apply State.when_keeps | apply Keeps.ite | (fail_if_no_progress apply Keeps.mk0)
    | split

theorem execUnitBootDone_keeps {s0 s : State} (h : Keeps s0 s) (unit : Nat) (b : BootResult) :
    KeepsOut s0 (execUnitBootDone unit b s) := by
  unfold execUnitBootDone
  repeat' first
    | with_reducible first
      | assumption | (intro)
      | (extract_lets +onlyGivenNames x; first | (refine Keeps.cut x ?_ ?_; subst x; rotate_left; intro; clear_value x) | (refine KeepsOut.cut x ?_ ?_; subst x; rotate_left; intro; clear_value x) | clear_value x)
      | apply guardUnit_keeps | apply KeepsOut.next | exact KeepsOut.fault | apply KeepsOut.ite | apply State.bootUp_keeps
      | apply State.loadRegion_keeps | apply State.setAges_keeps | apply State.setUnit_keeps | apply Keeps.ite
      | (fail_if_no_progress apply Keeps.mk0)
    | split

theorem execBootTimeout_keeps {s0 s : State} (h : Keeps s0 s) (unit : Nat) :
    KeepsOut s0 (execBootTimeout unit s) := by
  unfold execBootTimeout
  repeat' first
    | with_reducible first
      | assumption | (intro)
      | (extract_lets +onlyGivenNames x; first | (refine Keeps.cut x ?_ ?_; subst x; rotate_left; intro; clear_value x) | (refine KeepsOut.cut x ?_ ?_; subst x; rotate_left; intro; clear_value x) | clear_value x)
      | apply guardUnit_keeps | apply KeepsOut.next | exact KeepsOut.fault | apply KeepsOut.ite | apply State.activateB_keeps
      | apply State.endUpdate_keeps | apply State.failUp_keeps | apply State.unitFails_keeps | apply Keeps.ite
    | split

end Sys2Proof.Machine
end

