-- ==== Sys2Proof/Laws/KeepMgmt.lean ====
section
/-! SUPPORT. What the operations of Machine/Mgmt.lean keep (see Laws/Keep.lean). -/

set_option linter.all false

namespace Sys2Proof.Machine

theorem State.respond_keeps {s0 s : State} (h : Keeps s0 s) (h : DHdr) (status : Nat) (body : List Byte) :
    Keeps s0 (State.respond s h status body) := by
  unfold State.respond
  repeat' first
    | with_reducible first
      | assumption | (intro) | apply State.duntus_keeps | apply State.emit_keeps | apply Keeps.ite
    | split

theorem State.receive_keeps {s0 s : State} (h : Keeps s0 s) (hd : DHdr) (code : Nat) (isOpen lenOk : Bool) {f : State → State}
    (hf : ∀ t, Keeps s0 t → Keeps s0 (f t)) : Keeps s0 (s.receive hd code isOpen lenOk f) := by
  unfold State.receive
  refine Keeps.ite h (Keeps.ite (State.respond_keeps h _ _ _) (Keeps.ite (State.bump_keeps h _ _) (Keeps.ite
    (State.respond_keeps (State.bump_keeps h _ _) _ _ _) ?_)))
  exact Keeps.ite (State.respond_keeps (Keeps.mk0 h) _ _ _) (hf _ (Keeps.mk0 h))

theorem State.orInbox_keeps {s0 s : State} (h : Keeps s0 s) (i : Waiting) {f : State → State} (hf : ∀ t, Keeps s0 t → Keeps s0 (f t)) :
    Keeps s0 (s.orInbox i f) := by
  exact Keeps.ite (Keeps.mk0 h) (hf s h)

theorem mgtRow_keeps {s0 s : State} (h : Keeps s0 s) (code : Nat) (isOpen : Bool) (hd : DHdr) (i : Waiting) {f : State → State}
    (hf : ∀ t, Keeps s0 t → Keeps s0 (f t)) : KeepsOut s0 (mgtRow code isOpen hd i f s) := by
  exact guardUnit_keeps (State.orInbox_keeps h _ fun t k => State.receive_keeps k _ _ _ _ hf) _

theorem execMalformedDuntusMessage_keeps {s0 s : State} (h : Keeps s0 s) (h : DHdr) (bodyLen : Nat) :
    KeepsOut s0 (execMalformedDuntusMessage h bodyLen s) := by
  unfold execMalformedDuntusMessage
  repeat' first
    | with_reducible first
      | assumption | (intro) | apply guardUnit_keeps | apply KeepsOut.next | exact KeepsOut.fault
      | apply KeepsOut.ite | apply State.orInbox_keeps | apply State.receive_keeps | apply Keeps.ite
    | (show Keeps s0 _; assumption)
    | split

theorem execMgtSessionNonce_keeps {s0 s : State} (h : Keeps s0 s) (h : DHdr) (nonce : List Byte) :
    KeepsOut s0 (execMgtSessionNonce h nonce s) := by
  unfold execMgtSessionNonce
  repeat' first
    | with_reducible first
      | assumption | (intro) | apply KeepsOut.next | exact KeepsOut.fault | apply KeepsOut.ite
      | apply State.issueNonce_keeps | apply mgtRow_keeps | apply State.respond_keeps | apply Keeps.ite
    | split

theorem execMgtSessionOpen_keeps {s0 s : State} (h : Keeps s0 s) (h : DHdr) (tag : List Byte) :
    KeepsOut s0 (execMgtSessionOpen h tag s) := by
  unfold execMgtSessionOpen
  repeat' first
    | with_reducible first
      | assumption | (intro)
      | (extract_lets +onlyGivenNames x; first | (refine Keeps.cut x ?_ ?_; subst x; rotate_left; intro; clear_value x) | (refine KeepsOut.cut x ?_ ?_; subst x; rotate_left; intro; clear_value x) | clear_value x)
      | apply KeepsOut.next | exact KeepsOut.fault | apply KeepsOut.ite | apply State.authFail_keeps | apply mgtRow_keeps
      | apply State.openSession_keeps | apply State.respond_keeps | apply Keeps.ite | (fail_if_no_progress apply Keeps.mk0)
    | split

theorem execMgtSessionClose_keeps {s0 s : State} (h : Keeps s0 s) (h : DHdr) :
    KeepsOut s0 (execMgtSessionClose h s) := by
  unfold execMgtSessionClose
  repeat' first
    | with_reducible first
      | assumption | (intro) | apply KeepsOut.next | exact KeepsOut.fault | apply KeepsOut.ite
      | apply State.endSession_keeps | apply mgtRow_keeps | apply State.respond_keeps | apply Keeps.ite
    | split

theorem execStatusGet_keeps {s0 s : State} (h : Keeps s0 s) (h : DHdr) :
    KeepsOut s0 (execStatusGet h s) := by
  unfold execStatusGet
  repeat' first
    | with_reducible first
      | assumption | (intro) | apply KeepsOut.next | exact KeepsOut.fault | apply KeepsOut.ite
      | apply mgtRow_keeps | apply State.respond_keeps | apply Keeps.ite
    | split

theorem execLiveness_keeps {s0 s : State} (h : Keeps s0 s) (h : DHdr) (hba hbb : Bool) :
    KeepsOut s0 (execLiveness h hba hbb s) := by
  unfold execLiveness
  repeat' first
    | with_reducible first
      | assumption | (intro)
      | (extract_lets +onlyGivenNames x; first | (refine Keeps.cut x ?_ ?_; subst x; rotate_left; intro; clear_value x) | (refine KeepsOut.cut x ?_ ?_; subst x; rotate_left; intro; clear_value x) | clear_value x)
      | apply guardUnit_keeps | apply KeepsOut.next | exact KeepsOut.fault | apply KeepsOut.ite | apply State.checkPaths_keeps
      | apply State.receive_keeps | apply State.setAges_keeps | apply State.when_keeps | apply Keeps.ite
      | (fail_if_no_progress apply Keeps.mk0)
    | split

theorem execRegRead_keeps {s0 s : State} (h : Keeps s0 s) (h : DHdr) (off bytes : Nat) :
    KeepsOut s0 (execRegRead h off bytes s) := by
  unfold execRegRead
  repeat' first
    | with_reducible first
      | assumption | (intro)
      | (extract_lets +onlyGivenNames x; first | (refine Keeps.cut x ?_ ?_; subst x; rotate_left; intro; clear_value x) | (refine Keeps.cut x.2 ?_ ?_; subst x; rotate_left; intro; clear_value x) | (refine Keeps.cut x.1 ?_ ?_; subst x; rotate_left; intro; clear_value x) | (refine KeepsOut.cut x ?_ ?_; subst x; rotate_left; intro; clear_value x) | (refine KeepsOut.cut x.2 ?_ ?_; subst x; rotate_left; intro; clear_value x) | clear_value x)
      | apply KeepsOut.next | exact KeepsOut.fault | apply KeepsOut.ite | apply mgtRow_keeps | apply State.regRead_keeps
      | apply State.respond_keeps | apply Keeps.ite | apply Keeps.iteFst | apply Keeps.iteSnd
      | (fail_if_no_progress apply Keeps.mk0)
    | with_reducible (refine Keeps.ofFst (by assumption) ?_) | with_reducible (refine Keeps.ofSnd (by assumption) ?_)
    | split

theorem execRegWrite_keeps {s0 s : State} (h : Keeps s0 s) (h : DHdr) (off bytes : Nat) (data : Word) :
    KeepsOut s0 (execRegWrite h off bytes data s) := by
  unfold execRegWrite
  repeat' first
    | with_reducible first
      | assumption | (intro)
      | (extract_lets +onlyGivenNames x; first | (refine Keeps.cut x ?_ ?_; subst x; rotate_left; intro; clear_value x) | (refine Keeps.cut x.2 ?_ ?_; subst x; rotate_left; intro; clear_value x) | (refine Keeps.cut x.1 ?_ ?_; subst x; rotate_left; intro; clear_value x) | (refine KeepsOut.cut x ?_ ?_; subst x; rotate_left; intro; clear_value x) | (refine KeepsOut.cut x.2 ?_ ?_; subst x; rotate_left; intro; clear_value x) | clear_value x)
      | apply KeepsOut.next | exact KeepsOut.fault | apply KeepsOut.ite | apply mgtRow_keeps | apply State.regWrite_keeps
      | apply State.respond_keeps | apply Keeps.ite | apply Keeps.iteFst | apply Keeps.iteSnd
    | with_reducible (refine Keeps.ofFst (by assumption) ?_) | with_reducible (refine Keeps.ofSnd (by assumption) ?_)
    | split

theorem execCapSet_keeps {s0 s : State} (h : Keeps s0 s) (h : DHdr) (capW : Nat) (clear : Bool) :
    KeepsOut s0 (execCapSet h capW clear s) := by
  unfold execCapSet
  repeat' first
    | with_reducible first
      | assumption | (intro) | apply KeepsOut.next | exact KeepsOut.fault | apply KeepsOut.ite
      | apply State.fset_keeps | apply mgtRow_keeps | apply State.respond_keeps | apply State.updateCap_keeps | apply Keeps.ite
    | split

theorem execPowerReportGet_keeps {s0 s : State} (h : Keeps s0 s) (h : DHdr) :
    KeepsOut s0 (execPowerReportGet h s) := by
  unfold execPowerReportGet
  repeat' first
    | with_reducible first
      | assumption | (intro) | apply KeepsOut.next | exact KeepsOut.fault | apply KeepsOut.ite
      | apply State.fset_keeps | apply mgtRow_keeps | apply State.respond_keeps | apply Keeps.ite
    | split

theorem execSlackReport_keeps {s0 s : State} (h : Keeps s0 s)  :
    KeepsOut s0 (execSlackReport s) := by
  unfold execSlackReport
  repeat' first
    | with_reducible first
      | assumption | (intro)
      | (extract_lets +onlyGivenNames x; first | (refine Keeps.cut x ?_ ?_; subst x; rotate_left; intro; clear_value x) | (refine Keeps.cut x.2 ?_ ?_; subst x; rotate_left; intro; clear_value x) | (refine Keeps.cut x.1 ?_ ?_; subst x; rotate_left; intro; clear_value x) | (refine KeepsOut.cut x ?_ ?_; subst x; rotate_left; intro; clear_value x) | (refine KeepsOut.cut x.2 ?_ ?_; subst x; rotate_left; intro; clear_value x) | clear_value x)
      | apply guardUnit_keeps | apply KeepsOut.next | exact KeepsOut.fault | apply KeepsOut.ite | apply State.duntusEvent_keeps
      | apply State.free_keeps | apply State.fset_keeps | apply Keeps.ite | apply Keeps.iteFst | apply Keeps.iteSnd
      | (fail_if_no_progress apply Keeps.mk0)
    | with_reducible (refine Keeps.ofFst (by assumption) ?_) | with_reducible (refine Keeps.ofSnd (by assumption) ?_)
    | split

theorem execPoweroffNotice_keeps {s0 s : State} (h : Keeps s0 s) (h : DHdr) :
    KeepsOut s0 (execPoweroffNotice h s) := by
  unfold execPoweroffNotice
  repeat' first
    | with_reducible first
      | assumption | (intro)
      | (extract_lets +onlyGivenNames x; first | (refine Keeps.cut x ?_ ?_; subst x; rotate_left; intro; clear_value x) | (refine KeepsOut.cut x ?_ ?_; subst x; rotate_left; intro; clear_value x) | clear_value x)
      | apply KeepsOut.next | exact KeepsOut.fault | apply KeepsOut.ite | apply State.fset_keeps | apply mgtRow_keeps
      | apply State.raiseTo_keeps | apply State.respond_keeps | apply State.tryPoweroff_keeps | apply Keeps.ite
      | (fail_if_no_progress apply Keeps.mk0)
    | split

theorem execPoweroffGraceEnd_keeps {s0 s : State} (h : Keeps s0 s)  :
    KeepsOut s0 (execPoweroffGraceEnd s) := by
  unfold execPoweroffGraceEnd
  repeat' first
    | with_reducible first
      | assumption | (intro) | apply guardUnit_keeps | apply KeepsOut.next | exact KeepsOut.fault
      | apply KeepsOut.ite | apply State.sendPoweroffReady_keeps | apply Keeps.ite
    | split

theorem State.putPlan_keeps {s0 s : State} (h : Keeps s0 s) (pl : Option Plan) :
    Keeps s0 (State.putPlan s pl) := by
  unfold State.putPlan
  repeat' first
    | with_reducible first
      | assumption | (intro)
      | (extract_lets +onlyGivenNames x; first | (refine Keeps.cut x ?_ ?_; subst x; rotate_left; intro; clear_value x) | clear_value x)
      | apply State.each_keeps | apply State.fset_keeps | apply State.planBeat_keeps | apply State.planPorts_keeps
      | apply State.planRouter_keeps | apply State.planTrain_keeps | apply State.setReg_keeps | apply Keeps.ite
      | (fail_if_no_progress apply Keeps.mk0)
    | split

theorem execPlanDeliver_keeps {s0 s : State} (h : Keeps s0 s) (h : DHdr) (offset total len : Nat) (last : Bool) (plan : Plan) :
    KeepsOut s0 (execPlanDeliver h offset total len last plan s) := by
  unfold execPlanDeliver
  repeat' first
    | with_reducible first
      | assumption | (intro) | apply KeepsOut.next | exact KeepsOut.fault | apply KeepsOut.ite
      | apply mgtRow_keeps | apply State.putPlan_keeps | apply State.respond_keeps | apply Keeps.ite
      | (fail_if_no_progress apply Keeps.mk0)
    | split

theorem execPlanWithdraw_keeps {s0 s : State} (h : Keeps s0 s) (h : DHdr) (planSeq : Nat) :
    KeepsOut s0 (execPlanWithdraw h planSeq s) := by
  unfold execPlanWithdraw
  repeat' first
    | with_reducible first
      | assumption | (intro) | apply KeepsOut.next | exact KeepsOut.fault | apply KeepsOut.ite
      | apply mgtRow_keeps | apply State.putPlan_keeps | apply State.respond_keeps | apply Keeps.ite
      | (fail_if_no_progress apply Keeps.mk0)
    | split

theorem execResetReq_keeps {s0 s : State} (h : Keeps s0 s) (h : DHdr) (kind : Nat) :
    KeepsOut s0 (execResetReq h kind s) := by
  unfold execResetReq
  repeat' first
    | with_reducible first
      | assumption | (intro)
      | (extract_lets +onlyGivenNames x; first | (refine Keeps.cut x ?_ ?_; subst x; rotate_left; intro; clear_value x) | (refine Keeps.cut x.2 ?_ ?_; subst x; rotate_left; intro; clear_value x) | (refine Keeps.cut x.1 ?_ ?_; subst x; rotate_left; intro; clear_value x) | (refine KeepsOut.cut x ?_ ?_; subst x; rotate_left; intro; clear_value x) | (refine KeepsOut.cut x.2 ?_ ?_; subst x; rotate_left; intro; clear_value x) | clear_value x)
      | apply KeepsOut.next | exact KeepsOut.fault | apply KeepsOut.ite | apply State.askTier_keeps | apply State.lockBusy_keeps
      | apply mgtRow_keeps | apply State.respond_keeps | apply Keeps.ite | apply Keeps.iteFst | apply Keeps.iteSnd
    | with_reducible (refine Keeps.ofFst (by assumption) ?_) | with_reducible (refine Keeps.ofSnd (by assumption) ?_)
    | split

theorem execDumpReq_keeps {s0 s : State} (h : Keeps s0 s) (h : DHdr) :
    KeepsOut s0 (execDumpReq h s) := by
  unfold execDumpReq
  repeat' first
    | with_reducible first
      | assumption | (intro)
      | (extract_lets +onlyGivenNames x; first | (refine Keeps.cut x ?_ ?_; subst x; rotate_left; intro; clear_value x) | (refine Keeps.cut x.2 ?_ ?_; subst x; rotate_left; intro; clear_value x) | (refine Keeps.cut x.1 ?_ ?_; subst x; rotate_left; intro; clear_value x) | (refine KeepsOut.cut x ?_ ?_; subst x; rotate_left; intro; clear_value x) | (refine KeepsOut.cut x.2 ?_ ?_; subst x; rotate_left; intro; clear_value x) | clear_value x)
      | apply KeepsOut.next | exact KeepsOut.fault | apply KeepsOut.ite | apply State.askDump_keeps | apply State.lockBusy_keeps
      | apply mgtRow_keeps | apply State.respond_keeps | apply Keeps.ite | apply Keeps.iteFst | apply Keeps.iteSnd
    | with_reducible (refine Keeps.ofFst (by assumption) ?_) | with_reducible (refine Keeps.ofSnd (by assumption) ?_)
    | split

theorem execDumpRead_keeps {s0 s : State} (h : Keeps s0 s) (h : DHdr) (word len : Nat) :
    KeepsOut s0 (execDumpRead h word len s) := by
  unfold execDumpRead
  repeat' first
    | with_reducible first
      | assumption | (intro) | apply KeepsOut.next | exact KeepsOut.fault | apply KeepsOut.ite
      | apply mgtRow_keeps | apply State.respond_keeps | apply Keeps.ite
    | split

theorem after_keeps {s0 s : State} (h : Keeps s0 s) {o : Host.Outcome State Fault Refusal} (k : KeepsOut s0 o) : Keeps s0 (after s o) := by
  rcases k with ⟨t, e, kt⟩ | e
  · subst e; exact kt
  · subst e; exact h

theorem State.work_keeps {s0 s : State} (h : Keeps s0 s) (i : Waiting) : Keeps s0 (s.work i) := by
  cases i
  · exact after_keeps h (execMalformedDuntusMessage_keeps h _ _)
  · exact after_keeps h (execMgtSessionNonce_keeps h _ _)
  · exact after_keeps h (execMgtSessionOpen_keeps h _ _)
  · exact after_keeps h (execMgtSessionClose_keeps h _)
  · exact after_keeps h (execStatusGet_keeps h _)
  · exact after_keeps h (execRegRead_keeps h _ _ _)
  · exact after_keeps h (execRegWrite_keeps h _ _ _ _)
  · exact after_keeps h (execCapSet_keeps h _ _ _)
  · exact after_keeps h (execPowerReportGet_keeps h _)
  · exact after_keeps h (execPoweroffNotice_keeps h _)
  · exact after_keeps h (execPlanDeliver_keeps h _ _ _ _ _ _)
  · exact after_keeps h (execPlanWithdraw_keeps h _ _)
  · exact after_keeps h (execResetReq_keeps h _ _)
  · exact after_keeps h (execDumpReq_keeps h _)
  · exact after_keeps h (execDumpRead_keeps h _ _ _)

theorem State.workLate_keeps {s0 s : State} (h : Keeps s0 s) (i : Waiting) (ms : Nat) :
    Keeps s0 (State.workLate s i ms) := by
  unfold State.workLate
  repeat' first
    | with_reducible first
      | assumption | (intro)
      | (extract_lets +onlyGivenNames x; first | (refine Keeps.cut x ?_ ?_; subst x; rotate_left; intro; clear_value x) | clear_value x)
      | apply State.fset_keeps | apply State.when_keeps | apply State.work_keeps | apply Keeps.ite
    | split

theorem State.backlog_keeps {s0 s : State} (h : Keeps s0 s)  :
    Keeps s0 (State.backlog s) := by
  unfold State.backlog
  repeat' first
    | with_reducible first
      | assumption | (intro) | apply State.each_keeps | apply State.workLate_keeps | apply Keeps.ite
      | (fail_if_no_progress apply Keeps.mk0)
    | with_reducible (refine Keeps.ofFst (by assumption) ?_) | with_reducible (refine Keeps.ofSnd (by assumption) ?_)
    | split

theorem portRow_keeps {s0 s : State} (h : Keeps s0 s) (code : Nat) (body : List Byte) :
    KeepsOut s0 (portRow code body s) := by
  unfold portRow
  repeat' first
    | with_reducible first
      | assumption | (intro) | apply guardUnit_keeps | apply KeepsOut.next | exact KeepsOut.fault
      | apply KeepsOut.ite | apply State.emit_keeps | apply State.when_keeps | apply Keeps.ite
    | split

theorem execSetEndpointId_keeps {s0 s : State} (h : Keeps s0 s) (eid src : Nat) :
    KeepsOut s0 (execSetEndpointId eid src s) := by
  unfold execSetEndpointId
  repeat' first
    | with_reducible first
      | assumption | (intro)
      | (extract_lets +onlyGivenNames x; first | (refine Keeps.cut x ?_ ?_; subst x; rotate_left; intro; clear_value x) | (refine KeepsOut.cut x ?_ ?_; subst x; rotate_left; intro; clear_value x) | clear_value x)
      | apply guardUnit_keeps | apply KeepsOut.next | exact KeepsOut.fault | apply KeepsOut.ite | apply State.emit_keeps
      | apply State.fset_keeps | apply Keeps.ite | (fail_if_no_progress apply Keeps.mk0)
    | split

theorem execGetEndpointId_keeps {s0 s : State} (h : Keeps s0 s)  :
    KeepsOut s0 (execGetEndpointId s) := by
  unfold execGetEndpointId
  repeat' first
    | with_reducible first
      | assumption | (intro) | apply KeepsOut.next | exact KeepsOut.fault | apply KeepsOut.ite
      | apply portRow_keeps | apply Keeps.ite
    | split

theorem execGetMctpVersionSupport_keeps {s0 s : State} (h : Keeps s0 s)  :
    KeepsOut s0 (execGetMctpVersionSupport s) := by
  unfold execGetMctpVersionSupport
  repeat' first
    | with_reducible first
      | assumption | (intro) | apply KeepsOut.next | exact KeepsOut.fault | apply KeepsOut.ite
      | apply portRow_keeps | apply Keeps.ite
    | split

theorem execGetMessageTypeSupport_keeps {s0 s : State} (h : Keeps s0 s)  :
    KeepsOut s0 (execGetMessageTypeSupport s) := by
  unfold execGetMessageTypeSupport
  repeat' first
    | with_reducible first
      | assumption | (intro) | apply KeepsOut.next | exact KeepsOut.fault | apply KeepsOut.ite
      | apply portRow_keeps | apply Keeps.ite
    | split

theorem execGetVendorMessageSupport_keeps {s0 s : State} (h : Keeps s0 s)  :
    KeepsOut s0 (execGetVendorMessageSupport s) := by
  unfold execGetVendorMessageSupport
  repeat' first
    | with_reducible first
      | assumption | (intro) | apply KeepsOut.next | exact KeepsOut.fault | apply KeepsOut.ite
      | apply portRow_keeps | apply Keeps.ite
    | split

theorem execEnec_keeps {s0 s : State} (h : Keeps s0 s) (events : Byte) :
    KeepsOut s0 (execEnec events s) := by
  unfold execEnec
  repeat' first
    | with_reducible first
      | assumption | (intro) | apply guardUnit_keeps | apply KeepsOut.next | exact KeepsOut.fault
      | apply KeepsOut.ite | apply State.when_keeps | apply Keeps.ite | (fail_if_no_progress apply Keeps.mk0)
    | split

theorem execDisec_keeps {s0 s : State} (h : Keeps s0 s) (events : Byte) :
    KeepsOut s0 (execDisec events s) := by
  unfold execDisec
  repeat' first
    | with_reducible first
      | assumption | (intro) | apply guardUnit_keeps | apply KeepsOut.next | exact KeepsOut.fault
      | apply KeepsOut.ite | apply State.when_keeps | apply Keeps.ite | (fail_if_no_progress apply Keeps.mk0)
    | split

theorem execRstdaa_keeps {s0 s : State} (h : Keeps s0 s)  :
    KeepsOut s0 (execRstdaa s) := by
  unfold execRstdaa
  repeat' first
    | with_reducible first
      | assumption | (intro) | apply guardUnit_keeps | apply KeepsOut.next | exact KeepsOut.fault
      | apply KeepsOut.ite | apply State.fset_keeps | apply State.when_keeps | apply Keeps.ite
    | split

theorem execEntdaa_keeps {s0 s : State} (h : Keeps s0 s) (addr : Nat) :
    KeepsOut s0 (execEntdaa addr s) := by
  unfold execEntdaa
  repeat' first
    | with_reducible first
      | assumption | (intro) | apply guardUnit_keeps | apply KeepsOut.next | exact KeepsOut.fault
      | apply KeepsOut.ite | apply State.fset_keeps | apply State.when_keeps | apply Keeps.ite
    | split

theorem execSetmwl_keeps {s0 s : State} (h : Keeps s0 s) (len : Nat) :
    KeepsOut s0 (execSetmwl len s) := by
  unfold execSetmwl
  repeat' first
    | with_reducible first
      | assumption | (intro) | apply guardUnit_keeps | apply KeepsOut.next | exact KeepsOut.fault
      | apply KeepsOut.ite | apply State.when_keeps | apply Keeps.ite | (fail_if_no_progress apply Keeps.mk0)
    | split

theorem execSetmrl_keeps {s0 s : State} (h : Keeps s0 s) (len : Nat) :
    KeepsOut s0 (execSetmrl len s) := by
  unfold execSetmrl
  repeat' first
    | with_reducible first
      | assumption | (intro) | apply guardUnit_keeps | apply KeepsOut.next | exact KeepsOut.fault
      | apply KeepsOut.ite | apply State.when_keeps | apply Keeps.ite | (fail_if_no_progress apply Keeps.mk0)
    | split

theorem execGetpid_keeps {s0 s : State} (h : Keeps s0 s)  :
    KeepsOut s0 (execGetpid s) := by
  unfold execGetpid
  repeat' first
    | with_reducible first
      | assumption | (intro) | apply KeepsOut.next | exact KeepsOut.fault | apply KeepsOut.ite
      | apply portRow_keeps | apply Keeps.ite
    | split

theorem execGetbcr_keeps {s0 s : State} (h : Keeps s0 s)  :
    KeepsOut s0 (execGetbcr s) := by
  unfold execGetbcr
  repeat' first
    | with_reducible first
      | assumption | (intro) | apply KeepsOut.next | exact KeepsOut.fault | apply KeepsOut.ite
      | apply portRow_keeps | apply Keeps.ite
    | split

theorem execGetdcr_keeps {s0 s : State} (h : Keeps s0 s)  :
    KeepsOut s0 (execGetdcr s) := by
  unfold execGetdcr
  repeat' first
    | with_reducible first
      | assumption | (intro) | apply KeepsOut.next | exact KeepsOut.fault | apply KeepsOut.ite
      | apply portRow_keeps | apply Keeps.ite
    | split

theorem execGetstatus_keeps {s0 s : State} (h : Keeps s0 s)  :
    KeepsOut s0 (execGetstatus s) := by
  unfold execGetstatus
  repeat' first
    | with_reducible first
      | assumption | (intro)
      | (extract_lets +onlyGivenNames x; first | (refine Keeps.cut x ?_ ?_; subst x; rotate_left; intro; clear_value x) | (refine Keeps.cut x.2 ?_ ?_; subst x; rotate_left; intro; clear_value x) | (refine Keeps.cut x.1 ?_ ?_; subst x; rotate_left; intro; clear_value x) | (refine KeepsOut.cut x ?_ ?_; subst x; rotate_left; intro; clear_value x) | (refine KeepsOut.cut x.2 ?_ ?_; subst x; rotate_left; intro; clear_value x) | clear_value x)
      | apply guardUnit_keeps | apply KeepsOut.next | exact KeepsOut.fault | apply KeepsOut.ite | apply State.free_keeps
      | apply portRow_keeps | apply Keeps.ite | apply Keeps.iteFst | apply Keeps.iteSnd
    | with_reducible (refine Keeps.ofFst (by assumption) ?_) | with_reducible (refine Keeps.ofSnd (by assumption) ?_)
    | split

theorem execGetmwl_keeps {s0 s : State} (h : Keeps s0 s)  :
    KeepsOut s0 (execGetmwl s) := by
  unfold execGetmwl
  repeat' first
    | with_reducible first
      | assumption | (intro) | apply KeepsOut.next | exact KeepsOut.fault | apply KeepsOut.ite
      | apply portRow_keeps | apply Keeps.ite
    | split

theorem execGetmrl_keeps {s0 s : State} (h : Keeps s0 s)  :
    KeepsOut s0 (execGetmrl s) := by
  unfold execGetmrl
  repeat' first
    | with_reducible first
      | assumption | (intro) | apply KeepsOut.next | exact KeepsOut.fault | apply KeepsOut.ite
      | apply portRow_keeps | apply Keeps.ite
    | split

end Sys2Proof.Machine
end

