-- ==== Sys2Proof/Laws/KeepBringUp.lean ====
section
/-! SUPPORT. What the operations of Machine/BringUp.lean keep (see Laws/Keep.lean). -/

set_option linter.all false

namespace Sys2Proof.Machine

theorem State.cold_keeps {s0 s : State} (h : Keeps s0 s) : Keeps s0 (State.cold s) := by
  refine Keeps.mk3 h (fun w => Sparse.clear_wf w _) ?_ ?_ ?_ ?_ ?_ ?_ ?_ ?_ ?_ (fun w => Sparse.mapVals_wf w _) ?_ ?_ id
    (cmdsNil _) (Nat.le_refl _) <;> exact fun _ => rfl

theorem execPowerOn_keeps {s0 s : State} (h : Keeps s0 s) (sel1 sel0 : Bool) :
    KeepsOut s0 (execPowerOn sel1 sel0 s) := by
  unfold execPowerOn
  repeat' first
    | with_reducible first
      | assumption | (intro)
      | (extract_lets +onlyGivenNames x; first | (refine Keeps.cut x ?_ ?_; subst x; rotate_left; intro; clear_value x) | (refine KeepsOut.cut x ?_ ?_; subst x; rotate_left; intro; clear_value x) | clear_value x)
      | apply guardUnit_keeps | apply KeepsOut.next | exact KeepsOut.fault | apply KeepsOut.ite | apply State.cold_keeps
      | apply State.each_keeps | apply State.fset_keeps | apply State.setReady_keeps | apply Keeps.ite
      | (fail_if_no_progress apply Keeps.mk0)
    | split

theorem State.powerOff_keeps {s0 s : State} (h : Keeps s0 s) (opened : Bool) :
    Keeps s0 (State.powerOff s opened) := by
  unfold State.powerOff
  repeat' first
    | with_reducible first
      | assumption | (intro)
      | (extract_lets +onlyGivenNames x; first | (refine Keeps.cut x ?_ ?_; subst x; rotate_left; intro; clear_value x) | clear_value x)
      | apply State.cold_keeps | apply State.fset_keeps | apply Keeps.ite | (fail_if_no_progress apply Keeps.mk0)
    | split

theorem execPrsntRemoval_keeps {s0 s : State} (h : Keeps s0 s)  :
    KeepsOut s0 (execPrsntRemoval s) := by
  unfold execPrsntRemoval
  repeat' first
    | with_reducible first
      | assumption | (intro) | apply guardUnit_keeps | apply KeepsOut.next | exact KeepsOut.fault
      | apply KeepsOut.ite | apply State.powerOff_keeps | apply Keeps.ite
    | split

theorem execInputFault_keeps {s0 s : State} (h : Keeps s0 s)  :
    KeepsOut s0 (execInputFault s) := by
  unfold execInputFault
  repeat' first
    | with_reducible first
      | assumption | (intro) | apply guardUnit_keeps | apply KeepsOut.next | exact KeepsOut.fault
      | apply KeepsOut.ite | apply State.powerOff_keeps | apply Keeps.ite
    | split

theorem execOvercurrent_keeps {s0 s : State} (h : Keeps s0 s)  :
    KeepsOut s0 (execOvercurrent s) := by
  unfold execOvercurrent
  repeat' first
    | with_reducible first
      | assumption | (intro) | apply guardUnit_keeps | apply KeepsOut.next | exact KeepsOut.fault
      | apply KeepsOut.ite | apply State.droop_keeps | apply State.each_keeps | apply State.when_keeps | apply Keeps.ite
    | split

theorem State.startPorts_keeps {s0 s : State} (h : Keeps s0 s)  :
    Keeps s0 (State.startPorts s) := by
  unfold State.startPorts
  repeat' first
    | with_reducible first
      | assumption | (intro) | apply State.each_keeps | apply State.portStart_keeps | apply Keeps.ite
    | split

theorem State.startLinks_keeps {s0 s : State} (h : Keeps s0 s)  :
    Keeps s0 (State.startLinks s) := by
  unfold State.startLinks
  repeat' first
    | with_reducible first
      | assumption | (intro) | apply State.each_keeps | apply State.fset_keeps | apply Keeps.ite
    | split

theorem State.checkHost_keeps {s0 s : State} (h : Keeps s0 s)  :
    Keeps s0 (State.checkHost s) := by
  unfold State.checkHost
  repeat' first
    | with_reducible first
      | assumption | (intro) | apply State.fset_keeps | apply State.startLinks_keeps | apply Keeps.ite
    | split

theorem execRailAssert_keeps {s0 s : State} (h : Keeps s0 s) (rail : Nat) :
    KeepsOut s0 (execRailAssert rail s) := by
  unfold execRailAssert
  repeat' first
    | with_reducible first
      | assumption | (intro)
      | (extract_lets +onlyGivenNames x; first | (refine Keeps.cut x ?_ ?_; subst x; rotate_left; intro; clear_value x) | (refine KeepsOut.cut x ?_ ?_; subst x; rotate_left; intro; clear_value x) | clear_value x)
      | apply guardUnit_keeps | apply KeepsOut.next | exact KeepsOut.fault | apply KeepsOut.ite | apply State.checkHost_keeps
      | apply State.fset_keeps | apply State.startPorts_keeps | apply State.when_keeps | apply Keeps.ite
      | (fail_if_no_progress apply Keeps.mk0)
    | split

theorem execRailReqRetry_keeps {s0 s : State} (h : Keeps s0 s)  :
    KeepsOut s0 (execRailReqRetry s) := by
  unfold execRailReqRetry
  repeat' first
    | with_reducible first
      | assumption | (intro)
      | (extract_lets +onlyGivenNames x; first | (refine Keeps.cut x ?_ ?_; subst x; rotate_left; intro; clear_value x) | (refine KeepsOut.cut x ?_ ?_; subst x; rotate_left; intro; clear_value x) | clear_value x)
      | apply guardUnit_keeps | apply KeepsOut.next | exact KeepsOut.fault | apply KeepsOut.ite | apply State.duntus_keeps
      | apply Keeps.ite
    | split

theorem State.coldDomains_keeps {s0 s : State} (h : Keeps s0 s) : Keeps s0 (State.coldDomains s) := by
  unfold State.coldDomains
  have k1 := State.each_keeps (f := fun s fn => s.endSession fn) (l := List.range 20)
    (fun _ k x => State.endSession_keeps k x) h
  refine State.showFirmware_keeps (State.applyPkg_keeps (State.showStacks_keeps
    (State.applyMap_keeps (State.restartBeats_keeps ?_)) _))
  apply State.each_keeps
  · intro t k x
    split
    · exact State.fset_keeps k _ _ _ _
    · exact k
  · refine Keeps.mk3 k1 (fun w => Sparse.clear_wf w _) id ?_ ?_ ?_ ?_ ?_ ?_ ?_ (fun w => Sparse.clear_wf w _) id ?_ ?_ id
      (cmdsNil _) (Nat.le_refl _) <;> exact fun _ => rfl

theorem State.restartRails_keeps {s0 s : State} (h : Keeps s0 s)  :
    Keeps s0 (State.restartRails s) := by
  unfold State.restartRails
  repeat' first
    | with_reducible first
      | assumption | (intro)
      | (extract_lets +onlyGivenNames x; first | (refine Keeps.cut x ?_ ?_; subst x; rotate_left; intro; clear_value x) | clear_value x)
      | apply State.fset_keeps | apply State.setTier_keeps | apply Keeps.ite | (fail_if_no_progress apply Keeps.mk0)
    | split

theorem State.railsFall_keeps {s0 s : State} (h : Keeps s0 s)  :
    Keeps s0 (State.railsFall s) := by
  unfold State.railsFall
  repeat' first
    | with_reducible first
      | assumption | (intro)
      | (extract_lets +onlyGivenNames x; first | (refine Keeps.cut x ?_ ?_; subst x; rotate_left; intro; clear_value x) | clear_value x)
      | apply State.each_keeps | apply State.fset_keeps | apply State.restartRails_keeps | apply State.toOff_keeps
      | apply Keeps.ite
    | split

theorem execRailLoss_keeps {s0 s : State} (h : Keeps s0 s) (rail : Nat) :
    KeepsOut s0 (execRailLoss rail s) := by
  unfold execRailLoss
  repeat' first
    | with_reducible first
      | assumption | (intro)
      | (extract_lets +onlyGivenNames x; first | (refine Keeps.cut x ?_ ?_; subst x; rotate_left; intro; clear_value x) | (refine KeepsOut.cut x ?_ ?_; subst x; rotate_left; intro; clear_value x) | clear_value x)
      | apply guardUnit_keeps | apply KeepsOut.next | exact KeepsOut.fault | apply KeepsOut.ite | apply State.coldDomains_keeps
      | apply State.fset_keeps | apply State.powerOff_keeps | apply State.railsFall_keeps | apply State.restartRails_keeps
      | apply State.startPkg_keeps | apply Keeps.ite | (fail_if_no_progress apply Keeps.mk0)
    | split

theorem execRailRemoval_keeps {s0 s : State} (h : Keeps s0 s) (rail : Nat) :
    KeepsOut s0 (execRailRemoval rail s) := by
  unfold execRailRemoval
  repeat' first
    | exact id | exact fun w => Sparse.set_wf w _ _ | exact fun w => Sparse.clear_wf w _ | exact fun w => Sparse.mapVals_wf w _
    | exact fun _ => rfl | exact fun w => Sparse.setRange_wf _ w _ | exact fun w => Sparse.foldl_set_wf _ _ _ w
    | with_reducible first
      | assumption | (intro)
      | (extract_lets +onlyGivenNames x; first | (refine Keeps.cut x ?_ ?_; subst x; rotate_left; intro; clear_value x) | (refine KeepsOut.cut x ?_ ?_; subst x; rotate_left; intro; clear_value x) | clear_value x)
      | apply guardUnit_keeps | apply KeepsOut.next | exact KeepsOut.fault | apply KeepsOut.ite | apply State.dropLinks_keeps
      | apply State.each_keeps | apply State.fenceCompute_keeps | apply State.fencePages_keeps | apply State.fset_keeps
      | apply State.powerOff_keeps | apply Keeps.ite | (fail_if_no_progress apply Keeps.mk0)
    | with_reducible ((fail_if_success apply Keeps.mk0); apply Keeps.mk1)
    | split

theorem execMemoryTrainingStart_keeps {s0 s : State} (h : Keeps s0 s)  :
    KeepsOut s0 (execMemoryTrainingStart s) := by
  unfold execMemoryTrainingStart
  repeat' first
    | with_reducible first
      | assumption | (intro)
      | (extract_lets +onlyGivenNames x; first | (refine Keeps.cut x ?_ ?_; subst x; rotate_left; intro; clear_value x) | (refine KeepsOut.cut x ?_ ?_; subst x; rotate_left; intro; clear_value x) | clear_value x)
      | apply guardUnit_keeps | apply KeepsOut.next | exact KeepsOut.fault | apply KeepsOut.ite | apply State.fset_keeps
      | apply State.startLinks_keeps | apply State.startPorts_keeps | apply State.trainStart_keeps
      | apply State.unfencePages_keeps | apply Keeps.ite
    | split

theorem execMemoryTrainingDone_keeps {s0 s : State} (h : Keeps s0 s) (failed : List Nat) (ms : Nat) (spare : List (Nat × Nat)) :
    KeepsOut s0 (execMemoryTrainingDone failed ms spare s) := by
  unfold execMemoryTrainingDone
  repeat' first
    | with_reducible first
      | assumption | (intro)
      | (extract_lets +onlyGivenNames x; first | (refine Keeps.cut x ?_ ?_; subst x; rotate_left; intro; clear_value x) | (refine KeepsOut.cut x ?_ ?_; subst x; rotate_left; intro; clear_value x) | clear_value x)
      | apply guardUnit_keeps | apply KeepsOut.next | exact KeepsOut.fault | apply KeepsOut.ite | apply State.checkHost_keeps
      | apply State.trainDone_keeps | apply Keeps.ite | (fail_if_no_progress apply Keeps.mk0)
    | split

theorem State.retireTiles_keeps {s0 s : State} (h : Keeps s0 s) (bad : List Nat) :
    Keeps s0 (State.retireTiles s bad) := by
  unfold State.retireTiles
  repeat' first
    | with_reducible first
      | assumption | (intro) | apply State.brokeAdd_keeps | apply State.each_keeps
      | apply State.setTile_keeps | apply Keeps.ite | (fail_if_no_progress apply Keeps.mk0)
    | split

theorem execComputeDieTestDone_keeps {s0 s : State} (h : Keeps s0 s) (badTiles : List Nat) (unitOk ioOk : Bool) :
    KeepsOut s0 (execComputeDieTestDone badTiles unitOk ioOk s) := by
  unfold execComputeDieTestDone
  repeat' first
    | with_reducible first
      | assumption | (intro)
      | (extract_lets +onlyGivenNames x; first | (refine Keeps.cut x ?_ ?_; subst x; rotate_left; intro; clear_value x) | (refine KeepsOut.cut x ?_ ?_; subst x; rotate_left; intro; clear_value x) | clear_value x)
      | apply guardUnit_keeps | apply KeepsOut.next | exact KeepsOut.fault | apply KeepsOut.ite | apply State.checkHost_keeps
      | apply State.failUp_keeps | apply State.retireTiles_keeps | apply Keeps.ite | (fail_if_no_progress apply Keeps.mk0)
    | split

theorem execHostLinkWindowEnd_keeps {s0 s : State} (h : Keeps s0 s) (link : Nat) :
    KeepsOut s0 (execHostLinkWindowEnd link s) := by
  unfold execHostLinkWindowEnd
  repeat' first
    | with_reducible first
      | assumption | (intro) | apply guardUnit_keeps | apply KeepsOut.next | exact KeepsOut.fault
      | apply KeepsOut.ite | apply Keeps.ite | (fail_if_no_progress apply Keeps.mk0)
    | split

theorem execBringupReady_keeps {s0 s : State} (h : Keeps s0 s) (ms : Nat) :
    KeepsOut s0 (execBringupReady ms s) := by
  unfold execBringupReady
  repeat' first
    | with_reducible first
      | assumption | (intro)
      | (extract_lets +onlyGivenNames x; first | (refine Keeps.cut x ?_ ?_; subst x; rotate_left; intro; clear_value x) | (refine KeepsOut.cut x ?_ ?_; subst x; rotate_left; intro; clear_value x) | clear_value x)
      | apply guardUnit_keeps | apply KeepsOut.next | exact KeepsOut.fault | apply KeepsOut.ite | apply State.applyMap_keeps
      | apply State.each_keeps | apply State.fset_keeps | apply State.setReg_keeps | apply State.setTier_keeps | apply Keeps.ite
      | (fail_if_no_progress apply Keeps.mk0)
    | split

theorem execBringupWatchdog_keeps {s0 s : State} (h : Keeps s0 s)  :
    KeepsOut s0 (execBringupWatchdog s) := by
  unfold execBringupWatchdog
  repeat' first
    | with_reducible first
      | assumption | (intro)
      | (extract_lets +onlyGivenNames x; first | (refine Keeps.cut x ?_ ?_; subst x; rotate_left; intro; clear_value x) | (refine KeepsOut.cut x ?_ ?_; subst x; rotate_left; intro; clear_value x) | clear_value x)
      | apply guardUnit_keeps | apply KeepsOut.next | exact KeepsOut.fault | apply KeepsOut.ite | apply State.failUp_keeps
      | apply State.fset_keeps | apply Keeps.ite
    | split

end Sys2Proof.Machine
end

