-- ==== Sys2Proof/Laws/KeepBeats.lean ====
section
/-! SUPPORT. What the operations of Machine/Beats.lean keep (see Laws/Keep.lean). -/

set_option linter.all false

namespace Sys2Proof.Machine

theorem State.endBeatOf_keeps {s0 s : State} (h : Keeps s0 s) (c : Nat) :
    Keeps s0 (State.endBeatOf s c) := by
  unfold State.endBeatOf
  repeat' first
    | with_reducible first
      | assumption | (intro)
      | (extract_lets +onlyGivenNames x; first | (refine Keeps.cut x ?_ ?_; subst x; rotate_left; intro; clear_value x) | clear_value x)
      | apply State.bumpBy_keeps | apply State.raiseTo_keeps | apply State.setCtx_keeps | apply State.when_keeps | apply Keeps.ite
      | (fail_if_no_progress apply Keeps.mk0)
    | split

theorem State.publish_keeps {s0 s : State} (h : Keeps s0 s) (c : Nat) :
    Keeps s0 (State.publish s c) := by
  unfold State.publish
  repeat' first
    | with_reducible first
      | assumption | (intro)
      | (extract_lets +onlyGivenNames x; first | (refine Keeps.cut x ?_ ?_; subst x; rotate_left; intro; clear_value x) | clear_value x)
      | apply State.setCtx_keeps | apply Keeps.foldl | apply Keeps.foldlFst | apply Keeps.foldlSnd | apply Keeps.ite
      | (fail_if_no_progress apply Keeps.mk0)
    | split

theorem State.endReam_keeps {s0 s : State} (h : Keeps s0 s) (c : Nat) :
    Keeps s0 (State.endReam s c) := by
  unfold State.endReam
  repeat' first
    | with_reducible first
      | assumption | (intro)
      | (extract_lets +onlyGivenNames x; first | (refine Keeps.cut x ?_ ?_; subst x; rotate_left; intro; clear_value x) | clear_value x)
      | apply State.finishAll_keeps | apply State.journal_keeps | apply State.modCtx_keeps | apply State.unbindAll_keeps
      | apply Keeps.ite | (fail_if_no_progress apply Keeps.mk0)
    | split

theorem State.publishStep_keeps {s0 s : State} (h : Keeps s0 s) (c : Nat) :
    Keeps s0 (State.publishStep s c) := by
  unfold State.publishStep
  repeat' first
    | with_reducible first
      | assumption | (intro)
      | (extract_lets +onlyGivenNames x; first | (refine Keeps.cut x ?_ ?_; subst x; rotate_left; intro; clear_value x) | clear_value x)
      | apply State.endReam_keeps | apply State.publish_keeps | apply State.release_keeps | apply State.settle_keeps
      | apply State.unbindAll_keeps | apply State.when_keeps | apply Keeps.ite
    | split

theorem State.publishAll_keeps {s0 s : State} (h : Keeps s0 s)  :
    Keeps s0 (State.publishAll s) := by
  unfold State.publishAll
  repeat' first
    | with_reducible first
      | assumption | (intro) | apply State.clearSuspect_keeps | apply State.each_keeps
      | apply State.pruneSet_keeps | apply State.publishStep_keeps | apply Keeps.ite
    | split

theorem State.fallDue_keeps {s0 s : State} (h : Keeps s0 s) (c q : Nat) :
    Keeps s0 (State.fallDue s c q) := by
  unfold State.fallDue
  repeat' first
    | with_reducible first
      | assumption | (intro)
      | (extract_lets +onlyGivenNames x; first | (refine Keeps.cut x ?_ ?_; subst x; rotate_left; intro; clear_value x) | clear_value x)
      | apply State.setCtx_keeps | apply Keeps.ite | (fail_if_no_progress apply Keeps.mk0)
    | split

theorem State.advance_keeps {s0 s : State} (h : Keeps s0 s) (c : Nat) :
    Keeps s0 (State.advance s c) := by
  unfold State.advance
  repeat' first
    | with_reducible first
      | assumption | (intro)
      | (extract_lets +onlyGivenNames x; first | (refine Keeps.cut x ?_ ?_; subst x; rotate_left; intro; clear_value x) | clear_value x)
      | apply State.fallDue_keeps | apply State.finishAll_keeps | apply State.modCtx_keeps | apply State.when_keeps
      | apply Keeps.ite | (fail_if_no_progress apply Keeps.mk0)
    | split

theorem State.startOnTile_keeps {s0 s : State} (h : Keeps s0 s) (tile : Nat) :
    Keeps s0 (State.startOnTile s tile) := by
  unfold State.startOnTile
  repeat' first
    | with_reducible first
      | assumption | (intro) | apply State.startSheet_keeps | apply Keeps.ite
      | (fail_if_no_progress apply Keeps.mk0)
    | split

theorem State.tryStep_keeps {s0 s : State} (h : Keeps s0 s) (c : Nat) (p : Step) :
    Keeps s0 (State.tryStep s c p) := by
  unfold State.tryStep
  repeat' first
    | with_reducible first
      | assumption | (intro)
      | (extract_lets +onlyGivenNames x; first | (refine Keeps.cut x ?_ ?_; subst x; rotate_left; intro; clear_value x) | (refine Keeps.cut x.2 ?_ ?_; subst x; rotate_left; intro; clear_value x) | (refine Keeps.cut x.1 ?_ ?_; subst x; rotate_left; intro; clear_value x) | clear_value x)
      | apply State.bump_keeps | apply State.fresh_keeps | apply State.startStep_keeps | apply State.when_keeps | apply Keeps.ite
      | apply Keeps.iteFst | apply Keeps.iteSnd | (fail_if_no_progress apply Keeps.mk0)
    | with_reducible (refine Keeps.ofFst (by assumption) ?_) | with_reducible (refine Keeps.ofSnd (by assumption) ?_)
    | split

theorem State.startsOf_keeps {s0 s : State} (h : Keeps s0 s) (c : Nat) :
    Keeps s0 (State.startsOf s c) := by
  unfold State.startsOf
  repeat' first
    | exact id | exact fun w => Sparse.set_wf w _ _ | exact fun w => Sparse.clear_wf w _ | exact fun w => Sparse.mapVals_wf w _
    | exact fun _ => rfl | exact fun w => Sparse.setRange_wf _ w _ | exact fun w => Sparse.foldl_set_wf _ _ _ w
    | with_reducible first
      | assumption | (intro)
      | (extract_lets +onlyGivenNames x; first | (refine Keeps.cut x ?_ ?_; subst x; rotate_left; intro; clear_value x) | (refine Keeps.cut x.2 ?_ ?_; subst x; rotate_left; intro; clear_value x) | (refine Keeps.cut x.1 ?_ ?_; subst x; rotate_left; intro; clear_value x) | clear_value x)
      | apply State.each_keeps | apply State.startOnTile_keeps | apply State.tryStep_keeps | apply Keeps.ite
    | with_reducible ((fail_if_success apply Keeps.mk0); apply Keeps.mk1)
    | with_reducible (refine Keeps.ofFst (by assumption) ?_) | with_reducible (refine Keeps.ofSnd (by assumption) ?_)
    | split

theorem State.countWaits_keeps {s0 s : State} (h : Keeps s0 s)  :
    Keeps s0 (State.countWaits s) := by
  unfold State.countWaits
  repeat' first
    | with_reducible first
      | assumption | (intro)
      | (extract_lets +onlyGivenNames x; first | (refine Keeps.cut x ?_ ?_; subst x; rotate_left; intro; clear_value x) | clear_value x)
      | apply State.bumpBy_keeps | apply Keeps.ite
    | split

theorem State.startAll_keeps {s0 s : State} (h : Keeps s0 s)  :
    Keeps s0 (State.startAll s) := by
  unfold State.startAll
  repeat' first
    | with_reducible first
      | assumption | (intro)
      | (extract_lets +onlyGivenNames x; first | (refine Keeps.cut x ?_ ?_; subst x; rotate_left; intro; clear_value x) | clear_value x)
      | apply State.advance_keeps | apply State.countWaits_keeps | apply State.each_keeps | apply State.startReplay_keeps
      | apply State.startsOf_keeps | apply Keeps.ite
    | split

theorem State.sendMarkers_keeps {s0 s : State} (h : Keeps s0 s)  :
    Keeps s0 (State.sendMarkers s) := by
  unfold State.sendMarkers
  repeat' first
    | exact id | exact fun w => Sparse.set_wf w _ _ | exact fun w => Sparse.clear_wf w _ | exact fun w => Sparse.mapVals_wf w _
    | exact fun _ => rfl | exact fun w => Sparse.setRange_wf _ w _ | exact fun w => Sparse.foldl_set_wf _ _ _ w
    | with_reducible first
      | assumption | (intro)
      | (extract_lets +onlyGivenNames x; first | (refine Keeps.cut x ?_ ?_; subst x; rotate_left; intro; clear_value x) | clear_value x)
      | apply State.each_keeps | apply State.sendCtl_keeps | apply Keeps.ite | (fail_if_no_progress apply Keeps.mk0)
    | with_reducible ((fail_if_success apply Keeps.mk0); apply Keeps.mk1)
    | split

theorem State.nextBeat_keeps {s0 s : State} (h : Keeps s0 s)  :
    Keeps s0 (State.nextBeat s) := by
  unfold State.nextBeat
  repeat' first
    | with_reducible first
      | assumption | (intro)
      | (extract_lets +onlyGivenNames x; first | (refine Keeps.cut x ?_ ?_; subst x; rotate_left; intro; clear_value x) | clear_value x)
      | apply State.advance_keeps | apply State.fset_keeps | apply Keeps.ite | (fail_if_no_progress apply Keeps.mk0)
    | split

theorem State.placeStep_keeps {s0 s : State} (h : Keeps s0 s)  :
    Keeps s0 (State.placeStep s) := by
  unfold State.placeStep
  repeat' first
    | with_reducible first
      | assumption | (intro)
      | (extract_lets +onlyGivenNames x; first | (refine Keeps.cut x ?_ ?_; subst x; rotate_left; intro; clear_value x) | clear_value x)
      | apply State.applyPlacement_keeps | apply State.mapStep_keeps | apply Keeps.ite | (fail_if_no_progress apply Keeps.mk0)
    | split

theorem State.powerStep_keeps {s0 s : State} (h : Keeps s0 s)  :
    Keeps s0 (State.powerStep s) := by
  unfold State.powerStep
  repeat' first
    | with_reducible first
      | assumption | (intro) | apply State.applyCalender_keeps | apply State.applyLive_keeps
      | apply State.updateCap_keeps | apply State.when_keeps | apply Keeps.ite
    | split

theorem State.placeFreed_keeps {s0 s : State} (h : Keeps s0 s)  :
    Keeps s0 (State.placeFreed s) := by
  unfold State.placeFreed
  repeat' first
    | with_reducible first
      | assumption | (intro) | apply State.each_keeps | apply State.placeHeld_keeps | apply Keeps.ite
    | split

theorem State.agePass_keeps {s0 s : State} (h : Keeps s0 s)  :
    Keeps s0 (State.agePass s) := by
  unfold State.agePass
  repeat' first
    | with_reducible first
      | assumption | (intro) | apply State.pauseTick_keeps | apply Keeps.ite
      | (fail_if_no_progress apply Keeps.mk0) | (fail_if_no_progress apply Keeps.mk2)
    | with_reducible exact Nat.le_max_left _ _
    | with_reducible exact Nat.le_refl _
    | with_reducible exact Nat.le_add_right _ _
    | with_reducible exact cmdsMap _ _
    | with_reducible exact cmdsFilterMap _ _ _
    | with_reducible exact cmdsErase _ _
    | with_reducible exact cmdsReplace _ _ _
    | with_reducible exact cmdsNil _
    | split

theorem State.openBeat_keeps {s0 s : State} (h : Keeps s0 s)  :
    Keeps s0 (State.openBeat s) := by
  unfold State.openBeat
  repeat' first
    | with_reducible first
      | assumption | (intro) | apply State.placeFreed_keeps | apply State.sendMarkers_keeps
      | apply State.startAll_keeps | apply Keeps.ite
    | split

theorem execBeatBoundary_keeps {s0 s : State} (h : Keeps s0 s) (silent : List Nat) :
    KeepsOut s0 (execBeatBoundary silent s) := by
  unfold execBeatBoundary
  repeat' first
    | with_reducible first
      | assumption | (intro)
      | (extract_lets +onlyGivenNames x; first | (refine Keeps.cut x ?_ ?_; subst x; rotate_left; intro; clear_value x) | (refine KeepsOut.cut x ?_ ?_; subst x; rotate_left; intro; clear_value x) | clear_value x)
      | apply guardUnit_keeps | apply KeepsOut.next | exact KeepsOut.fault | apply KeepsOut.ite | apply State.agePass_keeps
      | apply State.backlog_keeps | apply State.beatUnits_keeps | apply State.controlStep_keeps | apply State.each_keeps
      | apply State.endBeatOf_keeps | apply State.nextBeat_keeps | apply State.openBeat_keeps | apply State.placeStep_keeps
      | apply State.powerStep_keeps | apply State.publishAll_keeps | apply State.throttleAll_keeps | apply State.tryPoweroff_keeps
      | apply Keeps.ite
    | split

theorem State.rephase_keeps {s0 s : State} (h : Keeps s0 s) (port : Nat) (m : Marker) (arrival : Nat) :
    Keeps s0 (State.rephase s port m arrival) := by
  unfold State.rephase
  repeat' first
    | with_reducible first
      | assumption | (intro)
      | (extract_lets +onlyGivenNames x; first | (refine Keeps.cut x ?_ ?_; subst x; rotate_left; intro; clear_value x) | clear_value x)
      | apply State.advance_keeps | apply State.fset_keeps | apply Keeps.ite | (fail_if_no_progress apply Keeps.mk0)
    | split

theorem State.alignTo_keeps {s0 s : State} (h : Keeps s0 s) (st : Nat) :
    Keeps s0 (State.alignTo s st) := by
  unfold State.alignTo
  repeat' first
    | with_reducible first
      | assumption | (intro) | apply State.fset_keeps | apply Keeps.ite
    | split

theorem State.holdover_keeps {s0 s : State} (h : Keeps s0 s)  :
    Keeps s0 (State.holdover s) := by
  unfold State.holdover
  repeat' first
    | with_reducible first
      | assumption | (intro) | apply State.alignTo_keeps | apply State.raise_keeps | apply Keeps.ite
    | split

theorem State.aligned_keeps {s0 s : State} (h : Keeps s0 s) (port : Nat) (m : Marker) (arrival : Nat) (err : Int) :
    Keeps s0 (State.aligned s port m arrival err) := by
  unfold State.aligned
  repeat' first
    | with_reducible first
      | assumption | (intro)
      | (extract_lets +onlyGivenNames x; first | (refine Keeps.cut x ?_ ?_; subst x; rotate_left; intro; clear_value x) | clear_value x)
      | apply State.alignTo_keeps | apply State.holdover_keeps | apply State.rephase_keeps | apply State.when_keeps
      | apply Keeps.ite
    | split

theorem State.acceptMarker_keeps {s0 s : State} (h : Keeps s0 s) (port : Nat) (m : Marker) (arrival : Nat) :
    Keeps s0 (State.acceptMarker s port m arrival) := by
  unfold State.acceptMarker
  repeat' first
    | with_reducible first
      | assumption | (intro)
      | (extract_lets +onlyGivenNames x; first | (refine Keeps.cut x ?_ ?_; subst x; rotate_left; intro; clear_value x) | clear_value x)
      | apply State.aligned_keeps | apply State.bump_keeps | apply State.fset_keeps | apply State.when_keeps | apply Keeps.ite
      | (fail_if_no_progress apply Keeps.mk0)
    | split

theorem State.ignoreMarker_keeps {s0 s : State} (h : Keeps s0 s)  :
    Keeps s0 (State.ignoreMarker s) := by
  unfold State.ignoreMarker
  repeat' first
    | with_reducible first
      | assumption | (intro) | apply State.bump_keeps | apply State.raise_keeps | apply Keeps.ite
    | split

theorem execMarker_keeps {s0 s : State} (h : Keeps s0 s) (port : Nat) (m : Marker) (arrival : Nat) (replayed : Bool) :
    KeepsOut s0 (execMarker port m arrival replayed s) := by
  unfold execMarker
  repeat' first
    | with_reducible first
      | assumption | (intro)
      | (extract_lets +onlyGivenNames x; first | (refine Keeps.cut x ?_ ?_; subst x; rotate_left; intro; clear_value x) | (refine Keeps.cut x.2 ?_ ?_; subst x; rotate_left; intro; clear_value x) | (refine Keeps.cut x.1 ?_ ?_; subst x; rotate_left; intro; clear_value x) | (refine KeepsOut.cut x ?_ ?_; subst x; rotate_left; intro; clear_value x) | (refine KeepsOut.cut x.2 ?_ ?_; subst x; rotate_left; intro; clear_value x) | clear_value x)
      | apply guardUnit_keeps | apply KeepsOut.next | exact KeepsOut.fault | apply KeepsOut.ite | apply State.acceptMarker_keeps
      | apply State.fresh_keeps | apply State.ignoreMarker_keeps | apply Keeps.ite | apply Keeps.iteFst | apply Keeps.iteSnd
      | (fail_if_no_progress apply Keeps.mk0)
    | with_reducible (refine Keeps.ofFst (by assumption) ?_) | with_reducible (refine Keeps.ofSnd (by assumption) ?_)
    | split

theorem execAlignTimeout_keeps {s0 s : State} (h : Keeps s0 s)  :
    KeepsOut s0 (execAlignTimeout s) := by
  unfold execAlignTimeout
  repeat' first
    | with_reducible first
      | assumption | (intro) | apply guardUnit_keeps | apply KeepsOut.next | exact KeepsOut.fault
      | apply KeepsOut.ite | apply State.raise_keeps | apply Keeps.ite | (fail_if_no_progress apply Keeps.mk0)
    | split

theorem execMarkerTimeout_keeps {s0 s : State} (h : Keeps s0 s)  :
    KeepsOut s0 (execMarkerTimeout s) := by
  unfold execMarkerTimeout
  repeat' first
    | with_reducible first
      | assumption | (intro) | apply guardUnit_keeps | apply KeepsOut.next | exact KeepsOut.fault
      | apply KeepsOut.ite | apply State.holdover_keeps | apply Keeps.ite | (fail_if_no_progress apply Keeps.mk0)
    | split

end Sys2Proof.Machine
end

