-- ==== Sys2Proof/Laws/State.lean ====
section
/-! SUPPORT. What each update of the state leaves: one lemma for each update and field, and what is read after a write. -/

namespace Sys2Proof.Machine

@[simp] theorem State.setReg_latches (s : State) (sel page off v : Nat) : (s.setReg sel page off v).latches = s.latches := by cases s; rfl
@[simp] theorem State.setReg_held (s : State) (sel page off v : Nat) : (s.setReg sel page off v).held = s.held := by cases s; rfl
@[simp] theorem State.setReg_frozen (s : State) (sel page off v : Nat) : (s.setReg sel page off v).frozen = s.frozen := by cases s; rfl
@[simp] theorem State.setReg_flog (s : State) (sel page off v : Nat) : (s.setReg sel page off v).flog = s.flog := by cases s; rfl
@[simp] theorem State.setReg_broke (s : State) (sel page off v : Nat) : (s.setReg sel page off v).broke = s.broke := by cases s; rfl
@[simp] theorem State.setReg_brokeDue (s : State) (sel page off v : Nat) : (s.setReg sel page off v).brokeDue = s.brokeDue := by cases s; rfl
@[simp] theorem State.setReg_locks (s : State) (sel page off v : Nat) : (s.setReg sel page off v).locks = s.locks := by cases s; rfl
@[simp] theorem State.setReg_beat (s : State) (sel page off v : Nat) : (s.setReg sel page off v).beat = s.beat := by cases s; rfl
@[simp] theorem State.setReg_tiles (s : State) (sel page off v : Nat) : (s.setReg sel page off v).tiles = s.tiles := by cases s; rfl
@[simp] theorem State.setReg_spad (s : State) (sel page off v : Nat) : (s.setReg sel page off v).spad = s.spad := by cases s; rfl
@[simp] theorem State.setReg_hbm (s : State) (sel page off v : Nat) : (s.setReg sel page off v).hbm = s.hbm := by cases s; rfl
@[simp] theorem State.setReg_poison (s : State) (sel page off v : Nat) : (s.setReg sel page off v).poison = s.poison := by cases s; rfl
@[simp] theorem State.setReg_ctxs (s : State) (sel page off v : Nat) : (s.setReg sel page off v).ctxs = s.ctxs := by cases s; rfl
@[simp] theorem State.setReg_deckles (s : State) (sel page off v : Nat) : (s.setReg sel page off v).deckles = s.deckles := by cases s; rfl
@[simp] theorem State.setReg_queues (s : State) (sel page off v : Nat) : (s.setReg sel page off v).queues = s.queues := by cases s; rfl
@[simp] theorem State.setReg_sessions (s : State) (sel page off v : Nat) : (s.setReg sel page off v).sessions = s.sessions := by cases s; rfl
@[simp] theorem State.setReg_cmds (s : State) (sel page off v : Nat) : (s.setReg sel page off v).cmds = s.cmds := by cases s; rfl
@[simp] theorem State.setReg_stackTab (s : State) (sel page off v : Nat) : (s.setReg sel page off v).stackTab = s.stackTab := by cases s; rfl
@[simp] theorem State.setReg_fetching (s : State) (sel page off v : Nat) : (s.setReg sel page off v).fetching = s.fetching := by cases s; rfl
@[simp] theorem State.setReg_routers (s : State) (sel page off v : Nat) : (s.setReg sel page off v).routers = s.routers := by cases s; rfl
@[simp] theorem State.setReg_ports (s : State) (sel page off v : Nat) : (s.setReg sel page off v).ports = s.ports := by cases s; rfl
@[simp] theorem State.setReg_ident (s : State) (sel page off v : Nat) : (s.setReg sel page off v).ident = s.ident := by cases s; rfl
@[simp] theorem State.setReg_plan (s : State) (sel page off v : Nat) : (s.setReg sel page off v).plan = s.plan := by cases s; rfl
@[simp] theorem State.setReg_clk (s : State) (sel page off v : Nat) : (s.setReg sel page off v).clk = s.clk := by cases s; rfl
@[simp] theorem State.setReg_cal (s : State) (sel page off v : Nat) : (s.setReg sel page off v).cal = s.cal := by cases s; rfl
@[simp] theorem State.setReg_rst (s : State) (sel page off v : Nat) : (s.setReg sel page off v).rst = s.rst := by cases s; rfl
@[simp] theorem State.setReg_ctl (s : State) (sel page off v : Nat) : (s.setReg sel page off v).ctl = s.ctl := by cases s; rfl
@[simp] theorem State.setReg_mgt (s : State) (sel page off v : Nat) : (s.setReg sel page off v).mgt = s.mgt := by cases s; rfl
@[simp] theorem State.setReg_nvm (s : State) (sel page off v : Nat) : (s.setReg sel page off v).nvm = s.nvm := by cases s; rfl
@[simp] theorem State.setReg_bring (s : State) (sel page off v : Nat) : (s.setReg sel page off v).bring = s.bring := by cases s; rfl
@[simp] theorem State.setReg_boots (s : State) (sel page off v : Nat) : (s.setReg sel page off v).boots = s.boots := by cases s; rfl
@[simp] theorem State.setReg_ms (s : State) (sel page off v : Nat) : (s.setReg sel page off v).ms = s.ms := by cases s; rfl
@[simp] theorem State.setReg_out (s : State) (sel page off v : Nat) : (s.setReg sel page off v).out = s.out := by cases s; rfl
@[simp] theorem State.setReg_pending (s : State) (sel page off v : Nat) : (s.setReg sel page off v).pending = s.pending := by cases s; rfl
@[simp] theorem State.setReg_freeCtr (s : State) (sel page off v : Nat) : (s.setReg sel page off v).freeCtr = s.freeCtr := by cases s; rfl

@[simp] theorem State.fset_latches (s : State) (f : Fld) (v inst sel : Nat) : (s.fset f v inst sel).latches = s.latches := by cases s; rfl
@[simp] theorem State.fset_held (s : State) (f : Fld) (v inst sel : Nat) : (s.fset f v inst sel).held = s.held := by cases s; rfl
@[simp] theorem State.fset_frozen (s : State) (f : Fld) (v inst sel : Nat) : (s.fset f v inst sel).frozen = s.frozen := by cases s; rfl
@[simp] theorem State.fset_flog (s : State) (f : Fld) (v inst sel : Nat) : (s.fset f v inst sel).flog = s.flog := by cases s; rfl
@[simp] theorem State.fset_broke (s : State) (f : Fld) (v inst sel : Nat) : (s.fset f v inst sel).broke = s.broke := by cases s; rfl
@[simp] theorem State.fset_brokeDue (s : State) (f : Fld) (v inst sel : Nat) : (s.fset f v inst sel).brokeDue = s.brokeDue := by cases s; rfl
@[simp] theorem State.fset_locks (s : State) (f : Fld) (v inst sel : Nat) : (s.fset f v inst sel).locks = s.locks := by cases s; rfl
@[simp] theorem State.fset_beat (s : State) (f : Fld) (v inst sel : Nat) : (s.fset f v inst sel).beat = s.beat := by cases s; rfl
@[simp] theorem State.fset_tiles (s : State) (f : Fld) (v inst sel : Nat) : (s.fset f v inst sel).tiles = s.tiles := by cases s; rfl
@[simp] theorem State.fset_spad (s : State) (f : Fld) (v inst sel : Nat) : (s.fset f v inst sel).spad = s.spad := by cases s; rfl
@[simp] theorem State.fset_hbm (s : State) (f : Fld) (v inst sel : Nat) : (s.fset f v inst sel).hbm = s.hbm := by cases s; rfl
@[simp] theorem State.fset_poison (s : State) (f : Fld) (v inst sel : Nat) : (s.fset f v inst sel).poison = s.poison := by cases s; rfl
@[simp] theorem State.fset_ctxs (s : State) (f : Fld) (v inst sel : Nat) : (s.fset f v inst sel).ctxs = s.ctxs := by cases s; rfl
@[simp] theorem State.fset_deckles (s : State) (f : Fld) (v inst sel : Nat) : (s.fset f v inst sel).deckles = s.deckles := by cases s; rfl
@[simp] theorem State.fset_queues (s : State) (f : Fld) (v inst sel : Nat) : (s.fset f v inst sel).queues = s.queues := by cases s; rfl
@[simp] theorem State.fset_sessions (s : State) (f : Fld) (v inst sel : Nat) : (s.fset f v inst sel).sessions = s.sessions := by cases s; rfl
@[simp] theorem State.fset_cmds (s : State) (f : Fld) (v inst sel : Nat) : (s.fset f v inst sel).cmds = s.cmds := by cases s; rfl
@[simp] theorem State.fset_stackTab (s : State) (f : Fld) (v inst sel : Nat) : (s.fset f v inst sel).stackTab = s.stackTab := by cases s; rfl
@[simp] theorem State.fset_fetching (s : State) (f : Fld) (v inst sel : Nat) : (s.fset f v inst sel).fetching = s.fetching := by cases s; rfl
@[simp] theorem State.fset_routers (s : State) (f : Fld) (v inst sel : Nat) : (s.fset f v inst sel).routers = s.routers := by cases s; rfl
@[simp] theorem State.fset_ports (s : State) (f : Fld) (v inst sel : Nat) : (s.fset f v inst sel).ports = s.ports := by cases s; rfl
@[simp] theorem State.fset_ident (s : State) (f : Fld) (v inst sel : Nat) : (s.fset f v inst sel).ident = s.ident := by cases s; rfl
@[simp] theorem State.fset_plan (s : State) (f : Fld) (v inst sel : Nat) : (s.fset f v inst sel).plan = s.plan := by cases s; rfl
@[simp] theorem State.fset_clk (s : State) (f : Fld) (v inst sel : Nat) : (s.fset f v inst sel).clk = s.clk := by cases s; rfl
@[simp] theorem State.fset_cal (s : State) (f : Fld) (v inst sel : Nat) : (s.fset f v inst sel).cal = s.cal := by cases s; rfl
@[simp] theorem State.fset_rst (s : State) (f : Fld) (v inst sel : Nat) : (s.fset f v inst sel).rst = s.rst := by cases s; rfl
@[simp] theorem State.fset_ctl (s : State) (f : Fld) (v inst sel : Nat) : (s.fset f v inst sel).ctl = s.ctl := by cases s; rfl
@[simp] theorem State.fset_mgt (s : State) (f : Fld) (v inst sel : Nat) : (s.fset f v inst sel).mgt = s.mgt := by cases s; rfl
@[simp] theorem State.fset_nvm (s : State) (f : Fld) (v inst sel : Nat) : (s.fset f v inst sel).nvm = s.nvm := by cases s; rfl
@[simp] theorem State.fset_bring (s : State) (f : Fld) (v inst sel : Nat) : (s.fset f v inst sel).bring = s.bring := by cases s; rfl
@[simp] theorem State.fset_boots (s : State) (f : Fld) (v inst sel : Nat) : (s.fset f v inst sel).boots = s.boots := by cases s; rfl
@[simp] theorem State.fset_ms (s : State) (f : Fld) (v inst sel : Nat) : (s.fset f v inst sel).ms = s.ms := by cases s; rfl
@[simp] theorem State.fset_out (s : State) (f : Fld) (v inst sel : Nat) : (s.fset f v inst sel).out = s.out := by cases s; rfl
@[simp] theorem State.fset_pending (s : State) (f : Fld) (v inst sel : Nat) : (s.fset f v inst sel).pending = s.pending := by cases s; rfl
@[simp] theorem State.fset_freeCtr (s : State) (f : Fld) (v inst sel : Nat) : (s.fset f v inst sel).freeCtr = s.freeCtr := by cases s; rfl

@[simp] theorem State.emit_regs (s : State) (o : Out) : (s.emit o).regs = s.regs := by cases s; rfl
@[simp] theorem State.emit_latches (s : State) (o : Out) : (s.emit o).latches = s.latches := by cases s; rfl
@[simp] theorem State.emit_held (s : State) (o : Out) : (s.emit o).held = s.held := by cases s; rfl
@[simp] theorem State.emit_frozen (s : State) (o : Out) : (s.emit o).frozen = s.frozen := by cases s; rfl
@[simp] theorem State.emit_flog (s : State) (o : Out) : (s.emit o).flog = s.flog := by cases s; rfl
@[simp] theorem State.emit_broke (s : State) (o : Out) : (s.emit o).broke = s.broke := by cases s; rfl
@[simp] theorem State.emit_brokeDue (s : State) (o : Out) : (s.emit o).brokeDue = s.brokeDue := by cases s; rfl
@[simp] theorem State.emit_locks (s : State) (o : Out) : (s.emit o).locks = s.locks := by cases s; rfl
@[simp] theorem State.emit_beat (s : State) (o : Out) : (s.emit o).beat = s.beat := by cases s; rfl
@[simp] theorem State.emit_tiles (s : State) (o : Out) : (s.emit o).tiles = s.tiles := by cases s; rfl
@[simp] theorem State.emit_spad (s : State) (o : Out) : (s.emit o).spad = s.spad := by cases s; rfl
@[simp] theorem State.emit_hbm (s : State) (o : Out) : (s.emit o).hbm = s.hbm := by cases s; rfl
@[simp] theorem State.emit_poison (s : State) (o : Out) : (s.emit o).poison = s.poison := by cases s; rfl
@[simp] theorem State.emit_ctxs (s : State) (o : Out) : (s.emit o).ctxs = s.ctxs := by cases s; rfl
@[simp] theorem State.emit_deckles (s : State) (o : Out) : (s.emit o).deckles = s.deckles := by cases s; rfl
@[simp] theorem State.emit_queues (s : State) (o : Out) : (s.emit o).queues = s.queues := by cases s; rfl
@[simp] theorem State.emit_sessions (s : State) (o : Out) : (s.emit o).sessions = s.sessions := by cases s; rfl
@[simp] theorem State.emit_cmds (s : State) (o : Out) : (s.emit o).cmds = s.cmds := by cases s; rfl
@[simp] theorem State.emit_stackTab (s : State) (o : Out) : (s.emit o).stackTab = s.stackTab := by cases s; rfl
@[simp] theorem State.emit_fetching (s : State) (o : Out) : (s.emit o).fetching = s.fetching := by cases s; rfl
@[simp] theorem State.emit_routers (s : State) (o : Out) : (s.emit o).routers = s.routers := by cases s; rfl
@[simp] theorem State.emit_ports (s : State) (o : Out) : (s.emit o).ports = s.ports := by cases s; rfl
@[simp] theorem State.emit_ident (s : State) (o : Out) : (s.emit o).ident = s.ident := by cases s; rfl
@[simp] theorem State.emit_plan (s : State) (o : Out) : (s.emit o).plan = s.plan := by cases s; rfl
@[simp] theorem State.emit_clk (s : State) (o : Out) : (s.emit o).clk = s.clk := by cases s; rfl
@[simp] theorem State.emit_cal (s : State) (o : Out) : (s.emit o).cal = s.cal := by cases s; rfl
@[simp] theorem State.emit_rst (s : State) (o : Out) : (s.emit o).rst = s.rst := by cases s; rfl
@[simp] theorem State.emit_ctl (s : State) (o : Out) : (s.emit o).ctl = s.ctl := by cases s; rfl
@[simp] theorem State.emit_mgt (s : State) (o : Out) : (s.emit o).mgt = s.mgt := by cases s; rfl
@[simp] theorem State.emit_nvm (s : State) (o : Out) : (s.emit o).nvm = s.nvm := by cases s; rfl
@[simp] theorem State.emit_bring (s : State) (o : Out) : (s.emit o).bring = s.bring := by cases s; rfl
@[simp] theorem State.emit_boots (s : State) (o : Out) : (s.emit o).boots = s.boots := by cases s; rfl
@[simp] theorem State.emit_ms (s : State) (o : Out) : (s.emit o).ms = s.ms := by cases s; rfl
@[simp] theorem State.emit_pending (s : State) (o : Out) : (s.emit o).pending = s.pending := by cases s; rfl
@[simp] theorem State.emit_freeCtr (s : State) (o : Out) : (s.emit o).freeCtr = s.freeCtr := by cases s; rfl

@[simp] theorem State.setDeckle_regs (s : State) (d : Nat) (x : Deckle) : (s.setDeckle d x).regs = s.regs := by cases s; rfl
@[simp] theorem State.setDeckle_latches (s : State) (d : Nat) (x : Deckle) : (s.setDeckle d x).latches = s.latches := by cases s; rfl
@[simp] theorem State.setDeckle_held (s : State) (d : Nat) (x : Deckle) : (s.setDeckle d x).held = s.held := by cases s; rfl
@[simp] theorem State.setDeckle_frozen (s : State) (d : Nat) (x : Deckle) : (s.setDeckle d x).frozen = s.frozen := by cases s; rfl
@[simp] theorem State.setDeckle_flog (s : State) (d : Nat) (x : Deckle) : (s.setDeckle d x).flog = s.flog := by cases s; rfl
@[simp] theorem State.setDeckle_broke (s : State) (d : Nat) (x : Deckle) : (s.setDeckle d x).broke = s.broke := by cases s; rfl
@[simp] theorem State.setDeckle_brokeDue (s : State) (d : Nat) (x : Deckle) : (s.setDeckle d x).brokeDue = s.brokeDue := by cases s; rfl
@[simp] theorem State.setDeckle_locks (s : State) (d : Nat) (x : Deckle) : (s.setDeckle d x).locks = s.locks := by cases s; rfl
@[simp] theorem State.setDeckle_beat (s : State) (d : Nat) (x : Deckle) : (s.setDeckle d x).beat = s.beat := by cases s; rfl
@[simp] theorem State.setDeckle_tiles (s : State) (d : Nat) (x : Deckle) : (s.setDeckle d x).tiles = s.tiles := by cases s; rfl
@[simp] theorem State.setDeckle_spad (s : State) (d : Nat) (x : Deckle) : (s.setDeckle d x).spad = s.spad := by cases s; rfl
@[simp] theorem State.setDeckle_hbm (s : State) (d : Nat) (x : Deckle) : (s.setDeckle d x).hbm = s.hbm := by cases s; rfl
@[simp] theorem State.setDeckle_poison (s : State) (d : Nat) (x : Deckle) : (s.setDeckle d x).poison = s.poison := by cases s; rfl
@[simp] theorem State.setDeckle_ctxs (s : State) (d : Nat) (x : Deckle) : (s.setDeckle d x).ctxs = s.ctxs := by cases s; rfl
@[simp] theorem State.setDeckle_queues (s : State) (d : Nat) (x : Deckle) : (s.setDeckle d x).queues = s.queues := by cases s; rfl
@[simp] theorem State.setDeckle_sessions (s : State) (d : Nat) (x : Deckle) : (s.setDeckle d x).sessions = s.sessions := by cases s; rfl
@[simp] theorem State.setDeckle_cmds (s : State) (d : Nat) (x : Deckle) : (s.setDeckle d x).cmds = s.cmds := by cases s; rfl
@[simp] theorem State.setDeckle_stackTab (s : State) (d : Nat) (x : Deckle) : (s.setDeckle d x).stackTab = s.stackTab := by cases s; rfl
@[simp] theorem State.setDeckle_fetching (s : State) (d : Nat) (x : Deckle) : (s.setDeckle d x).fetching = s.fetching := by cases s; rfl
@[simp] theorem State.setDeckle_routers (s : State) (d : Nat) (x : Deckle) : (s.setDeckle d x).routers = s.routers := by cases s; rfl
@[simp] theorem State.setDeckle_ports (s : State) (d : Nat) (x : Deckle) : (s.setDeckle d x).ports = s.ports := by cases s; rfl
@[simp] theorem State.setDeckle_ident (s : State) (d : Nat) (x : Deckle) : (s.setDeckle d x).ident = s.ident := by cases s; rfl
@[simp] theorem State.setDeckle_plan (s : State) (d : Nat) (x : Deckle) : (s.setDeckle d x).plan = s.plan := by cases s; rfl
@[simp] theorem State.setDeckle_clk (s : State) (d : Nat) (x : Deckle) : (s.setDeckle d x).clk = s.clk := by cases s; rfl
@[simp] theorem State.setDeckle_cal (s : State) (d : Nat) (x : Deckle) : (s.setDeckle d x).cal = s.cal := by cases s; rfl
@[simp] theorem State.setDeckle_rst (s : State) (d : Nat) (x : Deckle) : (s.setDeckle d x).rst = s.rst := by cases s; rfl
@[simp] theorem State.setDeckle_ctl (s : State) (d : Nat) (x : Deckle) : (s.setDeckle d x).ctl = s.ctl := by cases s; rfl
@[simp] theorem State.setDeckle_mgt (s : State) (d : Nat) (x : Deckle) : (s.setDeckle d x).mgt = s.mgt := by cases s; rfl
@[simp] theorem State.setDeckle_nvm (s : State) (d : Nat) (x : Deckle) : (s.setDeckle d x).nvm = s.nvm := by cases s; rfl
@[simp] theorem State.setDeckle_bring (s : State) (d : Nat) (x : Deckle) : (s.setDeckle d x).bring = s.bring := by cases s; rfl
@[simp] theorem State.setDeckle_boots (s : State) (d : Nat) (x : Deckle) : (s.setDeckle d x).boots = s.boots := by cases s; rfl
@[simp] theorem State.setDeckle_ms (s : State) (d : Nat) (x : Deckle) : (s.setDeckle d x).ms = s.ms := by cases s; rfl
@[simp] theorem State.setDeckle_out (s : State) (d : Nat) (x : Deckle) : (s.setDeckle d x).out = s.out := by cases s; rfl
@[simp] theorem State.setDeckle_pending (s : State) (d : Nat) (x : Deckle) : (s.setDeckle d x).pending = s.pending := by cases s; rfl
@[simp] theorem State.setDeckle_freeCtr (s : State) (d : Nat) (x : Deckle) : (s.setDeckle d x).freeCtr = s.freeCtr := by cases s; rfl

@[simp] theorem State.setTile_regs (s : State) (n : Nat) (x : Tile) : (s.setTile n x).regs = s.regs := by cases s; rfl
@[simp] theorem State.setTile_latches (s : State) (n : Nat) (x : Tile) : (s.setTile n x).latches = s.latches := by cases s; rfl
@[simp] theorem State.setTile_held (s : State) (n : Nat) (x : Tile) : (s.setTile n x).held = s.held := by cases s; rfl
@[simp] theorem State.setTile_frozen (s : State) (n : Nat) (x : Tile) : (s.setTile n x).frozen = s.frozen := by cases s; rfl
@[simp] theorem State.setTile_flog (s : State) (n : Nat) (x : Tile) : (s.setTile n x).flog = s.flog := by cases s; rfl
@[simp] theorem State.setTile_broke (s : State) (n : Nat) (x : Tile) : (s.setTile n x).broke = s.broke := by cases s; rfl
@[simp] theorem State.setTile_brokeDue (s : State) (n : Nat) (x : Tile) : (s.setTile n x).brokeDue = s.brokeDue := by cases s; rfl
@[simp] theorem State.setTile_locks (s : State) (n : Nat) (x : Tile) : (s.setTile n x).locks = s.locks := by cases s; rfl
@[simp] theorem State.setTile_beat (s : State) (n : Nat) (x : Tile) : (s.setTile n x).beat = s.beat := by cases s; rfl
@[simp] theorem State.setTile_spad (s : State) (n : Nat) (x : Tile) : (s.setTile n x).spad = s.spad := by cases s; rfl
@[simp] theorem State.setTile_hbm (s : State) (n : Nat) (x : Tile) : (s.setTile n x).hbm = s.hbm := by cases s; rfl
@[simp] theorem State.setTile_poison (s : State) (n : Nat) (x : Tile) : (s.setTile n x).poison = s.poison := by cases s; rfl
@[simp] theorem State.setTile_ctxs (s : State) (n : Nat) (x : Tile) : (s.setTile n x).ctxs = s.ctxs := by cases s; rfl
@[simp] theorem State.setTile_deckles (s : State) (n : Nat) (x : Tile) : (s.setTile n x).deckles = s.deckles := by cases s; rfl
@[simp] theorem State.setTile_queues (s : State) (n : Nat) (x : Tile) : (s.setTile n x).queues = s.queues := by cases s; rfl
@[simp] theorem State.setTile_sessions (s : State) (n : Nat) (x : Tile) : (s.setTile n x).sessions = s.sessions := by cases s; rfl
@[simp] theorem State.setTile_cmds (s : State) (n : Nat) (x : Tile) : (s.setTile n x).cmds = s.cmds := by cases s; rfl
@[simp] theorem State.setTile_stackTab (s : State) (n : Nat) (x : Tile) : (s.setTile n x).stackTab = s.stackTab := by cases s; rfl
@[simp] theorem State.setTile_fetching (s : State) (n : Nat) (x : Tile) : (s.setTile n x).fetching = s.fetching := by cases s; rfl
@[simp] theorem State.setTile_routers (s : State) (n : Nat) (x : Tile) : (s.setTile n x).routers = s.routers := by cases s; rfl
@[simp] theorem State.setTile_ports (s : State) (n : Nat) (x : Tile) : (s.setTile n x).ports = s.ports := by cases s; rfl
@[simp] theorem State.setTile_ident (s : State) (n : Nat) (x : Tile) : (s.setTile n x).ident = s.ident := by cases s; rfl
@[simp] theorem State.setTile_plan (s : State) (n : Nat) (x : Tile) : (s.setTile n x).plan = s.plan := by cases s; rfl
@[simp] theorem State.setTile_clk (s : State) (n : Nat) (x : Tile) : (s.setTile n x).clk = s.clk := by cases s; rfl
@[simp] theorem State.setTile_cal (s : State) (n : Nat) (x : Tile) : (s.setTile n x).cal = s.cal := by cases s; rfl
@[simp] theorem State.setTile_rst (s : State) (n : Nat) (x : Tile) : (s.setTile n x).rst = s.rst := by cases s; rfl
@[simp] theorem State.setTile_ctl (s : State) (n : Nat) (x : Tile) : (s.setTile n x).ctl = s.ctl := by cases s; rfl
@[simp] theorem State.setTile_mgt (s : State) (n : Nat) (x : Tile) : (s.setTile n x).mgt = s.mgt := by cases s; rfl
@[simp] theorem State.setTile_nvm (s : State) (n : Nat) (x : Tile) : (s.setTile n x).nvm = s.nvm := by cases s; rfl
@[simp] theorem State.setTile_bring (s : State) (n : Nat) (x : Tile) : (s.setTile n x).bring = s.bring := by cases s; rfl
@[simp] theorem State.setTile_boots (s : State) (n : Nat) (x : Tile) : (s.setTile n x).boots = s.boots := by cases s; rfl
@[simp] theorem State.setTile_ms (s : State) (n : Nat) (x : Tile) : (s.setTile n x).ms = s.ms := by cases s; rfl
@[simp] theorem State.setTile_out (s : State) (n : Nat) (x : Tile) : (s.setTile n x).out = s.out := by cases s; rfl
@[simp] theorem State.setTile_pending (s : State) (n : Nat) (x : Tile) : (s.setTile n x).pending = s.pending := by cases s; rfl
@[simp] theorem State.setTile_freeCtr (s : State) (n : Nat) (x : Tile) : (s.setTile n x).freeCtr = s.freeCtr := by cases s; rfl

@[simp] theorem State.spadWrite_regs (s : State) (n a : Nat) (d : List Byte) : (s.spadWrite n a d).regs = s.regs := by cases s; rfl
@[simp] theorem State.spadWrite_latches (s : State) (n a : Nat) (d : List Byte) : (s.spadWrite n a d).latches = s.latches := by cases s; rfl
@[simp] theorem State.spadWrite_held (s : State) (n a : Nat) (d : List Byte) : (s.spadWrite n a d).held = s.held := by cases s; rfl
@[simp] theorem State.spadWrite_frozen (s : State) (n a : Nat) (d : List Byte) : (s.spadWrite n a d).frozen = s.frozen := by cases s; rfl
@[simp] theorem State.spadWrite_flog (s : State) (n a : Nat) (d : List Byte) : (s.spadWrite n a d).flog = s.flog := by cases s; rfl
@[simp] theorem State.spadWrite_broke (s : State) (n a : Nat) (d : List Byte) : (s.spadWrite n a d).broke = s.broke := by cases s; rfl
@[simp] theorem State.spadWrite_brokeDue (s : State) (n a : Nat) (d : List Byte) : (s.spadWrite n a d).brokeDue = s.brokeDue := by cases s; rfl
@[simp] theorem State.spadWrite_locks (s : State) (n a : Nat) (d : List Byte) : (s.spadWrite n a d).locks = s.locks := by cases s; rfl
@[simp] theorem State.spadWrite_beat (s : State) (n a : Nat) (d : List Byte) : (s.spadWrite n a d).beat = s.beat := by cases s; rfl
@[simp] theorem State.spadWrite_tiles (s : State) (n a : Nat) (d : List Byte) : (s.spadWrite n a d).tiles = s.tiles := by cases s; rfl
@[simp] theorem State.spadWrite_hbm (s : State) (n a : Nat) (d : List Byte) : (s.spadWrite n a d).hbm = s.hbm := by cases s; rfl
@[simp] theorem State.spadWrite_poison (s : State) (n a : Nat) (d : List Byte) : (s.spadWrite n a d).poison = s.poison := by cases s; rfl
@[simp] theorem State.spadWrite_ctxs (s : State) (n a : Nat) (d : List Byte) : (s.spadWrite n a d).ctxs = s.ctxs := by cases s; rfl
@[simp] theorem State.spadWrite_deckles (s : State) (n a : Nat) (d : List Byte) : (s.spadWrite n a d).deckles = s.deckles := by cases s; rfl
@[simp] theorem State.spadWrite_queues (s : State) (n a : Nat) (d : List Byte) : (s.spadWrite n a d).queues = s.queues := by cases s; rfl
@[simp] theorem State.spadWrite_sessions (s : State) (n a : Nat) (d : List Byte) : (s.spadWrite n a d).sessions = s.sessions := by cases s; rfl
@[simp] theorem State.spadWrite_cmds (s : State) (n a : Nat) (d : List Byte) : (s.spadWrite n a d).cmds = s.cmds := by cases s; rfl
@[simp] theorem State.spadWrite_stackTab (s : State) (n a : Nat) (d : List Byte) : (s.spadWrite n a d).stackTab = s.stackTab := by cases s; rfl
@[simp] theorem State.spadWrite_fetching (s : State) (n a : Nat) (d : List Byte) : (s.spadWrite n a d).fetching = s.fetching := by cases s; rfl
@[simp] theorem State.spadWrite_routers (s : State) (n a : Nat) (d : List Byte) : (s.spadWrite n a d).routers = s.routers := by cases s; rfl
@[simp] theorem State.spadWrite_ports (s : State) (n a : Nat) (d : List Byte) : (s.spadWrite n a d).ports = s.ports := by cases s; rfl
@[simp] theorem State.spadWrite_ident (s : State) (n a : Nat) (d : List Byte) : (s.spadWrite n a d).ident = s.ident := by cases s; rfl
@[simp] theorem State.spadWrite_plan (s : State) (n a : Nat) (d : List Byte) : (s.spadWrite n a d).plan = s.plan := by cases s; rfl
@[simp] theorem State.spadWrite_clk (s : State) (n a : Nat) (d : List Byte) : (s.spadWrite n a d).clk = s.clk := by cases s; rfl
@[simp] theorem State.spadWrite_cal (s : State) (n a : Nat) (d : List Byte) : (s.spadWrite n a d).cal = s.cal := by cases s; rfl
@[simp] theorem State.spadWrite_rst (s : State) (n a : Nat) (d : List Byte) : (s.spadWrite n a d).rst = s.rst := by cases s; rfl
@[simp] theorem State.spadWrite_ctl (s : State) (n a : Nat) (d : List Byte) : (s.spadWrite n a d).ctl = s.ctl := by cases s; rfl
@[simp] theorem State.spadWrite_mgt (s : State) (n a : Nat) (d : List Byte) : (s.spadWrite n a d).mgt = s.mgt := by cases s; rfl
@[simp] theorem State.spadWrite_nvm (s : State) (n a : Nat) (d : List Byte) : (s.spadWrite n a d).nvm = s.nvm := by cases s; rfl
@[simp] theorem State.spadWrite_bring (s : State) (n a : Nat) (d : List Byte) : (s.spadWrite n a d).bring = s.bring := by cases s; rfl
@[simp] theorem State.spadWrite_boots (s : State) (n a : Nat) (d : List Byte) : (s.spadWrite n a d).boots = s.boots := by cases s; rfl
@[simp] theorem State.spadWrite_ms (s : State) (n a : Nat) (d : List Byte) : (s.spadWrite n a d).ms = s.ms := by cases s; rfl
@[simp] theorem State.spadWrite_out (s : State) (n a : Nat) (d : List Byte) : (s.spadWrite n a d).out = s.out := by cases s; rfl
@[simp] theorem State.spadWrite_pending (s : State) (n a : Nat) (d : List Byte) : (s.spadWrite n a d).pending = s.pending := by cases s; rfl
@[simp] theorem State.spadWrite_freeCtr (s : State) (n a : Nat) (d : List Byte) : (s.spadWrite n a d).freeCtr = s.freeCtr := by cases s; rfl

@[simp] theorem State.spadZero_regs (s : State) (n : Nat) : (s.spadZero n).regs = s.regs := by cases s; rfl
@[simp] theorem State.spadZero_latches (s : State) (n : Nat) : (s.spadZero n).latches = s.latches := by cases s; rfl
@[simp] theorem State.spadZero_held (s : State) (n : Nat) : (s.spadZero n).held = s.held := by cases s; rfl
@[simp] theorem State.spadZero_frozen (s : State) (n : Nat) : (s.spadZero n).frozen = s.frozen := by cases s; rfl
@[simp] theorem State.spadZero_flog (s : State) (n : Nat) : (s.spadZero n).flog = s.flog := by cases s; rfl
@[simp] theorem State.spadZero_broke (s : State) (n : Nat) : (s.spadZero n).broke = s.broke := by cases s; rfl
@[simp] theorem State.spadZero_brokeDue (s : State) (n : Nat) : (s.spadZero n).brokeDue = s.brokeDue := by cases s; rfl
@[simp] theorem State.spadZero_locks (s : State) (n : Nat) : (s.spadZero n).locks = s.locks := by cases s; rfl
@[simp] theorem State.spadZero_beat (s : State) (n : Nat) : (s.spadZero n).beat = s.beat := by cases s; rfl
@[simp] theorem State.spadZero_tiles (s : State) (n : Nat) : (s.spadZero n).tiles = s.tiles := by cases s; rfl
@[simp] theorem State.spadZero_hbm (s : State) (n : Nat) : (s.spadZero n).hbm = s.hbm := by cases s; rfl
@[simp] theorem State.spadZero_poison (s : State) (n : Nat) : (s.spadZero n).poison = s.poison := by cases s; rfl
@[simp] theorem State.spadZero_ctxs (s : State) (n : Nat) : (s.spadZero n).ctxs = s.ctxs := by cases s; rfl
@[simp] theorem State.spadZero_deckles (s : State) (n : Nat) : (s.spadZero n).deckles = s.deckles := by cases s; rfl
@[simp] theorem State.spadZero_queues (s : State) (n : Nat) : (s.spadZero n).queues = s.queues := by cases s; rfl
@[simp] theorem State.spadZero_sessions (s : State) (n : Nat) : (s.spadZero n).sessions = s.sessions := by cases s; rfl
@[simp] theorem State.spadZero_cmds (s : State) (n : Nat) : (s.spadZero n).cmds = s.cmds := by cases s; rfl
@[simp] theorem State.spadZero_stackTab (s : State) (n : Nat) : (s.spadZero n).stackTab = s.stackTab := by cases s; rfl
@[simp] theorem State.spadZero_fetching (s : State) (n : Nat) : (s.spadZero n).fetching = s.fetching := by cases s; rfl
@[simp] theorem State.spadZero_routers (s : State) (n : Nat) : (s.spadZero n).routers = s.routers := by cases s; rfl
@[simp] theorem State.spadZero_ports (s : State) (n : Nat) : (s.spadZero n).ports = s.ports := by cases s; rfl
@[simp] theorem State.spadZero_ident (s : State) (n : Nat) : (s.spadZero n).ident = s.ident := by cases s; rfl
@[simp] theorem State.spadZero_plan (s : State) (n : Nat) : (s.spadZero n).plan = s.plan := by cases s; rfl
@[simp] theorem State.spadZero_clk (s : State) (n : Nat) : (s.spadZero n).clk = s.clk := by cases s; rfl
@[simp] theorem State.spadZero_cal (s : State) (n : Nat) : (s.spadZero n).cal = s.cal := by cases s; rfl
@[simp] theorem State.spadZero_rst (s : State) (n : Nat) : (s.spadZero n).rst = s.rst := by cases s; rfl
@[simp] theorem State.spadZero_ctl (s : State) (n : Nat) : (s.spadZero n).ctl = s.ctl := by cases s; rfl
@[simp] theorem State.spadZero_mgt (s : State) (n : Nat) : (s.spadZero n).mgt = s.mgt := by cases s; rfl
@[simp] theorem State.spadZero_nvm (s : State) (n : Nat) : (s.spadZero n).nvm = s.nvm := by cases s; rfl
@[simp] theorem State.spadZero_bring (s : State) (n : Nat) : (s.spadZero n).bring = s.bring := by cases s; rfl
@[simp] theorem State.spadZero_boots (s : State) (n : Nat) : (s.spadZero n).boots = s.boots := by cases s; rfl
@[simp] theorem State.spadZero_ms (s : State) (n : Nat) : (s.spadZero n).ms = s.ms := by cases s; rfl
@[simp] theorem State.spadZero_out (s : State) (n : Nat) : (s.spadZero n).out = s.out := by cases s; rfl
@[simp] theorem State.spadZero_pending (s : State) (n : Nat) : (s.spadZero n).pending = s.pending := by cases s; rfl
@[simp] theorem State.spadZero_freeCtr (s : State) (n : Nat) : (s.spadZero n).freeCtr = s.freeCtr := by cases s; rfl

@[simp] theorem State.localWrite_regs (s : State) (d a : Nat) (l : List Byte) : (s.localWrite d a l).regs = s.regs := by cases s; rfl
@[simp] theorem State.localWrite_latches (s : State) (d a : Nat) (l : List Byte) : (s.localWrite d a l).latches = s.latches := by cases s; rfl
@[simp] theorem State.localWrite_held (s : State) (d a : Nat) (l : List Byte) : (s.localWrite d a l).held = s.held := by cases s; rfl
@[simp] theorem State.localWrite_frozen (s : State) (d a : Nat) (l : List Byte) : (s.localWrite d a l).frozen = s.frozen := by cases s; rfl
@[simp] theorem State.localWrite_flog (s : State) (d a : Nat) (l : List Byte) : (s.localWrite d a l).flog = s.flog := by cases s; rfl
@[simp] theorem State.localWrite_broke (s : State) (d a : Nat) (l : List Byte) : (s.localWrite d a l).broke = s.broke := by cases s; rfl
@[simp] theorem State.localWrite_brokeDue (s : State) (d a : Nat) (l : List Byte) : (s.localWrite d a l).brokeDue = s.brokeDue := by cases s; rfl
@[simp] theorem State.localWrite_locks (s : State) (d a : Nat) (l : List Byte) : (s.localWrite d a l).locks = s.locks := by cases s; rfl
@[simp] theorem State.localWrite_beat (s : State) (d a : Nat) (l : List Byte) : (s.localWrite d a l).beat = s.beat := by cases s; rfl
@[simp] theorem State.localWrite_tiles (s : State) (d a : Nat) (l : List Byte) : (s.localWrite d a l).tiles = s.tiles := by cases s; rfl
@[simp] theorem State.localWrite_spad (s : State) (d a : Nat) (l : List Byte) : (s.localWrite d a l).spad = s.spad := by cases s; rfl
@[simp] theorem State.localWrite_ctxs (s : State) (d a : Nat) (l : List Byte) : (s.localWrite d a l).ctxs = s.ctxs := by cases s; rfl
@[simp] theorem State.localWrite_deckles (s : State) (d a : Nat) (l : List Byte) : (s.localWrite d a l).deckles = s.deckles := by cases s; rfl
@[simp] theorem State.localWrite_queues (s : State) (d a : Nat) (l : List Byte) : (s.localWrite d a l).queues = s.queues := by cases s; rfl
@[simp] theorem State.localWrite_sessions (s : State) (d a : Nat) (l : List Byte) : (s.localWrite d a l).sessions = s.sessions := by cases s; rfl
@[simp] theorem State.localWrite_cmds (s : State) (d a : Nat) (l : List Byte) : (s.localWrite d a l).cmds = s.cmds := by cases s; rfl
@[simp] theorem State.localWrite_stackTab (s : State) (d a : Nat) (l : List Byte) : (s.localWrite d a l).stackTab = s.stackTab := by cases s; rfl
@[simp] theorem State.localWrite_fetching (s : State) (d a : Nat) (l : List Byte) : (s.localWrite d a l).fetching = s.fetching := by cases s; rfl
@[simp] theorem State.localWrite_routers (s : State) (d a : Nat) (l : List Byte) : (s.localWrite d a l).routers = s.routers := by cases s; rfl
@[simp] theorem State.localWrite_ports (s : State) (d a : Nat) (l : List Byte) : (s.localWrite d a l).ports = s.ports := by cases s; rfl
@[simp] theorem State.localWrite_ident (s : State) (d a : Nat) (l : List Byte) : (s.localWrite d a l).ident = s.ident := by cases s; rfl
@[simp] theorem State.localWrite_plan (s : State) (d a : Nat) (l : List Byte) : (s.localWrite d a l).plan = s.plan := by cases s; rfl
@[simp] theorem State.localWrite_clk (s : State) (d a : Nat) (l : List Byte) : (s.localWrite d a l).clk = s.clk := by cases s; rfl
@[simp] theorem State.localWrite_cal (s : State) (d a : Nat) (l : List Byte) : (s.localWrite d a l).cal = s.cal := by cases s; rfl
@[simp] theorem State.localWrite_rst (s : State) (d a : Nat) (l : List Byte) : (s.localWrite d a l).rst = s.rst := by cases s; rfl
@[simp] theorem State.localWrite_ctl (s : State) (d a : Nat) (l : List Byte) : (s.localWrite d a l).ctl = s.ctl := by cases s; rfl
@[simp] theorem State.localWrite_mgt (s : State) (d a : Nat) (l : List Byte) : (s.localWrite d a l).mgt = s.mgt := by cases s; rfl
@[simp] theorem State.localWrite_nvm (s : State) (d a : Nat) (l : List Byte) : (s.localWrite d a l).nvm = s.nvm := by cases s; rfl
@[simp] theorem State.localWrite_bring (s : State) (d a : Nat) (l : List Byte) : (s.localWrite d a l).bring = s.bring := by cases s; rfl
@[simp] theorem State.localWrite_boots (s : State) (d a : Nat) (l : List Byte) : (s.localWrite d a l).boots = s.boots := by cases s; rfl
@[simp] theorem State.localWrite_ms (s : State) (d a : Nat) (l : List Byte) : (s.localWrite d a l).ms = s.ms := by cases s; rfl
@[simp] theorem State.localWrite_out (s : State) (d a : Nat) (l : List Byte) : (s.localWrite d a l).out = s.out := by cases s; rfl
@[simp] theorem State.localWrite_pending (s : State) (d a : Nat) (l : List Byte) : (s.localWrite d a l).pending = s.pending := by cases s; rfl
@[simp] theorem State.localWrite_freeCtr (s : State) (d a : Nat) (l : List Byte) : (s.localWrite d a l).freeCtr = s.freeCtr := by cases s; rfl

@[simp] theorem State.setCtx_regs (s : State) (c : Nat) (x : Ctx) : (s.setCtx c x).regs = s.regs := by cases s; rfl
@[simp] theorem State.setCtx_latches (s : State) (c : Nat) (x : Ctx) : (s.setCtx c x).latches = s.latches := by cases s; rfl
@[simp] theorem State.setCtx_held (s : State) (c : Nat) (x : Ctx) : (s.setCtx c x).held = s.held := by cases s; rfl
@[simp] theorem State.setCtx_frozen (s : State) (c : Nat) (x : Ctx) : (s.setCtx c x).frozen = s.frozen := by cases s; rfl
@[simp] theorem State.setCtx_flog (s : State) (c : Nat) (x : Ctx) : (s.setCtx c x).flog = s.flog := by cases s; rfl
@[simp] theorem State.setCtx_broke (s : State) (c : Nat) (x : Ctx) : (s.setCtx c x).broke = s.broke := by cases s; rfl
@[simp] theorem State.setCtx_brokeDue (s : State) (c : Nat) (x : Ctx) : (s.setCtx c x).brokeDue = s.brokeDue := by cases s; rfl
@[simp] theorem State.setCtx_locks (s : State) (c : Nat) (x : Ctx) : (s.setCtx c x).locks = s.locks := by cases s; rfl
@[simp] theorem State.setCtx_beat (s : State) (c : Nat) (x : Ctx) : (s.setCtx c x).beat = s.beat := by cases s; rfl
@[simp] theorem State.setCtx_tiles (s : State) (c : Nat) (x : Ctx) : (s.setCtx c x).tiles = s.tiles := by cases s; rfl
@[simp] theorem State.setCtx_spad (s : State) (c : Nat) (x : Ctx) : (s.setCtx c x).spad = s.spad := by cases s; rfl
@[simp] theorem State.setCtx_hbm (s : State) (c : Nat) (x : Ctx) : (s.setCtx c x).hbm = s.hbm := by cases s; rfl
@[simp] theorem State.setCtx_poison (s : State) (c : Nat) (x : Ctx) : (s.setCtx c x).poison = s.poison := by cases s; rfl
@[simp] theorem State.setCtx_deckles (s : State) (c : Nat) (x : Ctx) : (s.setCtx c x).deckles = s.deckles := by cases s; rfl
@[simp] theorem State.setCtx_queues (s : State) (c : Nat) (x : Ctx) : (s.setCtx c x).queues = s.queues := by cases s; rfl
@[simp] theorem State.setCtx_sessions (s : State) (c : Nat) (x : Ctx) : (s.setCtx c x).sessions = s.sessions := by cases s; rfl
@[simp] theorem State.setCtx_cmds (s : State) (c : Nat) (x : Ctx) : (s.setCtx c x).cmds = s.cmds := by cases s; rfl
@[simp] theorem State.setCtx_stackTab (s : State) (c : Nat) (x : Ctx) : (s.setCtx c x).stackTab = s.stackTab := by cases s; rfl
@[simp] theorem State.setCtx_fetching (s : State) (c : Nat) (x : Ctx) : (s.setCtx c x).fetching = s.fetching := by cases s; rfl
@[simp] theorem State.setCtx_routers (s : State) (c : Nat) (x : Ctx) : (s.setCtx c x).routers = s.routers := by cases s; rfl
@[simp] theorem State.setCtx_ports (s : State) (c : Nat) (x : Ctx) : (s.setCtx c x).ports = s.ports := by cases s; rfl
@[simp] theorem State.setCtx_ident (s : State) (c : Nat) (x : Ctx) : (s.setCtx c x).ident = s.ident := by cases s; rfl
@[simp] theorem State.setCtx_plan (s : State) (c : Nat) (x : Ctx) : (s.setCtx c x).plan = s.plan := by cases s; rfl
@[simp] theorem State.setCtx_clk (s : State) (c : Nat) (x : Ctx) : (s.setCtx c x).clk = s.clk := by cases s; rfl
@[simp] theorem State.setCtx_cal (s : State) (c : Nat) (x : Ctx) : (s.setCtx c x).cal = s.cal := by cases s; rfl
@[simp] theorem State.setCtx_rst (s : State) (c : Nat) (x : Ctx) : (s.setCtx c x).rst = s.rst := by cases s; rfl
@[simp] theorem State.setCtx_ctl (s : State) (c : Nat) (x : Ctx) : (s.setCtx c x).ctl = s.ctl := by cases s; rfl
@[simp] theorem State.setCtx_mgt (s : State) (c : Nat) (x : Ctx) : (s.setCtx c x).mgt = s.mgt := by cases s; rfl
@[simp] theorem State.setCtx_nvm (s : State) (c : Nat) (x : Ctx) : (s.setCtx c x).nvm = s.nvm := by cases s; rfl
@[simp] theorem State.setCtx_bring (s : State) (c : Nat) (x : Ctx) : (s.setCtx c x).bring = s.bring := by cases s; rfl
@[simp] theorem State.setCtx_boots (s : State) (c : Nat) (x : Ctx) : (s.setCtx c x).boots = s.boots := by cases s; rfl
@[simp] theorem State.setCtx_ms (s : State) (c : Nat) (x : Ctx) : (s.setCtx c x).ms = s.ms := by cases s; rfl
@[simp] theorem State.setCtx_out (s : State) (c : Nat) (x : Ctx) : (s.setCtx c x).out = s.out := by cases s; rfl
@[simp] theorem State.setCtx_pending (s : State) (c : Nat) (x : Ctx) : (s.setCtx c x).pending = s.pending := by cases s; rfl
@[simp] theorem State.setCtx_freeCtr (s : State) (c : Nat) (x : Ctx) : (s.setCtx c x).freeCtr = s.freeCtr := by cases s; rfl

@[simp] theorem State.modCtx_regs (s : State) (c : Nat) (f : Ctx → Ctx) : (s.modCtx c f).regs = s.regs := by cases s; rfl
@[simp] theorem State.modCtx_latches (s : State) (c : Nat) (f : Ctx → Ctx) : (s.modCtx c f).latches = s.latches := by cases s; rfl
@[simp] theorem State.modCtx_held (s : State) (c : Nat) (f : Ctx → Ctx) : (s.modCtx c f).held = s.held := by cases s; rfl
@[simp] theorem State.modCtx_frozen (s : State) (c : Nat) (f : Ctx → Ctx) : (s.modCtx c f).frozen = s.frozen := by cases s; rfl
@[simp] theorem State.modCtx_flog (s : State) (c : Nat) (f : Ctx → Ctx) : (s.modCtx c f).flog = s.flog := by cases s; rfl
@[simp] theorem State.modCtx_broke (s : State) (c : Nat) (f : Ctx → Ctx) : (s.modCtx c f).broke = s.broke := by cases s; rfl
@[simp] theorem State.modCtx_brokeDue (s : State) (c : Nat) (f : Ctx → Ctx) : (s.modCtx c f).brokeDue = s.brokeDue := by cases s; rfl
@[simp] theorem State.modCtx_locks (s : State) (c : Nat) (f : Ctx → Ctx) : (s.modCtx c f).locks = s.locks := by cases s; rfl
@[simp] theorem State.modCtx_beat (s : State) (c : Nat) (f : Ctx → Ctx) : (s.modCtx c f).beat = s.beat := by cases s; rfl
@[simp] theorem State.modCtx_tiles (s : State) (c : Nat) (f : Ctx → Ctx) : (s.modCtx c f).tiles = s.tiles := by cases s; rfl
@[simp] theorem State.modCtx_spad (s : State) (c : Nat) (f : Ctx → Ctx) : (s.modCtx c f).spad = s.spad := by cases s; rfl
@[simp] theorem State.modCtx_hbm (s : State) (c : Nat) (f : Ctx → Ctx) : (s.modCtx c f).hbm = s.hbm := by cases s; rfl
@[simp] theorem State.modCtx_poison (s : State) (c : Nat) (f : Ctx → Ctx) : (s.modCtx c f).poison = s.poison := by cases s; rfl
@[simp] theorem State.modCtx_deckles (s : State) (c : Nat) (f : Ctx → Ctx) : (s.modCtx c f).deckles = s.deckles := by cases s; rfl
@[simp] theorem State.modCtx_queues (s : State) (c : Nat) (f : Ctx → Ctx) : (s.modCtx c f).queues = s.queues := by cases s; rfl
@[simp] theorem State.modCtx_sessions (s : State) (c : Nat) (f : Ctx → Ctx) : (s.modCtx c f).sessions = s.sessions := by cases s; rfl
@[simp] theorem State.modCtx_cmds (s : State) (c : Nat) (f : Ctx → Ctx) : (s.modCtx c f).cmds = s.cmds := by cases s; rfl
@[simp] theorem State.modCtx_stackTab (s : State) (c : Nat) (f : Ctx → Ctx) : (s.modCtx c f).stackTab = s.stackTab := by cases s; rfl
@[simp] theorem State.modCtx_fetching (s : State) (c : Nat) (f : Ctx → Ctx) : (s.modCtx c f).fetching = s.fetching := by cases s; rfl
@[simp] theorem State.modCtx_routers (s : State) (c : Nat) (f : Ctx → Ctx) : (s.modCtx c f).routers = s.routers := by cases s; rfl
@[simp] theorem State.modCtx_ports (s : State) (c : Nat) (f : Ctx → Ctx) : (s.modCtx c f).ports = s.ports := by cases s; rfl
@[simp] theorem State.modCtx_ident (s : State) (c : Nat) (f : Ctx → Ctx) : (s.modCtx c f).ident = s.ident := by cases s; rfl
@[simp] theorem State.modCtx_plan (s : State) (c : Nat) (f : Ctx → Ctx) : (s.modCtx c f).plan = s.plan := by cases s; rfl
@[simp] theorem State.modCtx_clk (s : State) (c : Nat) (f : Ctx → Ctx) : (s.modCtx c f).clk = s.clk := by cases s; rfl
@[simp] theorem State.modCtx_cal (s : State) (c : Nat) (f : Ctx → Ctx) : (s.modCtx c f).cal = s.cal := by cases s; rfl
@[simp] theorem State.modCtx_rst (s : State) (c : Nat) (f : Ctx → Ctx) : (s.modCtx c f).rst = s.rst := by cases s; rfl
@[simp] theorem State.modCtx_ctl (s : State) (c : Nat) (f : Ctx → Ctx) : (s.modCtx c f).ctl = s.ctl := by cases s; rfl
@[simp] theorem State.modCtx_mgt (s : State) (c : Nat) (f : Ctx → Ctx) : (s.modCtx c f).mgt = s.mgt := by cases s; rfl
@[simp] theorem State.modCtx_nvm (s : State) (c : Nat) (f : Ctx → Ctx) : (s.modCtx c f).nvm = s.nvm := by cases s; rfl
@[simp] theorem State.modCtx_bring (s : State) (c : Nat) (f : Ctx → Ctx) : (s.modCtx c f).bring = s.bring := by cases s; rfl
@[simp] theorem State.modCtx_boots (s : State) (c : Nat) (f : Ctx → Ctx) : (s.modCtx c f).boots = s.boots := by cases s; rfl
@[simp] theorem State.modCtx_ms (s : State) (c : Nat) (f : Ctx → Ctx) : (s.modCtx c f).ms = s.ms := by cases s; rfl
@[simp] theorem State.modCtx_out (s : State) (c : Nat) (f : Ctx → Ctx) : (s.modCtx c f).out = s.out := by cases s; rfl
@[simp] theorem State.modCtx_pending (s : State) (c : Nat) (f : Ctx → Ctx) : (s.modCtx c f).pending = s.pending := by cases s; rfl
@[simp] theorem State.modCtx_freeCtr (s : State) (c : Nat) (f : Ctx → Ctx) : (s.modCtx c f).freeCtr = s.freeCtr := by cases s; rfl

@[simp] theorem State.setQueue_regs (s : State) (fn q : Nat) (x : Queue) : (s.setQueue fn q x).regs = s.regs := by cases s; rfl
@[simp] theorem State.setQueue_latches (s : State) (fn q : Nat) (x : Queue) : (s.setQueue fn q x).latches = s.latches := by cases s; rfl
@[simp] theorem State.setQueue_held (s : State) (fn q : Nat) (x : Queue) : (s.setQueue fn q x).held = s.held := by cases s; rfl
@[simp] theorem State.setQueue_frozen (s : State) (fn q : Nat) (x : Queue) : (s.setQueue fn q x).frozen = s.frozen := by cases s; rfl
@[simp] theorem State.setQueue_flog (s : State) (fn q : Nat) (x : Queue) : (s.setQueue fn q x).flog = s.flog := by cases s; rfl
@[simp] theorem State.setQueue_broke (s : State) (fn q : Nat) (x : Queue) : (s.setQueue fn q x).broke = s.broke := by cases s; rfl
@[simp] theorem State.setQueue_brokeDue (s : State) (fn q : Nat) (x : Queue) : (s.setQueue fn q x).brokeDue = s.brokeDue := by cases s; rfl
@[simp] theorem State.setQueue_locks (s : State) (fn q : Nat) (x : Queue) : (s.setQueue fn q x).locks = s.locks := by cases s; rfl
@[simp] theorem State.setQueue_beat (s : State) (fn q : Nat) (x : Queue) : (s.setQueue fn q x).beat = s.beat := by cases s; rfl
@[simp] theorem State.setQueue_tiles (s : State) (fn q : Nat) (x : Queue) : (s.setQueue fn q x).tiles = s.tiles := by cases s; rfl
@[simp] theorem State.setQueue_spad (s : State) (fn q : Nat) (x : Queue) : (s.setQueue fn q x).spad = s.spad := by cases s; rfl
@[simp] theorem State.setQueue_hbm (s : State) (fn q : Nat) (x : Queue) : (s.setQueue fn q x).hbm = s.hbm := by cases s; rfl
@[simp] theorem State.setQueue_poison (s : State) (fn q : Nat) (x : Queue) : (s.setQueue fn q x).poison = s.poison := by cases s; rfl
@[simp] theorem State.setQueue_ctxs (s : State) (fn q : Nat) (x : Queue) : (s.setQueue fn q x).ctxs = s.ctxs := by cases s; rfl
@[simp] theorem State.setQueue_deckles (s : State) (fn q : Nat) (x : Queue) : (s.setQueue fn q x).deckles = s.deckles := by cases s; rfl
@[simp] theorem State.setQueue_sessions (s : State) (fn q : Nat) (x : Queue) : (s.setQueue fn q x).sessions = s.sessions := by cases s; rfl
@[simp] theorem State.setQueue_cmds (s : State) (fn q : Nat) (x : Queue) : (s.setQueue fn q x).cmds = s.cmds := by cases s; rfl
@[simp] theorem State.setQueue_stackTab (s : State) (fn q : Nat) (x : Queue) : (s.setQueue fn q x).stackTab = s.stackTab := by cases s; rfl
@[simp] theorem State.setQueue_fetching (s : State) (fn q : Nat) (x : Queue) : (s.setQueue fn q x).fetching = s.fetching := by cases s; rfl
@[simp] theorem State.setQueue_routers (s : State) (fn q : Nat) (x : Queue) : (s.setQueue fn q x).routers = s.routers := by cases s; rfl
@[simp] theorem State.setQueue_ports (s : State) (fn q : Nat) (x : Queue) : (s.setQueue fn q x).ports = s.ports := by cases s; rfl
@[simp] theorem State.setQueue_ident (s : State) (fn q : Nat) (x : Queue) : (s.setQueue fn q x).ident = s.ident := by cases s; rfl
@[simp] theorem State.setQueue_plan (s : State) (fn q : Nat) (x : Queue) : (s.setQueue fn q x).plan = s.plan := by cases s; rfl
@[simp] theorem State.setQueue_clk (s : State) (fn q : Nat) (x : Queue) : (s.setQueue fn q x).clk = s.clk := by cases s; rfl
@[simp] theorem State.setQueue_cal (s : State) (fn q : Nat) (x : Queue) : (s.setQueue fn q x).cal = s.cal := by cases s; rfl
@[simp] theorem State.setQueue_rst (s : State) (fn q : Nat) (x : Queue) : (s.setQueue fn q x).rst = s.rst := by cases s; rfl
@[simp] theorem State.setQueue_ctl (s : State) (fn q : Nat) (x : Queue) : (s.setQueue fn q x).ctl = s.ctl := by cases s; rfl
@[simp] theorem State.setQueue_mgt (s : State) (fn q : Nat) (x : Queue) : (s.setQueue fn q x).mgt = s.mgt := by cases s; rfl
@[simp] theorem State.setQueue_nvm (s : State) (fn q : Nat) (x : Queue) : (s.setQueue fn q x).nvm = s.nvm := by cases s; rfl
@[simp] theorem State.setQueue_bring (s : State) (fn q : Nat) (x : Queue) : (s.setQueue fn q x).bring = s.bring := by cases s; rfl
@[simp] theorem State.setQueue_boots (s : State) (fn q : Nat) (x : Queue) : (s.setQueue fn q x).boots = s.boots := by cases s; rfl
@[simp] theorem State.setQueue_ms (s : State) (fn q : Nat) (x : Queue) : (s.setQueue fn q x).ms = s.ms := by cases s; rfl
@[simp] theorem State.setQueue_out (s : State) (fn q : Nat) (x : Queue) : (s.setQueue fn q x).out = s.out := by cases s; rfl
@[simp] theorem State.setQueue_pending (s : State) (fn q : Nat) (x : Queue) : (s.setQueue fn q x).pending = s.pending := by cases s; rfl
@[simp] theorem State.setQueue_freeCtr (s : State) (fn q : Nat) (x : Queue) : (s.setQueue fn q x).freeCtr = s.freeCtr := by cases s; rfl

@[simp] theorem State.setRouter_regs (s : State) (i : Nat) (x : Router) : (s.setRouter i x).regs = s.regs := by cases s; rfl
@[simp] theorem State.setRouter_latches (s : State) (i : Nat) (x : Router) : (s.setRouter i x).latches = s.latches := by cases s; rfl
@[simp] theorem State.setRouter_held (s : State) (i : Nat) (x : Router) : (s.setRouter i x).held = s.held := by cases s; rfl
@[simp] theorem State.setRouter_frozen (s : State) (i : Nat) (x : Router) : (s.setRouter i x).frozen = s.frozen := by cases s; rfl
@[simp] theorem State.setRouter_flog (s : State) (i : Nat) (x : Router) : (s.setRouter i x).flog = s.flog := by cases s; rfl
@[simp] theorem State.setRouter_broke (s : State) (i : Nat) (x : Router) : (s.setRouter i x).broke = s.broke := by cases s; rfl
@[simp] theorem State.setRouter_brokeDue (s : State) (i : Nat) (x : Router) : (s.setRouter i x).brokeDue = s.brokeDue := by cases s; rfl
@[simp] theorem State.setRouter_locks (s : State) (i : Nat) (x : Router) : (s.setRouter i x).locks = s.locks := by cases s; rfl
@[simp] theorem State.setRouter_beat (s : State) (i : Nat) (x : Router) : (s.setRouter i x).beat = s.beat := by cases s; rfl
@[simp] theorem State.setRouter_tiles (s : State) (i : Nat) (x : Router) : (s.setRouter i x).tiles = s.tiles := by cases s; rfl
@[simp] theorem State.setRouter_spad (s : State) (i : Nat) (x : Router) : (s.setRouter i x).spad = s.spad := by cases s; rfl
@[simp] theorem State.setRouter_hbm (s : State) (i : Nat) (x : Router) : (s.setRouter i x).hbm = s.hbm := by cases s; rfl
@[simp] theorem State.setRouter_poison (s : State) (i : Nat) (x : Router) : (s.setRouter i x).poison = s.poison := by cases s; rfl
@[simp] theorem State.setRouter_ctxs (s : State) (i : Nat) (x : Router) : (s.setRouter i x).ctxs = s.ctxs := by cases s; rfl
@[simp] theorem State.setRouter_deckles (s : State) (i : Nat) (x : Router) : (s.setRouter i x).deckles = s.deckles := by cases s; rfl
@[simp] theorem State.setRouter_queues (s : State) (i : Nat) (x : Router) : (s.setRouter i x).queues = s.queues := by cases s; rfl
@[simp] theorem State.setRouter_sessions (s : State) (i : Nat) (x : Router) : (s.setRouter i x).sessions = s.sessions := by cases s; rfl
@[simp] theorem State.setRouter_cmds (s : State) (i : Nat) (x : Router) : (s.setRouter i x).cmds = s.cmds := by cases s; rfl
@[simp] theorem State.setRouter_stackTab (s : State) (i : Nat) (x : Router) : (s.setRouter i x).stackTab = s.stackTab := by cases s; rfl
@[simp] theorem State.setRouter_fetching (s : State) (i : Nat) (x : Router) : (s.setRouter i x).fetching = s.fetching := by cases s; rfl
@[simp] theorem State.setRouter_ports (s : State) (i : Nat) (x : Router) : (s.setRouter i x).ports = s.ports := by cases s; rfl
@[simp] theorem State.setRouter_ident (s : State) (i : Nat) (x : Router) : (s.setRouter i x).ident = s.ident := by cases s; rfl
@[simp] theorem State.setRouter_plan (s : State) (i : Nat) (x : Router) : (s.setRouter i x).plan = s.plan := by cases s; rfl
@[simp] theorem State.setRouter_clk (s : State) (i : Nat) (x : Router) : (s.setRouter i x).clk = s.clk := by cases s; rfl
@[simp] theorem State.setRouter_cal (s : State) (i : Nat) (x : Router) : (s.setRouter i x).cal = s.cal := by cases s; rfl
@[simp] theorem State.setRouter_rst (s : State) (i : Nat) (x : Router) : (s.setRouter i x).rst = s.rst := by cases s; rfl
@[simp] theorem State.setRouter_ctl (s : State) (i : Nat) (x : Router) : (s.setRouter i x).ctl = s.ctl := by cases s; rfl
@[simp] theorem State.setRouter_mgt (s : State) (i : Nat) (x : Router) : (s.setRouter i x).mgt = s.mgt := by cases s; rfl
@[simp] theorem State.setRouter_nvm (s : State) (i : Nat) (x : Router) : (s.setRouter i x).nvm = s.nvm := by cases s; rfl
@[simp] theorem State.setRouter_bring (s : State) (i : Nat) (x : Router) : (s.setRouter i x).bring = s.bring := by cases s; rfl
@[simp] theorem State.setRouter_boots (s : State) (i : Nat) (x : Router) : (s.setRouter i x).boots = s.boots := by cases s; rfl
@[simp] theorem State.setRouter_ms (s : State) (i : Nat) (x : Router) : (s.setRouter i x).ms = s.ms := by cases s; rfl
@[simp] theorem State.setRouter_out (s : State) (i : Nat) (x : Router) : (s.setRouter i x).out = s.out := by cases s; rfl
@[simp] theorem State.setRouter_pending (s : State) (i : Nat) (x : Router) : (s.setRouter i x).pending = s.pending := by cases s; rfl
@[simp] theorem State.setRouter_freeCtr (s : State) (i : Nat) (x : Router) : (s.setRouter i x).freeCtr = s.freeCtr := by cases s; rfl

@[simp] theorem State.setPort_regs (s : State) (p : Nat) (x : Port) : (s.setPort p x).regs = s.regs := by cases s; rfl
@[simp] theorem State.setPort_latches (s : State) (p : Nat) (x : Port) : (s.setPort p x).latches = s.latches := by cases s; rfl
@[simp] theorem State.setPort_held (s : State) (p : Nat) (x : Port) : (s.setPort p x).held = s.held := by cases s; rfl
@[simp] theorem State.setPort_frozen (s : State) (p : Nat) (x : Port) : (s.setPort p x).frozen = s.frozen := by cases s; rfl
@[simp] theorem State.setPort_flog (s : State) (p : Nat) (x : Port) : (s.setPort p x).flog = s.flog := by cases s; rfl
@[simp] theorem State.setPort_broke (s : State) (p : Nat) (x : Port) : (s.setPort p x).broke = s.broke := by cases s; rfl
@[simp] theorem State.setPort_brokeDue (s : State) (p : Nat) (x : Port) : (s.setPort p x).brokeDue = s.brokeDue := by cases s; rfl
@[simp] theorem State.setPort_locks (s : State) (p : Nat) (x : Port) : (s.setPort p x).locks = s.locks := by cases s; rfl
@[simp] theorem State.setPort_beat (s : State) (p : Nat) (x : Port) : (s.setPort p x).beat = s.beat := by cases s; rfl
@[simp] theorem State.setPort_tiles (s : State) (p : Nat) (x : Port) : (s.setPort p x).tiles = s.tiles := by cases s; rfl
@[simp] theorem State.setPort_spad (s : State) (p : Nat) (x : Port) : (s.setPort p x).spad = s.spad := by cases s; rfl
@[simp] theorem State.setPort_hbm (s : State) (p : Nat) (x : Port) : (s.setPort p x).hbm = s.hbm := by cases s; rfl
@[simp] theorem State.setPort_poison (s : State) (p : Nat) (x : Port) : (s.setPort p x).poison = s.poison := by cases s; rfl
@[simp] theorem State.setPort_ctxs (s : State) (p : Nat) (x : Port) : (s.setPort p x).ctxs = s.ctxs := by cases s; rfl
@[simp] theorem State.setPort_deckles (s : State) (p : Nat) (x : Port) : (s.setPort p x).deckles = s.deckles := by cases s; rfl
@[simp] theorem State.setPort_queues (s : State) (p : Nat) (x : Port) : (s.setPort p x).queues = s.queues := by cases s; rfl
@[simp] theorem State.setPort_sessions (s : State) (p : Nat) (x : Port) : (s.setPort p x).sessions = s.sessions := by cases s; rfl
@[simp] theorem State.setPort_cmds (s : State) (p : Nat) (x : Port) : (s.setPort p x).cmds = s.cmds := by cases s; rfl
@[simp] theorem State.setPort_stackTab (s : State) (p : Nat) (x : Port) : (s.setPort p x).stackTab = s.stackTab := by cases s; rfl
@[simp] theorem State.setPort_fetching (s : State) (p : Nat) (x : Port) : (s.setPort p x).fetching = s.fetching := by cases s; rfl
@[simp] theorem State.setPort_routers (s : State) (p : Nat) (x : Port) : (s.setPort p x).routers = s.routers := by cases s; rfl
@[simp] theorem State.setPort_ident (s : State) (p : Nat) (x : Port) : (s.setPort p x).ident = s.ident := by cases s; rfl
@[simp] theorem State.setPort_plan (s : State) (p : Nat) (x : Port) : (s.setPort p x).plan = s.plan := by cases s; rfl
@[simp] theorem State.setPort_clk (s : State) (p : Nat) (x : Port) : (s.setPort p x).clk = s.clk := by cases s; rfl
@[simp] theorem State.setPort_cal (s : State) (p : Nat) (x : Port) : (s.setPort p x).cal = s.cal := by cases s; rfl
@[simp] theorem State.setPort_rst (s : State) (p : Nat) (x : Port) : (s.setPort p x).rst = s.rst := by cases s; rfl
@[simp] theorem State.setPort_ctl (s : State) (p : Nat) (x : Port) : (s.setPort p x).ctl = s.ctl := by cases s; rfl
@[simp] theorem State.setPort_mgt (s : State) (p : Nat) (x : Port) : (s.setPort p x).mgt = s.mgt := by cases s; rfl
@[simp] theorem State.setPort_nvm (s : State) (p : Nat) (x : Port) : (s.setPort p x).nvm = s.nvm := by cases s; rfl
@[simp] theorem State.setPort_bring (s : State) (p : Nat) (x : Port) : (s.setPort p x).bring = s.bring := by cases s; rfl
@[simp] theorem State.setPort_boots (s : State) (p : Nat) (x : Port) : (s.setPort p x).boots = s.boots := by cases s; rfl
@[simp] theorem State.setPort_ms (s : State) (p : Nat) (x : Port) : (s.setPort p x).ms = s.ms := by cases s; rfl
@[simp] theorem State.setPort_out (s : State) (p : Nat) (x : Port) : (s.setPort p x).out = s.out := by cases s; rfl
@[simp] theorem State.setPort_pending (s : State) (p : Nat) (x : Port) : (s.setPort p x).pending = s.pending := by cases s; rfl
@[simp] theorem State.setPort_freeCtr (s : State) (p : Nat) (x : Port) : (s.setPort p x).freeCtr = s.freeCtr := by cases s; rfl

@[simp] theorem State.modStack_regs (s : State) (i : Nat) (f : Stack → Stack) : (s.modStack i f).regs = s.regs := by cases s; rfl
@[simp] theorem State.modStack_latches (s : State) (i : Nat) (f : Stack → Stack) : (s.modStack i f).latches = s.latches := by cases s; rfl
@[simp] theorem State.modStack_held (s : State) (i : Nat) (f : Stack → Stack) : (s.modStack i f).held = s.held := by cases s; rfl
@[simp] theorem State.modStack_frozen (s : State) (i : Nat) (f : Stack → Stack) : (s.modStack i f).frozen = s.frozen := by cases s; rfl
@[simp] theorem State.modStack_flog (s : State) (i : Nat) (f : Stack → Stack) : (s.modStack i f).flog = s.flog := by cases s; rfl
@[simp] theorem State.modStack_broke (s : State) (i : Nat) (f : Stack → Stack) : (s.modStack i f).broke = s.broke := by cases s; rfl
@[simp] theorem State.modStack_brokeDue (s : State) (i : Nat) (f : Stack → Stack) : (s.modStack i f).brokeDue = s.brokeDue := by cases s; rfl
@[simp] theorem State.modStack_locks (s : State) (i : Nat) (f : Stack → Stack) : (s.modStack i f).locks = s.locks := by cases s; rfl
@[simp] theorem State.modStack_beat (s : State) (i : Nat) (f : Stack → Stack) : (s.modStack i f).beat = s.beat := by cases s; rfl
@[simp] theorem State.modStack_tiles (s : State) (i : Nat) (f : Stack → Stack) : (s.modStack i f).tiles = s.tiles := by cases s; rfl
@[simp] theorem State.modStack_spad (s : State) (i : Nat) (f : Stack → Stack) : (s.modStack i f).spad = s.spad := by cases s; rfl
@[simp] theorem State.modStack_hbm (s : State) (i : Nat) (f : Stack → Stack) : (s.modStack i f).hbm = s.hbm := by cases s; rfl
@[simp] theorem State.modStack_poison (s : State) (i : Nat) (f : Stack → Stack) : (s.modStack i f).poison = s.poison := by cases s; rfl
@[simp] theorem State.modStack_ctxs (s : State) (i : Nat) (f : Stack → Stack) : (s.modStack i f).ctxs = s.ctxs := by cases s; rfl
@[simp] theorem State.modStack_deckles (s : State) (i : Nat) (f : Stack → Stack) : (s.modStack i f).deckles = s.deckles := by cases s; rfl
@[simp] theorem State.modStack_queues (s : State) (i : Nat) (f : Stack → Stack) : (s.modStack i f).queues = s.queues := by cases s; rfl
@[simp] theorem State.modStack_sessions (s : State) (i : Nat) (f : Stack → Stack) : (s.modStack i f).sessions = s.sessions := by cases s; rfl
@[simp] theorem State.modStack_cmds (s : State) (i : Nat) (f : Stack → Stack) : (s.modStack i f).cmds = s.cmds := by cases s; rfl
@[simp] theorem State.modStack_routers (s : State) (i : Nat) (f : Stack → Stack) : (s.modStack i f).routers = s.routers := by cases s; rfl
@[simp] theorem State.modStack_ports (s : State) (i : Nat) (f : Stack → Stack) : (s.modStack i f).ports = s.ports := by cases s; rfl
@[simp] theorem State.modStack_ident (s : State) (i : Nat) (f : Stack → Stack) : (s.modStack i f).ident = s.ident := by cases s; rfl
@[simp] theorem State.modStack_plan (s : State) (i : Nat) (f : Stack → Stack) : (s.modStack i f).plan = s.plan := by cases s; rfl
@[simp] theorem State.modStack_clk (s : State) (i : Nat) (f : Stack → Stack) : (s.modStack i f).clk = s.clk := by cases s; rfl
@[simp] theorem State.modStack_cal (s : State) (i : Nat) (f : Stack → Stack) : (s.modStack i f).cal = s.cal := by cases s; rfl
@[simp] theorem State.modStack_rst (s : State) (i : Nat) (f : Stack → Stack) : (s.modStack i f).rst = s.rst := by cases s; rfl
@[simp] theorem State.modStack_ctl (s : State) (i : Nat) (f : Stack → Stack) : (s.modStack i f).ctl = s.ctl := by cases s; rfl
@[simp] theorem State.modStack_mgt (s : State) (i : Nat) (f : Stack → Stack) : (s.modStack i f).mgt = s.mgt := by cases s; rfl
@[simp] theorem State.modStack_nvm (s : State) (i : Nat) (f : Stack → Stack) : (s.modStack i f).nvm = s.nvm := by cases s; rfl
@[simp] theorem State.modStack_bring (s : State) (i : Nat) (f : Stack → Stack) : (s.modStack i f).bring = s.bring := by cases s; rfl
@[simp] theorem State.modStack_boots (s : State) (i : Nat) (f : Stack → Stack) : (s.modStack i f).boots = s.boots := by cases s; rfl
@[simp] theorem State.modStack_ms (s : State) (i : Nat) (f : Stack → Stack) : (s.modStack i f).ms = s.ms := by cases s; rfl
@[simp] theorem State.modStack_out (s : State) (i : Nat) (f : Stack → Stack) : (s.modStack i f).out = s.out := by cases s; rfl
@[simp] theorem State.modStack_pending (s : State) (i : Nat) (f : Stack → Stack) : (s.modStack i f).pending = s.pending := by cases s; rfl
@[simp] theorem State.modStack_freeCtr (s : State) (i : Nat) (f : Stack → Stack) : (s.modStack i f).freeCtr = s.freeCtr := by cases s; rfl

@[simp] theorem State.norPut_regs (s : State) (a : Nat) (d : List Byte) : (s.norPut a d).regs = s.regs := by cases s; rfl
@[simp] theorem State.norPut_latches (s : State) (a : Nat) (d : List Byte) : (s.norPut a d).latches = s.latches := by cases s; rfl
@[simp] theorem State.norPut_held (s : State) (a : Nat) (d : List Byte) : (s.norPut a d).held = s.held := by cases s; rfl
@[simp] theorem State.norPut_frozen (s : State) (a : Nat) (d : List Byte) : (s.norPut a d).frozen = s.frozen := by cases s; rfl
@[simp] theorem State.norPut_flog (s : State) (a : Nat) (d : List Byte) : (s.norPut a d).flog = s.flog := by cases s; rfl
@[simp] theorem State.norPut_broke (s : State) (a : Nat) (d : List Byte) : (s.norPut a d).broke = s.broke := by cases s; rfl
@[simp] theorem State.norPut_brokeDue (s : State) (a : Nat) (d : List Byte) : (s.norPut a d).brokeDue = s.brokeDue := by cases s; rfl
@[simp] theorem State.norPut_locks (s : State) (a : Nat) (d : List Byte) : (s.norPut a d).locks = s.locks := by cases s; rfl
@[simp] theorem State.norPut_beat (s : State) (a : Nat) (d : List Byte) : (s.norPut a d).beat = s.beat := by cases s; rfl
@[simp] theorem State.norPut_tiles (s : State) (a : Nat) (d : List Byte) : (s.norPut a d).tiles = s.tiles := by cases s; rfl
@[simp] theorem State.norPut_spad (s : State) (a : Nat) (d : List Byte) : (s.norPut a d).spad = s.spad := by cases s; rfl
@[simp] theorem State.norPut_hbm (s : State) (a : Nat) (d : List Byte) : (s.norPut a d).hbm = s.hbm := by cases s; rfl
@[simp] theorem State.norPut_poison (s : State) (a : Nat) (d : List Byte) : (s.norPut a d).poison = s.poison := by cases s; rfl
@[simp] theorem State.norPut_ctxs (s : State) (a : Nat) (d : List Byte) : (s.norPut a d).ctxs = s.ctxs := by cases s; rfl
@[simp] theorem State.norPut_deckles (s : State) (a : Nat) (d : List Byte) : (s.norPut a d).deckles = s.deckles := by cases s; rfl
@[simp] theorem State.norPut_queues (s : State) (a : Nat) (d : List Byte) : (s.norPut a d).queues = s.queues := by cases s; rfl
@[simp] theorem State.norPut_sessions (s : State) (a : Nat) (d : List Byte) : (s.norPut a d).sessions = s.sessions := by cases s; rfl
@[simp] theorem State.norPut_cmds (s : State) (a : Nat) (d : List Byte) : (s.norPut a d).cmds = s.cmds := by cases s; rfl
@[simp] theorem State.norPut_stackTab (s : State) (a : Nat) (d : List Byte) : (s.norPut a d).stackTab = s.stackTab := by cases s; rfl
@[simp] theorem State.norPut_fetching (s : State) (a : Nat) (d : List Byte) : (s.norPut a d).fetching = s.fetching := by cases s; rfl
@[simp] theorem State.norPut_routers (s : State) (a : Nat) (d : List Byte) : (s.norPut a d).routers = s.routers := by cases s; rfl
@[simp] theorem State.norPut_ports (s : State) (a : Nat) (d : List Byte) : (s.norPut a d).ports = s.ports := by cases s; rfl
@[simp] theorem State.norPut_ident (s : State) (a : Nat) (d : List Byte) : (s.norPut a d).ident = s.ident := by cases s; rfl
@[simp] theorem State.norPut_plan (s : State) (a : Nat) (d : List Byte) : (s.norPut a d).plan = s.plan := by cases s; rfl
@[simp] theorem State.norPut_clk (s : State) (a : Nat) (d : List Byte) : (s.norPut a d).clk = s.clk := by cases s; rfl
@[simp] theorem State.norPut_cal (s : State) (a : Nat) (d : List Byte) : (s.norPut a d).cal = s.cal := by cases s; rfl
@[simp] theorem State.norPut_rst (s : State) (a : Nat) (d : List Byte) : (s.norPut a d).rst = s.rst := by cases s; rfl
@[simp] theorem State.norPut_ctl (s : State) (a : Nat) (d : List Byte) : (s.norPut a d).ctl = s.ctl := by cases s; rfl
@[simp] theorem State.norPut_mgt (s : State) (a : Nat) (d : List Byte) : (s.norPut a d).mgt = s.mgt := by cases s; rfl
@[simp] theorem State.norPut_bring (s : State) (a : Nat) (d : List Byte) : (s.norPut a d).bring = s.bring := by cases s; rfl
@[simp] theorem State.norPut_boots (s : State) (a : Nat) (d : List Byte) : (s.norPut a d).boots = s.boots := by cases s; rfl
@[simp] theorem State.norPut_ms (s : State) (a : Nat) (d : List Byte) : (s.norPut a d).ms = s.ms := by cases s; rfl
@[simp] theorem State.norPut_out (s : State) (a : Nat) (d : List Byte) : (s.norPut a d).out = s.out := by cases s; rfl
@[simp] theorem State.norPut_pending (s : State) (a : Nat) (d : List Byte) : (s.norPut a d).pending = s.pending := by cases s; rfl
@[simp] theorem State.norPut_freeCtr (s : State) (a : Nat) (d : List Byte) : (s.norPut a d).freeCtr = s.freeCtr := by cases s; rfl

@[simp] theorem State.norErase_regs (s : State) (a n : Nat) : (s.norErase a n).regs = s.regs := by cases s; rfl
@[simp] theorem State.norErase_latches (s : State) (a n : Nat) : (s.norErase a n).latches = s.latches := by cases s; rfl
@[simp] theorem State.norErase_held (s : State) (a n : Nat) : (s.norErase a n).held = s.held := by cases s; rfl
@[simp] theorem State.norErase_frozen (s : State) (a n : Nat) : (s.norErase a n).frozen = s.frozen := by cases s; rfl
@[simp] theorem State.norErase_flog (s : State) (a n : Nat) : (s.norErase a n).flog = s.flog := by cases s; rfl
@[simp] theorem State.norErase_broke (s : State) (a n : Nat) : (s.norErase a n).broke = s.broke := by cases s; rfl
@[simp] theorem State.norErase_brokeDue (s : State) (a n : Nat) : (s.norErase a n).brokeDue = s.brokeDue := by cases s; rfl
@[simp] theorem State.norErase_locks (s : State) (a n : Nat) : (s.norErase a n).locks = s.locks := by cases s; rfl
@[simp] theorem State.norErase_beat (s : State) (a n : Nat) : (s.norErase a n).beat = s.beat := by cases s; rfl
@[simp] theorem State.norErase_tiles (s : State) (a n : Nat) : (s.norErase a n).tiles = s.tiles := by cases s; rfl
@[simp] theorem State.norErase_spad (s : State) (a n : Nat) : (s.norErase a n).spad = s.spad := by cases s; rfl
@[simp] theorem State.norErase_hbm (s : State) (a n : Nat) : (s.norErase a n).hbm = s.hbm := by cases s; rfl
@[simp] theorem State.norErase_poison (s : State) (a n : Nat) : (s.norErase a n).poison = s.poison := by cases s; rfl
@[simp] theorem State.norErase_ctxs (s : State) (a n : Nat) : (s.norErase a n).ctxs = s.ctxs := by cases s; rfl
@[simp] theorem State.norErase_deckles (s : State) (a n : Nat) : (s.norErase a n).deckles = s.deckles := by cases s; rfl
@[simp] theorem State.norErase_queues (s : State) (a n : Nat) : (s.norErase a n).queues = s.queues := by cases s; rfl
@[simp] theorem State.norErase_sessions (s : State) (a n : Nat) : (s.norErase a n).sessions = s.sessions := by cases s; rfl
@[simp] theorem State.norErase_cmds (s : State) (a n : Nat) : (s.norErase a n).cmds = s.cmds := by cases s; rfl
@[simp] theorem State.norErase_stackTab (s : State) (a n : Nat) : (s.norErase a n).stackTab = s.stackTab := by cases s; rfl
@[simp] theorem State.norErase_fetching (s : State) (a n : Nat) : (s.norErase a n).fetching = s.fetching := by cases s; rfl
@[simp] theorem State.norErase_routers (s : State) (a n : Nat) : (s.norErase a n).routers = s.routers := by cases s; rfl
@[simp] theorem State.norErase_ports (s : State) (a n : Nat) : (s.norErase a n).ports = s.ports := by cases s; rfl
@[simp] theorem State.norErase_ident (s : State) (a n : Nat) : (s.norErase a n).ident = s.ident := by cases s; rfl
@[simp] theorem State.norErase_plan (s : State) (a n : Nat) : (s.norErase a n).plan = s.plan := by cases s; rfl
@[simp] theorem State.norErase_clk (s : State) (a n : Nat) : (s.norErase a n).clk = s.clk := by cases s; rfl
@[simp] theorem State.norErase_cal (s : State) (a n : Nat) : (s.norErase a n).cal = s.cal := by cases s; rfl
@[simp] theorem State.norErase_rst (s : State) (a n : Nat) : (s.norErase a n).rst = s.rst := by cases s; rfl
@[simp] theorem State.norErase_ctl (s : State) (a n : Nat) : (s.norErase a n).ctl = s.ctl := by cases s; rfl
@[simp] theorem State.norErase_mgt (s : State) (a n : Nat) : (s.norErase a n).mgt = s.mgt := by cases s; rfl
@[simp] theorem State.norErase_bring (s : State) (a n : Nat) : (s.norErase a n).bring = s.bring := by cases s; rfl
@[simp] theorem State.norErase_boots (s : State) (a n : Nat) : (s.norErase a n).boots = s.boots := by cases s; rfl
@[simp] theorem State.norErase_ms (s : State) (a n : Nat) : (s.norErase a n).ms = s.ms := by cases s; rfl
@[simp] theorem State.norErase_out (s : State) (a n : Nat) : (s.norErase a n).out = s.out := by cases s; rfl
@[simp] theorem State.norErase_pending (s : State) (a n : Nat) : (s.norErase a n).pending = s.pending := by cases s; rfl
@[simp] theorem State.norErase_freeCtr (s : State) (a n : Nat) : (s.norErase a n).freeCtr = s.freeCtr := by cases s; rfl

/-! Reads after writes. -/

theorem State.tile_setTile (s : State) (n m : Nat) (x : Tile) : (s.setTile n x).tile m = if m = n then x else s.tile m := by
  simp [State.tile, State.setTile, Sparse.get_set]

@[simp] theorem State.tile_setTile_same (s : State) (n : Nat) (x : Tile) : (s.setTile n x).tile n = x := by
  simp [State.tile_setTile]

theorem State.ctx_setCtx (s : State) (n m : Nat) (x : Ctx) : (s.setCtx n x).ctx m = if m = n then x else s.ctx m := by
  simp [State.ctx, State.setCtx, Sparse.get_set]

@[simp] theorem State.ctx_setCtx_same (s : State) (n : Nat) (x : Ctx) : (s.setCtx n x).ctx n = x := by simp [State.ctx_setCtx]

theorem State.deckle_setDeckle (s : State) (n m : Nat) (x : Deckle) :
    (s.setDeckle n x).deckle m = if m = n then x else s.deckle m := by simp [State.deckle, State.setDeckle, Sparse.get_set]

theorem State.queue_setQueue (s : State) (fn q : Nat) (x : Queue) : (s.setQueue fn q x).queue fn q = x := by
  simp [State.queue, State.setQueue]

theorem State.port_setPort (s : State) (n m : Nat) (x : Port) : (s.setPort n x).port m = if m = n then x else s.port m := by
  simp [State.port, State.setPort, Sparse.get_set]

theorem State.router_setRouter (s : State) (n m : Nat) (x : Router) :
    (s.setRouter n x).router m = if m = n then x else s.router m := by simp [State.router, State.setRouter, Sparse.get_set]

/-- A register written reads as the value modulo 2^64, every other as before. -/
theorem State.reg_setReg (s : State) (sel page off v sel' page' off' : Nat) :
    (s.setReg sel page off v).reg sel' page' off' =
      if regKey sel' page' off' = regKey sel page off then v % 2 ^ 64 else s.reg sel' page' off' := by
  unfold State.reg State.setReg
  simp only [Sparse.get_set]
  split <;> simp

/-- Copy, page and offset of a register are read off its key. -/
theorem regKey_inj {sel page off sel' page' off' : Nat} (hp : page < 8192) (ho : off < 4096) (hp' : page' < 8192)
    (ho' : off' < 4096) (h : regKey sel page off = regKey sel' page' off') : sel = sel' ∧ page = page' ∧ off = off' := by
  unfold regKey at h; omega

/-! Bit fields. -/

theorem bits_le (v lo w : Nat) : bits v lo w * 2 ^ lo ≤ v := by
  unfold bits
  calc v / 2 ^ lo % 2 ^ w * 2 ^ lo ≤ v / 2 ^ lo * 2 ^ lo := Nat.mul_le_mul_right _ (Nat.mod_le _ _)
    _ ≤ v := Nat.div_mul_le_self _ _

end Sys2Proof.Machine
end

