-- ==== Sys2Proof/Laws/Regs.lean ====
section
/-! SUPPORT. Reading back what a write left: registers, fields of the tile table, bytes of scratchpad. -/

namespace Sys2Proof.Machine

theorem State.reg_setReg_same (s : State) (sel page off v : Nat) : (s.setReg sel page off v).reg sel page off = v % 2 ^ 64 := by
  simp only [State.reg, State.setReg, Sparse.get_set_same, BitVec.toNat_ofNat]

theorem State.reg_setReg_other (s : State) {sel page off sel' page' off' : Nat} (v : Nat) (hp : page < 8192) (ho : off < 4096)
    (hp' : page' < 8192) (ho' : off' < 4096) (h : (sel', page', off') ≠ (sel, page, off)) :
    (s.setReg sel page off v).reg sel' page' off' = s.reg sel' page' off' := by
  have hk : regKey sel' page' off' ≠ regKey sel page off := fun e => h (by
    obtain ⟨a, b, c⟩ := regKey_inj hp' ho' hp ho e
    rw [a, b, c])
  simp only [State.reg, State.setReg, Sparse.get_set_other _ _ _ hk]

@[simp] theorem leBytes_length (n v : Nat) : (leBytes n v).length = n := by
  induction n generalizing v with
  | zero => rfl
  | succ n ih => simp [leBytes, ih]

/-- A store to scratchpad is read back inside its range, and changes no byte outside it. -/
theorem State.spadWrite_get (s : State) (t a k : Nat) (d : List Byte) :
    (s.spadWrite t a d).spad.get (fun _ => 0) k =
      if t * spadBytes + a ≤ k ∧ k < t * spadBytes + a + d.length then d.getD (k - (t * spadBytes + a)) 0
      else s.spad.get (fun _ => 0) k := by
  simp only [State.spadWrite, Sparse.get_setRange]

/-- A row that a guard lets through answers the state it was given. -/
theorem guardUnit_next {b : Bool} {u t : State} (h : guardUnit b u = .next t) : t = u := by
  unfold guardUnit at h; split at h <;> cases h; rfl

end Sys2Proof.Machine
end

