-- ==== Sys2Proof/Tests/Slice0.lean ====
section
/-! SUPPORT. The model's own tests: ill-formed commands are refused, words and descriptors decode as the spec lays them out,
the spec's worked examples come out as it works them, and every obligation's hypotheses are met by some state. Expected values
are the spec's, rule and chapter named with each. -/

namespace Sys2Proof.Tests
set_option Elab.async false
open Sys2Proof Sys2Proof.Machine Sys2Proof.Claims

/-! Small states. -/

/-- Fields of registers written over a state: field, value, instance, copy. -/
def put (s : State) (l : List (Fld × Nat × Nat × Nat)) : State := l.foldl (fun s p => s.fset p.1 p.2.1 p.2.2.1 p.2.2.2) s

/-- A record of n bytes with fields at (byte, bit): value. -/
def bytesOf (n : Nat) (l : List (Nat × Nat × Nat)) : List Byte :=
  leBytes n ((l.map fun p => p.2.2 * 2 ^ (8 * p.1 + p.2.1)).foldl (· + ·) 0)

/-- A powered module that is READY, every block fitted and clocked, host link 0 active, sessions of views 0, 4 and 20 open. -/
def up : State := put { State.reset with
    bring := { State.reset.bring with powered := true, booted := [0, 1] }
    sessions := [(0, { Session.reset with opened := true }), (4, { Session.reset with opened := true }),
      (20, { Session.reset with opened := true })] }
  [(F.RSTCTL_BRINGUP_phase, 4, 0, 0), (F.RSTCTL_STATE_state, rsReady, 0, 0), (linkStateF 0, 2, 0, 0),
   (F.MOD_PORT_port_present, 2 ^ 26 - 1, 0, 0), (F.MOD_PORT_iod_present, 3, 0, 0), (F.MOD_STACK_stack_present, 0xFFF, 0, 0),
   (F.CLKCTL_EN_TILE_group, 2 ^ 48 - 1, 0, 0), (F.CLKCTL_EN_STACK_hbmc, 0xFFF, 0, 0), (F.CLKCTL_EN_STACK_screen, 0xFFF, 0, 0),
   (F.CLKCTL_EN_PORT_port, 2 ^ 26 - 1, 0, 0), (⟨Page.CLKCTL, 0xA0, 0, 15⟩, 0x7FFF, 0, 0)]

/-- The same with deckle 0 active on stack HS0. -/
def decked : State := put up [(F.DECKLE_STATE_state, 2, 0, ofDeckle 0), (F.DECKLE_RES_hbm, 3, 0, ofDeckle 0),
  (F.HBMC_STATE_state, memActive, 0, 0)]

/-- A ream of one sheet on virtual tile 0 that may read and write the first 4 KiB of local HBM. -/
def oneSheet : Ream where
  length := 1
  rep := 1
  nv := 1
  waitLimit := 0
  regions := [⟨0, 0, true, false, 4096, 0, 0, 0, 0, 0⟩]
  sheets := [⟨false, false, 0, 0, 1000, 0, 0, 0x8000, 64, 7, [⟨0, 1, 0, 0, 4096⟩, ⟨0, 2, 0, 0, 4096⟩]⟩]
  colls := []

/-- Context 0 of deckle 0 running that sheet. -/
def ctx0 : Ctx := { Ctx.reset with
  gen := 1, st := .running, ream := some oneSheet, bind := [(0, 0)], insts := [⟨0, 0, .running, 0, 0, false, 0, []⟩] }

/-- A tile that runs it, at the first word of a program. -/
def tile0 (prog : List Word) : Tile := { Tile.reset with
  state := .running, bind := some (0, 0), running := some (0, 0, 0), prog := prog }

def onTile (t : Tile) : State := { decked with ctxs := [(0, ctx0)], tiles := [(0, t)] }
def runs (prog : List Word) : State := onTile (tile0 prog)

/-! Well-formedness. -/

/-- One ill-formed command for each check: units (R18, R25, R306, R311, R330, R343) and shapes. -/
theorem test_illFormed_refused : ∀ i ∈ [Instr.seqAdd 12288, .detectTimeout 26, .packetInject 2, .rowRepair 12 0, .perst 4,
    .deckleZeroingDone 16, .teardownComplete 1024, .ctrlWrite 21 0x10 4 0, .beatBoundary [2], .halfStackFail 0 2,
    .flitReceive 0 ⟨0, [], 0⟩ 0 [0, 0, 0, 0], .flitReceive 0 ⟨0, List.replicate 240 0, 0⟩ 0 [0, 0, 0, 0, 0], .laneLockLoss 0 4, .laneRelock 0 4,
    .pktWrite 0 ⟨0, 0, 0, 0, false, false, false, 0, 0, 0, 0, 0, 0, 0, 0, 0, List.replicate 2049 0⟩, .ctxStart ⟨20, 0, 0⟩,
    .ctxStart ⟨0, 64, 0⟩, .sqTailDoorbell 20 0 0, .commandFetch 0 0 [], .sessionNonce ⟨0, 0, 0⟩ [], .splitLowRead 0 0 2,
    .ctrlWrite 0 0x10 1 0, .dumpDone [(7, 0, 0)], .rootLock 2, .droopEnd 4, .islandReset 2, .mgtSessionNonce ⟨1, 1, false, false, 0, 0, 0, 0, 0⟩ [],
    .regRead ⟨1, 0x10, false, false, 0, 0, 0, 0, 0⟩ 0 2, .railLoss 4], i.wellFormed = false := by decide +kernel

/-- And the same commands within the limits are well formed. -/
theorem test_wellFormed_accepted : ∀ i ∈ [Instr.seqAdd 12287, .detectTimeout 25, .packetInject 1, .rowRepair 11 0, .perst 3,
    .deckleZeroingDone 15, .teardownComplete 1023, .ctrlWrite 20 0x10 4 0, .beatBoundary [0, 1], .halfStackFail 11 1,
    .flitReceive 25 ⟨0, List.replicate 240 0, 0⟩ 0 [0, 0, 0, 0], .laneLockLoss 0 3, .ctxStart ⟨19, 63, 0⟩,
    .commandFetch 0 0 (List.replicate 128 0), .dumpDone [(6, 0, 0)], .rootLock 1, .droopEnd 3, .railLoss 3],
    i.wellFormed = true := by decide +kernel

/-! Sequencer words (R85, R86), written out field by field. -/

/-- ADD g3, g1, g2: opcode 0x10, rd in bits 12:8, rs1 in 17:13, rs2 in 22:18. -/
theorem test_decode_add : decodeSeq 0b00010_00001_00011_00010000#64 = some ⟨0x10, 3, 1, 2, 0, 0, 0, 0, 0⟩ := by decide +kernel

/-- ADDI g3, g1, -1: the immediate in bits 63:32 is signed. -/
theorem test_decode_addi : decodeSeq 0xFFFFFFFF_00002320#64 = some ⟨0x20, 3, 1, 0, 0, 0, -1, 0, 0⟩ := by decide +kernel

/-- STS of 8 bytes (size 3 in bits 19:18). -/
theorem test_decode_sts : (decodeSeq 0x00000040_000C2231#64).map (fun i => (i.op, i.rd, i.rs1, i.imm, i.bytes)) =
    some (0x31, 2, 1, 0x40, 8) := by decide +kernel

/-- BEQ g1, g2 back one instruction: rs1 in 12:8, rs2 in 17:13, offset in instructions. -/
theorem test_decode_beq : (decodeSeq 0xFFFFFFFF_00004140#64).map (fun i => (i.op, i.rs1, i.rs2, i.imm)) =
    some (0x40, 1, 2, -1) := by decide +kernel

/-- WAIT t5, 3: token in 11:8, count in 19:12; a count of 0 is reserved. -/
theorem test_decode_wait : (decodeSeq 0x3552#64).map (fun i => (i.op, i.tok, i.cnt)) = some (0x52, 5, 3) ∧
    decodeSeq 0x0552#64 = none := by decide +kernel

/-- Reserved: an opcode outside the table, a set bit in a reserved field, ISSUE to a queue beyond 9. -/
theorem test_decode_reserved : decodeSeq 0x00#64 = none ∧ decodeSeq 0x1_00000010#64 = none ∧
    decodeSeq 0x05000050#64 = none := by decide +kernel

/-- The table gives no row bits, so no word spells a command. -/
theorem test_decodeTableWord : decodeTableWord 32 0x10 = none := by decide

/-! Worked examples of the spec. -/

/-- R202: on whole stacks HS0-HS2 the address 0x12_3456_7A40 lies in HS1, channel 7, offset 0x308B_9140. -/
theorem test_example_localAddress :
    (put decked [(F.DECKLE_RES_hbm, 0x3F, 0, ofDeckle 0)]).localKey 0 0x1234567A40 = hbmKey 1 7 0x308B9140 := by decide +kernel

/-- R82: the five bursts of a 1,216-byte row. -/
theorem test_example_burstCut : (dmaBursts ⟨1, 0, 1, false, false, 0, 0, 0x10040, 0x20000440, 1216, 1, 0, 0, 0⟩).map
    (fun b => (b.saddr, b.daddr, b.size)) = [(0x10040, 0x20000440, 64), (0x10080, 0x20000480, 128), (0x10100, 0x20000500, 256),
      (0x10200, 0x20000600, 512), (0x10400, 0x20000800, 256)] := by decide +kernel

/-- R101-R106: FP32 0x3E99_999A to FP8 E4M3 in each mode. -/
theorem test_example_e4m3 : let x := Elem.fp32.decode 0x3E99999A
    (Elem.e4m3.put 0 0 x).1 = 0x2A ∧ (Elem.e4m3.put 1 0 x).1 = 0x29 ∧ (Elem.e4m3.put 2 0x7000 x).1 = 0x2A ∧
      (Elem.e4m3.put 2 0x4000 x).1 = 0x29 ∧ (Elem.e4m3.put 2 26215 x).1 = 0x2A ∧ (Elem.e4m3.put 2 26214 x).1 = 0x29 := by
  decide +kernel

/-- R349: two 4-byte reads of a counter give the count at the first, whatever is counted between them. -/
theorem test_example_splitRead :
    let s := up.setReg 0 0x71 0xC8 0x1FFFFFFFE
    let a := s.regRead 0 0x710C8 4
    let b := (a.2.bumpBy C.PORT_REPLAY_CNT 2 17).regRead 0 0x710CC 4
    a.1 = .inl 0xFFFFFFFE ∧ b.1 = .inl 1 ∧ (b.2.regRead 0 0x710CC 4).1 = .inl 2 := by decide +kernel

/-! Witnesses: for each obligation a state and operands that meet the hypotheses of its clauses. Sequencer rows first. -/

/-- The next instruction of tile 0 has opcode `op` and meets `p`. -/
def next (s : State) (op : Nat) (p : Run → SeqInstr → Bool) : Bool :=
  match s.nextInstr 0 with
  | some (r, i) => i.op == op && p r i
  | none => false

/-- Where `next` holds, the hypothesis of the sequencer's statements does. -/
theorem issues_of_next {s : State} {op : Nat} {p : Run → SeqInstr → Bool} (h : next s op p = true) :
    ∃ r i, Issues s 0 op r i ∧ p r i = true := by
  unfold next at h
  split at h
  · rename_i r i e
    simp only [Bool.and_eq_true, beq_iff_eq] at h
    exact ⟨r, i, ⟨by decide, e, h.1⟩, h.2⟩
  · cases h

/-- Every row of formats A and I issues somewhere. -/
theorem witness_SeqArithmeticRows : ∀ op ∈ [0x10, 0x11, 0x12, 0x13, 0x14, 0x15, 0x16, 0x17, 0x18, 0x19, 0x1A, 0x1B, 0x1C, 0x1D,
    0x20, 0x23, 0x24, 0x25, 0x26, 0x27, 0x28, 0x2B, 0x2E, 0x2F], next (runs [BitVec.ofNat 64 op]) op (fun _ _ => true) = true := by
  decide +kernel

/-- ADD computes what R86 says, and wraps; LIH keeps the lower half. -/
theorem test_add_wraps : (match exec (.seqAdd 0) (onTile { tile0 [0x82310#64] with g := [(1, 0xFFFFFFFFFFFFFFFF), (2, 2)] }) with
    | .next t => ((t.tile 0).gr 3, (t.tile 0).pc) | _ => (0, 0)) = (1, 8) := by decide +kernel
theorem test_sra_sign : (match exec (.sra 0) (onTile { tile0 [0x82318#64] with g := [(1, 0x8000000000000000), (2, 65)] }) with
    | .next t => (t.tile 0).gr 3 | _ => 0) = 0xC000000000000000 := by decide +kernel
theorem test_lih_keeps_low : (match exec (.lih 0) (onTile { tile0 [0x12345678_0000012F#64] with g := [(1, 0xAAAAAAAA55555555)] }) with
    | .next t => (t.tile 0).gr 1 | _ => 0) = 0x1234567855555555 := by decide +kernel

/-- Branches, CALL with room and without (8 levels, R85), RET with and without a return, a reserved word, a deadlock on WAIT. -/
theorem witness_SeqControlRows :
    (∀ op ∈ [0x40, 0x41, 0x42, 0x43, 0x44, 0x45, 0x46], next (runs [BitVec.ofNat 64 op]) op (fun _ _ => true) = true) ∧
    (∀ n ∈ [7, 8], let s := onTile { tile0 [0x48#64] with stack := List.replicate n 0 }
      next s 0x48 (fun _ _ => (s.tile 0).stack.length == n) = true) ∧
    (∀ st ∈ [[], [8]], let s := onTile { tile0 [0x49#64] with stack := st }
      next s 0x49 (fun _ _ => (s.tile 0).stack == st) = true) ∧
    (let t := (runs [0#64]).tile 0
     t.running = some (0, 0, 0) ∧ t.blocked = .no ∧ t.prog[t.pc / 8]? = some 0#64 ∧ decodeSeq 0#64 = none) ∧
    (onTile { tile0 [0x1052#64] with blocked := .wait }).deadlocked 0 = true := by decide +kernel

/-- A branch is taken to its target, and a target outside the program stops the sheet where it is (R85, R87). -/
theorem test_branch : (match exec (.beq 0) (runs [0x00000002_00000040#64]) with
    | .next t => (t.tile 0).pc | _ => 0) = 16 ∧
    (match exec (.beq 0) (runs [0xFFFFFFFF_00000040#64]) with
      | .next t => ((t.tile 0).pc, (t.ctx 0).st, (t.ctx 0).lastStatus) | _ => (0, .free, 0)) = (0, .faulted, 0x0B) := by
  decide +kernel

/-- Loads and stores that reach scratchpad up to the limit, and local HBM in a line held and in one that is not; an address that
is not a multiple of the width. -/
theorem witness_SeqMemoryRows :
    (∀ op ∈ [0x30, 0x31], let s := onTile { tile0 [BitVec.ofNat 64 (op + 3 * 2 ^ 18 + 2 ^ 13)] with g := [(1, 0x27FF8)] }
      next s op (fun _ i => (s.tile 0).seqAddr i % i.bytes == 0 && (s.tile 0).seqAddr i + i.bytes == (s.tile 0).limit) = true) ∧
    (∀ op ∈ [0x32, 0x33], ∀ l ∈ [[], [(⟨3968, List.replicate 128 0, 0⟩ : Line)]],
      let s := onTile { tile0 [BitVec.ofNat 64 (op + 3 * 2 ^ 18 + 2 ^ 13)] with g := [(1, 4088)], l1 := l }
      next s op (fun r i => (s.tile 0).seqAddr i % i.bytes == 0 && r.allowed (op == 0x33) 0 0 ((s.tile 0).seqAddr i) i.bytes &&
        (s.tile 0).findLine ((s.tile 0).seqAddr i) == l.head?) = true) ∧
    (∀ op ∈ [0x30, 0x31, 0x32, 0x33], let s := onTile { tile0 [BitVec.ofNat 64 (op + 3 * 2 ^ 18 + 2 ^ 13)] with g := [(1, 4)] }
      next s op (fun _ i => (s.tile 0).seqAddr i % i.bytes != 0) = true) := by decide +kernel

/-- A cache row over one line, one over none, at the end of local HBM; a fill that finds room, and one of a full set. -/
theorem witness_L1Rows :
    (∀ op ∈ [0x54, 0x55, 0x56], ∀ n ∈ [0, 128],
      let s := onTile { tile0 [BitVec.ofNat 64 (op + 2 ^ 13 + 2 ^ 19)] with
        g := [(1, BitVec.ofNat 64 (96 * 2 ^ 30 - n)), (2, BitVec.ofNat 64 n)] }
      next s op (fun r i => ((s.tile 0).gr i.rs2).toNat == n &&
        ((s.tile 0).gr i.rs1).toNat + n == s.localSize r.x.deckle) = true) ∧
    (∀ l ∈ [[], (List.range 4).map fun k => (⟨(k + 1) * 8192, List.replicate 128 0, 0⟩ : Line)],
      let s := onTile { tile0 [0x32#64] with blocked := .miss, l1 := l }
      let t := s.tile 0
      t.running = some (0, 0, 0) ∧ t.blocked = .miss ∧ t.prog[t.pc / 8]? = some 0x32#64 ∧ (decodeSeq 0x32#64).isSome = true ∧
        s.localBad (s.runOf (0, 0, 0)).x.deckle 0 128 = none ∧ t.victim 0 = l.getLast?) := by decide +kernel

/-- A vector descriptor that adds one column of FP32 rows at 0, 4 and 8. -/
def addDesc : List Byte := bytesOf 64 [(0, 0, 2), (0, 8, 1), (4, 0, 1), (4, 16, 1), (8, 0, 0), (0xC, 0, 4), (0x14, 0, 8)]

theorem witness_SeqQueueRows :
    (let s := (runs [0x00800050#64]).spadWrite 0 0 addDesc
     next s 0x50 (fun _ i => i.func == 1 && ((s.tile 0).gr i.rs1).toNat == 0 && decide (64 ≤ (s.tile 0).limit) &&
       descOk i.func (s.spadRead 0 0 64) && refusedAddr (s.tile 0).limit (descSpans i.func (s.spadRead 0 0 64)) == none &&
       decide (((s.tile 0).queue i.func).length < 16)) = true) ∧
    (let s := onTile { tile0 [0xF51#64] with t := [(15, 254)] }
     next s 0x51 (fun _ i => (s.tile 0).tok i.tok == 254) = true) ∧
    (∀ n ∈ [2, 3], let s := onTile { tile0 [0x3552#64] with t := [(5, n)] }
     next s 0x52 (fun _ i => decide (i.cnt ≤ (s.tile 0).tok i.tok) == (n == 3)) = true) ∧
    next (runs [0x53#64]) 0x53 (fun _ i => i.func == 0 && ((runs [0x53#64]).tile 0).quiet) = true ∧
    (∀ k ∈ [0, 4], next (runs [BitVec.ofNat 64 (0x60 + k * 2 ^ 32)]) 0x60 (fun _ i => i.imm == k) = true) ∧
    next (runs [0x7F#64]) 0x7F (fun _ _ => true) = true := by decide +kernel

/-- An LDS or STS (op 0x30, 0x31) or an LDG or STG (0x32, 0x33) of 8 bytes at the address in g1. -/
def mem8 (op : Nat) : Word := BitVec.ofNat 64 (op + 3 * 2 ^ 18 + 2 ^ 13)

/-- The rest of the clauses: an access just past the limit, one outside the declared range, one in the chest arena, a line held with
dirty bytes, and engine writes on their way. -/
theorem witness_SeqMemoryRows_others :
    (∀ op ∈ [0x30, 0x31], let s := onTile { tile0 [mem8 op] with g := [(1, 0x28000)] }
      next s op (fun _ i => (s.tile 0).seqAddr i % i.bytes == 0 && (s.tile 0).seqAddr i == (s.tile 0).limit) = true) ∧
    (∀ op ∈ [0x32, 0x33], let s := onTile { tile0 [mem8 op] with g := [(1, 4096)] }
      next s op (fun r i => (s.tile 0).seqAddr i % i.bytes == 0 &&
        !r.allowed (op == 0x33) 0 0 ((s.tile 0).seqAddr i) i.bytes) = true) ∧
    (∀ op ∈ [0x32, 0x33], let s := (put (onTile { tile0 [mem8 op] with g := [(1, 4088)] }) [(F.CHEST_ARENA_SIZE_size_mib, 96 * 1024, 0, ofDeckle 0)])
      next s op (fun r i => (s.tile 0).seqAddr i % i.bytes == 0 && r.allowed (op == 0x33) 0 0 ((s.tile 0).seqAddr i) i.bytes &&
        s.inArena r.x.deckle ((s.tile 0).seqAddr i) i.bytes) = true) ∧
    (∀ op ∈ [0x32, 0x33], let l : Line := ⟨3968, List.replicate 128 0, 1⟩
      let s := onTile { tile0 [mem8 op] with g := [(1, 4088)], l1 := [l] }
      next s op (fun r i => (s.tile 0).seqAddr i % i.bytes == 0 && r.allowed (op == 0x33) 0 0 ((s.tile 0).seqAddr i) i.bytes &&
        !s.inArena r.x.deckle ((s.tile 0).seqAddr i) i.bytes && (s.tile 0).findLine ((s.tile 0).seqAddr i) == some l) = true) ∧
    (∀ op ∈ [0x30, 0x31], let s := onTile { tile0 [mem8 op] with landing := [(0, 0, [1])] }
      next s op (fun _ i => (s.tile 0).seqAddr i == 0 && (s.tile 0).landing.length == 1) = true) := by decide +kernel

/-- A fill of a line whose deckle has lost its memory. -/
theorem witness_L1Rows_refused : let s := { onTile { tile0 [mem8 0x32] with blocked := .miss } with
      deckles := [(0, { Deckle.reset with lost := true })] }
    let t := s.tile 0
    t.running = some (0, 0, 0) ∧ t.blocked = .miss ∧ t.prog[t.pc / 8]? = some (mem8 0x32) ∧
      (decodeSeq (mem8 0x32)).isSome = true ∧ s.localBad (s.runOf (0, 0, 0)).x.deckle 0 128 = some (0x12, 0) := by decide +kernel

/-- A descriptor on q7 that waits for two signals of token 5. -/
def waits5 : QDesc := ⟨bytesOf 64 [(0, 0, 3), (0x38, 0, 5), (0x38, 4, 2), (0x38, 12, 1)], 0, false, false, [], 0, false, none⟩

/-- The rest of the clauses: ISSUE on a full queue, at a misaligned address and in front of engine writes on their way; SIG at 255;
WAIT after a queue that the token serves; FENCE over work not done, and of func 1 with everything complete and with a write to space
0x4 to be read back; MOVS of a free special and of the sheet's references. -/
theorem witness_SeqQueueRows_others :
    (let s := (onTile { tile0 [0x00800050#64] with
        queues := [(1, List.replicate 16 ⟨addDesc, 0, false, false, [], 0, false, none⟩)] }).spadWrite 0 0 addDesc
     next s 0x50 (fun _ i => (s.tile 0).landing == [] && descOk i.func (s.spadRead 0 0 64) &&
       refusedAddr (s.tile 0).limit (descSpans i.func (s.spadRead 0 0 64)) == none &&
       ((s.tile 0).queue i.func).length == 16) = true) ∧
    (let s := onTile { tile0 [0x00802050#64] with g := [(1, 63)] }
     next s 0x50 (fun _ i => ((s.tile 0).gr i.rs1).toNat % 64 == 63) = true) ∧
    (let s := onTile { tile0 [0xF51#64] with t := [(15, 255)] }
     next s 0x51 (fun _ i => (s.tile 0).tok i.tok == 255) = true) ∧
    (let s := onTile { tile0 [0x3552#64] with t := [(5, 3)], queues := [(9, [waits5])] }
     next s 0x52 (fun _ i => decide (i.cnt ≤ (s.tile 0).tok i.tok) && (s.tile 0).servesBefore i.tok 10) = true) ∧
    (∀ n ∈ [0, 1], let s := onTile { tile0 [0x00800053#64] with behind := n }
     next s 0x53 (fun _ i => i.func == 1 && (s.tile 0).quiet && s.remoteQuiet (s.tile 0) && (s.tile 0).behind == n) = true) ∧
    (let s := onTile { tile0 [0x53#64] with queues := [(9, [waits5])] }
     next s 0x53 (fun _ _ => !(s.tile 0).quiet) = true) ∧
    (∀ k ∈ [1, 2, 3, 5, 6, 7], next (runs [BitVec.ofNat 64 (0x60 + k * 2 ^ 32)]) 0x60 (fun _ i => i.imm == k) = true) ∧
    (∀ k ∈ [0, 1], ∀ m ∈ [0x100, 0x200], next (runs [BitVec.ofNat 64 (0x60 + (m + k) * 2 ^ 32)]) 0x60
      (fun r i => i.imm == m + k && r.h.refs[k]?.isSome) = true) := by decide +kernel

/-! Engines, DMA and the chest. -/

/-- A queued descriptor. -/
def qd (b : List Byte) (started acted : Bool) : QDesc := ⟨b, 0, started, acted, [], 0, false, none⟩

/-- Tile 0 running with one descriptor in a queue. -/
def queued (k : Nat) (d : QDesc) : State := onTile { tile0 [] with queues := [(k, [d])] }

theorem head_queued (k : Nat) (b : List Byte) : Head (queued k (qd b true false)) 0 k (0, 0, 0) (qd b true false) :=
  ⟨by decide, rfl, ⟨[], by simp [queued, onTile, State.tile, tile0, Tile.queue, Sparse.get]⟩, rfl, rfl⟩

/-- A vector descriptor of an operation. -/
def vdesc (op : Nat) : List Byte := bytesOf 64 [(0, 0, 2), (0, 8, op), (4, 0, 1), (4, 16, 1)]

/-- Each vector operation is at the head of a queue somewhere. -/
theorem witness_VectorRows : ∀ op ∈ [1, 2, 3, 4, 5, 6, 7, 8, 9, 0x10, 0x11, 0x12, 0x13, 0x14, 0x20, 0x21, 0x22, 0x30, 0x31, 0x32],
    Head (queued 1 (qd (vdesc op) true false)) 0 1 (0, 0, 0) (qd (vdesc op) true false) ∧
      (vectorDesc (qd (vdesc op) true false).bytes).op = op := fun op h => ⟨head_queued _ _, by revert op; decide +kernel⟩

/-- The byte below a row's destination, and the one just past it. -/
theorem witness_VectorRowFrame : let v := vectorDesc addDesc
    v.op ≠ 0x21 ∧ v.op ≠ 0x22 ∧ isReduce v.op = false ∧ 7 < v.d ∧
      v.d + packedBytes ((elemOf v.outFmt).getD .fp32).width v.cols ≤ 12 := by decide +kernel

/-- Chapter 4, quantisation of one MXFP4 block: 16 bytes, the scale byte 0x80, and underflow in the flag byte. -/
theorem test_example_qmx :
    let x := [0x41500000, 0x40266666, 0xBF333333, 0x3F000000, 0x40A00000].map (leBytes 4) |>.flatten
    let d := bytesOf 64 [(0, 0, 2), (0, 8, 0x21), (0, 21, 0xC), (4, 0, 32), (4, 16, 1), (0x10, 0, 0x300), (0x14, 0, 0x200)]
    let w := ((queued 1 (qd d true false)).spadWrite 0 0 x).vecStep 0 (vectorDesc d) 0 ⟨0, []⟩ 0
    (w.1.spadRead 0 0x200 4, w.1.spadRead 0 0x300 1, w.2.2) = ([0x37, 0x09, 0x04, 0x00], [0x80], 0x08) := by decide +kernel

/-- A descriptor with its tail: waits on a token count, signals a token. -/
def tailed (w : Nat × Nat × Nat) (g : Nat × Nat) : List Byte :=
  bytesOf 64 [(0, 0, 2), (0x38, 0, w.1), (0x38, 4, w.2.1), (0x38, 12, w.2.2), (0x38, 13, g.1), (0x38, 17, g.2)]

/-- A start with no wait, one with its count just met, one with it not and one behind the vector queue's wait on the same token; a
completion with and without a signal, and one with the token full. -/
theorem witness_DescriptorRows :
    (∀ en ∈ [0, 1], let d := qd (tailed (3, 2, en) (0, 0)) false false
     ((queued 9 d).tile 0).nextDesc 9 = some (0, d) ∧ tailWaitEn d.bytes = (en == 1)) ∧
    (∀ n ∈ [1, 2], let d := qd (tailed (3, 2, 1) (0, 0)) false false
     let s := onTile { tile0 [] with queues := [(9, [d])], t := [(3, n)] }
     (s.tile 0).nextDesc 9 = some (0, d) ∧ tailWaitCnt d.bytes = 2 ∧ (s.tile 0).tok (tailWaitTok d.bytes) = n ∧
       (s.tile 0).servesBefore (tailWaitTok d.bytes) 9 = false) ∧
    (let d := qd (tailed (3, 2, 1) (0, 0)) false false
     let s := onTile { tile0 [] with queues := [(1, [d]), (9, [d])], t := [(3, 2)] }
     (s.tile 0).nextDesc 9 = some (0, d) ∧ (s.tile 0).servesBefore (tailWaitTok d.bytes) 9 = true) ∧
    (∀ en ∈ [0, 1], ∀ n ∈ [254, 255], let d := qd (tailed (0, 0, 0) (15, en)) true true
     let s := onTile { tile0 [] with queues := [(0, [d])], t := [(15, n)] }
     (s.tile 0).queue 0 = [d] ∧ tailSigEn d.bytes = (en == 1) ∧ (s.tile 0).landing = [] ∧
       (((s.land 0 0).tile 0).setQueue 0 []).tok (tailSigTok d.bytes) = n) := by
  decide +kernel

/-- A matrix descriptor with and without a writeback. -/
theorem witness_MatrixMultiply : ∀ wb ∈ [0, 1], let d := bytesOf 64 [(0, 0, 1), (0, 8, 1), (0, 13, 1), (0, 21, wb), (4, 0, 16)]
    Head (queued 0 (qd d true false)) 0 0 (0, 0, 0) (qd d true false) ∧
      ((queued 0 (qd d true false)).tile 0).landing = [] ∧ (matrixDesc d).wb = (wb == 1) :=
  fun wb h => ⟨head_queued _ _, rfl, by revert wb; decide +kernel⟩

/-- The burst of the last 64 bytes a sheet may read, to the last 64 of its scratchpad. -/
def burst : Burst := ⟨0, 0, 4032, 1, 0, 0x28000 - 64, 64, 1, false, none⟩
def copyDesc : List Byte := bytesOf 64 [(0, 0, 3), (0, 12, 1), (0, 16, 1), (8, 0, 4032), (0x10, 0, 0x27FC0), (0x18, 0, 64), (0x1C, 0, 1)]

/-- A sheet that may read the first 4 KiB of a region that endpoint 5 exports, and write local HBM. -/
def peerSheet : Ream := { oneSheet with
  regions := [⟨0, 2, true, false, 4096, 5, 0, 0, 0, 0⟩, ⟨0, 0, true, false, 4096, 0, 0, 0, 0, 0⟩]
  sheets := [⟨false, false, 0, 0, 1000, 0, 0, 0x8000, 64, 7, [⟨0, 1, 0, 0, 4096⟩, ⟨1, 2, 0, 0, 4096⟩]⟩] }

theorem witness_DmaRows :
    (let d := qd copyDesc true false
     ((queued 9 d).tile 0).findDesc 9 (fun d => d.started && !d.acted && !(dmaDesc d.bytes).isChest) = some (0, d) ∧
       dmaBursts (dmaDesc copyDesc) = [burst]) ∧
    (let d := { qd copyDesc true true with bursts := [burst] }
     let s := queued 2 d
     (s.tile 0).nextBurst = some (2, 0, d) ∧ s.checkBurst 0 (s.runOf (0, 0, 0)) burst = .ok ∧ (s.tile 0).flights.length < 64 ∧
       (s.tile 0).dmaStop = false ∧ burst.readsTile 0 (s.runOf (0, 0, 0)) = none) ∧
    (let b : Burst := ⟨1, 0, 0, 0, 0, 4032, 64, 1, false, none⟩
     let d := { qd copyDesc true true with bursts := [b] }
     let s := queued 2 d
     (s.tile 0).nextBurst = some (2, 0, d) ∧ s.checkBurst 0 (s.runOf (0, 0, 0)) b = .ok ∧
       b.readsTile 0 (s.runOf (0, 0, 0)) = some 0) ∧
    (let b : Burst := ⟨1, 0, 0x28000, 0, 0, 4032, 64, 1, false, none⟩
     let d := { qd copyDesc true true with bursts := [b] }
     let s := queued 2 d
     (s.tile 0).nextBurst = some (2, 0, d) ∧ s.checkBurst 0 (s.runOf (0, 0, 0)) b ≠ .ok) ∧
    (let b : Burst := ⟨2, 5, 0, 0, 0, 4032, 64, 1, false, none⟩
     let d := { qd copyDesc true true with bursts := [b] }
     let s := (queued 2 d).modCtx 0 fun x => { x with ream := some peerSheet }
     (s.tile 0).nextBurst = some (2, 0, d) ∧ s.checkBurst 0 (s.runOf (0, 0, 0)) b = .ok ∧
       s.burstData 0 (s.runOf (0, 0, 0)) ⟨7, 2, b⟩ [] = .notYet) ∧
    (let s := onTile { tile0 [] with flights := [⟨6, 2, burst⟩, ⟨7, 2, burst⟩] }
     (s.tile 0).flights.find? (fun f => f.id == 7) = some ⟨7, 2, burst⟩ ∧ (s.tile 0).aheadOf ⟨7, 2, burst⟩ = true) ∧
    (let s := { onTile { tile0 [] with flights := [⟨7, 2, burst⟩] } with deckles := [(0, { Deckle.reset with lost := true })] }
     ((s.blurBurst 0 (s.runOf (0, 0, 0)) burst).burstErrors (s.runOf (0, 0, 0)) burst []).burstData 0 (s.runOf (0, 0, 0))
       ⟨7, 2, burst⟩ [] = .bad 0x12 0 4032) ∧
    (let s := onTile { tile0 [] with flights := [⟨7, 2, burst⟩] }
     let r := s.runOf (0, 0, 0)
     (s.tile 0).flights.find? (fun f => f.id == 7) = some ⟨7, 2, burst⟩ ∧ burst.dsel = r.h.vtile ∧
       (s.tile 0).aheadOf ⟨7, 2, burst⟩ = false ∧ s.rst.landing = [] ∧ (s.tile 0).landing = [] ∧
       s.localBad r.x.deckle burst.saddr burst.size = none) := by decide +kernel

/-- A sheet that may use chest blocks 0-3. -/
def chestSheet : Ream := { oneSheet with
  regions := [⟨0, 3, true, false, 4, 0, 0, 0, 0, 0⟩]
  sheets := [⟨false, false, 0, 0, 1000, 0, 0, 0x8000, 64, 7, [⟨0, 3, 0, 0, 4⟩]⟩] }

/-- A context with one recurrent block (1 KiB of elements, exchanged as stored) and `mib` MiB of arena, a chest write to it at the
head of queue 2. -/
def chestState (mib : Nat) (d : QDesc) (blk : Option Block) (x : Ctx → Ctx) : State :=
  { put decked [(F.CHEST_ARENA_SIZE_size_mib, mib, 0, ofDeckle 0)] with
    ctxs := [(0, x { ctx0 with ream := some chestSheet, blocks := [(3, blk)] })]
    tiles := [(0, { tile0 [] with queues := [(2, [d])] })] }

def blk : Block := Block.fresh 1 0 0 0 1 0 0
def toChest : List Byte := bytesOf 64 [(0, 0, 3), (0, 8, 1), (0, 12, 3), (0, 16, 1), (0x10, 0, 3), (0x18, 0, 1), (0x1C, 0, 1)]
def chestBurst : Burst := ⟨1, 0, 0, 3, 0, 3, 2048, 1, false, none⟩

/-- The same block written: 1 KiB of zeros. -/
def blkV : Block := { blk with valid := true, data := List.replicate 1024 0 }
def fromChest : List Byte := bytesOf 64 [(0, 0, 3), (0, 8, 3), (0, 12, 1), (0, 16, 1), (8, 0, 3), (0x18, 0, 1), (0x1C, 0, 1)]

/-- A write whose block has room, a read of a block, and one of a block that is not there; each block placed with room and without, for
the first time and waiting; a move to T1 and to T0 that ends well; a damaged summary. -/
theorem witness_ChestRows :
    (let d := qd toChest true false
     let s := chestState 1 d (some blk) id
     let r := s.runOf (0, 0, 0)
     (s.tile 0).findDesc 2 (fun d => d.started && !d.acted && (dmaDesc d.bytes).isChest && !(dmaDesc d.bytes).isQuery) =
       some (0, d) ∧ r.x.block (dmaDesc d.bytes).da = some blk ∧
       (s.passing 0 r (dmaDesc d.bytes) blk.exchange [] ((dmaDesc d.bytes).parts blk.exchange)).2 = .ok) ∧
    (∀ b ∈ [some blkV, none], let d := qd fromChest true false
     let s := chestState 1 d b id
     let r := s.runOf (0, 0, 0)
     (s.tile 0).findDesc 2 (fun d => d.started && !d.acted && (dmaDesc d.bytes).isChest && !(dmaDesc d.bytes).isQuery) =
       some (0, d) ∧ r.x.block (dmaDesc d.bytes).sa = b ∧ (dmaDesc d.bytes).dst = 1 ∧ (dmaDesc d.bytes).dsel = r.h.vtile ∧
       (b = some blkV → (s.passing 0 r (dmaDesc d.bytes) blkV.exchange [] ((dmaDesc d.bytes).parts blkV.exchange)).2 = .ok)) ∧
    (∀ mib ∈ [0, 1], ∀ w ∈ [false, true], let d := { qd toChest true true with bursts := [chestBurst], waiting := w }
     let s := chestState mib d (some blk) id
     let r := s.runOf (0, 0, 0)
     (s.tile 0).findDesc 2 (fun d => d.acted && (dmaDesc d.bytes).dst == 3 && !d.bursts.isEmpty) = some (0, d) ∧
       r.x.block chestBurst.daddr = some blk ∧
       (s.blurBurst 0 r chestBurst).chestSource 0 r chestBurst = .data (List.replicate 2048 0) ∧
       decide (s.arenaFree r.x.deckle < (blk.written (List.replicate 2048 0)).units * 256) = (mib == 0) ∧ r.x.moves = []) ∧
    (let d := { qd toChest true true with bursts := [chestBurst], waiting := true }
     let s := chestState 0 d (some blk) id
     let r := s.runOf (0, 0, 0)
     (s.tile 0).findDesc 2 (·.waiting) = some (0, d) ∧ s.chestSource 0 r chestBurst = .data (List.replicate 2048 0) ∧
       s.arenaFree r.x.deckle < (blk.written (List.replicate 2048 0)).units * 256) ∧
    (∀ tier ∈ [0, 1], let m : Move := ⟨3, tier, 0, 4, true, true, true, 0, 0, none⟩
     let s := (chestState 1 (qd toChest true true) (some blk) fun x => { x with moves := [m] }).setTile 0 { tile0 [] with t0banks := 1 }
     (s.ctx 0).block 3 = some blk ∧ (s.ctx 0).moves.find? (fun m => m.block == 3 && m.started) = some m ∧ blk.bad = false ∧
       s.moveFits 0 m = true ∧ s.copyLost (s.ctx 0).deckle blk = false) ∧
    (let s := (chestState 1 (qd toChest true true) (some { blk with badSummary := true }) id).fset F.SCREEN_STATE_rebuilding 1
     (s.ctx 0).block 3 = some { blk with badSummary := true } ∧
       s.flag F.SCREEN_STATE_rebuilding (s.homeStack (s.ctx 0).deckle 3) = true) := by decide +kernel

/-- A query of no block with one vector of zeros, its result to the last 128 bytes of scratchpad. -/
def query : List Byte := bytesOf 64 [(0, 0, 3), (0, 8, 1), (0, 12, 3), (0, 16, 1), (0x10, 0, screenPort), (0x18, 0, 1), (0x1C, 0, 1)]
def queryRec : List Byte := bytesOf 64 [(0, 0, 1), (0, 9, 1), (4, 0, 1), (0x1C, 0, 0x3F800000), (0x20, 0, 1), (0x28, 0, 0x27F80)]

theorem witness_ScreenRows :
    (let d := qd query true false
     let s := (chestState 1 d none fun x => { x with blocks := [] }).spadWrite 0 0 queryRec
     let r := s.runOf (0, 0, 0)
     let h := queryHdr (s.spadRead 0 0 64)
     let body := s.spadRead 0 64 h.vecBytes
     (s.tile 0).findDesc 2 (fun d => d.started && !d.acted && (dmaDesc d.bytes).isQuery) = some (0, d) ∧
       (s.tile 0).dmaStop = false ∧ (s.tile 0).landing = [] ∧ (∀ st ∈ s.queryStacks r.x.deckle, s.queuedAt st < 64) ∧ (dmaDesc d.bytes).ssel = r.h.vtile ∧
       64 + h.vecBytes ≤ (s.tile 0).limit ∧ queryHdrOk (s.spadRead 0 0 64) = true ∧
       (∃ x ∈ r.h.refs, x.reads = true ∧ (r.ream.range x).covers 3 0 h.first h.count = true) ∧
       s.checkSide 0 r true h.resSpace (if h.resSpace = 1 then r.h.vtile else 0) h.resAddr (64 + 8 * h.k) = .ok ∧
       (∀ v ∈ h.vectors body, ∀ e ∈ v, e.finite = true) ∧ r.x.blocks = []) ∧
    (let d := { qd query true true with flying := 1 }
     let rec_ := queryRec ++ List.replicate 128 0
     let s := chestState 1 d none fun x => { x with blocks := [], queries := [⟨0, 2, rec_⟩] }
     let r := s.runOf (0, 0, 0)
     (s.tile 0).findDesc 2 (fun d => d.acted && decide (0 < d.flying) && (dmaDesc d.bytes).isQuery) = some (0, d) ∧
       r.x.queries.find? (fun q => q.tile == 0 && q.queue == 2) = some ⟨0, 2, rec_⟩ ∧ (queryHdr rec_).ovfOk = true ∧
       (queryHdr rec_).resSpace = 1) ∧
    (let d := { qd query true true with flying := 1 }
     let rec_ := bytesOf 64 [(0, 0, 1), (0, 8, 1), (4, 0, 1), (0xC, 0, 2), (0x10, 0, 1), (0x1C, 0, 0x3F800000), (0x20, 0, 1)] ++
       List.replicate 128 0
     let b : Option Block := some { blkV with kind := 0, unbounded := true }
     let s := chestState 1 d none fun x => { x with blocks := [(0, b), (1, b)], queries := [⟨0, 2, rec_⟩] }
     let r := s.runOf (0, 0, 0)
     let h := queryHdr rec_
     (s.tile 0).findDesc 2 (fun d => d.acted && decide (0 < d.flying) && (dmaDesc d.bytes).isQuery) = some (0, d) ∧
       r.x.queries.find? (fun q => q.tile == 0 && q.queue == 2) = some ⟨0, 2, rec_⟩ ∧ h.ovfOk = false ∧
       (screenSelect h (r.x.screen h (h.vectors (rec_.drop 64))).1).2 = true) := by decide +kernel

/-! Beats, sheets and fences. -/

/-- A plan whose every port joins a fabric partner: serial 9, port 4. -/
def plan0 : Plan where
  planSeq := 5
  jobHash := [1, 2, 3, 4]
  rack := 0
  slot := 0
  endpoints := []
  own0 := 1
  own1 := 2
  master := some 7
  ports := List.replicate 26 (BitVec.ofNat 128 (1 + 4 * 2 ^ 32 + 9 * 2 ^ 64))
  weights := []
  windowUnits := 0
  sources := 0
  strict := 0
  escEn := true
  routes := []
  slots := []
  trees := []
  ring0 := 0
  ring1 := 0
  ring := []
  collector := 0xFFFF
  needsGealmub := false
  s7Only := false
  restarts := []
  resets := []

/-- A port in a state and mode under that plan. -/
def ported (p st : Nat) : State := put { up with plan := some plan0 } [(F.PORT_STATE_state, st, p, 0), (F.PORT_CFG_mode, 0, p, 0)]

/-- A module that has accepted `n` markers in a row on port p, in a state of alignment, and a marker of the plan's job. -/
def aligning (p st n : Nat) : State :=
  let s := put (ported p stActive) [(F.BEAT_ALIGN_state, st, 0, 0), (F.BEAT_ALIGN_port, p, 0, 0)]
  { s with beat := { s.beat with accepted := n }, ports := [(p, { Port.reset with fresh := true })] }
def mark (hops : Nat) (corr : Int) : Marker := ⟨0, 10, hops, 7, corr, 0x04030201#32⟩

/-- The hypotheses that the clauses of an accepted marker share. -/
def marked (s : State) (p : Nat) (m : Marker) : Bool :=
  s.portFitted p && s.plan == some plan0 && s.markerPort p && decide (m.hops < 8) && m.log2 == s.fget F.BEAT_CFG_beat_log2 &&
    plan0.master == some m.master && leNat (plan0.jobHash.take 4) == m.planTag.toNat && (s.port p).fresh

/-- A context that has its groups of the plan's job and runs. -/
def inJob0 : Ctx := { ctx0 with groups := [⟨1, 0, [], 0⟩] }

/-- A boundary; a marker of 8 hops; one while another port has fewer; in phase to half a cycle either way, following and the second in
a row; a sixteenth more, with a ream of the job running and with none; the first in a row, in phase and out; the 256th and 64th beat
without one; a beat whose placement is not frozen, with the control complex running and with it stopped, and one whose is. -/
theorem witness_BeatRows :
    (up.bring.powered = true ∧ up.rst.refLost = false) ∧
    ((ported 0 stActive).markerPort 0 = true ∧ (ported 0 stActive).fget F.BEAT_ALIGN_state ≠ 1 ∧ 8 ≤ (mark 8 0).hops) ∧
    (∀ p ∈ [0, 23], ∀ n ∈ [0, 2], marked (aligning p 2 n) p (mark 7 0) = true ∧ (aligning p 2 n).fget F.BEAT_ALIGN_state = 2 ∧
      (let s := { aligning p 2 n with beat := { (aligning p 2 n).beat with hops := [(p, some 7)] } }
       s.markerSource = some (p, 7) ∧ (if s.beat.accepted = 0 ∨ s.fget F.BEAT_ALIGN_port ≠ p then 1 else s.beat.accepted + 1) =
         n + 1)) ∧
    (let s := { aligning 0 2 1 with beat := { (aligning 0 2 1).beat with hops := [(0, some 7), (1, some 3)] } }
     s.markerSource = some (0, 7) ∧ (put s [(F.PORT_STATE_state, stActive, 1, 0)]).markerSource = some (1, 3)) ∧
    (∀ x ∈ [(8, (0 : Int), (-8 : Int)), (0, 8, 8), (0, 9, 9), (9, 0, -9)], marked (aligning 0 3 1) 0 (mark 7 x.2.1) = true ∧
      (aligning 0 3 1).markerError 0 (mark 7 x.2.1) x.1 = x.2.2) ∧
    (∀ b ∈ [true, false], let s := { aligning 0 3 1 with ctxs := if b then [(0, inJob0)] else [] }
      s.jobRuns = b ∧ s.fget F.BEAT_ALIGN_state = 3) ∧
    (∀ x ∈ [(2, 256), (3, 64)], let s0 := up.fset F.BEAT_ALIGN_state x.1
      let s := { s0 with beat := { s0.beat with since := x.2 } }
      s.fget F.BEAT_ALIGN_state = x.1 ∧ x.2 ≤ s.beat.since ∧ s.beat.raised = false) ∧
    (∀ f ∈ [false, true], ({ up with beat := { up.beat with frozen := f } } : State).beat.frozen = f) ∧
    (∀ h ∈ [[], [0, 1]], ({ up with ctl := { up.ctl with halted := h } } : State).controlRuns = h.isEmpty) := by decide +kernel

/-- At a boundary the beat number goes up by one, and wraps (R22, R28). -/
theorem test_beatCount_wraps : (put up [(F.BEAT_COUNT_count, 2 ^ 64 - 1, 0, 0)]).nextBeat.beatCount = 0 := by decide +kernel

/-- A tile whose next sheet is to be fetched, one whose sheet may start, has no program or has lost an input, one whose sheet has
ended. -/
theorem witness_SheetRows :
    (let x : Ctx := { ctx0 with insts := [⟨0, 0, .due, 0, 0, false, 0, []⟩] }
     let t : Tile := { tile0 [] with running := none, state := .idle, next := some ⟨0, 0, 0, [0x7F], none⟩ }
     let s : State := { decked with ctxs := [(0, x)], tiles := [(12287, t)] }
     t.bind = some (0, 0) ∧ (s.ctx 0).nextOn 0 = some (0, 0) ∧ s.startable 12287 = some (0, ⟨0, 0, .due, 0, 0, false, 0, []⟩) ∧
       (s.ctx 0).ream = some oneSheet ∧ (s.tile 12287).next = some ⟨0, 0, 0, [0x7F], none⟩ ∧
       (oneSheet.readsOf (oneSheet.sheet 0)).any (s.ctx 0).lostRange = false) ∧
    (let lose : Ream := { oneSheet with regions := [⟨0, 1, true, false, 4096, 0, 0, 0, 0, 0⟩] }
     let x : Ctx := { ctx0 with insts := [⟨0, 0, .due, 0, 0, false, 0, []⟩], ream := some lose, lostTiles := [⟨0, []⟩] }
     let t : Tile := { tile0 [] with running := none, state := .idle, next := some ⟨0, 0, 0, [], some (0x12, 0x8000)⟩ }
     let s : State := { decked with ctxs := [(0, x)], tiles := [(0, t)] }
     s.startable 0 = some (0, ⟨0, 0, .due, 0, 0, false, 0, []⟩) ∧ (s.ctx 0).ream = some lose ∧
       (s.tile 0).next = some ⟨0, 0, 0, [], some (0x12, 0x8000)⟩ ∧
       (lose.readsOf (lose.sheet 0)).any (s.ctx 0).lostRange = true) ∧
    (let t := (onTile { tile0 [0x7F] with blocked := .ended }).tile 0
     t.running = some (0, 0, 0) ∧ t.blocked = .ended ∧ t.quiet = true) := by decide +kernel

/-- END, then the sheet completes and its tile idles (R64, R45). -/
theorem test_sheet_ends : (match exec (.end_ 0) (runs [0x7F]) with
    | .next t => (match exec (.sheetComplete 0) t with
      | .next u => ((u.tile 0).running, (u.tile 0).state, (u.ctx 0).insts.map (·.st)) | _ => (none, .running, []))
    | _ => (none, .running, [])) = (none, .idle, [.complete]) := by decide +kernel

/-- A region of an external writer holds a sheet for one beat more than its limit; tiles idle, draining and in self-test. -/
theorem witness_TileFenceRows :
    (let held : Ream := { oneSheet with regions := [⟨0, 0, false, true, 4096, 0, 0, 0, 0, 1⟩] }
     let i : Inst := ⟨0, 0, .due, 1, 0, false, 0, []⟩
     let s : State := { decked with ctxs := [(1023, { ctx0 with ream := some held, insts := [i] })] }
     (s.ctx 1023).insts[0]? = some i ∧ (s.ctx 1023).ream = some held ∧ i.st = .due ∧ (s.ctx 1023).held held i = true ∧
       held.waitLimit < i.waited) ∧
    (let t := up.tile 12287
     t.state = .idle ∧ t.bind = none ∧ t.running = none) ∧
    (let s := onTile { Tile.reset with state := .draining, draining := some (0, 0, 0) }
     (s.tile 0).state = .draining ∧ (s.tile 0).draining = some (0, 0, 0) ∧ (s.tile 0).overdue = false) ∧
    (let s := onTile { Tile.reset with state := .draining }
     (s.tile 0).state = .draining ∧ (s.tile 0).flights = [] ∧ s.writeInDie (s.tile 0) = false ∧ (s.tile 0).draining = none ∧
       (s.tile 0).asked = false) ∧
    ((onTile { Tile.reset with selfTest := true }).tile 0).selfTest = true := by decide +kernel

/-! Host links, queues and commands. -/

/-- A session's command of function 0 of a link or of a deckle, with operand fields. -/
def cmdOf (fn op : Nat) (l : List (Nat × Nat × Nat)) : Cmd := ⟨fn, 0, bytesOf 128 ((0, 0, op) :: (4, 0, 1) :: l), true, false, false, 0, [], 0⟩

/-- A state with that one command in flight. -/
def flying (s : State) (k : Cmd) : State := { s with cmds := [k] }

/-- The hypothesis of the commands' statements, as a check. -/
def takes (s : State) (k : Cmd) : Bool := decide (k.fn < 20) && s.starting ⟨k.fn, 0, 1⟩ k.opcode == some k && k.authed &&
  (decide (k.fn < 4) || !(s.deckle (k.fn - 4)).lost || lostTakes k.opcode)
def onCtx (s : State) (k : Cmd) (i : Nat) : Bool :=
  takes s k && s.live k.ctx == some i && (s.ctx i).deckle + 4 == k.fn && accepts (s.ctx i).st k.opcode

theorem takes_spec {s : State} {k : Cmd} (h : takes s k = true) : Takes s ⟨k.fn, 0, 1⟩ k.opcode k := by
  simp only [takes, Bool.and_eq_true, decide_eq_true_eq, beq_iff_eq] at h
  refine ⟨h.1.1.1, Nat.zero_lt_succ _, h.1.1.2, .inl h.1.2, fun h4 hl => ?_⟩
  have h5 := h.2
  simp only [hl, Bool.or_eq_true, decide_eq_true_eq, Bool.not_true, Bool.false_eq_true, or_false] at h5
  rcases h5 with h5 | h5
  · omega
  · exact h5

theorem onCtx_spec {s : State} {k : Cmd} {i : Nat} (h : onCtx s k i = true) : OnCtx s ⟨k.fn, 0, 1⟩ k.opcode k i := by
  simp only [onCtx, Bool.and_eq_true, beq_iff_eq] at h
  exact ⟨takes_spec h.1.1.1, h.1.1.2, h.1.2, h.2⟩

/-- Context 0 of deckle 0 in a state, under handle 1024. -/
def withCtx (s : State) (x : Ctx) : State := { s with ctxs := [(0, x)] }
def idle : Ctx := { Ctx.reset with gen := 1, st := .idle }
def onCtxCmd (op : Nat) (l : List (Nat × Nat × Nat)) : Cmd := cmdOf 4 op ((2, 0, 1024) :: l)

/-- A training link, an active one, a held one and its release, a link with a function that is not there, one still in bring-up. -/
theorem witness_HostLinkRows :
    (let s := put up [(F.CXLP_SPLIT_split, 2, 0, 0), (linkStateF 3, 1, 0, 0)]
     s.linkExists 3 = true ∧ s.fget (linkStateF 3) = 1 ∧ s.mayTrain = true) ∧
    (up.linkExists 0 = true ∧ up.linkActive 0 = true ∧ up.upDone = true ∧ up.deckleActive 15 = false) ∧
    (let s := put up [(linkStateF 0, 1, 0, 0)]
     s.linkExists 0 = true ∧ s.bring.perst.contains 0 = false ∧ s.linkActive 0 = false) ∧
    (let s := { up with bring := { up.bring with perst := [0] } }
     s.bring.perst.contains 0 = true ∧
       ({ s with bring := { s.bring with perst := s.bring.perst.filter fun k => k != 0 } } : State).mayTrain = true) ∧
    (let s := put up [(F.RSTCTL_BRINGUP_phase, 3, 0, 0)]
     s.linkActive 0 = true ∧ s.upDone = false) := by decide +kernel

/-- A running admin queue of 16 entries. -/
def ring (q : Queue) : State := { up with queues := [(queueKey 0 0, q)] }
def q16 : Queue := { Queue.reset with state := .running, e := 4, passed := 16, fetched := 16, written := 16, freed := 16 }

/-- A value out of the ring, a tail that just fits and one that just does not, a head just written, a descriptor to fetch with
4,095 in flight and with 4,096. -/
theorem witness_DoorbellRows :
    (ring q16).doorbellOk 0 0 = true ∧ ((ring q16).queue 0 0).state = .running ∧ 2 ^ q16.e ≤ 16 ∧
    (∀ f ∈ [15, 14], let q := { q16 with freed := f }
     ((ring q).queue 0 0) = q ∧ 15 < 2 ^ q.e ∧ 15 = (q.passed + 15) % 2 ^ q.e ∧
       decide (q.passed + 15 ≤ q.freed + 2 ^ q.e) = (f == 15)) ∧
    (let q := { q16 with freed := 15 }
     1 < 2 ^ q.e ∧ 0 = (q.freed + 1) % 2 ^ q.e ∧ q.freed + 1 ≤ q.written) ∧
    (∀ n ∈ [4095, 4096], ∀ op ∈ [0x03, 0x10], ∀ o ∈ [true, false],
     let s := { ring { q16 with passed := 17 } with
       cmds := List.replicate n (cmdOf 0 0x04 []), sessions := [(0, { Session.reset with opened := o })] }
     let k : Cmd := ⟨0, 0, (cmdOf 0 op []).desc, o, false, false, 0, [], 0⟩
     (s.nextFetch.map fun t => (t.1, t.2.1)) = some (0, 0) ∧ decide (s.cmds.length < 4096) = (n == 4095) ∧
       (s.session 0).opened = o ∧ commandOk k = (op == 0x03) ∧ k.opcode = op ∧ (s.queue 0 0).stalled = false) := by
  decide +kernel

/-- No command; one without a session; one of a deckle that has lost its memory; one whose context is another deckle's; one whose handle
is of no context; one its context's state does not accept. -/
theorem witness_CommandRefusals :
    (∀ op ∈ [0x10, 0x04, 0x06, 0x08, 0x2C, 0x33, 0x40, 0x41, 0x12], up.starting ⟨4, 0, 1⟩ op = none ∧
      (let k := { cmdOf 4 op [] with authed := false }
       let s := { flying decked k with sessions := [] }
       s.starting ⟨4, 0, 1⟩ op = some k ∧ (s.session k.fn).opened = false) ∧
      (let k := cmdOf 4 op []
       let s := { flying decked k with deckles := [(0, { Deckle.reset with lost := true })] }
       s.starting ⟨4, 0, 1⟩ op = some k ∧ (s.deckle 0).lost = true)) ∧
    lostTakes 0x10 = false ∧
    (∀ op ∈ [0x11, 0x12, 0x13, 0x14, 0x15, 0x16, 0x17, 0x20, 0x21, 0x22, 0x23, 0x24, 0x26, 0x28, 0x29, 0x2A, 0x2D],
      (let k := onCtxCmd op []
       let s := flying (withCtx decked { idle with deckle := 15 }) k
       takes s k = true ∧ s.live k.ctx = some 0 ∧ (s.ctx 0).deckle + 4 ≠ k.fn) ∧
      (takes (flying decked (onCtxCmd op [])) (onCtxCmd op []) = true ∧
        (flying decked (onCtxCmd op [])).live (onCtxCmd op []).ctx = none) ∧
      (let k := onCtxCmd op []
       let s := flying (withCtx decked { idle with st := .teardown }) k
       takes s k = true ∧ s.live k.ctx = some 0 ∧ (s.ctx 0).deckle + 4 = k.fn ∧
         accepts (s.ctx 0).st op = (op == 0x14))) := by decide +kernel

theorem fit_length (n : Nat) (l : List Byte) : (fit n l).length = n := by
  unfold fit; rw [List.length_take, List.length_append, List.length_replicate]; omega

/-- A command that carries the tag that opens function 0 of link 0. -/
def openCmd : Cmd := ⟨0, 0, bytesOf 16 [(0, 0, 2), (4, 0, 1)] ++ sessionTag Config.transportKey [] 0 0xFF ++ List.replicate 80 0,
  true, false, false, 0, [], 0⟩

theorem middle (a t z : List Byte) (ha : a.length = 16) (ht : t.length = 32) : ((a ++ t ++ z).drop 0x10).take 32 = t := by
  rw [List.append_assoc, List.drop_left' ha, List.take_left' ht]

/-- Function 0 of link 0 with a nonce issued a second ago, and a tag that opens it; the same while the function is barred. -/
def mayOpen : State := { flying up openCmd with sessions := [(0, { Session.reset with nonces := [([], 0)] })], ms := 1000 }

theorem witness_SessionOpens : mayOpen.starting ⟨0, 0, 1⟩ 0x02 = some openCmd ∧ (mayOpen.session 0).opened = false ∧
    (mayOpen.session 0).barred ≤ mayOpen.ms ∧ mayOpen.sessionKey 0 = some Config.transportKey ∧
    mayOpen.nonceFor 0 (mayOpen.sessionBytes 0).1 (mayOpen.sessionBytes 0).2 ((openCmd.desc.drop 0x10).take 32) = some [] ∧
    ∀ tag, ({ mayOpen with sessions := [(0, { Session.reset with barred := 1001 })] } : State).nonceFor 0 0 0 tag = none := by
  have e : openCmd.id = 1 ∧ openCmd.opcode = 2 := by decide +kernel
  have f : openCmd.fn = 0 ∧ openCmd.queue = 0 ∧ openCmd.begun = false := ⟨rfl, rfl, rfl⟩
  have c : mayOpen.cmds = [openCmd] ∧ mayOpen.controlRuns = true := ⟨rfl, by decide +kernel⟩
  have b : mayOpen.sessionBytes 0 = (0, 0xFF) := by decide +kernel
  have t : (openCmd.desc.drop 0x10).take 32 = sessionTag Config.transportKey [] 0 0xFF :=
    middle _ _ _ (by decide +kernel) (fit_length _ _)
  have k : mayOpen.sessionKey 0 = some Config.transportKey := rfl
  have x : mayOpen.session 0 = { Session.reset with nonces := [([], 0)] } ∧ mayOpen.ms = 1000 := ⟨rfl, rfl⟩
  refine ⟨?_, by decide +kernel, by decide +kernel, k, ?_, fun tag => rfl⟩
  · simp [State.starting, State.mayStart, needsDomain, e, f, c]
  · rw [t, b, State.nonceFor, k, x.1, x.2]
    simp [Session.reset]

/-- The commands of sessions, queues and buffers, each able to start. -/
theorem witness_SessionAndQueueCommands :
    (∀ op ∈ [0x01, 0x03, 0x04, 0x05, 0x06, 0x07], takes (flying decked (cmdOf 4 op [])) (cmdOf 4 op []) = true) ∧
    (let k := cmdOf 0 2 []
     (flying up k).starting ⟨0, 0, 1⟩ 2 = some k ∧ ((flying up k).session 0).opened = true ∧
       ({ flying up k with sessions := [] } : State).starting ⟨0, 0, 1⟩ 2 = some k) ∧
    ((decked.queue 4 63).state = .stopped ∧ (cmdOf 4 0x04 [(0x10, 0, 63)]).op 0x10 0 6 = 63) ∧
    (let s := { decked with queues := [(queueKey 4 63, q16)] }
     (s.queue 4 63).state = .running ∧ (s.queue 4 63).deleting = false) ∧
    (∀ sp ∈ [0, 4], let b : Buf := ⟨0, 0x1000, 0x1000⟩
     let reg : Region := ⟨0x1000, sp, true, false, 0x1000, 0, 0, 0, 0, 0⟩
     let s := { withCtx decked { ctx0 with ream := some { oneSheet with regions := [reg] } } with
       deckles := [(0, { Deckle.reset with bufs := [b] })] }
     ((s.deckle 0).bufs.find? fun b => b.id == (cmdOf 4 7 []).op 0x10 0 32) = some b ∧ s.bufBusy 0 b = (sp == 4) ∧
       (s.deckle 0).t3 = none) := by decide +kernel

/-- A ream of one beat and one sheet in local HBM: header at 0x1000, one region, one sheet record, and its program. -/
def reamBytes : List (Nat × List Byte) := [
  (0x1000, bytesOf 64 [(0, 0, 1), (0, 16, 1), (4, 0, 1), (8, 0, 1), (0xC, 0, 1), (0x10, 0, 1), (0x18, 0, 0x2000), (0x20, 0, 0x3000), (0x28, 0, 10)]),
  (0x2000, bytesOf 32 [(0, 0, 0x10000), (8, 0, 64)]), (0x3000, leBytes 8 0x4000),
  (0x4000, bytesOf 80 [(0, 0, 1), (8, 0, 1000), (0xC, 0, 1), (0x10, 0, 0x8000), (0x18, 0, 8), (0x40, 12, 2), (0x48, 0, 64)]),
  (0x8000, leBytes 8 0x7F)]

def reamState : State := reamBytes.foldl (fun s p => s.localWrite 0 p.1 p.2) (put decked [(F.DECKLE_GROUPS_groups, 1, 0, ofDeckle 0)])

/-- A group of two members: this context under handle 1024 and one at endpoint 3. -/
def groupBytes : List Byte := bytesOf 48 [(0, 0, 1), (0, 8, 63), (0, 16, 2), (32, 0, 1), (34, 0, 2), (36, 0, 1024), (40, 0, 3), (42, 0, 0xFFFF)]
def groupState : State := (put { decked with plan := some { plan0 with endpoints := [1, 2, 3] } }
  [(F.ROUTE_ID_endpoint, 1, 0, 0), (F.ROUTE_ID_endpoint, 2, 1, 0)]).localWrite 0 0 groupBytes

/-- An index freed less than 100 ms ago and one freed 100 ms ago; the deckle's last context and one too many; a ream that loads and one
that is refused; a context started from each state, and in a job whose ports are held; a stop with and without release of a context that
holds state in a tile, running, stopping and stopped; its status, a wait, and groups. -/
theorem witness_ContextCommands :
    (∀ ms ∈ [99, 100], let k := cmdOf 4 0x10 []
     let s := { flying (withCtx decked { Ctx.reset with gen := 1, freedAt := some 0 }) k with ms := ms }
     let s1 := put s [(F.DECKLE_STATE_ctx_max, 1, 0, ofDeckle 0)]
     takes s1 k = true ∧ (s1.ctxsOf 0).length < s1.fget F.DECKLE_STATE_ctx_max 0 (ofDeckle 0) ∧
       ((List.range 1024).find? fun j => (s1.ctx j).st == .free &&
         match (s1.ctx j).freedAt with | some t => decide (t + 100 ≤ s1.ms) | none => true) = some (100 - ms)) ∧
    (let k := cmdOf 4 0x10 []
     let s := flying (put (withCtx decked idle) [(F.DECKLE_STATE_ctx_max, 1, 0, ofDeckle 0)]) k
     takes s k = true ∧ s.fget F.DECKLE_STATE_ctx_max 0 (ofDeckle 0) ≤ (s.ctxsOf 0).length) ∧
    (let k := onCtxCmd 0x11 [(0x10, 0, 0x1000)]
     let s := flying (withCtx reamState idle) k
     onCtx s k 0 = true ∧ (s.loadReam (s.ctx 0) (k.op 0x10 0 64) (k.op 0x18 0 64) (k.op 0x20 0 9)).isRight = true) ∧
    (let k := onCtxCmd 0x11 []
     let s := flying (withCtx reamState idle) k
     onCtx s k 0 = true ∧ s.loadReam (s.ctx 0) (k.op 0x10 0 64) (k.op 0x18 0 64) (k.op 0x20 0 9) = .inl (1, 0, .invalid)) ∧
    (∀ st ∈ [CtxState.stopped, .loaded], let k := onCtxCmd 0x12 []
     let s := flying (withCtx decked { ctx0 with st := st, bind := if st = .loaded then [] else [(0, 0)] }) k
     onCtx s k 0 = true ∧ s.inJob 0 = false ∧ (s.ctx 0).release = false) ∧
    (let k := onCtxCmd 0x12 []
     let s := flying (withCtx groupState { idle with st := .loaded, groups := [⟨0, 0, [], 0⟩] }) k
     onCtx s k 0 = true ∧ s.inJob 0 = true ∧ (put s [(F.PORT_STATE_state, stAbsent, 0, 0)]).jobHeld = true) ∧
    (∀ rel ∈ [0, 1], let k := onCtxCmd 0x13 [(0x10, 0, rel)]
     let x := { ctx0 with ream := some { oneSheet with regions := [⟨0, 1, false, false, 4096, 0, 0, 0, 0, 0⟩] } }
     let s := flying (withCtx decked x) k
     onCtx s k 0 = true ∧ k.op 0x10 0 1 = rel ∧ (s.ctx 0).hasTileRegion = true) ∧
    (∀ st ∈ [CtxState.stopping, .stopped],
      onCtx (flying (withCtx decked { ctx0 with st := st }) (onCtxCmd 0x13 [])) (onCtxCmd 0x13 []) 0 = true) ∧
    (∀ op ∈ [0x14, 0x15], onCtx (flying (withCtx decked ctx0) (onCtxCmd op [])) (onCtxCmd op []) 0 = true) ∧
    (let k := onCtxCmd 0x17 [(0x10, 0, 96 * 2 ^ 30 - 31)]
     let s := flying (withCtx decked idle) k
     onCtx s k 0 = true ∧ (s.deckle 0).lost = false ∧ s.localSize 0 < k.op 0x10 0 64 + 32) ∧
    (let k := onCtxCmd 0x17 []
     let s := flying (withCtx groupState idle) k
     let bytes := s.localRead 0 0 48
     onCtx s k 0 = true ∧ (s.deckle 0).lost = false ∧ 48 ≤ s.localSize 0 ∧ s.localBad 0 0 32 = none ∧ s.localBad 0 32 16 = none ∧
       groupHeadOk (bytes.take 32) = true ∧ fieldAt bytes 0 16 9 = 2 ∧ (∀ j < 2, fieldAt bytes (32 + 8 * j) 56 8 = 0) ∧
       (s.ctx 0).group 63 = none ∧ s.membersOk (s.handle 0) 0 ((List.range 2).map (memberOf bytes)) = true) := by decide +kernel

/-- A write of this module not yet complete at endpoint 3. -/
def awayWrite : RWrite := ⟨0, 3, 1, 5, false, 0⟩

/-- A running context; one in teardown with nothing outstanding, with a write to another module outstanding and with a tile that drains,
its drain limit just reached and its teardown limit just reached; an abort of no command, of a teardown and of others, begun and not. -/
theorem witness_TeardownAndAbort :
    onCtx (flying (withCtx decked ctx0) (onCtxCmd 0x16 [])) (onCtxCmd 0x16 []) 0 = true ∧
    (∀ rev ∈ [false, true], let s := withCtx decked { idle with st := .teardown, revoked := rev }
     (s.ctx 0).st = .teardown ∧ s.draining 0 = false ∧ s.awayLeft 0 = [] ∧ (s.ctx 0).revoked = rev ∧ s.tilesOf 0 = []) ∧
    (let s := { withCtx decked { idle with st := .teardown, revoked := true, away := [awayWrite] } with
       routers := [(0, { Router.reset with tx := [⟨3, 0, false, 0, 0, [⟨1, 6, 0, 0⟩], 0⟩] })] }
     s.tilesOf 0 = [] ∧ s.awayLeft 0 ≠ []) ∧
    (let s := { withCtx decked { idle with st := .teardown } with
       tiles := [(0, { Tile.reset with state := .draining, draining := some (0, 0, 0) })] }
     s.draining 0 = true) ∧
    (let x := { idle with st := .teardown, drainedAt := some 7, torn := 7 }
     let s := withCtx decked x
     let s1 := { s with ms := 7 + s.fget F.DECKLE_TIMERS_drain_ms 0 (ofDeckle 0) }
     let s2 := { s with ms := 7 + s.fget F.DECKLE_TIMERS_teardown_ms 0 (ofDeckle 0) }
     (s1.ctx 0).drainedAt = some 7 ∧ 7 + s1.fget F.DECKLE_TIMERS_drain_ms 0 (ofDeckle 0) ≤ s1.ms ∧ (s1.ctx 0).revoked = false ∧
       (s2.ctx 0).torn + s2.fget F.DECKLE_TIMERS_teardown_ms 0 (ofDeckle 0) ≤ s2.ms) ∧
    (let k := cmdOf 4 0x08 [(0x14, 0, 2)]
     takes (flying decked k) k = true ∧ ((flying decked k).cmds.find? fun t =>
       t.fn == k.fn && t.queue == k.op 0x10 0 6 && t.id == k.op 0x14 0 32 && !t.lost && t != k) = none) ∧
    (∀ op ∈ [0x16, 0x15], ∀ begun ∈ [false, true], let k := cmdOf 4 0x08 [(0x14, 0, 2)]
     let t := { onCtxCmd op [] with desc := bytesOf 128 [(0, 0, op), (4, 0, 2)], begun := begun }
     let s := { decked with cmds := [k, t] }
     takes s k = true ∧ (s.cmds.find? fun t => t.fn == k.fn && t.queue == k.op 0x10 0 6 && t.id == k.op 0x14 0 32 && !t.lost && t != k) =
       some t ∧ t.opcode = op ∧ t.begun = begun) := by decide +kernel

/-- One block at index 3, and an export of it. -/
def blockCtx : Ctx := { idle with blocks := [(3, some blk)] }
def roomy (mib : Nat) (x : Ctx) : State := withCtx { put decked [(F.CHEST_ARENA_SIZE_size_mib, mib, 0, ofDeckle 0)] with
  deckles := [(0, { Deckle.reset with bufs := [⟨0, 0, 0x10000⟩], orphans := [(77, [(3, some blk)])] })] } x
def exported : List Byte := bytesOf 64 [(0, 0, 1), (0, 9, 1), (0x12, 0, 1)]

/-- A created range free and taken, with room and without; blocks freed, of a context and of an orphan; re-encoded, described, exported to
a buffer and to an endpoint of the plan, reachable and not; imported; adopted. -/
theorem witness_ChestCommands :
    (let k := onCtxCmd 0x20 [(0x10, 0, 3), (0x14, 0, 1), (0x18, 0, 1), (0x18, 16, 1)]
     createOk 1 0 0 0 1 0 = true ∧ k.op 0x18 0 1 = 1 ∧ k.op 0x18 16 9 = 1 ∧
     (onCtx (flying (roomy 1 blockCtx) k) k 0 && !((blockCtx.created k.first k.count).isEmpty)) = true ∧
     (∀ mib ∈ [0, 1], let s := flying (roomy mib idle) k
       onCtx s k 0 = true ∧ (s.ctx 0).created k.first k.count = [] ∧
         decide (s.arenaFree 0 < k.count * (Block.fresh 1 0 0 0 1 0 0).arena) = (mib == 0))) ∧
    (let k := cmdOf 4 0x21 []
     takes (flying decked k) k = true ∧ (flying decked k).live k.ctx = none ∧ ((flying decked k).deckle 0).orphans = []) ∧
    (let k := onCtxCmd 0x21 []
     onCtx (flying (roomy 1 blockCtx) k) k 0 = true) ∧
    (let k := cmdOf 4 0x21 [(2, 0, 77)]
     let s := flying (roomy 1 idle) k
     takes s k = true ∧ s.live k.ctx = none ∧ (s.deckle 0).orphans.any (fun o => o.1 == k.ctx) = true) ∧
    (∀ enc ∈ [0, 3], let k := onCtxCmd 0x22 [(0x10, 0, 3), (0x14, 0, 1), (0x18, 0, enc)]
     let b := blk.written (List.replicate 2048 0)
     let x := { idle with blocks := [(3, some b)] }
     onCtx (flying (roomy 1 x) k) k 0 = true ∧ k.op 0x18 0 3 ≤ 4 ∧ x.created k.first k.count = [(3, b)] ∧ b.valid = true ∧
       encOk b.kind (k.op 0x18 0 3) b.xenc = true) ∧
    (let k := onCtxCmd 0x23 [(0x10, 0, 3), (0x14, 0, 1), (0x18, 0, 0xFFC0)]
     let s := flying (roomy 1 blockCtx) k
     onCtx s k 0 = true ∧ (s.ctx 0).created k.first k.count ≠ [] ∧ s.inBuffer 0 (k.op 0x18 0 64) (64 * k.count) = true) ∧
    (let k := onCtxCmd 0x24 [(0x10, 0, 3), (0x14, 0, 1), (0x20, 0, 4)]
     let s := flying (roomy 1 blockCtx) k
     onCtx s k 0 = true ∧ (s.ctx 0).started = false ∧ k.op 0x20 0 4 = 4 ∧
       (((s.ctx 0).created k.first k.count).filter fun b => b.2.valid).findSome? (fun b => s.blockBad 0 b.2) = none) := by decide +kernel

/-- The rest: exports to an endpoint, of the plan and not, an import and an adoption. -/
theorem witness_ChestCommands_others :
    (∀ plan ∈ [none, some { plan0 with endpoints := [1, 2, 3] }], let k := onCtxCmd 0x24 [(0x10, 0, 3), (0x14, 0, 1), (0x20, 16, 3)]
     let s := { flying (roomy 1 blockCtx) k with plan := plan }
     let bytes := (((s.ctx 0).created k.first k.count).map fun b => b.2.export).flatten
     onCtx s k 0 = true ∧ (s.ctx 0).started = false ∧ k.op 0x20 0 4 ≠ 4 ∧ s.planned (k.op 0x20 16 16) = plan.isSome ∧
       (s.txPair 0 3).unreachable = false ∧
       ((s.exportTo 3 (s.handle 0) (k.op 0x18 0 64) (pieces (bytes.length / 2048 + 1) 0 bytes)).2.map List.length) = some 1) ∧
    (let k := onCtxCmd 0x25 [(0x10, 0, 2 ^ 28 - 1), (0x18, 0, 0xFFC0), (0x20, 0, 4)]
     let s := flying (roomy 1 blockCtx) k
     onCtx s k 0 = true ∧ k.op 0x20 0 4 = 4 ∧ s.inBuffer 0 (k.op 0x18 0 64) exported.length = true ∧
       (importAll s.freeCtr (exported.length / 64 + 1) exported).map List.length = some 1 ∧ k.first + 1 ≤ 2 ^ 28 ∧
       (s.ctx 0).created k.first 1 = [] ∧ 128 ≤ s.arenaFree 0) ∧
    (let k := onCtxCmd 0x26 [(0x10, 0, 77)]
     let s := flying (roomy 1 idle) k
     onCtx s k 0 = true ∧ (s.deckle 0).orphans.find? (fun o => o.1 == k.op 0x10 0 16) = some (77, [(3, some blk)]) ∧
       (s.ctx 0).blocks = []) := by decide +kernel

/-- One journal entry of handle 1024. -/
def entry : List Byte := JEntry.encode ⟨1, 0, 1024, 0, 0, 0, 0, 0, 0⟩

/-- A context with its block in T2, and a list of one lender. -/
def farCtx : Ctx := { idle with blocks := [(3, some { blk with tier := 2, lender := some (3, 9) })] }
def lenders : State := ({ flying (roomy 1 idle) (cmdOf 4 0x2B []) with plan := some { plan0 with endpoints := [1, 2, 3] } }).localWrite 0 64
  (leBytes 8 (3 + 9 * 2 ^ 16 + 16 * 2 ^ 32))

/-- Blocks pinned, unpinned and moved, and none; a move back to T1; tiers registered and withdrawn; arena lent; a replay. -/
theorem witness_HeadboxCommands :
    (∀ op ∈ [0x28, 0x29, 0x2A], ∀ first ∈ [3, 4], let k := onCtxCmd op [(0x10, 0, first), (0x14, 0, 1)]
     onCtx (flying (roomy 1 blockCtx) k) k 0 = true ∧ (blockCtx.created k.first k.count).isEmpty = (first == 4)) ∧
    (let k := cmdOf 4 0x2B [(0x28, 0, 96 * 2 ^ 30)]
     let s := flying decked k
     takes s k = true ∧ (s.deckle 0).lost = false ∧ k.op 0x20 0 9 = 0 ∧ k.op 0x10 0 64 = 0 ∧ k.op 0x28 0 64 ≤ s.localSize 0 ∧
       s.localBad 0 (k.op 0x28 0 64) 0 = none) ∧
    (let k := onCtxCmd 0x28 [(0x10, 0, 3), (0x14, 0, 1), (0x18, 0, 1)]
     let s := flying (roomy 1 farCtx) k
     onCtx s k 0 = true ∧ ((s.ctx 0).created k.first k.count).length = 1 ∧ k.op 0x18 0 2 = 1 ∧ (s.ctx 0).moves = [] ∧
       blk.units * 256 ≤ s.arenaFree 0) ∧
    (let k := cmdOf 4 0x2B [(0x10, 0, 0x1000), (0x18, 0, 0x1000), (0x20, 0, 1), (0x28, 0, 64)]
     let s := { lenders with cmds := [k] }
     takes s k = true ∧ k.op 0x20 0 9 = 1 ∧ k.op 0x28 0 64 + 8 ≤ s.localSize 0 ∧ s.localBad 0 (k.op 0x28 0 64) 8 = none ∧
       k.op 0x10 0 64 ≠ 0 ∧ s.inBuffer 0 (k.op 0x10 0 64) (k.op 0x18 0 64) = true ∧
       (let l := fieldAt (s.localRead 0 (k.op 0x28 0 64) 8) 0 0 64
        l < 2 ^ 56 ∧ s.planned (l % 2 ^ 16) = true)) ∧
    (let k := cmdOf 4 0x2C [(0x10, 0, 3), (0x10, 16, 9), (0x14, 0, 1)]
     let s := flying (roomy 2 idle) k
     takes s k = true ∧ ((s.deckle 0).lends.any fun l => l.tag == k.op 0x10 16 16) = false ∧
       k.op 0x14 0 32 * 2 ^ 20 ≤ s.arenaFree 0) ∧
    (let k := onCtxCmd 0x2D [(0x18, 0, 1)]
     let s := flying (withCtx (decked.localWrite 0 0 entry) idle) k
     onCtx s k 0 = true ∧ (s.deckle 0).lost = false ∧ 32 ≤ s.localSize 0 ∧ s.localBad 0 0 32 = none ∧
       (∀ e ∈ chunk32 1 (s.localRead 0 0 32), entryOk e = true ∧ fieldAt e 0 16 16 = s.handle 0)) := by decide +kernel

def qp (st depth : Nat) : Qp := ⟨0, 25, depth, 1, st, 0, 0, 0, [], 0, 0, [], 0, none, false, [], [], 0⟩
def storage (qs : List Qp) : State := { put decked [(F.DECKLE_PORTS_ports, 2 ^ 25, 0, ofDeckle 0)] with
  deckles := [(0, { Deckle.reset with qps := qs })] }

/-- A port with 4,095 queue pairs and with 4,096, and another deckle's; each command on a pair that is there and on none. -/
theorem witness_QueuePairCommands :
    (∀ n ∈ [4095, 4096], let k := cmdOf 4 0x30 [(0x10, 0, 25)]
     let s := flying (storage (List.replicate n (qp 0 1))) k
     takes s k = true ∧ s.ownsPort 0 (k.op 0x10 0 5) = true ∧
       decide (((s.deckle 0).qps.filter fun q => q.port == k.op 0x10 0 5).length < 4096) = (n == 4095)) ∧
    (let k := cmdOf 4 0x30 [(0x10, 0, 24)]
     takes (flying (storage []) k) k = true ∧ (storage []).ownsPort 0 (k.op 0x10 0 5) = false) ∧
    (∀ op ∈ [0x31, 0x32, 0x33], ∀ st ∈ [1, 2, 3], let k := cmdOf 4 op [(0x10, 24, st), (0x20, 0, 64)]
     let s := flying (storage [qp 3 1]) k
     takes s k = true ∧ k.op 0x10 24 4 = st ∧ (s.deckle 0).qp (k.op 0x10 0 24) = some (qp 3 1) ∧
       s.workOk 0 (k.op 0x10 28 4) (k.op 0x18 0 64) (k.op 0x20 0 32) = true ∧ (qp 3 1).work.length < (qp 3 1).sendDepth ∧
       s.localBad 0 (k.op 0x18 0 64) (k.op 0x20 0 32) = none ∧ (qp 1 1).state ≠ 3 ∧ (qp 3 0).sendDepth ≤ (qp 3 0).work.length ∧
       ((flying (storage []) k).deckle 0).qp (k.op 0x10 0 24) = none) := by decide +kernel

/-- A deckle 1 asked for: link 0, a context, group 1, half stacks of HS1. -/
def ask (hbm : Nat) : Cmd := cmdOf 0 0x40 [(0x10, 0, 1), (0x10, 6, 1), (0x18, 0, 2), (0x20, 0, hbm)]

theorem witness_DeckleCommands :
    (∀ hbm ∈ [0x0, 0x3, 0xC], let k := ask hbm
     let s := flying decked k
     takes s k = true ∧ s.askOk (deckleAsk k) = (hbm != 0) ∧ s.conflict 3 1 (deckleAsk k).given = none ∧
       s.askTaken (deckleAsk k) = (hbm == 3)) ∧
    (let s := put up [(F.DECKLE_STATE_state, 1, 0, ofDeckle 15)]
     s.fget F.DECKLE_STATE_state 0 (ofDeckle 15) = 1 ∧ s.inService = true) ∧
    (∀ x ∈ [Ctx.reset, idle], let k := cmdOf 0 0x41 []
     let s := flying (withCtx decked x) k
     takes s k = true ∧ s.deckleExists (k.op 0x10 0 4) = true ∧ s.conflict 3 (k.op 0x10 0 4) = none) ∧
    takes (flying up (cmdOf 0 0x42 [])) (cmdOf 0 0x42 []) = true ∧
    decked.ownsHalf 0 (hbmKey 0 31 0 / 2 ^ 37) (hbmKey 0 31 0 / 2 ^ 36 % 2) = true := by decide +kernel

/-! Memory, power, bring-up, recovery, clocks and the calender. -/

def lostDeckle (s : State) : State := { s with deckles := [(0, { Deckle.reset with lost := true })] }

/-- Stack 0 with its scrubber at the last unit of channel 31, and that unit poisoned or not. -/
def scrubbed (bad : Bool) : State :=
  { put decked [(F.HBMC_SCRUB_period_h, 1, 0, 0)] with
    stackTab := [(0, { Stack.reset with scrub := [(31, channelUnits - 1)] })]
    poison := if bad then [(hbmKey 0 31 ((channelUnits - 1) * 64) / 64, true)] else [] }

/-- The last 64 bytes of the deckle's HBM, readable and poisoned, in the arena or not, the deckle lost or not; a scrubbed unit poisoned or
not; rows of a stack to repair with and without a spare; a stack that grows hot and one that cools. -/
theorem witness_MemoryRows :
    (let a := 96 * 2 ^ 30 - 64
     decked.hdmReach 0 a 64 = true ∧ (decked.deckle 0).lost = false ∧ decked.inArena 0 a 64 = false ∧ decked.memFenced 0 = false ∧
       decked.localBad 0 a 64 = none ∧ decked.isPoisoned 0 a = false ∧ (lostDeckle decked).hdmReach 0 a 64 = true ∧
       ((lostDeckle decked).deckle 0).lost = true ∧
       (let s := { decked with poison := [(decked.localKey 0 a / 64, true)] }
        s.localBad 0 a 64 = some (0x0D, a)) ∧
       (let s := put decked [(F.CHEST_ARENA_SIZE_size_mib, 1, 0, ofDeckle 0)]
        s.hdmReach 0 a 64 = true ∧ s.inArena 0 a 64 = true)) ∧
    stackOk decked 0 = true ∧
    (∀ bad ∈ [true, false], let s := scrubbed bad
     s.memState 0 = memActive ∧ s.fget F.HBMC_SCRUB_period_h 0 ≠ 0 ∧
       s.poison.get (fun _ => false) (hbmKey 0 31 ((s.stack 0).scrub.get (fun _ => 0) 31 * 64) / 64) = bad) ∧
    (∀ done ∈ [[], [6143 * 2 ^ 12, 1 * 2 ^ 12, 2 * 2 ^ 12]], let row := 6143 * 2 ^ 12
     let s := { decked with stackTab := [(0, { Stack.reset with scheduled := [row], repaired := done })] }
     rowOk row = true ∧ (s.stack 0).scheduled.contains row = true ∧ (s.stack 0).repairing = none ∧
       s.memState 0 = memActive ∧ ((s.stack 0).spares row = 0) = (done ≠ []) ∧ s.conflict 4 0 = none) ∧
    (({ decked with stackTab := [(0, { Stack.reset with repairing := some 7 })] } : State).stack 0).repairing = some 7 ∧
    (∀ t ∈ [(380 : Int), 332], let s := { decked with cal := { decked.cal with sensors := [(8 * 64, ⟨some t, 0, false, false, 0⟩)] } }
     let s1 := put s [(F.HBMC_STATE_refresh, if t = 332 then 2 else 0, 0, 0)]
     (s1.spot 8 0).isSome = true ∧ (t = 380 → s1.fget F.HBMC_STATE_refresh < refreshCode ((s1.spot 8 0).getD 0)) ∧
       (t = 332 → refreshCode ((s1.spot 8 0).getD 0 + 7) < s1.fget F.HBMC_STATE_refresh)) := by decide +kernel

/-- A module in bring-up: powered, training, its rails up to and including `r` stable. -/
def rising (phase r : Nat) : State := put { up with bring := { up.bring with booted := [] } }
  ([(F.RSTCTL_BRINGUP_phase, phase, 0, 0), (F.RSTCTL_STATE_state, rsTraining, 0, 0), (F.MGT_RAILS_req, 0xF, 0, 0)] ++
    (List.range (r + 1)).map fun i => (railF i, 1, 0, 0))

theorem witness_PowerAndRailRows :
    up.bring.powered = true ∧ State.reset.bring.powered = false ∧
    (let s := put (rising 1 0) [(F.CLKCTL_ROOT_a_ready, 0, 0, 0), (F.CLKCTL_ROOT_b_ready, 0, 0, 0)]
     s.bring.powered = true ∧ s.rail 1 = false ∧ s.rail 0 = true ∧ (s.fget F.MGT_RAILS_req).testBit 1 = true ∧
       (s.fset (railF 1) 1).rail 3 = false ∧ (s.fset (railF 1) 1).upDone = false) ∧
    ((rising 1 0).rail 0 = true) ∧
    (let s := rising 2 1
     s.rail 1 = true ∧ (s.fset (railF 1) 0).rsState ≠ rsFailed ∧ (s.fset (railF 1) 0).fget F.RSTCTL_BRINGUP_phase < 5) ∧
    (let s := rising 4 2
     s.rail 2 = true ∧ (∀ k < 4, 2 < k → s.rail k = false) ∧ s.rail 1 = true ∧ (∃ k < 4, 1 < k ∧ s.rail k = true)) ∧
    (let s := rising 1 2
     s.fget F.RSTCTL_BRINGUP_phase = 1 ∧ (s.fget F.MGT_RAILS_req).testBit 3 = true ∧ s.rail 3 = false) := by decide +kernel

theorem witness_BringUpRows :
    (let s := rising 2 1
     s.fget F.RSTCTL_BRINGUP_phase = 2 ∧ s.upRuns = true ∧ s.rail 1 = true ∧ s.bring.mem = false) ∧
    (∀ ph ∈ [2, 4], let s := put (rising ph 1) [(F.HBMC_STATE_state, memTraining, 11, 0)]
     s.memState 11 = memTraining ∧ s.upDone = (ph == 4)) ∧
    (∀ rep ∈ [false, true], let s := { rising 2 2 with bring := { (rising 2 2).bring with repeated := rep } }
     s.upDone = false ∧ s.fget F.RSTCTL_BRINGUP_phase = 2 ∧ s.upRuns = true ∧ s.rail 2 = true ∧ s.bring.test = false ∧
       s.bring.repeated = rep) ∧
    (let s := rising 3 3
     s.fget F.RSTCTL_BRINGUP_phase = 3 ∧ s.linkExists 0 = true ∧ s.bring.windows.contains 0 = false ∧ s.upReady = false) ∧
    ({ put (rising 3 3) [(F.MOD_PORT_port_present, 0, 0, 0)] with
        bring := { up.bring with mem := true, test := true } } : State).upReady = true := by decide +kernel

/-- A tier in a state. -/
def tiered (tier st : Nat) : State := put up [(F.RSTCTL_STATE_tier, tier, 0, 0), (F.RSTCTL_STATE_state, st, 0, 0)]

theorem witness_RecoveryTierRows :
    up.upDone = true ∧ up.rsState = rsReady ∧ up.rsState ≠ rsFailed ∧ (tiered 1 rsFailed).rsState = rsFailed ∧
    (∀ old ∈ [[0], [0, 59999]], let s := { up with ms := 59999, rst := { up.rst with recoveries := old } }
     decide (2 ≤ (s.rst.recoveries.filter fun t => decide (s.ms < t + 60000)).length) = (old.length == 2)) ∧
    (let s := tiered 1 rsFencing
     s.tierRuns 1 = true ∧ s.rsState = rsFencing ∧ s.rst.railHold = false ∧ s.rst.dumping = none ∧ s.rst.dumpDue = none) ∧
    ((tiered 1 rsResetting).tierRuns 1 = true ∧ (tiered 1 rsResetting).rsState = rsResetting) ∧
    (let s := put (tiered 2 rsTraining) ((List.range 12).map fun i => (F.HBMC_STATE_state, memActive, i, 0))
     s.tierRuns 2 = true ∧ s.rsState = rsTraining ∧
       ∀ i < 12, s.stackFitted i = true → s.memState i = memActive ∨ s.memState i = memFailed) := by decide +kernel

/-- A command at its limit; a suspect's replay one beat short of its window and at its end, with none convicted and with one; a dump being
written, while a recovery waits for it and while none does. -/
theorem witness_SuspectAndDumpRows :
    (let k := { cmdOf 4 0x14 [] with age := (up.timeoutOf (cmdOf 4 0x14 [])).getD 0 }
     ((flying up k).cmds.find? fun j => j.fn == 4 && j.queue == 0 && j.id == 1 && (flying up k).overtime j) = some k) ∧
    (∀ n ∈ [0, 1], let x : SuspectSet := ⟨cmdOf 4 0x14 [], [], some (0, 1), n, [], false⟩
     let s := { up with rst := { up.rst with suspects := some x } }
     s.rst.suspects = some x ∧ x.replaying = some (0, 1) ∧ x.convicted = n ∧ s.beatCount < 1 + s.replayWindow x ∧
       (let s1 := s.fset F.BEAT_COUNT_count (1 + s.replayWindow x)
        1 + s1.replayWindow x ≤ s1.beatCount)) ∧
    up.rst.suspects = none ∧ up.rst.dumping = none ∧
    (let s := { up with rst := { up.rst with dumping := some (0x0D, 1) } }
     s.rst.dumping = some (0x0D, 1) ∧ s.rsState ≠ rsDumping ∧ s.rst.dumpAgain = none) := by decide +kernel

/-- REFCLK there, lost, and back with no root and with one; a root with its lock and without, lost for the second time in an hour and for
the third; a rail at the threshold of the droop sensor and one millivolt under it; an enable that waits. -/
theorem witness_ClockRows :
    up.rst.refLost = false ∧ up.bring.powered = true ∧
    (∀ on ∈ [0, 1], let s := { put up [(F.CLKCTL_ROOT_a_ready, 0, 0, 0), (F.CLKCTL_ROOT_b_ready, on, 0, 0)] with
       rst := { up.rst with refLost := true } }
     s.rst.refLost = true ∧ s.rootReady 0 = false ∧ s.rootReady 1 = (on == 1)) ∧
    (∀ on ∈ [0, 1], let s := put up [(lockF 1, on, 0, 0), (F.CLKCTL_ROOT_bypass, 0, 0, 0)]
     s.flag F.CLKCTL_ROOT_bypass = false ∧ s.flag (lockF 1) = (on == 1) ∧ s.clk.stopped = false ∧ s.ctl.halted = []) ∧
    (∀ old ∈ [[(1, 1)], [(1, 0), (1, 1)], [(1, 1), (1, 2)]],
     let s := { put up [(lockF 1, 1, 0, 0)] with ms := 3600000, clk := { up.clk with losses := old } }
     decide (2 ≤ ((s.clk.losses.filter fun l => decide (s.ms < l.2 + 3600000)).filter fun l => l.1 == 1).length) =
       (old == [(1, 1), (1, 2)]) ∧ s.rootRetired 1 = false) ∧
    (∀ on ∈ [0, 1], (put up [(droopF 3, on, 0, 0)]).flag (droopF 3) = (on == 1)) ∧
    (let least := (100 - up.fget F.SENS_DROOP_pct 3) * coreMv (up.fget (divF 3))
     0 < least ∧ least / 100 * 100 ≤ least ∧ least ≤ (least / 100 + 1) * 100) ∧
    (let s := { up with clk := { up.clk with enables := [(Page.TILE + 47, true)] } }
     (clockBit (Page.TILE + 47)).isSome = true ∧ s.pageFitted (Page.TILE + 47) = true ∧
       (s.clk.enables.find? fun e => e.1 == Page.TILE + 47) = some (Page.TILE + 47, true) ∧
       s.pageFenced (Page.TILE + 47) = false) := by decide +kernel

/-- A decision made, none made, and none that can be; the last sample before THERMTRIP_N may rise and the one at which it does; the leak
loop at its third sample. -/
theorem witness_CalenderRows :
    (∀ m ∈ [true, false], ({ up with cal := { up.cal with made := m } } : State).cal.made = m) ∧
    up.controlRuns = true ∧ ({ up with ctl := { up.ctl with halted := [0, 1] } } : State).controlRuns = false ∧
    predOf [⟨4, 16, 900, 300⟩, ⟨divOf 4, 4, 400, 300⟩] 4 4 = some ⟨divOf 4, 4, 400, 300⟩ ∧
    (∀ n ∈ [9999, 10000], let s := { up with cal := { up.cal with calm := n }, rst := { up.rst with tripped := true } }
     s.rst.tripped = true ∧ decide (s.cal.calm < 10000) = (n == 9999) ∧ s.upDone = true) ∧
    (up.cal.leak.1 ≠ leakRange 7999 ∧
      (let s := put { up with cal := { up.cal with leak := (1, 2) } } [(F.CALENDER_LEAK_state, 0, 0, 0)]
       s.cal.leak = (1, 2) ∧ s.fget F.CALENDER_LEAK_state ≠ 1)) := by decide +kernel

/-- The leak loop asserts at the third sample below 8 kilohm (R399). -/
theorem test_leak_third : (match exec (.leakSample 7999) { up with cal := { up.cal with leak := (1, 2) } } with
    | .next t => t.fget F.CALENDER_LEAK_state | _ => 0) = 1 := by decide +kernel

/-! Links, routers and collectives. -/

/-- The last port in a state and mode. -/
def moded (st mode : Nat) : State := put (ported 25 st) [(F.PORT_CFG_mode, mode, 25, 0), (F.PORT_STATE_lanes, 0xF, 25, 0)]

/-- P25 in Ethernet or S7 use, ACTIVE; queue pair 0 of deckle 0 on it, ready to receive. -/
def etherPort : State := { put (moded stActive 1) [(F.DECKLE_STATE_state, 2, 0, ofDeckle 0), (F.DECKLE_PORTS_ports, 2 ^ 25, 0, ofDeckle 0)] with
  deckles := [(0, { Deckle.reset with qps := [qp 2 1] })] }

/-- Each state that a row asks for; 2 lanes and 1; a port wanted and one not; the right hello and a wrong one; frames of the longest length
and one byte more, for this port and of its own network and another's; a queue pair's packet. -/
theorem witness_PortTrainingRows :
    up.portFitted 25 = true ∧
    (∀ st ∈ [stDetect, stTrain, stIdentify, stSeal, stRetrain, stAbsent, stActive], (moded st 0).portState 25 = st ∧
      (moded st 0).portMode 25 = 0) ∧
    lanesIn 0x9 = 2 ∧ lanesIn 0x8 < 2 ∧ (moded stDetect 0).portWanted 25 = true ∧
    ({ moded stDetect 0 with plan := some { plan0 with ports := [] } } : State).portWanted 25 = false ∧
    ((moded stTrain 0).port 25).clearing = false ∧
    2 ≤ ((List.range 4).filter fun l => (0x9#4).getLsbD l && !(moded stTrain 0).laneRetired 25 l).length ∧
    (∀ mode ∈ [1, 2], (moded stIdentify mode).portMode 25 = mode ∧ (moded stIdentify mode).portState 25 = stIdentify ∧
      (moded stActive mode).portActive 25 = true) ∧
    planSerial (planEntry plan0 25) = 9 ∧ planPort (planEntry plan0 25) = 4 ∧
    (moded stActive 2).fget F.PORT_CFG_s7_net 25 = 0 ∧
    (etherPort.portActive 25 = true ∧ etherPort.portMode 25 = 1 ∧
      etherPort.qpAt 25 ⟨[], false, 0, 0, .ack⟩ = some (0, qp 2 1)) ∧
    (∀ n ∈ [9216, 9217], ∀ b ∈ [EthBody.other [], .pause [(3, 1)], .roce ⟨[], false, 0, 0, .ack⟩],
      let f : EthFrame := ⟨pauseMac, 0, none, n, b⟩
      f.dmac = pauseMac ∧ decide (9216 < f.len) = (n == 9217)) := by decide +kernel

/-- The second to last echo of the measurement and the last; a width proposed and answered; a lane of the port, losing lock for the second
time in 10 s and for the third, relocking, and one of a port that is not active. -/
theorem witness_PortLinkRows :
    (∀ n ∈ [254, 255], let s := { moded stLatency 0 with ports := [(25, { Port.reset with echoes := n, best := some 9 })] }
     s.portState 25 = stLatency ∧ s.portMode 25 = 0 ∧ (s.port 25).fresh = false ∧ (s.port 25).best = some 9 ∧
       (s.port 25).echoes = n) ∧
    (let s := { moded stActive 0 with ports := [(25, { Port.reset with width := some (7, 1), relock := [3] })] }
     s.portActive 25 = true ∧ (s.port 25).width = some ((7#4).toNat, 1) ∧ (s.port 25).relock.contains 3 = true ∧
       s.portState 25 ≠ stRetrain ∧ (s.portLanes 25).testBit 3 = true) ∧
    ((moded stActive 0).port 25).width = none ∧ (moded stRetrain 0).portState 25 = stRetrain ∧ stIdentify ≤ stActive ∧
    (∀ old ∈ [[(3, 1)], [(3, 0), (3, 1)], [(3, 1), (3, 2)]],
      let s := { moded stActive 0 with ms := 10000, ports := [(25, { Port.reset with losses := old })] }
      decide (2 ≤ ((s.port 25).losses.filter fun e => e.1 == 3 && decide (s.ms < e.2 + 10000)).length) = (old == [(3, 1), (3, 2)])) ∧
    ((moded stTrain 0).portLanes 25).testBit 3 = true ∧ (moded stTrain 0).portActive 25 = false ∧
    (put (moded stTrain 0) [(F.PORT_STATE_lanes, 7, 25, 0)]).portLanes 25 = 7 := by decide +kernel

/-- The segment that completes an identity set, and one that does not. -/
theorem witness_IdentitySet : let x : Port := { Port.reset with idBuf := [0] }
    x.idBuf ≠ [] ∧ setLength ≤ x.idBuf.length + (List.replicate (setLength - 1) (0 : Byte)).length ∧
      (List.replicate (setLength - 1) (0 : Byte)).length < setLength := by
  dsimp only; rw [List.length_replicate]; exact ⟨by decide, Nat.le_refl _, by decide⟩

/-- A data flit of sequence number 0 with its CRC, and one with a wrong one. -/
def flit (seq : Nat) (bad : BitVec 64) : Flit :=
  let h := BitVec.ofNat 64 (1 + seq * 16)
  let p := List.replicate 240 (0 : Byte)
  ⟨h, p, crc64 (flitBytes h p) ^^^ bad⟩

/-- A flit in order, one with a wrong CRC and one out of order; a sealed port that is not the lower end; a span to be verified, after none
that failed and after one. -/
theorem witness_FlitAndSealRows :
    (stIdentify ≤ (moded stActive 0).portState 25 ∧ flitSound (flit 0 0) = true ∧ flitSound (flit 0 1) = false ∧
      bits (flit 0 0).header.toNat 4 12 = ((moded stActive 0).port 25).rxNext ∧
      bits (flit 4095 0).header.toNat 4 12 ≠ ((moded stActive 0).port 25).rxNext ∧ flitSound (flit 4095 0) = true ∧
      bits (flit 0 0).header.toNat 0 4 = 1 ∧ ((moded stActive 0).port 25).keyRx = [] ∧
      bits (flit 0 0).header.toNat 28 1 = 0 ∧ bits (flit 0 0).header.toNat 29 1 = 0 ∧ bits (flit 0 0).header.toNat 48 1 = 0) ∧
    (let s := { moded stSeal 0 with plan := some { plan0 with ports := List.replicate 26 5#128 } }
     s.portSealed 25 = true ∧ s.fget F.PORT_PARTNER_SN_serial 25 = 0 ∧ s.portState 25 = stSeal ∧ (s.port 25).txSpanNo < 2 ^ 24) ∧
    (∀ f ∈ [false, true], let s := { moded stActive 0 with ports := [(25, { Port.reset with keyRx := [1], spanFailed := f })] }
     (s.port 25).keyRx ≠ [] ∧ (s.port 25).nextRx = none ∧ s.portState 25 = stActive ∧ (s.port 25).spanFailed = f) := by decide +kernel

/-- With no partner serial read, this end is not the lower one; with one above its own, it is, and rekeys at 2^24 spans. -/
theorem witness_SealEnds : (moded stSeal 0).lower 25 = false ∧
    (Config.serial.toNat < 2 ^ 64 - 1 →
      let s0 := put { moded stActive 0 with plan := some { plan0 with ports := List.replicate 26 5#128 } }
        [(F.PORT_PARTNER_SN_serial, 2 ^ 64 - 1, 25, 0)]
      let s := { s0 with ports := [(25, { Port.reset with txSpanNo := 2 ^ 24 })] }
      s.portActive 25 = true ∧ s.portSealed 25 = true ∧ s.lower 25 = true ∧ 2 ^ 24 ≤ (s.port 25).txSpanNo) := by
  have a : (moded stSeal 0).fget F.PORT_PARTNER_SN_serial 25 = 0 := by decide +kernel
  refine ⟨by unfold State.lower; rw [a]; rfl, fun h => ⟨by decide +kernel, by decide +kernel, ?_, by decide +kernel⟩⟩
  have b : ({ put { moded stActive 0 with plan := some { plan0 with ports := List.replicate 26 5#128 } }
      [(F.PORT_PARTNER_SN_serial, 2 ^ 64 - 1, 25, 0)] with ports := [(25, { Port.reset with txSpanNo := 2 ^ 24 })] } :
      State).fget F.PORT_PARTNER_SN_serial 25 = 2 ^ 64 - 1 := by decide +kernel
  unfold State.lower; rw [b]; exact decide_eq_true h

def pkt : Pkt := ⟨1, 2, 9, 1, false, false, false, 0, 0, 0, 0, 0, 0, 0, 0, 0, []⟩

/-- I/O die 1 at endpoint 2 with packets in its queue, and its entry for endpoint 5. -/
def routing (e : BitVec 32) (q : List Queued) : State := put { up with
    routers := [(1, { Router.reset with queue := q, routes := [(5, e)] })] }
  [(F.ROUTE_ID_endpoint, 2, 1, 0), (F.ROUTE_CFG_esc_en, 1, 1, 0), (F.ROUTE_CMAP_CFG_collector, 0xFFFF, 1, 0),
   (F.PORT_STATE_state, stActive, 25, 0)]
def from0 (p : Pkt) : Queued := Queued.new none p.vc p

/-- A packet is the head of its queue, a second one behind it. -/
def headOf (s : State) (q : Queued) : Bool :=
  (s.router 1).queue[0]? == some q && (s.router 1).isHead 0 q && !(s.router 1).isHead 1 q && s.endpoint 1 == 2 && q.p.src != s.endpoint 1

/-- Packets at the limit of hops, for this die and another on the escape ring; no entry, one of each kind, and one to P25, which has no
room. -/
theorem witness_RouterRows :
    (dieOk up 1 = true ∧ (up.router 1).inject = [] ∧ (up.router 1).mapIval ≠ 0 ∧ up.iodFitted 0 = true ∧
      (routing 0 []).flag F.ROUTE_CFG_esc_en 1 = true ∧ (routing 0 []).fget F.ROUTE_CMAP_CFG_collector 1 = 0xFFFF) ∧
    (∀ p ∈ [{ pkt with hops := 255 }, { pkt with esc := true }, { pkt with dst := 5, esc := true }, { pkt with dst := 5, hops := 254 }],
      headOf (routing 0 [from0 p, from0 p]) (from0 p) = true) ∧
    (∀ e ∈ [(0x0#32, false, 0), (0x1#32, true, 0), (0x5#32, true, 2), (0x1CB#32, true, 1)],
      let s := routing e.1 [from0 { pkt with dst := 5 }]
      let x := s.entryOf 1 (from0 { pkt with dst := 5 })
      x = e.1 ∧ routeValid x = e.2.1 ∧ routeKind x = e.2.2 ∧ routeSpread x = false ∧ routeCircuit x = 0 ∧
        (routeKind x == 1 → s.portActive (routeA x) = true)) ∧
    ((routing 0x1CB []).allowed 1 0x1CB pkt).any (fun i => (routing 0x1CB []).portRoom i pkt.vc (pktFlits pkt) 0) = false := by
  decide +kernel

/-- P25 with credit for one packet: alone it wins the port, behind a rival of VC4 it does not. -/
def bidding (vc4 : Bool) : State :=
  let p5 := { pkt with dst := 5 }
  { routing 0x1CB ([from0 p5] ++ if vc4 then [from0 { p5 with vc := 4 }] else []) with
    ports := [(25, { Port.reset with limit := [(1, 64), (4, 64)] })] }

theorem witness_RouterRows_others :
    (∀ vc4 ∈ [false, true], let p5 := { pkt with dst := 5 }
      (bidding vc4).portRoom 25 (pktChannel p5) (pktFlits p5) 0 = true ∧
        ((bidding vc4).wins 1 0 25 0 40 p5).isNone = vc4) ∧
    (∀ op ∈ [opAck, opWrite], let r := { Router.reset with
      inject := [{ pkt with op := op, dst := 5 }], outst := [{ pkt with dst := 5 }], rx := [⟨9, 0, 0, [⟨1, [], 1, 1, [], [], op - opWrite⟩]⟩] }
     let s := { up with routers := [(1, r)] }
     let s1 := s.placeHeld 1
     (s.router 1).inject = [{ pkt with op := op, dst := 5 }] ∧ ((s.router 1).outst.any fun p => p.dst == 5) = true ∧
       (s.txPair 1 5).room (pktFlits pkt) = true ∧
       ((s1.router 1).rx.find? fun p => p.src == 9) = some ⟨9, 0, 0, [⟨1, [], 1, 1, [], [], op - opWrite⟩]⟩) ∧
    opAck - opWrite ≠ 0 ∧
    (∀ w ∈ [[], [awayWrite]], let n : NoticeDue := ⟨0, 0, [], w⟩
     let s := { withCtx up { idle with notices := [n] } with
       routers := [(0, { Router.reset with tx := [⟨3, 0, false, 0, 0, [⟨1, 6, 0, 0⟩], 0⟩] })] }
     (s.ctx 0).notices[0]? = some n ∧ n.writes.all s.remoteDone = w.isEmpty) := by decide +kernel

/-- A packet for this die of each operation and collective message, in the epoch of its pair, in another, and received before. -/
theorem witness_PacketRows :
    dieOk (routing 0 []) 1 = true ∧ pkt.dst = (routing 0 []).endpoint 1 ∧
    (∀ op ∈ [opWrite, opReadReq, opReadRsp, opNotice, opAck, opChestWr, opChestRd, opCmap, opColl], ({ pkt with op := op } : Pkt).op = op) ∧
    (∀ k ∈ [1, 2, 3, 4, 5, 6, 7, 8, 9], ({ pkt with op := opColl, tag := k } : Pkt).tag % 256 = k) ∧
    pkt.op ≠ opAck ∧ pkt.dst ≠ 0xFFFF ∧ chanKey pkt < 256 ∧ pkt.epoch = ((routing 0 []).rxPair 1 9).epoch % 256 ∧
    ({ pkt with epoch := 1 } : Pkt).epoch ≠ ((routing 0 []).rxPair 1 9).epoch % 256 ∧
    ({ pkt with epoch := 1 } : Pkt).epoch ≠ ((routing 0 []).txPair 1 9).epoch % 256 ∧
    256 ≤ chanKey { pkt with op := opColl, tag := 0x301 } ∧
    (let s : State := { up with routers := [(1, { Router.reset with rx := [⟨9, 256, 0, [⟨1, [], 1, 1, [], [], 0⟩]⟩] })] }
     pkt.epoch = (s.rxPair 1 9).epoch % 256 ∧ ((s.rxPair 1 9).chanFor pkt).accepted = 1 ∧ pkt.pairSeq < 1) := by decide +kernel

/-- An all-reduce of two ranks over 4 INT32 elements, this member owning the first two, with both contributions held and its chunk at an
engine, or at none. -/
def reduceStep (st : StepState) (age : Nat) (hold : List (Nat × Bool)) : Step :=
  ⟨0, 0, st, false, 0, age, 0, [], [], [⟨0, 0, 0, List.replicate 8 1⟩, ⟨0, 1, 0, List.replicate 8 2⟩], [], [], [], false, 0, [],
    hold, [], []⟩
def reduceCtx (p : Step) (timeout : Nat) : Ctx :=
  { ctx0 with
    steps := [p], groups := [⟨0, 0, [(1, 2, 1024, 0), (3, 0xFFFF, 5, 0)], 0⟩]
    ream := some { oneSheet with colls := [⟨5, 0, 6, false, false, 0, 1, 0, 4, 0, 0, 0, 0, 0, 0, timeout, 0⟩] } }

/-- A step one beat short of its timeout and at it, of its own and of COLL_CFG's; a chunk at an engine, in either mode, and at none. -/
theorem witness_CollectiveRows :
    (∀ x ∈ [(StepState.run, 8), (.hash, 9)], ∀ hold ∈ [[], [(0, false)]], let p := reduceStep x.1 x.2 hold
     let c := reduceCtx p 9
     let s := withCtx up c
     let e := c.entryOf p
     let g := c.groupOf p
     (s.ctx 0).steps[0]? = some p ∧ p.st = x.1 ∧ isReduceOp e = true ∧ 0 < chunkCount e g g.rank ∧ p.finished.contains 0 = false ∧
       (p.holding.find? fun h => h.1 == 0) = hold.head? ∧
       ranksLacking (p.held 0 (chunkSpan e g g.rank 0).1 (chunkSpan e g g.rank 0).2) g.n (elemBytes e.dtype)
         (chunkSpan e g g.rank 0).2 = [] ∧ e.timeout = 9 ∧ decide (e.timeout ≤ p.age) = (x.2 == 9)) ∧
    (let p := { reduceStep .run 0 [(0, true)] with age := max 1 (up.fget F.COLL_CFG_timeout) }
     let c := reduceCtx p 0
     let e := c.entryOf p
     let sp := (c.sliceNow p 0).getD (0, 0)
     e.timeout = 0 ∧ max 1 ((withCtx up c).fget F.COLL_CFG_timeout) ≤ p.age ∧
       (p.holding.find? fun h => h.1 == 0) = some (0, true) ∧
       ranksLacking (p.held 0 sp.1 sp.2) (c.groupOf p).n (elemBytes e.dtype) sp.2 = []) := by decide +kernel

/-! Registers. -/

/-- The hypothesis of the writing rows, as a check. -/
def writes (s : State) (view bytes page reg : Nat) : Bool :=
  s.viewOk view && s.viewUp view && s.access view (page * 4096 + reg) bytes true == .served && s.viewMayWrite view page reg &&
    decide (reg < 4096)

theorem writes_spec {s : State} {view bytes page reg : Nat} (h : writes s view bytes page reg = true) :
    Writes s view bytes page reg := by
  simp only [writes, Bool.and_eq_true, beq_iff_eq, decide_eq_true_eq] at h
  exact ⟨h.1.1.1.1, h.1.1.1.2, h.1.1.2, h.1.2, h.2⟩

/-- A write served in a deckle's view, one to an unassigned page, one to a fenced block's body, refused; both halves of a 64-bit
register. -/
theorem witness_RegisterWriteRows :
    decked.viewOk 4 = true ∧ decked.viewUp 4 = true ∧ decked.access 4 (Page.DECKLE * 4096 + 0x10) 4 true = .served ∧
    decked.access 20 0x1FFFFF8 8 true = .quiet ∧
    (let s := decked.setReg 0 Page.HEADBOX 0x14 2
     s.access 20 (Page.HEADBOX * 4096 + 0x80) 4 true = .refused 0x09) ∧
    (let s := { decked with held := [⟨20, Page.HEADBOX, 0x98, 7⟩] }
     s.access 20 (Page.HEADBOX * 4096 + 0x98) 4 true = .served ∧ wide Page.HEADBOX 0x98 = true ∧
       s.access 20 (Page.HEADBOX * 4096 + 0x9C) 4 true = .served ∧ wide Page.HEADBOX 0x9C = false ∧
       s.heldHalf 20 Page.HEADBOX = some ⟨20, Page.HEADBOX, 0x98, 7⟩) := by decide +kernel

/-- Every register of the control complex that acts when written can be written in the management view. -/
theorem witness_ControlRegisterRows :
    (∀ page ∈ [Page.BEAT, Page.CLKCTL, Page.RSTCTL, Page.CXLP, Page.DECKLE, Page.TILE + 47, Page.PORT + 25], (pageOf page).isSome = true ∧
      writes decked 20 4 page 0x10 = true ∧ writes decked 20 4 page 0x1C = true) ∧
    (∀ reg ∈ [0x808, 0x94, 0xA8, 0x84, 0x8C], writes decked 20 4 Page.RSTCTL reg = true) ∧
    writes decked 20 4 Page.CLKCTL 0x84 = true ∧ writes decked 20 8 Page.CLKCTL 0x90 = true ∧
    writes decked 20 4 Page.CALENDER 0x13C = true ∧ decked.mayLimit 20 15 = true ∧
    (let s := put { decked with sessions := [(1, { Session.reset with opened := true })] }
       [(F.CXLP_SPLIT_split, 1, 0, 0), (linkStateF 1, 2, 0, 0)]
     writes s 1 4 Page.CALENDER 0x100 = true ∧ s.mayLimit 1 0 = false) := by decide +kernel

theorem witness_UnitRegisterRows :
    writes decked 20 8 Page.CXLP 0x98 = true ∧ writes decked 4 8 Page.DECKLE 0xA0 = true ∧
    writes decked 4 8 Page.HEADBOX 0x98 = true ∧ writes decked 4 4 Page.HEADBOX 0xA0 = true ∧
    (∀ reg ∈ [0x80, 0x88, 0xAC], writes decked 20 4 (Page.PORT + 25) reg = true) ∧
    (∀ reg ∈ [0x100, 0x90, 0x84], writes decked 20 4 Page.NVM reg = true) ∧
    decked.flag F.NVM_STATE_busy = false ∧
    (let s := { decked with nvm := { decked.nvm with activity := some 20 } }
     (s.setHeld 20 Page.NVM none).activityStatus 20 = none ∧ writes s 20 4 Page.NVM 0x84 = true) := by decide +kernel

theorem witness_RegisterReadRows :
    (decked.access 20 (Page.HEADBOX * 4096 + 0x98) 4 false = .served ∧ wide Page.HEADBOX 0x98 = true) ∧
    (let s := { decked with latches := [⟨20, Page.HEADBOX, 0x98, 7⟩] }
     s.access 20 (Page.HEADBOX * 4096 + 0x9C) 4 false = .served ∧ s.latch 20 Page.HEADBOX = some ⟨20, Page.HEADBOX, 0x98, 7⟩) ∧
    decked.access 20 3 4 false = .refused 0x0B ∧
    decked.access 20 (Page.RSTCTL * 4096 + 0x848) 8 false = .served ∧ viewDeckle 20 = none ∧
    decked.access 20 (Page.NVM * 4096 + 0x168) 8 false = .served ∧
    decked.access 20 (Page.CALENDER * 4096 + 0x8C) 4 false = .served := by decide +kernel

/-- BEAT_COUNT reads the same in every view; a W1C bit is cleared by a 1 alone (R344). -/
theorem test_event_w1c : let s := (put decked []).raiseIn Page.BEAT 3 20
    (s.reg (bank 20) Page.BEAT 0x18, ((s.regWrite 20 (Page.BEAT * 4096 + 0x18) 4 0x4).2.reg (bank 20) Page.BEAT 0x18),
      ((s.regWrite 20 (Page.BEAT * 4096 + 0x18) 4 0x8).2.reg (bank 20) Page.BEAT 0x18)) = (8, 8, 0) := by decide +kernel

/-! The management port and the control units. -/

def hdr (code : Nat) : DHdr := ⟨1, code, false, false, 0, 0, 5, 0, 8⟩

/-- A message that is accepted, as a check. -/
def msg (s : State) (h : DHdr) : Bool := s.bring.powered && s.answers && s.controlRuns && !s.repeated h && duntusHeadOk h

theorem msg_spec {s : State} {h : DHdr} (e : msg s h = true) : Msg s h h.code := by
  simp only [msg, Bool.and_eq_true, Bool.not_eq_true'] at e
  exact ⟨e.1.1.1.1, e.1.1.1.2, e.1.1.2, e.1.2, e.2, rfl⟩

/-- A module still in BOOT; a repeat, and the numbers on either side of what counts as one, from its sender and from another; a header of
another version, a length that is wrong; no session; no unit that runs. -/
theorem witness_DuntusRefusals :
    up.bring.powered = true ∧ (put up [(F.RSTCTL_BRINGUP_phase, 0, 0, 0)]).answers = false ∧ up.answers = true ∧
    ({ up with mgt := { up.mgt with rxSeq := [(8, some 5)] } } : State).repeated (hdr 4) = true ∧
    ({ up with mgt := { up.mgt with rxSeq := [(9, some 5)] } } : State).repeated (hdr 4) = false ∧
    (∀ q ∈ [4, 5 + 2 ^ 15 + 1], ({ up with mgt := { up.mgt with rxSeq := [(8, some q)] } } : State).repeated (hdr 4) = false) ∧
    (let s := { up with ctl := { up.ctl with halted := [0, 1] } }
     s.answers = true ∧ s.controlRuns = false) ∧ up.controlRuns = true ∧
    duntusHeadOk { hdr 4 with ver := 0 } = false ∧ duntusHeadOk (hdr 4) = true ∧ (hdr 4).len ≠ 1 ∧
    ({ up with sessions := [] } : State).mgtSession = false ∧
    (∀ code ∈ [0x03, 0x10, 0x11, 0x20, 0x31, 0x40, 0x41, 0x42], msg { up with sessions := [] } (hdr code) = true) := by decide +kernel

def smallPlan : Plan := { plan0 with
  endpoints := [1], own0 := 1, own1 := 0xFFFF, ring := [(1, 1)], weights := [64, 64, 64, 64], windowUnits := 1, sources := 0 }

theorem witness_DuntusRows :
    (∀ code ∈ [0x01, 0x02, 0x03, 0x04, 0x05, 0x10, 0x11, 0x20, 0x21, 0x24, 0x30, 0x31, 0x40, 0x41, 0x42], msg up (hdr code) = true) ∧
    up.mgtSession = true ∧
    (∀ n ∈ [1000, 999], let s := { up with
       sessions := [(20, { Session.reset with nonces := [([], 0)], barred := 1000 })], ms := n }
     (s.session 20).opened = false ∧ decide (s.ms < (s.session 20).barred) = (n == 999) ∧ (s.session 20).nonces = [([], 0)] ∧
       s.ms ≤ 0 + 1000) ∧ (up.session 20).opened = true ∧
    ((kept up (hdr 0x10)).regRead 20 (0x10 % 2 ^ 25) 4).1.isLeft = true ∧
    (let m := kept up (hdr 0x30)
     ({ m with mgt := { m.mgt with plan := none } } : State).planStatus smallPlan = 0) ∧
    (let m := kept up (hdr 0x30)
     ({ m with mgt := { m.mgt with plan := none } } : State).planStatus { smallPlan with weights := [] } ≠ 0) ∧
    ({ up with plan := some plan0 } : State).plan = some plan0 ∧ up.tierBarred = false ∧ up.conflict 7 0 = none ∧
    (put up [(F.MGT_OFF_pending, 1, 0, 0)]).flag F.MGT_OFF_pending = true := by decide +kernel

/-- The management session's key. -/
theorem witness_MgtSessionOpens : ({ up with sessions := [(20, { Session.reset with nonces := [([], 0)] })] } : State).sessionKey 20 =
    some Config.transportKey := rfl

/-- A grace period that has run out and one not begun; the slack report one beat early and in time. -/
theorem witness_ManagementPortRows :
    up.bring.powered = true ∧
    (({ up with mgt := { up.mgt with grace := true } } : State).mgt.grace = true ∧ up.flag F.MGT_OFF_ready = false ∧ up.mgt.grace = false ∧
      up.fget F.MGT_OFF_remaining_ms = 0 ∧ up.controlRuns = true) ∧
    (∀ n ∈ [9, 10], let s := put { up with cal := { up.cal with slackAge := n } } [(F.CALENDER_SLACK_CFG_interval, 10, 0, 0)]
     0 < s.fget F.CALENDER_SLACK_CFG_interval ∧ decide (s.fget F.CALENDER_SLACK_CFG_interval ≤ s.cal.slackAge) = (n == 10)) := by
  decide +kernel

/-- Control units A active and B in a state. -/
def units (b : Nat) : State := put up [(F.MGT_CU_active, 0, 0, 0), (unitF 0, cuActive, 0, 0), (unitF 1, b, 0, 0), (F.BEAT_COUNT_count, 7, 0, 0)]
def result (f p : Bool) : BootResult := ⟨f, p, true, true, true, true, true, [], []⟩

theorem witness_ControlUnitRows :
    ((units cuStandby).unit (units cuStandby).standby = cuStandby ∧ (6#64).toNat + 1 = (units cuStandby).beatCount) ∧
    (let s := units cuSync
     s.unit s.standby = cuSync ∧ s.unit s.standby ≠ cuStandby ∧ s.ctl.quiet = [] ∧ s.ctl.halted = [] ∧
       ((s.setUnit s.standby cuStandby).fset F.MGT_CU_couch_ok 1).nvm.phase = .none) ∧
    ({ units cuSync with ctl := { (units cuSync).ctl with live := 0 } } : State).pinUnknown = false ∧
    (let s := { units cuSync with ctl := { (units cuSync).ctl with isle := some (0, 0) } }
     s.ctl.isle = some (0, 0) ∧ s.unit 0 ≠ cuFailed ∧ 0 ≠ s.standby ∧ s.ctl.isle ≠ some (1, 0)) ∧
    (let s := put { State.reset with bring := { Bring.reset with powered := true } } [(F.RSTCTL_BRINGUP_phase, 0, 0, 0)]
     s.inFirstBoot 0 = true ∧ s.unit 0 ≠ cuFailed ∧ (result false true).factoryOk = false ∧ (result true false).pufOk = false) ∧
    ((units cuBoot).inFirstBoot 1 = false ∧ (units cuBoot).unit 1 = cuBoot) ∧
    up.nvm.op = none ∧
    (let op : NvmOp := ⟨9, 0, 0, [], 0⟩
     ({ up with nvm := { up.nvm with op := some op } } : State).nvm.op = some op ∧ op.code ≠ 1 ∧ op.code ≠ 2 ∧ op.code < 10) ∧
    (let s := { units cuSync with nvm := { up.nvm with phase := .second, unitA := 1 } }
     s.nvm.phase = .second ∧ s.nvm.wait = 0 ∧ s.unit s.standby ≠ cuUpdating ∧ s.unitRegion s.standby ≠ s.unitRegion s.active) ∧
    ({ up with nvm := { up.nvm with phase := .first } } : State).nvm.phase = .first ∧ up.nvm.phase ≠ .first := by decide +kernel

/-! Memory, frames and the rules of bits. -/

/-- A step answers a next state from reset and from a module at work, and stops for a unit that is not there. -/
theorem witness_StepKeepsInvariant : ({ decked with pending := [.alignTimeout] } : State).pending = [.alignTimeout] ∧
    (match step { decked with pending := [.energyBucketClose 5] } with | .next t => t.ms | _ => 0) = 1 ∧
    (match step { State.reset with pending := [.seqAdd 12288] } with | .fault _ => true | _ => false) = true := by decide +kernel

theorem witness_InFlightLimit : ∀ n ∈ [0, 4095, 4096], ∀ st ∈ [false, true],
    let s := { ring { q16 with passed := 17, stalled := st } with cmds := List.replicate n (cmdOf 0 0x04 []) }
    s.doorbellOk 0 0 = true ∧ (s.nextFetch.map fun t => (t.1, t.2.1)) = some (0, 0) ∧ s.fetchable 0 0 = true ∧
      (s.queue 0 0).stalled = st ∧
      (n = 0 ∨ (s.cmds.headD (cmdOf 0 0 [])) = cmdOf 0 0x04 []) := by decide +kernel

/-- A whole stack and a half stack; the last address, the last granule; a write that ends at the last byte, a unit it covers, one it
does not, and a poisoned one. -/
theorem witness_LocalAddressMap_HomeWrites :
    (∀ half ∈ [false, true], let s : State := { decked with deckles := [(0, { Deckle.reset with half := half })] }
     s.entries 0 ≠ [] ∧ (s.localSize 0 - 4096) / 4096 * 4096 < s.localSize 0 ∧ s.localSize 0 - 4096 + 4096 ≤ s.localSize 0) ∧
    (let s : State := { decked with poison := [(decked.localKey 0 64 / 64, true)] }
     64 + 64 ≤ s.localSize 0 ∧ (s.localWrite 0 0 (List.replicate 64 1)).isPoisoned 0 (64 * 1) = true) := by decide +kernel

/-- Two deckles on different stacks. -/
theorem witness_DeckleIsolation : let s := put decked [(F.DECKLE_STATE_state, 2, 0, ofDeckle 1), (F.DECKLE_RES_hbm, 0xC, 0, ofDeckle 1)]
    (∀ k, k < 24 → s.ownsHalf 0 (k / 2) (k % 2) = true → s.ownsHalf 1 (k / 2) (k % 2) = false) ∧
    (∀ x, x = 0 ∨ x = 1 → (s.deckle x).half = false → ∀ i, i < 12 → s.ownsHalf x i 0 = s.ownsHalf x i 1) ∧
    96 * 2 ^ 30 - 1 < s.localSize 1 := by
  refine ⟨by decide +kernel, ?_, by decide +kernel⟩
  rintro x (rfl | rfl) _ <;> decide +kernel

/-- SequencerFrame, StoreFrame, ReadFrame: rows of the frames answer a next state: a store, a load, a read that changes the machine. -/
theorem witness_Frames :
    (match exec (.sts 0 .ok) (onTile { tile0 [0x00000000_000C2131#64] with g := [(1, 8)] }) with
      | .next t => t.spadRead 0 8 2 | _ => []) = [8, 0] ∧
    (match exec (.lds 0 .ok) ((onTile (tile0 [0x00000008_00040230#64])).spadWrite 0 8 [0xFF, 0xFF]) with
      | .next t => (t.tile 0).gr 2 | _ => 0) = 0xFFFF ∧
    (match exec (.calenderPeakRead 20 (Page.CALENDER * 4096 + 0x8C) 4 false) decked with | .next t => t.out.length | _ => 0) = 1 := by
  decide +kernel

/-- A counter at its maximum stays there and shows ovf (R55). -/
theorem test_counter_saturates :
    ((decked.setReg 0 Page.BEAT C.BEAT_LATE_CNT.off (2 ^ 48 - 1)).bump C.BEAT_LATE_CNT).reg 0 Page.BEAT C.BEAT_LATE_CNT.off =
      2 ^ 63 + (2 ^ 48 - 1) := by decide +kernel

theorem witness_LockRules : ((decked.takeLock 7 0 (3, 0) 0).conflict 1 0).isSome = true ∧ (decked.conflict 8 0).isNone = true := by
  decide +kernel

/-- R297, R298: a tree packet of a step reaches a member whose context is being torn down with its generation dead: one ABORT goes to
every other member (MEMBER_FENCED, this member's rank), and none for the next packet of the same step. -/
theorem test_fenced_member_aborts_once :
    let p : Pkt := { Pkt.blank 0 0xFFFF opColl with seq := 9, tag := 0x02 + 7 * 2 ^ 8, aux := 1 + 3 * 2 ^ 8 }
    let s := decked.setCtx 0 { Ctx.reset with
      gen := 1, st := .teardown, revoked := true, groups := [⟨3, 0, [(1, 0xFFFF, 0x400, 0), (2, 0xFFFF, 0x400, 7)], 0⟩] }
    let sent (t : State) := (t.router 0).inject.map fun q => (q.dst, q.tag % 2 ^ 8, q.seq, q.payload)
    sent (s.collPlace 0 p) = [(2, 9, 9, [5, 0])] ∧ sent ((s.collPlace 0 p).collPlace 0 p) = [(2, 9, 9, [5, 0])] := by
  decide +kernel

theorem witness_StepTakesFront_StepTakesOneCommand : (({ State.reset with pending := [.beatBoundary []] } : State).pending = [.beatBoundary []]) ∧
    State.reset.pending = [] := by decide +kernel

theorem witness_RegisterBitRules : 63 < 64 ∧ Page.BEAT < 8192 ∧ 31 < 32 ∧ C.BEAT_LATE_CNT.page + 0 < 8192 ∧
    0x80 ≤ C.BEAT_LATE_CNT.off ∧ C.BEAT_LATE_CNT.off < 4096 := by decide +kernel
end Sys2Proof.Tests
end

namespace Sys2Proof.Machine

/-! Rows that read registers: each is one read in its view. -/

section
variable {s : State} {view off bytes : Nat}

theorem readRow_answers {cond : Bool} (hok : s.viewOk view = true) (hup : s.viewUp view = true) (hc : cond = true) :
    readRow view off bytes cond s = .next (s.answerRead view off bytes) := by
  simp [readRow, guardUnit, hok, hup, hc]

theorem exec_splitLowRead (hok : s.viewOk view = true) (hup : s.viewUp view = true)
    (hw : wide (off / 4096) (off % 4096) = true) :
    exec (.splitLowRead view off 4) s = .next (s.answerRead view off 4) :=
  readRow_answers hok hup (by simp [hw])

theorem exec_splitHighRead (hok : s.viewOk view = true) (hup : s.viewUp view = true) (ho : off % 8 = 4)
    (hw : wide (off / 4096) (off % 4096 - 4) = true) :
    exec (.splitHighRead view off 4) s = .next (s.answerRead view off 4) :=
  readRow_answers hok hup (by simp [ho, hw])

theorem exec_registerReadRefused {e : Nat} (hok : s.viewOk view = true) (hup : s.viewUp view = true)
    (h : s.access view off bytes false = .refused e) :
    exec (.registerReadRefused view off bytes) s = .next (s.answerRead view off bytes) :=
  readRow_answers hok hup (by rw [h])

theorem exec_dumpDataRead (hok : s.viewOk view = true) (hup : s.viewUp view = true)
    (hc : covers off bytes Page.RSTCTL 0x848 = true) :
    exec (.dumpDataRead view off bytes) s = .next (s.answerRead view off bytes) :=
  readRow_answers hok hup hc

theorem exec_rptDataRead (hok : s.viewOk view = true) (hup : s.viewUp view = true)
    (hc : covers off bytes Page.NVM 0x168 = true) :
    exec (.rptDataRead view off bytes) s = .next (s.answerRead view off bytes) :=
  readRow_answers hok hup hc

theorem exec_calenderPeakRead {same : Bool} (hok : s.viewOk view = true) (hup : s.viewUp view = true)
    (hc : covers off bytes Page.CALENDER 0x8C = true) (hs : s.access view off bytes false = .served) :
    exec (.calenderPeakRead view off bytes same) s = .next ((s.answerRead view off bytes).when same
      fun t => t.fset F.CALENDER_PEAK_peak_w (min 0xFFFF (s.cal.buckets.headD 0))) := by
  change execCalenderPeakRead view off bytes same s = _
  simp [execCalenderPeakRead, guardUnit, hok, hup, hc, hs]

theorem State.answerRead_of_served {t : State} {v : Nat} (hs : s.access view off bytes false = .served)
    (hr : s.readAt view (off / 4096) (off % 4096) bytes = (v, t)) :
    s.answerRead view off bytes = t.emit (.regData view off (BitVec.ofNat 64 v)) := by
  simp only [State.answerRead, State.regRead, hs, hr]

theorem State.answerRead_of_refused {e : Nat} (h : s.access view off bytes false = .refused e) :
    s.answerRead view off bytes = (s.refuse view off bytes false e).emit (.regAbort view off e) := by
  simp only [State.answerRead, State.regRead, h]

end

/-! What a served read answers and leaves, by where 64-bit registers start (R349). -/

section
variable {s : State} {view page off : Nat}

theorem State.readAt_low_half (hw : wide page off = true) :
    s.readAt view page off 4 = (s.readReg view page off % 2 ^ 32,
      (s.readEffect view page off).setLatch view page (some ⟨view, page, off, s.readReg view page off / 2 ^ 32⟩)) := by
  simp [State.readAt, hw]

theorem State.readAt_held_half {h : Half} (hn : wide page off = false) (hw : wide page (off - 4) = true) (ho : off % 8 = 4)
    (hl : s.latch view page = some h) (hh : h.off = off - 4) :
    s.readAt view page off 4 = (h.val, s.setLatch view page none) := by
  simp [State.readAt, hn, hw, ho, hl, hh]

theorem State.readAt_whole (hw : wide page off = true) :
    s.readAt view page off 8 = (s.readReg view page off, s.readEffect view page off) := by
  simp [State.readAt, State.peek8, State.when, hw]

theorem State.readAt_narrow (hn : wide page off = false) (hw : wide page (off - 4) = false) :
    s.readAt view page off 4 = (s.readReg view page off % 2 ^ 32, s.readEffect view page off) := by
  simp [State.readAt, State.peek4, hn, hw]

end

/-! The three registers that change as they are read (R401, R428, R476). -/

theorem State.readReg_of_moduleValue {s : State} {view page off v : Nat} (hpage : (pageOf page).isSome = true)
    (hoff : 0x80 ≤ off) (hcnt : counterAt page off = none) (hval : s.moduleValue view page off = some v) :
    s.readReg view page off = v := by
  have hnot : (pageOf page).isNone = false := by simpa using hpage
  have hhead : ¬ off < 0x40 := by omega
  have hbody : ¬ off < 0x80 := by omega
  simp [State.readReg, hnot, hhead, hbody, hcnt, hval]

theorem State.readReg_dumpData (s : State) {view : Nat} (hv : viewDeckle view = none) :
    s.readReg view Page.RSTCTL 0x848 = wordOf s.rst.dump (s.fget F.RSTCTL_DUMP_IDX_word 0 (bank view)) := by
  apply State.readReg_of_moduleValue (by decide) (by decide) (by decide)
  simp [State.moduleValue, Page.RSTCTL, Page.MOD, Page.BEAT, Page.CALENDER, hv]

theorem State.readReg_rptData (s : State) (view : Nat) :
    s.readReg view Page.NVM 0x168 = wordOf s.nvm.report (s.fget F.NVM_RPT_IDX_word 0 (bank view)) := by
  apply State.readReg_of_moduleValue (by decide) (by decide) (by decide)
  simp [State.moduleValue, Page.RSTCTL, Page.MOD, Page.BEAT, Page.CALENDER, Page.MGT, Page.NVM]

theorem State.readEffect_dumpData (s : State) {view : Nat} (hv : viewDeckle view = none) :
    s.readEffect view Page.RSTCTL 0x848 =
      s.fset F.RSTCTL_DUMP_IDX_word (s.fget F.RSTCTL_DUMP_IDX_word 0 (bank view) + 1) 0 (bank view) := by
  simp [State.readEffect, Page.RSTCTL, Page.CALENDER, hv]

theorem State.readEffect_rptData (s : State) (view : Nat) :
    s.readEffect view Page.NVM 0x168 =
      s.fset F.NVM_RPT_IDX_word (s.fget F.NVM_RPT_IDX_word 0 (bank view) + 1) 0 (bank view) := by
  simp [State.readEffect, Page.RSTCTL, Page.CALENDER, Page.NVM]

theorem State.readAt_dumpData (s : State) {view : Nat} (hv : viewDeckle view = none) :
    s.readAt view Page.RSTCTL 0x848 8 =
      (wordOf s.rst.dump (s.fget F.RSTCTL_DUMP_IDX_word 0 (bank view)),
        s.fset F.RSTCTL_DUMP_IDX_word (s.fget F.RSTCTL_DUMP_IDX_word 0 (bank view) + 1) 0 (bank view)) := by
  rw [State.readAt_whole (by decide), s.readReg_dumpData hv, s.readEffect_dumpData hv]

theorem State.readAt_rptData (s : State) (view : Nat) :
    s.readAt view Page.NVM 0x168 8 =
      (wordOf s.nvm.report (s.fget F.NVM_RPT_IDX_word 0 (bank view)),
        s.fset F.NVM_RPT_IDX_word (s.fget F.NVM_RPT_IDX_word 0 (bank view) + 1) 0 (bank view)) := by
  rw [State.readAt_whole (by decide), s.readReg_rptData, s.readEffect_rptData]

theorem State.readAt_calenderPeak (s : State) (view : Nat) :
    s.readAt view Page.CALENDER 0x8C 4 =
      (s.readReg view Page.CALENDER 0x8C % 2 ^ 32, s.fset F.CALENDER_PEAK_peak_w 0) := by
  have heffect : s.readEffect view Page.CALENDER 0x8C = s.fset F.CALENDER_PEAK_peak_w 0 := by simp [State.readEffect]
  rw [State.readAt_narrow (by decide) (by decide), heffect]

/-- Settles O44: each row is one read in its view, and what a served read answers and leaves turns on whether a 64-bit register
starts at its offset. -/
theorem registerReadRows : Obligations.RegisterReadRows := by
  intro s view off hok hup
  refine ⟨?low, ?high, ?refused, ?dump, ?report, ?peak⟩
  case low =>
    intro hs hw
    rw [exec_splitLowRead hok hup hw, State.answerRead_of_served hs (State.readAt_low_half hw)]
  case high =>
    intro h hs ho hw hn hl hh
    rw [exec_splitHighRead hok hup (by omega) hw, State.answerRead_of_served hs (State.readAt_held_half hn hw ho hl hh)]
  case refused =>
    intro bytes e h
    rw [exec_registerReadRefused hok hup h, State.answerRead_of_refused h]
  case dump =>
    rintro rfl hs hv
    rw [exec_dumpDataRead hok hup (by decide), State.answerRead_of_served hs (s.readAt_dumpData hv)]
  case report =>
    rintro rfl hs
    rw [exec_rptDataRead hok hup (by decide), State.answerRead_of_served hs (s.readAt_rptData view)]
  case peak =>
    rintro rfl hs
    have hv : s.readReg view Page.CALENDER 0x8C % 2 ^ 32 < 2 ^ 64 := by omega
    refine ⟨BitVec.ofNat 64 (s.readReg view Page.CALENDER 0x8C % 2 ^ 32), Nat.mod_eq_of_lt hv, ?_, ?_⟩
    all_goals
      rw [exec_calenderPeakRead hok hup (by decide) hs, State.answerRead_of_served hs (s.readAt_calenderPeak view)]
      rfl

/-! Bits of a number: taking a mask out of it, putting disjoint bits into it. -/

theorem add_eq_or_of_and_eq_zero {a b : Nat} (h : a &&& b = 0) : a + b = a ||| b := by
  have hsum : a + b < 2 ^ (a + b) := Nat.lt_two_pow_self
  have hdisj : BitVec.ofNat (a + b) a &&& BitVec.ofNat (a + b) b = 0#(a + b) := by rw [← BitVec.ofNat_and, h]
  have hor := congrArg BitVec.toNat (BitVec.add_eq_or_of_and_eq_zero _ _ hdisj)
  rwa [← BitVec.ofNat_add, ← BitVec.ofNat_or, BitVec.toNat_ofNat, BitVec.toNat_ofNat, Nat.mod_eq_of_lt hsum,
    Nat.mod_eq_of_lt (Nat.or_lt_two_pow (by omega) (by omega))] at hor

theorem ldiff_and_and_eq_zero (x y m : Nat) : x.ldiff m &&& (y &&& m) = 0 := by
  apply Nat.eq_of_testBit_eq
  intro i
  cases h : m.testBit i <;> simp [Nat.testBit_ldiff, h]

theorem sub_and_eq_ldiff (x m : Nat) : x - (x &&& m) = x.ldiff m := by
  have hx : x.ldiff m + (x &&& m) = x := by
    rw [add_eq_or_of_and_eq_zero (ldiff_and_and_eq_zero x x m)]
    apply Nat.eq_of_testBit_eq
    intro i
    cases h : m.testBit i <;> simp [Nat.testBit_ldiff, h]
  omega

/-- A masked replacement of bits (R11): the bits of `m` from `v`, the others from `x`. -/
theorem testBit_sub_and_add_and (x v m i : Nat) :
    (x - (x &&& m) + (v &&& m)).testBit i = if m.testBit i then v.testBit i else x.testBit i := by
  rw [sub_and_eq_ldiff, add_eq_or_of_and_eq_zero (ldiff_and_and_eq_zero x v m)]
  cases h : m.testBit i <;> simp [Nat.testBit_ldiff, h]

theorem testBit_mergeWrite (r : RegSpec) (old mask v i : Nat) :
    (mergeWrite r old mask v).testBit i =
      ((if r.rw.testBit i && mask.testBit i then v.testBit i else old.testBit i) &&
        !(r.w1c.testBit i && mask.testBit i && v.testBit i)) := by
  simp only [mergeWrite, sub_and_eq_ldiff _ (_ &&& _ &&& v), Nat.testBit_ldiff, testBit_sub_and_add_and, Nat.testBit_and]

/-! Registers. -/

theorem State.reg_lt (s : State) (sel page off : Nat) : s.reg sel page off < 2 ^ 64 := BitVec.isLt _

@[simp] theorem State.reg_emit (s : State) (o : Out) (sel page off : Nat) : (s.emit o).reg sel page off = s.reg sel page off := rfl

@[simp] theorem State.reg_duntusEvent (s : State) (code : Nat) (body : List Byte) (sel page off : Nat) :
    (s.duntusEvent code body).reg sel page off = s.reg sel page off := by
  unfold State.duntusEvent
  split <;> rfl

@[simp] theorem State.reg_notify (s : State) (p view sel page off : Nat) :
    (s.notify p view).reg sel page off = s.reg sel page off := by
  unfold State.notify
  split <;> simp

theorem State.writeHeader_event (s : State) (view page v : Nat) :
    s.writeHeader view page 0x18 v =
      s.setReg (bank view) page 0x18 ((s.reg (bank view) page 0x18).ldiff v) := by
  simp [State.writeHeader, sub_and_eq_ldiff]

/-! Events (R344). -/

theorem State.reg_raiseIn (s : State) (p bit view sel page off : Nat) :
    (s.raiseIn p bit view).reg sel page off =
      (s.setReg (bank view) p 0x18 (s.reg (bank view) p 0x18 ||| 2 ^ bit)).reg sel page off := by
  unfold State.raiseIn
  dsimp only
  split <;> simp

theorem State.reg_raiseIn_event (s : State) (page view : Nat) {bit : Nat} (hb : bit < 64) :
    (s.raiseIn page bit view).reg (bank view) page 0x18 = s.reg (bank view) page 0x18 ||| 2 ^ bit := by
  rw [State.reg_raiseIn, State.reg_setReg_same, Nat.mod_eq_of_lt]
  exact Nat.or_lt_two_pow (s.reg_lt _ _ _) (Nat.pow_lt_pow_right (by decide) hb)

theorem State.reg_raiseIn_other (s : State) {p bit view sel page off : Nat} (hp : p < 8192) (hpage : page < 8192)
    (hoff : off < 4096) (h : (sel, page, off) ≠ (bank view, p, 0x18)) :
    (s.raiseIn p bit view).reg sel page off = s.reg sel page off := by
  rw [State.reg_raiseIn, State.reg_setReg_other _ _ hp (by decide) hpage hoff h]

/-- A bit put into EVENT makes it meet EVENT_EN, which it did not meet, exactly if EVENT_EN holds the bit. -/
theorem or_two_pow_and_ne_zero_iff {ev en bit : Nat} (h : ev &&& en = 0) :
    (ev ||| 2 ^ bit) &&& en ≠ 0 ↔ en.testBit bit = true := by
  rw [Nat.and_or_distrib_right, h, Nat.zero_or, Nat.two_pow_and]
  cases en.testBit bit <;> simp

theorem State.raiseIn_out (s : State) (page bit : Nat) {view : Nat} (hv : view ≠ 20) :
    (s.raiseIn page bit view).out =
      if s.reg (bank view) page 0x18 &&& s.reg (bank view) page 0x1C = 0 ∧ (s.reg (bank view) page 0x1C).testBit bit = true ∧
          (s.reg (bank view) page 0x10).testBit 0 = true
      then s.out ++ [.msix view 0] else s.out := by
  unfold State.raiseIn State.notify State.emit
  by_cases h : s.reg (bank view) page 0x18 &&& s.reg (bank view) page 0x1C = 0
  · simp only [h, hv, ← or_two_pow_and_ne_zero_iff h]
    simp [apply_ite State.out]
  · simp [h]

theorem State.reg_raiseBit (s : State) {p sel page off : Nat} (bit : Nat) (att : List Nat) (hp : p < 8192) (hpage : page < 8192)
    (hoff : off < 4096) (h : off ≠ 0x18) : (s.raiseBit p bit att).reg sel page off = s.reg sel page off := by
  unfold State.raiseBit
  generalize s.viewsFor p att = views
  induction views generalizing s with
  | nil => rfl
  | cons v r ih =>
    rw [List.foldl_cons, ih, State.reg_raiseIn_other s hp hpage hoff (by simp [h])]

/-! Counters (R55). -/

section
variable (s : State) (c : Cnt) {n inst : Nat}

theorem State.reg_bumpBy_below (h : s.count c inst + n < 2 ^ 48 - 1) :
    (s.bumpBy c n inst).reg 0 (c.page + inst) c.off = s.reg 0 (c.page + inst) c.off + n := by
  unfold State.count at h
  unfold State.bumpBy
  have hlt := s.reg_lt 0 (c.page + inst) c.off
  rcases Nat.eq_zero_or_pos n with rfl | hn
  · simp
  · rw [if_neg (by omega), if_pos h, State.reg_setReg_same]
    omega

theorem State.reg_bumpBy_top (hp : c.page + inst < 8192) (ho : 0x18 < c.off) (ho' : c.off < 4096) (hn : n ≠ 0)
    (h : 2 ^ 48 - 1 ≤ s.count c inst + n) :
    (s.bumpBy c n inst).reg 0 (c.page + inst) c.off = 2 ^ 63 + (2 ^ 48 - 1) := by
  unfold State.count at h
  unfold State.bumpBy
  rw [if_neg hn, if_neg (by omega)]
  dsimp only
  split
  · exact State.reg_setReg_same ..
  · rw [State.reg_raiseBit _ _ _ hp hp ho' (by omega)]
    exact State.reg_setReg_same ..

theorem State.count_bumpBy (hp : c.page + inst < 8192) (ho : 0x18 < c.off) (ho' : c.off < 4096) :
    (s.bumpBy c n inst).count c inst = min (s.count c inst + n) (2 ^ 48 - 1) := by
  rcases Nat.lt_or_ge (s.count c inst + n) (2 ^ 48 - 1) with h | h
  · have hreg := s.reg_bumpBy_below c h
    unfold State.count at h ⊢
    omega
  · rcases Nat.eq_zero_or_pos n with rfl | hn
    · unfold State.bumpBy State.count at *
      rw [if_pos rfl]
      omega
    · have hreg := s.reg_bumpBy_top c hp ho ho' (by omega) h
      unfold State.count at h ⊢
      omega

end

/-- Settles O59: a masked write puts disjoint bits together, an event writes EVENT of its one view, and the overflow event of a
counter writes no counter. -/
theorem registerBitRules : Obligations.RegisterBitRules := by
  refine ⟨testBit_mergeWrite, ?event, ?raise, ?counter⟩
  case event =>
    intro s view page v i hi
    rw [State.writeHeader_event, State.reg_setReg_same, Nat.testBit_mod_two_pow, Nat.testBit_ldiff, decide_eq_true hi,
      Bool.true_and]
  case raise =>
    intro s page bit view hp hb
    exact ⟨s.reg_raiseIn_event page view (by omega), fun _ _ _ hpage hoff h => s.reg_raiseIn_other hp hpage hoff h,
      s.raiseIn_out page bit⟩
  case counter =>
    intro s c n inst hp ho ho'
    refine ⟨s.count_bumpBy c hp (by omega) ho', fun hn h => ?_, fun h => ?_⟩
    · rw [s.reg_bumpBy_top c hp (by omega) ho' hn h]
      decide
    · rw [s.reg_bumpBy_below c h]
      unfold State.count at h
      omega

end Sys2Proof.Machine

namespace Sys2Proof.Machine

/-! Bit fields: what reading a field gives after a field of the same word is written (R11). -/

theorem bits_eq_of_mod_eq {a b lo w : Nat} (h : a % 2 ^ (lo + w) = b % 2 ^ (lo + w)) : bits a lo w = bits b lo w := by
  unfold bits
  rw [← Nat.mod_mul_right_div_self, ← Nat.mod_mul_right_div_self, ← Nat.pow_add, h]

theorem bits_mod_two_pow {lo w n : Nat} (v : Nat) (h : lo + w ≤ n) : bits (v % 2 ^ n) lo w = bits v lo w :=
  bits_eq_of_mod_eq (Nat.mod_mod_of_dvd v (Nat.pow_dvd_pow 2 h))

theorem bits_setBits_same (v lo w x : Nat) : bits (setBits v lo w x) lo w = x % 2 ^ w := by
  have hfield : v / 2 ^ lo - v / 2 ^ lo % 2 ^ w = 2 ^ w * (v / 2 ^ lo / 2 ^ w) := by
    have := Nat.div_add_mod (v / 2 ^ lo) (2 ^ w)
    omega
  simp only [bits, setBits]
  rw [Nat.add_mul_div_right _ _ (Nat.two_pow_pos lo), Nat.mul_comm _ (2 ^ lo), Nat.sub_mul_div, hfield,
    Nat.mul_add_mod, Nat.mod_mod]

theorem bits_setBits_above {lo w lo' : Nat} (v w' x : Nat) (h : lo + w ≤ lo') :
    bits (setBits v lo' w' x) lo w = bits v lo w := by
  obtain ⟨k, rfl⟩ := Nat.exists_eq_add_of_le h
  apply bits_eq_of_mod_eq
  have hcleared := Nat.sub_add_cancel (bits_le v (lo + w + k) w')
  calc setBits v (lo + w + k) w' x % 2 ^ (lo + w)
      = (v - bits v (lo + w + k) w' * 2 ^ (lo + w + k)) % 2 ^ (lo + w) := by
        rw [setBits, Nat.pow_add 2 (lo + w) k, Nat.mul_left_comm (x % _), Nat.add_mul_mod_self_left]
    _ = v % 2 ^ (lo + w) := by
        conv_rhs => rw [← hcleared, Nat.pow_add 2 (lo + w) k, Nat.mul_left_comm, Nat.add_mul_mod_self_left]
        rw [Nat.pow_add 2 (lo + w) k, Nat.mul_left_comm]

/-! Fields of registers, and the registers a counter leaves. -/

theorem State.fget_of_regs_eq {s t : State} (h : t.regs = s.regs) (f : Fld) (inst sel : Nat) :
    t.fget f inst sel = s.fget f inst sel := by
  simp only [State.fget, State.reg, h]

theorem State.fget_fset_same (s : State) {f : Fld} (v inst sel : Nat) (h : f.lo + f.w ≤ 64) :
    (s.fset f v inst sel).fget f inst sel = v % 2 ^ f.w := by
  unfold State.fget State.fset
  rw [State.reg_setReg_same, bits_mod_two_pow _ h, bits_setBits_same]

/-- A field is left by a write to a field above it in its register. -/
theorem State.fget_fset_above (s : State) {f g : Fld} (v inst sel : Nat) (hpage : g.page = f.page) (hoff : g.off = f.off)
    (h : f.lo + f.w ≤ g.lo) (h64 : f.lo + f.w ≤ 64) : (s.fset g v inst sel).fget f inst sel = s.fget f inst sel := by
  unfold State.fget State.fset
  rw [hpage, hoff, State.reg_setReg_same, bits_mod_two_pow _ h64, bits_setBits_above _ _ _ h]

theorem State.fget_fset_other (s : State) {f g : Fld} {inst inst' sel sel' : Nat} (v : Nat) (hg : g.page + inst' < 8192)
    (hgo : g.off < 4096) (hf : f.page + inst < 8192) (hfo : f.off < 4096)
    (h : (sel, f.page + inst, f.off) ≠ (sel', g.page + inst', g.off)) :
    (s.fset g v inst' sel').fget f inst sel = s.fget f inst sel := by
  unfold State.fget State.fset
  rw [State.reg_setReg_other s _ hg hgo hf hfo h]

theorem State.reg_bumpBy_other (s : State) {c : Cnt} {inst sel page off : Nat} (n : Nat) (hc : c.page + inst < 8192)
    (hco : c.off < 4096) (hpage : page < 8192) (hoff : off < 4096) (hevent : off ≠ 0x18)
    (h : (sel, page, off) ≠ (0, c.page + inst, c.off)) : (s.bumpBy c n inst).reg sel page off = s.reg sel page off := by
  have hwrite (v : Nat) : (s.setReg 0 (c.page + inst) c.off v).reg sel page off = s.reg sel page off :=
    State.reg_setReg_other s v hc hco hpage hoff h
  unfold State.bumpBy
  dsimp only
  split
  · rfl
  · split
    · exact hwrite _
    · split
      · exact hwrite _
      · rw [State.reg_raiseBit _ _ _ hc hpage hoff hevent, hwrite]

/-! The boundary (R22, R28). -/

theorem State.regs_nextBeat (s : State) :
    s.nextBeat.regs = (s.fset F.BEAT_COUNT_count ((s.beatCount + s.beat.advance) % 2 ^ 64)).regs := by
  simp only [State.nextBeat]

theorem State.beatCount_nextBeat (s : State) : s.nextBeat.beatCount = (s.beatCount + s.beat.advance) % 2 ^ 64 := by
  unfold State.beatCount
  rw [State.fget_of_regs_eq s.regs_nextBeat, State.fget_fset_same _ _ _ _ (by decide)]
  exact Nat.mod_mod _ _

theorem execBeatBoundary_eq {s : State} (silent : List Nat) (hp : s.bring.powered = true) (hr : s.rst.refLost = false) :
    execBeatBoundary silent s =
      let s1 := (s.each s.ctxList fun s c => s.endBeatOf c).nextBeat
      let s2 := s1.throttleAll.publishAll.placeStep.controlStep.backlog.powerStep.openBeat
      .next ((s2.beatUnits silent).agePass.tryPoweroff) := by
  simp [execBeatBoundary, guardUnit, hp, hr]

/-! Alignment (R33-R35): what an accepted marker shows, and what its error then does. -/

theorem inPhase_iff {err : Int} : inPhase err = true ↔ -8 ≤ err ∧ err ≤ 8 := decide_eq_true_iff

theorem inPhase_eq_false_iff {err : Int} : inPhase err = false ↔ err < -8 ∨ 8 < err := by
  rw [← Bool.not_eq_true, inPhase_iff]
  omega

theorem Shows.beat {s t : State} (h : Shows s t) : t.beat = s.beat := by obtain ⟨_, _, _, _, rfl⟩ := h; rfl

/-- The hops that a port's last marker gave. -/
def State.noteHops (s : State) (port hops : Nat) : State :=
  { s with beat := { s.beat with hops := s.beat.hops.set (fun _ => none) port (some hops) } }

/-- Markers accepted in a row from one source, counting this one of `port`. -/
def State.inRow (s : State) (port : Nat) : Nat :=
  if s.beat.accepted = 0 ∨ s.fget F.BEAT_ALIGN_port ≠ port then 1 else s.beat.accepted + 1

/-- An accepted marker is noted for the timeouts and for relaying. -/
def State.noteAccepted (s : State) (port : Nat) : State :=
  { s with beat := { s.beat with accepted := s.inRow port, since := 0, raised := false, relay := true } }

/-- The error and the source of an accepted marker are shown. -/
def State.showMarker (s : State) (port hops : Nat) (err : Int) : State :=
  (((s.noteAccepted port).fset F.BEAT_PHASE_last_err (err % 2 ^ 16).toNat).fset F.BEAT_ALIGN_hops hops).fset
    F.BEAT_ALIGN_port port

/-- An accepted marker that is out of phase is also counted. -/
def State.weighMarker (s : State) (port hops : Nat) (err : Int) : State :=
  (s.showMarker port hops err).when (!inPhase err) (·.bump C.BEAT_MARKER_ERR_CNT)

/-- A locked module that is found out of phase enters HOLDOVER. -/
def State.loseLock (s : State) : State := if s.fget F.BEAT_ALIGN_state = 3 then s.holdover else s

/-- A marker of this port may act on the state machine: it is the second in a row where the module seeks. -/
def State.mayLock (s : State) (port : Nat) : Prop := s.fget F.BEAT_ALIGN_state ≠ 2 ∨ 2 ≤ s.inRow port

section
variable {s : State} {port hops arrival : Nat} {m : Marker} {err : Int}

theorem State.align_state_bump : (s.bump C.BEAT_MARKER_ERR_CNT).fget F.BEAT_ALIGN_state = s.fget F.BEAT_ALIGN_state := by
  unfold State.fget State.bump
  rw [State.reg_bumpBy_other _ _ (by decide) (by decide) (by decide) (by decide) (by decide) (by decide)]

theorem State.align_state_showMarker :
    (s.showMarker port hops err).fget F.BEAT_ALIGN_state = s.fget F.BEAT_ALIGN_state := by
  unfold State.showMarker
  rw [State.fget_fset_above _ _ _ _ (by decide) (by decide) (by decide) (by decide),
    State.fget_fset_above _ _ _ _ (by decide) (by decide) (by decide) (by decide),
    State.fget_fset_other _ _ (by decide) (by decide) (by decide) (by decide) (by decide)]
  exact State.fget_of_regs_eq rfl ..

theorem State.accepted_showMarker : (s.showMarker port hops err).beat.accepted = s.inRow port := by
  simp [State.showMarker, State.noteAccepted]

theorem State.weighMarker_inPhase (he : inPhase err = true) : s.weighMarker port hops err = s.showMarker port hops err := by
  simp [State.weighMarker, State.when, he]

theorem State.weighMarker_outOfPhase (he : inPhase err = false) :
    s.weighMarker port hops err = (s.showMarker port hops err).bump C.BEAT_MARKER_ERR_CNT := by
  simp [State.weighMarker, State.when, he]

theorem State.align_state_weighMarker :
    (s.weighMarker port hops err).fget F.BEAT_ALIGN_state = s.fget F.BEAT_ALIGN_state := by
  cases he : inPhase err with
  | true => rw [State.weighMarker_inPhase he, State.align_state_showMarker]
  | false => rw [State.weighMarker_outOfPhase he, State.align_state_bump, State.align_state_showMarker]

theorem State.accepted_weighMarker : (s.weighMarker port hops err).beat.accepted = s.inRow port := by
  have hbeat : (s.weighMarker port hops err).beat = (s.showMarker port hops err).beat :=
    Shows.beat (Shows.ite (State.bump_shows ..) (Shows.refl _))
  rw [hbeat, State.accepted_showMarker]

/-! The state machine of R35 on a state that shows the marker. -/

theorem State.aligned_of_first (hst : s.fget F.BEAT_ALIGN_state = 2) (hn : s.beat.accepted < 2) :
    s.aligned port m arrival err = s := by
  simp [State.aligned, hst, hn]

theorem State.aligned_of_inPhase (hn : s.fget F.BEAT_ALIGN_state ≠ 2 ∨ 2 ≤ s.beat.accepted) (he : inPhase err = true) :
    s.aligned port m arrival err = s.fset F.BEAT_ALIGN_state 3 := by
  have hgo : ¬ (s.fget F.BEAT_ALIGN_state = 2 ∧ s.beat.accepted < 2) := by omega
  simp only [State.aligned, if_neg hgo, he, if_true, State.alignTo]

theorem State.aligned_of_outOfPhase (hn : s.fget F.BEAT_ALIGN_state ≠ 2 ∨ 2 ≤ s.beat.accepted) (he : inPhase err = false) :
    s.aligned port m arrival err =
      if s.jobRuns then s.loseLock else (s.loseLock.rephase port m arrival).fset F.BEAT_ALIGN_state 3 := by
  have hgo : ¬ (s.fget F.BEAT_ALIGN_state = 2 ∧ s.beat.accepted < 2) := by omega
  simp only [State.aligned, if_neg hgo, he, State.alignTo, State.loseLock, State.when, beq_iff_eq, Bool.false_eq_true, if_false]

/-! An accepted marker, by its error. -/

theorem State.acceptMarker_eq : s.acceptMarker port m arrival =
    (s.weighMarker port m.hops (s.markerError port m arrival)).aligned port m arrival (s.markerError port m arrival) := rfl

theorem State.acceptMarker_first (hst : s.fget F.BEAT_ALIGN_state = 2) (hn : s.inRow port < 2) :
    s.acceptMarker port m arrival = s.weighMarker port m.hops (s.markerError port m arrival) :=
  State.aligned_of_first (State.align_state_weighMarker.trans hst) (State.accepted_weighMarker.trans_lt hn)

theorem State.acceptMarker_inPhase (hn : s.mayLock port) (he : inPhase (s.markerError port m arrival) = true) :
    s.acceptMarker port m arrival =
      (s.showMarker port m.hops (s.markerError port m arrival)).fset F.BEAT_ALIGN_state 3 := by
  rw [State.acceptMarker_eq, State.aligned_of_inPhase _ he, State.weighMarker_inPhase he]
  rwa [State.align_state_weighMarker, State.accepted_weighMarker]

theorem State.acceptMarker_outOfPhase (hn : s.mayLock port) (he : inPhase (s.markerError port m arrival) = false) :
    s.acceptMarker port m arrival =
      let t := (s.showMarker port m.hops (s.markerError port m arrival)).bump C.BEAT_MARKER_ERR_CNT
      let u := if s.fget F.BEAT_ALIGN_state = 3 then t.holdover else t
      if t.jobRuns then u else (u.rephase port m arrival).fset F.BEAT_ALIGN_state 3 := by
  rw [State.acceptMarker_eq, State.aligned_of_outOfPhase _ he, State.loseLock, State.align_state_weighMarker,
    State.weighMarker_outOfPhase he]
  rwa [State.align_state_weighMarker, State.accepted_weighMarker]

end

/-! MARKER (R33). -/

theorem portOk_of_lt {port : Nat} (h : port < 24) : portOk port = true := decide_eq_true (by omega)

theorem State.markerBad_iff {s : State} {pl : Plan} {m : Marker} :
    s.markerBad pl m = true ↔ 8 ≤ m.hops ∨ m.log2 ≠ s.fget F.BEAT_CFG_beat_log2 ∨ pl.master ≠ some m.master ∨
      leNat (pl.jobHash.take 4) ≠ m.planTag.toNat := by
  simp [State.markerBad, or_assoc]

section
variable {s : State} {port arrival : Nat} {m : Marker} {pl : Plan}
variable (hfit : s.portFitted port = true) (hp : port < 24) (hpl : s.plan = some pl)
include hfit hp hpl

theorem execMarker_replayed : execMarker port m arrival true s = .next s := by
  simp [execMarker, guardUnit, portOk_of_lt hp, hfit, hpl]

variable (hport : s.markerPort port = true) (hmaster : s.fget F.BEAT_ALIGN_state ≠ 1)
include hport hmaster

theorem execMarker_bad (hbad : s.markerBad pl m = true) : execMarker port m arrival false s = .next s.ignoreMarker := by
  simp [execMarker, guardUnit, portOk_of_lt hp, hfit, hpl, hport, hmaster, hbad]

/-- A marker that passes the checks is accepted if its port is the source that is now selected, and only noted if not. -/
theorem execMarker_good {p h : Nat} (hgood : s.markerBad pl m = false) (hfresh : (s.port port).fresh = true)
    (hfree : s.fget F.BEAT_ALIGN_state ≠ 0) (hsrc : (s.noteHops port m.hops).markerSource = some (p, h)) :
    execMarker port m arrival false s =
      .next (if p = port then (s.noteHops port m.hops).acceptMarker port m arrival else s.noteHops port m.hops) := by
  simp only [State.noteHops, hpl] at hsrc ⊢
  simp [execMarker, guardUnit, portOk_of_lt hp, hfit, hpl, hport, hmaster, hgood, hfresh, hfree, hsrc]

end

/-! Timeouts (R35) and the freeze (R171, R172, R437). -/

section
variable {s : State}

theorem execAlignTimeout_seeking (hst : s.fget F.BEAT_ALIGN_state = 2) (hsince : 256 ≤ s.beat.since)
    (hr : s.beat.raised = false) : execAlignTimeout s =
      .next (({ s with beat := { s.beat with raised := true, hops := [], accepted := 0 } }).raise E.BEAT_align_timeout) := by
  have hdue : ¬ s.beat.since < 256 := by omega
  simp [execAlignTimeout, guardUnit, hst, hdue, hr]

theorem execMarkerTimeout_locked (hst : s.fget F.BEAT_ALIGN_state = 3) (hsince : 64 ≤ s.beat.since) : execMarkerTimeout s =
    .next ({ s with beat := { s.beat with hops := [], accepted := 0 } }).holdover := by
  have hdue : ¬ s.beat.since < 64 := by omega
  simp [execMarkerTimeout, guardUnit, hst, hdue]

theorem execPlacementFreeze_again (decided : Bool) (hf : s.beat.frozen = true) : execPlacementFreeze decided s = .next s := by
  simp [execPlacementFreeze, guardUnit, hf]

theorem execPlacementFreeze_carry {decided : Bool} (hf : s.beat.frozen = false) (h : decided = false ∨ s.controlRuns = false) :
    execPlacementFreeze decided s =
      .next ((({ s with beat := { s.beat with frozen := true, cycle := s.beatLen - 64 } }).bump C.HEADBOX_CARRY_CNT).raise
        E.HEADBOX_carry_forward) := by
  have hcarry : (!decided || !s.controlRuns) = true := by simpa using h
  simp only [execPlacementFreeze, guardUnit, hf, hcarry, if_true, Bool.false_eq_true, if_false]

/-- Decided while a control unit runs: fences first, then starts, then moves (R171). -/
theorem execPlacementFreeze_decided (hf : s.beat.frozen = false) (hc : s.controlRuns = true) :
    execPlacementFreeze true s =
      let s0 := { s with beat := { s.beat with frozen := true, cycle := s.beatLen - 64 } }
      let s1 := s0.each s0.needs fun s n => s.replaceOne n.1 n.2
      let s2 := s1.each (s1.ctxList.filter fun c => s1.ctxRuns c && (s1.ctx c).startFrom.isSome) fun s c => s.decideStart c
      .next (s2.each (s2.allDeckles.filter fun d => !(s2.deckle d).lost) fun s d => s.decideMoves d) := by
  simp [execPlacementFreeze, guardUnit, hf, hc]

end

/-- Settles O15: an accepted marker is one application of the state machine of R35 to the state that shows it, on which the
alignment state reads as it did before and the markers in a row are those counted with this one. -/
theorem beatRows : Obligations.BeatRows := by
  refine ⟨?boundary, ?next, ?marker, ?timeouts⟩
  case boundary =>
    intro s silent hp hr
    exact execBeatBoundary_eq silent hp hr
  case next =>
    intro s
    exact ⟨s.beatCount_nextBeat, rfl, rfl, rfl⟩
  case marker =>
    intro s port arrival m pl hp hfit hpl hport hmaster
    refine ⟨?bad, ?good, execMarker_replayed hfit hp hpl⟩
    case bad =>
      intro hbad
      exact execMarker_bad hfit hp hpl hport hmaster (State.markerBad_iff.mpr hbad)
    case good =>
      intro hhops hlog hid htag hfresh hfree s1
      have hgood : s.markerBad pl m = false := by
        rw [← Bool.not_eq_true, State.markerBad_iff]
        simpa [hlog, hid, htag] using hhops
      constructor
      · intro p h hsrc hne
        exact (execMarker_good hfit hp hpl hport hmaster hgood hfresh hfree hsrc).trans (congrArg _ (if_neg hne))
      · intro h hsrc own err n s2 s3
        have haccept : exec (.marker port m arrival false) s = .next (s1.acceptMarker port m arrival) :=
          (execMarker_good hfit hp hpl hport hmaster hgood hfresh hfree hsrc).trans (congrArg _ (if_pos rfl))
        refine ⟨?lock, ?first, ?out⟩
        case lock =>
          intro hlo hhi hn
          exact haccept.trans (congrArg _ (State.acceptMarker_inPhase (s := s1) hn (inPhase_iff.mpr ⟨hlo, hhi⟩)))
        case first =>
          intro hlo hhi hst hn
          exact haccept.trans (congrArg _ ((State.acceptMarker_first (s := s1) hst hn).trans
            (State.weighMarker_inPhase (inPhase_iff.mpr ⟨hlo, hhi⟩))))
        case out =>
          intro hout s4 s5
          have he : inPhase err = false := inPhase_eq_false_iff.mpr hout
          refine ⟨fun hn hruns => ?_, fun hn hruns => ?_, fun hst hn => ?_⟩
          · exact haccept.trans (congrArg _ ((State.acceptMarker_outOfPhase (s := s1) hn he).trans (if_pos hruns)))
          · exact haccept.trans (congrArg _ ((State.acceptMarker_outOfPhase (s := s1) hn he).trans
              (if_neg (Bool.eq_false_iff.mp hruns))))
          · exact haccept.trans (congrArg _ ((State.acceptMarker_first (s := s1) hst hn).trans
              (State.weighMarker_outOfPhase he)))
  case timeouts =>
    intro s
    refine ⟨execAlignTimeout_seeking, execMarkerTimeout_locked, ?freeze, ?frozen⟩
    case freeze =>
      intro hf
      exact ⟨execPlacementFreeze_carry hf (.inl rfl), fun hc => execPlacementFreeze_carry hf (.inr hc),
        execPlacementFreeze_decided hf⟩
    case frozen =>
      intro hf decided
      exact execPlacementFreeze_again decided hf

end Sys2Proof.Machine

namespace Sys2Proof.Machine

/-! Sheets on tiles (R44, R45, R49, R62-R64). -/

section
variable {s : State} {tile : Nat}

theorem guardUnit_tileOk (ht : tile < 12288) (s : State) : guardUnit (tileOk tile) s = .next s := if_pos (decide_eq_true ht)

theorem execSheetProgramFetch_next {c v q sh : Nat} (ht : tile < 12288) (hbind : (s.tile tile).bind = some (c, v))
    (hnext : (s.ctx c).nextOn v = some (q, sh)) : execSheetProgramFetch tile s =
      .next (s.setTile tile { s.tile tile with next := some (s.fetch c q sh) }) := by
  rw [execSheetProgramFetch, guardUnit_tileOk ht]
  simp only [hbind, hnext]

/-- `f` is the program that a tile starts a due sheet of a context with (R63): the one fetched ahead for it, or one fetched now. -/
def State.HasProgram (s : State) (tile c : Nat) (i : Inst) (f : Fetched) : Prop :=
  ((s.tile tile).next = some f ∧ f.ctx = c ∧ f.q = i.q ∧ f.sheet = i.sheet) ∨
    ((s.tile tile).next = none ∧ f = s.fetch c i.q i.sheet)

section
variable {c : Nat} {i : Inst} {ream : Ream} {f : Fetched} {late : Bool}
variable (hs : s.startable tile = some (c, i)) (hream : (s.ctx c).ream = some ream) (hf : s.HasProgram tile c i f)
include hs hream hf

theorem State.startSheet_runs (hfail : f.fail = none) (hin : (ream.readsOf (ream.sheet i.sheet)).any (s.ctx c).lostRange = false) :
    s.startSheet tile late =
      ((s.setTile tile ((s.tile tile).started (c, i.q, i.sheet) f.prog (ream.sheet i.sheet).seed (i.q / ream.length))).setCtx c
        ((s.ctx c).setInst i.q i.sheet fun j => { j with st := .running })).when late (·.bump C.BEAT_LATE_CNT) := by
  rcases hf with ⟨hnext, hc, hq, hsheet⟩ | ⟨hnext, rfl⟩ <;> simp [State.startSheet, *]

theorem State.startSheet_lostInput (hfail : f.fail = none)
    (hin : (ream.readsOf (ream.sheet i.sheet)).any (s.ctx c).lostRange = true) :
    s.startSheet tile late = s.faultWith (tilePage tile) c 0x05 0x01 (i.q % 2 ^ 32) 0 (ream.sheet i.sheet).vtile tile := by
  rcases hf with ⟨hnext, hc, hq, hsheet⟩ | ⟨hnext, rfl⟩ <;> simp [State.startSheet, *]

theorem State.startSheet_unreadable {status a : Nat} (hfail : f.fail = some (status, a)) :
    s.startSheet tile late = (s.notePoison (s.ctx c).deckle status a).faultWith (tilePage tile) c status 0x01 (i.q % 2 ^ 32)
      (a % 2 ^ 48) (ream.sheet i.sheet).vtile tile := by
  rcases hf with ⟨hnext, hc, hq, hsheet⟩ | ⟨hnext, rfl⟩ <;> simp [State.startSheet, *]

end

theorem execSheetStart_eq (ht : tile < 12288) (s : State) : execSheetStart tile s = .next (s.startSheet tile true) :=
  guardUnit_tileOk ht _

/-! Write-backs touch memory alone (R121-R123). -/

@[simp] theorem State.writeBack_regs (s : State) (d : Nat) (l : Line) : (s.writeBack d l).regs = s.regs :=
  List.foldlRecOn (motive := fun t : State => t.regs = s.regs) _ _ rfl fun _ h _ _ => (State.localWrite_regs ..).trans h

@[simp] theorem State.writeBackAll_regs (s : State) (d : Nat) (ls : List Line) : (s.writeBackAll d ls).regs = s.regs :=
  List.foldlRecOn (motive := fun t : State => t.regs = s.regs) _ _ rfl fun _ h _ _ => (State.writeBack_regs ..).trans h

/-- A sheet that has ended with no descriptor left gives its dirty lines back, and its tile is as after reset but for what outlasts a
sheet (R45, R64). -/
theorem execSheetComplete_ended {q : Nat × Nat × Nat} (ht : tile < 12288) (hrun : (s.tile tile).running = some q)
    (hend : (s.tile tile).blocked = .ended) (hquiet : (s.tile tile).quiet = true) :
    ∃ x t, execSheetComplete tile s =
        .next (((s.writeBackAll (s.runOf q).x.deckle (s.tile tile).l1).setCtx q.1 x).setTile tile t) ∧
      t.running = none ∧ t.state = .idle ∧ t.l1 = [] ∧ t.bind = (s.tile tile).bind := by
  rw [execSheetComplete, guardUnit_tileOk ht]
  simp only [hrun, hend, hquiet]
  exact ⟨_, _, rfl, rfl, rfl, rfl, rfl⟩

end

/-- Settles O16: the program a tile starts with is the same whether it was fetched ahead or is fetched now, and a start is then one of
three branches; a completion writes memory, one context and one tile. -/
theorem sheetRows : Obligations.SheetRows := by
  intro s tile ht t
  refine ⟨?fetch, ?start, ?complete⟩
  case fetch =>
    intro c v q sh
    exact execSheetProgramFetch_next ht
  case start =>
    intro c i ream f hs hream hf h
    have hstart := execSheetStart_eq ht s
    exact ⟨fun hfail hin => hstart.trans (congrArg _ (State.startSheet_runs hs hream hf hfail hin)),
      fun hfail hin => hstart.trans (congrArg _ (State.startSheet_lostInput hs hream hf hfail hin)),
      fun st a hfail => hstart.trans (congrArg _ (State.startSheet_unreadable hs hream hf hfail))⟩
  case complete =>
    intro q hrun hend hquiet
    obtain ⟨x, u, hexec, hrunning, hstate, hl1, hbind⟩ := execSheetComplete_ended ht hrun hend hquiet
    refine ⟨_, hexec, ?_⟩
    simp only [State.tile_setTile_same, State.setTile_hbm, State.setCtx_hbm, State.setTile_regs, State.setCtx_regs]
    exact ⟨hrunning, hstate, hl1, hbind, rfl, State.writeBackAll_regs ..⟩

end Sys2Proof.Machine

namespace Sys2Proof.Machine

/-! Wait limits (R52). -/

theorem execSheetWaitTimeout_held {s : State} {c k : Nat} {ream : Ream} {i : Inst} (hc : c < 1024)
    (hi : (s.ctx c).insts[k]? = some i) (hream : (s.ctx c).ream = some ream) (hdue : i.st = .due)
    (hheld : (s.ctx c).held ream i = true) (hlimit : ream.waitLimit < i.waited) :
    ∃ b, execSheetWaitTimeout c k s =
      .next (s.faultWith Page.BEAT c 0x03 0x03 (i.q % 2 ^ 32) b (ream.sheet i.sheet).vtile 0x3FFF) := by
  rw [execSheetWaitTimeout, guardUnit, if_pos (decide_eq_true hc)]
  simp only [hi, hream, hdue, hheld, hlimit, Option.getD_some, decide_true, BEq.rfl, Bool.true_or, Bool.and_self, if_true]
  exact ⟨_, rfl⟩

section
variable {s : State} {tile : Nat}

/-! What a lock let go and a drain noted leave: the tiles. -/

theorem State.tile_of_tiles_eq {t : State} (h : t.tiles = s.tiles) (n : Nat) : t.tile n = s.tile n := by
  simp only [State.tile, h]

@[simp] theorem State.freeLock_tiles (s : State) (cls inst : Nat) : (s.freeLock cls inst).tiles = s.tiles := by
  unfold State.freeLock
  split
  · exact (State.raiseBit_shows ..).reports.tiles
  · rfl

theorem State.tile_setTile_when_freeLock (s : State) (n cls inst : Nat) (x : Tile) (asked : Bool) :
    ((s.setTile n x).when asked (·.freeLock cls inst)).tile n = x := by
  unfold State.when
  split
  · rw [State.tile_of_tiles_eq (State.freeLock_tiles ..), State.tile_setTile_same]
  · exact State.tile_setTile_same ..

@[simp] theorem State.noteDrained_tiles (s : State) (c : Nat) : (s.noteDrained c).tiles = s.tiles := by
  unfold State.noteDrained
  split
  · exact State.modCtx_tiles ..
  · rfl

/-! Error fences of a tile (R90, R406, R410). -/

/-- The error of a fence shown: an uncorrectable one counted and raised, and a fault record written for any status (R61, R353). -/
def State.showFenceCause (s : State) (tile cause : Nat) : State :=
  let own := s.ownersOfGroup (groupOf tile)
  let s1 := if cause = 0x0D then
    (s.bump C.TILE_ECC_UE_CNT (groupOf tile)).raiseTo E.TILE_ecc_uncorrectable own (groupOf tile) else s
  if cause = 0 then s1
  else s1.logFault (tilePage tile) { s1.faultRec (tilePage tile) cause (own.headD 0x1F) 0x04 0 0 with tile }

theorem State.showFenceCause_shows (s : State) (tile cause : Nat) : Shows s (s.showFenceCause tile cause) := by
  have hue : Shows s (if cause = 0x0D then (s.bump C.TILE_ECC_UE_CNT (groupOf tile)).raiseTo E.TILE_ecc_uncorrectable
      (s.ownersOfGroup (groupOf tile)) (groupOf tile) else s) :=
    Shows.ite ((State.bump_shows ..).trans (State.raiseTo_shows ..)) (Shows.refl s)
  exact Shows.ite hue (hue.trans (State.logFault_shows ..))

theorem State.errorFence_idle {cause : Nat} (hst : (s.tile tile).state = .idle) :
    s.errorFence tile cause (cause == 0x0D) = (s.showFenceCause tile cause).fenceTile tile cause true := by
  simp [State.errorFence, State.showFenceCause, State.when, hst]

/-- An error fence of an idle tile that is bound to no context. -/
theorem State.fenceTile_idle {cause : Nat} (hst : (s.tile tile).state = .idle) (hbind : (s.tile tile).bind = none)
    (hrun : (s.tile tile).running = none) :
    s.fenceTile tile cause true = (((s.setTile tile { Tile.reset with
      state := .draining, flights := (s.tile tile).flights, flightId := (s.tile tile).flightId
      remote := (s.tile tile).remote, earlier := (s.tile tile).earlier, behind := (s.tile tile).behind
      hangs := (s.tile tile).hangs, errFences := (s.tile tile).errFences + 1 }).brokeAdd 0x1 tile cause
        (decide (1 ≤ (s.tile tile).errFences))).bump C.RSTCTL_TFENCE_CNT).raiseTo E.RSTCTL_fence
        (s.ownersOfGroup (groupOf tile)) := by
  simp [State.fenceTile, hst, hbind, hrun, Tile.reset]

/-! Draining and self-tests (R90, R181, R411). -/

/-- The state a drained tile enters, as the broke map with its waiting changes says. -/
def State.drainedTo (s : State) (tile : Nat) : TileState :=
  if s.tileRetired tile then .retired else if s.tileMapped tile then .fenced else .idle

variable (ht : tile < 12288)
include ht

theorem execFenceDrainTimeout_overdue {q : Nat × Nat × Nat} (hst : (s.tile tile).state = .draining)
    (hq : (s.tile tile).draining = some q) (hdue : (s.tile tile).overdue = false) :
    execFenceDrainTimeout tile s = .next ((s.setTile tile { s.tile tile with overdue := true }).faultWith (tilePage tile) q.1
      0x05 0x04 0 0 (s.runOf q).h.vtile tile) := by
  rw [execFenceDrainTimeout, guardUnit_tileOk ht]
  simp [hst, hq, hdue]

theorem execTileFenced_unasked (hst : (s.tile tile).state = .draining) (hflights : (s.tile tile).flights = [])
    (hdie : s.writeInDie (s.tile tile) = false) (hnone : (s.tile tile).draining = none) (hasked : (s.tile tile).asked = false) :
    execTileFenced tile s = .next (s.setTile tile { s.tile tile with
      state := s.drainedTo tile, draining := none, remote := [], overdue := false, asked := false }) := by
  rw [execTileFenced, guardUnit_tileOk ht]
  simp [hst, hflights, hdie, hnone, hasked, State.when, State.drainedTo]

theorem execTileFenced_state (hst : (s.tile tile).state = .draining) (hflights : (s.tile tile).flights = [])
    (hdie : s.writeInDie (s.tile tile) = false) :
    ∃ u, execTileFenced tile s = .next u ∧ (u.tile tile).state = s.drainedTo tile := by
  rw [execTileFenced, guardUnit_tileOk ht]
  refine ⟨_, rfl, ?_⟩
  simp only [hst, hflights, hdie, Bool.not_false, Bool.or_true, List.isEmpty_nil, and_self, if_true]
  split
  · rw [State.tile_of_tiles_eq (State.noteDrained_tiles ..), State.tile_setTile_when_freeLock]
    rfl
  · rw [State.tile_setTile_when_freeLock]
    rfl

theorem execTileSelfTestDone_passed (htest : (s.tile tile).selfTest = true) :
    execTileSelfTestDone tile true s =
      let s1 := s.setTile tile { s.tile tile with selfTest := false, state := .idle }
      .next (({ s1.spadZero tile with brokeDue := s1.brokeDue ++ [BrokeChange.remove 0x1 tile] }).freeLock 1 (groupOf tile)) := by
  rw [execTileSelfTestDone, guardUnit_tileOk ht]
  simp only [htest, Bool.not_true, Bool.false_eq_true, if_true, if_false]

theorem execTileSelfTestDone_failed (htest : (s.tile tile).selfTest = true) :
    execTileSelfTestDone tile false s =
      .next (((s.setTile tile { s.tile tile with selfTest := false, state := .retired }).brokeAdd 0x1 tile 0x0D true).freeLock 1
        (groupOf tile)) := by
  rw [execTileSelfTestDone, guardUnit_tileOk ht]
  simp only [htest, Bool.not_true, Bool.false_eq_true, if_false]

end

/-- Settles O17: showing a fence's error leaves the tile, so the fence then acts on the tile as it was; letting go of its lock and noting
a drain leave the tile in the state it drained to. -/
theorem tileFenceRows : Obligations.TileFenceRows := by
  intro s tile ht t
  refine ⟨?wait, ?fence, ?fences, ?overdue, ?unasked, ?drained, ?passed, execTileSelfTestDone_failed ht⟩
  case wait =>
    intro c k ream i hc hi hream hdue hheld hlimit
    exact execSheetWaitTimeout_held hc hi hream hdue hheld hlimit
  case fence =>
    intro cause hst hbind hrun own s1 s2
    have htile : s2.tile tile = t := State.tile_of_tiles_eq (s.showFenceCause_shows tile cause).reports.tiles tile
    have hfence := State.fenceTile_idle (s := s2) (tile := tile) (cause := cause)
    rw [htile] at hfence
    exact (guardUnit_tileOk ht _).trans (congrArg _ ((State.errorFence_idle hst).trans (hfence hst hbind hrun)))
  case fences =>
    intro cause
    exact ⟨_, guardUnit_tileOk ht _⟩
  case overdue =>
    intro q
    exact execFenceDrainTimeout_overdue ht
  case unasked => exact execTileFenced_unasked ht
  case drained => exact execTileFenced_state ht
  case passed => exact execTileSelfTestDone_passed ht

end Sys2Proof.Machine

namespace Sys2Proof.Machine

open Sys2Proof.Claims

/-! Rows of commands (R313, R317, R508): once its command may take effect, a row answers what the command does. -/

section
variable {s : State} {r : CmdRef} {op : Nat} {k : Cmd} {i : Nat}

theorem cmdRow_takes (h : Takes s r op k) (f : Cmd → State) : cmdRow op r s f = .next (f k) := by
  obtain ⟨hfn, hqueue, hstart, hauth, hlost⟩ := h
  have hopen : (!(k.authed || (s.session k.fn).opened || op == 0x01 || op == 0x02)) = false := by
    rcases hauth with hauth | hauth <;> simp [hauth]
  have hserved : (decide (4 ≤ k.fn) && (s.deckle (k.fn - 4)).lost && !lostTakes op) = false := by
    simpa using hlost
  simp [cmdRow, guardUnit, hfn, hqueue, hstart, hopen, hserved]

theorem ctxRow_onCtx (h : OnCtx s r op k i) (f : Cmd → Nat → State) : ctxRow op r s f = .next (f k i) := by
  obtain ⟨htakes, hlive, hdeckle, haccepts⟩ := h
  rw [ctxRow, cmdRow_takes htakes]
  simp [hlive, hdeckle, haccepts]

end

/-! Commands of a context (R330, R508). -/

section
variable {s : State} {r : CmdRef} {k : Cmd} {i : Nat}

theorem execCtxCreate_rested (h : Takes s r 0x10 k)
    (hroom : (s.ctxsOf (k.fn - 4)).length < s.fget F.DECKLE_STATE_ctx_max 0 (ofDeckle (k.fn - 4)))
    (hrested : (List.range 1024).find? s.restedIndex = some i) :
    execCtxCreate r s =
      let s1 := s.setCtx i { Ctx.reset with gen := nextGen i (s.ctx i).gen, st := .idle, deckle := k.fn - 4 }
      .next (s1.finish k 0 0 (s1.handle i)) := by
  rw [execCtxCreate, cmdRow_takes h]
  simp only [hrested, if_neg (Nat.not_le.mpr hroom)]

theorem execCtxCreate_full (h : Takes s r 0x10 k)
    (hfull : s.fget F.DECKLE_STATE_ctx_max 0 (ofDeckle (k.fn - 4)) ≤ (s.ctxsOf (k.fn - 4)).length) :
    execCtxCreate r s = .next (s.finish k 0x0C) := by
  rw [execCtxCreate, cmdRow_takes h]
  simp only [if_pos hfull]

theorem execReamLoad_loads {ream : Ream} (h : OnCtx s r 0x11 k i)
    (hload : s.loadReam (s.ctx i) (k.op 0x10 0 64) (k.op 0x18 0 64) (k.op 0x20 0 9) = .inr ream) :
    execReamLoad r s = .next ((s.modCtx i fun y => { y with ream := some ream, st := .loaded }).finish k 0) := by
  rw [execReamLoad, ctxRow_onCtx h]
  simp only [hload]

theorem execReamLoad_refused {kind idx : Nat} {f : LoadFail} (h : OnCtx s r 0x11 k i)
    (hload : s.loadReam (s.ctx i) (k.op 0x10 0 64) (k.op 0x18 0 64) (k.op 0x20 0 9) = .inl (kind, idx, f)) :
    execReamLoad r s = .next ((s.notePoison (s.ctx i).deckle f.status f.addr).finish k f.status
      (kind * 2 ^ 28 + idx % 2 ^ 28)) := by
  rw [execReamLoad, ctxRow_onCtx h]
  simp only [hload]

/-- A context belongs to a job that may not start (R36, R231). -/
def State.jobBars (s : State) (c : Nat) : Prop := s.inJob c = true ∧ (s.jobHeld = true ∨ s.unaligned = true)

/-- The bindings of a context stand, so that it starts without a freeze (R177). -/
def Ctx.bound (x : Ctx) : Bool := !x.bind.isEmpty && !x.release

theorem State.not_jobBars {c : Nat} (h : s.inJob c = false ∨ (s.jobHeld = false ∧ s.unaligned = false)) : ¬ s.jobBars c := by
  simpa [State.jobBars, imp_iff_not_or] using h

theorem execCtxStart_barred (h : OnCtx s r 0x12 k i) (hjob : s.jobBars i) : execCtxStart r s = .next (s.finish k 0x09) := by
  rw [execCtxStart, ctxRow_onCtx h]
  exact congrArg _ (if_pos hjob)

theorem execCtxStart_resumed (h : OnCtx s r 0x12 k i) (hjob : ¬ s.jobBars i) (hst : (s.ctx i).st ≠ .loaded) :
    execCtxStart r s = .next ((s.begin k).setCtx i { s.ctx i with
      st := .running, startFrom := if (s.ctx i).bound then none else some (s.ctx i).st }) := by
  rw [execCtxStart, ctxRow_onCtx h]
  refine congrArg _ ((if_neg hjob).trans ?_)
  simp only [if_neg hst]
  rfl

theorem execCtxStart_fresh (h : OnCtx s r 0x12 k i) (hjob : ¬ s.jobBars i) (hst : (s.ctx i).st = .loaded) :
    execCtxStart r s = .next ((s.begin k).setCtx i { s.ctx i with
      cursor := 0, primed := false, insts := [], steps := [], ext := [], lostTiles := [], places := []
      inReplay := (s.ctx i).replay.isSome, journal := (s.ctx i).replay.getD [], replay := none
      st := .running, startFrom := if (s.ctx i).bound then none else some .loaded }) := by
  rw [execCtxStart, ctxRow_onCtx h]
  refine congrArg _ ((if_neg hjob).trans ?_)
  simp only [if_pos hst]
  rw [hst]
  rfl

/-- A stop that releases would lose what the context holds in tiles (R330). -/
theorem execCtxStop_refused (h : OnCtx s r 0x13 k i) (hrel : k.op 0x10 0 1 = 1) (hregion : (s.ctx i).hasTileRegion = true) :
    execCtxStop r s = .next (s.finish k 0x0B) := by
  rw [execCtxStop, ctxRow_onCtx h]
  simp [hrel, hregion]

/-- What a stop that is not refused does turns on the context's state. -/
theorem execCtxStop_by_state (h : OnCtx s r 0x13 k i) (hrel : k.op 0x10 0 1 = 0 ∨ (s.ctx i).hasTileRegion = false) :
    execCtxStop r s =
      let release := k.op 0x10 0 1 == 1
      .next (if (s.ctx i).st = .stopped then (s.modCtx i fun y => { y with release := y.release || release }).finish k 0
        else if (s.ctx i).st = .stopping then (s.begin k).modCtx i fun y => { y with release := y.release || release }
        else (s.begin k).stopCtx i release) := by
  have hkept : (k.op 0x10 0 1 == 1 && (s.ctx i).hasTileRegion) = false := by
    rcases hrel with hrel | hrel <;> simp [hrel]
  rw [execCtxStop, ctxRow_onCtx h]
  simp only [hkept, Bool.false_eq_true, if_false]

theorem execCtxStatus_kept (h : OnCtx s r 0x14 k i) (hclear : k.op 0x10 0 1 = 0) :
    execCtxStatus r s = .next (s.finish k 0 (s.ctx i).lastStatus ((s.ctx i).flags.toNat + (s.ctx i).st.code * 2 ^ 8 +
      (s.ctx i).cursor % 2 ^ 32 * 2 ^ 16 + min 0xFFFF (s.ctx i).overruns * 2 ^ 48)) := by
  rw [execCtxStatus, ctxRow_onCtx h]
  simp [State.when, hclear]

theorem execCtxStatus_cleared (h : OnCtx s r 0x14 k i) (hclear : k.op 0x10 0 1 = 1) :
    execCtxStatus r s = .next ((s.modCtx i fun y => { y with flags := 0 }).finish k 0 (s.ctx i).lastStatus
      ((s.ctx i).flags.toNat + (s.ctx i).st.code * 2 ^ 8 + (s.ctx i).cursor % 2 ^ 32 * 2 ^ 16 +
        min 0xFFFF (s.ctx i).overruns * 2 ^ 48)) := by
  rw [execCtxStatus, ctxRow_onCtx h]
  simp [State.when, hclear]

theorem execCtxWait_eq (h : OnCtx s r 0x15 k i) :
    execCtxWait r s = .next (if (s.ctx i).st = .running then s.begin k else s.finish k 0) := by
  rw [execCtxWait, ctxRow_onCtx h]

/-- A group record that starts beyond the deckle's local HBM cannot be read (R274). -/
theorem execCollGroup_beyond (h : OnCtx s r 0x17 k i) (hlost : (s.deckle (s.ctx i).deckle).lost = false)
    (hbeyond : s.localSize (s.ctx i).deckle < k.op 0x10 0 64 + 32) : execCollGroup r s = .next (s.finish k 0x0B) := by
  rw [execCollGroup, ctxRow_onCtx h]
  simp only [hlost, Bool.false_eq_true, if_false, if_pos hbeyond]

/-- The head of the group record at an address of a deckle's local HBM (R273). -/
def State.groupHead (s : State) (d a : Nat) : List Byte := s.localRead d a 32

/-- The members that the record says it has. -/
def State.groupSize (s : State) (d a : Nat) : Nat := fieldAt (s.groupHead d a) 0 16 9

/-- The whole record. -/
def State.groupRecord (s : State) (d a : Nat) : List Byte := s.localRead d a (32 + 8 * s.groupSize d a)

/-- The group that such a record registers, with the hash of the record without its rank (R275). -/
def State.groupAt (s : State) (d a : Nat) : Group where
  id := fieldAt (s.groupHead d a) 0 8 6
  rank := fieldAt (s.groupHead d a) 4 0 8
  members := (List.range (s.groupSize d a)).map (memberOf (s.groupRecord d a))
  hash := BitVec.ofNat 64 (leNat (Config.shake256 ((s.groupRecord d a).take 4 ++ [0] ++ (s.groupRecord d a).drop 5) 8))

theorem execCollGroup_registers {d a : Nat} (h : OnCtx s r 0x17 k i) (hd : (s.ctx i).deckle = d) (ha : k.op 0x10 0 64 = a)
    (hlost : (s.deckle d).lost = false) (hsize : a + 32 + 8 * s.groupSize d a ≤ s.localSize d)
    (hhead : s.localBad d a 32 = none) (hentries : s.localBad d (a + 32) (8 * s.groupSize d a) = none)
    (hok : groupHeadOk (s.groupHead d a) = true)
    (hreserved : ∀ j < s.groupSize d a, fieldAt (s.groupRecord d a) (32 + 8 * j) 56 8 = 0)
    (hnew : (s.ctx i).group (s.groupAt d a).id = none)
    (hmembers : s.membersOk (s.handle i) (s.groupAt d a).rank (s.groupAt d a).members = true) :
    execCollGroup r s = .next ((s.modCtx i fun y => { y with groups := y.groups ++ [s.groupAt d a] }).finish k 0) := by
  have hstart : ¬ s.localSize d < a + 32 := by omega
  have hfits : ¬ ((!groupHeadOk (s.groupHead d a)) = true ∨ s.localSize d < a + 32 + 8 * s.groupSize d a) := by
    simpa [hok] using hsize
  have hgood : ¬ (((List.range (s.groupSize d a)).any fun j => fieldAt (s.groupRecord d a) (32 + 8 * j) 56 8 != 0) = true ∨
      ((s.ctx i).group (s.groupAt d a).id).isSome = true ∨
      (!s.membersOk (s.handle i) (s.groupAt d a).rank (s.groupAt d a).members) = true) := by
    simpa [hnew, hmembers] using hreserved
  simp only [State.groupAt, State.groupRecord, State.groupSize, State.groupHead] at hfits hentries hgood ⊢
  rw [execCollGroup, ctxRow_onCtx h]
  simp only [hd, ha, hlost, Bool.false_eq_true, if_false, if_neg hstart, hhead, if_neg hfits, hentries, if_neg hgood]

end

/-- Settles O22: a command of a live context in a state that accepts it does what its row says, so each clause is one branch of that
row. -/
theorem contextCommands : Obligations.ContextCommands := by
  intro s r k i
  refine ⟨?create, ?load, ?start, ?barred, ?stop, ?refused, ?status, execCtxWait_eq, execCollGroup_beyond, ?group⟩
  case create =>
    intro h d
    exact ⟨execCtxCreate_rested h, execCtxCreate_full h⟩
  case load =>
    intro h
    exact ⟨fun ream => execReamLoad_loads h, fun kind idx => execReamLoad_refused h⟩
  case start =>
    intro h hjob x bound
    exact ⟨execCtxStart_resumed h (State.not_jobBars hjob), execCtxStart_fresh h (State.not_jobBars hjob)⟩
  case barred =>
    intro h hin hbars
    exact execCtxStart_barred h ⟨hin, hbars⟩
  case stop =>
    intro h hrel rel
    have hstop := execCtxStop_by_state h hrel
    refine ⟨fun hst => hstop.trans ?running, fun hst => hstop.trans ?stopping, fun hst => hstop.trans ?stopped⟩
    all_goals simp [hst, rel]
  case refused => exact execCtxStop_refused
  case status =>
    intro h v
    exact ⟨execCtxStatus_kept h, execCtxStatus_cleared h⟩
  case group =>
    intro d a head n bytes ms hash h hlost hsize hhead hentries hok hreserved hnew hmembers
    exact execCollGroup_registers h rfl rfl hlost hsize hhead hentries hok hreserved hnew hmembers

end Sys2Proof.Machine

namespace Sys2Proof.Machine

open Sys2Proof.Claims

/-! General registers (R58). -/

section
variable (t : Tile) (n m : Nat) (v : Word)

@[simp] theorem Tile.setGr_zero : t.setGr 0 v = t := rfl

theorem Tile.gr_setGr : (t.setGr n v).gr m = if m = 0 then 0 else if m = n then v else t.gr m := by
  unfold Tile.gr Tile.setGr
  by_cases hm : m = 0
  · simp only [hm, if_true]
  · by_cases hn : n = 0
    · simp only [hm, hn, if_true, if_false]
    · simp only [hm, hn, if_false, Sparse.get_set]

theorem Tile.gr_setGr_other {n m : Nat} (h : m ≠ n) : (t.setGr n v).gr m = t.gr m := by
  rw [Tile.gr_setGr, if_neg h]
  unfold Tile.gr
  split <;> rfl

theorem Tile.setGr_frame : { t.setGr n v with g := t.g } = t := by
  unfold Tile.setGr
  split <;> rfl

end

/-- Settles O2: a write to a general register is one write of the sparse map, or none. -/
theorem generalRegisters : Obligations.GeneralRegisters :=
  fun t n m v => ⟨t.gr_setGr n m v, t.setGr_zero v, t.setGr_frame n v⟩

/-! One row of the sequencer (R85, R86): on the instruction that is next it acts, and otherwise it leaves the state. -/

section
variable {s : State} {tile op k : Nat} {r : Run} {i : SeqInstr}

theorem seqRow_of_issues (h : Issues s tile op r i) (hop : op = k) (f : Run → SeqInstr → State) :
    seqRow k tile s f = .next (f r i) := by
  obtain ⟨ht, hnext, hi⟩ := h
  rw [seqRow, guardUnit_tileOk ht]
  simp only [hnext, hi, hop, if_true]

theorem seqAlu_of_issues (h : Issues s tile op r i) (hop : op = k) (f : Word → Word → Word) :
    seqAlu k f tile s = .next (s.seqPut tile i.rd (f ((s.tile tile).gr i.rs1) ((s.tile tile).gr i.rs2))) :=
  seqRow_of_issues h hop _

theorem seqImm_of_issues (h : Issues s tile op r i) (hop : op = k) (f : Word → Word → Word) :
    seqImm k f tile s = .next (s.seqPut tile i.rd (f ((s.tile tile).gr i.rs1) (BitVec.ofInt 64 i.imm))) :=
  seqRow_of_issues h hop _

/-- What a row answers: the state it had, or what it does on the instruction that is next. -/
theorem seqRow_next {t : State} {f : Run → SeqInstr → State} (h : seqRow k tile s f = .next t) :
    t = s ∨ ∃ r i, s.nextInstr tile = some (r, i) ∧ i.op = k ∧ t = f r i := by
  have ht := guardUnit_next h
  split at ht
  · exact .inl ht
  · next r i hnext =>
    split at ht
    · next hop => exact .inr ⟨r, i, hnext, hop, ht⟩
    · exact .inl ht

end

/-! Values of the arithmetic rows (R86). -/

section
variable (a b : Word)

theorem boolWord_slt : boolWord (BitVec.slt a b) = if a.toInt < b.toInt then 1 else 0 := by
  simp only [boolWord, BitVec.slt, decide_eq_true_eq]

theorem boolWord_ult : boolWord (BitVec.ult a b) = if a.toNat < b.toNat then 1 else 0 := by
  simp only [boolWord, BitVec.ult, decide_eq_true_eq]

theorem boolWord_beq : boolWord (a == b) = if a = b then 1 else 0 := by
  simp only [boolWord, beq_iff_eq]

theorem ite_slt {α : Type} (x y : α) : (if BitVec.slt a b then x else y) = if a.toInt < b.toInt then x else y := by
  simp only [BitVec.slt, decide_eq_true_eq]

end

theorem ofSigned_eq_toNat_ofInt (w : Nat) (x : Int) : ofSigned w x = (BitVec.ofInt w x).toNat := by
  rw [ofSigned, BitVec.toNat_ofInt]
  rfl

theorem ofNat_ofSigned (x : Int) : BitVec.ofNat 64 (ofSigned 32 x) = (BitVec.ofInt 32 x).zeroExtend 64 := by
  rw [ofSigned_eq_toNat_ofInt]
  exact BitVec.ofNat_toNat ..

/-- The value that LIH puts together: the immediate above the lower half of the register. -/
theorem ofNat_ofSigned_high (x : Int) (v : Word) :
    BitVec.ofNat 64 (ofSigned 32 x * 2 ^ 32 + v.toNat % 2 ^ 32) = BitVec.ofInt 32 x ++ v.extractLsb' 0 32 := by
  have hlow : v.toNat % 2 ^ 32 = (v.extractLsb' 0 32).toNat := by simp
  rw [ofSigned_eq_toNat_ofInt, hlow]
  generalize BitVec.ofInt 32 x = high
  generalize v.extractLsb' 0 32 = low
  apply BitVec.eq_of_toNat_eq
  rw [BitVec.toNat_append, ← Nat.shiftLeft_add_eq_or_of_lt low.isLt, Nat.shiftLeft_eq, BitVec.toNat_ofNat]
  exact Nat.mod_eq_of_lt (by omega)

/-- Settles O3: each row writes rd with its operation, a comparison reading as an integer. -/
theorem seqArithmeticRows : Obligations.SeqArithmeticRows := by
  refine ⟨?registers, ?immediates⟩
  case registers =>
    intro s tile op r i h a b put
    have row {k : Nat} (f : Word → Word → Word) (hop : op = k) : seqAlu k f tile s = .next (put (f a b)) :=
      seqAlu_of_issues h hop f
    refine ⟨row (· + ·), row (· - ·), row (· * ·), row (· &&& ·), row (· ||| ·), row (· ^^^ ·),
      row fun a b => a <<< (b.toNat % 64), row fun a b => a >>> (b.toNat % 64),
      row fun a b => a.sshiftRight (b.toNat % 64), ?min, ?max, ?slt, ?sltu, ?seq⟩
    case min => exact ite_slt b a b a ▸ row fun a b => if BitVec.slt b a then b else a
    case max => exact ite_slt a b b a ▸ row fun a b => if BitVec.slt a b then b else a
    case slt => exact boolWord_slt a b ▸ row fun a b => boolWord (BitVec.slt a b)
    case sltu => exact boolWord_ult a b ▸ row fun a b => boolWord (BitVec.ult a b)
    case seq => exact boolWord_beq a b ▸ row fun a b => boolWord (a == b)
  case immediates =>
    intro s tile op r i h a k low put
    have row {n : Nat} (f : Word → Word → Word) (hop : op = n) : seqImm n f tile s = .next (put (f a k)) :=
      seqImm_of_issues h hop f
    refine ⟨row (· + ·), row (· &&& ·), row (· ||| ·), row (· ^^^ ·), row fun a b => a <<< (b.toNat % 64),
      row fun a b => a >>> (b.toNat % 64), row fun a b => a.sshiftRight (b.toNat % 64), ?slti, ?lil, ?lih⟩
    case slti => exact boolWord_slt a k ▸ row fun a b => boolWord (BitVec.slt a b)
    case lil => exact fun hop => ofNat_ofSigned i.imm ▸ seqRow_of_issues h hop _
    case lih => exact fun hop => ofNat_ofSigned_high i.imm _ ▸ seqRow_of_issues h hop _

end Sys2Proof.Machine

namespace Sys2Proof.Machine

open Sys2Proof.Claims

/-! The frame of a row that puts a value in rd (R86). -/

section
variable {s t : State} {tile : Nat}

theorem State.tile_setTile_other (s : State) {n m : Nat} (x : Tile) (h : m ≠ n) : (s.setTile n x).tile m = s.tile m := by
  rw [State.tile_setTile, if_neg h]

theorem State.gr_seqPut_other (s : State) (tile : Nat) {rd n : Nat} (v : Word) (h : n ≠ rd) :
    ((s.seqPut tile rd v).tile tile).gr n = (s.tile tile).gr n := by
  rw [State.seqPut, State.tile_setTile_same]
  exact Tile.gr_setGr_other _ _ h

/-- All that such a row changes of the tile: the program counter, the being blocked, the general registers. -/
theorem State.tile_seqPut_frame (s : State) (tile rd : Nat) (v : Word) :
    { (s.seqPut tile rd v).tile tile with
      g := (s.tile tile).g, pc := (s.tile tile).pc, blocked := (s.tile tile).blocked } = s.tile tile := by
  rw [State.seqPut, State.tile_setTile_same]
  unfold Tile.setGr
  split <;> rfl

theorem seqRow_put_frame {k : Nat} {v : SeqInstr → Word} (h : seqRow k tile s (fun _ i => s.seqPut tile i.rd (v i)) = .next t) :
    { t with tiles := s.tiles } = s ∧ (∀ n, n ≠ tile → t.tile n = s.tile n) ∧
      { t.tile tile with g := (s.tile tile).g, pc := (s.tile tile).pc, blocked := (s.tile tile).blocked } = s.tile tile ∧
      ∀ r i, s.nextInstr tile = some (r, i) → ∀ n, n ≠ i.rd → (t.tile tile).gr n = (s.tile tile).gr n := by
  rcases seqRow_next h with rfl | ⟨r, i, hnext, -, rfl⟩
  · exact ⟨rfl, fun _ _ => rfl, rfl, fun _ _ _ _ _ => rfl⟩
  · refine ⟨rfl, fun n hn => State.tile_setTile_other _ _ hn, State.tile_seqPut_frame .., fun r' i' hnext' n hn => ?_⟩
    obtain ⟨rfl, rfl⟩ : r' = r ∧ i' = i := by simpa [hnext] using hnext'.symm
    exact State.gr_seqPut_other _ _ _ hn

end

/-- Settles O56: each of these rows puts one value, read from the tile and the instruction, in rd. -/
theorem sequencerFrame : Obligations.SequencerFrame := by
  intro s t tile c hc h
  obtain ⟨k, v, hrow⟩ : ∃ (k : Nat) (v : SeqInstr → Word),
      exec c s = seqRow k tile s fun _ i => s.seqPut tile i.rd (v i) := by
    simp only [List.mem_cons, List.not_mem_nil, or_false] at hc
    rcases hc with rfl | rfl | rfl | rfl | rfl | rfl | rfl | rfl | rfl | rfl | rfl | rfl | rfl | rfl | rfl | rfl | rfl |
      rfl | rfl | rfl | rfl | rfl | rfl | rfl
    all_goals exact ⟨_, _, rfl⟩
  exact seqRow_put_frame (hrow ▸ h)

/-! Branches, jumps, calls and returns (R86, R87). -/

section
variable {s : State} {tile op k : Nat} {r : Run} {i : SeqInstr}

/-- The sequencer goes on at `x` with the call stack `st`, if `x` lies in the program; if not, the context faults (R87). -/
def State.goTo (s : State) (tile : Nat) (r : Run) (x : Int) (st : List Nat) : State :=
  if 0 ≤ x ∧ x < r.h.codeLen then s.setTile tile { s.tile tile with stack := st, pc := x.toNat, blocked := .no }
  else s.seqFault tile r 0x0B (s.tile tile).pc

theorem State.seqJump_eq_goTo (s : State) (tile : Nat) (r : Run) (x : Int) {f : Tile → Tile} {st : List Nat}
    (hf : f (s.tile tile) = { s.tile tile with stack := st }) : s.seqJump tile r x f = s.goTo tile r x st := by
  unfold State.seqJump State.goTo
  dsimp only
  rw [hf]
  by_cases h : 0 ≤ x ∧ x < r.h.codeLen
  · rw [if_pos h, if_neg (by simp only [Int.ofNat_eq_natCast]; omega)]
  · rw [if_neg h, if_pos (by simp only [Int.ofNat_eq_natCast]; omega)]

theorem seqBranch_of_issues (h : Issues s tile op r i) {rel : Word → Word → Bool} {c : Prop} [Decidable c]
    (hc : rel ((s.tile tile).gr i.rs1) ((s.tile tile).gr i.rs2) = true ↔ c) (hop : op = k) :
    seqBranch k rel tile s = .next (if c then s.goTo tile r ((s.tile tile).pc + 8 * i.imm) (s.tile tile).stack
      else s.setTile tile (s.tile tile).advance) :=
  (seqRow_of_issues h hop _).trans (congrArg _ (if_congr hc (s.seqJump_eq_goTo tile r _ rfl) rfl))

theorem execJmp_goes (h : Issues s tile op r i) (hop : op = 0x46) :
    execJmp tile s = .next (s.goTo tile r ((s.tile tile).pc + 8 * i.imm) (s.tile tile).stack) :=
  (seqRow_of_issues h hop _).trans (congrArg _ (s.seqJump_eq_goTo tile r _ rfl))

theorem execCall_pushes (h : Issues s tile op r i) (hop : op = 0x48) (hroom : (s.tile tile).stack.length < 8) :
    execCall tile s =
      .next (s.goTo tile r ((s.tile tile).pc + 8 * i.imm) (((s.tile tile).pc + 8) :: (s.tile tile).stack)) :=
  (seqRow_of_issues h hop _).trans (congrArg _ ((if_neg (by omega)).trans (s.seqJump_eq_goTo tile r _ rfl)))

theorem execCall_full (h : Issues s tile op r i) (hop : op = 0x48) (hfull : 8 ≤ (s.tile tile).stack.length) :
    execCall tile s = .next (s.seqFault tile r 0x0B (s.tile tile).pc) :=
  (seqRow_of_issues h hop _).trans (congrArg _ (if_pos hfull))

theorem execRet_pops (h : Issues s tile op r i) (hop : op = 0x49) {p : Nat} {rest : List Nat}
    (hstack : (s.tile tile).stack = p :: rest) : execRet tile s = .next (s.goTo tile r p rest) := by
  rw [execRet, seqRow_of_issues h hop, hstack]
  exact congrArg _ (s.seqJump_eq_goTo tile r p rfl)

theorem execRet_empty (h : Issues s tile op r i) (hop : op = 0x49) (hstack : (s.tile tile).stack = []) :
    execRet tile s = .next (s.seqFault tile r 0x0B (s.tile tile).pc) := by
  rw [execRet, seqRow_of_issues h hop, hstack]

end

section
variable {s : State} {tile : Nat} {q : Nat × Nat × Nat}
variable (ht : tile < 12288) (hrun : (s.tile tile).running = some q)
include ht hrun

theorem execReservedOpcode_reserved {w : Word} (hfree : (s.tile tile).blocked = .no)
    (hw : (s.tile tile).prog[(s.tile tile).pc / 8]? = some w) (hdecode : decodeSeq w = none) :
    execReservedOpcode tile s = .next (s.seqFault tile (s.runOf q) 0x0B (s.tile tile).pc) := by
  rw [execReservedOpcode, guardUnit_tileOk ht]
  simp [hrun, hfree, hw, hdecode]

theorem execTileDeadlock_deadlocked (hdead : s.deadlocked tile = true) : execTileDeadlock tile s =
    .next (((s.bump C.TILE_DEADLOCK_CNT (groupOf tile)).raiseTo E.TILE_deadlock [(s.runOf q).x.deckle] (groupOf tile)).seqFault
      tile (s.runOf q) 0x0B (s.tile tile).pc) := by
  rw [execTileDeadlock, guardUnit_tileOk ht]
  simp only [hrun, hdead, if_true]

end

/-- Settles O4: a taken branch, a jump, a call with room and a return from a call go on at their target, or fault there. -/
theorem seqControlRows : Obligations.SeqControlRows := by
  refine ⟨?jumps, ?faults⟩
  case jumps =>
    intro s tile op r i h t a b aim go br
    have branch {k : Nat} (rel : Word → Word → Bool) (c : Prop) [Decidable c] (hc : rel a b = true ↔ c) (hop : op = k) :
        seqBranch k rel tile s = .next (br c) := seqBranch_of_issues h hc hop
    have hslt : BitVec.slt a b = true ↔ a.toInt < b.toInt := decide_eq_true_iff
    have hult : BitVec.ult a b = true ↔ a.toNat < b.toNat := decide_eq_true_iff
    have hsge : (!BitVec.slt a b) = true ↔ b.toInt ≤ a.toInt := by
      rw [Bool.not_eq_true', ← Bool.not_eq_true, hslt, not_lt]
    have huge : (!BitVec.ult a b) = true ↔ b.toNat ≤ a.toNat := by
      rw [Bool.not_eq_true', ← Bool.not_eq_true, hult, not_lt]
    exact ⟨branch (· == ·) _ beq_iff_eq, branch (· != ·) _ bne_iff_ne, branch BitVec.slt _ hslt,
      branch (fun a b => !BitVec.slt a b) _ hsge, branch BitVec.ult _ hult, branch (fun a b => !BitVec.ult a b) _ huge,
      execJmp_goes h, execCall_pushes h, execCall_full h, fun hop _ _ => execRet_pops h hop, execRet_empty h⟩
  case faults =>
    intro s tile q ht hrun t r
    exact ⟨fun hfree w => execReservedOpcode_reserved ht hrun hfree, execTileDeadlock_deadlocked ht hrun⟩

end Sys2Proof.Machine

namespace Sys2Proof.Machine

open Sys2Proof.Claims

/-! Units of engine writes that come into place or not as another observer looks (R119, R121). -/

/-- `t` is `s` but for the scratchpads, the number of the next free value and the units of one tile not yet in place. -/
structure Settles (tile : Nat) (s t : State) : Prop where
  rest : { t with spad := s.spad, freeCtr := s.freeCtr, tiles := s.tiles } = s
  tile : { t.tile tile with landing := (s.tile tile).landing } = s.tile tile

section
variable {s t u : State} {tile : Nat}

theorem Settles.refl (tile : Nat) (s : State) : Settles tile s s := ⟨rfl, rfl⟩

theorem Settles.trans (h : Settles tile s t) (k : Settles tile t u) : Settles tile s u := by
  obtain ⟨hrest, htile⟩ := h
  obtain ⟨krest, ktile⟩ := k
  refine ⟨?_, ?_⟩
  · rw [← hrest, ← krest]
  · rw [← htile, ← ktile]

theorem Settles.regs (h : Settles tile s t) : t.regs = s.regs := (congrArg State.regs h.rest :)
theorem Settles.hbm (h : Settles tile s t) : t.hbm = s.hbm := (congrArg State.hbm h.rest :)

theorem State.setTile_landing_settles (s : State) (tile : Nat) (l : List (Nat × Nat × List Byte)) :
    Settles tile s (s.setTile tile { s.tile tile with landing := l }) := by
  refine ⟨rfl, ?_⟩
  rw [State.tile_setTile_same]

theorem State.free_settles (s : State) (tile : Nat) : Settles tile s s.free.2 := ⟨rfl, rfl⟩

theorem State.spadWrite_settles (s : State) (tile a : Nat) (d : List Byte) : Settles tile s (s.spadWrite tile a d) :=
  ⟨rfl, rfl⟩

theorem State.settleUnits_settles (tile : Nat) (l : List (Nat × Nat × List Byte)) (s : State) :
    Settles tile s (State.settleUnits tile l s) := by
  induction l generalizing s with
  | nil => exact .refl tile s
  | cons unit rest ih =>
    rw [State.settleUnits]
    split
    · exact ((s.free_settles tile).trans (State.setTile_landing_settles ..)).trans (ih _)
    · exact ((s.free_settles tile).trans (State.spadWrite_settles ..)).trans (ih _)

theorem State.blur_settles (s : State) (tile : Nat) : Settles tile s (s.blur tile) := by
  unfold State.blur
  dsimp only
  split
  · exact .refl tile s
  · exact (State.setTile_landing_settles ..).trans (State.settleUnits_settles ..)

theorem State.blur_of_nothing_landing (h : (s.tile tile).landing = []) : s.blur tile = s := by
  unfold State.blur
  dsimp only
  rw [h]
  rfl

end

/-! Accesses of the sequencer to scratchpad and to the L1 (R59, R61, R87, R122). -/

section
variable {s : State} {tile : Nat} {r : Run} {i : SeqInstr} {ecc : StoreEcc}

section
variable {f : Nat → State → State}

theorem State.spadAccess_misaligned (ha : (s.tile tile).seqAddr i % i.bytes ≠ 0) :
    s.spadAccess tile r i ecc f = s.seqFault tile r 0x0B (s.tile tile).pc := if_pos ha

theorem State.spadAccess_beyond (ha : (s.tile tile).seqAddr i % i.bytes = 0)
    (hlimit : (s.tile tile).limit < (s.tile tile).seqAddr i + i.bytes) :
    s.spadAccess tile r i ecc f = s.accessFault tile r 0x0B 1 (max ((s.tile tile).seqAddr i) (s.tile tile).limit) :=
  (if_neg (not_not.mpr ha)).trans (if_pos hlimit)

theorem State.spadAccess_within (ha : (s.tile tile).seqAddr i % i.bytes = 0)
    (hlimit : (s.tile tile).seqAddr i + i.bytes ≤ (s.tile tile).limit) :
    s.spadAccess tile r i ecc f = (s.blur tile).withEcc tile ecc (f ((s.tile tile).seqAddr i)) :=
  (if_neg (not_not.mpr ha)).trans (if_neg (not_lt.mpr hlimit))

end

theorem State.l1Access_eq (s : State) (tile : Nat) (i : SeqInstr) (l : Line) : s.l1Access tile i l =
    s.setTile tile (if i.op = 0x32
      then (((s.tile tile).useLine l).setGr i.rd
        (BitVec.ofNat 64 (leNat (l.read ((s.tile tile).seqAddr i % 128) i.bytes)))).advance
      else ((s.tile tile).useLine (l.write ((s.tile tile).seqAddr i % 128)
        (leBytes i.bytes ((s.tile tile).gr i.rd).toNat))).advance) :=
  (apply_ite (s.setTile tile) ..).symm

/-- What an access does on the line that holds its address, by what it finds there (R61). -/
def State.hitAccess (s : State) (tile : Nat) (i : SeqInstr) (l : Line) : StoreEcc → State
  | .ok => s.l1Access tile i l
  | .corrected w => (s.l1Access tile i l).corrected tile (some w)
  | .tagParity => (s.refetch tile l).corrected tile none
  | .uncorrectable w =>
    if l.mask = 0 then (s.refetch tile l).corrected tile (some w) else s.errorFence tile 0x0D true

theorem State.globalAccess_misaligned (ha : (s.tile tile).seqAddr i % i.bytes ≠ 0) :
    s.globalAccess tile r i ecc = s.seqFault tile r 0x0B (s.tile tile).pc := if_pos ha

section
variable (ha : (s.tile tile).seqAddr i % i.bytes = 0)
include ha

theorem State.globalAccess_confined (hallowed : r.allowed (i.op == 0x33) 0 0 ((s.tile tile).seqAddr i) i.bytes = false) :
    s.globalAccess tile r i ecc = s.confineFault tile r 0 ((s.tile tile).seqAddr i) := by
  simp only [State.globalAccess, if_neg (not_not.mpr ha), hallowed, Bool.not_false, if_true]

variable (hallowed : r.allowed (i.op == 0x33) 0 0 ((s.tile tile).seqAddr i) i.bytes = true)
include hallowed

theorem State.globalAccess_arena (harena : s.inArena r.x.deckle ((s.tile tile).seqAddr i) i.bytes = true) :
    s.globalAccess tile r i ecc = s.accessFault tile r 0x0B 0 ((s.tile tile).seqAddr i) := by
  simp only [State.globalAccess, if_neg (not_not.mpr ha), hallowed, harena, Bool.not_true, Bool.false_eq_true, if_false, if_true]

variable (harena : s.inArena r.x.deckle ((s.tile tile).seqAddr i) i.bytes = false)
include harena

theorem State.globalAccess_miss (hline : (s.tile tile).findLine ((s.tile tile).seqAddr i) = none) :
    s.globalAccess tile r i ecc = s.setTile tile { s.tile tile with blocked := .miss } := by
  simp only [State.globalAccess, if_neg (not_not.mpr ha), hallowed, harena, Bool.not_true, Bool.false_eq_true, if_false, hline]

theorem State.globalAccess_hit {l : Line} (hline : (s.tile tile).findLine ((s.tile tile).seqAddr i) = some l) :
    s.globalAccess tile r i ecc = s.hitAccess tile i l ecc := by
  simp only [State.globalAccess, if_neg (not_not.mpr ha), hallowed, harena, Bool.not_true, Bool.false_eq_true, if_false, hline]
  cases ecc <;> rfl

end

end

/-- A row of loads or stores to local HBM is one access. -/
theorem globalRows_of_issues {s x : State} {tile op : Nat} {r : Run} {i : SeqInstr} {ecc : StoreEcc} (h : Issues s tile op r i)
    (hx : s.globalAccess tile r i ecc = x) :
    (op = 0x32 → execLdg tile ecc s = .next x) ∧ (op = 0x33 → execStg tile ecc s = .next x) :=
  ⟨fun hop => (seqRow_of_issues h hop _).trans (congrArg _ hx), fun hop => (seqRow_of_issues h hop _).trans (congrArg _ hx)⟩

/-- Settles O5: each row is one access, which is misaligned, refused, or served with what it finds. -/
theorem seqMemoryRows : Obligations.SeqMemoryRows := by
  refine ⟨?access, fun s tile f w => ?settle⟩
  case settle =>
    have hblur := s.blur_settles tile
    exact ⟨State.blur_of_nothing_landing, hblur.regs, hblur.hbm, hblur.tile, rfl, rfl, rfl⟩
  case access =>
    intro s tile op r i ecc h
    obtain ⟨_, _, rfl⟩ := id h
    intro t a n hit again done
    have global {x : State} (hx : s.globalAccess tile r i ecc = x) : done x := globalRows_of_issues h hx
    have row {k : Nat} {f : Run → SeqInstr → State} {x : State} (hx : f r i = x) (hop : i.op = k) :
        seqRow k tile s f = .next x := (seqRow_of_issues h hop f).trans (congrArg _ hx)
    refine ⟨fun hop ha hl => row (State.spadAccess_within ha hl) hop, fun hop ha hl => row (State.spadAccess_within ha hl) hop,
      fun hop ha hl => row (State.spadAccess_beyond ha hl) hop, fun hop ha hl => row (State.spadAccess_beyond ha hl) hop,
      fun ha hallowed harena => ⟨fun l hline => ?hit, fun hline => global (State.globalAccess_miss ha hallowed harena hline)⟩,
      fun ha hallowed harena => global (State.globalAccess_arena ha hallowed harena),
      fun ha hallowed => global (State.globalAccess_confined ha hallowed),
      fun ha => ⟨global (State.globalAccess_misaligned ha), row (State.spadAccess_misaligned ha),
        row (State.spadAccess_misaligned ha)⟩⟩
    case hit =>
      have hfound := State.globalAccess_hit (ecc := ecc) ha hallowed harena hline
      have hhit : s.l1Access tile i l = hit l := s.l1Access_eq tile i l
      refine ⟨?ok, ?corrected, ?tag, ?clean, ?dirty⟩
      case ok =>
        rintro rfl
        exact global (hfound.trans hhit)
      case corrected =>
        rintro w rfl
        exact global (hfound.trans (congrArg (·.corrected tile (some w)) hhit))
      case tag =>
        rintro rfl
        exact global hfound
      case clean =>
        rintro w rfl hmask
        exact global (hfound.trans (if_pos hmask))
      case dirty =>
        rintro w rfl hmask
        exact global (hfound.trans (if_neg hmask))

end Sys2Proof.Machine

namespace Sys2Proof.Machine

open Sys2Proof.Claims

/-! ISSUE (R59, R65). -/

section
variable {s : State} {tile op : Nat} {r : Run} {i : SeqInstr}

section
variable {ecc : StoreEcc} (h : Issues s tile op r i) (hop : op = 0x50)
include h hop

theorem execIssue_misaligned (ha : ((s.tile tile).gr i.rs1).toNat % 64 ≠ 0) :
    execIssue tile ecc s = .next (s.seqFault tile r 0x0B (s.tile tile).pc) :=
  (seqRow_of_issues h hop _).trans (congrArg _ (if_pos ha))

theorem execIssue_within (ha : ((s.tile tile).gr i.rs1).toNat % 64 = 0)
    (hlimit : ((s.tile tile).gr i.rs1).toNat + 64 ≤ (s.tile tile).limit) : execIssue tile ecc s =
      .next ((s.blur tile).withEcc tile ecc (State.issueAt tile r i ((s.tile tile).gr i.rs1).toNat)) :=
  (seqRow_of_issues h hop _).trans (congrArg _ ((if_neg (not_not.mpr ha)).trans (if_neg (not_lt.mpr hlimit))))

end

section
variable {a : Nat} (hok : descOk i.func (s.spadRead tile a 64) = true)
variable (hspans : refusedAddr (s.tile tile).limit (descSpans i.func (s.spadRead tile a 64)) = none)
include hok hspans

/-- A sound descriptor is copied into a queue with room, and stalls the sequencer on a full one. -/
theorem State.issueAt_sound : State.issueAt tile r i a s =
    if 16 ≤ ((s.tile tile).queue i.func).length then s.setTile tile { s.tile tile with blocked := .issue }
    else s.setTile tile ((s.tile tile).setQueue i.func ((s.tile tile).queue i.func ++
      [⟨s.spadRead tile a 64, (s.tile tile).pc, false, false, [], 0, false, none⟩])).advance := by
  simp only [State.issueAt, hok, hspans, Bool.not_true, Bool.false_eq_true, if_false]

end

/-! Tokens (R67). -/

theorem State.signal_adds {tok off : Nat} {f : Tile → Tile} (htok : (s.tile tile).tok tok < 255) :
    s.signal tile r tok off f = s.setTile tile (f ((s.tile tile).setTok tok ((s.tile tile).tok tok + 1))) :=
  if_neg (not_le.mpr htok)

theorem State.signal_overflows {tok off : Nat} {f : Tile → Tile} (htok : 255 ≤ (s.tile tile).tok tok) :
    s.signal tile r tok off f = ((s.bump C.TILE_TOKEN_OVF_CNT (groupOf tile)).raiseTo E.TILE_token_overflow [r.x.deckle]
      (groupOf tile)).seqFault tile r 0x0B off :=
  if_pos htok

section
variable (h : Issues s tile op r i)
include h

theorem execWait_takes (hop : op = 0x52) (hcnt : i.cnt ≤ (s.tile tile).tok i.tok)
    (hfirst : (s.tile tile).servesBefore i.tok 10 = false) : execWait tile s =
      .next (s.setTile tile ((s.tile tile).setTok i.tok ((s.tile tile).tok i.tok - i.cnt)).advance) := by
  have hgo : ¬ ((s.tile tile).tok i.tok < i.cnt ∨ (s.tile tile).servesBefore i.tok 10 = true) := by
    simp [hfirst, hcnt]
  exact (seqRow_of_issues h hop _).trans (congrArg _ (if_neg hgo))

theorem execWait_blocks (hop : op = 0x52)
    (hheld : (s.tile tile).tok i.tok < i.cnt ∨ (s.tile tile).servesBefore i.tok 10 = true) :
    execWait tile s = .next (s.setTile tile { s.tile tile with blocked := .wait }) :=
  (seqRow_of_issues h hop _).trans (congrArg _ (if_pos hheld))

/-! FENCE (R128, R129). -/

theorem execFence_passes (hop : op = 0x53) {rb : Bool} (hquiet : (s.tile tile).quiet = true)
    (hdone : i.func = 0 ∨ (s.remoteQuiet (s.tile tile) = true ∧ ((s.tile tile).behind = 0 ∨ rb = true))) :
    execFence tile rb s = .next (s.setTile tile
      { s.tile tile with behind := if i.func = 1 then 0 else (s.tile tile).behind }.advance) :=
  (seqRow_of_issues h hop _).trans (congrArg _ (if_pos ⟨hquiet, hdone⟩))

theorem execFence_blocks (hop : op = 0x53) {rb : Bool} (hheld : (s.tile tile).quiet = false ∨
      (i.func ≠ 0 ∧ (s.tile tile).behind ≠ 0 ∧ rb = false)) :
    execFence tile rb s = .next (s.setTile tile { s.tile tile with blocked := .fence }) := by
  have hstay : ¬ ((s.tile tile).quiet = true ∧
      (i.func = 0 ∨ (s.remoteQuiet (s.tile tile) = true ∧ ((s.tile tile).behind = 0 ∨ rb = true)))) := by
    rcases hheld with hquiet | ⟨hfunc, hbehind, hrb⟩ <;> simp [*]
  exact (seqRow_of_issues h hop _).trans (congrArg _ (if_neg hstay))

/-! MOVS (R88). -/

theorem execMovs_of_special (hop : op = 0x60) {sel : Nat} {v : Word} {u : State} (hsel : i.imm = Int.ofNat sel)
    (hv : s.special tile r sel = (v, u)) : execMovs tile s = .next (u.seqPut tile i.rd v) := by
  rw [execMovs, seqRow_of_issues h hop]
  simp only [hsel, Int.ofNat_eq_natCast, Int.toNat_natCast, hv]

end

theorem State.special_scalar {sel v : Nat} (h : (sel, v) ∈ [(0, r.seq), (1, r.iteration), (2, r.rbeat), (3, r.h.vtile),
    (4, tile), (5, s.handle r.c), (7, s.beatCount)]) : s.special tile r sel = (BitVec.ofNat 64 v, s) := by
  simp only [List.mem_cons, List.not_mem_nil, or_false, Prod.mk.injEq] at h
  rcases h with ⟨rfl, rfl⟩ | ⟨rfl, rfl⟩ | ⟨rfl, rfl⟩ | ⟨rfl, rfl⟩ | ⟨rfl, rfl⟩ | ⟨rfl, rfl⟩ | ⟨rfl, rfl⟩ <;> rfl

theorem State.special_cycles : s.special tile r 6 = (Config.freeWord s.free.1, s.free.2) := rfl

section
variable {k : Nat} {x : Ref} (hk : k < 16) (hx : r.h.refs[k]? = some x)
include hk hx

theorem State.special_start : s.special tile r (0x100 + k) = (BitVec.ofNat 64 (r.ream.range x).start, s) := by
  have hmod : (0x100 + k) % 16 = k := by omega
  have hlow : 0x100 + k < 0x200 := by omega
  have hne (n : Nat) (hn : n < 9) : 0x100 + k ≠ n := by omega
  simp [State.special, hmod, hx, hlow, hne]

theorem State.special_len : s.special tile r (0x200 + k) = (BitVec.ofNat 64 x.len, s) := by
  have hmod : (0x200 + k) % 16 = k := by omega
  have hhigh : ¬ 0x200 + k < 0x200 := by omega
  have hne (n : Nat) (hn : n < 9) : 0x200 + k ≠ n := by omega
  simp [State.special, hmod, hx, hhigh, hne]

end

end

/-- Settles O7: each row of the queues and tokens is one branch on the tile as it stands; MOVS puts the value its selector reads. -/
theorem seqQueueRows : Obligations.SeqQueueRows := by
  intro s tile op r i h t a put
  refine ⟨fun hop ha hl => ⟨fun ecc => execIssue_within h hop ha hl, fun hland hok hspans => ?issue⟩,
    fun hop ha ecc => execIssue_misaligned h hop ha,
    fun hop htok => (seqRow_of_issues h hop _).trans (congrArg _ (State.signal_adds htok)),
    fun hop htok => (seqRow_of_issues h hop _).trans (congrArg _ (State.signal_overflows htok.ge)),
    execWait_takes h, execWait_blocks h, fun hop hfunc hquiet rb => ?here, fun hop hfunc hquiet hremote => ?remote,
    fun hop hfunc hbehind => execFence_blocks h hop (.inr ⟨by omega, hbehind.ne', rfl⟩),
    fun hop hquiet rb => execFence_blocks h hop (.inl hquiet),
    fun hop sel v hsel hv => execMovs_of_special h hop hsel (State.special_scalar hv),
    fun hop k hk x hx => ⟨fun hsel => execMovs_of_special h hop hsel (State.special_start hk hx),
      fun hsel => execMovs_of_special h hop hsel (State.special_len hk hx)⟩,
    fun hop hsel => execMovs_of_special h hop hsel State.special_cycles, fun hop => seqRow_of_issues h hop _⟩
  case issue =>
    have hexec : exec (.issue tile .ok) s = .next (State.issueAt tile r i a s) :=
      (execIssue_within h hop ha hl).trans (by rw [State.blur_of_nothing_landing hland]; rfl)
    have hsound := State.issueAt_sound (r := r) hok hspans
    exact ⟨fun hroom => hexec.trans (congrArg _ (hsound.trans (if_neg (not_le.mpr hroom)))),
      fun hfull => hexec.trans (congrArg _ (hsound.trans (if_pos hfull)))⟩
  case here =>
    have hpass := execFence_passes h hop (rb := rb) hquiet (.inl hfunc)
    rwa [hfunc] at hpass
  case remote =>
    have hpass := execFence_passes h hop hquiet (.inr ⟨hremote, .inr rfl⟩)
    rwa [hfunc] at hpass

end Sys2Proof.Machine

namespace Sys2Proof.Machine

open Sys2Proof.Claims

/-! The life of a descriptor (R67, R68). -/

section
variable {s : State} {tile queue : Nat}

theorem guardUnit_tileOk_and (ht : tile < 12288) {p : Prop} [Decidable p] (hp : p) (s : State) :
    guardUnit (tileOk tile && decide p) s = .next s := by
  rw [decide_eq_true hp, Bool.and_true]
  exact guardUnit_tileOk ht s

theorem State.land_of_nothing_landing (h : (s.tile tile).landing = []) : s.land tile queue = s := by
  simp [State.land, h]

variable {q : Nat × Nat × Nat}
variable (ht : tile < 12288) (hq : queue < 10) (hrun : (s.tile tile).running = some q)
include ht hq hrun

section
variable {i : Nat} {d : QDesc} (hnext : (s.tile tile).nextDesc queue = some (i, d))
include hnext

theorem execDescriptorStart_unconditional (hen : tailWaitEn d.bytes = false) : execDescriptorStart tile queue s =
    .next (s.setTile tile ((s.tile tile).modDesc queue i fun d => { d with started := true })) := by
  rw [execDescriptorStart, guardUnit_tileOk_and ht hq]
  simp [hrun, hnext, hen]

theorem execDescriptorStart_consumes (hen : tailWaitEn d.bytes = true)
    (hcnt : tailWaitCnt d.bytes ≤ (s.tile tile).tok (tailWaitTok d.bytes))
    (hfirst : (s.tile tile).servesBefore (tailWaitTok d.bytes) queue = false) : execDescriptorStart tile queue s =
      .next (s.setTile tile (((s.tile tile).setTok (tailWaitTok d.bytes)
        ((s.tile tile).tok (tailWaitTok d.bytes) - tailWaitCnt d.bytes)).modDesc queue i fun d => { d with started := true })) := by
  have hmet : ¬ (s.tile tile).tok (tailWaitTok d.bytes) < tailWaitCnt d.bytes := by omega
  rw [execDescriptorStart, guardUnit_tileOk_and ht hq]
  simp [hrun, hnext, hen, hmet, hfirst]

theorem execDescriptorStart_waits (hen : tailWaitEn d.bytes = true)
    (hheld : (s.tile tile).tok (tailWaitTok d.bytes) < tailWaitCnt d.bytes ∨
      (s.tile tile).servesBefore (tailWaitTok d.bytes) queue = true) : execDescriptorStart tile queue s = .next s := by
  rw [execDescriptorStart, guardUnit_tileOk_and ht hq]
  simp only [hrun, hnext]
  exact congrArg _ (if_pos ⟨hen, hheld⟩)

end

/-- The head of a queue that has done its work leaves, its units in place, and signals where it is asked to. -/
theorem execDescriptorComplete_done {d : QDesc} {rest : List QDesc} (hqueue : (s.tile tile).queue queue = d :: rest)
    (hacted : d.acted = true) (hbursts : d.bursts = []) (hflying : d.flying = 0) (hwaiting : d.waiting = false) :
    execDescriptorComplete tile queue s =
      let s0 := s.land tile queue
      let s1 := s0.setTile tile ((s0.tile tile).setQueue queue rest)
      .next (if tailSigEn d.bytes then s1.signal tile (s.runOf q) (tailSigTok d.bytes) d.off id else s1) := by
  rw [execDescriptorComplete, guardUnit_tileOk_and ht hq]
  simp [hrun, hqueue, hacted, hbursts, hflying, hwaiting]

end

/-- Settles O10: a start takes its count from the token or waits for it; a completion is the head's leaving and then one signal. -/
theorem descriptorRows : Obligations.DescriptorRows := by
  intro s tile queue q ht hq hrun t
  refine ⟨fun i d hnext => execDescriptorStart_unconditional ht hq hrun hnext,
    fun i d hnext => execDescriptorStart_consumes ht hq hrun hnext, fun i d hnext => execDescriptorStart_waits ht hq hrun hnext,
    fun d rest hqueue hacted hbursts hflying hwaiting => ?complete⟩
  case complete =>
    have hexec := execDescriptorComplete_done ht hq hrun hqueue hacted hbursts hflying hwaiting
    intro s0 u s1 tok
    have hu : s1.tile tile = u := State.tile_setTile_same ..
    have hsignal (hen : tailSigEn d.bytes = true) :
        exec (.descriptorComplete tile queue) s = .next (s1.signal tile (s.runOf q) tok d.off id) :=
      hexec.trans (congrArg _ (if_pos hen))
    refine ⟨fun hen => hexec.trans (congrArg _ (if_neg (Bool.eq_false_iff.mp hen))), fun hen htok => ?adds,
      fun hen _ => hsignal hen, fun hland => State.land_of_nothing_landing hland⟩
    case adds =>
      have hadds : s1.signal tile (s.runOf q) tok d.off id = s1.setTile tile (u.setTok tok (u.tok tok + 1)) := by
        rw [State.signal_adds (hu ▸ htok), hu]
        rfl
      exact (hsignal hen).trans (congrArg _ hadds)

/-! The vector engine (R76-R79). -/

/-- An engine that finds its descriptor started and not acted on acts on it, on its tile as other observers find it. -/
theorem engineRow_of_head {s : State} {tile queue : Nat} {q : Nat × Nat × Nat} {d : QDesc} {ecc : StoreEcc} {p : QDesc → Bool}
    {f : QDesc → State → State} (h : Head s tile queue q d) (hp : p d = true) :
    engineRow queue tile ecc s p f = .next ((s.blur tile).withEcc tile ecc fun s => settled tile s (f d s)) := by
  obtain ⟨ht, hrun, ⟨rest, hqueue⟩, hstarted, hacted⟩ := h
  rw [engineRow, guardUnit_tileOk ht]
  simp only [hrun, hqueue, hstarted, hacted, hp, Bool.not_false, Bool.and_self, if_true]
  rfl

/-- Settles O8: the rows of the vector engine are one row, which acts on the descriptor of its operation. -/
theorem vectorRows : Obligations.VectorRows := by
  intro s tile q d h v act runs
  have row {k : Nat} {f : StoreEcc → Instr} (hf : ∀ ecc, exec (f ecc) s = vectorRow k tile ecc s) (hop : v.op = k) :
      runs f := by
    have hexec (ecc : StoreEcc) : exec (f ecc) s = .next ((s.blur tile).withEcc tile ecc act) :=
      (hf ecc).trans (engineRow_of_head h (beq_iff_eq.mpr hop))
    refine ⟨fun hland => ?_, hexec, fun w => hexec _⟩
    rw [hexec, State.blur_of_nothing_landing hland]
    rfl
  exact ⟨row fun _ => rfl, row fun _ => rfl, row fun _ => rfl, row fun _ => rfl, row fun _ => rfl, row fun _ => rfl,
    row fun _ => rfl, row fun _ => rfl, row fun _ => rfl, row fun _ => rfl, row fun _ => rfl, row fun _ => rfl,
    row fun _ => rfl, row fun _ => rfl, row fun _ => rfl, row fun _ => rfl, row fun _ => rfl, row fun _ => rfl,
    row fun _ => rfl, row fun _ => rfl⟩

/-! What a vector row writes (R77, R97, R99). -/

@[simp] theorem putAll_length (el : Elem) (mode : Nat) (draws : Bool) (xs : List Num) (st : Stream) :
    (putAll el mode draws xs st).1.1.length = xs.length := by
  induction xs generalizing st with
  | nil => rfl
  | cons x xs ih => simp [putAll, ih]

@[simp] theorem packBits_length (w : Nat) (xs : List Nat) : (packBits w xs).length = packedBytes w xs.length := leBytes_length ..

@[simp] theorem Flagged.all_length {α : Type} (l : List (Flagged α)) : (Flagged.all l).1.length = l.length := List.length_map ..

@[simp] theorem State.vecRow_length (s : State) (tile fmt addr n : Nat) : (s.vecRow tile fmt addr n).1.length = n := by
  simp [State.vecRow, unpackBits]

theorem State.engineWrite_spad (s : State) (tile k a : Nat) (d : List Byte) :
    (s.engineWrite tile k a d).spad = (s.spadWrite tile a d).spad := rfl

/-- An elementwise row is one write of as many packed elements as the descriptor has columns. -/
theorem State.vecStep_elementwise (s : State) (tile i : Nat) (v : VectorDesc) (st : Stream) (fl : Flags)
    (hqmx : v.op ≠ 0x21) (hdqmx : v.op ≠ 0x22) (hreduce : isReduce v.op = false) :
    ∃ data, data.length = packedBytes ((elemOf v.outFmt).getD .fp32).width v.cols ∧
      (s.vecStep tile v i st fl).1 = s.engineWrite tile 1 (v.d + i * v.ds) data := by
  unfold State.vecStep
  simp only [hqmx, hdqmx, hreduce, if_false, Bool.false_eq_true]
  refine ⟨_, ?_, rfl⟩
  rw [packBits_length, putAll_length, Flagged.all_length, List.length_map, List.length_zipIdx, State.vecRow_length]

/-- Settles O9: an elementwise row is one write of its own destination, and a write changes no byte outside it. -/
theorem vectorRowFrame : Obligations.VectorRowFrame := by
  intro s tile i v st fl k hqmx hdqmx hreduce out base hout
  obtain ⟨data, (hlen : data.length = packedBytes out.width v.cols), hstep⟩ :=
    s.vecStep_elementwise tile i v st fl hqmx hdqmx hreduce
  rw [hstep, State.engineWrite_spad, State.spadWrite_get, if_neg]
  rw [hlen]
  omega

end Sys2Proof.Machine

namespace Sys2Proof.Machine

/-! DMA descriptors and their bursts (R82, R83, R509). -/

section
variable {s : State} {tile : Nat} {q : Nat × Nat × Nat}
variable (ht : tile < 12288) (hrun : (s.tile tile).running = some q)

section
include ht hrun

theorem execDmaTransfer_cuts {queue i : Nat} {d : QDesc} (hlow : 2 ≤ queue) (hhigh : queue < 10)
    (hgo : (s.tile tile).dmaStop = false)
    (hfind : (s.tile tile).findDesc queue (fun d => d.started && !d.acted && !(dmaDesc d.bytes).isChest) = some (i, d)) :
    execDmaTransfer tile queue s = .next (s.setTile tile ((s.tile tile).modDesc queue i
      fun x => { x with acted := true, bursts := dmaBursts (dmaDesc d.bytes) })) := by
  rw [execDmaTransfer, guardUnit_tileOk_and ht ⟨hlow, hhigh⟩]
  simp only [hrun, hfind, hgo, Bool.false_eq_true, if_false]

end

/-- The next burst `b` of a descriptor takes a slot, `rest` being left of the descriptor. -/
def State.takeSlot (s : State) (tile k i : Nat) (b : Burst) (rest : List Burst) : State :=
  let t := s.tile tile
  s.setTile tile { t.modDesc k i (fun x => { x with bursts := rest, flying := x.flying + 1 }) with
    rotor := k, flightId := t.flightId + 1, flights := t.flights ++ [⟨t.flightId, k, b⟩] }

section
variable {k i : Nat} {d : QDesc} {b : Burst} {rest : List Burst} {ecc : StoreEcc}
variable (hgo : (s.tile tile).dmaStop = false) (hslot : (s.tile tile).flights.length < 64)
variable (hnext : (s.tile tile).nextBurst = some (k, i, d)) (hbursts : d.bursts = b :: rest)
include ht hrun hgo hslot hnext hbursts

theorem execDmaBurstIssue_refused (hcheck : s.checkBurst tile (s.runOf q) b ≠ .ok) : execDmaBurstIssue tile ecc s =
    .next (s.refuseBurst tile (s.runOf q) (s.checkBurst tile (s.runOf q) b)) := by
  rw [execDmaBurstIssue, guardUnit_tileOk ht]
  simp only [hrun, hnext, hgo, hbursts, Bool.false_eq_true, false_or, if_neg (not_le.mpr hslot)]

variable (hcheck : s.checkBurst tile (s.runOf q) b = .ok)
include hcheck

theorem execDmaBurstIssue_unread (hsrc : b.src ≠ 2 ∨ b.fill.isSome = true) (hreads : b.readsTile tile (s.runOf q) = none) :
    execDmaBurstIssue tile ecc s = .next (s.takeSlot tile k i b rest) := by
  have hpeer : ¬ (b.src = 2 ∧ b.fill.isNone = true) := by
    rcases hsrc with hsrc | hfill
    · simp [hsrc]
    · simp [Option.isSome_iff_ne_none.mp hfill]
  rw [execDmaBurstIssue, guardUnit_tileOk ht]
  simp only [hrun, hnext, hgo, hbursts, hcheck, hreads, Bool.false_eq_true, false_or, if_neg (not_le.mpr hslot), if_neg hpeer]
  rfl

theorem execDmaBurstIssue_peer (hsrc : b.src = 2) (hfill : b.fill = none) : execDmaBurstIssue tile ecc s =
    .next ((s.takeSlot tile k i b rest).askPeer tile (s.runOf q) (s.tile tile).flightId b) := by
  have hreads : b.readsTile tile (s.runOf q) = none := by simp [Burst.readsTile, hsrc]
  rw [execDmaBurstIssue, guardUnit_tileOk ht]
  simp only [hrun, hnext, hgo, hbursts, hcheck, hreads, hsrc, hfill, Bool.false_eq_true, false_or, if_neg (not_le.mpr hslot),
    Option.isNone_none, and_self, if_true]
  rfl

theorem execDmaBurstIssue_scratchpad {o : Nat} (hsrc : b.src = 1) (hreads : b.readsTile tile (s.runOf q) = some o) :
    execDmaBurstIssue tile ecc s = .next ((s.takeSlot tile k i b rest).withEcc o ecc id) := by
  have hpeer : ¬ (b.src = 2 ∧ b.fill.isNone = true) := by omega
  rw [execDmaBurstIssue, guardUnit_tileOk ht]
  simp only [hrun, hnext, hgo, hbursts, hcheck, hreads, Bool.false_eq_true, false_or, if_neg (not_le.mpr hslot), if_neg hpeer]
  rfl

end

/-! The effect of a burst (R119, R133, R204). -/

theorem State.landingRun_of_no_landing (hland : s.rst.landing = []) : s.landingRun tile q = s.runOf q := by
  rw [State.landingRun, hland]
  rfl

@[simp] theorem State.demandRead_nil (s : State) (d a n : Nat) : s.demandRead d a n [] = s := by
  simp [State.demandRead, State.each]

/-- A burst from local HBM to the tile's own scratchpad looks at that scratchpad alone. -/
theorem State.blurBurst_own {r : Run} {b : Burst} (hsrc : b.src = 0) (hdst : b.dst = 1) (hsel : b.dsel = r.h.vtile) :
    s.blurBurst tile r b = s.blur tile := by
  simp [State.blurBurst, State.each, hsrc, hdst, hsel, List.eraseDups_cons]

theorem State.burstErrors_nil (s : State) (r : Run) (b : Burst) : s.burstErrors r b [] = s := by
  simp [State.burstErrors]

theorem State.burstData_local {r : Run} {f : Flight} {ext : List Byte} (hfill : f.b.fill = none) (hsrc : f.b.src = 0)
    (hgood : s.localBad r.x.deckle f.b.saddr f.b.size = none) :
    s.burstData tile r f ext = .data (s.localRead r.x.deckle f.b.saddr f.b.size) := by
  simp only [State.burstData, hfill, hsrc, hgood, if_true]

theorem State.burstWrite_own {r : Run} {f : Flight} (hdst : f.b.dst = 1) (hsel : f.b.dsel = r.h.vtile) (d : List Byte) :
    s.burstWrite tile r f d = s.spadWrite tile f.b.daddr d := by
  simp [State.burstWrite, hdst, hsel]

section
variable {id : Nat} {ext : List Byte} {errs : List (Nat × Nat)} {f : Flight}
variable (hfind : (s.tile tile).flights.find? (fun f => f.id == id) = some f)
include ht hfind

theorem execDmaBurstDone_behind (hahead : (s.tile tile).aheadOf f = true) : execDmaBurstDone tile id ext errs s = .next s := by
  rw [execDmaBurstDone, guardUnit_tileOk ht]
  simp only [hfind, hahead, if_true]

variable (hahead : (s.tile tile).aheadOf f = false) (hland : s.rst.landing = [])
include hrun hahead hland

theorem execDmaBurstDone_data {d : List Byte}
    (hdata : ((s.blurBurst tile (s.runOf q) f.b).burstErrors (s.runOf q) f.b errs).burstData tile (s.runOf q) f ext = .data d) :
    execDmaBurstDone tile id ext errs s = .next ((((s.blurBurst tile (s.runOf q) f.b).burstErrors (s.runOf q) f.b
      errs).burstWrite tile (s.runOf q) f d).landFlight tile f) := by
  rw [execDmaBurstDone, guardUnit_tileOk ht]
  simp only [hfind, hahead, hrun, State.landingRun_of_no_landing hland, hdata, Option.isNone_some, Bool.false_eq_true,
    if_false, false_and]

theorem execDmaBurstDone_notYet
    (hdata : ((s.blurBurst tile (s.runOf q) f.b).burstErrors (s.runOf q) f.b errs).burstData tile (s.runOf q) f ext = .notYet) :
    execDmaBurstDone tile id ext errs s = .next ((s.blurBurst tile (s.runOf q) f.b).burstErrors (s.runOf q) f.b errs) := by
  rw [execDmaBurstDone, guardUnit_tileOk ht]
  simp only [hfind, hahead, hrun, State.landingRun_of_no_landing hland, hdata, Option.isNone_some, Bool.false_eq_true,
    if_false]

theorem execDmaBurstDone_bad {st sp a : Nat} (hdata :
      ((s.blurBurst tile (s.runOf q) f.b).burstErrors (s.runOf q) f.b errs).burstData tile (s.runOf q) f ext = .bad st sp a) :
    execDmaBurstDone tile id ext errs s = .next ((((s.blurBurst tile (s.runOf q) f.b).burstErrors (s.runOf q) f.b
      errs).landFlight tile f).readFault tile (s.runOf q) st sp f.b.saddr f.b.size a) := by
  rw [execDmaBurstDone, guardUnit_tileOk ht]
  simp only [hfind, hahead, hrun, State.landingRun_of_no_landing hland, hdata, Option.isNone_some, Bool.false_eq_true,
    if_false]

/-- From local HBM to the tile's own scratchpad, with no write of the tile on its way: the bytes read are written. -/
theorem execDmaBurstDone_local (hquiet : (s.tile tile).landing = []) (hfill : f.b.fill = none) (hsrc : f.b.src = 0)
    (hdst : f.b.dst = 1) (hsel : f.b.dsel = (s.runOf q).h.vtile)
    (hgood : s.localBad (s.runOf q).x.deckle f.b.saddr f.b.size = none) : execDmaBurstDone tile id ext [] s =
      .next ((s.spadWrite tile f.b.daddr (s.localRead (s.runOf q).x.deckle f.b.saddr f.b.size)).landFlight tile f) := by
  have hsame : (s.blurBurst tile (s.runOf q) f.b).burstErrors (s.runOf q) f.b [] = s := by
    rw [State.burstErrors_nil, State.blurBurst_own hsrc hdst hsel, State.blur_of_nothing_landing hquiet]
  have hdata := State.burstData_local (tile := tile) (ext := ext) hfill hsrc hgood
  have hdone := execDmaBurstDone_data ht hrun hfind hahead hland (errs := []) (by rw [hsame]; exact hdata)
  rwa [hsame, State.burstWrite_own hdst hsel] at hdone

end

end

/-- Settles O12: a transfer cuts, an issue is refused or takes a slot, and a burst that is ahead of none it must follow is done
with what its source gives. -/
theorem dmaRows : Obligations.DmaRows := by
  intro s tile queue q ht hrun t r
  refine ⟨fun hlow hhigh hgo i d => execDmaTransfer_cuts ht hrun hlow hhigh hgo,
    fun hgo hslot k i d b rest ecc hnext hbursts => ⟨fun hcheck => ?issue, ?refuse⟩,
    fun id ext errs f hfind => ⟨execDmaBurstDone_behind ht hfind, fun hahead hland => ?done⟩⟩
  case issue =>
    exact ⟨execDmaBurstIssue_unread ht hrun hgo hslot hnext hbursts hcheck,
      execDmaBurstIssue_peer ht hrun hgo hslot hnext hbursts hcheck,
      fun o => execDmaBurstIssue_scratchpad ht hrun hgo hslot hnext hbursts hcheck⟩
  case refuse => exact execDmaBurstIssue_refused ht hrun hgo hslot hnext hbursts
  case done =>
    exact ⟨fun d => execDmaBurstDone_data ht hrun hfind hahead hland, execDmaBurstDone_notYet ht hrun hfind hahead hland,
      fun st sp a => execDmaBurstDone_bad ht hrun hfind hahead hland,
      execDmaBurstDone_local ht hrun hfind hahead hland⟩

end Sys2Proof.Machine

namespace Sys2Proof.Machine

/-! What a fence of a tile leaves (R90, R189, R410): it writes the journal, but no scratchpad, and no tile but the fenced one. -/

/-- `t` has the tiles and the scratchpads of `s`. -/
structure LeavesTiles (s t : State) : Prop where
  tiles : t.tiles = s.tiles
  spad : t.spad = s.spad

/-- `t` has the scratchpads and the HBM of `s`. -/
structure LeavesMemory (s t : State) : Prop where
  spad : t.spad = s.spad
  hbm : t.hbm = s.hbm

/-- `t` has the memory of `s`, but HBM may differ where an error has fenced the tile (R189). -/
structure LeavesMemoryButFence (tile : Nat) (s t : State) : Prop where
  spad : t.spad = s.spad
  hbm : (t.tile tile).state ≠ .draining → t.hbm = s.hbm

section
variable {s t u : State}

theorem LeavesTiles.refl (s : State) : LeavesTiles s s := ⟨rfl, rfl⟩

theorem LeavesTiles.trans (h : LeavesTiles s t) (k : LeavesTiles t u) : LeavesTiles s u :=
  ⟨k.tiles.trans h.tiles, k.spad.trans h.spad⟩

theorem LeavesTiles.ite {c : Prop} {_ : Decidable c} (h : LeavesTiles s t) (k : LeavesTiles s u) :
    LeavesTiles s (if c then t else u) := by split <;> assumption

theorem LeavesTiles.when {c : Bool} {f : State → State} (h : LeavesTiles s t) (hf : LeavesTiles t (f t)) :
    LeavesTiles s (t.when c f) := .ite (h.trans hf) h

theorem Shows.when {c : Bool} {f : State → State} (h : Shows s t) (hf : Shows t (f t)) : Shows s (t.when c f) :=
  .ite (h.trans hf) h

theorem Reports.leavesTiles (h : Reports s t) : LeavesTiles s t := ⟨h.tiles, h.spad⟩

theorem Reports.leavesMemory (h : Reports s t) : LeavesMemory s t := ⟨h.spad, h.hbm⟩

theorem LeavesMemory.butFence (h : LeavesMemory s t) (tile : Nat) : LeavesMemoryButFence tile s t := ⟨h.spad, fun _ => h.hbm⟩

theorem LeavesMemory.thenFence {tile : Nat} (h : LeavesMemory s t) (k : LeavesMemoryButFence tile t u) :
    LeavesMemoryButFence tile s u :=
  ⟨k.spad.trans h.spad, fun hst => (k.hbm hst).trans h.hbm⟩

theorem State.journal_leavesTiles (s : State) (d : Nat) (e : JEntry) : LeavesTiles s (s.journal d e) := by
  have hentry (a : Nat) (l : List Byte) (i : Nat) :
      LeavesTiles s ((s.localWrite d a l).fset F.HEADBOX_JRNL_HEAD_written i 0 (ofDeckle d)) :=
    ⟨by simp, by simp⟩
  unfold State.journal
  exact .ite (.refl s) ((hentry ..).when ((State.bump_shows ..).trans (State.raiseTo_shows ..)).reports.leavesTiles)

theorem State.dropEntry_leavesTiles (s : State) (c cause beat i : Nat) : LeavesTiles s (s.dropEntry c cause beat i) :=
  State.journal_leavesTiles ..

theorem State.unbindLost_leavesTiles (s : State) (tile c v : Nat) : LeavesTiles s (s.unbindLost tile c v) := by
  refine LeavesTiles.trans ?_ (State.setCtx_reports ..).leavesTiles
  exact List.foldlRecOn (motive := LeavesTiles s) _ _ (.refl s) fun t h i _ => h.trans (t.dropEntry_leavesTiles ..)

theorem State.loseSheet_leavesTiles (s : State) (tile : Nat) (r : Nat × Nat × Nat) : LeavesTiles s (s.loseSheet tile r) := by
  have hlost (x : Ctx) : Reports s (s.setCtx r.1 x) := State.setCtx_reports ..
  exact LeavesTiles.ite ((hlost _).trans (State.faultWith_reports ..)).leavesTiles (hlost _).leavesTiles

/-- A fence leaves a tile that is not in service as it is; any other it sets draining. -/
theorem State.fenceTile_cases (s : State) (tile cause : Nat) (error : Bool) : s.fenceTile tile cause error = s ∨
    ∃ x : Tile, x.state = .draining ∧ LeavesTiles (s.setTile tile x) (s.fenceTile tile cause error) := by
  unfold State.fenceTile
  extract_lets t again blank x s1 s2 s3
  split
  · exact .inl rfl
  · refine .inr ⟨x, rfl, ?_⟩
    have hadd : LeavesTiles (s.setTile tile x) s1 := ⟨rfl, rfl⟩
    have hshow : LeavesTiles s1 s2 := ((State.bump_shows ..).trans (State.raiseTo_shows ..)).reports.leavesTiles
    have hbind : LeavesTiles s2 s3 := by
      unfold s3
      split
      · exact State.unbindLost_leavesTiles ..
      · exact .refl s2
    have hfenced := (hadd.trans hshow).trans hbind
    split
    · exact hfenced.trans (State.loseSheet_leavesTiles ..)
    · exact hfenced

theorem State.fenceTile_leaves (s : State) (tile cause : Nat) (error : Bool) :
    LeavesMemoryButFence tile s (s.fenceTile tile cause error) := by
  rcases s.fenceTile_cases tile cause error with h | ⟨x, hx, h⟩
  · rw [h]
    exact ⟨rfl, fun _ => rfl⟩
  · refine ⟨h.spad.trans rfl, fun hst => absurd ?_ hst⟩
    rw [State.tile_of_tiles_eq h.tiles, State.tile_setTile_same, hx]

theorem State.errorFence_leaves (s : State) (tile cause : Nat) (ue : Bool) :
    LeavesMemoryButFence tile s (s.errorFence tile cause ue) := by
  unfold State.errorFence
  extract_lets ok s1 owner s2
  have hue : Shows s s1 := (Shows.refl s).when ((State.bump_shows ..).trans (State.raiseTo_shows ..))
  have hlog : Shows s s2 := hue.when (State.logFault_shows ..)
  exact hlog.reports.leavesMemory.thenFence (State.fenceTile_leaves ..)

theorem State.corrected_leaves (s : State) (tile : Nat) (word : Option Nat) :
    LeavesMemoryButFence tile s (s.corrected tile word) := by
  unfold State.corrected
  extract_lets ces old s1 ofWord ofTile
  have hbump := (State.bump_shows { s with rst := { s.rst with ces } } C.TILE_ECC_CE_CNT (groupOf tile)).reports
  have hcount : LeavesMemory s s1 := ⟨hbump.spad, hbump.hbm⟩
  split
  · exact hcount.thenFence (State.errorFence_leaves ..)
  · exact hcount.butFence tile

end

/-! Accesses of the sequencer (R61, R87). -/

section
variable (s : State) (tile : Nat) (r : Run)

theorem State.seqFault_leaves (status off : Nat) : LeavesMemory s (s.seqFault tile r status off) :=
  let h := State.faultWith_reports ..
  ⟨h.spad, h.hbm⟩

theorem State.accessFault_leaves (status space addr : Nat) : LeavesMemory s (s.accessFault tile r status space addr) :=
  let h := State.faultWith_reports ..
  ⟨h.spad, h.hbm⟩

theorem State.confineFault_leaves (space addr : Nat) : LeavesMemory s (s.confineFault tile r space addr) :=
  let h := ((State.bump_shows ..).trans (State.raiseTo_shows ..)).reports
  let k := State.accessFault_leaves ..
  ⟨k.spad.trans h.spad, k.hbm.trans h.hbm⟩

theorem State.setTile_leaves (x : Tile) : LeavesMemory s (s.setTile tile x) := ⟨rfl, rfl⟩

theorem State.l1Access_leaves (i : SeqInstr) (l : Line) : LeavesMemory s (s.l1Access tile i l) := by
  rw [State.l1Access_eq]
  exact s.setTile_leaves tile _

theorem State.refetch_leaves (l : Line) : LeavesMemory s (s.refetch tile l) := s.setTile_leaves tile _

/-- A load or store of local HBM goes to the L1. -/
theorem State.globalAccess_leaves (i : SeqInstr) (ecc : StoreEcc) :
    LeavesMemoryButFence tile s (s.globalAccess tile r i ecc) := by
  unfold State.globalAccess
  extract_lets t a
  split
  · exact (s.seqFault_leaves ..).butFence tile
  split
  · exact (s.confineFault_leaves ..).butFence tile
  split
  · exact (s.accessFault_leaves ..).butFence tile
  split
  · split
    · exact (s.l1Access_leaves ..).butFence tile
    · exact (s.l1Access_leaves ..).thenFence (State.corrected_leaves ..)
    · exact (s.refetch_leaves ..).thenFence (State.corrected_leaves ..)
    · split
      · exact (s.refetch_leaves ..).thenFence (State.corrected_leaves ..)
      · exact s.errorFence_leaves ..
  · exact (s.setTile_leaves ..).butFence tile

/-- With what it finds, an access is made or not, and the tile may then be fenced. -/
theorem State.withEcc_leaves (ecc : StoreEcc) (f : State → State) :
    ∃ u, (u = s ∨ u = f s) ∧ LeavesMemoryButFence tile u (s.withEcc tile ecc f) := by
  cases ecc with
  | ok => exact ⟨f s, .inr rfl, rfl, fun _ => rfl⟩
  | tagParity => exact ⟨f s, .inr rfl, rfl, fun _ => rfl⟩
  | corrected w => exact ⟨f s, .inr rfl, (f s).corrected_leaves ..⟩
  | uncorrectable w => exact ⟨s, .inl rfl, s.errorFence_leaves ..⟩

/-- A scratchpad access faults, or it is made or not on the scratchpad as it finds it. -/
theorem State.spadAccess_leaves (i : SeqInstr) (ecc : StoreEcc) (f : Nat → State → State) :
    ∃ u, (u = s ∨ u = s.blur tile ∨ u = f ((s.tile tile).seqAddr i) (s.blur tile)) ∧
      LeavesMemoryButFence tile u (s.spadAccess tile r i ecc f) := by
  unfold State.spadAccess
  extract_lets t a
  split
  · exact ⟨s, .inl rfl, (s.seqFault_leaves ..).butFence tile⟩
  split
  · exact ⟨s, .inl rfl, (s.accessFault_leaves ..).butFence tile⟩
  · obtain ⟨u, hu, h⟩ := (s.blur tile).withEcc_leaves tile ecc (f a)
    exact ⟨u, .inr hu, h⟩

end

/-! Bytes of scratchpad on which no unit of an engine write is on its way (R121). -/

theorem State.settleUnits_get {tile k : Nat} {l : List (Nat × Nat × List Byte)} (s : State)
    (hk : ∀ u ∈ l, ¬ (tile * spadBytes + u.2.1 ≤ k ∧ k < tile * spadBytes + u.2.1 + u.2.2.length)) :
    (State.settleUnits tile l s).spad.get (fun _ => 0) k = s.spad.get (fun _ => 0) k := by
  induction l generalizing s with
  | nil => rfl
  | cons unit rest ih =>
    obtain ⟨hunit, hrest⟩ := List.forall_mem_cons.mp hk
    rw [State.settleUnits]
    split
    · exact ih _ hrest
    · rw [ih _ hrest, State.spadWrite_get, if_neg hunit]
      rfl

theorem State.blur_get {s : State} {tile k : Nat} (hk : ∀ u ∈ (s.tile tile).landing,
      ¬ (tile * spadBytes + u.2.1 ≤ k ∧ k < tile * spadBytes + u.2.1 + u.2.2.length)) :
    (s.blur tile).spad.get (fun _ => 0) k = s.spad.get (fun _ => 0) k := by
  unfold State.blur
  extract_lets t
  split
  · rfl
  · exact State.settleUnits_get _ hk

/-! The rows (R86). -/

section
variable {s t : State} {tile : Nat} {ecc : StoreEcc}

/-- A load leaves the scratchpads as it finds them. -/
theorem execLds_leaves (h : execLds tile ecc s = .next t) :
    ∃ u, (u = s ∨ u = s.blur tile) ∧ LeavesMemoryButFence tile u t := by
  rcases seqRow_next h with rfl | ⟨r, i, -, -, rfl⟩
  · exact ⟨t, .inl rfl, rfl, fun _ => rfl⟩
  · obtain ⟨u, rfl | rfl | rfl, hu⟩ := s.spadAccess_leaves tile r i ecc fun a s =>
      s.seqPut tile i.rd (BitVec.ofNat 64 (leNat (s.spadRead tile a i.bytes)))
    · exact ⟨_, .inl rfl, hu⟩
    · exact ⟨_, .inr rfl, hu⟩
    · exact ⟨_, .inr rfl, (State.setTile_leaves ..).thenFence hu⟩

/-- The scratchpads with the bytes that a store puts at the address it computes. -/
def State.stored (s : State) (tile : Nat) (i : SeqInstr) : State :=
  (s.blur tile).spadWrite tile ((s.tile tile).seqAddr i) (leBytes i.bytes (((s.blur tile).tile tile).gr i.rd).toNat)

theorem execSts_leaves (h : execSts tile ecc s = .next t) :
    (∃ u, (u = s ∨ u = s.blur tile) ∧ LeavesMemoryButFence tile u t) ∨ ∃ r i, s.nextInstr tile = some (r, i) ∧ LeavesMemoryButFence tile (s.stored tile i) t := by
  rcases seqRow_next h with rfl | ⟨r, i, hnext, -, rfl⟩
  · exact .inl ⟨t, .inl rfl, rfl, fun _ => rfl⟩
  · obtain ⟨u, rfl | rfl | rfl, hu⟩ := s.spadAccess_leaves tile r i ecc fun a s =>
      (s.spadWrite tile a (leBytes i.bytes ((s.tile tile).gr i.rd).toNat)).setTile tile (s.tile tile).advance
    · exact .inl ⟨_, .inl rfl, hu⟩
    · exact .inl ⟨_, .inr rfl, hu⟩
    · exact .inr ⟨r, i, hnext, (State.setTile_leaves ..).thenFence hu⟩

theorem seqRow_globalAccess_leaves {k : Nat} (h : seqRow k tile s (fun r i => s.globalAccess tile r i ecc) = .next t) :
    LeavesMemoryButFence tile s t := by
  rcases seqRow_next h with rfl | ⟨r, i, -, -, rfl⟩
  · exact ⟨rfl, fun _ => rfl⟩
  · exact s.globalAccess_leaves ..

end

/-- Settles O57: an access leaves the memory as it finds it, but for what it stores and for the journal of a fence; what it finds
differs from what was there in units of engine writes alone. -/
theorem storeFrame : Obligations.StoreFrame := by
  intro s t tile ecc base placed
  have hblur (k : Nat) (hk : ¬ placed k) : (s.blur tile).spad.get (fun _ => 0) k = s.spad.get (fun _ => 0) k :=
    State.blur_get fun u hu hin => hk ⟨u, hu, hin⟩
  have hhbm {u : State} (hu : u = s ∨ u = s.blur tile) : u.hbm = s.hbm := by
    rcases hu with rfl | rfl
    · rfl
    · exact (s.blur_settles tile).hbm
  have hfound {u : State} (hu : u = s ∨ u = s.blur tile) (k : Nat) (hk : ¬ placed k) :
      u.spad.get (fun _ => 0) k = s.spad.get (fun _ => 0) k := by
    rcases hu with rfl | rfl
    · rfl
    · exact hblur k hk
  refine ⟨?hbm, ?sts, ?lds, ?l1⟩
  case hbm =>
    intro c hc h hst
    simp only [List.mem_cons, List.not_mem_nil, or_false] at hc
    rcases hc with rfl | rfl | rfl | rfl
    · rcases execSts_leaves h with ⟨u, hu, hleaves⟩ | ⟨r, i, -, hleaves⟩
      · exact (hleaves.hbm hst).trans (hhbm hu)
      · exact (hleaves.hbm hst).trans (s.blur_settles tile).hbm
    · obtain ⟨u, hu, hleaves⟩ := execLds_leaves h
      exact (hleaves.hbm hst).trans (hhbm hu)
    · exact (seqRow_globalAccess_leaves h).hbm hst
    · exact (seqRow_globalAccess_leaves h).hbm hst
  case sts =>
    intro h r i hnext at_ k hout hk
    rcases execSts_leaves h with ⟨u, hu, hleaves⟩ | ⟨r', i', hnext', hleaves⟩
    · rw [hleaves.spad]
      exact hfound hu k hk
    · obtain ⟨rfl, rfl⟩ : r' = r ∧ i' = i := by simpa [hnext] using hnext'.symm
      rw [hleaves.spad, State.stored, State.spadWrite_get, leBytes_length, if_neg (by omega)]
      exact hblur k hk
  case lds =>
    intro h k hk
    obtain ⟨u, hu, hleaves⟩ := execLds_leaves h
    rw [hleaves.spad]
    exact hfound hu k hk
  case l1 =>
    intro c hc h
    simp only [List.mem_cons, List.not_mem_nil, or_false] at hc
    rcases hc with rfl | rfl
    · exact (seqRow_globalAccess_leaves h).spad
    · exact (seqRow_globalAccess_leaves h).spad

end Sys2Proof.Machine

namespace Sys2Proof.Machine

open Sys2Proof.Claims

/-! Cache operations (R123). -/

/-- A cache operation over a range acts on a line: one of the range has its address. -/
def Tile.inRange (t : Tile) (a n : Nat) (l : Line) : Bool := (t.linesIn a n).any fun m => m.addr == l.addr

/-- The lines of a cache operation's range dropped. -/
def Tile.dropRange (t : Tile) (a n : Nat) : Tile := { t with l1 := t.l1.filter fun l => !t.inRange a n l }

/-- The lines of a cache operation's range kept, with no byte dirty. -/
def Tile.cleanRange (t : Tile) (a n : Nat) : Tile :=
  { t with l1 := t.l1.map fun l => if t.inRange a n l then { l with mask := 0 } else l }

/-- The lines that a cache operation keeps. -/
theorem Tile.filterMap_inRange (t : Tile) (a n : Nat) (drop : Bool) : { t with
      l1 := t.l1.filterMap fun l => if t.inRange a n l then (if drop then none else some { l with mask := 0 }) else some l } =
    if drop then t.dropRange a n else t.cleanRange a n := by
  cases drop with
  | true =>
    have hkeep : (fun l : Line => if t.inRange a n l then none else some l) = Option.guard fun l => !t.inRange a n l := by
      funext l
      cases hl : t.inRange a n l <;> simp [Option.guard, hl]
    simp only [Tile.dropRange, if_true, hkeep, List.filterMap_eq_filter]
  | false =>
    have hkeep : (fun l : Line => if t.inRange a n l then some { l with mask := 0 } else some l) =
        some ∘ fun l => if t.inRange a n l then { l with mask := 0 } else l := by
      funext l
      exact (apply_ite some ..).symm
    simp only [Tile.cleanRange, Bool.false_eq_true, if_false, hkeep, List.filterMap_eq_map]

section
variable {s : State} {tile : Nat} {r : Run} {i : SeqInstr}

/-- Over a range that is empty or inside local HBM, a cache operation writes back or not, and drops the lines or keeps them clean. -/
theorem State.cacheOp_within {a n : Nat} (ha : ((s.tile tile).gr i.rs1).toNat = a) (hn : ((s.tile tile).gr i.rs2).toNat = n)
    (hin : n = 0 ∨ a + n ≤ s.localSize r.x.deckle) (wb drop : Bool) : s.cacheOp tile r i wb drop =
      (if wb then s.writeBackAll r.x.deckle ((s.tile tile).linesIn a n) else s).setTile tile
        (if drop then (s.tile tile).dropRange a n else (s.tile tile).cleanRange a n).advance := by
  subst ha hn
  have hreach : ¬ (((s.tile tile).gr i.rs2).toNat ≠ 0 ∧
      s.localSize r.x.deckle < ((s.tile tile).gr i.rs1).toNat + ((s.tile tile).gr i.rs2).toNat) := by omega
  rw [← Tile.filterMap_inRange]
  exact if_neg hreach

end

/-! The fill of a line (R122, R204). -/

/-- The line that the access of a tile waits for. -/
def Tile.missBase (t : Tile) (i : SeqInstr) : Nat := t.seqAddr i / 128 * 128

/-- A tile that waits for the line of its instruction `i`, in the run `q` of a sheet. -/
structure State.Misses (s : State) (tile : Nat) (q : Nat × Nat × Nat) (i : SeqInstr) : Prop where
  unit : tile < 12288
  running : (s.tile tile).running = some q
  blocked : (s.tile tile).blocked = .miss
  instr : ∃ w, (s.tile tile).prog[(s.tile tile).pc / 8]? = some w ∧ decodeSeq w = some i

section
variable {s : State} {tile : Nat} {q : Nat × Nat × Nat} {i : SeqInstr} {errs : List (Nat × Nat)} (h : s.Misses tile q i)
include h

/-- A fill reads the line at its home, and fails, or puts it in the place of the set's least recently used line. -/
theorem execL1FillDone_misses : execL1FillDone tile errs s =
    let t := s.tile tile
    let d := (s.runOf q).x.deckle
    let base := t.missBase i
    let s1 := s.demandRead d base 128 errs
    .next (match s1.localBad d base 128 with
      | some (status, at_) => s1.readFault tile (s.runOf q) status 0 base 128 at_
      | none =>
        ((match t.victim base with | some v => s1.writeBack d v | none => s1).setTile tile
          { t with
            l1 := match t.victim base with | some v => t.l1.filter fun l => l.addr != v.addr | none => t.l1
            blocked := .no }).l1Access tile i ⟨base, s1.localRead d base 128, 0⟩) := by
  obtain ⟨ht, hrun, hblocked, w, hw, hi⟩ := h
  rw [execL1FillDone, guardUnit_tileOk ht]
  simp only [hrun, hw, hblocked, hi, ne_eq, not_true_eq_false, if_false]
  rfl

theorem execL1FillDone_unreadable {status a : Nat}
    (hbad : (s.demandRead (s.runOf q).x.deckle ((s.tile tile).missBase i) 128 errs).localBad (s.runOf q).x.deckle
      ((s.tile tile).missBase i) 128 = some (status, a)) :
    execL1FillDone tile errs s = .next ((s.demandRead (s.runOf q).x.deckle ((s.tile tile).missBase i) 128 errs).readFault tile
      (s.runOf q) status 0 ((s.tile tile).missBase i) 128 a) := by
  rw [execL1FillDone_misses h]
  simp only [hbad]

section
variable (hgood : s.localBad (s.runOf q).x.deckle ((s.tile tile).missBase i) 128 = none)
include hgood

theorem execL1FillDone_room (hroom : (s.tile tile).victim ((s.tile tile).missBase i) = none) :
    execL1FillDone tile [] s = .next ((s.setTile tile { s.tile tile with blocked := .no }).l1Access tile i
      ⟨(s.tile tile).missBase i, s.localRead (s.runOf q).x.deckle ((s.tile tile).missBase i) 128, 0⟩) := by
  rw [execL1FillDone_misses h]
  simp only [State.demandRead_nil, hgood, hroom]

theorem execL1FillDone_evicts {v : Line} (hfull : (s.tile tile).victim ((s.tile tile).missBase i) = some v) :
    execL1FillDone tile [] s = .next (((s.writeBack (s.runOf q).x.deckle v).setTile tile
      { s.tile tile with l1 := (s.tile tile).l1.filter fun l => l.addr != v.addr, blocked := .no }).l1Access tile i
        ⟨(s.tile tile).missBase i, s.localRead (s.runOf q).x.deckle ((s.tile tile).missBase i) 128, 0⟩) := by
  rw [execL1FillDone_misses h]
  simp only [State.demandRead_nil, hgood, hfull]

end

end

/-- Settles O6: a cache row is one operation on the lines of its range; a fill has room, evicts, or cannot read the line. -/
theorem l1Rows : Obligations.L1Rows := by
  refine ⟨?range, ?fill, ?unreadable⟩
  case range =>
    intro s tile op r i h t a n hit home drop clean hin
    have row {k : Nat} (wb dropped : Bool) (hop : op = k) :
        seqRow k tile s (fun r i => s.cacheOp tile r i wb dropped) =
          .next ((if wb then home else s).setTile tile (if dropped then drop else clean)) := by
      rw [seqRow_of_issues h hop, State.cacheOp_within rfl rfl hin]
      cases dropped <;> rfl
    exact ⟨row false true, row true false, row true true⟩
  case fill =>
    intro s tile q w i t d base line ht hrun hblocked hw hi hgood
    have hmiss : s.Misses tile q i := ⟨ht, hrun, hblocked, w, hw, hi⟩
    exact ⟨execL1FillDone_room hmiss hgood, fun v => execL1FillDone_evicts hmiss hgood⟩
  case unreadable =>
    intro s tile q w i errs t r base s1 ht hrun hblocked hw hi st a hbad
    exact execL1FillDone_unreadable ⟨ht, hrun, hblocked, w, hw, hi⟩ hbad

end Sys2Proof.Machine

namespace Sys2Proof.Machine

open Sys2Proof.Claims

/-! Chest commands of the host (R160, R161). -/

section
variable {s : State} {r : CmdRef} {k : Cmd} {i : Nat}

/-! CHEST_CREATE. -/

/-- The fields that CHEST_CREATE sets go together (R140). -/
def Cmd.newOk (k : Cmd) : Bool :=
  createOk (k.op 0x18 0 1) (k.op 0x18 1 3) (k.op 0x18 4 2) (k.op 0x18 6 1) (k.op 0x18 16 9) (k.op 0x1C 0 32)

/-- A block that CHEST_CREATE makes, by its first token. -/
def Cmd.newBlock (k : Cmd) : Nat → Block :=
  Block.fresh (k.op 0x18 0 1) (k.op 0x18 1 3) (k.op 0x18 4 2) (k.op 0x18 6 1) (k.op 0x18 16 9) (k.op 0x1C 0 32)

/-- The first token of the `n`th such block. -/
def Cmd.newToken (k : Cmd) (n : Nat) : Nat := if k.op 0x18 0 1 = 0 then (k.op 0x20 0 48 + 64 * n) % 2 ^ 48 else 0

section
variable (h : OnCtx s r 0x20 k i) (hok : k.newOk = true)
include h hok

/-- Sound fields given, a creation turns on the range and on the room in the arena. -/
theorem execChestCreate_eq : execChestCreate r s = .next (
    if !((s.ctx i).created k.first k.count).isEmpty then s.finish k 0x07
    else if s.arenaFree (s.ctx i).deckle < k.count * (k.newBlock 0).arena then s.finish k 0x0C
    else (s.arenaChange (s.ctx i).deckle fun s => s.modCtx i fun y =>
      y.putBlocks ((List.range k.count).map fun n => (k.first + n, k.newBlock (k.newToken n)))).finish k 0) := by
  have hgood : ¬ (!k.newOk) = true := by simp [hok]
  rw [execChestCreate, ctxRow_onCtx h]
  exact congrArg _ (if_neg hgood)

theorem execChestCreate_busy (hused : (s.ctx i).created k.first k.count ≠ []) :
    execChestCreate r s = .next (s.finish k 0x07) := by
  simp [execChestCreate_eq h hok, hused]

variable (hnew : (s.ctx i).created k.first k.count = [])
include hnew

theorem execChestCreate_full (hfull : s.arenaFree (s.ctx i).deckle < k.count * (k.newBlock 0).arena) :
    execChestCreate r s = .next (s.finish k 0x0C) := by
  simp [execChestCreate_eq h hok, hnew, hfull]

theorem execChestCreate_room (hroom : k.count * (k.newBlock 0).arena ≤ s.arenaFree (s.ctx i).deckle) :
    execChestCreate r s = .next ((s.arenaChange (s.ctx i).deckle fun s => s.modCtx i fun y =>
      y.putBlocks ((List.range k.count).map fun n => (k.first + n, k.newBlock (k.newToken n)))).finish k 0) := by
  simp [execChestCreate_eq h hok, hnew, Nat.not_lt.mpr hroom]

end

/-! CHEST_FREE. -/

theorem execChestFree_onCtx (h : OnCtx s r 0x21 k i) : execChestFree r s = .next (s.freeBlocks k i) := by
  obtain ⟨htakes, hlive, hdeckle, haccepts⟩ := h
  have hown : (s.ctx i).deckle = k.fn - 4 := by omega
  rw [execChestFree, cmdRow_takes htakes]
  simp only [hlive, hown, haccepts, ne_eq, not_true_eq_false, if_false, if_true]

section
variable (h : Takes s r 0x21 k) (hlive : s.live k.ctx = none)
include h hlive

theorem execChestFree_stale (hnone : (s.deckle (k.fn - 4)).orphans = []) : execChestFree r s = .next (s.finish k 0x04) := by
  rw [execChestFree, cmdRow_takes h]
  simp [hlive, hnone]

theorem execChestFree_orphan (horphan : (s.deckle (k.fn - 4)).orphans.any (fun o => o.1 == k.ctx) = true) :
    execChestFree r s = .next ((s.arenaChange (k.fn - 4) fun t => t.setDeckle (k.fn - 4) { s.deckle (k.fn - 4) with
      orphans := ((s.deckle (k.fn - 4)).orphans.map fun o =>
        if o.1 = k.ctx then (o.1, dropBlocks o.2 k.first k.count) else o).filter fun o => !o.2.isEmpty }).finish k 0) := by
  rw [execChestFree, cmdRow_takes h]
  simp only [hlive, horphan, if_true]

end

/-! CHEST_REENCODE and CHEST_READ_DESC. -/

theorem execChestReencode_allowed (h : OnCtx s r 0x22 k i) (henc : k.op 0x18 0 3 ≤ 4)
    (hall : ∀ b ∈ ((s.ctx i).created k.first k.count).filter fun b => b.2.valid,
      encOk b.2.kind (k.op 0x18 0 3) b.2.xenc = true) :
    execChestReencode r s = .next (if (s.ctx i).started then s.finish k 0x07
      else s.reencodeAll k i (k.op 0x18 0 3) (((s.ctx i).created k.first k.count).filter fun b => b.2.valid)) := by
  have hgood : ¬ (decide (4 < k.op 0x18 0 3) || (((s.ctx i).created k.first k.count).filter fun b => b.2.valid).any
      fun b => !encOk b.2.kind (k.op 0x18 0 3) b.2.xenc) = true := by
    rw [Bool.or_eq_true, decide_eq_true_eq, List.any_eq_true]
    rintro (hlt | ⟨b, hb, hbad⟩)
    · omega
    · simp [hall b hb] at hbad
  rw [execChestReencode, ctxRow_onCtx h]
  exact congrArg _ (if_neg hgood)

theorem execChestReadDesc_buffered (h : OnCtx s r 0x23 k i) (hsome : (s.ctx i).created k.first k.count ≠ [])
    (hbuf : s.inBuffer (s.ctx i).deckle (k.op 0x18 0 64) (64 * k.count) = true) :
    execChestReadDesc r s = .next ((s.each ((s.ctx i).created k.first k.count) fun s b =>
      s.emit (.hostWrite (k.op 0x18 0 64 + 64 * (b.1 - k.first)) b.2.descriptor)).finish k 0) := by
  rw [execChestReadDesc, ctxRow_onCtx h]
  simp [hsome, hbuf]

/-! CHEST_EXPORT. -/

/-- The bytes that CHEST_EXPORT sends of a range: of each block its descriptor and, once it is written, its stored bytes. -/
def Ctx.exported (x : Ctx) (first count : Nat) : List Byte :=
  ((x.created first count).map fun b => b.2.descriptor ++ if b.2.valid then b.2.data else []).flatten

/-- Those bytes handed to the fabric, for the endpoint and the address that the command names. -/
def State.exportOf (s : State) (k : Cmd) (i : Nat) : State × Option (List RWrite) :=
  let bytes := (s.ctx i).exported k.first k.count
  s.exportTo (k.op 0x20 16 16) (s.handle i) (k.op 0x18 0 64) (pieces (bytes.length / 2048 + 1) 0 bytes)

section
variable (h : OnCtx s r 0x24 k i) (hidle : (s.ctx i).started = false)
variable (hsound : (((s.ctx i).created k.first k.count).filter fun b => b.2.valid).findSome?
  (fun b => s.blockBad (s.ctx i).deckle b.2) = none)
include h hidle hsound

theorem execChestExport_host (hspace : k.op 0x20 0 4 = 4) : execChestExport r s =
    .next (if s.inBuffer (s.ctx i).deckle (k.op 0x18 0 64) ((s.ctx i).exported k.first k.count).length
      then (s.emit (.hostWrite (k.op 0x18 0 64) ((s.ctx i).exported k.first k.count))).finish k 0 else s.finish k 0x0B) := by
  rw [execChestExport, ctxRow_onCtx h]
  simp only [hidle, Bool.false_eq_true, if_false, hsound, if_pos hspace]
  rfl

variable (hspace : k.op 0x20 0 4 ≠ 4)
include hspace

theorem execChestExport_unreachable
    (hend : s.planned (k.op 0x20 16 16) = false ∨ (s.txPair 0 (k.op 0x20 16 16)).unreachable = true) :
    execChestExport r s = .next (s.finish k 0x12) := by
  have hout : (!s.planned (k.op 0x20 16 16)) = true ∨ (s.txPair 0 (k.op 0x20 16 16)).unreachable = true := by
    simpa using hend
  rw [execChestExport, ctxRow_onCtx h]
  simp only [hidle, Bool.false_eq_true, if_false, hsound, if_neg hspace, if_pos hout]

/-- The packets to an endpoint are on their way, and the command waits for them. -/
theorem execChestExport_sent {w : RWrite} {ws : List RWrite} (hplan : s.planned (k.op 0x20 16 16) = true)
    (hpair : (s.txPair 0 (k.op 0x20 16 16)).unreachable = false) (hsent : (s.exportOf k i).2 = some (w :: ws)) :
    execChestExport r s = .next { (s.exportOf k i).1 with
      cmds := (s.exportOf k i).1.cmds.replace k
        { k with begun := true, planned := ((s.ctx i).created k.first k.count).length, sent := w :: ws } } := by
  have hopen : ¬ ((!s.planned (k.op 0x20 16 16)) = true ∨ (s.txPair 0 (k.op 0x20 16 16)).unreachable = true) := by
    simp [hplan, hpair]
  have hout : s.exportOf k i = ((s.exportOf k i).1, some (w :: ws)) := Prod.ext rfl hsent
  generalize (s.exportOf k i).1 = t at hout ⊢
  rw [execChestExport, ctxRow_onCtx h]
  simp only [hidle, Bool.false_eq_true, if_false, hsound, if_neg hspace, if_neg hopen]
  generalize hx : s.exportTo _ _ _ _ = x
  obtain rfl : x = (t, some (w :: ws)) := hx.symm.trans hout
  rfl

end

/-! CHEST_IMPORT and CHEST_ADOPT. -/

section
variable {src : List Byte} (h : OnCtx s r 0x25 k i) (hspace : k.op 0x20 0 4 = 4)
variable (hbuf : s.inBuffer (s.ctx i).deckle (k.op 0x18 0 64) src.length = true)
include h hspace hbuf

theorem execChestImport_version : execChestImport r src false s = .next (s.finish k 0x0B) := by
  rw [execChestImport, ctxRow_onCtx h]
  simp [hspace, hbuf]

/-- Sound blocks take the indices from the command's first on, once the free values they need are drawn. -/
theorem execChestImport_sound {bs : List Block} {t : State} {put : List (Nat × Block)}
    (hsrc : importAll s.freeCtr (src.length / 64 + 1) src = some bs)
    (ht : { s with freeCtr := s.freeCtr + (src.length / 64 + 1) } = t)
    (hput : (bs.zipIdx.map fun p => (k.first + p.2, p.1)) = put) (hlast : k.first + bs.length ≤ 2 ^ 28)
    (hnew : (s.ctx i).created k.first bs.length = []) (hroom : arenaOf put ≤ t.arenaFree (s.ctx i).deckle) :
    execChestImport r src true s =
      .next (((t.arenaChange (s.ctx i).deckle fun s => s.modCtx i fun y => y.putBlocks put).each put fun u b =>
        u.noteStored (s.ctx i).deckle b.1 b.2).finish k 0) := by
  have hin : ¬ (k.op 0x20 0 4 = 4 ∧ (!s.inBuffer (s.ctx i).deckle (k.op 0x18 0 64) src.length) = true) := by
    simp [hbuf]
  have hfrom : ¬ (k.op 0x20 0 4 = 2 ∧ ((!s.planned (k.op 0x20 16 16)) = true ∨
      (s.txPair 0 (k.op 0x20 16 16)).unreachable = true)) := by
    simp [hspace]
  have hfree : ¬ (!((s.ctx i).created k.first bs.length).isEmpty) = true := by
    simp [hnew]
  rw [execChestImport, ctxRow_onCtx h]
  simp only [if_neg hin, if_neg hfrom, if_true, hsrc, ht, hput]
  exact congrArg _ ((if_neg (not_lt.mpr hlast)).trans ((if_neg hfree).trans (if_neg (not_lt.mpr hroom))))

end

theorem execChestAdopt_adopts {o : Nat × Sparse (Option Block)} (h : OnCtx s r 0x26 k i)
    (horphan : (s.deckle (s.ctx i).deckle).orphans.find? (fun o => o.1 == k.op 0x10 0 16) = some o)
    (hempty : (s.ctx i).blocks = []) : execChestAdopt r s =
      .next (((s.setDeckle (s.ctx i).deckle { s.deckle (s.ctx i).deckle with
        orphans := (s.deckle (s.ctx i).deckle).orphans.filter fun p => p.1 != o.1 }).modCtx i
          fun y => { y with blocks := o.2 }).finish k 0) := by
  rw [execChestAdopt, ctxRow_onCtx h]
  simp only [horphan, hempty, List.isEmpty_nil, Bool.not_true, Bool.false_eq_true, if_false]

end

/-- Settles O24: a command of a chest in a state that takes it does what its row says, by the range it names and by the room, the
buffer or the endpoint it finds. -/
theorem chestCommands : Obligations.ChestCommands := by
  intro s r k i x d
  refine ⟨?create, execChestFree_stale, execChestFree_onCtx, execChestFree_orphan, execChestReencode_allowed,
    execChestReadDesc_buffered, ?out, ?taken, fun o => execChestAdopt_adopts⟩
  case create =>
    intro h kind f tok hok
    exact ⟨execChestCreate_busy h hok, execChestCreate_full h hok, execChestCreate_room h hok⟩
  case out =>
    intro h hidle hsound bs bytes ep out
    exact ⟨execChestExport_host h hidle hsound, fun hspace => execChestExport_unreachable h hidle hsound hspace,
      fun w ws hspace => execChestExport_sent h hidle hsound hspace⟩
  case taken =>
    intro src bs h hspace hbuf
    exact ⟨fun hsrc => execChestImport_sound h hspace hbuf hsrc rfl rfl, execChestImport_version h hspace hbuf⟩

end Sys2Proof.Machine

namespace Sys2Proof.Machine

open Sys2Proof.Claims

/-! Queue pairs of the storage ports (R238, R326, R506). -/

section
variable {s : State} {r : CmdRef} {k : Cmd}

/-- The queue pairs that a deckle has on a port. -/
def Deckle.qpsOn (x : Deckle) (port : Nat) : List Qp := x.qps.filter fun q => q.port == port

/-- The queue pair that STOR_QP_CREATE makes. -/
def Cmd.newQp (k : Cmd) (num : Nat) : Qp :=
  ⟨num, k.op 0x10 0 5, k.op 0x14 0 16, k.op 0x14 16 16, 0, 0, 0, 0, List.replicate 16 0, 0, 0, [], 0, none, false, [], [], 0⟩

section
variable (h : Takes s r 0x30 k)
include h

theorem execStorQpCreate_notOwned (hport : s.ownsPort (k.fn - 4) (k.op 0x10 0 5) = false) :
    execStorQpCreate r s = .next (s.finish k 0x0B) := by
  rw [execStorQpCreate, cmdRow_takes h]
  simp only [hport, Bool.not_false, if_true]

variable (hport : s.ownsPort (k.fn - 4) (k.op 0x10 0 5) = true)
include hport

theorem execStorQpCreate_full (hfull : 4096 ≤ ((s.deckle (k.fn - 4)).qpsOn (k.op 0x10 0 5)).length) :
    execStorQpCreate r s = .next (s.finish k 0x0C) := by
  rw [execStorQpCreate, cmdRow_takes h]
  simp only [hport, Bool.not_true, Bool.false_eq_true, if_false]
  exact congrArg _ (if_pos hfull)

theorem execStorQpCreate_room (hroom : ((s.deckle (k.fn - 4)).qpsOn (k.op 0x10 0 5)).length < 4096) :
    execStorQpCreate r s =
      let x := s.deckle (k.fn - 4)
      .next ((s.setDeckle (k.fn - 4) { x with nextQp := (x.nextQp + 1) % 2 ^ 24, qps := x.qps ++ [k.newQp x.nextQp] }).finish
        k 0 0 x.nextQp) := by
  rw [execStorQpCreate, cmdRow_takes h]
  simp only [hport, Bool.not_true, Bool.false_eq_true, if_false]
  exact congrArg _ (if_neg (Nat.not_le.mpr hroom))

end

/-! Commands of a queue pair that the deckle has not got. -/

section
variable (hqp : (s.deckle (k.fn - 4)).qp (k.op 0x10 0 24) = none)
include hqp

theorem execStorQpModify_unknown (h : Takes s r 0x31 k) : execStorQpModify r s = .next (s.finish k 0x0B) := by
  rw [execStorQpModify, cmdRow_takes h]
  simp only [hqp]

theorem execStorQpDestroy_unknown (h : Takes s r 0x32 k) : execStorQpDestroy r s = .next (s.finish k 0x0B) := by
  rw [execStorQpDestroy, cmdRow_takes h]
  simp only [hqp]

theorem execStorPost_unknown {src : List Byte} (h : Takes s r 0x33 k) : execStorPost r src s = .next (s.finish k 0x0B) := by
  rw [execStorPost, cmdRow_takes h]
  simp only [hqp]

end

/-! Commands of a queue pair that it has. -/

/-- A queue pair with the state, the partner and the path that STOR_QP_MODIFY gives it (R506). -/
def Cmd.modifyQp (k : Cmd) (q : Qp) : Qp := { q with
  state := k.op 0x10 24 4, remote := k.op 0x14 0 24, mtu := k.op 0x18 0 2, vlan := k.op 0x18 4 12
  ip := (k.desc.drop 0x20).take 16, mac := k.op 0x30 0 48 }

/-- The work request that STOR_POST puts on a queue pair, with what a read of the host's buffer returned (R506). -/
def State.workOf (s : State) (k : Cmd) (q : Qp) (src : List Byte) : Work where
  num := q.posted
  op := k.op 0x10 24 4
  space := k.op 0x10 28 4
  addr := k.op 0x18 0 64
  len := k.op 0x20 0 32
  rkey := k.op 0x24 0 32
  raddr := k.op 0x28 0 64
  data := if k.op 0x10 24 4 = 3 then []
    else if k.op 0x10 28 4 = 0 then s.localRead (k.fn - 4) (k.op 0x18 0 64) (k.op 0x20 0 32) else fit (k.op 0x20 0 32) src
  psn := q.sendPsn
  count := max 1 (ceilDiv (k.op 0x20 0 32) q.bytes)
  got := 0
  cmd := ⟨k.fn, k.queue, k.id⟩

/-- A queue pair with a work request posted on it. -/
def Qp.post (q : Qp) (w : Work) : Qp := { q with
  posted := (q.posted + 1) % 2 ^ 32, work := q.work ++ [w], sendPsn := (q.sendPsn + w.count) % 2 ^ 24 }

section
variable {q : Qp} (hqp : (s.deckle (k.fn - 4)).qp (k.op 0x10 0 24) = some q)
include hqp

section
variable (h : Takes s r 0x31 k)
include h

theorem execStorQpModify_rts (hst : k.op 0x10 24 4 = 3) :
    execStorQpModify r s = .next ((s.setQp (k.fn - 4) (k.modifyQp q)).finish k 0) := by
  rw [execStorQpModify, cmdRow_takes h]
  simp [hqp, hst, State.when, Cmd.modifyQp]

/-- A queue pair that enters RTR starts from a free sequence number, its partner's yet to come. -/
theorem execStorQpModify_rtr (hst : k.op 0x10 24 4 = 2) :
    execStorQpModify r s = .next (((s.free.2.flushQp q).setQp (k.fn - 4) { k.modifyQp q with
      work := [], sendPsn := (Config.freeWord s.free.1).toNat % 2 ^ 24, awaitPsn := none, gap := false, part := []
      inbox := [], rate := 800000000 }).finish k 0) := by
  rw [execStorQpModify, cmdRow_takes h]
  simp [hqp, hst, State.when, Cmd.modifyQp, lineRate]

theorem execStorQpModify_other (hrtr : k.op 0x10 24 4 ≠ 2) (hrts : k.op 0x10 24 4 ≠ 3) :
    execStorQpModify r s = .next (((s.flushQp q).setQp (k.fn - 4) { k.modifyQp q with work := [] }).finish k 0) := by
  rw [execStorQpModify, cmdRow_takes h]
  simp [hqp, hrtr, hrts, State.when, Cmd.modifyQp]

end

theorem execStorQpDestroy_known (h : Takes s r 0x32 k) : execStorQpDestroy r s =
    .next (((s.flushQp q).setDeckle (k.fn - 4) { (s.flushQp q).deckle (k.fn - 4) with
      qps := ((s.flushQp q).deckle (k.fn - 4)).qps.filter fun p => p.num != q.num }).finish k 0) := by
  rw [execStorQpDestroy, cmdRow_takes h]
  simp only [hqp]

section
variable {src : List Byte} (h : Takes s r 0x33 k)
variable (hok : s.workOk (k.fn - 4) (k.op 0x10 28 4) (k.op 0x18 0 64) (k.op 0x20 0 32) = true)
include h hok

theorem execStorPost_notReady (hst : q.state ≠ 3) : execStorPost r src s = .next (s.finish k 0x09) := by
  rw [execStorPost, cmdRow_takes h]
  simp only [hqp, hok, Bool.not_true, Bool.false_eq_true, if_false, if_pos hst]

variable (hst : q.state = 3)
include hst

theorem execStorPost_full (hfull : q.sendDepth ≤ q.work.length) : execStorPost r src s = .next (s.finish k 0x0C) := by
  rw [execStorPost, cmdRow_takes h]
  simp only [hqp, hok, Bool.not_true, Bool.false_eq_true, if_false, if_neg (not_not.mpr hst), if_pos hfull]

theorem execStorPost_posts (hroom : q.work.length < q.sendDepth)
    (hread : k.op 0x10 24 4 = 3 ∨ k.op 0x10 28 4 ≠ 0 ∨ s.localBad (k.fn - 4) (k.op 0x18 0 64) (k.op 0x20 0 32) = none) :
    execStorPost r src s =
      .next ((({ s with cmds := s.cmds.replace k { k with begun := true, planned := q.posted } }).setQp (k.fn - 4)
        (q.post (s.workOf k q src))).sendEth q.port (s.workFrames q (s.workOf k q src) 0)) := by
  have hfetched : (if k.op 0x10 28 4 = 0 ∧ k.op 0x10 24 4 ≠ 3
      then s.localBad (k.fn - 4) (k.op 0x18 0 64) (k.op 0x20 0 32) else none) = none :=
    ite_eq_right_iff.mpr fun ⟨hspace, hop⟩ => (hread.resolve_left hop).resolve_left (not_not.mpr hspace)
  rw [execStorPost, cmdRow_takes h]
  simp only [hqp, hok, Bool.not_true, Bool.false_eq_true, if_false, if_neg (not_not.mpr hst), if_neg (Nat.not_le.mpr hroom),
    hfetched]
  rfl

end

end

end

/-- Settles O26: a command of a queue pair that the deckle has does what its row says, by the state asked for or the state it finds;
one of a queue pair or a port that it has not is invalid. -/
theorem queuePairCommands : Obligations.QueuePairCommands := by
  intro s r k d x
  refine ⟨fun h hport => ⟨execStorQpCreate_full h hport, execStorQpCreate_room h hport⟩, execStorQpCreate_notOwned,
    fun q hqp => ⟨?modify, execStorQpDestroy_known hqp, ?post⟩, fun hqp => ⟨execStorQpModify_unknown hqp,
      execStorQpDestroy_unknown hqp, fun src => execStorPost_unknown hqp⟩⟩
  case modify =>
    intro q1
    exact ⟨execStorQpModify_rts hqp, execStorQpModify_other hqp, execStorQpModify_rtr hqp⟩
  case post =>
    intro src h hok n op data w
    exact ⟨execStorPost_posts hqp h hok, execStorPost_notReady hqp h hok, execStorPost_full hqp h hok⟩

end Sys2Proof.Machine

namespace Sys2Proof.Machine

/-! Transfers of the chest (R147, R149). -/

@[simp] theorem State.arenaErrors_nil (s : State) (d : Nat) : s.arenaErrors d [] = s := State.demandRead_nil ..

section
variable {s : State} {tile queue i : Nat} {q : Nat × Nat × Nat} {d : QDesc} {r : Run}
variable (ht : tile < 12288) (hqueue : 2 ≤ queue ∧ queue < 10) (hrun : (s.tile tile).running = some q) (hr : s.runOf q = r)

section
variable {x : DmaDesc} {b0 : Block} {lost : List Nat} {parts : List BlockPart}
variable (hfind : (s.tile tile).findDesc queue
  (fun d => d.started && !d.acted && (dmaDesc d.bytes).isChest && !(dmaDesc d.bytes).isQuery) = some (i, d))
variable (hgo : (s.tile tile).dmaStop = false) (hx : dmaDesc d.bytes = x)
include ht hqueue hrun hr hfind hgo hx

/-- A read of a block that is not created is refused. -/
theorem execChestTransfer_noBlock (hdst : x.dst ≠ 3) (hblock : r.x.block x.sa = none) :
    execChestTransfer tile queue [] lost s = .next (s.accessFault tile r 0x0B 3 x.sa) := by
  rw [execChestTransfer, guardUnit_tileOk_and ht hqueue]
  simp only [hrun, hfind, hgo, hx, if_neg hdst, State.arenaErrors_nil, hr, hblock, Bool.false_eq_true, if_false]

variable (hpass : s.passing tile r x b0.exchange lost (x.parts b0.exchange) = (parts, .ok))
include hpass

theorem execChestTransfer_cuts {errs : List (Nat × Nat)} (hdst : x.dst = 3) (hblock : r.x.block x.da = some b0) :
    execChestTransfer tile queue errs lost s = .next (s.setTile tile ((s.tile tile).modDesc queue i fun a =>
      { a with acted := true, bursts := parts.map fun p =>
        ⟨x.src, x.ssel, p.addr, 3, 0, p.idx, b0.exchange, x.vc, false, none⟩ })) := by
  rw [execChestTransfer, guardUnit_tileOk_and ht hqueue]
  simp only [hrun, hfind, hgo, hx, if_pos hdst, hr, hblock, hpass, Bool.false_eq_true, if_false]

/-- A read to the tile's own scratchpad looks at that scratchpad alone. -/
theorem execChestTransfer_delivers (hdst : x.dst = 1) (hown : x.dsel = r.h.vtile) (hblock : r.x.block x.sa = some b0) :
    execChestTransfer tile queue [] lost s =
      let s1 := parts.foldl (fun s p => s.chestRead tile r x p) (s.blur tile)
      .next (s1.setTile tile ((s1.tile tile).modDesc queue i fun a => { a with acted := true })) := by
  have hread : ¬ x.dst = 3 := by omega
  rw [execChestTransfer, guardUnit_tileOk_and ht hqueue]
  simp only [hrun, hfind, hgo, hx, if_neg hread, State.arenaErrors_nil, hr, hblock, hpass, if_pos hdst, if_pos hown,
    Bool.false_eq_true, if_false]
  rfl

end

/-! The blocks of a write placed (R148, R150, R164). -/

/-- A context as a block is written: the block's started moves are given up, but one to T0 that a command asked for is to start
again. -/
def Ctx.rewriteBlock (x : Ctx) (i : Nat) (b : Block) : Ctx :=
  { x.setBlock i (some b) with
    moves := (x.moves.map fun m => if m.block == i && m.started && m.command && m.tier == 0
      then { m with decided := false, started := false } else m).filter fun m => !(m.block == i && m.started) }

/-- A block with the pin that a started move of it, to a tier other than T0, would have given it. -/
def Block.pinnedBy (b : Block) (moves : List Move) (i : Nat) : Block :=
  { b with pin := b.pin || moves.any fun m => m.block == i && m.started && m.pin && m.tier != 0 }

@[simp] theorem Block.pinnedBy_nil (b : Block) (i : Nat) : b.pinnedBy [] i = b := by
  rw [Block.pinnedBy, List.any_nil, Bool.or_false]

/-- The write of a descriptor waits for arena space, counted when it begins to. -/
def State.awaitSpace (s : State) (tile queue i : Nat) : State :=
  (s.setTile tile ((s.tile tile).modDesc queue i fun a => { a with waiting := true })).bump C.CHEST_SPACE_WAIT_CNT

/-- Block `n` is placed as `b`, `rest` being left of the descriptor that writes it. -/
def State.placeBlock (s : State) (tile queue i : Nat) (r : Run) (rest : List Burst) (n : Nat) (b : Block) : State :=
  let s1 := s.setTile tile ((s.tile tile).modDesc queue i fun a => { a with bursts := rest, waiting := false })
  ((s1.arenaChange r.x.deckle fun s => s.modCtx r.c (·.rewriteBlock n b)).noteWritten r.x.deckle n b).finishMoves r.c

section
variable {b : Burst} {rest : List Burst} {old : Block} {data : List Byte}
variable (hbursts : d.bursts = b :: rest) (hold : r.x.block b.daddr = some old)
include ht hqueue hrun hr hbursts hold

section
variable {s0 : State} (hs0 : s.blurBurst tile r b = s0) (hdata : s0.chestSource tile r b = .data data)
variable (hfind : (s.tile tile).findDesc queue (fun d => d.acted && (dmaDesc d.bytes).dst == 3 && !d.bursts.isEmpty) =
  some (i, d))
include hs0 hdata hfind

theorem execChestWritePlaced_room (hroom : (old.written data).units * 256 ≤ s0.arenaFree r.x.deckle) :
    execChestWritePlaced tile queue s =
      .next (s0.placeBlock tile queue i r rest b.daddr ((old.written data).pinnedBy r.x.moves b.daddr)) := by
  rw [execChestWritePlaced, guardUnit_tileOk_and ht hqueue]
  simp only [hrun, hfind, hbursts, hr, hold, hs0, hdata, if_neg (not_lt.mpr hroom)]
  rfl

variable (hfull : s0.arenaFree r.x.deckle < (old.written data).units * 256)
include hfull

theorem execChestWritePlaced_full : execChestWritePlaced tile queue s =
    .next (if d.waiting then s0 else s0.awaitSpace tile queue i) := by
  rw [execChestWritePlaced, guardUnit_tileOk_and ht hqueue]
  simp only [hrun, hfind, hbursts, hr, hold, hs0, hdata, if_pos hfull]
  rfl

end

theorem execChestSpaceTimeout_full (hfind : (s.tile tile).findDesc queue (·.waiting) = some (i, d))
    (hdata : s.chestSource tile r b = .data data) (hfull : s.arenaFree r.x.deckle < (old.written data).units * 256) :
    execChestSpaceTimeout tile queue s =
      .next ((s.raiseTo E.CHEST_space_timeout [r.x.deckle]).chestFault tile r 0x0C b.daddr) := by
  rw [execChestSpaceTimeout, guardUnit_tileOk_and ht hqueue]
  simp only [hrun, hfind, hbursts, hr, hold, hdata, if_neg (not_le.mpr hfull)]

end

end

/-! Moves and rebuilt summaries as they end (R164, R182, R185, R192). -/

/-- A context without the move `m`. -/
def Ctx.endMove (x : Ctx) (m : Move) : Ctx := { x with moves := x.moves.filter fun k => k != m }

section
variable {s : State} {c n : Nat} {b : Block} (hc : c < 1024) (hblock : (s.ctx c).block n = some b)
include hc hblock

section
variable {m : Move} (hfind : (s.ctx c).moves.find? (fun m => m.block == n && m.started) = some m)
include hfind

theorem execBlockMoveDone_switches (hgood : b.bad = false) (hfits : s.moveFits c m = true)
    (hreach : s.copyLost (s.ctx c).deckle b = false) : execBlockMoveDone c n true s =
      .next ((s.arenaChange (s.ctx c).deckle
        (·.setCtx c (((s.ctx c).endMove m).setBlock n (some (b.moved m))))).finishMoves c) := by
  rw [execBlockMoveDone, guardUnit, if_pos (decide_eq_true hc)]
  simp only [hfind, hblock, hgood, hfits, hreach, Bool.not_false, Bool.and_self, if_true]
  rfl

theorem execBlockMoveDone_fails : execBlockMoveDone c n false s =
    .next (((s.arenaChange (s.ctx c).deckle (·.setCtx c ((s.ctx c).endMove m))).moveAbandoned
      (s.ctx c).deckle b m).finishMoves c) := by
  rw [execBlockMoveDone, guardUnit, if_pos (decide_eq_true hc)]
  simp only [hfind, hblock, Bool.false_and, Bool.false_eq_true, if_false]
  rfl

end

theorem execSummaryRebuildDone_rebuilt (hdamaged : b.badSummary = true) (hgood : b.bad = false)
    (hshown : s.flag F.SCREEN_STATE_rebuilding (s.homeStack (s.ctx c).deckle n) = true) : execSummaryRebuildDone c n s =
      let st := s.homeStack (s.ctx c).deckle n
      .next (((((s.setCtx c ((s.ctx c).setBlock n (some { b with
        badSummary := false, summary := b.summarise.1, unbounded := b.summarise.2 }))).showRebuild st).bump
          C.SCREEN_REBUILD_CNT st).raiseTo E.SCREEN_rebuild (s.ownersOfStack st) st)) := by
  rw [execSummaryRebuildDone, guardUnit, if_pos (decide_eq_true hc)]
  simp only [hblock, hdamaged, hgood, hshown, Bool.not_true, Bool.false_eq_true, or_self, if_false]

end

/-- Settles O13: a transfer of the chest is refused, cut or delivered, a block of a write is placed or waits for space, and a move ends
switched or abandoned. -/
theorem chestRows : Obligations.ChestRows := by
  refine ⟨fun s tile queue q ht hlow hhigh hrun => ⟨?transfer, ?placed, ?timeout⟩, fun s c n b hc hblock =>
    ⟨fun m hfind => ⟨execBlockMoveDone_switches hc hblock hfind, execBlockMoveDone_fails hc hblock hfind⟩,
      execSummaryRebuildDone_rebuilt hc hblock⟩⟩
  case transfer =>
    intro i d b0 lost hfind hgo x
    refine ⟨fun hdst hblock hok errs => ?_, fun hdst hown hblock hok => ?_,
      execChestTransfer_noBlock ht ⟨hlow, hhigh⟩ hrun rfl hfind hgo rfl⟩
    · exact execChestTransfer_cuts ht ⟨hlow, hhigh⟩ hrun rfl hfind hgo rfl (Prod.ext rfl hok) hdst hblock
    · exact execChestTransfer_delivers ht ⟨hlow, hhigh⟩ hrun rfl hfind hgo rfl (Prod.ext rfl hok) hdst hown hblock
  case placed =>
    intro i d b rest old data hfind hbursts hold s0 t0 s1 new hdata
    have hplaced := execChestWritePlaced_room ht ⟨hlow, hhigh⟩ hrun rfl hbursts hold rfl hdata hfind
    have hfull := execChestWritePlaced_full ht ⟨hlow, hhigh⟩ hrun rfl hbursts hold rfl hdata hfind
    refine ⟨fun hroom hmoves => ?_, fun hroom => ⟨_, hplaced hroom⟩, fun hlack hwaits => ?_, fun hlack hwaits => ?_⟩
    · rw [hmoves, Block.pinnedBy_nil] at hplaced
      exact hplaced hroom
    · rw [hwaits, if_neg Bool.false_ne_true] at hfull
      exact hfull hlack
    · rw [hwaits, if_pos rfl] at hfull
      exact hfull hlack
  case timeout =>
    intro i d b rest old data hfind hbursts hold
    exact execChestSpaceTimeout_full ht ⟨hlow, hhigh⟩ hrun rfl hbursts hold hfind

end Sys2Proof.Machine

namespace Sys2Proof.Machine

open Sys2Proof.Claims

/-! Placement commands of the host (R186, R188, R191). -/

/-- A context with one more move planned. -/
def Ctx.planMove (x : Ctx) (m : Move) : Ctx := { x with moves := x.moves ++ [m] }

/-- The move that a placement command plans: its block goes to T1 at a later freeze. -/
def State.movesToT1 (s : State) (c n cause : Nat) (pin : Bool) : Move :=
  ⟨n, 1, 0, cause, pin, false, false, s.beatCount, (s.ctx c).moves.length, none⟩

section
variable {s : State} {k : Cmd} {i cause : Nat} {pin : Bool}

theorem State.moveRange_empty (hnone : (s.ctx i).created k.first k.count = []) :
    s.moveRange k i cause pin = s.finish k 0x0B := by
  simp [State.moveRange, hnone]

/-- One block, in another tier and of no move so far, waits for its move to T1 once the arena has room for it. -/
theorem State.moveRange_one {b : Nat × Block} (hone : (s.ctx i).created k.first k.count = [b]) (htier : k.op 0x18 0 2 = 1)
    (haway : b.2.tier ≠ 1) (hpin : pin = true ∨ b.2.pin = false) (hidle : ∀ m ∈ (s.ctx i).moves, m.block ≠ b.1)
    (hroom : b.2.units * 256 ≤ s.arenaFree (s.ctx i).deckle) :
    s.moveRange k i cause pin = { s.setCtx i ((s.ctx i).planMove (s.movesToT1 i b.1 cause pin)) with
      cmds := s.cmds.replace k { k with begun := true, planned := 1 } } := by
  have hplace (v : Nat) : b.2.inPlace 1 v = false := by simp [Block.inPlace, haway]
  have htaken : (pin || !b.2.pin) = true := by simpa using hpin
  have hkept : (s.ctx i).moves.filter (fun m => m.decided || m.command || !(b.1 == m.block)) = (s.ctx i).moves :=
    List.filter_eq_self.mpr fun m hm => by simp [Ne.symm (hidle m hm)]
  simp [State.moveRange, hone, htier, htaken, hplace, Nat.not_lt.mpr hroom, hkept, State.modCtx, Ctx.planMove,
    State.movesToT1]

end

section
variable {s : State} {r : CmdRef} {k : Cmd} {i : Nat}

theorem execHeadboxPin_onCtx (h : OnCtx s r 0x28 k i) : execHeadboxPin r s = .next (s.moveRange k i 4 true) :=
  ctxRow_onCtx h _

theorem execHeadboxMove_onCtx (h : OnCtx s r 0x2A k i) : execHeadboxMove r s =
    .next (if s.flag F.HEADBOX_POLICY_manual 0 (ofDeckle (s.ctx i).deckle) then s.moveRange k i 5 false else s.finish k 0x07) :=
  ctxRow_onCtx h _

/-! HEADBOX_UNPIN. -/

section
variable (h : OnCtx s r 0x29 k i)
include h

theorem execHeadboxUnpin_empty (hnone : (s.ctx i).created k.first k.count = []) :
    execHeadboxUnpin r s = .next (s.finish k 0x0B) := by
  rw [execHeadboxUnpin, ctxRow_onCtx h]
  simp [hnone]

theorem execHeadboxUnpin_blocks (hsome : (s.ctx i).created k.first k.count ≠ []) : execHeadboxUnpin r s =
    .next ((s.modCtx i fun y => { y with blocks := y.blocks.map fun p => (p.1, p.2.map fun b =>
      if ((s.ctx i).created k.first k.count).any (fun h => h.1 == p.1) then { b with pin := false } else b) }).finish k 0) := by
  have hblocks : ¬ ((s.ctx i).created k.first k.count).isEmpty = true := by simpa using hsome
  rw [execHeadboxUnpin, ctxRow_onCtx h]
  exact congrArg _ (if_neg hblocks)

end

/-! HEADBOX_TIER. -/

/-- The T3 buffer that HEADBOX_TIER names, or none to withdraw it. -/
def Cmd.t3Given (k : Cmd) : Option (Nat × Nat) := if k.op 0x10 0 64 = 0 then none else some (k.op 0x10 0 64, k.op 0x18 0 64)

/-- The lenders that HEADBOX_TIER lists, as it reads them in the deckle's local HBM. -/
def State.lendersGiven (s : State) (k : Cmd) : List Nat :=
  (List.range (k.op 0x20 0 9)).map fun j =>
    fieldAt (s.localRead (k.fn - 4) (k.op 0x28 0 64) (8 * k.op 0x20 0 9)) (8 * j) 0 64

/-- A list of lenders that can be read replaces the one before, with the T3 buffer that goes with it. -/
theorem execHeadboxTier_registers (h : Takes s r 0x2B k) (hlost : (s.deckle (k.fn - 4)).lost = false)
    (hsize : k.op 0x28 0 64 + 8 * k.op 0x20 0 9 ≤ s.localSize (k.fn - 4))
    (hread : s.localBad (k.fn - 4) (k.op 0x28 0 64) (8 * k.op 0x20 0 9) = none)
    (hbuf : ∀ t ∈ k.t3Given, s.inBuffer (k.fn - 4) t.1 t.2 = true)
    (hls : ∀ l ∈ s.lendersGiven k, l < 2 ^ 56 ∧ s.planned (l % 2 ^ 16) = true) :
    execHeadboxTier r s = .next ((s.setDeckle (k.fn - 4) { s.deckle (k.fn - 4) with
      t3 := k.t3Given, lenders := (s.lendersGiven k).map fun l => (bits l 0 16, bits l 16 16, bits l 32 24) }).finish k 0) := by
  have hlenders : ((s.lendersGiven k).any fun l => decide (2 ^ 56 ≤ l) || !s.planned (l % 2 ^ 16)) = false :=
    List.any_eq_false.mpr fun l hl => by simpa using hls l hl
  rw [execHeadboxTier, cmdRow_takes h]
  simp only [hlost, Bool.false_eq_true, if_false, if_neg (Nat.not_lt.mpr hsize), hread]
  refine congrArg _ (if_neg ?_)
  rintro (hbad | hbad)
  · by_cases hzero : k.op 0x10 0 64 = 0
    · simp [hzero] at hbad
    · simp [hzero, hbuf _ (if_neg hzero)] at hbad
  · exact Bool.false_ne_true (hlenders.symm.trans hbad)

/-! HEADBOX_LEND. -/

theorem execHeadboxLend_lends (h : Takes s r 0x2C k)
    (hnew : ((s.deckle (k.fn - 4)).lends.any fun l => l.tag == k.op 0x10 16 16) = false)
    (hroom : k.op 0x14 0 32 * 2 ^ 20 ≤ s.arenaFree (k.fn - 4)) : execHeadboxLend r s =
      .next ((s.arenaChange (k.fn - 4) fun t => t.setDeckle (k.fn - 4) { s.deckle (k.fn - 4) with
        lends := (s.deckle (k.fn - 4)).lends ++
          [⟨k.op 0x10 16 16, k.op 0x10 0 16, (k.desc.drop 0x20).take 32, k.op 0x14 0 32, []⟩] }).finish k 0) := by
  rw [execHeadboxLend, cmdRow_takes h]
  simp only [hnew, Bool.false_eq_true, if_false, if_neg (Nat.not_lt.mpr hroom)]

/-! HEADBOX_REPLAY. -/

/-- The journal entries that HEADBOX_REPLAY reads in the local HBM of the context's deckle. -/
def State.entriesGiven (s : State) (k : Cmd) (i : Nat) : List (List Byte) :=
  chunk32 (k.op 0x18 0 32) (s.localRead (s.ctx i).deckle (k.op 0x10 0 64) (32 * k.op 0x18 0 32))

theorem execHeadboxReplay_replays (h : OnCtx s r 0x2D k i) (hlost : (s.deckle (s.ctx i).deckle).lost = false)
    (hsize : k.op 0x10 0 64 + 32 * k.op 0x18 0 32 ≤ s.localSize (s.ctx i).deckle)
    (hread : s.localBad (s.ctx i).deckle (k.op 0x10 0 64) (32 * k.op 0x18 0 32) = none)
    (hentries : ∀ e ∈ s.entriesGiven k i, entryOk e = true ∧ fieldAt e 0 16 16 = s.handle i) :
    execHeadboxReplay r s = .next ((s.modCtx i fun x => { x with replay := some (s.entriesGiven k i) }).finish k 0) := by
  have hall : ((s.entriesGiven k i).all fun e => entryOk e && fieldAt e 0 16 16 == s.handle i) = true :=
    List.all_eq_true.mpr fun e he => by simp [hentries e he]
  rw [execHeadboxReplay, ctxRow_onCtx h]
  simp only [hlost, Bool.false_eq_true, if_false, if_neg (Nat.not_lt.mpr hsize), hread]
  exact congrArg _ (if_pos hall)

end

/-- Settles O25: a placement command that may take effect does what its row says, by the blocks of its range, the policy, the room in
the arena and the lists that it can read. -/
theorem headboxCommands : Obligations.HeadboxCommands := by
  intro s r k i x d
  refine ⟨execHeadboxPin_onCtx, fun cause pin => State.moveRange_empty, ?one, execHeadboxUnpin_empty, execHeadboxUnpin_blocks,
    execHeadboxMove_onCtx, ?withdraw, ?register, execHeadboxLend_lends, ?replay⟩
  case one =>
    intro cause pin b hone htier haway hpin hidle hroom
    refine ⟨_, State.moveRange_one hone htier haway hpin hidle hroom, ?_, rfl⟩
    exact congrArg Ctx.moves (State.ctx_setCtx_same s i _)
  case withdraw =>
    intro h hlost hnone hzero hsize hread
    have ht3 : k.t3Given = none := if_pos hzero
    have hls : s.lendersGiven k = [] := by simp [State.lendersGiven, hnone]
    have htier := execHeadboxTier_registers h hlost (by simpa [hnone] using hsize) (by simpa [hnone] using hread) (by simp [ht3])
      (by simp [hls])
    rwa [ht3, hls] at htier
  case register =>
    intro h hlost n a ls hsize hread hne hbuf hls
    have ht3 : k.t3Given = some (k.op 0x10 0 64, k.op 0x18 0 64) := if_neg hne
    have htier := execHeadboxTier_registers h hlost hsize hread (by simpa [ht3] using hbuf) hls
    rwa [ht3] at htier
  case replay =>
    intro h hlost n es hsize hread hentries
    exact execHeadboxReplay_replays h hlost hsize hread hentries

end Sys2Proof.Machine

namespace Sys2Proof.Machine

open Sys2Proof.Claims

/-! Rows that write registers (R339, R348, R349): each is one write in its view. -/

/-- A register in the body of its page, no counter and no half of another, that an access of `bytes` bytes writes whole. -/
def bodyReg (page reg bytes : Nat) : Bool :=
  decide (0x80 ≤ reg) && (counterAt page reg).isNone && (wide page reg == (bytes == 8)) && !wide page (reg - 4)

theorem bodyReg_iff {page reg bytes : Nat} : bodyReg page reg bytes = true ↔
    0x80 ≤ reg ∧ counterAt page reg = none ∧ wide page reg = (bytes == 8) ∧ wide page (reg - 4) = false := by
  simp [bodyReg, and_assoc]

section
variable {s : State} {view page reg : Nat} {data : Word}

theorem offset_page (hreg : reg < 4096) : (page * 4096 + reg) / 4096 = page := by omega

theorem offset_reg (hreg : reg < 4096) : (page * 4096 + reg) % 4096 = reg := by omega

/-- The low half that a view holds (R349) is no part of what it may write or of what a flag shows. -/
@[simp] theorem State.viewMayWrite_setHeld (s : State) (view page view' page' reg : Nat) (half : Option Half) :
    (s.setHeld view page half).viewMayWrite view' page' reg = s.viewMayWrite view' page' reg := rfl

@[simp] theorem State.flag_setHeld (s : State) (view page : Nat) (half : Option Half) (f : Fld) :
    (s.setHeld view page half).flag f = s.flag f := rfl

theorem writeRow_served {bytes : Nat} {cond : Bool} (h : Writes s view bytes page reg) (hc : cond = true) :
    writeRow view (page * 4096 + reg) bytes data cond s = .next (s.writeAt view (page * 4096 + reg) bytes data.toNat) := by
  obtain ⟨hok, hup, hserved, -, -⟩ := h
  simp [writeRow, guardUnit, hok, hup, hc, State.regWrite, hserved]

theorem covers_self {bytes : Nat} (hreg : reg < 4096) (hbytes : 0 < bytes) :
    covers (page * 4096 + reg) bytes page reg = true := by
  simp [covers, offset_page hreg, offset_reg hreg, hbytes]

theorem dataFor_self (hreg : reg < 4096) : dataFor (page * 4096 + reg) reg data = data.toNat % 2 ^ 32 := by
  simp [dataFor, bits, offset_reg hreg]

theorem State.writeReg_body {off bytes mask v : Nat} (hmay : s.viewMayWrite view page reg = true) (hreg : 0x80 ≤ reg)
    (hcnt : counterAt page reg = none) :
    s.writeReg view off bytes page reg mask v = s.writeBody view off bytes page reg mask v := by
  simp [State.writeReg, hmay, hcnt, Nat.not_lt.mpr hreg]

theorem State.writeAt_whole {v : Nat} (hmay : s.viewMayWrite view page reg = true) (hreg : reg < 4096)
    (hbody : bodyReg page reg 8 = true) : s.writeAt view (page * 4096 + reg) 8 v =
      (s.setHeld view page none).writeBody view (page * 4096 + reg) 8 page reg mask64 v := by
  obtain ⟨hlow, hcnt, hwide, -⟩ := bodyReg_iff.mp hbody
  simp [State.writeAt, offset_page hreg, offset_reg hreg, hwide, State.writeReg_body, hmay, hlow, hcnt]

theorem State.writeAt_narrow {v : Nat} (hmay : s.viewMayWrite view page reg = true) (hreg : reg < 4096)
    (hbody : bodyReg page reg 4 = true) : s.writeAt view (page * 4096 + reg) 4 v =
      (s.setHeld view page none).writeBody view (page * 4096 + reg) 4 page reg mask32 (v % 2 ^ 32) := by
  obtain ⟨hlow, hcnt, hwide, hnext⟩ := bodyReg_iff.mp hbody
  simp [State.writeAt, offset_page hreg, offset_reg hreg, hwide, hnext, State.writeReg_body, hmay, hlow, hcnt]

/-- A served write of a 64-bit register. -/
theorem writeRow_whole {cond : Bool} (h : Writes s view 8 page reg) (hc : cond = true) (hbody : bodyReg page reg 8 = true) :
    writeRow view (page * 4096 + reg) 8 data cond s =
      .next ((s.setHeld view page none).writeBody view (page * 4096 + reg) 8 page reg mask64 data.toNat) := by
  have ⟨_, _, _, hmay, hreg⟩ := h
  rw [writeRow_served h hc, State.writeAt_whole hmay hreg hbody]

/-- A served write of a 32-bit register. -/
theorem writeRow_narrow {cond : Bool} (h : Writes s view 4 page reg) (hc : cond = true) (hbody : bodyReg page reg 4 = true) :
    writeRow view (page * 4096 + reg) 4 data cond s =
      .next ((s.setHeld view page none).writeBody view (page * 4096 + reg) 4 page reg mask32 (data.toNat % 2 ^ 32)) := by
  have ⟨_, _, _, hmay, hreg⟩ := h
  rw [writeRow_served h hc, State.writeAt_narrow hmay hreg hbody]

end

/-! Registers of links and deckles (R190, R319, R488). -/

section
variable {s : State} {view : Nat} {data : Word}

theorem State.writeBody_cxlpAq (s : State) (view off bytes mask v : Nat) :
    s.writeBody view off bytes Page.CXLP 0x98 mask v = s.writeCxlpAq view mask v := by
  simp [State.writeBody, Page.RSTCTL, Page.NVM, Page.CALENDER, Page.CLKCTL, Page.CXLP]

theorem State.writeBody_deckleAq (s : State) (view off bytes mask v : Nat) :
    s.writeBody view off bytes Page.DECKLE 0xA0 mask v = s.writeDeckleAq view mask v := by
  simp [State.writeBody, Page.RSTCTL, Page.NVM, Page.CALENDER, Page.CLKCTL, Page.CXLP, Page.DECKLE]

theorem State.writeBody_jrnlBase (s : State) (view off bytes mask v : Nat) :
    s.writeBody view off bytes Page.HEADBOX 0x98 mask v = s.writeJrnlBase view off bytes mask v := by
  simp [State.writeBody, Page.RSTCTL, Page.NVM, Page.CALENDER, Page.CLKCTL, Page.CXLP, Page.DECKLE, Page.HEADBOX]

theorem State.writeBody_jrnlCfg (s : State) (view off bytes mask v : Nat) :
    s.writeBody view off bytes Page.HEADBOX 0xA0 mask v = s.writeJrnlCfg view off bytes v := by
  simp [State.writeBody, Page.RSTCTL, Page.NVM, Page.CALENDER, Page.CLKCTL, Page.CXLP, Page.DECKLE, Page.HEADBOX]

theorem execCxlpAqWrite_served (h : Writes s view 8 Page.CXLP 0x98) :
    execCxlpAqWrite view (Page.CXLP * 4096 + 0x98) 8 data s =
      .next ((s.setHeld view Page.CXLP none).writeCxlpAq view mask64 data.toNat) := by
  rw [execCxlpAqWrite, writeRow_whole h (by decide) (by decide), State.writeBody_cxlpAq]

section
variable (h : Writes s view 8 Page.DECKLE 0xA0)
include h

theorem execDeckleAqWrite_served : execDeckleAqWrite view (Page.DECKLE * 4096 + 0xA0) 8 data s =
    .next ((s.setHeld view Page.DECKLE none).writeDeckleAq view mask64 data.toNat) := by
  rw [execDeckleAqWrite, writeRow_whole h (by decide) (by decide), State.writeBody_deckleAq]

theorem execDeckleAqReset_served (hreset : data.getLsbD 52 = true) :
    execDeckleAqReset view (Page.DECKLE * 4096 + 0xA0) 8 data s =
      .next ((s.setHeld view Page.DECKLE none).writeDeckleAq view mask64 data.toNat) := by
  rw [execDeckleAqReset, hreset, writeRow_whole h (by decide) (by decide), State.writeBody_deckleAq]

end

theorem execHeadboxJrnlBaseWrite_served (h : Writes s view 8 Page.HEADBOX 0x98) :
    execHeadboxJrnlBaseWrite view (Page.HEADBOX * 4096 + 0x98) 8 data s =
      .next ((s.setHeld view Page.HEADBOX none).writeJrnlBase view (Page.HEADBOX * 4096 + 0x98) 8 mask64 data.toNat) := by
  rw [execHeadboxJrnlBaseWrite, writeRow_whole h (by decide) (by decide), State.writeBody_jrnlBase]

theorem execHeadboxJrnlCfgWrite_served (h : Writes s view 4 Page.HEADBOX 0xA0) :
    execHeadboxJrnlCfgWrite view (Page.HEADBOX * 4096 + 0xA0) 4 data s =
      .next ((s.setHeld view Page.HEADBOX none).writeJrnlCfg view (Page.HEADBOX * 4096 + 0xA0) 4 (data.toNat % 2 ^ 32)) := by
  rw [execHeadboxJrnlCfgWrite, writeRow_narrow h (by decide) (by decide), State.writeBody_jrnlCfg]

end

/-! Registers of ports (R227, R236, R241). -/

theorem bodyReg_port : ∀ p < 26, ∀ reg ∈ [0x80, 0x88, 0xAC], bodyReg (Page.PORT + p) reg 4 = true := by decide

section
variable {s : State} {view p : Nat} {data : Word} (hp : p < 26)
include hp

/-- The registers of a port with a behaviour of their own are its configuration, its control and its MDIO access. -/
theorem State.writeBody_port (view off bytes reg mask v : Nat) : s.writeBody view off bytes (Page.PORT + p) reg mask v =
    if reg = 0x80 then s.writePortCfg p mask v
    else if reg = 0x88 then s.writePortCtrl view off bytes p v
    else if reg = 0xAC then s.writeMdio p mask v
    else s.writePlain view (Page.PORT + p) reg mask v := by
  have hlow : ∀ n < 0x60, 0x60 + p ≠ n := by omega
  have hbelow : ∀ n ≤ 0x60, ¬ 0x60 + p < n := by omega
  have hlast : 0x60 + p < 0x7A := by omega
  have hsens : ¬ 0x90 ≤ 0x60 + p := by omega
  simp [State.writeBody, Page.RSTCTL, Page.NVM, Page.CALENDER, Page.CLKCTL, Page.CXLP, Page.DECKLE, Page.HEADBOX, Page.SCREEN,
    Page.HBMC, Page.SENS, Page.PORT, hlow, hbelow, hlast, hsens]

theorem coversPort_self {reg : Nat} (hreg : reg < 4096) : coversPort ((Page.PORT + p) * 4096 + reg) 4 reg = true := by
  simp [coversPort, offset_page hreg, covers_self hreg, hp]

theorem execPortEnableWrite_served (h : Writes s view 4 (Page.PORT + p) 0x80) :
    execPortEnableWrite view ((Page.PORT + p) * 4096 + 0x80) 4 data s =
      .next ((s.setHeld view (Page.PORT + p) none).writePortCfg p mask32 (data.toNat % 2 ^ 32)) := by
  rw [execPortEnableWrite, writeRow_narrow h (coversPort_self hp (by decide)) (bodyReg_port p hp _ (by decide)),
    State.writeBody_port hp, if_pos rfl]

theorem execPortRetrain_served (h : Writes s view 4 (Page.PORT + p) 0x88) (hretrain : (data.toNat % 2 ^ 32).testBit 0 = true) :
    execPortRetrain view ((Page.PORT + p) * 4096 + 0x88) 4 data s =
      .next ((s.setHeld view (Page.PORT + p) none).writePortCtrl view ((Page.PORT + p) * 4096 + 0x88) 4 p
        (data.toNat % 2 ^ 32)) := by
  rw [execPortRetrain, dataFor_self (by decide), hretrain, coversPort_self hp (by decide), Bool.and_self,
    writeRow_narrow h rfl (bodyReg_port p hp _ (by decide)), State.writeBody_port hp, if_neg (by decide), if_pos rfl]

section
variable (h : Writes s view 4 (Page.PORT + p) 0xAC)
include h

/-- The rows of PORT_ETH_MDIO are one write, whatever the operation that each asks of the data. -/
theorem writeRow_mdio {cond : Bool} (hc : cond = true) :
    writeRow view ((Page.PORT + p) * 4096 + 0xAC) 4 data (coversPort ((Page.PORT + p) * 4096 + 0xAC) 4 0xAC && cond) s =
      .next ((s.setHeld view (Page.PORT + p) none).writeMdio p mask32 (data.toNat % 2 ^ 32)) := by
  rw [hc, coversPort_self hp (by decide), Bool.and_self, writeRow_narrow h rfl (bodyReg_port p hp _ (by decide)),
    State.writeBody_port hp, if_neg (by decide), if_neg (by decide), if_pos rfl]

theorem execMdioRead_served (hread : (data.toNat % 2 ^ 32).testBit 21 = true) :
    execMdioRead view ((Page.PORT + p) * 4096 + 0xAC) 4 data s =
      .next ((s.setHeld view (Page.PORT + p) none).writeMdio p mask32 (data.toNat % 2 ^ 32)) := by
  rw [execMdioRead, dataFor_self (by decide), writeRow_mdio hp h hread]

theorem execMdioWrite_served (hwrite : bits (data.toNat % 2 ^ 32) 21 2 = 2) :
    execMdioWrite view ((Page.PORT + p) * 4096 + 0xAC) 4 data s =
      .next ((s.setHeld view (Page.PORT + p) none).writeMdio p mask32 (data.toNat % 2 ^ 32)) := by
  rw [execMdioWrite, dataFor_self (by decide), writeRow_mdio hp h (beq_iff_eq.mpr hwrite)]

theorem execMdioAddress_served (haddress : bits (data.toNat % 2 ^ 32) 21 2 = 0) :
    execMdioAddress view ((Page.PORT + p) * 4096 + 0xAC) 4 data s =
      .next ((s.setHeld view (Page.PORT + p) none).writeMdio p mask32 (data.toNat % 2 ^ 32)) := by
  rw [execMdioAddress, dataFor_self (by decide), writeRow_mdio hp h (beq_iff_eq.mpr haddress)]

end

end

/-! Registers of stored operations (R469, R476). -/

theorem State.writeBody_nvm (s : State) (view off bytes reg mask v : Nat) :
    s.writeBody view off bytes Page.NVM reg mask v = s.writeNvm view off bytes reg mask v := by
  simp [State.writeBody, Page.RSTCTL, Page.NVM]

section
variable {s : State} {view off bytes v : Nat} (hidle : s.flag F.NVM_STATE_busy = false)
include hidle

theorem State.writeNvmOp_begin (hcode : v % 16 = 4) : s.writeNvmOp view off bytes v = s.nvmBegin view off bytes := by
  simp [State.writeNvmOp, hidle, hcode]

theorem State.writeNvmOp_attest (hcode : v % 16 = 13) : s.writeNvmOp view off bytes v = s.startOp 13 := by
  simp [State.writeNvmOp, hidle, hcode]

/-- An operation of the activity, which the view holds. -/
theorem State.writeNvmOp_activity {code : Nat} (hheld : s.activityStatus view = none) (hcode : v % 16 = code)
    (hop : 0 < code ∧ code < 13 ∧ code ≠ 4) :
    s.writeNvmOp view off bytes v = s.activityOp view off bytes code (bits v 4 5) := by
  obtain ⟨hpos, hlast, hbegin⟩ := hop
  have hknown : ¬ (code = 0 ∨ 13 < code) := by omega
  simp only [State.writeNvmOp, hidle, hcode, hheld, Bool.false_eq_true, if_false, if_neg hknown, if_neg hbegin,
    if_neg hlast.ne]

end

section
variable {s : State} {view code : Nat} {data : Word}

theorem execMeasIdxWrite_served (h : Writes s view 4 Page.NVM 0x100) :
    execMeasIdxWrite view (Page.NVM * 4096 + 0x100) 4 data s =
      .next ((s.setHeld view Page.NVM none).writeMeasIdx view (data.toNat % 2 ^ 32)) := by
  rw [execMeasIdxWrite, writeRow_narrow h (by decide) (by decide), State.writeBody_nvm]
  simp [State.writeNvm]

theorem execNvmProfileSelWrite_served (h : Writes s view 4 Page.NVM 0x90) :
    execNvmProfileSelWrite view (Page.NVM * 4096 + 0x90) 4 data s =
      .next ((s.setHeld view Page.NVM none).selectProfile (data.toNat % 2 ^ 32 % 4)) := by
  rw [execNvmProfileSelWrite, writeRow_narrow h (by decide) (by decide), State.writeBody_nvm]
  simp [State.writeNvm]

section
variable (h : Writes s view 4 Page.NVM 0x84)
include h

/-- The rows of NVM_OP are one write of it, each for its own code. -/
theorem nvmRow_served (hcode : data.toNat % 2 ^ 32 % 16 = code) : nvmRow code view (Page.NVM * 4096 + 0x84) 4 data s =
    .next ((s.setHeld view Page.NVM none).writeNvmOp view (Page.NVM * 4096 + 0x84) 4 (data.toNat % 2 ^ 32)) := by
  have hasked : (dataFor (Page.NVM * 4096 + 0x84) 0x84 data % 16 == code) = true := by
    rw [dataFor_self (by decide), beq_iff_eq, hcode]
  rw [nvmRow, hasked, writeRow_narrow h (by decide) (by decide), State.writeBody_nvm, State.writeNvm, if_pos rfl]

variable (hidle : (s.setHeld view Page.NVM none).flag F.NVM_STATE_busy = false)
include hidle

theorem nvmRow_begin (hcode : data.toNat % 2 ^ 32 % 16 = 4) : nvmRow 4 view (Page.NVM * 4096 + 0x84) 4 data s =
    .next ((s.setHeld view Page.NVM none).nvmBegin view (Page.NVM * 4096 + 0x84) 4) := by
  rw [nvmRow_served h hcode, State.writeNvmOp_begin hidle hcode]

theorem nvmRow_attest (hcode : data.toNat % 2 ^ 32 % 16 = 13) : nvmRow 13 view (Page.NVM * 4096 + 0x84) 4 data s =
    .next ((s.setHeld view Page.NVM none).startOp 13) := by
  rw [nvmRow_served h hcode, State.writeNvmOp_attest hidle hcode]

theorem nvmRow_activity (hheld : (s.setHeld view Page.NVM none).activityStatus view = none)
    (hop : 0 < code ∧ code < 13 ∧ code ≠ 4) (hcode : data.toNat % 2 ^ 32 % 16 = code) :
    nvmRow code view (Page.NVM * 4096 + 0x84) 4 data s =
      .next ((s.setHeld view Page.NVM none).activityOp view (Page.NVM * 4096 + 0x84) 4 code
        (bits (data.toNat % 2 ^ 32) 4 5)) := by
  rw [nvmRow_served h hcode, State.writeNvmOp_activity hidle hheld hcode hop]

end

end

/-- Settles O43: a served write of one of these registers reaches the body of its page, which hands it to the register's own
behaviour; one of NVM_OP, to the operation of its code. -/
theorem unitRegisterRows : Obligations.UnitRegisterRows := by
  intro s view data v
  refine ⟨execCxlpAqWrite_served, fun h => ⟨execDeckleAqWrite_served h, execDeckleAqReset_served h⟩,
    execHeadboxJrnlBaseWrite_served, execHeadboxJrnlCfgWrite_served, ?port, execMeasIdxWrite_served,
    execNvmProfileSelWrite_served, ?operation⟩
  case port =>
    intro p hp page s1
    exact ⟨execPortEnableWrite_served hp, execPortRetrain_served hp,
      fun h => ⟨execMdioRead_served hp h, execMdioWrite_served hp h, execMdioAddress_served hp h⟩⟩
  case operation =>
    intro h off s1 act hidle
    have hfree : s1.flag F.NVM_STATE_busy = false := (s.flag_setHeld view Page.NVM none _).trans hidle
    refine ⟨nvmRow_begin h hfree, nvmRow_attest h hfree, fun hheld => ?_⟩
    have hrow (code : Nat) (hop : 0 < code ∧ code < 13 ∧ code ≠ 4) (hcode : v % 16 = code) :
        nvmRow code view off 4 data s = .next (act code) := nvmRow_activity h hfree hheld hop hcode
    exact ⟨hrow 1 (by decide), hrow 2 (by decide), hrow 3 (by decide), hrow 5 (by decide), hrow 6 (by decide),
      hrow 7 (by decide), hrow 8 (by decide), hrow 9 (by decide), hrow 10 (by decide), hrow 11 (by decide),
      hrow 12 (by decide)⟩

end Sys2Proof.Machine

namespace Sys2Proof.Machine

/-! The mapping of local addresses (R202): the key of a byte of HBM gives back its stack, channel and channel offset, and
these give back the address. -/

theorem bits_lt (v lo w : Nat) : bits v lo w < 2 ^ w := Nat.mod_lt _ (Nat.two_pow_pos w)

section
variable {stack channel choff stack' channel' choff' : Nat}

theorem hbmKey_div_channel (ho : choff < 2 ^ 32) : hbmKey stack channel choff / 2 ^ 32 = stack * 32 + channel := by
  unfold hbmKey; omega

theorem hbmKey_div_stack (hc : channel < 32) (ho : choff < 2 ^ 32) : hbmKey stack channel choff / 2 ^ 37 = stack := by
  unfold hbmKey; omega

theorem hbmKey_half (ho : choff < 2 ^ 32) : hbmKey stack channel choff / 2 ^ 36 % 2 = channel / 16 % 2 := by
  unfold hbmKey; omega

theorem hbmKey_inj (hc : channel < 32) (hc' : channel' < 32) (ho : choff < 2 ^ 32) (ho' : choff' < 2 ^ 32)
    (h : hbmKey stack channel choff = hbmKey stack' channel' choff') :
    stack = stack' ∧ channel = channel' ∧ choff = choff' := by
  unfold hbmKey at h; omega

end

/-- Channels of an entry: 32 of a stack, 16 of a half stack (R199). -/
def entryChannels (half : Bool) : Nat := if half then 16 else 32

section
variable (half : Bool) (h x y : Nat)

theorem entryMap_channel_half : (entryMap true h x).1 / 16 = h := by
  have hlow : bits (x / 256) 0 4 ^^^ bits (x / 256) 4 4 ^^^ bits (x / 256) 8 4 < 2 ^ 4 :=
    Nat.xor_lt_two_pow (Nat.xor_lt_two_pow (bits_lt ..) (bits_lt ..)) (bits_lt ..)
  simp only [entryMap, if_true]
  omega

theorem entryMap_channel_lt (hh : h < 2) : (entryMap half h x).1 < 32 := by
  cases half with
  | true =>
    have := entryMap_channel_half h x
    omega
  | false => exact Nat.xor_lt_two_pow (n := 5) (Nat.xor_lt_two_pow (bits_lt ..) (bits_lt ..)) (bits_lt ..)

theorem entryMap_offset : (entryMap half h x).2 = x / 256 / entryChannels half * 256 + x % 256 := by
  cases half <;> rfl

/-- Within one stripe of its channels, an entry's units of 256 bytes lie on channels of their own: the channel is the unit's number
within the stripe, changed by an exclusive or that depends on the stripe alone. -/
theorem entryMap_channel_inj (hstripe : x / 256 / entryChannels half = y / 256 / entryChannels half)
    (hchannel : (entryMap half h x).1 = (entryMap half h y).1) : x / 256 = y / 256 := by
  cases half with
  | true =>
    simp only [entryChannels, if_true] at hstripe
    have h4 : bits (x / 256) 4 4 = bits (y / 256) 4 4 := by unfold bits; omega
    have h8 : bits (x / 256) 8 4 = bits (y / 256) 8 4 := by unfold bits; omega
    have hlow : bits (x / 256) 0 4 = bits (y / 256) 0 4 := by
      simpa only [entryMap, if_true, h4, h8, Nat.add_left_cancel_iff, Nat.xor_left_inj] using hchannel
    unfold bits at hlow
    omega
  | false =>
    simp only [entryChannels, Bool.false_eq_true, if_false] at hstripe
    have h5 : bits (x / 256) 5 5 = bits (y / 256) 5 5 := by unfold bits; omega
    have h10 : bits (x / 256) 10 5 = bits (y / 256) 10 5 := by unfold bits; omega
    have hlow : bits (x / 256) 0 5 = bits (y / 256) 0 5 := by
      simpa only [entryMap, Bool.false_eq_true, if_false, h5, h10, Nat.xor_left_inj] using hchannel
    unfold bits at hlow
    omega

theorem entryMap_inj (hmap : entryMap half h x = entryMap half h y) : x = y := by
  have hoffset := congrArg Prod.snd hmap
  rw [entryMap_offset, entryMap_offset] at hoffset
  have hunit := entryMap_channel_inj half h x y (by omega) (congrArg Prod.fst hmap)
  omega

end

/-! The entries of a deckle (R138). -/

section
variable (s : State) (d : Nat)

theorem State.mem_entries {e : Nat × Nat} (he : e ∈ s.entries d) :
    e.2 < 2 ∧ s.ownsHalf d e.1 e.2 = true ∧ e.1 < 12 ∧ ((s.deckle d).half = false → e.2 = 0) := by
  unfold State.entries at he
  split at he
  next hhalf =>
    obtain ⟨b, hb, rfl⟩ := List.mem_map.mp he
    obtain ⟨hlt, howns⟩ := List.mem_filter.mp hb
    rw [List.mem_range] at hlt
    exact ⟨Nat.mod_lt _ (by decide), howns, by dsimp only; omega, by simp [hhalf]⟩
  next =>
    obtain ⟨i, hi, rfl⟩ := List.mem_map.mp he
    obtain ⟨hlt, howns⟩ := List.mem_filter.mp hi
    exact ⟨Nat.zero_lt_two, howns, List.mem_range.mp hlt, fun _ => rfl⟩

theorem State.entries_nodup : (s.entries d).Nodup := by
  unfold State.entries
  split
  · refine (List.nodup_range.filter _).map fun a b h => ?_
    rw [Prod.mk.injEq] at h
    omega
  · exact (List.nodup_range.filter _).map fun a b h => (Prod.mk.inj h).1

/-- The entry that a local address falls in, and its place there (R202): granules of 4 KiB rotate through the entries. -/
def State.entryAt (s : State) (d a : Nat) : Nat × Nat := (s.entries d).getD (a / 4096 % (s.entries d).length) (0, 0)
def State.placeAt (s : State) (d a : Nat) : Nat := a / 4096 / (s.entries d).length * 4096 + a % 4096

def State.channelAt (s : State) (d a : Nat) : Nat := (entryMap (s.deckle d).half (s.entryAt d a).2 (s.placeAt d a)).1
def State.offsetAt (s : State) (d a : Nat) : Nat := (entryMap (s.deckle d).half (s.entryAt d a).2 (s.placeAt d a)).2

theorem State.localKey_eq (a : Nat) : s.localKey d a = hbmKey (s.entryAt d a).1 (s.channelAt d a) (s.offsetAt d a) := rfl

end

section
variable {s : State} {d a b : Nat}

theorem State.entries_length_pos (ha : a < s.localSize d) : 0 < (s.entries d).length :=
  Nat.pos_of_ne_zero fun h => by simp [State.localSize, h] at ha

theorem State.entryAt_eq (ha : a < s.localSize d) :
    s.entryAt d a = (s.entries d)[a / 4096 % (s.entries d).length]'(Nat.mod_lt _ (State.entries_length_pos ha)) :=
  List.getD_eq_getElem _ _ _

theorem State.entryAt_mem (ha : a < s.localSize d) : s.entryAt d a ∈ s.entries d := by
  rw [State.entryAt_eq ha]
  exact List.getElem_mem _

theorem State.entryAt_inj (ha : a < s.localSize d) (hb : b < s.localSize d) (h : s.entryAt d a = s.entryAt d b) :
    a / 4096 % (s.entries d).length = b / 4096 % (s.entries d).length := by
  rw [State.entryAt_eq ha, State.entryAt_eq hb] at h
  exact (s.entries_nodup d).getElem_inj_iff.mp h

theorem State.localSize_granules (s : State) (d : Nat) :
    s.localSize d = (s.entries d).length * (s.entryBytes d / 4096) * 4096 := by
  have hentry : s.entryBytes d / 4096 * 4096 = s.entryBytes d := by unfold State.entryBytes; split <;> rfl
  rw [Nat.mul_assoc, hentry, State.localSize]

theorem State.placeAt_lt (ha : a < s.localSize d) : s.placeAt d a < s.entryBytes d := by
  rw [State.localSize_granules] at ha
  have hgranule : a / 4096 / (s.entries d).length < s.entryBytes d / 4096 :=
    Nat.div_lt_of_lt_mul (Nat.div_lt_of_lt_mul (by rw [Nat.mul_comm]; omega))
  unfold State.placeAt
  omega

theorem State.channelAt_lt (ha : a < s.localSize d) : s.channelAt d a < 32 :=
  entryMap_channel_lt _ _ _ (s.mem_entries d (State.entryAt_mem ha)).1

theorem State.offsetAt_lt (ha : a < s.localSize d) : s.offsetAt d a < 2 ^ 32 := by
  have hplace := State.placeAt_lt ha
  unfold State.offsetAt
  rw [entryMap_offset]
  unfold State.entryBytes at hplace
  unfold entryChannels
  split at hplace <;> simp only [*, Bool.false_eq_true, if_true, if_false] <;> omega

theorem State.eq_of_entryAt_placeAt (hentry : a / 4096 % (s.entries d).length = b / 4096 % (s.entries d).length)
    (hplace : s.placeAt d a = s.placeAt d b) : a = b := by
  unfold State.placeAt at hplace
  have ha := Nat.div_add_mod (a / 4096) (s.entries d).length
  have hb := Nat.div_add_mod (b / 4096) (s.entries d).length
  have hquotient : a / 4096 / (s.entries d).length = b / 4096 / (s.entries d).length := by omega
  rw [hentry, hquotient, hb] at ha
  omega

/-- The entry of an address is read off its key: a half stack by the upper bit of its channel. -/
theorem State.entryAt_of_key (ha : a < s.localSize d) (hb : b < s.localSize d)
    (hstack : (s.entryAt d a).1 = (s.entryAt d b).1) (hchannel : s.channelAt d a = s.channelAt d b) :
    s.entryAt d a = s.entryAt d b := by
  obtain ⟨-, -, -, hwhole⟩ := s.mem_entries d (State.entryAt_mem ha)
  obtain ⟨-, -, -, hwhole'⟩ := s.mem_entries d (State.entryAt_mem hb)
  refine Prod.ext hstack ?_
  cases hhalf : (s.deckle d).half with
  | false => rw [hwhole hhalf, hwhole' hhalf]
  | true =>
    unfold State.channelAt at hchannel
    rw [hhalf] at hchannel
    rw [← entryMap_channel_half (s.entryAt d a).2, hchannel, entryMap_channel_half]

/-- The mapping is one-to-one (R202). -/
theorem State.localKey_inj (ha : a < s.localSize d) (hb : b < s.localSize d) (h : s.localKey d a = s.localKey d b) : a = b := by
  obtain ⟨hstack, hchannel, hoffset⟩ :=
    hbmKey_inj (State.channelAt_lt ha) (State.channelAt_lt hb) (State.offsetAt_lt ha) (State.offsetAt_lt hb) h
  have hentry := State.entryAt_of_key ha hb hstack hchannel
  have hmap : entryMap (s.deckle d).half (s.entryAt d a).2 (s.placeAt d a) =
      entryMap (s.deckle d).half (s.entryAt d a).2 (s.placeAt d b) := by
    refine Prod.ext (hchannel.trans ?_) (hoffset.trans ?_)
    · rw [hentry]; rfl
    · rw [hentry]; rfl
  exact State.eq_of_entryAt_placeAt (State.entryAt_inj ha hb hentry) (entryMap_inj _ _ _ _ hmap)

end
section
variable {s : State} {d : Nat}

/-- Two units of 256 bytes of one granule lie on channels of their own. -/
theorem State.localKey_granule_ne {g i j : Nat} (hi : i < 16) (hj : j < 16) (hg : g * 4096 < s.localSize d) (hij : i ≠ j) :
    s.localKey d (g * 4096 + 256 * i) / 2 ^ 32 ≠ s.localKey d (g * 4096 + 256 * j) / 2 ^ 32 := by
  have hinside (k : Nat) (hk : k < 16) : g * 4096 + 256 * k < s.localSize d := by
    rw [State.localSize_granules] at hg ⊢
    have hbelow := Nat.lt_of_mul_lt_mul_right hg
    linarith
  have hgranule (k : Nat) (hk : k < 16) : (g * 4096 + 256 * k) / 4096 = g := by omega
  have hentry : s.entryAt d (g * 4096 + 256 * i) = s.entryAt d (g * 4096 + 256 * j) := by
    unfold State.entryAt
    rw [hgranule i hi, hgranule j hj]
  have hplace (k : Nat) (hk : k < 16) :
      s.placeAt d (g * 4096 + 256 * k) = g / (s.entries d).length * 4096 + 256 * k := by
    unfold State.placeAt
    rw [hgranule k hk]
    omega
  intro h
  rw [State.localKey_eq, State.localKey_eq, hbmKey_div_channel (State.offsetAt_lt (hinside i hi)),
    hbmKey_div_channel (State.offsetAt_lt (hinside j hj)), hentry, Nat.add_left_cancel_iff] at h
  unfold State.channelAt at h
  rw [hentry, hplace i hi, hplace j hj] at h
  have hunit := entryMap_channel_inj _ _ _ _ (by unfold entryChannels; split <;> omega) h
  omega

end

/-- Settles O53: the key of an address gives back its entry, its channel and its channel offset, and the channel is an exclusive
or that cancels within a stripe, so nothing is lost on the way. -/
theorem localAddressMap : Obligations.LocalAddressMap := by
  intro s d _
  refine ⟨fun a => ?rule, fun a b => State.localKey_inj, fun g i j => State.localKey_granule_ne⟩
  case rule =>
    cases hhalf : (s.deckle d).half <;> simp [State.localKey, entryMap, bits, hhalf]

end Sys2Proof.Machine

namespace Sys2Proof.Machine

/-! What a read finds after writes one after another. -/

section
variable {α β : Type} [DecidableEq α] (d : Nat → α) (f : β → Nat) (g : β → α) (m : Sparse α)

theorem Sparse.get_foldl_set_other {l : List β} {k : Nat} (h : ∀ x ∈ l, f x ≠ k) :
    Sparse.get d (l.foldl (fun m x => m.set d (f x) (g x)) m) k = m.get d k := by
  induction l generalizing m with
  | nil => rfl
  | cons x r ih =>
    rw [List.foldl_cons, ih _ fun y hy => h y (List.mem_cons_of_mem x hy),
      Sparse.get_set_other _ _ _ (h x List.mem_cons_self).symm]

/-- A key written, with one value wherever it is written, reads as that value. -/
theorem Sparse.get_foldl_set_mem {l : List β} {x : β} (hx : x ∈ l) (h : ∀ y ∈ l, f y = f x → g y = g x) :
    Sparse.get d (l.foldl (fun m x => m.set d (f x) (g x)) m) (f x) = g x := by
  induction l using List.reverseRecOn with
  | nil => exact absurd hx List.not_mem_nil
  | append_singleton r z ih =>
    have hlast : z ∈ r ++ [z] := List.mem_append_right r List.mem_cons_self
    rw [List.foldl_concat, Sparse.get_set]
    split
    next hkey => exact h z hlast hkey.symm
    next hkey =>
      have hmem : x ∈ r := (List.mem_append.mp hx).resolve_right fun hz => hkey (by rw [List.mem_singleton.mp hz])
      exact ih hmem fun y hy => h y (List.mem_append_left _ hy)

end

/-! Writes at local addresses (R205). -/

section
variable (s : State) (d a : Nat) (data : List Byte)

@[simp] theorem State.localKey_localWrite (b : Nat) : (s.localWrite d a data).localKey d b = s.localKey d b := rfl

/-- The units of 64 bytes that a range covers whole. -/
def wholeUnits (a n : Nat) : List Nat := (List.range ((a + n) / 64 - (a + 63) / 64)).map ((a + 63) / 64 + ·)

theorem mem_wholeUnits {n u : Nat} : u ∈ wholeUnits a n ↔ a ≤ 64 * u ∧ 64 * u + 64 ≤ a + n := by
  simp only [wholeUnits, List.mem_map, List.mem_range]
  constructor
  · rintro ⟨i, hi, rfl⟩
    omega
  · intro h
    exact ⟨u - (a + 63) / 64, by omega, by omega⟩

theorem State.localWrite_hbm : (s.localWrite d a data).hbm =
    data.zipIdx.foldl (fun m p => m.set (fun _ => 0) (s.localKey d (a + p.2)) p.1) s.hbm :=
  List.foldl_map

theorem State.localWrite_poison : (s.localWrite d a data).poison =
    (wholeUnits a data.length).foldl (fun m u => m.set (fun _ => false) (s.localKey d (u * 64) / 64) false) s.poison := by
  simp only [State.localWrite, wholeUnits, List.foldl_map]

variable {s d a data}

theorem State.localWrite_get_other {k : Nat} (h : ∀ i < data.length, s.localKey d (a + i) ≠ k) :
    (s.localWrite d a data).hbm.get (fun _ => 0) k = s.hbm.get (fun _ => 0) k := by
  rw [State.localWrite_hbm]
  exact Sparse.get_foldl_set_other _ (fun p : Byte × Nat => s.localKey d (a + p.2)) Prod.fst _ fun p hp =>
    h p.2 (by simpa using (List.mem_zipIdx hp).2.1)

theorem State.localWrite_get (hfit : a + data.length ≤ s.localSize d) {i : Nat} (hi : i < data.length) :
    (s.localWrite d a data).hbm.get (fun _ => 0) (s.localKey d (a + i)) = data[i] := by
  rw [State.localWrite_hbm]
  refine Sparse.get_foldl_set_mem _ (fun p : Byte × Nat => s.localKey d (a + p.2)) Prod.fst _ (x := (data[i], i))
    (List.mk_mem_zipIdx_iff_getElem?.mpr (List.getElem?_eq_getElem hi)) fun p hp hkey => ?_
  have hbound := (List.mem_zipIdx hp).2.1
  have hindex : p.2 = i := by
    have := State.localKey_inj (by omega) (by omega) hkey
    omega
  have hvalue := List.mk_mem_zipIdx_iff_getElem?.mp hp
  rw [hindex, List.getElem?_eq_getElem hi] at hvalue
  exact (Option.some.inj hvalue).symm

theorem State.localRead_localWrite (hfit : a + data.length ≤ s.localSize d) :
    (s.localWrite d a data).localRead d a data.length = data := by
  refine List.ext_getElem (by simp [State.localRead]) fun i _ hi => ?_
  simpa only [State.localRead, List.getElem_map, List.getElem_range, State.localKey_localWrite] using State.localWrite_get hfit hi

/-! Poison of units of 64 bytes (R204, R205). -/

theorem State.localKey_unit (s : State) (d u : Nat) : s.localKey d (u * 64) % 64 = 0 := by
  have hplace : s.placeAt d (u * 64) % 64 = 0 := by unfold State.placeAt; omega
  rw [State.localKey_eq, State.offsetAt, entryMap_offset, hbmKey]
  omega

theorem State.localKey_unit_inj {u v : Nat} (hu : u * 64 < s.localSize d) (hv : v * 64 < s.localSize d)
    (h : s.localKey d (u * 64) / 64 = s.localKey d (v * 64) / 64) : u = v := by
  have hkey : s.localKey d (u * 64) = s.localKey d (v * 64) := by
    have := s.localKey_unit d u
    have := s.localKey_unit d v
    omega
  have := State.localKey_inj hu hv hkey
  omega

theorem State.isPoisoned_unit (s : State) (d u : Nat) :
    s.isPoisoned d (64 * u) = s.poison.get (fun _ => false) (s.localKey d (u * 64) / 64) := by
  rw [State.isPoisoned, Nat.mul_div_cancel_left u (by decide)]

theorem State.isPoisoned_covered {u : Nat} (hfrom : a ≤ 64 * u) (hto : 64 * u + 64 ≤ a + data.length) :
    (s.localWrite d a data).isPoisoned d (64 * u) = false := by
  rw [State.isPoisoned_unit, State.localWrite_poison, State.localKey_localWrite]
  exact Sparse.get_foldl_set_mem _ (fun u => s.localKey d (u * 64) / 64) (fun _ => false) _
    ((mem_wholeUnits a).mpr ⟨hfrom, hto⟩) fun _ _ _ => rfl

theorem State.isPoisoned_uncovered (hfit : a + data.length ≤ s.localSize d) {u : Nat} (hu : 64 * u + 64 ≤ s.localSize d)
    (h : 64 * u < a ∨ a + data.length < 64 * u + 64) :
    (s.localWrite d a data).isPoisoned d (64 * u) = s.isPoisoned d (64 * u) := by
  rw [State.isPoisoned_unit, State.isPoisoned_unit, State.localWrite_poison, State.localKey_localWrite]
  refine Sparse.get_foldl_set_other _ (fun u => s.localKey d (u * 64) / 64) (fun _ => false) _ fun v hv hkey => ?_
  have hwhole := (mem_wholeUnits a).mp hv
  have := State.localKey_unit_inj (by omega) (by omega) hkey
  omega

/-- A range that takes in a poisoned unit cannot be read. -/
theorem State.localBad_of_poisoned {u b n : Nat} (hpoison : s.isPoisoned d (64 * u) = true) (hb : b < 64 * u + 64)
    (hu : 64 * u < b + n) (hn : 0 < n) : s.localBad d b n ≠ none := by
  have hunit : (b / 64 + (u - b / 64)) * 64 = 64 * u := by omega
  unfold State.localBad
  rw [if_neg (Nat.pos_iff_ne_zero.mp hn)]
  split
  · exact Option.some_ne_none _
  · rw [Ne, Option.map_eq_none_iff, List.find?_eq_none]
    exact fun h => h (u - b / 64) (List.mem_range.mpr (by omega)) (by rw [hunit]; exact hpoison)

end

/-- Settles O54: as the mapping is one-to-one, the keys that a write sets are the keys of its own addresses alone, and the units whose
poison it clears are those it covers whole. -/
theorem homeWrites : Obligations.HomeWrites := by
  intro s d a data hfit t
  refine ⟨State.localRead_localWrite hfit, fun b hb hout => ?bytes, fun _ _ => State.isPoisoned_covered,
    fun _ => State.isPoisoned_uncovered hfit, fun _ _ _ => State.localBad_of_poisoned⟩
  case bytes =>
    refine State.localWrite_get_other fun i hi hkey => ?_
    have := State.localKey_inj (by omega) hb hkey
    omega

end Sys2Proof.Machine

namespace Sys2Proof.Machine

/-! What a demand read leaves (R203, R204, R207, R215): it counts, poisons and may lose a half stack, but writes no byte. -/

section
variable {s t u : State}

theorem LeavesMemory.refl (s : State) : LeavesMemory s s := ⟨rfl, rfl⟩

theorem LeavesMemory.trans (h : LeavesMemory s t) (k : LeavesMemory t u) : LeavesMemory s u :=
  ⟨k.spad.trans h.spad, k.hbm.trans h.hbm⟩

theorem LeavesMemory.ite {c : Prop} {_ : Decidable c} (h : LeavesMemory s t) (k : LeavesMemory s u) :
    LeavesMemory s (if c then t else u) := by split <;> assumption

theorem LeavesMemory.when {c : Bool} {f : State → State} (h : LeavesMemory s t) (hf : LeavesMemory t (f t)) :
    LeavesMemory s (t.when c f) := .ite (h.trans hf) h

theorem LeavesMemory.each {α : Type} {l : List α} {f : State → α → State} (h : LeavesMemory s t)
    (hf : ∀ t x, LeavesMemory t (f t x)) : LeavesMemory s (t.each l f) :=
  List.foldlRecOn (motive := LeavesMemory s) _ _ h fun t k x _ => k.trans (hf t x)

theorem Shows.leavesMemory (h : Shows s t) : LeavesMemory s t := h.reports.leavesMemory

end

section
variable (s : State)

theorem State.modStack_leaves (stack : Nat) (f : Stack → Stack) : LeavesMemory s (s.modStack stack f) := ⟨rfl, rfl⟩

theorem State.modCtx_leaves (c : Nat) (f : Ctx → Ctx) : LeavesMemory s (s.modCtx c f) := ⟨rfl, rfl⟩

theorem State.setDeckle_leaves (d : Nat) (x : Deckle) : LeavesMemory s (s.setDeckle d x) := ⟨rfl, rfl⟩

theorem State.brokeAdd_leaves (kind loc cause : Nat) (retired : Bool) : LeavesMemory s (s.brokeAdd kind loc cause retired) :=
  ⟨rfl, rfl⟩

theorem State.bump_leaves (c : Cnt) (inst : Nat) : LeavesMemory s (s.bump c inst) := (s.bump_shows c inst).leavesMemory

theorem State.fset_leaves (f : Fld) (v inst : Nat) : LeavesMemory s (s.fset f v inst) := (s.fset_shows f v inst 0).leavesMemory

theorem State.raiseStack_leaves (e : Ev) (stack : Nat) : LeavesMemory s (s.raiseStack e stack) :=
  (s.raiseTo_shows e _ stack).leavesMemory

theorem State.scheduleRow_leaves (stack row : Nat) : LeavesMemory s (s.scheduleRow stack row) := s.modStack_leaves stack _

theorem State.loseHbm_leaves (d stack : Nat) : LeavesMemory s (s.loseHbm d stack) :=
  LeavesMemory.each (s.setDeckle_leaves d _) fun t c => (t.modCtx_leaves c _).trans (State.faultWith_reports ..).leavesMemory

theorem State.failHalf_leaves (stack half : Nat) : LeavesMemory s (s.failHalf stack half) := by
  unfold State.failHalf
  extract_lets f owners s1 s2
  have hrecorded : LeavesMemory s s1 := (s.fset_leaves ..).trans (State.brokeAdd_leaves ..)
  have hraised : LeavesMemory s s2 := (hrecorded.when (State.fset_leaves ..)).trans (State.raiseStack_leaves ..)
  exact .ite (.refl s) (hraised.each fun t d => t.loseHbm_leaves d stack)

theorem State.hurtArena_leaves (d a : Nat) : LeavesMemory s (s.hurtArena d a) := by
  unfold State.hurtArena
  extract_lets n at_ hurt r
  have hfound : LeavesMemory s r.1 := by
    refine List.foldlRecOn (motive := fun p : State × Option Nat => LeavesMemory s p.1) _ _ (.refl s) fun p hp c _ => ?_
    split
    · exact hp
    · split
      · dsimp only
        exact hp.trans (p.1.modCtx_leaves c _)
      · exact hp
  split
  · exact hfound.each fun t i => t.fset_leaves ..
  · exact hfound.trans (State.setDeckle_leaves ..)

theorem State.poisonUnit_leaves (stack channel choff : Nat) : LeavesMemory s (s.poisonUnit stack channel choff) := by
  unfold State.poisonUnit
  extract_lets unit s0 s1 s2 s3 s4
  have hpoison : LeavesMemory s s1 := ⟨rfl, rfl⟩
  have hplace : LeavesMemory s s2 := (hpoison.trans (State.bump_leaves ..)).trans (State.setReg_shows ..).leavesMemory
  have hrow : LeavesMemory s s3 := (hplace.trans (State.raiseStack_leaves ..)).trans (State.scheduleRow_leaves ..)
  have hchest : LeavesMemory s s4 := by
    refine hrow.each fun t d => ?_
    split
    · exact .ite (t.hurtArena_leaves ..) (.refl t)
    · exact .refl t
  exact hchest.when (State.failHalf_leaves ..)

theorem State.rowError_leaves (stack row : Nat) : LeavesMemory s (s.rowError stack row) :=
  LeavesMemory.when (f := (·.scheduleRow stack row)) (s.modStack_leaves stack _) (State.scheduleRow_leaves ..)

theorem State.eccFound_leaves (symbols : Nat) : LeavesMemory s (s.eccFound symbols).2 := by
  unfold State.eccFound
  split
  · exact .refl s
  · split
    · exact .refl s
    · split <;> exact ⟨rfl, rfl⟩

theorem State.demandUnit_leaves (d a symbols : Nat) : LeavesMemory s (s.demandUnit d a symbols) := by
  have hecc := s.eccFound_leaves symbols
  unfold State.demandUnit
  extract_lets key stack channel choff f
  refine .ite (.refl s) ?_
  split
  · exact hecc
  · exact (hecc.trans (State.bump_leaves ..)).trans (State.rowError_leaves ..)
  · exact hecc.trans (State.poisonUnit_leaves ..)

theorem State.demandRead_leaves (d a n : Nat) (errs : List (Nat × Nat)) : LeavesMemory s (s.demandRead d a n errs) :=
  .ite (.refl s) ((LeavesMemory.refl s).each fun t _ => t.demandUnit_leaves ..)

theorem State.countPoisons_leaves (d a n : Nat) : LeavesMemory s (s.countPoisons d a n) :=
  (LeavesMemory.refl s).each fun t _ => (LeavesMemory.refl t).when (State.bump_leaves ..)

end

/-! Host accesses (R308, R310): a read leaves the memory; a write is placed inside the deckle's own, or leaves it. -/

section
variable {s t : State} {d addr : Nat}

theorem execHostMemRead_leaves {n : Nat} {errs : List (Nat × Nat)} (h : execHostMemRead d addr n errs s = .next t) :
    LeavesMemory s t := by
  have hrefused (u : State) (hu : LeavesMemory s u) (data : List Byte) :
      LeavesMemory s ((u.bump C.CXLP_POISON_CNT).emit (.hostData data true)) :=
    (hu.trans (State.bump_leaves ..)).trans (State.emit_shows ..).leavesMemory
  have hread := s.demandRead_leaves d addr n errs
  rw [guardUnit_next h]
  refine .ite (.refl s) (.ite (hrefused _ (State.bump_leaves ..) _) (.ite (hrefused _ (.refl s) _) ?_))
  dsimp only
  split
  · exact hrefused _ (hread.trans (State.countPoisons_leaves ..)) _
  · exact hread.trans (State.emit_shows ..).leavesMemory

theorem State.localSize_of_hdmReach {n : Nat} (h : s.hdmReach d addr n = true) : addr + n ≤ s.localSize d := by
  simp only [State.hdmReach, Bool.and_eq_true, decide_eq_true_eq] at h
  exact h.2

theorem execHostMemWrite_places {data : List Byte} (h : execHostMemWrite d addr data s = .next t) :
    t.hbm = s.hbm ∨ addr + data.length ≤ s.localSize d ∧ t = s.localWrite d addr data := by
  have hnext := guardUnit_next h
  split at hnext
  · exact .inl (by rw [hnext])
  next hreach =>
    split at hnext
    · exact .inl (by rw [hnext]; exact (s.bump_leaves ..).hbm)
    · exact .inr ⟨State.localSize_of_hdmReach (by simpa using hreach), hnext⟩

end

/-! Who owns a byte of HBM (R311): the owner of the half stack in its key. -/

section
variable {s : State} {d e a : Nat}

/-- A deckle of whole stacks owns both halves of a stack, or neither (R312). -/
def State.WholeStacks (s : State) (d : Nat) : Prop :=
  (s.deckle d).half = false → ∀ i < 12, s.ownsHalf d i 0 = s.ownsHalf d i 1

/-- No half stack belongs to both deckles. -/
def State.Disjoint (s : State) (d e : Nat) : Prop :=
  ∀ k < 24, s.ownsHalf d (k / 2) (k % 2) = true → s.ownsHalf e (k / 2) (k % 2) = false

/-- The deckle owns the half stack of a key. -/
def State.ownsKey (s : State) (d key : Nat) : Bool := s.ownsHalf d (key / 2 ^ 37) (key / 2 ^ 36 % 2)

theorem State.ownsKey_localKey (hwhole : s.WholeStacks d) (ha : a < s.localSize d) :
    s.localKey d a / 2 ^ 37 < 12 ∧ s.ownsKey d (s.localKey d a) = true := by
  obtain ⟨hhalf, howns, hstack, hzero⟩ := s.mem_entries d (State.entryAt_mem ha)
  have hchannel := State.channelAt_lt ha
  have hoffset := State.offsetAt_lt ha
  rw [State.ownsKey, State.localKey_eq, hbmKey_div_stack hchannel hoffset, hbmKey_half hoffset]
  refine ⟨hstack, ?_⟩
  cases hkind : (s.deckle d).half with
  | true =>
    have hupper : s.channelAt d a / 16 = (s.entryAt d a).2 := by
      unfold State.channelAt
      rw [hkind, entryMap_channel_half]
    rw [hupper, Nat.mod_eq_of_lt hhalf, howns]
  | false =>
    rw [hzero hkind] at howns
    rcases Nat.mod_two_eq_zero_or_one (s.channelAt d a / 16) with h | h
    · rw [h, howns]
    · rw [h, ← hwhole hkind _ hstack, howns]

/-- A deckle owns no key of another's local addresses. -/
theorem State.ownsKey_other (hdisjoint : s.Disjoint d e) (hwhole : s.WholeStacks e) (ha : a < s.localSize e) :
    s.ownsKey d (s.localKey e a) = false := by
  obtain ⟨hstack, howns⟩ := State.ownsKey_localKey hwhole ha
  by_contra hother
  rw [Bool.not_eq_false] at hother
  generalize hi : s.localKey e a / 2 ^ 37 = i at hstack
  generalize hh : s.localKey e a / 2 ^ 36 % 2 = h
  have hlt : h < 2 := hh ▸ Nat.mod_lt _ (by decide)
  have hindex : (2 * i + h) / 2 = i ∧ (2 * i + h) % 2 = h := by omega
  have hnone := hdisjoint (2 * i + h) (by omega)
  rw [hindex.1, hindex.2, ← hi, ← hh] at hnone
  exact Bool.false_ne_true ((hnone hother).symm.trans howns)

end

/-- Settles O55: a byte belongs to the owner of the half stack in its key. A host write sets keys of the deckle's own addresses, and the
zeroing clears keys that it owns; a read leaves the memory as it is. -/
theorem deckleIsolation : Obligations.DeckleIsolation := by
  intro s d e hdisjoint hwhole b hb byte
  have hforeign : s.ownsKey d (s.localKey e b) = false := State.ownsKey_other hdisjoint (hwhole e (.inr rfl)) hb
  refine ⟨fun addr data t h => ?write, fun addr n errs t h => ?read, ?zero⟩
  case write =>
    rcases execHostMemWrite_places h with hkept | ⟨hfit, rfl⟩
    · exact congrArg (Sparse.get _ · _) hkept
    · refine State.localWrite_get_other fun i hi hkey => ?_
      obtain ⟨-, howns⟩ := State.ownsKey_localKey (hwhole d (.inl rfl)) (show addr + i < s.localSize d by omega)
      rw [hkey, hforeign] at howns
      exact Bool.false_ne_true howns
  case read => exact congrArg (Sparse.get _ · _) (execHostMemRead_leaves h).hbm
  case zero => exact (Sparse.get_clear ..).trans (if_neg (Bool.eq_false_iff.mp hforeign))

end Sys2Proof.Machine

namespace Sys2Proof.Machine

open Sys2Proof.Claims

/-! Commands that do not take effect (R215, R313, R317, R320, R508): what a row answers before it does what its command does. -/

section
variable {s : State} {r : CmdRef} {op : Nat} {k : Cmd}

/-- A row's answer where its command may not start, its function has no session, or its deckle has lost its HBM. -/
def Withheld (s : State) (r : CmdRef) (op : Nat) (answer : Host.Outcome State Fault Refusal) : Prop :=
  (s.starting r op = none → answer = .next s) ∧
  ∀ k, s.starting r op = some k →
    (k.authed = false → (s.session k.fn).opened = false → answer = .next (s.finish k 0x08)) ∧
    (k.authed = true ∨ (s.session k.fn).opened = true → 4 ≤ k.fn → (s.deckle (k.fn - 4)).lost = true →
      lostTakes op = false → answer = .next (s.finish k 0x12))

theorem cmdRow_withheld (hfn : r.fn < 20) (hqueue : r.queue < 64) (hop : op ≠ 0x01 ∧ op ≠ 0x02) (f : Cmd → State) :
    Withheld s r op (cmdRow op r s f) := by
  refine ⟨fun hstart => ?waits, fun k hstart => ⟨fun hauth hclosed => ?closed, fun hauth hfn4 hlost htakes => ?lost⟩⟩
  case waits => simp [cmdRow, guardUnit, hfn, hqueue, hstart]
  case closed => simp [cmdRow, guardUnit, hfn, hqueue, hstart, hauth, hclosed, hop]
  case lost =>
    have hopen : (!(k.authed || (s.session k.fn).opened || op == 0x01 || op == 0x02)) = false := by
      rcases hauth with hauth | hauth <;> simp [hauth]
    simp [cmdRow, guardUnit, hfn, hqueue, hstart, hopen, hfn4, hlost, htakes]

/-- A row's answer where the handle of its command names no live context, one of another deckle, or one whose state does not accept
the command; a row that serves orphans says itself what it does where no context is live. -/
def Refuses (s : State) (op : Nat) (k : Cmd) (answer : Host.Outcome State Fault Refusal) : Prop :=
  (∀ i, s.live k.ctx = some i → (s.ctx i).deckle + 4 ≠ k.fn → 4 ≤ k.fn → answer = .next (s.finish k 0x04)) ∧
  (op ≠ 0x21 → s.live k.ctx = none → answer = .next (s.finish k 0x04)) ∧
  ∀ i, s.live k.ctx = some i → (s.ctx i).deckle + 4 = k.fn → accepts (s.ctx i).st op = false →
    answer = .next (s.finish k 0x07 (s.ctx i).st.code)

theorem ctxRow_refuses (f : Cmd → Nat → State) (h : Takes s r op k) : Refuses s op k (ctxRow op r s f) := by
  rw [ctxRow, cmdRow_takes h]
  refine ⟨fun i hlive hother _ => ?other, fun _ hnone => ?none, fun i hlive hown hbars => ?bars⟩
  case other => simp only [hlive, if_pos hother]
  case none => simp only [hnone]
  case bars => simp [hlive, hown, hbars]

theorem execChestFree_refuses (h : Takes s r 0x21 k) : Refuses s 0x21 k (execChestFree r s) := by
  rw [execChestFree, cmdRow_takes h]
  refine ⟨fun i hlive hother hfn => ?other, fun hop => absurd rfl hop, fun i hlive hown hbars => ?bars⟩
  case other =>
    have hdeckle : (s.ctx i).deckle ≠ k.fn - 4 := by omega
    simp only [hlive, if_pos hdeckle]
  case bars =>
    have hdeckle : (s.ctx i).deckle = k.fn - 4 := by omega
    simp [hlive, hdeckle, hbars]

end

/-- Settles O20: each of these rows is a row of a command, or of a command of a context, whose answer before its command acts does
not depend on what that command does; CHEST_FREE alone looks for orphans where no context is live. -/
theorem commandRefusals : Obligations.CommandRefusals := by
  intro s r hfn hqueue
  refine ⟨?withheld, ?refused⟩
  case withheld =>
    have hrow (op : Nat) (hop : op ≠ 0x01 ∧ op ≠ 0x02) (f : Cmd → State) : Withheld s r op (cmdRow op r s f) :=
      cmdRow_withheld hfn hqueue hop f
    simp only [List.forall_mem_cons]
    exact ⟨hrow 0x10 (by decide) _, hrow 0x04 (by decide) _, hrow 0x06 (by decide) _, hrow 0x08 (by decide) _,
      hrow 0x2C (by decide) _, hrow 0x33 (by decide) _, hrow 0x40 (by decide) _, hrow 0x41 (by decide) _,
      hrow 0x12 (by decide) _, List.forall_mem_nil _⟩
  case refused =>
    have hrow (op : Nat) (f : Cmd → Nat → State) (k : Cmd) (h : Takes s r op k) : Refuses s op k (ctxRow op r s f) :=
      ctxRow_refuses f h
    simp only [List.forall_mem_cons]
    exact ⟨hrow 0x11 _, hrow 0x12 _, hrow 0x13 _, hrow 0x14 _, hrow 0x15 _, hrow 0x16 _, hrow 0x17 _, hrow 0x20 _,
      fun _ => execChestFree_refuses, hrow 0x22 _, hrow 0x23 _, hrow 0x24 _, hrow 0x26 _, hrow 0x28 _, hrow 0x29 _,
      hrow 0x2A _, hrow 0x2D _, List.forall_mem_nil _⟩

end Sys2Proof.Machine

namespace Sys2Proof.Machine

/-! Training and the tests of bring-up (R210, R481, R485). -/

section
variable {s : State}

theorem execMemoryTrainingStart_bringup
    (hphase : s.fget F.RSTCTL_BRINGUP_phase = 1 ∨ s.fget F.RSTCTL_BRINGUP_phase = 2) (hruns : s.upRuns = true)
    (hrail : s.rail 1 = true) (hmem : s.bring.mem = false) : execMemoryTrainingStart s = .next s.trainStart := by
  simp [execMemoryTrainingStart, guardUnit, hphase, hruns, hrail, hmem]

theorem execMemoryTrainingDone_training {failed : List Nat} {ms : Nat} {spare : List (Nat × Nat)} {i : Nat} (hi : i < 12)
    (htraining : s.memState i = memTraining) : execMemoryTrainingDone failed ms spare s =
      .next (let s1 := s.trainDone failed spare ms (!s.upDone)
        if s.upDone then s1 else ({ s1 with bring := { s1.bring with mem := true } }).checkHost) := by
  have hany : ((List.range 12).any fun i => s.memState i == memTraining) = true :=
    List.any_eq_true.mpr ⟨i, List.mem_range.mpr hi, by rw [htraining]; rfl⟩
  simp only [execMemoryTrainingDone, guardUnit, hany, Bool.not_true, Bool.false_eq_true, if_true, if_false]

section
variable {bad : List Nat} (hdone : s.upDone = false)
  (hphase : s.fget F.RSTCTL_BRINGUP_phase = 1 ∨ s.fget F.RSTCTL_BRINGUP_phase = 2) (hruns : s.upRuns = true)
  (hrail : s.rail 2 = true) (htest : s.bring.test = false)
include hdone hphase hruns hrail htest

theorem execComputeDieTestDone_passed : execComputeDieTestDone bad true true s = .next (({ s.retireTiles bad with
    bring := { (s.retireTiles bad).bring with test := true } }).checkHost) := by
  simp [execComputeDieTestDone, guardUnit, hdone, hphase, hruns, hrail, htest]

/-- The test is repeated once (R485). -/
theorem execComputeDieTestDone_failed {unitOk ioOk : Bool} (hfail : unitOk = false ∨ ioOk = false) :
    execComputeDieTestDone bad unitOk ioOk s = .next (if s.bring.repeated then s.failUp (if unitOk then 5 else 4) 0x0D
      else { s with bring := { s.bring with repeated := true } }) := by
  have hboth : (unitOk && ioOk) = false := by rcases hfail with rfl | rfl <;> simp
  simp [execComputeDieTestDone, guardUnit, hdone, hphase, hruns, hrail, htest, hboth]

end

theorem execHostLinkWindowEnd_training {l : Nat} (hl : l < 4) (hphase : s.fget F.RSTCTL_BRINGUP_phase = 3)
    (hlink : s.linkExists l = true) (hwindow : s.bring.windows.contains l = false) :
    execHostLinkWindowEnd l s = .next { s with bring := { s.bring with windows := s.bring.windows ++ [l] } } := by
  rw [execHostLinkWindowEnd, decide_eq_true hl, hwindow, if_pos ⟨hphase, hlink, rfl⟩]
  rfl

end

/-! READY (R428, R482). -/

section
variable (s : State) (state tier cause : Nat)

theorem State.rsState_setTier : (s.setTier state tier cause).rsState = state % 2 ^ 3 := by
  rw [State.rsState, State.setTier, State.fget_fset_above _ _ _ _ (by decide) (by decide) (by decide) (by decide),
    State.fget_fset_above _ _ _ _ (by decide) (by decide) (by decide) (by decide), State.fget_fset_same _ _ _ _ (by decide)]
  rfl

theorem State.tier_setTier : (s.setTier state tier cause).fget F.RSTCTL_STATE_tier = tier % 2 ^ 2 := by
  rw [State.setTier, State.fget_fset_above _ _ _ _ (by decide) (by decide) (by decide) (by decide),
    State.fget_fset_same _ _ _ _ (by decide)]
  rfl

/-- Bring-up shown as done (R482): its last phase and how long it took. -/
def State.showUp (s : State) (ms : Nat) : State :=
  (s.fset F.RSTCTL_BRINGUP_phase 4).fset F.RSTCTL_BRINGUP_ms (min 0xFFFF ms)

variable (ms : Nat)

theorem State.phase_showUp : (s.showUp ms).fget F.RSTCTL_BRINGUP_phase = 4 := by
  rw [State.showUp, State.fget_fset_above _ _ _ _ (by decide) (by decide) (by decide) (by decide),
    State.fget_fset_same _ _ _ _ (by decide)]
  rfl

theorem State.ms_showUp : (s.showUp ms).fget F.RSTCTL_BRINGUP_ms = min 0xFFFF ms := by
  rw [State.showUp, State.fget_fset_same _ _ _ _ (by decide)]
  exact Nat.mod_eq_of_lt (Nat.lt_succ_of_le (Nat.min_le_left ..))

/-- RSTCTL_STATE is another register. -/
theorem State.fget_showUp {f : Fld} (hpage : f.page = Page.RSTCTL) (hoff : f.off = 0x80) :
    (s.showUp ms).fget f = s.fget f := by
  have hpage' : f.page + 0 < 8192 := by rw [hpage]; decide
  have hoff' : f.off < 4096 := by rw [hoff]; decide
  have hother : (0, f.page + 0, f.off) ≠ (0, Page.RSTCTL + 0, 0xB0) := by simp [hoff]
  rw [State.showUp, State.fget_fset_other _ _ (by decide) (by decide) hpage' hoff' hother,
    State.fget_fset_other _ _ (by decide) (by decide) hpage' hoff' hother]

theorem execBringupReady_waits (h : s.upReady = false) : execBringupReady ms s = .next s := by
  simp [execBringupReady, guardUnit, h]

theorem execBringupReady_ready (h : s.upReady = true) :
    ∃ t c, execBringupReady ms s = .next ((State.setTier t rsReady 0 c).showUp ms) := by
  simp only [execBringupReady, guardUnit, h, if_true, Bool.not_true, Bool.false_eq_true, if_false]
  exact ⟨_, _, rfl⟩

theorem execBringupWatchdog_late
    (hphase : s.fget F.RSTCTL_BRINGUP_phase = 2 ∨ s.fget F.RSTCTL_BRINGUP_phase = 3) :
    execBringupWatchdog s = .next ((s.fset F.RSTCTL_STATE_cause 6).failUp 6 0x03) := by
  simp only [execBringupWatchdog, guardUnit, if_true, if_pos hphase]

end

/-- Settles O30: in bring-up each row is one branch, and READY writes the two registers that show it last. -/
theorem bringUpRows : Obligations.BringUpRows := by
  intro s
  refine ⟨execMemoryTrainingStart_bringup, ?training, ?test, fun l => execHostLinkWindowEnd_training,
    fun ms => execBringupReady_waits s ms, ?ready, execBringupWatchdog_late s⟩
  case training =>
    intro failed ms spare i hi htraining s1
    have hexec := execMemoryTrainingDone_training (failed := failed) (ms := ms) (spare := spare) hi htraining
    exact ⟨fun hdone => hexec.trans (congrArg _ (if_pos hdone)),
      fun hdone => hexec.trans (congrArg _ (if_neg (Bool.eq_false_iff.mp hdone)))⟩
  case test =>
    intro bad hdone hphase hruns hrail htest
    refine ⟨execComputeDieTestDone_passed hdone hphase hruns hrail htest, fun u io hfail => ?_⟩
    have hexec := execComputeDieTestDone_failed (bad := bad) hdone hphase hruns hrail htest hfail
    exact ⟨fun hfirst => hexec.trans (congrArg _ (if_neg (Bool.eq_false_iff.mp hfirst))),
      fun hagain => hexec.trans (congrArg _ (if_pos hagain))⟩
  case ready =>
    intro ms h
    obtain ⟨t, c, hexec⟩ := execBringupReady_ready s ms h
    exact ⟨_, hexec, (State.fget_showUp _ ms rfl rfl).trans (State.rsState_setTier t rsReady 0 c),
      (State.fget_showUp _ ms rfl rfl).trans (State.tier_setTier t rsReady 0 c), State.phase_showUp _ ms, State.ms_showUp _ ms⟩

end Sys2Proof.Machine

namespace Sys2Proof.Machine

/-! Host accesses (R204, R215, R310). -/

section
variable {s : State} {d addr : Nat}

section
variable {n : Nat} {errs : List (Nat × Nat)} (hd : d < 16) (hreach : s.hdmReach d addr n = true)
include hd hreach

section
variable (hlost : (s.deckle d).lost = false) (harena : s.inArena d addr n = false) (hfenced : s.memFenced d = false)
include hlost harena hfenced

theorem execHostMemRead_readable (hgood : (s.demandRead d addr n errs).localBad d addr n = none) :
    execHostMemRead d addr n errs s = .next ((s.demandRead d addr n errs).emit (.hostData (s.localRead d addr n) false)) := by
  simp [execHostMemRead, guardUnit, hd, hreach, hlost, harena, hfenced, hgood]

theorem execHostMemRead_poisoned {p : Nat × Nat} (hbad : (s.demandRead d addr n errs).localBad d addr n = some p) :
    execHostMemRead d addr n errs s = .next ((((s.demandRead d addr n errs).countPoisons d addr n).bump C.CXLP_POISON_CNT).emit
      (.hostData (s.localRead d addr n) true)) := by
  simp [execHostMemRead, guardUnit, hd, hreach, hlost, harena, hfenced, hbad]

end

theorem execHostMemRead_refused (hbars : (s.deckle d).lost = true ∨ s.inArena d addr n = true) :
    execHostMemRead d addr n errs s =
      .next (((s.bump C.DECKLE_MEM_REFUSE_CNT).bump C.CXLP_POISON_CNT).emit (.hostData (s.localRead d addr n) true)) := by
  simp [execHostMemRead, guardUnit, hd, hreach, hbars]

end

section
variable {data : List Byte} (hd : d < 16) (hreach : s.hdmReach d addr data.length = true)
include hd hreach

theorem execHostMemWrite_writes (hlost : (s.deckle d).lost = false) (harena : s.inArena d addr data.length = false)
    (hfenced : s.memFenced d = false) : execHostMemWrite d addr data s = .next (s.localWrite d addr data) := by
  simp [execHostMemWrite, guardUnit, hd, hreach, hlost, harena, hfenced]

theorem execHostMemWrite_refused (harena : s.inArena d addr data.length = true) :
    execHostMemWrite d addr data s = .next (s.bump C.DECKLE_MEM_REFUSE_CNT) := by
  simp [execHostMemWrite, guardUnit, hd, hreach, harena]

end

end

/-! Errors that a read finds (R203, R204). -/

section
variable {s : State} {e : Nat}

theorem State.eccFound_clean : s.eccFound 0 = (.clean, s) := if_pos rfl

theorem State.eccFound_corrected (h : e = 1 ∨ e = 2) : s.eccFound e = (.corrected, s) := by
  rw [State.eccFound, if_neg (by omega), if_pos (by omega)]

theorem State.eccFound_uncorrectable (hlo : 3 ≤ e) (hhi : e ≤ 6) : s.eccFound e = (.uncorrectable, s) := by
  rw [State.eccFound, if_neg (by omega), if_neg (by omega), if_pos hhi]

section
variable {d addr n : Nat}

/-- With errors in one unit of its range, a read is one demand of that unit. -/
theorem State.demandRead_one (hlost : (s.deckle d).lost = false) (hn : 0 < n) :
    s.demandRead d addr n [(addr, e)] = s.demandUnit d (addr / 64 * 64) e := by
  have hin : addr / 64 * 64 < addr + n := by omega
  simp [State.demandRead, State.each, hlost, hn, hin, List.eraseDups_cons]

variable (hgood : s.isPoisoned d (addr / 64 * 64) = false)
include hgood

theorem State.demandUnit_corrected (h : e = 1 ∨ e = 2) :
    let key := s.localKey d (addr / 64 * 64)
    s.demandUnit d (addr / 64 * 64) e = (s.bump C.HBMC_CE_CNT (key / 2 ^ 37)).rowError (key / 2 ^ 37)
      (rowOf' (key / 2 ^ 32 % 32) (key % 2 ^ 32 / 64 * 64)) := by
  simp only [State.demandUnit, hgood, State.eccFound_corrected h, Bool.false_eq_true, if_false]

theorem State.demandUnit_uncorrectable (hlo : 3 ≤ e) (hhi : e ≤ 6) :
    let key := s.localKey d (addr / 64 * 64)
    s.demandUnit d (addr / 64 * 64) e =
      s.poisonUnit (key / 2 ^ 37) (key / 2 ^ 32 % 32) (key % 2 ^ 32 / 64 * 64) := by
  simp only [State.demandUnit, hgood, State.eccFound_uncorrectable hlo hhi, Bool.false_eq_true, if_false]

end

end

/-! The patrol scrubber (R206). -/

section
variable {s : State} {stack channel : Nat}

/-- The channel offset of the unit that the scrubber reads next. -/
def State.scrubAt (s : State) (stack channel : Nat) : Nat := (s.stack stack).scrub.get (fun _ => 0) channel * 64

/-- The scrubber goes on to the channel's next unit. -/
def State.scrubOn (s : State) (stack channel : Nat) : State :=
  s.modStack stack fun x =>
    { x with scrub := x.scrub.set (fun _ => 0) channel (((s.stack stack).scrub.get (fun _ => 0) channel + 1) % channelUnits) }

/-- What the scrubber does about what it finds in a unit that is not poisoned. -/
def State.scrubFound (s : State) (stack channel choff : Nat) : EccError → State
  | .clean => s
  | .corrected => (s.bump C.HBMC_SCRUB_CE_CNT stack).rowError stack (rowOf' channel choff)
  | .uncorrectable => s.poisonUnit stack channel choff

variable (hstack : stackOk s stack = true) (hchannel : channel < 32) (hactive : s.memState stack = memActive)
  (hperiod : s.fget F.HBMC_SCRUB_period_h stack ≠ 0)
include hstack hchannel hactive hperiod

theorem execScrub_poisoned
    (hbad : s.poison.get (fun _ => false) (hbmKey stack channel (s.scrubAt stack channel) / 64) = true) (e : Nat) :
    execScrub stack channel e s = .next ((s.scrubOn stack channel).bump C.HBMC_POISON_RD_CNT stack) := by
  unfold State.scrubAt at hbad
  simp [execScrub, guardUnit, hstack, hchannel, hactive, hperiod, State.scrubOn, hbad]

variable (hgood : s.poison.get (fun _ => false) (hbmKey stack channel (s.scrubAt stack channel) / 64) = false)
include hgood

theorem execScrub_finds {e : Nat} {found : EccError}
    (hfound : (s.scrubOn stack channel).eccFound e = (found, s.scrubOn stack channel)) :
    execScrub stack channel e s =
      .next ((s.scrubOn stack channel).scrubFound stack channel (s.scrubAt stack channel) found) := by
  unfold State.scrubAt at hgood
  unfold State.scrubOn at hfound
  cases found <;>
    simp [execScrub, guardUnit, hstack, hchannel, hactive, hperiod, State.scrubOn, State.scrubAt, State.scrubFound, hgood, hfound]

end

/-! Rows and their repair (R207, R208, R425). -/

/-- A lock let go leaves all but the locks and what shows it. -/
theorem State.freeLock_shows (s : State) (cls inst : Nat) : ∃ locks, Shows { s with locks } (s.freeLock cls inst) := by
  unfold State.freeLock
  split
  · exact ⟨_, State.raiseBit_shows ..⟩
  · exact ⟨s.locks, .refl s⟩

/-- A row's repair recorded (R207): the row lies in a spare, and the broke map takes it at the next boundary (R409). -/
def State.recordRepair (s : State) (stack row : Nat) : State :=
  (s.modStack stack fun x => { x with
    repairing := none, repaired := x.repaired ++ [row], rowErrs := x.rowErrs.filter fun e => e.1 != row }).brokeAdd 0x4
      (rowLoc stack row) 0x0D true

section
variable {s : State} {stack row : Nat} (hstack : stackOk s stack = true) (hrow : rowOk row = true)
include hstack hrow

section
variable (hscheduled : (s.stack stack).scheduled.contains row = true) (hfree : (s.stack stack).repairing = none)
  (hactive : s.memState stack = memActive)
include hscheduled hfree hactive

theorem execRowRepair_starts (hspare : (s.stack stack).spares row ≠ 0) (hlock : s.conflict 4 stack = none) :
    execRowRepair stack row s = .next ((s.modStack stack fun _ =>
      { s.stack stack with
        scheduled := (s.stack stack).scheduled.erase row, repairing := some row }).takeLock 4 stack (4, 0) 0) := by
  simp only [execRowRepair, guardUnit, hstack, hrow, hscheduled, hfree, hactive, hlock, Bool.and_self, Bool.not_true,
    Bool.false_eq_true, Option.isSome_none, ne_eq, not_true, or_self, if_true, if_false, if_neg hspare]

theorem execRowRepair_noSpare (hspare : (s.stack stack).spares row = 0) :
    execRowRepair stack row s = .next (((s.modStack stack fun _ =>
      { s.stack stack with
        scheduled := (s.stack stack).scheduled.erase row, unrepaired := (s.stack stack).unrepaired ++ [row] }).brokeAdd 0x5
          (rowLoc stack row) 0x0D true).raiseStack E.HBMC_no_spare stack) := by
  simp only [execRowRepair, guardUnit, hstack, hrow, hscheduled, hfree, hactive, Bool.and_self, Bool.not_true,
    Bool.false_eq_true, Option.isSome_none, ne_eq, not_true, or_self, if_true, if_false, if_pos hspare]

end

theorem execRowRepairDone_records (hrepairing : (s.stack stack).repairing = some row) :
    ∃ t, Shows (s.recordRepair stack row) t ∧ execRowRepairDone stack row s = .next (t.freeLock 4 stack) := by
  simp only [execRowRepairDone, guardUnit, hstack, hrow, hrepairing, Bool.and_self, if_true, ne_eq, not_true, if_false]
  refine ⟨_, ?_, rfl⟩
  exact (((State.fset_shows ..).trans (State.fset_shows ..)).trans (State.bump_shows ..)).trans (State.raiseTo_shows ..)

theorem execRowRepairDone_repaired (hrepairing : (s.stack stack).repairing = some row) :
    ∃ u, execRowRepairDone stack row s = .next u ∧ u.hbm = s.hbm ∧ (u.stack stack).repairing = none ∧
      (u.stack stack).repaired = (s.stack stack).repaired ++ [row] ∧ u.broke = s.broke := by
  obtain ⟨t, ⟨_, _, _, _, ht⟩, hexec⟩ := execRowRepairDone_records hstack hrow hrepairing
  obtain ⟨locks, _, _, _, _, hu⟩ := t.freeLock_shows 4 stack
  refine ⟨_, hexec, ?_⟩
  rw [hu, ht]
  simp [State.recordRepair, State.stack, State.modStack, State.brokeAdd]

end

/-! Refresh (R209). -/

section
variable {s : State} {stack : Nat} {t : Int} (hstack : stackOk s stack = true) (hspot : s.spot (8 + stack) 0 = some t)
include hstack hspot

theorem execRefreshRateChange_rises (h : s.fget F.HBMC_STATE_refresh stack < refreshCode t) (cooled : Bool) :
    execRefreshRateChange stack cooled s =
      .next ((s.fset F.HBMC_STATE_refresh (refreshCode t) stack).raiseStack E.HBMC_refresh_change stack) := by
  simp only [execRefreshRateChange, guardUnit, hstack, hspot, if_true, if_pos h, if_neg (Nat.ne_of_gt h)]

theorem execRefreshRateChange_falls (h : refreshCode (t + 7) < s.fget F.HBMC_STATE_refresh stack) :
    execRefreshRateChange stack true s =
      .next ((s.fset F.HBMC_STATE_refresh (refreshCode (t + 7)) stack).raiseStack E.HBMC_refresh_change stack) := by
  have hcooler : refreshCode t ≤ refreshCode (t + 7) := by
    unfold refreshCode
    split_ifs <;> omega
  have hnoRise := Nat.not_lt.mpr (hcooler.trans h.le)
  simp only [execRefreshRateChange, guardUnit, hstack, hspot, if_true, if_neg hnoRise, Bool.true_and, decide_eq_true h,
    if_neg (Nat.ne_of_lt h)]

end

theorem execHalfStackFail_active {s : State} {stack half : Nat} (hstack : stackOk s stack = true) (hhalf : half < 2)
    (hactive : s.memState stack = memActive) : execHalfStackFail stack half s = .next (s.failHalf stack half) := by
  simp only [execHalfStackFail, guardUnit, hstack, decide_eq_true hhalf, Bool.and_self, if_true, if_pos hactive]

/-- Settles O28: each row is one branch on the state it finds; what a read finds in a unit is decided by the number of its symbols in
error. -/
theorem memoryRows : Obligations.MemoryRows := by
  intro s d addr n stack row data
  refine ⟨?read, ?demand, fun errs => execHostMemRead_refused, execHostMemWrite_writes, execHostMemWrite_refused,
    fun hstack => ⟨?scrub, ?repair, execRowRepairDone_repaired hstack, fun t => execRefreshRateChange_rises hstack,
      fun t => execRefreshRateChange_falls hstack, fun half => execHalfStackFail_active hstack⟩⟩
  case read =>
    intro errs hd hreach hlost harena hfenced s1
    exact ⟨execHostMemRead_readable hd hreach hlost harena hfenced,
      fun a => execHostMemRead_poisoned hd hreach hlost harena hfenced⟩
  case demand =>
    intro e hlost hgood hn _ key i channel choff
    have hone := State.demandRead_one (e := e) (addr := addr) hlost hn
    exact ⟨fun h => hone.trans (State.demandUnit_corrected hgood h),
      fun hlo hhi => hone.trans (State.demandUnit_uncorrectable hgood hlo hhi)⟩
  case scrub =>
    intro channel hchannel hactive hperiod choff s1 bad
    have hscrub := execScrub_finds hstack hchannel hactive hperiod
    exact ⟨execScrub_poisoned hstack hchannel hactive hperiod, fun hgood => ⟨hscrub hgood State.eccFound_clean,
      fun e he => hscrub hgood (State.eccFound_corrected he),
      fun e hlo hhi => hscrub hgood (State.eccFound_uncorrectable hlo hhi)⟩⟩
  case repair =>
    intro hrow hscheduled hfree hactive x
    exact ⟨execRowRepair_starts hstack hrow hscheduled hfree hactive,
      execRowRepair_noSpare hstack hrow hscheduled hfree hactive⟩

end Sys2Proof.Machine

namespace Sys2Proof.Machine

/-! Rows of a port that exists (R1, R25), and lanes it may use (R234, R236). -/

section
variable {s t u : State} {p : Nat}

theorem guardUnit_port (hp : p < 26) (hfit : s.portFitted p = true) (h : t = u) :
    guardUnit (portOk p && s.portFitted p) t = .next u := by
  rw [h, portOk, decide_eq_true hp, hfit]
  rfl

theorem guardUnit_lane {lane : Nat} (hp : p < 26) (hfit : s.portFitted p = true) (hlane : lane < 4) (h : t = u) :
    guardUnit (portOk p && s.portFitted p && decide (lane < 4)) t = .next u := by
  rw [decide_eq_true hlane, Bool.and_true]
  exact guardUnit_port hp hfit h

end

/-- A port takes part with no more lanes than have lock. -/
theorem length_filter_lanes_le (lanes : BitVec 4) (q : Nat → Bool) :
    ((List.range 4).filter fun l => lanes.getLsbD l && q l).length ≤ lanesIn lanes.toNat :=
  (List.monotone_filter_right _ fun _ h => (Bool.and_eq_true_iff.mp h).1).length_le

/-- Of the lanes with lock, those that the broke map does not hold as retired. -/
def State.usableLanes (s : State) (p : Nat) (lanes : BitVec 4) : List Nat :=
  (List.range 4).filter fun l => lanes.getLsbD l && !s.laneRetired p l

/-- What PORT_LANE_STATE shows of the lanes as they lock (R241): lock, polarity and order. -/
def State.showLanes (s : State) (p : Nat) (ok : List Nat) (inv : BitVec 4) (rev : Bool) : State :=
  (List.range 4).foldl (fun s l => ((s.fset (laneF l 0 1) (if ok.contains l then 1 else 0) p).fset (laneF l 2 1)
    (if inv.getLsbD l then 1 else 0) p).fset (laneF l 3 2) (if rev then 3 - l else l) p) s

section
variable {s : State} {p : Nat} (hp : p < 26) (hfit : s.portFitted p = true)
include hp hfit

/-! Training (R227). -/

section
variable {lanes : BitVec 4}

theorem execSignalDetect_trains (hst : s.portState p = stDetect) (hmode : s.portMode p ≠ 1) (hlanes : 2 ≤ lanesIn lanes.toNat) :
    execSignalDetect p lanes s = .next (s.portTo p stTrain 0) :=
  guardUnit_port hp hfit (if_pos ⟨hst, hlanes, hmode⟩)

theorem execSignalDetect_weak (hlanes : lanesIn lanes.toNat < 2) : execSignalDetect p lanes s = .next s :=
  guardUnit_port hp hfit (if_neg fun h => hlanes.not_ge h.2.1)

theorem execLanesLocked_few {inv : BitVec 4} {rev : Bool} (hlanes : lanesIn lanes.toNat < 2) :
    execLanesLocked p lanes inv rev s = .next s :=
  guardUnit_port hp hfit (if_pos (.inr ((length_filter_lanes_le lanes _).trans_lt hlanes)))

theorem execLanesLocked_locks {inv : BitVec 4} {rev : Bool} (hst : s.portState p = stTrain)
    (hclear : (s.port p).clearing = false) (hlanes : 2 ≤ (s.usableLanes p lanes).length) :
    execLanesLocked p lanes inv rev s = .next ((((s.showLanes p (s.usableLanes p lanes) inv rev).fset F.PORT_STATE_lanes
      (((s.usableLanes p lanes).map fun l => 2 ^ l).foldl (· + ·) 0) p).modPort p fun x =>
        { x with clearing := false }).toIdentify p) := by
  have hlock : ¬ (s.portState p ≠ stTrain ∨ (s.usableLanes p lanes).length < 2) := by
    rw [hst]
    omega
  simp only [execLanesLocked, hclear, Bool.false_or, Bool.false_and, Bool.false_eq_true, if_false]
  exact guardUnit_port hp hfit (if_neg hlock)

end

theorem execSignalLoss_detects (hoff : s.portState p ≠ stOff) (habsent : s.portState p ≠ stAbsent)
    (hretired : s.portState p ≠ stRetired) (hdetect : s.portState p ≠ stDetect) :
    execSignalLoss p s = .next (s.toDetect p) :=
  guardUnit_port hp hfit (if_neg (by simp only [hoff, habsent, hretired, hdetect, or_self, not_false_eq_true]))

theorem execDetectTimeout_wanted (hst : s.portState p = stDetect) (hwanted : s.portWanted p = true) (hmode : s.portMode p ≠ 1) :
    execDetectTimeout p s = .next (s.portTo p stAbsent 0) :=
  guardUnit_port hp hfit (if_pos ⟨hst, hwanted, hmode⟩)

/-- An unused port stays in DETECT (R221). -/
theorem execDetectTimeout_unwanted (hwanted : s.portWanted p = false) : execDetectTimeout p s = .next s :=
  guardUnit_port hp hfit (if_neg fun h => Bool.eq_false_iff.mp hwanted h.2.1)

theorem execPhyTrainTimeout_trains (hst : s.portState p = stTrain) :
    execPhyTrainTimeout p s = .next (s.portTo p stAbsent 0) :=
  guardUnit_port hp hfit (if_pos hst)

theorem execIdentifyTimeout_identifies (hst : s.portState p = stIdentify) (hmode : s.portMode p = 0) :
    execIdentifyTimeout p s = .next ((s.bump C.PORT_ID_REJECT_CNT p).hold p stHeld 0x08 0 0 0) :=
  guardUnit_port hp hfit (if_pos ⟨hst, hmode⟩)

theorem execSealTimeout_seals (hst : s.portState p = stSeal) : execSealTimeout p s = .next (s.hold p stHeld 0x08 0 0 0) :=
  guardUnit_port hp hfit (if_pos hst)

theorem execRetrainTimeout_retrains (hst : s.portState p = stRetrain) : execRetrainTimeout p s = .next (s.toDetect p) :=
  guardUnit_port hp hfit (if_pos hst)

theorem execAbsentRetry_absent (hst : s.portState p = stAbsent) : execAbsentRetry p s = .next (s.toDetect p) :=
  guardUnit_port hp hfit (if_pos hst)

theorem execHold_eq (status : Nat) (miswire : BitVec 32) : execHold p status miswire s =
    .next (s.modPort p fun x => { x with peerHold := some (status, miswire.toNat) }) :=
  guardUnit_port hp hfit rfl

/-! Ethernet use (R238). -/

section
variable (hmode : s.portMode p = 1)
include hmode

theorem execEthLinkUp_up (hoff : s.portState p ≠ stOff) (hretired : s.portState p ≠ stRetired) :
    execEthLinkUp p s = .next ((s.portTo p stActive 0).flushEth p) :=
  guardUnit_port hp hfit (if_pos ⟨hmode, hoff, hretired⟩)

theorem execEthLinkTimeout_absent (hoff : s.portState p ≠ stOff) (hretired : s.portState p ≠ stRetired) :
    execEthLinkTimeout p s = .next (s.portTo p stAbsent 0) :=
  guardUnit_port hp hfit (if_pos ⟨hmode, hoff, hretired⟩)

end

section
variable {f : EthFrame}

theorem execEthFrame_long (hlen : 9216 < f.len) : execEthFrame p f s = .next s :=
  guardUnit_port hp hfit (if_pos (.inr (.inr hlen)))

variable (hactive : s.portActive p = true) (hmode : s.portMode p = 1) (hlen : f.len ≤ 9216)
include hactive hmode hlen

omit hp hfit in
theorem ethFrame_received : ¬ (s.portMode p ≠ 1 ∨ (!s.portActive p) = true ∨ 9216 < f.len) := by
  rw [hmode, hactive]
  simpa using hlen

theorem execEthFrame_pause {times : List (Nat × Nat)} (hmac : f.dmac = pauseMac) (hbody : f.body = .pause times) :
    execEthFrame p f s = .next (s.takePause p times) := by
  refine guardUnit_port hp hfit ((if_neg (ethFrame_received hactive hmode hlen)).trans ?_)
  rw [hbody]
  exact if_pos (.inl hmac)

variable (hmac : f.dmac = Config.portMac p 0 ∨ f.dmac = Config.portMac p 1)
include hmac

omit hp hfit hactive hmode hlen in
theorem ethFrame_mine : (f.dmac == Config.portMac p 0 || f.dmac == Config.portMac p 1) = true := by simpa using hmac

theorem execEthFrame_other {data : List Byte} (hbody : f.body = .other data) :
    execEthFrame p f s = .next (s.modPort p fun x => { x with frames := x.frames ++ [data] }) := by
  refine guardUnit_port hp hfit ((if_neg (ethFrame_received hactive hmode hlen)).trans ?_)
  rw [hbody]
  exact if_pos (ethFrame_mine hmac)

theorem execEthFrame_roce {r : Roce} {d : Nat} {q : Qp} (hbody : f.body = .roce r) (hqp : s.qpAt p r = some (d, q)) :
    execEthFrame p f s = .next (s.takeRoce d q r) := by
  refine guardUnit_port hp hfit ((if_neg (ethFrame_received hactive hmode hlen)).trans ?_)
  rw [hbody]
  dsimp only
  rw [if_pos (ethFrame_mine hmac), hqp]

end

/-! S7 use (R239). -/

section
variable (hmode : s.portMode p = 2)
include hmode

theorem execS7HelloTimeout_identifies (hst : s.portState p = stIdentify) :
    execS7HelloTimeout p s = .next (s.portTo p stAbsent 0) :=
  guardUnit_port hp hfit (if_pos ⟨hmode, hst⟩)

section
variable (hst : s.portState p = stIdentify) {pl : Plan} (hplan : s.plan = some pl) {serial pp : Nat}
include hst hplan

omit hp hfit hplan in
theorem s7Hello_compared : ¬ (s.portMode p ≠ 2 ∨ s.portState p ≠ stIdentify) := by
  rw [hmode, hst]
  simp

theorem execS7Hello_expected (hserial : serial = planSerial (planEntry pl p)) (hport : pp = planPort (planEntry pl p)) :
    execS7Hello p serial pp s =
      .next (((s.fset F.PORT_PARTNER_SN_serial serial p).fset F.PORT_PARTNER_port pp p).toActive p) := by
  refine guardUnit_port hp hfit ?_
  rw [hplan]
  exact (if_neg (s7Hello_compared hmode hst)).trans (if_pos ⟨hserial, hport⟩)

theorem execS7Hello_unexpected (h : serial ≠ planSerial (planEntry pl p) ∨ pp ≠ planPort (planEntry pl p)) :
    execS7Hello p serial pp s = .next (((((s.fset F.PORT_PARTNER_SN_serial serial p).fset F.PORT_PARTNER_port pp p).bump
      C.PORT_ID_REJECT_CNT p).noteMiswire p 0 pp).hold p stHeld 0x10 0 0 pp) := by
  refine guardUnit_port hp hfit ?_
  rw [hplan]
  exact (if_neg (s7Hello_compared hmode hst)).trans (if_neg (not_and_or.mpr h))

end

variable {net : Nat} {f : List Byte}

theorem execS7Frame_carried (hactive : s.portActive p = true) (hnet : net = s.fget F.PORT_CFG_s7_net p) :
    execS7Frame p net f s = .next (s.modPort p fun x => { x with frames := x.frames ++ [f] }) :=
  guardUnit_port hp hfit (if_pos ⟨hmode, hactive, hnet⟩)

omit hmode in
theorem execS7Frame_uncarried (hnet : net ≠ s.fget F.PORT_CFG_s7_net p) : execS7Frame p net f s = .next s :=
  guardUnit_port hp hfit (if_neg fun h => hnet h.2.2)

end

end

/-- Settles O35: each row of training is one branch on the state it finds, and what a port receives depends on its use. -/
theorem portTrainingRows : Obligations.PortTrainingRows := by
  intro s p hp hfit st mode
  refine ⟨fun _ => execSignalDetect_trains hp hfit, fun _ => execSignalDetect_weak hp hfit, execSignalLoss_detects hp hfit,
    execDetectTimeout_wanted hp hfit, fun _ => execDetectTimeout_unwanted hp hfit,
    fun _ _ _ _ => execLanesLocked_few hp hfit, fun hst hclear _ _ _ => execLanesLocked_locks hp hfit hst hclear,
    execPhyTrainTimeout_trains hp hfit, execIdentifyTimeout_identifies hp hfit, execSealTimeout_seals hp hfit,
    execRetrainTimeout_retrains hp hfit, execAbsentRetry_absent hp hfit, ?ethLink, execS7HelloTimeout_identifies hp hfit,
    ?hello, ?s7Frame, ?ethFrame, execHold_eq hp hfit⟩
  case ethLink =>
    exact fun hmode hoff hretired =>
      ⟨execEthLinkUp_up hp hfit hmode hoff hretired, execEthLinkTimeout_absent hp hfit hmode hoff hretired⟩
  case hello =>
    intro hmode hst pl serial pp hplan e s1
    exact ⟨execS7Hello_expected hp hfit hmode hst hplan, execS7Hello_unexpected hp hfit hmode hst hplan⟩
  case s7Frame =>
    exact fun net f hactive hmode => ⟨execS7Frame_carried hp hfit hmode hactive, execS7Frame_uncarried hp hfit⟩
  case ethFrame =>
    intro f hactive hmode
    refine ⟨execEthFrame_long hp hfit, fun hlen hmac => ⟨fun data => ?_, fun r d q => ?_⟩, fun times hlen => ?_⟩
    · exact execEthFrame_other hp hfit hactive hmode hlen hmac
    · exact execEthFrame_roce hp hfit hactive hmode hlen hmac
    · exact execEthFrame_pause hp hfit hactive hmode hlen

end Sys2Proof.Machine

namespace Sys2Proof.Machine

/-- What a port holds of its partner's set after a segment (R224, R229): a segment at offset 0 begins it, one at its end goes on. -/
def Port.withSegment (x : Port) (offset : Nat) (seg : List Byte) : List Byte :=
  if offset = 0 then seg else if offset = x.idBuf.length then x.idBuf ++ seg else x.idBuf

@[simp] theorem Port.withSegment_zero (x : Port) (seg : List Byte) : x.withSegment 0 seg = seg := if_pos rfl

theorem Port.withSegment_end {x : Port} (hbegun : x.idBuf ≠ []) (seg : List Byte) :
    x.withSegment x.idBuf.length seg = x.idBuf ++ seg :=
  (if_neg (mt List.length_eq_zero_iff.mp hbegun)).trans (if_pos rfl)

/-- The lanes that this end keeps: those of the port, without any that it proposes to give up. -/
def State.keptLanes (s : State) (p : Nat) : Nat := match (s.port p).width with | some w => w.1 | none => s.portLanes p

/-- The losses of lock of a lane within the 10 s before now. -/
def State.recentLosses (s : State) (p lane : Nat) : List (Nat × Nat) :=
  (s.port p).losses.filter fun e => e.1 == lane && decide (s.ms < e.2 + 10000)

/-- A loss of lock shown and noted with those of the last 10 s. -/
def State.noteLoss (s : State) (p lane : Nat) : State :=
  ((s.bump C.PORT_LOCK_LOSS_CNT p).fset (laneF lane 0 1) 0 p).modPort p fun x =>
    { x with losses := (x.losses.filter fun e => e.1 != lane) ++ s.recentLosses p lane ++ [(lane, s.ms)] }

section
variable {s : State} {p : Nat} (hp : p < 26) (hfit : s.portFitted p = true)
include hp hfit

section
variable (hmode : s.portMode p = 0)
include hmode

/-! Identity sets (R229, R230). -/

section
variable {sender offset : Nat} {seg : List Byte}

theorem execIdSeg_eq (hst : s.portState p = stIdentify ∨ s.portState p = stRetrain) :
    execIdSeg p sender offset seg s = .next (
      if s.portState p = stIdentify ∧ setLength ≤ ((s.port p).withSegment offset seg).length then
        s.checked p ((s.port p).withSegment offset seg) sender
      else (s.modPort p fun x => { x with idBuf := (s.port p).withSegment offset seg, idFrom := sender }).when
        (s.portState p == stRetrain) (·.retrained p)) := by
  refine guardUnit_port hp hfit (if_neg ?_)
  rintro (⟨hidentify, hretrain⟩ | hother)
  · exact hst.elim hidentify hretrain
  · exact hother hmode

theorem execIdSeg_begins (hst : s.portState p = stIdentify) (hpart : seg.length < setLength) :
    execIdSeg p sender 0 seg s = .next (s.modPort p fun x => { x with idBuf := seg, idFrom := sender }) := by
  rw [execIdSeg_eq hp hfit hmode (.inl hst), Port.withSegment_zero, if_neg fun h => hpart.not_ge h.2, hst]
  rfl

theorem execIdSeg_completes (hst : s.portState p = stIdentify) (hwhole : setLength ≤ (s.port p).idBuf.length + seg.length)
    (hbegun : (s.port p).idBuf ≠ []) : execIdSeg p sender (s.port p).idBuf.length seg s =
      .next (s.checked p ((s.port p).idBuf ++ seg) sender) := by
  rw [execIdSeg_eq hp hfit hmode (.inl hst), Port.withSegment_end hbegun, if_pos ⟨hst, List.length_append ▸ hwhole⟩]

theorem execIdSeg_retrains (hst : s.portState p = stRetrain) : execIdSeg p sender 0 seg s =
    .next ((s.modPort p fun x => { x with idBuf := seg, idFrom := sender }).retrained p) := by
  rw [execIdSeg_eq hp hfit hmode (.inr hst), Port.withSegment_zero, hst]
  rfl

end

/-! Latency (R232). -/

theorem execEcho_answers {stamp turn now : Nat} (hst : stIdentify ≤ s.portState p) : execEcho p true stamp turn now s =
    .next (s.sendCtl p 2 (leBytes 1 0 ++ leBytes 8 stamp ++ leBytes 2 turn)) := by
  refine guardUnit_port hp hfit ((if_neg ?_).trans (if_pos rfl))
  simpa [hmode] using hst

section
variable {stamp turn rtt b : Nat} (hst : s.portState p = stLatency) (hfresh : (s.port p).fresh = false)
  (hbest : (s.port p).best = some b)
include hst hfresh hbest

/-- A reply to an open measurement gives its round trip less the turnaround. -/
theorem execEcho_reply : execEcho p false stamp turn (stamp + turn + rtt) s = .next (
    if (s.port p).echoes + 1 < 256 then
      s.setPort p { s.port p with echoes := (s.port p).echoes + 1, best := some (min b rtt) }
    else ((s.setPort p { s.port p with echoes := 256, best := some (min b rtt), fresh := true }).fset F.PORT_LATENCY_one_way
      (min 0xFFFF (min b rtt / 2)) p).afterLatency p) := by
  have hrtt : stamp + turn + rtt - stamp - turn = rtt := by omega
  have hintime : ¬ stamp + turn + rtt < stamp + turn := by omega
  have hlate : ¬ stLatency < stIdentify := by decide
  simp only [execEcho, hmode, hst, hfresh, hbest, hrtt, hintime, hlate, ne_eq, not_true, false_and, Bool.false_eq_true, or_self,
    if_true, if_false]
  exact guardUnit_port hp hfit rfl

theorem execEcho_counts (hmore : (s.port p).echoes < 255) : execEcho p false stamp turn (stamp + turn + rtt) s =
    .next (s.setPort p { s.port p with echoes := (s.port p).echoes + 1, best := some (min b rtt) }) := by
  rw [execEcho_reply hp hfit hmode hst hfresh hbest, if_pos (Nat.succ_lt_succ hmore)]

theorem execEcho_measures (hlast : (s.port p).echoes = 255) : execEcho p false stamp turn (stamp + turn + rtt) s =
    .next (((s.setPort p { s.port p with echoes := 256, best := some (min b rtt), fresh := true }).fset F.PORT_LATENCY_one_way
      (min 0xFFFF (min b rtt / 2)) p).afterLatency p) := by
  rw [execEcho_reply hp hfit hmode hst hfresh hbest, hlast]
  exact congrArg _ (if_neg (by decide))

end

theorem execReplayTimeout_replays (hst : stIdentify ≤ s.portState p) : execReplayTimeout p s = .next (s.replay p) :=
  guardUnit_port hp hfit (if_pos ⟨hst, hmode⟩)

/-! Widths (R235, R240). -/

section
variable (hactive : s.portActive p = true) {m : BitVec 4} {n : Nat}
include hactive

omit hp hfit in
theorem width_received : ¬ ((!s.portActive p) = true ∨ s.portMode p ≠ 0) := by
  rw [hactive, hmode]
  simp

theorem execWidth_proposed : execWidth p m n false s =
    .next ((s.sendCtl p 3 (leBytes 1 (m.toNat &&& s.keptLanes p) ++ leBytes 1 n ++ leBytes 1 1)).setWidth p
      (m.toNat &&& s.keptLanes p)) :=
  guardUnit_port hp hfit ((if_neg (width_received hmode hactive)).trans (if_neg Bool.false_ne_true))

theorem execWidth_accepted {o : Nat} (hwidth : (s.port p).width = some (o, n)) :
    execWidth p m n true s = .next (s.setWidth p (m.toNat &&& s.keptLanes p)) := by
  rw [State.keptLanes, hwidth]
  refine guardUnit_port hp hfit ((if_neg (width_received hmode hactive)).trans ((if_pos rfl).trans ?_))
  rw [hwidth]
  exact if_pos rfl

theorem execWidth_unasked (hwidth : ∀ o, (s.port p).width ≠ some (o, n)) : execWidth p m n true s = .next s := by
  refine guardUnit_port hp hfit ((if_neg (width_received hmode hactive)).trans ((if_pos rfl).trans ?_))
  cases hw : (s.port p).width with
  | none => rfl
  | some w => exact if_neg fun hn => hwidth w.1 (hw.trans (by rw [← hn]))

end

end

/-! Lanes (R234). -/

section
variable {lane : Nat} (hlane : lane < 4)
include hlane

theorem execLaneLockLoss_inactive (hlanes : (s.portLanes p).testBit lane = false) : execLaneLockLoss p lane s = .next s :=
  guardUnit_lane hp hfit hlane (if_pos (by rw [hlanes]; rfl))

section
variable (hlanes : (s.portLanes p).testBit lane = true)
include hlanes

omit hp hfit hlane in
theorem laneLockLoss_lost : ¬ (!(s.portLanes p).testBit lane) = true := by rw [hlanes]; simp

theorem execLaneLockLoss_shown (hinactive : s.portActive p = false) :
    execLaneLockLoss p lane s = .next (s.noteLoss p lane) :=
  guardUnit_lane hp hfit hlane ((if_neg (laneLockLoss_lost hlanes)).trans (if_pos (.inl (by rw [hinactive]; rfl))))

theorem execLaneLockLoss_third (hactive : s.portActive p = true) (hmode : s.portMode p ≠ 1)
    (hlosses : 2 ≤ (s.recentLosses p lane).length) :
    execLaneLockLoss p lane s = .next ((s.noteLoss p lane).retireLane p lane) := by
  have huse : ¬ ((!s.portActive p) = true ∨ s.portMode p = 1) := by simpa [hactive] using hmode
  exact guardUnit_lane hp hfit hlane ((if_neg (laneLockLoss_lost hlanes)).trans ((if_neg huse).trans (if_pos hlosses)))

end

theorem execLaneRelock_active (hactive : s.portActive p = true) (hst : s.portState p ≠ stRetrain) : execLaneRelock p lane s =
    .next ((s.modPort p fun x => { x with relock := x.relock.filter (· != lane) }).fset (laneF lane 0 1) 1 p) :=
  guardUnit_lane hp hfit hlane ((if_neg fun h => hst h.1).trans (if_pos (.inr hactive)))

theorem execLaneRelockTimeout_waiting (hactive : s.portActive p = true) (hrelock : (s.port p).relock.contains lane = true) :
    execLaneRelockTimeout p lane s = .next (s.retireLane p lane) :=
  guardUnit_lane hp hfit hlane (if_pos ⟨hactive, hrelock⟩)

theorem execLaneCsrLimit_active (hactive : s.portActive p = true) (hmode : s.portMode p ≠ 1) :
    execLaneCsrLimit p lane s =
      .next (if s.flag F.PORT_LANE_CFG_csr_limit p then s.retireLane p lane else s) :=
  guardUnit_lane hp hfit hlane (by simp only [hactive, hmode, ne_eq, not_false_eq_true, true_and])

end

end

/-- Settles O36: each row of a link is one branch; a segment adds to the set held, a reply gives a round trip, and a width keeps
the lanes that both ends have. -/
theorem portLinkRows : Obligations.PortLinkRows := by
  intro s p hp hfit st x
  refine ⟨fun _ _ hst hmode => execIdSeg_begins hp hfit hmode hst, fun _ _ hst hmode => execIdSeg_completes hp hfit hmode hst,
    fun _ _ hst hmode => execIdSeg_retrains hp hfit hmode hst, fun _ _ _ hmode => execEcho_answers hp hfit hmode,
    fun _ _ _ _ hmode => execEcho_counts hp hfit hmode, fun _ _ _ _ hmode => execEcho_measures hp hfit hmode, ?width,
    fun hst hmode => execReplayTimeout_replays hp hfit hmode hst, ?lanes⟩
  case width =>
    intro m n hactive hmode w
    exact ⟨execWidth_proposed hp hfit hmode hactive, fun o => execWidth_accepted hp hfit hmode hactive,
      execWidth_unasked hp hfit hmode hactive⟩
  case lanes =>
    intro lane hlane
    exact ⟨execLaneLockLoss_inactive hp hfit hlane, fun hlanes => ⟨execLaneLockLoss_shown hp hfit hlane hlanes,
      execLaneLockLoss_third hp hfit hlane hlanes⟩, execLaneRelock_active hp hfit hlane,
      execLaneRelockTimeout_waiting hp hfit hlane, execLaneCsrLimit_active hp hfit hlane⟩

end Sys2Proof.Machine

namespace Sys2Proof.Machine

/-- A port that has taken a flit in order awaits the next sequence number (R223). -/
def Port.tookFlit (x : Port) : Port := { x with rxNext := (x.rxNext + 1) % 4096, rxAny := true }

/-- What the tag of a span covers (R233): its flits whole. -/
def Port.spanBytes (x : Port) : List Byte :=
  (x.rxSpan.map fun f => flitBytes f.header f.payload ++ leBytes 8 f.crc.toNat).flatten

/-- The key under which a tag is that of the span held, of the key in use and the partner's new one. -/
def Port.spanKey (x : Port) (tag : List Byte) : Option (List Byte) :=
  (x.keyRx :: x.nextRx.toList).find? fun k => tag == fit 8 (Config.sealTag k x.rxSpanNo x.spanBytes)

theorem Port.spanKey_of_one {x : Port} (hnext : x.nextRx = none) (tag : List Byte) : x.spanKey tag =
    if tag = fit 8 (Config.sealTag x.keyRx x.rxSpanNo x.spanBytes) then some x.keyRx else none := by
  rw [Port.spanKey, hnext, Option.toList_none, List.find?_singleton]
  exact if_congr beq_iff_eq rfl rfl

/-- A port whose span has verified under a key awaits the next one, under that key. -/
def Port.spanVerified (x : Port) (k : List Byte) : Port :=
  { x with
    rxSpan := [], rxHeld := none, rxSpanNo := x.rxSpanNo + 1, rxSync := false, spanFailed := false
    keyRx := k, nextRx := if x.nextRx = some k then none else x.nextRx }

theorem Port.spanVerified_of_one {x : Port} (hnext : x.nextRx = none) : x.spanVerified x.keyRx =
    { x with rxSpan := [], rxHeld := none, rxSpanNo := x.rxSpanNo + 1, rxSync := false, spanFailed := false } := by
  simp [Port.spanVerified, hnext]

/-- A port whose span has failed for the first time awaits its replay, from its first flit. -/
def Port.spanRefused (x : Port) : Port :=
  { x with rxSpan := [], rxHeld := none, rxNext := x.rxHeld.getD ((x.rxNext + 4095) % 4096), spanFailed := true }

section
variable {s : State} {p : Nat} (hp : p < 26) (hfit : s.portFitted p = true)
include hp hfit

/-! Flits received (R223, R224). -/

section
variable {f : Flit} {csym : Nat} {ucw : List Nat} (hst : stIdentify ≤ s.portState p) (habsent : s.portState p ≠ stAbsent)
  (hretired : s.portState p ≠ stRetired) (hmode : s.portMode p = 0)
include hst habsent hretired hmode

omit hp hfit in
theorem flit_taken : ¬ (s.portState p < stIdentify ∨ s.portState p = stAbsent ∨ s.portState p = stRetired ∨
    s.portMode p ≠ 0) := by
  simp [hst.not_gt, habsent, hretired, hmode]

theorem execFlitReceive_unsound (hbad : flitSound f = false) : execFlitReceive p f csym ucw s =
    .next (((s.noteFec p csym ucw).bump C.PORT_CRC_ERR_CNT p).sendIdle p true) :=
  guardUnit_port hp hfit ((if_neg (flit_taken hst habsent hretired hmode)).trans (if_pos (by rw [hbad]; rfl)))

variable (hsound : flitSound f = true)
include hsound

omit hp hfit hst habsent hretired hmode in
theorem flit_sound : ¬ (!flitSound f) = true := by rw [hsound]; simp

theorem execFlitReceive_disordered (hseq : bits f.header.toNat 4 12 ≠ ((s.noteFec p csym ucw).port p).rxNext) :
    execFlitReceive p f csym ucw s = .next ((s.noteFec p csym ucw).sendIdle p true) :=
  guardUnit_port hp hfit ((if_neg (flit_taken hst habsent hretired hmode)).trans
    ((if_neg (flit_sound hsound)).trans (if_pos hseq)))

/-- A data flit in order, without credit, ack or nak, of a port without keys. -/
theorem execFlitReceive_delivers (hseq : bits f.header.toNat 4 12 = ((s.noteFec p csym ucw).port p).rxNext)
    (htype : bits f.header.toNat 0 4 = 1) (hkey : ((s.noteFec p csym ucw).port p).keyRx = [])
    (hack : bits f.header.toNat 28 1 = 0) (hnak : bits f.header.toNat 29 1 = 0) (hcredit : bits f.header.toNat 48 1 = 0) :
    execFlitReceive p f csym ucw s = .next
      ((((s.noteFec p csym ucw).setPort p ((s.noteFec p csym ucw).port p).tookFlit).deliver p f).sendIdle p false) := by
  refine guardUnit_port hp hfit ((if_neg (flit_taken hst habsent hretired hmode)).trans
    ((if_neg (flit_sound hsound)).trans ((if_neg (not_not.mpr hseq)).trans ?_)))
  simp [htype, hack, hnak, hcredit, hkey, Port.tookFlit, State.when, State.sealing, State.port_setPort]

end

/-! Keys (R233). -/

section
variable (hst : s.portState p = stSeal) (hsealed : s.portSealed p = true) (hlower : s.lower p = false)
include hst hsealed hlower

omit hp hfit in
theorem sealKey_taken : ¬ ((s.portState p ≠ stSeal ∧ s.portState p ≠ stActive) ∨ (!s.portSealed p) = true ∨
    s.lower p = true) := by
  simp [hst, hsealed, hlower]

theorem execSealKey_rekey : execSealKey p true [] s = .next (s.modPort p fun x => { x with ct := [] }) :=
  guardUnit_port hp hfit ((if_neg (sealKey_taken hst hsealed hlower)).trans (if_pos rfl))

theorem execSealKey_part {seg : List Byte} (hpart : (s.port p).ct.length + seg.length < 1568) :
    execSealKey p false seg s = .next (s.setPort p { s.port p with ct := (s.port p).ct ++ seg }) :=
  guardUnit_port hp hfit ((if_neg (sealKey_taken hst hsealed hlower)).trans ((if_neg Bool.false_ne_true).trans
    (if_pos (List.length_append ▸ hpart))))

end

theorem execSealRekey_early (hspans : (s.port p).txSpanNo < 2 ^ 24) : execSealRekey p s = .next s :=
  guardUnit_port hp hfit (if_neg fun h => hspans.not_ge h.2.2.2)

theorem execSealRekey_due (hactive : s.portActive p = true) (hsealed : s.portSealed p = true) (hlower : s.lower p = true)
    (hspans : 2 ^ 24 ≤ (s.port p).txSpanNo) : execSealRekey p s =
      .next (((s.sendCtl p 5 (leBytes 8 1)).encapsulate p).2.modPort p fun x =>
        { x with nextRx := some ((s.sendCtl p 5 (leBytes 8 1)).encapsulate p).1 }) := by
  unfold execSealRekey
  generalize (s.sendCtl p 5 (leBytes 8 1)).encapsulate p = r
  exact guardUnit_port hp hfit (if_pos ⟨hactive, hsealed, hlower, hspans⟩)

/-! Tags (R233). -/

section
variable (hkey : (s.port p).keyRx ≠ []) (hst : s.portState p = stActive) {tag : List Byte}
include hkey hst

omit hp hfit in
theorem sealTag_taken : ¬ ((s.port p).keyRx.isEmpty = true ∨ (s.portState p ≠ stSeal ∧ s.portState p ≠ stActive)) := by
  simp [hst, hkey]

theorem execSealTag_verifies {k : List Byte} (hfound : (s.port p).spanKey tag = some k) :
    execSealTag p (s.port p).rxSpanNo tag s = .next (((s.port p).rxSpan.foldl (fun s f => s.deliver p f)
      (s.setPort p ((s.port p).spanVerified k))).sendIdle p false) := by
  have hgood : ((s.port p).spanKey tag).isSome = true := by rw [hfound]; rfl
  have hk : ((s.port p).spanKey tag).getD (s.port p).keyRx = k := by rw [hfound]; rfl
  have hopen : s.portState p ≠ stSeal := by rw [hst]; decide
  rw [← hk]
  exact guardUnit_port hp hfit ((if_neg (sealTag_taken hkey hst)).trans ((if_pos ⟨.inl rfl, hgood⟩).trans (if_neg hopen)))

theorem execSealTag_fails (hfound : (s.port p).spanKey tag = none) : execSealTag p (s.port p).rxSpanNo tag s = .next (
    if (s.port p).spanFailed = true then
      ((s.bump C.PORT_SEAL_FAIL_CNT p).raisePort E.PORT_seal_fail p).hold p stHeld 0x08 0 0 0
    else ((s.bump C.PORT_SEAL_FAIL_CNT p).setPort p (s.port p).spanRefused).sendIdle p true) := by
  have hbad : ¬ ((s.port p).spanKey tag).isSome = true := by rw [hfound]; exact Bool.false_ne_true
  exact guardUnit_port hp hfit ((if_neg (sealTag_taken hkey hst)).trans (if_neg fun h => hbad h.2))

end

end

/-! What a link sends (R224, R225, R233). -/

/-- `t` is `s` but for the ports and what is sent. -/
def Transmits (s t : State) : Prop := ∃ ports out, t = { s with ports := ports, out := out }

section
variable {s t u : State}

theorem Transmits.refl (s : State) : Transmits s s := ⟨s.ports, s.out, rfl⟩

theorem Transmits.trans (h : Transmits s t) (k : Transmits t u) : Transmits s u := by
  obtain ⟨_, _, rfl⟩ := h
  obtain ⟨ports, out, rfl⟩ := k
  exact ⟨ports, out, rfl⟩

theorem Transmits.ite {c : Prop} {_ : Decidable c} (h : Transmits s t) (k : Transmits s u) :
    Transmits s (if c then t else u) := by split <;> assumption

theorem Transmits.foldl {α : Type} {l : List α} {f : State → α → State} (hf : ∀ t x, Transmits t (f t x)) :
    Transmits s (l.foldl f s) :=
  List.foldlRecOn (motive := Transmits s) _ _ (.refl s) fun t h x _ => h.trans (hf t x)

theorem Transmits.hbm (h : Transmits s t) : t.hbm = s.hbm := by obtain ⟨_, _, rfl⟩ := h; rfl
theorem Transmits.ctxs (h : Transmits s t) : t.ctxs = s.ctxs := by obtain ⟨_, _, rfl⟩ := h; rfl
theorem Transmits.freeCtr (h : Transmits s t) : t.freeCtr = s.freeCtr := by obtain ⟨_, _, rfl⟩ := h; rfl

end

section
variable (s : State) (p : Nat)

theorem State.modPort_transmits (f : Port → Port) : Transmits s (s.modPort p f) := ⟨_, s.out, rfl⟩

theorem State.sendFlit_transmits (ftype vc : Nat) (first last nak : Bool) (payload : List Byte) (pkt : Option Queued) :
    Transmits s (s.sendFlit p ftype vc first last nak payload pkt) := ⟨_, _, rfl⟩

theorem State.sendTag_transmits : Transmits s (s.sendTag p) := by
  unfold State.sendTag
  exact (s.sendFlit_transmits p ..).trans (State.modPort_transmits ..)

theorem State.send_transmits (ftype vc : Nat) (first last : Bool) (payload : List Byte) (pkt : Option Queued) :
    Transmits s (s.send p ftype vc first last payload pkt) := by
  have hflit := s.sendFlit_transmits p ftype vc first last false payload pkt
  exact .ite (hflit.trans (State.sendTag_transmits ..)) hflit

theorem State.pump_transmits (l : List LinkCtl) : Transmits s (State.pump p l s) := by
  induction l generalizing s with
  | nil => exact .refl s
  | cons c rest ih =>
    simp only [State.pump]
    refine .ite (s.modPort_transmits p _) ?_
    cases c with
    | flit b => exact (s.send_transmits p ..).trans (ih _)
    | key k =>
      have hkey := s.modPort_transmits p
      exact .ite (((hkey _).trans (State.sendTag_transmits ..)).trans (ih _)) ((hkey _).trans (ih _))

theorem State.sendCtl_transmits (ctype : Nat) (args : List Byte) : Transmits s (s.sendCtl p ctype args) :=
  ((s.modPort_transmits p _).trans (State.modPort_transmits ..)).trans (State.pump_transmits ..)

theorem State.sendSet_transmits : Transmits s (s.sendSet p) := .foldl fun t _ => t.sendCtl_transmits p ..

/-- A set signed uses a free value, and the ports in IDENTIFY send it. -/
theorem execIdentitySetSign_transmits :
    ∃ u, execIdentitySetSign s = .next u ∧ Transmits { s.free.2 with ident := s.free.2.signedSet s.free.1 } u :=
  ⟨_, rfl, .foldl fun t p => .ite (t.sendSet_transmits p) (.refl t)⟩

theorem execIdentitySetSign_frame :
    ∃ u, execIdentitySetSign s = .next u ∧ u.freeCtr ≠ s.freeCtr ∧ u.hbm = s.hbm ∧ u.ctxs = s.ctxs := by
  obtain ⟨u, hexec, hsends⟩ := execIdentitySetSign_transmits s
  exact ⟨u, hexec, hsends.freeCtr ▸ Nat.succ_ne_self s.freeCtr, hsends.hbm, hsends.ctxs⟩

end

/-- Settles O37: each row is one branch on what is received. The tag of a span is compared with that of the key in use; beyond the new
set and the free value it uses, an identity set that is signed changes the ports and what they send. -/
theorem flitAndSealRows : Obligations.FlitAndSealRows := by
  intro s p hp hfit st x
  refine ⟨?flit, ?key, ?tag, execSealRekey_early hp hfit, execSealRekey_due hp hfit, execIdentitySetSign_frame s⟩
  case flit =>
    intro f csym ucw hst habsent hretired hmode s0 y
    exact ⟨execFlitReceive_unsound hp hfit hst habsent hretired hmode,
      execFlitReceive_disordered hp hfit hst habsent hretired hmode,
      execFlitReceive_delivers hp hfit hst habsent hretired hmode⟩
  case key =>
    intro hsealed hlower hst
    exact ⟨execSealKey_rekey hp hfit hst hsealed hlower, fun seg => execSealKey_part hp hfit hst hsealed hlower⟩
  case tag =>
    intro hkey hnext hst msg good
    have hspan := Port.spanKey_of_one hnext
    have hfails (tag : List Byte) (htag : tag ≠ good) :=
      execSealTag_fails hp hfit hkey hst ((hspan tag).trans (if_neg htag))
    refine ⟨?_, fun tag htag hfirst => (hfails tag htag).trans (congrArg _ (if_neg (Bool.eq_false_iff.mp hfirst))),
      fun tag htag hagain => (hfails tag htag).trans (congrArg _ (if_pos hagain))⟩
    have hverifies := execSealTag_verifies hp hfit hkey hst ((hspan good).trans (if_pos rfl))
    rwa [Port.spanVerified_of_one hnext] at hverifies

end Sys2Proof.Machine

namespace Sys2Proof.Machine

/-- A row of an I/O die that is fitted answers the state it comes to (R1, R244). -/
theorem guardUnit_die {s t u : State} {iod : Nat} (hdie : dieOk s iod = true) (h : t = u) :
    guardUnit (dieOk s iod) t = .next u := h ▸ if_pos hdie

/-- The packet goes on by a port of its entry or takes to the escape channel (R247, R257). -/
def Hop.leaves : Hop → Bool
  | .out .. => true
  | .escape .. => true
  | _ => false

/-- The acknowledgement of a channel: what has been accepted and placed of it, and the window of its pair (R262). -/
def State.ackOf (s : State) (iod src vc : Nat) (pair : RxPair) (ch : RxChan) : Pkt :=
  { Pkt.blank 3 src opAck with
    src := s.endpoint iod, epoch := pair.epoch % 256, tag := vc % 8 + vc / 256 % 256 * 2 ^ 8
    addr := (ch.accepted + 2 ^ 32 - 1) % 2 ^ 32, pairSeq := (ch.placed + 2 ^ 32 - 1) % 2 ^ 32
    aux := (pair.flits + s.windowFlits iod) % 2 ^ 32 }

section
variable {s : State} {iod : Nat} {q : Queued}

/-! The choice of an output (R246, R247, R257). -/

theorem State.hop_of_limit (hhops : 255 ≤ q.p.hops) : s.hop iod q = .limit := if_pos hhops

/-- An entry that names no circuit leaves a packet as it is (R255). -/
theorem State.withCircuit_of_none (hcircuit : routeCircuit (s.entryOf iod q) = 0) : s.withCircuit iod q = q.p :=
  if_neg fun ⟨_, _, _, hnamed, _⟩ => hnamed hcircuit

theorem State.allowed_alone {e : BitVec 32} {p : Pkt} (hactive : s.portActive (routeA e) = true) (hspread : routeSpread e = false) :
    s.allowed iod e p = [routeA e] := by
  simp [State.allowed, hactive, hspread]

section
variable (hhops : q.p.hops < 255) (hdst : q.p.dst ≠ 0xFFFF)
include hhops hdst

section
variable (hesc : q.p.esc = true)
include hesc

theorem State.hop_of_escaped :
    s.hop iod q = if q.p.dst = s.endpoint iod then .eject else .ring := by
  rw [State.hop, if_neg hhops.not_ge, if_neg hdst, if_pos hesc]

theorem State.hop_of_escaped_here (hmine : q.p.dst = s.endpoint iod) : s.hop iod q = .eject :=
  (State.hop_of_escaped hhops hdst hesc).trans (if_pos hmine)

theorem State.hop_of_escaped_away (haway : q.p.dst ≠ s.endpoint iod) : s.hop iod q = .ring :=
  (State.hop_of_escaped hhops hdst hesc).trans (if_neg haway)

/-- A packet of the escape channel leaves by the ring alone. -/
theorem State.hop_of_escaped_leaves : (s.hop iod q).leaves = false := by
  rw [State.hop_of_escaped hhops hdst hesc]
  split <;> rfl

end

section
variable (hesc : q.p.esc = false)
include hesc

theorem State.hop_of_invalid (hvalid : routeValid (s.entryOf iod q) = false) : s.hop iod q = .unreachable := by
  simp [State.hop, hhops.not_ge, hdst, hesc, hvalid]

variable (hvalid : routeValid (s.entryOf iod q) = true)
include hvalid

theorem State.hop_of_here (hkind : routeKind (s.entryOf iod q) = 0) : s.hop iod q = .eject := by
  simp [State.hop, hhops.not_ge, hdst, hesc, hvalid, hkind]

theorem State.hop_of_cross (hkind : routeKind (s.entryOf iod q) = 2) : s.hop iod q = .cross := by
  simp [State.hop, hhops.not_ge, hdst, hesc, hvalid, hkind]

variable (hkind : routeKind (s.entryOf iod q) = 1)
include hkind

theorem State.hop_of_port_leaves : (s.hop iod q).leaves = true := by
  simp only [State.hop, hhops.not_ge, hdst, hesc, hvalid, hkind, if_false, Bool.false_eq_true, Bool.not_true,
    Nat.one_ne_zero, OfNat.one_ne_ofNat]
  split
  · rfl
  · split <;> rfl

/-- A packet in packet mode whose entry names one port that is ACTIVE. -/
theorem State.hop_of_port (hactive : s.portActive (routeA (s.entryOf iod q)) = true)
    (hspread : routeSpread (s.entryOf iod q) = false) (hcircuit : routeCircuit (s.entryOf iod q) = 0) (hcirc : q.p.circ = false) :
    s.hop iod q = .out (routeA (s.entryOf iod q)) { q.p with circ := false, circuit := 0 } false := by
  simp [State.hop, hhops.not_ge, hdst, hesc, hvalid, hkind, State.withCircuit_of_none hcircuit, hcirc,
    State.allowed_alone hactive hspread]

end

end

/-! Routing by the output chosen (R247). -/

section
variable {pos slot idle : Nat}

theorem State.routeOne_limit (hhop : s.hop iod q = .limit) :
    s.routeOne iod pos q slot idle = ((s.dequeue iod pos).bump C.ROUTE_HOP_LIMIT_CNT iod).release q := by
  rw [State.routeOne, hhop]

theorem State.routeOne_eject (hhop : s.hop iod q = .eject) :
    s.routeOne iod pos q slot idle = ((s.dequeue iod pos).release q).arrive iod q.p := by
  rw [State.routeOne, hhop]

theorem State.routeOne_ring (hhop : s.hop iod q = .ring) : s.routeOne iod pos q slot idle =
    s.sendOn iod pos q (s.fget F.ROUTE_ID_ring_port iod) (bubble q) slot idle q.p := by
  rw [State.routeOne, hhop]

theorem State.routeOne_unreachable (hhop : s.hop iod q = .unreachable) (hsrc : q.p.src ≠ s.endpoint iod) :
    s.routeOne iod pos q slot idle = ((s.dequeue iod pos).bump C.ROUTE_UNREACH_DROP_CNT iod).release q := by
  rw [State.routeOne, hhop]
  exact if_neg fun h => hsrc h.1

theorem State.routeOne_cross (hhop : s.hop iod q = .cross) (hother : s.iodFitted (1 - iod) = true) :
    s.routeOne iod pos q slot idle =
      ((s.dequeue iod pos).release q).enqueue (1 - iod) (Queued.new none q.ch { q.p with hops := q.p.hops + 1 }) := by
  rw [State.routeOne, hhop]
  exact if_pos hother

theorem State.routeOne_out {port : Nat} {p : Pkt} (hhop : s.hop iod q = .out port p false) :
    s.routeOne iod pos q slot idle = s.sendOn iod pos q port 0 slot idle p := by
  rw [State.routeOne, hhop]
  rfl

/-! A port taken or not (R252, R253). -/

section
variable {port : Nat} {p : Pkt} (hroom : s.portRoom port (pktChannel p) (pktFlits p) 0 = true)
include hroom

theorem State.sendOn_wins {a : Arb} (hwins : s.wins iod pos port slot idle p = some a) :
    s.sendOn iod pos q port 0 slot idle p =
      ((s.dequeue iod pos).modPort port fun x => { x with arb := a }).sendPkt port { q with p } { p with hops := p.hops + 1 } := by
  rw [State.sendOn, if_pos hroom, hwins]

theorem State.sendOn_loses (hwins : s.wins iod pos port slot idle p = none) : s.sendOn iod pos q port 0 slot idle p = s := by
  rw [State.sendOn, if_pos hroom, hwins]

end

/-! PACKET_ROUTE and ESCAPE_DIVERT (R246, R257). -/

section
variable (hdie : dieOk s iod = true) (hq : (s.router iod).queue[pos]? = some q)
include hdie hq

theorem execPacketRoute_head (hhead : (s.router iod).isHead pos q = true) {t : State}
    (hroute : s.routeOne iod pos q slot idle = t) : execPacketRoute iod pos slot idle s = .next t := by
  refine guardUnit_die hdie ?_
  rw [hq]
  exact (if_pos hhead).trans hroute

theorem execPacketRoute_behind (hbehind : (s.router iod).isHead pos q = false) : execPacketRoute iod pos slot idle s = .next s := by
  refine guardUnit_die hdie ?_
  rw [hq]
  exact if_neg (Bool.eq_false_iff.mp hbehind)

theorem execEscapeDivert_bound (hleaves : (s.hop iod q).leaves = false) : execEscapeDivert iod pos s = .next s := by
  refine guardUnit_die hdie ?_
  rw [hq]
  refine if_neg fun h => ?_
  simp only [Bool.and_eq_true] at h
  obtain ⟨⟨⟨⟨-, hgo⟩, -⟩, -⟩, -⟩ := h
  exact Bool.eq_false_iff.mp hleaves hgo

/-- A packet of VC0-VC4 with no circuit, at the head of its queue, that no port allowed has room for. -/
theorem execEscapeDivert_stuck (hhead : (s.router iod).isHead pos q = true) (hleaves : (s.hop iod q).leaves = true)
    (hcircuit : routeCircuit (s.entryOf iod q) = 0) (hcirc : q.p.circ = false)
    (hstuck : ∀ i ∈ s.allowed iod (s.entryOf iod q) q.p, s.portRoom i q.p.vc (pktFlits q.p) 0 = false)
    (hen : s.flag F.ROUTE_CFG_esc_en iod = true) (hvc : q.p.vc ≤ 4) :
    execEscapeDivert iod pos s = .next (s.divert iod pos q (routeA (s.entryOf iod q))) := by
  refine guardUnit_die hdie ?_
  rw [hq]
  refine if_pos ?_
  rw [State.withCircuit_of_none hcircuit]
  simp only [Bool.and_eq_true, List.all_eq_true, decide_eq_true_eq, Bool.not_eq_true']
  exact ⟨⟨⟨⟨⟨hhead, hen⟩, hleaves⟩, hcirc⟩, hvc⟩, hstuck⟩

end

end

/-! Injection (R260). -/

theorem Router.destsOf_single {r : Router} {p : Pkt} (hdst : p.dst ≠ 0xFFFF) : r.destsOf p = [p.dst] := if_neg hdst

section
variable (hdie : dieOk s iod = true)
include hdie

theorem execPacketInject_idle (hinject : (s.router iod).inject = []) : execPacketInject iod s = .next s := by
  refine guardUnit_die hdie ?_
  simp only [hinject, List.zipIdx_nil, List.find?_nil]

section
variable {p : Pkt} {rest : List Pkt} (hinject : (s.router iod).inject = p :: rest) (hdst : p.dst ≠ 0xFFFF)
include hinject hdst

theorem execPacketInject_ack (hack : p.op = opAck) : execPacketInject iod s =
    .next ((s.setRouter iod { s.router iod with inject := rest }).enqueue iod (Queued.new none p.vc p)) := by
  refine guardUnit_die hdie ?_
  simp [hinject, hack, hdst]

theorem execPacketInject_window (hop : p.op ≠ opAck) (hroom : (s.txPair iod p.dst).room (pktFlits p) = true) :
    let s1 := s.setRouter iod { s.router iod with inject := rest, outst := (s.router iod).outst ++ [p] }
    let pair := s1.txPair iod p.dst
    execPacketInject iod s =
      .next ((s1.setTxPair iod { pair with sent := pair.sent + pktFlits p }).enqueue iod (Queued.new none p.vc p)) := by
  refine guardUnit_die hdie ?_
  simp [hinject, hop, hdst, hroom, Router.destsOf_single hdst]

end

/-! Acknowledgements (R262). -/

section
variable {src vc : Nat} {pair : RxPair} {ch : RxChan}
  (hpair : ((s.placeHeld iod).router iod).rx.find? (fun p => p.src == src) = some pair)
  (hch : pair.chans.find? (fun c => c.vc == vc) = some ch)
include hpair hch

theorem execAckSend_none (hdue : ch.due = 0) : execAckSend iod src vc s = .next (s.placeHeld iod) := by
  refine guardUnit_die hdie ?_
  simp only [hpair, hch]
  exact if_pos hdue

theorem execAckSend_due (hdue : ch.due ≠ 0) : execAckSend iod src vc s =
    .next (((s.placeHeld iod).setRxPair iod (pair.setChan { ch with due := 0 })).modRouter iod fun r =>
      { r with inject := r.inject ++ [(s.placeHeld iod).ackOf iod src vc pair ch] }) := by
  refine guardUnit_die hdie ?_
  simp only [hpair, hch]
  exact if_neg hdue

end

/-! Unreachable pairs (R263) and congestion maps (R267). -/

theorem execPairUnreachable_waiting {dst : Nat} (hwaits : ((s.router iod).outst.any fun p => p.dst == dst) = true) :
    execPairUnreachable iod dst s = .next (s.loseRoute iod dst) :=
  guardUnit_die hdie (if_pos hwaits)

/-- A map kept and not sent: the router alone changes, which holds the map and begins the next interval. -/
theorem execCmapClose_kept (hival : (s.router iod).mapIval ≠ 0) (hcoll : s.fget F.ROUTE_CMAP_CFG_collector iod = 0xFFFF) :
    ∃ occ, execCmapClose iod s = .next (s.setRouter iod { s.router iod with
      mapLast := s.cmapBytes iod (s.router iod).mapIval, occ, used := [], esc := [], poolMin := s.poolFree iod
      mapIval := s.fget F.ROUTE_CMAP_CFG_interval iod }) := by
  simp only [execCmapClose, hival, hcoll, if_true, if_false]
  exact ⟨_, guardUnit_die hdie rfl⟩

end

/-! Notices (R46). -/

section
variable {c k : Nat} {n : NoticeDue} (hc : c < 1024) (hn : (s.ctx c).notices[k]? = some n)
include hc hn

theorem execStampNoticeSend_early (hwrites : (n.writes.all s.remoteDone) = false) : execStampNoticeSend c k s = .next s := by
  refine (if_pos (decide_eq_true hc)).trans ?_
  simp [hn, hwrites]

theorem execStampNoticeSend_due (hwrites : (n.writes.all s.remoteDone) = true) : execStampNoticeSend c k s =
    .next (n.peers.foldl (fun s g => (s.post n.iod { Pkt.blank 3 g.sel opNotice with
      flagged := true, ctx := g.rctx, addr := g.rregion + g.slot * 2 ^ 12, seq := n.q % 2 ^ 32 }).1)
      (s.setCtx c { s.ctx c with notices := (s.ctx c).notices.eraseIdx k })) := by
  refine (if_pos (decide_eq_true hc)).trans ?_
  simp [hn, hwrites]

end

end

/-- Settles O38: a row of the router is one branch on the hop of the packet at its head, on what waits to be injected or on what is
to be acknowledged. -/
theorem routerRows : Obligations.RouterRows := by
  intro s iod hdie r
  refine ⟨?head, ?send, ?behind, execPacketInject_idle hdie, ?inject, ?ack, fun _ => execPairUnreachable_waiting hdie, ?cmap, ?notice⟩
  case head =>
    intro pos slot idle q hq hhead e x
    have hroute {t : State} : s.routeOne iod pos q slot idle = t → execPacketRoute iod pos slot idle s = .next t :=
      execPacketRoute_head hdie hq hhead
    refine ⟨fun hhops => hroute (State.routeOne_limit (State.hop_of_limit hhops)), fun hhops hdst hesc => ⟨?_, ?_, ?_⟩,
      fun hhops hdst hesc => ⟨?_, ?_, ?_, ?_, ?_⟩⟩
    · exact fun hmine => hroute (State.routeOne_eject (State.hop_of_escaped_here hhops hdst hesc hmine))
    · exact fun haway => hroute (State.routeOne_ring (State.hop_of_escaped_away hhops hdst hesc haway))
    · exact execEscapeDivert_bound hdie hq (State.hop_of_escaped_leaves hhops hdst hesc)
    · exact fun hvalid hsrc => hroute (State.routeOne_unreachable (State.hop_of_invalid hhops hdst hesc hvalid) hsrc)
    · exact fun hvalid hkind => hroute (State.routeOne_eject (State.hop_of_here hhops hdst hesc hvalid hkind))
    · exact fun hvalid hkind hother =>
        hroute (State.routeOne_cross (State.hop_of_cross hhops hdst hesc hvalid hkind) hother)
    · exact fun hvalid hkind hactive hspread hcircuit hcirc =>
        hroute (State.routeOne_out (State.hop_of_port hhops hdst hesc hvalid hkind hactive hspread hcircuit hcirc))
    · exact fun hvalid hkind hcircuit hcirc hstuck hen hvc => execEscapeDivert_stuck hdie hq hhead
        (State.hop_of_port_leaves hhops hdst hesc hvalid hkind) hcircuit hcirc hstuck hen hvc
  case send => exact fun pos q port slot idle p hroom => ⟨fun a => State.sendOn_wins hroom, State.sendOn_loses hroom⟩
  case behind => exact fun pos slot idle q hq => execPacketRoute_behind hdie hq
  case inject =>
    exact fun p rest hinject hdst => ⟨execPacketInject_ack hdie hinject hdst, execPacketInject_window hdie hinject hdst⟩
  case ack =>
    intro s1 pair ch vc src hpair hch
    exact ⟨execAckSend_none hdie hpair hch, fun hdue =>
      ⟨s1.ackOf iod src vc pair ch, execAckSend_due hdie hpair hch hdue, rfl, rfl, rfl, rfl, rfl, rfl, rfl⟩⟩
  case cmap =>
    intro hival hcoll
    obtain ⟨occ, hexec⟩ := execCmapClose_kept hdie hival hcoll
    refine ⟨_, hexec, ?_⟩
    rw [State.router_setRouter, if_pos rfl]
    exact ⟨rfl, rfl, rfl, rfl, rfl, rfl, rfl, rfl⟩
  case notice => exact fun c k n hc hn => ⟨execStampNoticeSend_early hc hn, execStampNoticeSend_due hc hn⟩

end Sys2Proof.Machine

namespace Sys2Proof.Machine

section
variable {s : State} {iod : Nat} {p : Pkt}

/-! Packets that their I/O die takes (R249, R283). -/

theorem State.arriveOp_mine (hdie : dieOk s iod = true) (hmine : p.dst = s.endpoint iod ∨ p.dst = 0xFFFF) {ok : Bool}
    (hok : ok = true) : s.arriveOp iod p ok = .next (s.arrive iod p) := by
  refine guardUnit_die hdie (if_pos ?_)
  simpa [hok] using hmine

theorem isColl_of_tag {sub : Nat} (hop : p.op = opColl) (hsub : p.tag % 256 = sub) : isColl p sub = true := by
  simp [isColl, hop, hsub]

/-! Packets of another epoch, and packets received before (R261). -/

theorem State.arrive_ack (hack : p.op = opAck) : s.arrive iod p = s.takeAck iod p := if_pos hack

theorem State.takeAck_stale (hepoch : p.epoch ≠ (s.txPair iod p.src).epoch % 256) :
    s.takeAck iod p = s.bump C.ROUTE_EPOCH_DROP_CNT iod := if_pos hepoch

section
variable (hop : p.op ≠ opAck)
include hop

theorem State.arrive_stale (hpair : chanKey p < 256) (hepoch : p.epoch ≠ (s.rxPair iod p.src).epoch % 256) :
    s.arrive iod p = s.bump C.ROUTE_EPOCH_DROP_CNT iod := (if_neg hop).trans (if_pos ⟨hpair, hepoch⟩)

/-- A number below those accepted lies at least half of the numbers ahead of them. -/
theorem State.arrive_duplicate (hepoch : 256 ≤ chanKey p ∨ p.epoch = (s.rxPair iod p.src).epoch % 256)
    (hnear : ((s.rxPair iod p.src).chanFor p).accepted < 2 ^ 31) (hbelow : p.pairSeq < ((s.rxPair iod p.src).chanFor p).accepted) :
    s.arrive iod p = s.bump C.ROUTE_DUP_DROP_CNT iod := by
  have hcurrent : ¬ (chanKey p < 256 ∧ p.epoch ≠ (s.rxPair iod p.src).epoch % 256) := fun ⟨hpair, hother⟩ =>
    hepoch.elim hpair.not_ge hother
  exact (if_neg hop).trans ((if_neg hcurrent).trans (if_pos (.inl (by omega))))

end

end

/-- Settles O39: a packet of its row's operation arrives, and what arrives is weighed by its epoch and by the numbers accepted before
it. -/
theorem packetRows : Obligations.PacketRows := by
  intro s iod p hdie
  refine ⟨fun hmine => ?arrives, fun hack hepoch => (State.arrive_ack hack).trans (State.takeAck_stale hepoch),
    State.arrive_stale, ?duplicate⟩
  case arrives =>
    have harrives {ok : Bool} : ok = true → s.arriveOp iod p ok = .next (s.arrive iod p) := State.arriveOp_mine hdie hmine
    have hrow {op : Nat} (hop : p.op = op) := harrives (beq_iff_eq.mpr hop)
    refine ⟨hrow, hrow, hrow, hrow, fun hack => State.arrive_ack hack ▸ hrow hack, hrow, hrow, hrow, fun hcoll => ?_⟩
    have hmessage {sub : Nat} (hsub : p.tag % 256 = sub) := harrives (isColl_of_tag hcoll hsub)
    exact ⟨hmessage, hmessage, hmessage, hmessage, hmessage, hmessage, hmessage, hmessage, hmessage⟩
  case duplicate =>
    rintro hop hepoch a rfl - hnear hbelow
    exact State.arrive_duplicate hop hepoch hnear hbelow

end Sys2Proof.Machine

namespace Sys2Proof.Machine

theorem Shows.ctx {s t : State} (h : Shows s t) (c : Nat) : t.ctx c = s.ctx c := congrArg (·.get (fun _ => Ctx.reset) c) h.ctxs

theorem guardUnit_ctx {s t : State} {c : Nat} (hc : c < 1024) (h : s = t) : guardUnit (decide (c < 1024)) s = .next t :=
  (if_pos (decide_eq_true hc)).trans (congrArg _ h)

/-! A chunk at its engine (R289, R294). -/

/-- Ranks whose contribution to what the engine of a chunk is at, the chunk or in zero copy its slice, is not whole. -/
def Ctx.chunkLacks (x : Ctx) (p : Step) (j : Nat) (zc : Bool) : List Nat :=
  let e := x.entryOf p
  let g := x.groupOf p
  let sp := if zc then (x.sliceNow p j).getD (0, 0) else chunkSpan e g g.rank j
  ranksLacking (p.held j sp.1 sp.2) g.n (elemBytes e.dtype) sp.2

/-- Errors of reduction memory corrected on the way are counted where an engine holds the chunk (R303). -/
def State.countCorrected (s : State) (c : Nat) (p : Step) (j n : Nat) : State :=
  s.bumpBy C.COLL_RMEM_CE_CNT (if p.holding.any (fun h => h.1 == j) then n else 0) (s.engineOf ((s.ctx c).groupOf p) j).1

@[simp] theorem State.ctx_countCorrected (s : State) (c : Nat) (p : Step) (j n c' : Nat) :
    (s.countCorrected c p j n).ctx c' = s.ctx c' := (State.bumpBy_shows ..).ctx c'

section
variable {s : State} {c j : Nat} {p : Step}

theorem State.completeChunk_idle (hidle : p.st ≠ .run ∨ (p.holding.find? fun h => h.1 == j) = none) (ok : Bool) :
    s.completeChunk c p j ok = s := by
  unfold State.completeChunk
  split
  · rfl
  · next h hfind => exact if_pos (.inl (hidle.resolve_right (by simp [hfind])))

section
variable {x : Ctx} (hx : s.ctx c = x)
include hx

theorem State.completeChunk_whole {h : Nat × Bool} (hrun : p.st = .run) (hreduce : isReduceOp (x.entryOf p) = true)
    (hfind : (p.holding.find? fun h => h.1 == j) = some h) (hwhole : x.chunkLacks p j h.2 = []) (ok : Bool) :
    s.completeChunk c p j ok = if ok then s.chunkPassed c p j h.2 else s.residueFail c p j h.2 := by
  rw [Ctx.chunkLacks] at hwhole
  simp only [State.completeChunk, hfind, hx]
  exact if_neg (by simp [hrun, hreduce, hwhole])

/-- Out of zero copy, all results of the chunk go out and its engine is free for another. -/
theorem State.chunkPassed_chunk :
    let e := x.entryOf p
    let g := x.groupOf p
    s.chunkPassed c p j false = (((s.sendResults c p j (fixedOrder e g) (chunkSlices e g g.rank j)).modStep c p fun q =>
      { q with finished := q.finished ++ [j], holding := q.holding.filter fun h => h.1 != j
               slices := q.slices.filter fun z => !((chunkSlices e g g.rank j).any fun b => b.1 == z.addr)
               order := q.order.filter fun z => !((chunkSlices e g g.rank j).any fun b => b.1 == z.1) }).takeEngines).tryDone
        c p := by
  simp [State.chunkPassed, hx]

end

end

section
variable {s : State} {c k : Nat} {p : Step} (hc : c < 1024) (hp : (s.ctx c).steps[k]? = some p)
include hc hp

theorem execChunkComplete_completes {j n : Nat} {ok : Bool} {t : State}
    (hcomplete : (s.countCorrected c p j n).completeChunk c p j ok = t) :
    execChunkComplete c k j ok n s = .next (t.placeHeld (s.engineOf ((s.ctx c).groupOf p) j).1) := by
  refine guardUnit_ctx hc ?_
  simp only [hp]
  exact congrArg (State.placeHeld · _) hcomplete

end

/-! A step's time limit (R286). -/

/-- Beats after which a step fails: its own limit, or that of COLL_CFG where it has none (R286). -/
def State.stepLimit (s : State) (e : CollEntry) : Nat := if e.timeout = 0 then max 1 (s.fget F.COLL_CFG_timeout) else e.timeout

theorem State.stepLimit_own {s : State} {e : CollEntry} (hown : e.timeout ≠ 0) : s.stepLimit e = e.timeout := if_neg hown

theorem State.stepLimit_configured {s : State} {e : CollEntry} (hnone : e.timeout = 0) :
    s.stepLimit e = max 1 (s.fget F.COLL_CFG_timeout) := if_pos hnone

section
variable {s : State} {c k : Nat} {p : Step} (hc : c < 1024) (hp : (s.ctx c).steps[k]? = some p)
include hc hp

theorem execCollStepTimeout_step : execCollStepTimeout c k s = .next (
    if (p.st = .hash ∨ p.st = .run) ∧ s.stepLimit ((s.ctx c).entryOf p) ≤ p.age then
      s.failStep c p 0x03 (s.awaited (s.ctx c) p)
    else s) := by
  refine guardUnit_ctx hc ?_
  simp only [hp]
  rfl

theorem execCollStepTimeout_due (hst : p.st = .hash ∨ p.st = .run) (hdue : s.stepLimit ((s.ctx c).entryOf p) ≤ p.age) :
    execCollStepTimeout c k s = .next (s.failStep c p 0x03 (s.awaited (s.ctx c) p)) :=
  (execCollStepTimeout_step hc hp).trans (congrArg _ (if_pos ⟨hst, hdue⟩))

theorem execCollStepTimeout_early (hearly : p.age < s.stepLimit ((s.ctx c).entryOf p)) : execCollStepTimeout c k s = .next s :=
  (execCollStepTimeout_step hc hp).trans (congrArg _ (if_neg fun ⟨_, hdue⟩ => hearly.not_ge hdue))

end

/-- Settles O40: a chunk is completed by what its engine holds and by its residue check, and a step in HASH or RUN fails once
its age has reached its own limit, or that of COLL_CFG where it has none. -/
theorem collectiveRows : Obligations.CollectiveRows := by
  intro s c k p hc hp x e g
  refine ⟨?chunk, fun hst hown hdue => ?own, fun hst hnone hdue => ?configured, fun hearly => ?early⟩
  case chunk =>
    intro j ok n iod s0
    have hexec {ok : Bool} {t : State} : s0.completeChunk c p j ok = t →
      execChunkComplete c k j ok n s = .next (t.placeHeld iod) := execChunkComplete_completes hc hp
    have hctx : s0.ctx c = x := s.ctx_countCorrected c p j n c
    refine ⟨fun hidle => hexec (State.completeChunk_idle hidle ok), ?_⟩
    intro h hrun hreduce hfind sp hwhole
    have hcomplete (ok : Bool) := State.completeChunk_whole hctx hrun hreduce hfind hwhole ok
    refine ⟨hexec (hcomplete false), fun hchunk => hexec ?_, fun hzc => hexec ?_⟩
    · rw [hcomplete, hchunk, if_pos rfl, State.chunkPassed_chunk hctx]
    · rw [hcomplete, hzc, if_pos rfl]
  case own => exact execCollStepTimeout_due hc hp hst ((State.stepLimit_own hown).trans_le hdue)
  case configured => exact execCollStepTimeout_due hc hp hst ((State.stepLimit_configured hnone).trans_le hdue)
  case early => exact execCollStepTimeout_early hc hp (hearly.trans_eq (State.stepLimit_own (Nat.ne_zero_of_lt hearly)).symm)

end Sys2Proof.Machine

namespace Sys2Proof.Machine

/-! What every step keeps: one case for each row, the lemma of its operation. -/

/-- Every row keeps what its operation keeps: the lemma of each under Laws/Keep*. -/
theorem exec_keeps {s0 s : State} (hk : Keeps s0 s) (i : Instr) : KeepsOut s0 (exec i s) :=
  match i with
  | .beatBoundary .. => execBeatBoundary_keeps hk ..
  | .placementFreeze .. => execPlacementFreeze_keeps hk ..
  | .marker .. => execMarker_keeps hk ..
  | .alignTimeout => execAlignTimeout_keeps hk
  | .markerTimeout => execMarkerTimeout_keeps hk
  | .sheetProgramFetch .. => execSheetProgramFetch_keeps hk ..
  | .sheetStart .. => execSheetStart_keeps hk ..
  | .sheetComplete .. => execSheetComplete_keeps hk ..
  | .sheetWaitTimeout .. => execSheetWaitTimeout_keeps hk ..
  | .tileFence .. => execTileFence_keeps hk ..
  | .tileFenced .. => execTileFenced_keeps hk ..
  | .fenceDrainTimeout .. => execFenceDrainTimeout_keeps hk ..
  | .tileDeadlock .. => execTileDeadlock_keeps hk ..
  | .seqAdd .. => execSeqAdd_keeps hk ..
  | .seqSub .. => execSeqSub_keeps hk ..
  | .seqMul .. => execSeqMul_keeps hk ..
  | .and_ .. => execAnd_keeps hk ..
  | .or_ .. => execOr_keeps hk ..
  | .xor_ .. => execXor_keeps hk ..
  | .shl .. => execShl_keeps hk ..
  | .shr .. => execShr_keeps hk ..
  | .sra .. => execSra_keeps hk ..
  | .min_ .. => execMin_keeps hk ..
  | .max_ .. => execMax_keeps hk ..
  | .slt .. => execSlt_keeps hk ..
  | .sltu .. => execSltu_keeps hk ..
  | .seq .. => execSeq_keeps hk ..
  | .addi .. => execAddi_keeps hk ..
  | .andi .. => execAndi_keeps hk ..
  | .ori .. => execOri_keeps hk ..
  | .xori .. => execXori_keeps hk ..
  | .shli .. => execShli_keeps hk ..
  | .shri .. => execShri_keeps hk ..
  | .srai .. => execSrai_keeps hk ..
  | .slti .. => execSlti_keeps hk ..
  | .lil .. => execLil_keeps hk ..
  | .lih .. => execLih_keeps hk ..
  | .lds .. => execLds_keeps hk ..
  | .sts .. => execSts_keeps hk ..
  | .ldg .. => execLdg_keeps hk ..
  | .stg .. => execStg_keeps hk ..
  | .l1FillDone .. => execL1FillDone_keeps hk ..
  | .beq .. => execBeq_keeps hk ..
  | .bne .. => execBne_keeps hk ..
  | .blt .. => execBlt_keeps hk ..
  | .bge .. => execBge_keeps hk ..
  | .bltu .. => execBltu_keeps hk ..
  | .bgeu .. => execBgeu_keeps hk ..
  | .jmp .. => execJmp_keeps hk ..
  | .call_ .. => execCall_keeps hk ..
  | .ret_ .. => execRet_keeps hk ..
  | .issue .. => execIssue_keeps hk ..
  | .sig .. => execSig_keeps hk ..
  | .wait .. => execWait_keeps hk ..
  | .fence .. => execFence_keeps hk ..
  | .cinv .. => execCinv_keeps hk ..
  | .cwb .. => execCwb_keeps hk ..
  | .cwbi .. => execCwbi_keeps hk ..
  | .movs .. => execMovs_keeps hk ..
  | .end_ .. => execEnd_keeps hk ..
  | .descriptorStart .. => execDescriptorStart_keeps hk ..
  | .descriptorComplete .. => execDescriptorComplete_keeps hk ..
  | .matrixMultiply .. => execMatrixMultiply_keeps hk ..
  | .vecAdd .. => execVecAdd_keeps hk ..
  | .vecSub .. => execVecSub_keeps hk ..
  | .vecMul .. => execVecMul_keeps hk ..
  | .vecFma .. => execVecFma_keeps hk ..
  | .vecMax .. => execVecMax_keeps hk ..
  | .vecMin .. => execVecMin_keeps hk ..
  | .abs_ .. => execAbs_keeps hk ..
  | .neg_ .. => execNeg_keeps hk ..
  | .scale .. => execScale_keeps hk ..
  | .exp2 .. => execExp2_keeps hk ..
  | .log2 .. => execLog2_keeps hk ..
  | .recip .. => execRecip_keeps hk ..
  | .rsqrt .. => execRsqrt_keeps hk ..
  | .vecSqrt .. => execVecSqrt_keeps hk ..
  | .cvt .. => execCvt_keeps hk ..
  | .qmx .. => execQmx_keeps hk ..
  | .dqmx .. => execDqmx_keeps hk ..
  | .rsum .. => execRsum_keeps hk ..
  | .rmax .. => execRmax_keeps hk ..
  | .rmin .. => execRmin_keeps hk ..
  | .dmaTransfer .. => execDmaTransfer_keeps hk ..
  | .dmaBurstIssue .. => execDmaBurstIssue_keeps hk ..
  | .dmaBurstDone .. => execDmaBurstDone_keeps hk ..
  | .chestTransfer .. => execChestTransfer_keeps hk ..
  | .chestWritePlaced .. => execChestWritePlaced_keeps hk ..
  | .chestSpaceTimeout .. => execChestSpaceTimeout_keeps hk ..
  | .screenQuery .. => execScreenQuery_keeps hk ..
  | .screenQueryDone .. => execScreenQueryDone_keeps hk ..
  | .blockMoveDone .. => execBlockMoveDone_keeps hk ..
  | .hostMemRead .. => execHostMemRead_keeps hk ..
  | .hostMemWrite .. => execHostMemWrite_keeps hk ..
  | .scrub .. => execScrub_keeps hk ..
  | .rowRepair .. => execRowRepair_keeps hk ..
  | .rowRepairDone .. => execRowRepairDone_keeps hk ..
  | .refreshRateChange .. => execRefreshRateChange_keeps hk ..
  | .memoryTrainingStart => execMemoryTrainingStart_keeps hk
  | .memoryTrainingDone .. => execMemoryTrainingDone_keeps hk ..
  | .halfStackFail .. => execHalfStackFail_keeps hk ..
  | .signalDetect .. => execSignalDetect_keeps hk ..
  | .signalLoss .. => execSignalLoss_keeps hk ..
  | .detectTimeout .. => execDetectTimeout_keeps hk ..
  | .lanesLocked .. => execLanesLocked_keeps hk ..
  | .phyTrainTimeout .. => execPhyTrainTimeout_keeps hk ..
  | .identifyTimeout .. => execIdentifyTimeout_keeps hk ..
  | .sealTimeout .. => execSealTimeout_keeps hk ..
  | .retrainTimeout .. => execRetrainTimeout_keeps hk ..
  | .absentRetry .. => execAbsentRetry_keeps hk ..
  | .identitySetSign => execIdentitySetSign_keeps hk
  | .flitReceive .. => execFlitReceive_keeps hk ..
  | .replayTimeout .. => execReplayTimeout_keeps hk ..
  | .idSeg .. => execIdSeg_keeps hk ..
  | .echo .. => execEcho_keeps hk ..
  | .width .. => execWidth_keeps hk ..
  | .sealKey .. => execSealKey_keeps hk ..
  | .hold_ .. => execHold_keeps hk ..
  | .sealTag .. => execSealTag_keeps hk ..
  | .sealRekey .. => execSealRekey_keeps hk ..
  | .laneLockLoss .. => execLaneLockLoss_keeps hk ..
  | .laneRelockTimeout .. => execLaneRelockTimeout_keeps hk ..
  | .laneCsrLimit .. => execLaneCsrLimit_keeps hk ..
  | .ethLinkUp .. => execEthLinkUp_keeps hk ..
  | .ethLinkTimeout .. => execEthLinkTimeout_keeps hk ..
  | .ethFrame .. => execEthFrame_keeps hk ..
  | .s7Hello .. => execS7Hello_keeps hk ..
  | .s7HelloTimeout .. => execS7HelloTimeout_keeps hk ..
  | .packetRoute .. => execPacketRoute_keeps hk ..
  | .escapeDivert .. => execEscapeDivert_keeps hk ..
  | .packetInject .. => execPacketInject_keeps hk ..
  | .pktWrite .. => execPktWrite_keeps hk ..
  | .readReq .. => execReadReq_keeps hk ..
  | .readRsp .. => execReadRsp_keeps hk ..
  | .notice .. => execNotice_keeps hk ..
  | .stampNoticeSend .. => execStampNoticeSend_keeps hk ..
  | .ack .. => execAck_keeps hk ..
  | .ackSend .. => execAckSend_keeps hk ..
  | .chestWr .. => execChestWr_keeps hk ..
  | .chestRd .. => execChestRd_keeps hk ..
  | .cmap .. => execCmap_keeps hk ..
  | .cmapClose .. => execCmapClose_keeps hk ..
  | .pairUnreachable .. => execPairUnreachable_keeps hk ..
  | .collHash .. => execCollHash_keeps hk ..
  | .collGo .. => execCollGo_keeps hk ..
  | .collData .. => execCollData_keeps hk ..
  | .collResult .. => execCollResult_keeps hk ..
  | .resend .. => execResend_keeps hk ..
  | .pull .. => execPull_keeps hk ..
  | .done_ .. => execDone_keeps hk ..
  | .finish .. => execFinish_keeps hk ..
  | .collAbort .. => execCollAbort_keeps hk ..
  | .chunkComplete .. => execChunkComplete_keeps hk ..
  | .collStepTimeout .. => execCollStepTimeout_keeps hk ..
  | .hostLinkUp .. => execHostLinkUp_keeps hk ..
  | .hostLinkDown .. => execHostLinkDown_keeps hk ..
  | .perst .. => execPerst_keeps hk ..
  | .configRequest .. => execConfigRequest_keeps hk ..
  | .sqTailDoorbell .. => execSqTailDoorbell_keeps hk ..
  | .cqHeadDoorbell .. => execCqHeadDoorbell_keeps hk ..
  | .commandFetch .. => execCommandFetch_keeps hk ..
  | .commandTimeout .. => execCommandTimeout_keeps hk ..
  | .replayWindowEnd => execReplayWindowEnd_keeps hk
  | .sessionNonce .. => execSessionNonce_keeps hk ..
  | .sessionOpen .. => execSessionOpen_keeps hk ..
  | .sessionClose .. => execSessionClose_keeps hk ..
  | .queueCreate .. => execQueueCreate_keeps hk ..
  | .queueDelete .. => execQueueDelete_keeps hk ..
  | .bufRegister .. => execBufRegister_keeps hk ..
  | .bufUnregister .. => execBufUnregister_keeps hk ..
  | .abortCmd .. => execAbortCmd_keeps hk ..
  | .ctxCreate .. => execCtxCreate_keeps hk ..
  | .reamLoad .. => execReamLoad_keeps hk ..
  | .ctxStart .. => execCtxStart_keeps hk ..
  | .ctxStop .. => execCtxStop_keeps hk ..
  | .ctxStatus .. => execCtxStatus_keeps hk ..
  | .ctxWait .. => execCtxWait_keeps hk ..
  | .ctxTeardown .. => execCtxTeardown_keeps hk ..
  | .teardownDrainLimit .. => execTeardownDrainLimit_keeps hk ..
  | .teardownComplete .. => execTeardownComplete_keeps hk ..
  | .teardownEscalate .. => execTeardownEscalate_keeps hk ..
  | .collGroup .. => execCollGroup_keeps hk ..
  | .chestCreate .. => execChestCreate_keeps hk ..
  | .chestFree .. => execChestFree_keeps hk ..
  | .chestReencode .. => execChestReencode_keeps hk ..
  | .chestReadDesc .. => execChestReadDesc_keeps hk ..
  | .chestExport .. => execChestExport_keeps hk ..
  | .chestImport .. => execChestImport_keeps hk ..
  | .chestAdopt .. => execChestAdopt_keeps hk ..
  | .headboxPin .. => execHeadboxPin_keeps hk ..
  | .headboxUnpin .. => execHeadboxUnpin_keeps hk ..
  | .headboxMove .. => execHeadboxMove_keeps hk ..
  | .headboxTier .. => execHeadboxTier_keeps hk ..
  | .headboxLend .. => execHeadboxLend_keeps hk ..
  | .headboxReplay .. => execHeadboxReplay_keeps hk ..
  | .storQpCreate .. => execStorQpCreate_keeps hk ..
  | .storQpModify .. => execStorQpModify_keeps hk ..
  | .storQpDestroy .. => execStorQpDestroy_keeps hk ..
  | .storPost .. => execStorPost_keeps hk ..
  | .deckleCreate .. => execDeckleCreate_keeps hk ..
  | .deckleDestroy .. => execDeckleDestroy_keeps hk ..
  | .profileSelect .. => execProfileSelect_keeps hk ..
  | .registerWrite .. => execRegisterWrite_keeps hk ..
  | .splitLowRead .. => execSplitLowRead_keeps hk ..
  | .splitHighRead .. => execSplitHighRead_keeps hk ..
  | .splitLowWrite .. => execSplitLowWrite_keeps hk ..
  | .splitHighWrite .. => execSplitHighWrite_keeps hk ..
  | .ctrlWrite .. => execCtrlWrite_keeps hk ..
  | .flogIdxWrite .. => execFlogIdxWrite_keeps hk ..
  | .brokeIdxWrite .. => execBrokeIdxWrite_keeps hk ..
  | .dumpDataRead .. => execDumpDataRead_keeps hk ..
  | .dumpValidClear .. => execDumpValidClear_keeps hk ..
  | .rptDataRead .. => execRptDataRead_keeps hk ..
  | .measIdxWrite .. => execMeasIdxWrite_keeps hk ..
  | .calenderPeakRead .. => execCalenderPeakRead_keeps hk ..
  | .cxlpAqWrite .. => execCxlpAqWrite_keeps hk ..
  | .deckleAqWrite .. => execDeckleAqWrite_keeps hk ..
  | .deckleAqReset .. => execDeckleAqReset_keeps hk ..
  | .headboxJrnlBaseWrite .. => execHeadboxJrnlBaseWrite_keeps hk ..
  | .headboxJrnlCfgWrite .. => execHeadboxJrnlCfgWrite_keeps hk ..
  | .portRetrain .. => execPortRetrain_keeps hk ..
  | .portEnableWrite .. => execPortEnableWrite_keeps hk ..
  | .mdioRead .. => execMdioRead_keeps hk ..
  | .mdioWrite .. => execMdioWrite_keeps hk ..
  | .mdioAddress .. => execMdioAddress_keeps hk ..
  | .clkctlSrcWrite .. => execClkctlSrcWrite_keeps hk ..
  | .clkctlEnWrite .. => execClkctlEnWrite_keeps hk ..
  | .calenderDlimWrite .. => execCalenderDlimWrite_keeps hk ..
  | .tileFenceRequest .. => execTileFenceRequest_keeps hk ..
  | .tileReturn .. => execTileReturn_keeps hk ..
  | .tileSelfTestDone .. => execTileSelfTestDone_keeps hk ..
  | .cdReset .. => execCdReset_keeps hk ..
  | .pkgRecovery .. => execPkgRecovery_keeps hk ..
  | .dumpRequest .. => execDumpRequest_keeps hk ..
  | .computeDomainReset .. => execComputeDomainReset_keeps hk ..
  | .packageRecovery .. => execPackageRecovery_keeps hk ..
  | .drainLimit .. => execDrainLimit_keeps hk ..
  | .dumpDone .. => execDumpDone_keeps hk ..
  | .cdResetReady .. => execCdResetReady_keeps hk ..
  | .pkgRecoveryReady .. => execPkgRecoveryReady_keeps hk ..
  | .cdResetEscalate => execCdResetEscalate_keeps hk
  | .pkgRecoveryTimeout => execPkgRecoveryTimeout_keeps hk
  | .brokeMapPersist => execBrokeMapPersist_keeps hk
  | .refclkLoss => execRefclkLoss_keeps hk
  | .refclkReturn => execRefclkReturn_keeps hk
  | .rootLock .. => execRootLock_keeps hk ..
  | .rootReady .. => execRootReady_keeps hk ..
  | .rootLockLoss .. => execRootLockLoss_keeps hk ..
  | .droopTrigger .. => execDroopTrigger_keeps hk ..
  | .droopEnd .. => execDroopEnd_keeps hk ..
  | .energyBucketClose .. => execEnergyBucketClose_keeps hk ..
  | .calenderDecision .. => execCalenderDecision_keeps hk ..
  | .tempSample .. => execTempSample_keeps hk ..
  | .thermtripRelease => execThermtripRelease_keeps hk
  | .leakSample .. => execLeakSample_keeps hk ..
  | .slackReport => execSlackReport_keeps hk
  | .stateCopy .. => execStateCopy_keeps hk ..
  | .copyFailure => execCopyFailure_keeps hk
  | .syncComplete => execSyncComplete_keeps hk
  | .pinPathSilent .. => execPinPathSilent_keeps hk ..
  | .islandReset .. => execIslandReset_keeps hk ..
  | .unitBootDone .. => execUnitBootDone_keeps hk ..
  | .bootTimeout .. => execBootTimeout_keeps hk ..
  | .mgtSessionNonce .. => execMgtSessionNonce_keeps hk ..
  | .mgtSessionOpen .. => execMgtSessionOpen_keeps hk ..
  | .mgtSessionClose .. => execMgtSessionClose_keeps hk ..
  | .statusGet .. => execStatusGet_keeps hk ..
  | .liveness .. => execLiveness_keeps hk ..
  | .regRead .. => execRegRead_keeps hk ..
  | .regWrite .. => execRegWrite_keeps hk ..
  | .capSet .. => execCapSet_keeps hk ..
  | .powerReportGet .. => execPowerReportGet_keeps hk ..
  | .poweroffNotice .. => execPoweroffNotice_keeps hk ..
  | .poweroffGraceEnd => execPoweroffGraceEnd_keeps hk
  | .planDeliver .. => execPlanDeliver_keeps hk ..
  | .planWithdraw .. => execPlanWithdraw_keeps hk ..
  | .resetReq .. => execResetReq_keeps hk ..
  | .dumpReq .. => execDumpReq_keeps hk ..
  | .dumpRead .. => execDumpRead_keeps hk ..
  | .setEndpointId .. => execSetEndpointId_keeps hk ..
  | .getEndpointId => execGetEndpointId_keeps hk
  | .getMctpVersionSupport => execGetMctpVersionSupport_keeps hk
  | .getMessageTypeSupport => execGetMessageTypeSupport_keeps hk
  | .getVendorMessageSupport => execGetVendorMessageSupport_keeps hk
  | .enec .. => execEnec_keeps hk ..
  | .disec .. => execDisec_keeps hk ..
  | .rstdaa => execRstdaa_keeps hk
  | .entdaa .. => execEntdaa_keeps hk ..
  | .setmwl .. => execSetmwl_keeps hk ..
  | .setmrl .. => execSetmrl_keeps hk ..
  | .getpid => execGetpid_keeps hk
  | .getbcr => execGetbcr_keeps hk
  | .getdcr => execGetdcr_keeps hk
  | .getstatus => execGetstatus_keeps hk
  | .getmwl => execGetmwl_keeps hk
  | .getmrl => execGetmrl_keeps hk
  | .powerOn .. => execPowerOn_keeps hk ..
  | .railAssert .. => execRailAssert_keeps hk ..
  | .railReqRetry => execRailReqRetry_keeps hk
  | .railLoss .. => execRailLoss_keeps hk ..
  | .prsntRemoval => execPrsntRemoval_keeps hk
  | .inputFault => execInputFault_keeps hk
  | .overcurrent => execOvercurrent_keeps hk
  | .computeDieTestDone .. => execComputeDieTestDone_keeps hk ..
  | .bringupReady .. => execBringupReady_keeps hk ..
  | .hostLinkWindowEnd .. => execHostLinkWindowEnd_keeps hk ..
  | .bringupWatchdog => execBringupWatchdog_keeps hk
  | .nvmErase .. => execNvmErase_keeps hk ..
  | .nvmProgram .. => execNvmProgram_keeps hk ..
  | .nvmRead .. => execNvmRead_keeps hk ..
  | .nvmBegin .. => execNvmBegin_keeps hk ..
  | .nvmVerify .. => execNvmVerify_keeps hk ..
  | .nvmSwitch .. => execNvmSwitch_keeps hk ..
  | .nextBoot .. => execNextBoot_keeps hk ..
  | .nvmEnd .. => execNvmEnd_keeps hk ..
  | .cfgCommit .. => execCfgCommit_keeps hk ..
  | .keyLoad .. => execKeyLoad_keeps hk ..
  | .enrol .. => execEnrol_keeps hk ..
  | .nvmRelease .. => execNvmRelease_keeps hk ..
  | .attest .. => execAttest_keeps hk ..
  | .nvmOpDone .. => execNvmOpDone_keeps hk ..
  | .updateSecondUnit => execUpdateSecondUnit_keeps hk
  | .updateAbandon => execUpdateAbandon_keeps hk
  | .nvmProfileSelWrite .. => execNvmProfileSelWrite_keeps hk ..
  | .reservedOpcode .. => execReservedOpcode_keeps hk ..
  | .laneRelock .. => execLaneRelock_keeps hk ..
  | .summaryRebuildDone .. => execSummaryRebuildDone_keeps hk ..
  | .clockEnableDone .. => execClockEnableDone_keeps hk ..
  | .deckleZeroingDone .. => execDeckleZeroingDone_keeps hk ..
  | .railRemoval .. => execRailRemoval_keeps hk ..
  | .perstRelease .. => execPerstRelease_keeps hk ..
  | .malformedDuntusMessage .. => execMalformedDuntusMessage_keeps hk ..
  | .s7Frame .. => execS7Frame_keeps hk ..
  | .registerReadRefused .. => execRegisterReadRefused_keeps hk ..

/-- The command at the front is run on the state without it, which the command keeps. -/
theorem step_of_pending {s : State} {c : Instr} {r : List Instr} (h : s.pending = c :: r) :
    step s = exec c { s with pending := r } := by
  simp only [step, h]

theorem step_of_idle {s : State} (h : s.pending = []) : step s = .next s := by
  simp only [step, h]

theorem step_of_pending_keeps {s : State} {c : Instr} {r : List Instr} (h : s.pending = c :: r) :
    KeepsOut { s with pending := r } (step s) :=
  step_of_pending h ▸ exec_keeps (Keeps.rfl' _) c

/-- Maps and commands in flight do not speak of the queue of waiting commands. -/
theorem canon_withPending {s : State} (h : Canon s) (r : List Instr) : Canon { s with pending := r } :=
  ⟨h.regs, h.flog, h.tiles, h.spad, h.hbm, h.poison, h.ctxs, h.deckles, h.queues, h.sessions, h.stackTab, h.routers, h.ports,
    h.nor⟩

/-- A step answers a state that has no more in flight than before, or than 4,096, and canonical maps where they were. -/
theorem step_next {s t : State} (h : step s = .next t) : t.cmds.length ≤ max s.cmds.length 4096 ∧ (Canon s → Canon t) := by
  cases hp : s.pending with
  | nil =>
    obtain rfl : s = t := by simpa [step_of_idle hp] using h
    exact ⟨Nat.le_max_left .., id⟩
  | cons c r =>
    have hkeep := KeepsOut.ofNext h (step_of_pending_keeps hp)
    exact ⟨hkeep.cmds, fun hcanon => hkeep.canon (canon_withPending hcanon r)⟩

theorem step_inFlight {s t : State} (hs : s.cmds.length ≤ 4096) (h : step s = .next t) : t.cmds.length ≤ 4096 :=
  (step_next h).1.trans (Nat.max_le.mpr ⟨hs, Nat.le_refl _⟩)

/-- Settles O1: by definition of a step. -/
theorem stepTakesFront : Obligations.StepTakesFront :=
  ⟨fun _ _ _ => step_of_pending, fun _ => step_of_idle⟩

theorem canon_reset : Canon State.reset := by
  constructor <;> rfl

/-- Settles O49: at reset every map is the empty list. -/
theorem resetInvariant : Obligations.ResetInvariant :=
  ⟨⟨canon_reset, Nat.zero_le _⟩, rfl, rfl⟩

/-- Settles O50: what every row keeps, from the state without the command taken. -/
theorem stepKeepsInvariant : Obligations.StepKeepsInvariant :=
  fun _ _ ⟨hcanon, hflight⟩ h => ⟨(step_next h).2 hcanon, step_inFlight hflight h⟩

/-- Settles O51: the queue's rest is the queue that the row keeps, and the one stop of a row is the absent unit. -/
theorem stepTakesOneCommand : Obligations.StepTakesOneCommand := by
  intro s c r hp
  rcases step_of_pending_keeps hp with ⟨t, ht, hkeep⟩ | hstop
  · exact .inl ⟨t, ht, hkeep.pending, hkeep.out, hkeep.fresh⟩
  · exact .inr hstop

end Sys2Proof.Machine

namespace Sys2Proof.Machine

/-! Doorbells (R319): how far a doorbell's value is ahead of a ring's count. -/

theorem ring_steps {n m : Nat} (p : Nat) (h : n < m) : ((p + n) % m + m - p % m) % m = n := by
  have hp := Nat.mod_lt p (Nat.zero_lt_of_lt h)
  rw [← Nat.mod_add_mod]
  generalize p % m = a at hp ⊢
  rcases Nat.lt_or_ge (a + n) m with hlt | hge
  · rw [Nat.mod_eq_of_lt hlt, show a + n + m - a = n + m by omega, Nat.add_mod_right, Nat.mod_eq_of_lt h]
  · rw [Nat.mod_eq_sub_mod hge, Nat.mod_eq_of_lt (show a + n - m < m by omega), show a + n - m + m - a = n by omega,
      Nat.mod_eq_of_lt h]

section
variable {s : State} {fn queue v : Nat} (hok : s.doorbellOk fn queue = true)
  (hrun : (s.queue fn queue).state = .running)
include hok hrun

theorem execSqTailDoorbell_beyond (hv : 2 ^ (s.queue fn queue).e ≤ v) :
    execSqTailDoorbell fn queue v s = .next (s.queueError fn queue) := by
  simp [execSqTailDoorbell, guardUnit, hok, hrun, hv]

theorem execCqHeadDoorbell_beyond (hv : 2 ^ (s.queue fn queue).e ≤ v) :
    execCqHeadDoorbell fn queue v s = .next (s.queueError fn queue) := by
  simp [execCqHeadDoorbell, guardUnit, hok, hrun, hv]

theorem execSqTailDoorbell_ahead {n : Nat} (hn : n < 2 ^ (s.queue fn queue).e)
    (hv : v = ((s.queue fn queue).passed + n) % 2 ^ (s.queue fn queue).e) :
    execSqTailDoorbell fn queue v s =
      .next (if (s.queue fn queue).freed + 2 ^ (s.queue fn queue).e < (s.queue fn queue).passed + n then s.queueError fn queue
        else s.setQueue fn queue { s.queue fn queue with passed := (s.queue fn queue).passed + n }) := by
  have hlt : ¬ 2 ^ (s.queue fn queue).e ≤ v := hv ▸ Nat.not_le.mpr (Nat.mod_lt _ (Nat.two_pow_pos _))
  simp only [execSqTailDoorbell, guardUnit, hok, hrun, if_true, ne_eq, not_true_eq_false, if_false, hlt, false_or]
  rw [hv, ring_steps _ hn]
  simp only [Nat.lt_sub_iff_add_lt']

theorem execCqHeadDoorbell_ahead {n : Nat} (hn : n < 2 ^ (s.queue fn queue).e)
    (hv : v = ((s.queue fn queue).freed + n) % 2 ^ (s.queue fn queue).e)
    (hwritten : (s.queue fn queue).freed + n ≤ (s.queue fn queue).written) :
    execCqHeadDoorbell fn queue v s =
      .next (s.setQueue fn queue { s.queue fn queue with freed := (s.queue fn queue).freed + n }) := by
  have hlt : ¬ 2 ^ (s.queue fn queue).e ≤ v := hv ▸ Nat.not_le.mpr (Nat.mod_lt _ (Nat.two_pow_pos _))
  simp only [execCqHeadDoorbell, guardUnit, hok, hrun, if_true, ne_eq, not_true_eq_false, if_false, hlt]
  rw [hv, ring_steps _ hn, if_neg (Nat.not_lt.mpr hwritten)]

end

/-! The fetch of a descriptor (R322, R323). -/

/-- The command that the fetch of a descriptor puts in flight. -/
def State.fetched (s : State) (fn queue : Nat) (desc : List Byte) : Cmd :=
  ⟨fn, queue, desc, (s.session fn).opened, false, false, 0, [], 0⟩

/-- The state with the descriptor of a queue taken into flight; `turn` is what is left of the queue's turn. -/
def State.takeDescriptor (s : State) (fn queue : Nat) (turn : Nat × Nat) (desc : List Byte) : State :=
  { s.setQueue fn queue { s.queue fn queue with fetched := (s.queue fn queue).fetched + 1, stalled := false } with
    cmds := s.cmds ++ [s.fetched fn queue desc], fetching := ⟨fn, s.fetching.turns.set (fun _ => (0, 0)) fn turn⟩ }

/-- The queue held at the limit of commands in flight, once more of them counted. -/
def State.holdQueue (s : State) (fn queue : Nat) : State :=
  (s.setQueue fn queue { s.queue fn queue with stalled := true }).bump C.DECKLE_INFLIGHT_STALL_CNT

section
variable {s : State} {fn queue : Nat} {desc : List Byte} {turn : Nat × Nat}

/-- The admin queue comes first (R322). -/
theorem queue_of_nextFetch (hnext : s.nextFetch = some (fn, queue, turn)) (hadmin : s.fetchable fn 0 = true) : queue = 0 := by
  unfold State.nextFetch at hnext
  split at hnext
  · cases hnext
  · rename_i f _
    obtain ⟨t, ht, heq⟩ := Option.map_eq_some_iff.mp hnext
    cases heq
    have hfirst : s.fetchQueue fn = some (0, s.fetching.turns.get (fun _ => (0, 0)) fn) := if_pos hadmin
    rw [hfirst] at ht
    cases ht
    rfl

variable (hok : s.doorbellOk fn queue = true) (hnext : s.nextFetch = some (fn, queue, turn))
include hok hnext

theorem execCommandFetch_room (hroom : s.cmds.length < 4096) : execCommandFetch fn queue desc s =
    .next (let k := s.fetched fn queue desc
      let s1 := s.takeDescriptor fn queue turn desc
      if commandOk k then s1
      else if !(s.session fn).opened && k.opcode != 0x01 && k.opcode != 0x02 then s1.finish k 0x08
      else s1.finish k 0x0B) := by
  have hlimit : ¬ inFlightMax ≤ s.cmds.length := Nat.not_le.mpr hroom
  simp only [execCommandFetch, guardUnit, hok, if_true, hnext, ne_eq, not_true_eq_false, or_self, if_false, if_neg hlimit]
  rfl

theorem execCommandFetch_full (hfull : 4096 ≤ s.cmds.length) : execCommandFetch fn queue desc s =
    .next (if (s.queue fn queue).stalled then s else s.holdQueue fn queue) := by
  have hlimit : inFlightMax ≤ s.cmds.length := hfull
  simp only [execCommandFetch, guardUnit, hok, if_true, hnext, ne_eq, not_true_eq_false, or_self, if_false, if_pos hlimit]
  rfl

theorem execCommandFetch_accepted (hroom : s.cmds.length < 4096) (haccept : commandOk (s.fetched fn queue desc) = true) :
    execCommandFetch fn queue desc s = .next (s.takeDescriptor fn queue turn desc) :=
  (execCommandFetch_room hok hnext hroom).trans (congrArg _ (if_pos haccept))

theorem execCommandFetch_invalid (hroom : s.cmds.length < 4096) (haccept : commandOk (s.fetched fn queue desc) = false)
    (hopen : (s.session fn).opened = true ∨ (s.fetched fn queue desc).opcode = 0x01 ∨
      (s.fetched fn queue desc).opcode = 0x02) : execCommandFetch fn queue desc s =
      .next ((s.takeDescriptor fn queue turn desc).finish (s.fetched fn queue desc) 0x0B) := by
  rw [execCommandFetch_room hok hnext hroom]
  rcases hopen with h | h | h <;> simp [haccept, h]

theorem execCommandFetch_unauthorised (hroom : s.cmds.length < 4096)
    (haccept : commandOk (s.fetched fn queue desc) = false) (hclosed : (s.session fn).opened = false)
    (hnonce : (s.fetched fn queue desc).opcode ≠ 0x01) (hopens : (s.fetched fn queue desc).opcode ≠ 0x02) :
    execCommandFetch fn queue desc s =
      .next ((s.takeDescriptor fn queue turn desc).finish (s.fetched fn queue desc) 0x08) := by
  rw [execCommandFetch_room hok hnext hroom]
  simp [haccept, hclosed, hnonce, hopens]

end

/-- Settles O19: a doorbell's value is as far ahead of the ring's count as it says, and the fetch of the queue whose turn it is
turns on the room in flight and on whether the descriptor is a command. -/
theorem doorbellRows : Obligations.DoorbellRows := by
  intro s fn queue v desc hok q
  refine ⟨fun hrun => ⟨fun hv => ⟨execSqTailDoorbell_beyond hok hrun hv, execCqHeadDoorbell_beyond hok hrun hv⟩,
    fun n hn hv => ?tail, fun n hn hv => execCqHeadDoorbell_ahead hok hrun hn hv⟩, fun turn hnext => ?fetch⟩
  case tail =>
    have hexec := execSqTailDoorbell_ahead hok hrun hn hv
    exact ⟨fun hfits => hexec.trans (congrArg _ (if_neg (Nat.not_lt.mpr hfits))),
      fun hover => hexec.trans (congrArg _ (if_pos hover))⟩
  case fetch =>
    exact ⟨fun hroom => ⟨execCommandFetch_accepted hok hnext hroom, execCommandFetch_invalid hok hnext hroom,
      execCommandFetch_unauthorised hok hnext hroom⟩, fun hfull hfirst => (execCommandFetch_full hok hnext hfull).trans
        (congrArg _ (if_neg (Bool.eq_false_iff.mp hfirst)))⟩

/-! Commands in flight (R323): what adds one and what takes one away. -/

theorem State.cmds_close (s : State) (k : Cmd) (status detail result : Nat) :
    (s.close k status detail result).cmds = s.cmds.erase k := by
  have hbump : (({ s with cmds := s.cmds.erase k } : State).bump C.DECKLE_CMD_CNT).cmds = s.cmds.erase k :=
    (State.bump_shows ..).cmds
  unfold State.close
  dsimp only
  split
  · exact (State.bump_shows ..).cmds.trans hbump
  · split
    · exact hbump
    · simpa only [State.emit_cmds, State.setQueue_cmds] using hbump

theorem State.queue_takeDescriptor (s : State) (fn queue : Nat) (turn : Nat × Nat) (desc : List Byte) :
    (s.takeDescriptor fn queue turn desc).queue fn queue =
      { s.queue fn queue with fetched := (s.queue fn queue).fetched + 1, stalled := false } :=
  State.queue_setQueue ..

theorem Shows.queue {s t : State} (h : Shows s t) (fn queue : Nat) : t.queue fn queue = s.queue fn queue :=
  congrArg (Sparse.get _ · _) h.queues

theorem State.queue_holdQueue (s : State) (fn queue : Nat) :
    (s.holdQueue fn queue).queue fn queue = { s.queue fn queue with stalled := true } :=
  (Shows.queue (State.bump_shows ..) fn queue).trans (State.queue_setQueue ..)

theorem State.count_holdQueue (s : State) (fn queue : Nat) : (s.holdQueue fn queue).count C.DECKLE_INFLIGHT_STALL_CNT =
    min (s.count C.DECKLE_INFLIGHT_STALL_CNT + 1) (2 ^ 48 - 1) :=
  State.count_bumpBy _ _ (by decide) (by decide) (by decide)

/-- Settles O52: the limit is what every step keeps; the fetch and the close of a command are the two that count. -/
theorem inFlightLimit : Obligations.InFlightLimit := by
  refine ⟨fun _ _ => step_inFlight, fun s fn queue desc hok turn hnext => ?fetch, fun s k status detail result hk => ?close⟩
  case fetch =>
    refine ⟨queue_of_nextFetch hnext, fun hroom haccept => ⟨_, execCommandFetch_accepted hok hnext hroom haccept, ?_, ?_⟩,
      fun hfull hfirst => ⟨s.holdQueue fn queue, ?_, (State.bump_shows ..).cmds, ?_, ?_, s.count_holdQueue fn queue⟩,
      fun hfull hheld => (execCommandFetch_full hok hnext hfull).trans (congrArg _ (if_pos hheld))⟩
    · exact List.length_append
    · exact congrArg Queue.fetched (s.queue_takeDescriptor ..)
    · exact (execCommandFetch_full hok hnext hfull).trans (congrArg _ (if_neg (Bool.eq_false_iff.mp hfirst)))
    · rw [s.queue_holdQueue]
    · rw [s.queue_holdQueue]
  case close =>
    rw [s.cmds_close, List.length_erase_of_mem hk]
    exact Nat.sub_add_cancel (List.length_pos_of_mem hk)

end Sys2Proof.Machine

namespace Sys2Proof.Machine

/-! Host links, reset pins and configuration requests (R305-R307, R317, R489, R495). -/

section
variable {s : State} {l : Nat} (hl : l < 4)
include hl

theorem execPerstRelease_held (hheld : s.bring.perst.contains l = true) : execPerstRelease l s =
    .next (let s1 := { s with bring := { s.bring with perst := s.bring.perst.filter fun k => k != l } }
      if s1.linkExists l && s1.mayTrain then s1.fset (linkStateF l) 1 else s1) := by
  simp only [execPerstRelease, guardUnit, hl, hheld, decide_true, if_true, Bool.not_true, Bool.false_eq_true, if_false,
    State.when]

variable (hlink : s.linkExists l = true)
include hlink

theorem execHostLinkUp_trains {w rate : Nat} {ide : Bool} (htraining : s.fget (linkStateF l) = 1) (hmay : s.mayTrain = true)
    (hw : 1 ≤ w) (hlanes : w ≤ s.linkLanes) (hrate : 1 ≤ rate) (hrate3 : rate ≤ 3) : execHostLinkUp l w rate ide s =
      .next ((((s.fset (linkStateF l) 2).fset (linkWidthF l) w).fset (linkRateF l) rate).fset (linkIdeF l)
        (if ide then 1 else 0)) := by
  have hsettles : ¬ (s.fget (linkStateF l) ≠ 1 ∨ !s.mayTrain ∨ w = 0 ∨ s.linkLanes < w ∨ rate = 0 ∨ 3 < rate) := by
    rw [hmay]
    simp
    omega
  simp only [execHostLinkUp, guardUnit, hl, hlink, decide_true, Bool.and_self, if_true, if_neg hsettles]

theorem execHostLinkDown_active (hactive : s.linkActive l = true) : execHostLinkDown l s = .next (s.linkLost l) := by
  simp [execHostLinkDown, guardUnit, hl, hlink, hactive]

theorem execPerst_asserted (hfree : s.bring.perst.contains l = false) : execPerst l s =
    .next (let s1 := { s with bring := { s.bring with perst := l :: s.bring.perst } }
      if s1.linkActive l then s1.linkLost l else s1.fset (linkStateF l) 0) := by
  simp only [execPerst, guardUnit, hl, hlink, hfree, decide_true, if_true, Bool.not_true, Bool.false_eq_true, or_self, if_false]

/-- A configuration request on an active link (R489), before and after READY. -/
theorem execConfigRequest_active {f : Nat} {flr : Bool} (hactive : s.linkActive l = true) : execConfigRequest l f flr s =
    .next (if !s.upDone then s.emit (.config l f 2)
      else if f = 0 then (if flr then (s.endSession l).resetView l else s).emit (.config l f 0)
      else if s.deckleActive (f - 1) ∧ s.fget F.DECKLE_STATE_link 0 (ofDeckle (f - 1)) = l then
        (if flr then s.endSession (f + 3) else s).emit (.config l f 0)
      else s.emit (.config l f 1)) := by
  simp only [execConfigRequest, guardUnit, hl, hlink, decide_true, Bool.and_self, if_true, hactive, Bool.not_true,
    Bool.false_eq_true, if_false, State.when]

theorem execConfigRequest_early {f : Nat} {flr : Bool} (hactive : s.linkActive l = true) (hearly : s.upDone = false) :
    execConfigRequest l f flr s = .next (s.emit (.config l f 2)) := by
  simp [execConfigRequest_active hl hlink hactive, hearly]

theorem execConfigRequest_module (flr : Bool) (hactive : s.linkActive l = true) (hup : s.upDone = true) :
    execConfigRequest l 0 flr s = .next ((if flr then (s.endSession l).resetView l else s).emit (.config l 0 0)) := by
  simp [execConfigRequest_active hl hlink hactive, hup]

theorem execConfigRequest_present {f : Nat} (flr : Bool) (hactive : s.linkActive l = true) (hup : s.upDone = true)
    (hdeckle : s.deckleActive f = true) (hon : s.fget F.DECKLE_STATE_link 0 (ofDeckle f) = l) :
    execConfigRequest l (f + 1) flr s = .next ((if flr then s.endSession (f + 4) else s).emit (.config l (f + 1) 0)) := by
  simp [execConfigRequest_active hl hlink hactive, hup, hdeckle, hon]

theorem execConfigRequest_absent {f : Nat} (flr : Bool) (hactive : s.linkActive l = true) (hup : s.upDone = true)
    (habsent : s.deckleActive f = false ∨ s.fget F.DECKLE_STATE_link 0 (ofDeckle f) ≠ l) :
    execConfigRequest l (f + 1) flr s = .next (s.emit (.config l (f + 1) 1)) := by
  have hnot : ¬ (s.deckleActive f = true ∧ s.fget F.DECKLE_STATE_link 0 (ofDeckle f) = l) := by
    rintro ⟨hdeckle, hon⟩
    exact habsent.elim (fun h => by simp [hdeckle] at h) (· hon)
  simp [execConfigRequest_active hl hlink hactive, hup, hnot]

end

/-- Settles O18: each row is one branch of its operation, on a link that the split creates. -/
theorem hostLinkRows : Obligations.HostLinkRows := by
  intro s l w rate ide hl hlink
  refine ⟨execHostLinkUp_trains hl hlink, execHostLinkDown_active hl hlink, execPerst_asserted hl hlink,
    execPerstRelease_held hl, fun hactive hup => ⟨execConfigRequest_module hl hlink false hactive hup,
      execConfigRequest_module hl hlink true hactive hup, fun f => ⟨fun hdeckle hon => ⟨?kept, ?reset⟩,
        fun habsent flr => execConfigRequest_absent hl hlink flr hactive hup habsent⟩⟩,
    fun f flr => execConfigRequest_early hl hlink⟩
  case kept => exact execConfigRequest_present hl hlink false hactive hup hdeckle hon
  case reset => exact execConfigRequest_present hl hlink true hactive hup hdeckle hon

end Sys2Proof.Machine

namespace Sys2Proof.Machine

open Sys2Proof.Claims

/-! Nonces (R315, R316): which one an opening's tag is computed from. -/

section
variable {s : State} {fn link deckle : Nat} {tag : List Byte}

theorem State.nonceFor_barred (hbarred : s.ms < (s.session fn).barred) : s.nonceFor fn link deckle tag = none := by
  unfold State.nonceFor
  split
  · exact if_pos hbarred
  · rfl

theorem State.nonceFor_of_key {key : List Byte} (hkey : s.sessionKey fn = some key) (hfree : (s.session fn).barred ≤ s.ms) :
    s.nonceFor fn link deckle tag = ((s.session fn).nonces.find? fun n =>
      decide (s.ms ≤ n.2 + 1000) && tag == sessionTag key n.1 link deckle).map Prod.fst := by
  simp only [State.nonceFor, hkey, if_neg (Nat.not_lt.mpr hfree)]

theorem State.nonceFor_some {n key : List Byte} (h : s.nonceFor fn link deckle tag = some n)
    (hkey : s.sessionKey fn = some key) :
    tag = sessionTag key n link deckle ∧ ∃ t, (n, t) ∈ (s.session fn).nonces ∧ s.ms ≤ t + 1000 := by
  rcases Nat.lt_or_ge s.ms (s.session fn).barred with hbarred | hfree
  · rw [State.nonceFor_barred hbarred] at h
    cases h
  · rw [State.nonceFor_of_key hkey hfree] at h
    obtain ⟨⟨m, t⟩, hfind, rfl⟩ := Option.map_eq_some_iff.mp h
    have hmatch := List.find?_some hfind
    obtain ⟨hfresh, htag⟩ := Bool.and_eq_true_iff.mp hmatch
    exact ⟨beq_iff_eq.mp htag, t, List.mem_of_find?_eq_some hfind, of_decide_eq_true hfresh⟩

theorem State.nonceFor_only {n key : List Byte} {t : Nat} (hkey : s.sessionKey fn = some key)
    (hfree : (s.session fn).barred ≤ s.ms) (honly : (s.session fn).nonces = [(n, t)]) (hfresh : s.ms ≤ t + 1000)
    (htag : tag = sessionTag key n link deckle) : s.nonceFor fn link deckle tag = some n := by
  rw [State.nonceFor_of_key hkey hfree, honly, List.find?_cons_of_pos (by simp [hfresh, htag])]
  rfl

/-- An opening whose tag fits no nonce issued in the last second fails (R315). -/
theorem State.nonceFor_none {key : List Byte} (hkey : s.sessionKey fn = some key) (hfree : (s.session fn).barred ≤ s.ms)
    (hnone : ∀ n t, (n, t) ∈ (s.session fn).nonces → s.ms ≤ t + 1000 → tag ≠ sessionTag key n link deckle) :
    s.nonceFor fn link deckle tag = none := by
  rw [State.nonceFor_of_key hkey hfree, Option.map_eq_none_iff, List.find?_eq_none]
  rintro ⟨n, t⟩ hmem hmatch
  obtain ⟨hfresh, htag⟩ := Bool.and_eq_true_iff.mp hmatch
  exact hnone n t hmem (of_decide_eq_true hfresh) (beq_iff_eq.mp htag)

end

/-! SESSION_OPEN (R315-R317): it needs no session, and a deckle that has lost its HBM takes it. -/

section
variable {s : State} {r : CmdRef} {k : Cmd}

theorem execSessionOpen_starts (hfn : r.fn < 20) (hqueue : r.queue < 64) (hstart : s.starting r 0x02 = some k) :
    execSessionOpen r s = .next (
      if (s.session k.fn).opened then s.finish k 0x07
      else
        match s.nonceFor k.fn (s.sessionBytes k.fn).1 (s.sessionBytes k.fn).2 ((k.desc.drop 0x10).take 32) with
        | some n => (s.openSession k.fn n).finish k 0
        | none => (s.authFail k.fn).finish k 0x08) := by
  have htakes : lostTakes 0x02 = true := rfl
  simp only [execSessionOpen, cmdRow, guardUnit, hfn, hqueue, hstart, htakes, and_self, decide_true, if_true, beq_self_eq_true,
    Bool.or_true, Bool.not_true, Bool.and_false, Bool.false_eq_true, if_false] <;> rfl

end

/-! Queues and buffers (R318, R326). -/

section
variable {s : State} {r : CmdRef} {k : Cmd}

theorem execQueueCreate_fresh (h : Takes s r 0x04 k) (hstopped : (s.queue k.fn (k.op 0x10 0 6)).state = .stopped) :
    execQueueCreate r s = .next ((s.setQueue k.fn (k.op 0x10 0 6) { Queue.reset with
      state := .running, e := k.op 0x10 8 4, weight := k.op 0x10 16 5, vector := k.op 0x10 24 7
      sq := k.op 0x18 0 64, cq := k.op 0x20 0 64 }).finish k 0) := by
  rw [execQueueCreate, cmdRow_takes h]
  exact congrArg _ (if_neg (not_not_intro hstopped))

theorem execQueueDelete_unknown (h : Takes s r 0x05 k) (hstopped : (s.queue k.fn (k.op 0x10 0 6)).state = .stopped) :
    execQueueDelete r s = .next (s.finish k 0x0B) := by
  rw [execQueueDelete, cmdRow_takes h]
  exact congrArg _ (if_pos (.inl hstopped))

theorem execQueueDelete_running (h : Takes s r 0x05 k) (hrun : (s.queue k.fn (k.op 0x10 0 6)).state = .running)
    (hkept : (s.queue k.fn (k.op 0x10 0 6)).deleting = false) :
    execQueueDelete r s = .next (((s.begin k).setQueue k.fn (k.op 0x10 0 6)
      { s.queue k.fn (k.op 0x10 0 6) with deleting := true }).dropQueue k.fn (k.op 0x10 0 6)) := by
  have hgoes : ¬ ((s.queue k.fn (k.op 0x10 0 6)).state = .stopped ∨ (s.queue k.fn (k.op 0x10 0 6)).deleting = true) := by
    simp [hrun, hkept]
  rw [execQueueDelete, cmdRow_takes h]
  exact congrArg _ (if_neg hgoes)

/-- The deckle without a buffer; space of its tier 3 that the buffer held goes with it. -/
def Deckle.dropBuf (x : Deckle) (b : Buf) : Deckle :=
  { x with bufs := x.bufs.filter fun y => y != b, t3 := x.t3.filter fun t => !b.touches t.1 t.2 }

theorem Deckle.dropBuf_of_no_t3 {x : Deckle} (b : Buf) (h : x.t3 = none) :
    x.dropBuf b = { x with bufs := x.bufs.filter fun y => y != b } := by
  simp only [Deckle.dropBuf, h, Option.filter_none]

theorem execBufUnregister_known {b : Buf} (h : Takes s r 0x07 k)
    (hfind : ((s.deckle (k.fn - 4)).bufs.find? fun b => b.id == k.op 0x10 0 32) = some b) :
    execBufUnregister r s = .next (if s.bufBusy (k.fn - 4) b then s.finish k 0x07
      else (s.setDeckle (k.fn - 4) ((s.deckle (k.fn - 4)).dropBuf b)).finish k 0) := by
  rw [execBufUnregister, cmdRow_takes h]
  simp only [hfind]
  rfl

end

/-- Settles O21: each command is what its row does once it may start, and an opening turns on the nonce its tag fits. -/
theorem sessionAndQueueCommands : Obligations.SessionAndQueueCommands := by
  intro s r k
  refine ⟨fun nonce h => cmdRow_takes h _, ?opens, fun h => cmdRow_takes h _, execQueueCreate_fresh, execQueueDelete_unknown,
    execQueueDelete_running, fun h => cmdRow_takes h _, ?unregister⟩
  case opens =>
    intro hfn hqueue hstart x b tag
    have hexec := execSessionOpen_starts hfn hqueue hstart
    refine ⟨fun hopen => hexec.trans (congrArg _ (if_pos hopen)), fun hclosed hnone => ?fails, fun n hclosed hsome => ?opened,
      State.nonceFor_barred, fun n key => State.nonceFor_some, fun n key t => State.nonceFor_only⟩
    case fails =>
      refine hexec.trans (congrArg _ ?_)
      rw [if_neg (Bool.eq_false_iff.mp hclosed), hnone]
    case opened =>
      refine hexec.trans (congrArg _ ?_)
      rw [if_neg (Bool.eq_false_iff.mp hclosed), hsome]
      rfl
  case unregister =>
    intro h x b hfind
    have hexec := execBufUnregister_known h hfind
    refine ⟨fun hbusy => hexec.trans (congrArg _ (if_pos hbusy)), fun hidle hnoT3 => ?_⟩
    refine hexec.trans (congrArg _ ?_)
    rw [if_neg (Bool.eq_false_iff.mp hidle), Deckle.dropBuf_of_no_t3 b hnoT3]

end Sys2Proof.Machine

namespace Sys2Proof.Machine

open Sys2Proof.Claims

/-! What leaves every context as it was: completions, packets to other modules, entries of the journal. -/

@[simp] theorem State.ctxs_bump (s : State) (c : Cnt) (inst : Nat) : (s.bump c inst).ctxs = s.ctxs :=
  (State.bump_shows ..).ctxs

@[simp] theorem State.ctxs_raiseTo (s : State) (e : Ev) (att : List Nat) (inst : Nat) : (s.raiseTo e att inst).ctxs = s.ctxs :=
  (State.raiseTo_shows ..).ctxs

theorem State.ctxs_when {s : State} {f : State → State} (c : Bool) (h : (f s).ctxs = s.ctxs) : (s.when c f).ctxs = s.ctxs := by
  unfold State.when
  split
  · exact h
  · rfl

theorem foldl_ctxs {α : Type} {f : State → α → State} (hf : ∀ s x, (f s x).ctxs = s.ctxs) (l : List α) (s : State) :
    (l.foldl f s).ctxs = s.ctxs :=
  List.foldlRecOn (motive := fun t : State => t.ctxs = s.ctxs) l f rfl fun t ht x _ => (hf t x).trans ht

@[simp] theorem State.ctxs_close (s : State) (k : Cmd) (status detail result : Nat) :
    (s.close k status detail result).ctxs = s.ctxs := by
  unfold State.close
  dsimp only
  split
  · simp
  · split <;> simp

@[simp] theorem State.ctxs_dropQueue (s : State) (fn queue : Nat) : (s.dropQueue fn queue).ctxs = s.ctxs := by
  unfold State.dropQueue
  split
  · dsimp only
    split <;> simp
  · rfl

@[simp] theorem State.ctxs_finish (s : State) (k : Cmd) (status detail result : Nat) :
    (s.finish k status detail result).ctxs = s.ctxs := by
  unfold State.finish
  split <;> simp

@[simp] theorem State.ctxs_finishAll (s : State) (p : Cmd → Bool) (status result : Nat) :
    (s.finishAll p status result).ctxs = s.ctxs :=
  foldl_ctxs (fun _ _ => State.ctxs_finish ..) _ s

@[simp] theorem State.ctxs_post (s : State) (iod : Nat) (p : Pkt) : (s.post iod p).1.ctxs = s.ctxs := by
  unfold State.post
  dsimp only
  split
  · exact s.ctxs_bump ..
  · exact State.ctxs_when _ (State.ctxs_bump ..)

@[simp] theorem State.ctxs_postTree (s : State) (iod tree : Nat) (dests : List Nat) (p : Pkt) :
    (s.postTree iod tree dests p).1.ctxs = s.ctxs :=
  State.ctxs_when _ (State.ctxs_bump ..)

theorem State.ctxs_collToAll (s : State) (g : Group) (hash : Word) (iod die sub pass addr flags : Nat) (payload : List Byte) :
    (s.collToAll g hash iod die sub pass addr flags payload).1.ctxs = s.ctxs := by
  unfold State.collToAll
  dsimp only
  split
  · split
    · rfl
    · exact s.ctxs_postTree ..
  · refine List.foldlRecOn (motive := fun a : State × List Nat × List RWrite => a.1.ctxs = s.ctxs) _ _ rfl fun a ha dest _ => ?_
    split <;> exact (State.ctxs_post ..).trans ha

@[simp] theorem State.ctxs_journal (s : State) (d : Nat) (e : JEntry) : (s.journal d e).ctxs = s.ctxs := by
  unfold State.journal
  dsimp only
  split
  · rfl
  · exact (State.ctxs_when _ (by simp)).trans (by simp)

@[simp] theorem State.ctxs_stopTile (s : State) (tile : Nat) (unbind : Bool) : (s.stopTile tile unbind).ctxs = s.ctxs := by
  unfold State.stopTile
  dsimp only
  split <;> simp

/-! A context's state and generation (R330), as its teardown goes on. -/

/-- Context `i` has the state and the generation it had. -/
structure SameLife (i : Nat) (s t : State) : Prop where
  st : (t.ctx i).st = (s.ctx i).st
  gen : (t.ctx i).gen = (s.ctx i).gen

section
variable {i : Nat} {s t u : State}

theorem SameLife.of_ctxs (h : t.ctxs = s.ctxs) : SameLife i s t :=
  ⟨congrArg (fun m : Sparse Ctx => (m.get (fun _ => Ctx.reset) i).st) h,
    congrArg (fun m : Sparse Ctx => (m.get (fun _ => Ctx.reset) i).gen) h⟩

theorem SameLife.trans (h : SameLife i s t) (k : SameLife i t u) : SameLife i s u := ⟨k.st.trans h.st, k.gen.trans h.gen⟩

theorem State.ctx_modCtx (s : State) (c : Nat) (f : Ctx → Ctx) : (s.modCtx c f).ctx c = f (s.ctx c) := s.ctx_setCtx_same ..

theorem SameLife.modCtx (c : Nat) {f : Ctx → Ctx} (hst : ∀ x, (f x).st = x.st) (hgen : ∀ x, (f x).gen = x.gen) :
    SameLife i s (s.modCtx c f) := by
  by_cases h : i = c
  · subst h
    exact ⟨by rw [State.ctx_modCtx, hst], by rw [State.ctx_modCtx, hgen]⟩
  · have hother : (s.modCtx c f).ctx i = s.ctx i := (s.ctx_setCtx ..).trans (if_neg h)
    exact ⟨congrArg Ctx.st hother, congrArg Ctx.gen hother⟩

theorem SameLife.foldl {α : Type} {f : State → α → State} (hf : ∀ s x, SameLife i s (f s x)) (l : List α) :
    SameLife i s (l.foldl f s) :=
  List.foldlRecOn (motive := SameLife i s) l f (.of_ctxs rfl) fun t h x _ => h.trans (hf t x)

end

theorem State.abortAll_sameLife (i : Nat) (s : State) (c : Nat) (g : Group) (hash : Word) (status rank : Nat) :
    SameLife i s (s.abortAll c g hash status rank) := by
  unfold State.abortAll
  split
  · exact .of_ctxs rfl
  · exact (SameLife.of_ctxs (s.ctxs_collToAll ..)).trans (.modCtx c (fun _ => rfl) fun _ => rfl)

theorem State.closeStep_sameLife (i : Nat) (s : State) (c : Nat) (p : Step) (status rank : Nat) :
    SameLife i s (s.closeStep c p status rank) := by
  have habort := s.abortAll_sameLife i c ((s.ctx c).groupOf p) p.hash status rank
  have hdrop := SameLife.modCtx (i := i) (s := s.abortAll c ((s.ctx c).groupOf p) p.hash status rank) c
    (f := fun x => { x with steps := x.steps.filter fun q => q != p }) (fun _ => rfl) fun _ => rfl
  refine (habort.trans hdrop).trans (.of_ctxs ?_)
  unfold State.closeStep
  simp

theorem State.closeSteps_sameLife (i : Nat) (s : State) (c : Nat) : SameLife i s (s.closeSteps c) :=
  SameLife.foldl (fun s p => s.closeStep_sameLife i c p ..) _

/-! Teardown (R331). -/

theorem State.dropChest_shows (s : State) (c : Nat) : Shows s (s.dropChest c) := by
  unfold State.dropChest
  exact Shows.when (State.bumpBy_shows ..) (State.raiseTo_shows ..)

/-- A context whose teardown begins. -/
def Ctx.tornDown (x : Ctx) : Ctx := { x with st := .teardown, startFrom := none }

/-- What is left of a context whose sheets have stopped: nothing bound, nothing running, no move. -/
def Ctx.emptied (x : Ctx) (ms : Nat) (away : List RWrite) : Ctx :=
  { x with
    torn := ms, bind := [], places := [], insts := [], notices := [], moves := [], promote := [], drops := [], queries := [], away
    blocks := x.blocks.map fun p => (p.1, p.2.map fun b => { b with t0 := none }) }

theorem State.ctx_noteDrained (s : State) (i : Nat) :
    ∃ d, (s.noteDrained i).ctx i = { s.ctx i with drainedAt := d } := by
  unfold State.noteDrained
  split
  · exact ⟨some s.ms, by simp [State.modCtx]⟩
  · exact ⟨(s.ctx i).drainedAt, rfl⟩

section
variable {s : State} {r : CmdRef} {k : Cmd} {i : Nat}

theorem execCtxTeardown_onCtx (h : OnCtx s r 0x16 k i) : ∃ (t : State) (away : List RWrite),
    execCtxTeardown r s = .next ((t.modCtx i fun x => x.emptied t.ms away).noteDrained i) ∧
      (t.ctx i).st = .teardown ∧ (t.ctx i).gen = (s.ctx i).gen := by
  rw [execCtxTeardown, ctxRow_onCtx h]
  refine ⟨_, _, rfl, ?_⟩
  have hbegin : (((s.begin k).dropChest i).modCtx i Ctx.tornDown).ctx i = (s.ctx i).tornDown := by
    rw [State.ctx_modCtx, (State.dropChest_shows ..).ctx]
    rfl
  suffices hlife : SameLife i (((s.begin k).dropChest i).modCtx i Ctx.tornDown) _ from
    ⟨hlife.st.trans (by rw [hbegin]; rfl), hlife.gen.trans (by rw [hbegin]; rfl)⟩
  refine .trans (.trans (.trans (State.closeSteps_sameLife ..) (.of_ctxs (State.ctxs_finishAll ..))) (.foldl ?stops _))
    (.foldl ?entries _)
  case stops => exact fun _ _ => .of_ctxs (State.ctxs_stopTile ..)
  case entries => exact fun _ _ => .of_ctxs (State.ctxs_journal ..)

section
variable (hi : i < 1024) (htorn : (s.ctx i).st = .teardown)
include hi htorn

theorem execTeardownComplete_drained (hdrained : s.draining i = false) (haway : s.awayLeft i = []) :
    execTeardownComplete i s = .next ((s.revoke i).endTeardown i 0x00) := by
  simp [execTeardownComplete, guardUnit, hi, htorn, hdrained, haway]

omit htorn in
theorem execTeardownComplete_waits (hleft : s.draining i = true ∨ s.awayLeft i ≠ []) :
    execTeardownComplete i s = .next s := by
  rcases hleft with h | h <;> simp [execTeardownComplete, guardUnit, hi, h]

theorem execTeardownDrainLimit_due {t : Nat} (ht : (s.ctx i).drainedAt = some t)
    (hdue : t + s.fget F.DECKLE_TIMERS_drain_ms 0 (ofDeckle (s.ctx i).deckle) ≤ s.ms) (hlive : (s.ctx i).revoked = false) :
    execTeardownDrainLimit i s = .next ((s.discardUnsent i (s.ctx i).away.length).revoke i) := by
  simp [execTeardownDrainLimit, guardUnit, hi, htorn, ht, hdue, hlive]

theorem execTeardownEscalate_due
    (hdue : (s.ctx i).torn + s.fget F.DECKLE_TIMERS_teardown_ms 0 (ofDeckle (s.ctx i).deckle) ≤ s.ms)
    (hleft : s.draining i = true ∨ s.awayLeft i ≠ []) : execTeardownEscalate i s =
      .next (let s1 := s.each (s.tilesOf i) fun s t =>
          ((s.brokeAdd 0x1 t 0x03 false).bump C.RSTCTL_TFENCE_CNT).raiseTo E.RSTCTL_fence (s.ownersOfGroup (groupOf t))
        let s2 := s1.each ((s.awayLeft i).map fun w => (w.iod, w.dst)).eraseDups fun s p => s.loseRoute p.1 p.2
        ((s2.revoke i).raiseTo E.DECKLE_teardown_escalated [(s.ctx i).deckle]).endTeardown i 0x03) := by
  have hgoes : ¬ ((s.ctx i).st ≠ .teardown ∨ ((!s.draining i) = true ∧ (s.awayLeft i).isEmpty = true) ∨
      s.ms < (s.ctx i).torn + s.fget F.DECKLE_TIMERS_teardown_ms 0 (ofDeckle (s.ctx i).deckle)) := by
    rcases hleft with h | h <;> simp [htorn, h, Nat.not_lt.mpr hdue]
  simp only [execTeardownEscalate, guardUnit, hi, decide_true, if_true, if_neg hgoes]

end

/-! ABORT (R328, R329). -/

/-- The command in flight that an ABORT names. -/
def State.abortNamed (s : State) (k : Cmd) : Option Cmd :=
  s.cmds.find? fun t => t.fn == k.fn && t.queue == k.op 0x10 0 6 && t.id == k.op 0x14 0 32 && !t.lost && t != k

theorem execAbortCmd_none (h : Takes s r 0x08 k) (hnone : s.abortNamed k = none) :
    execAbortCmd r s = .next (s.finish k 0x02) := by
  rw [execAbortCmd, cmdRow_takes h]
  unfold State.abortNamed at hnone
  simp only [hnone]

theorem execAbortCmd_named {t : Cmd} (h : Takes s r 0x08 k) (hnamed : s.abortNamed k = some t) :
    execAbortCmd r s = .next (
      if t.opcode = 0x16 ∨ t.opcode = 0x40 ∨ t.opcode = 0x41 then s.finish k 0x07
      else if t.begun then ((s.finish t 0x01 0 (s.movesDone t)).abandon t).finish k 0
      else (s.finish t 0x01).finish k 0) := by
  rw [execAbortCmd, cmdRow_takes h]
  unfold State.abortNamed at hnamed
  simp only [hnamed]
  cases t.begun <;> rfl

end

/-- Settles O23: a teardown's steps leave the context's state and generation, and each limit and each abort is one branch. -/
theorem teardownAndAbort : Obligations.TeardownAndAbort := by
  intro s r k i
  refine ⟨fun h _ => ?teardown, fun hi htorn => ⟨execTeardownComplete_drained hi htorn, execTeardownComplete_waits hi,
    fun t => execTeardownDrainLimit_due hi htorn, execTeardownEscalate_due hi htorn⟩, fun h => ?abort⟩
  case teardown =>
    obtain ⟨t, away, hexec, hst, hgen⟩ := execCtxTeardown_onCtx h
    obtain ⟨d, hctx⟩ := (t.modCtx i fun x => x.emptied t.ms away).ctx_noteDrained i
    rw [State.ctx_modCtx] at hctx
    refine ⟨_, hexec, ?_⟩
    rw [hctx]
    exact ⟨hst, rfl, rfl, rfl, hgen⟩
  case abort =>
    intro named
    have hbars {t : Cmd} (h16 : t.opcode ≠ 0x16) (h40 : t.opcode ≠ 0x40) (h41 : t.opcode ≠ 0x41) :
        ¬ (t.opcode = 0x16 ∨ t.opcode = 0x40 ∨ t.opcode = 0x41) := by simp [h16, h40, h41]
    refine ⟨execAbortCmd_none h, fun t hnamed hop => ?busy, fun t hnamed h16 h40 h41 hwaits => ?fresh,
      fun t hnamed h16 h40 h41 hbegun => ?begun⟩
    case busy => exact (execAbortCmd_named h hnamed).trans (congrArg _ (if_pos (.inl hop)))
    case fresh =>
      refine (execAbortCmd_named h hnamed).trans (congrArg _ ?_)
      rw [if_neg (hbars h16 h40 h41), if_neg (Bool.eq_false_iff.mp hwaits)]
    case begun =>
      refine (execAbortCmd_named h hnamed).trans (congrArg _ ?_)
      rw [if_neg (hbars h16 h40 h41), if_pos hbegun]

end Sys2Proof.Machine

namespace Sys2Proof.Machine

open Sys2Proof.Claims

/-! Maintenance locks (R424-R426): which held lock bars an activity. -/

/-- A held lock bars an activity of class `cls` on unit `inst`; `g` is what a deckle activity is given (R425). -/
def State.bars (s : State) (cls inst : Nat) (g : Given) (l : Lock) : Bool :=
  match clash l.cls cls with
  | .none => false
  | .all => true
  | .same => l.inst == inst
  | .overlap => if cls = 3 then g.has l.cls l.inst || (s.holds inst).has l.cls l.inst else (s.holds l.inst).has cls inst

theorem State.conflict_eq_find (s : State) (cls inst : Nat) (g : Given) :
    s.conflict cls inst g = s.locks.find? (s.bars cls inst g) := rfl

theorem State.conflict_eq_none_iff {s : State} {cls inst : Nat} {g : Given} :
    s.conflict cls inst g = none ↔ ∀ l ∈ s.locks, s.bars cls inst g l = false := by
  simp only [State.conflict_eq_find, List.find?_eq_none, Bool.not_eq_true]

theorem clash_comm {a b : Nat} (ha : a ≤ 8) (hb : b ≤ 8) : clash a b = clash b a := by
  have hmatrix : ∀ a ≤ 8, ∀ b ≤ 8, clash a b = clash b a := by decide
  exact hmatrix a ha b hb

/-- A class clashes with itself, at least on one unit. -/
theorem clash_self (a : Nat) : clash a a = .same ∨ clash a a = .all := by
  unfold clash
  simp only [or_self, if_true]
  split
  · exact .inr rfl
  · split
    · exact .inl rfl
    · exact .inr rfl

section
variable {s : State} {cls inst : Nat} {g : Given} {l : Lock}

theorem State.bars_own (hcls : l.cls = cls) (hinst : l.inst = inst) : s.bars cls inst g l = true := by
  subst hcls hinst
  rcases clash_self l.cls with h | h <;> simp [State.bars, h]

theorem State.bars_pkgRecovery (hcls : l.cls = 7) : s.bars cls inst g l = true := by
  have hall : clash l.cls cls = .all := if_pos (.inl hcls)
  simp only [State.bars, hall]

theorem State.conflict_ne_none (hl : l ∈ s.locks) (hbars : s.bars cls inst g l = true) : s.conflict cls inst g ≠ none :=
  fun hnone => Bool.eq_false_iff.mp (State.conflict_eq_none_iff.mp hnone l hl) hbars

/-- No lock of a class is held on unit `inst`. -/
def State.unlocked (s : State) (cls inst : Nat) : Prop := ∀ l ∈ s.locks, l.cls = cls → l.inst ≠ inst

theorem State.unlocked_of_no_conflict (h : s.conflict cls inst g = none) : s.unlocked cls inst :=
  fun _ hl hcls hinst => State.conflict_ne_none hl (State.bars_own hcls hinst) h

theorem State.any_lock_eq_false_iff : (s.locks.any fun l => l.cls == cls && l.inst == inst) = false ↔ s.unlocked cls inst := by
  simp [State.unlocked]

theorem State.freeLock_of_unlocked (h : s.unlocked cls inst) : s.freeLock cls inst = s := by
  simp [State.freeLock, State.any_lock_eq_false_iff.mpr h]

theorem Shows.locks {t : State} (h : Shows s t) : t.locks = s.locks := h.reports.locks

theorem State.locks_freeLock : (s.freeLock cls inst).locks = s.locks.filter fun l => !(l.cls == cls && l.inst == inst) := by
  unfold State.freeLock
  split
  · exact (State.raiseBit_shows ..).locks
  · rename_i hnone
    exact (List.filter_eq_self.mpr (by simpa [imp_iff_not_or] using hnone)).symm

theorem State.freeLock_unlocked : (s.freeLock cls inst).unlocked cls inst := by
  intro l hl hcls hinst
  rw [State.locks_freeLock] at hl
  simpa [hcls, hinst] using List.of_mem_filter hl

end

/-- Settles O60: a lock bars an activity as the matrix says, and every class clashes with itself and with package recovery. -/
theorem lockRules : Obligations.LockRules := by
  refine ⟨fun a b _ ha _ hb => clash_comm ha hb, fun s cls inst tag holder g _ _ => ⟨?taken, fun l hl hcls => ?recovery,
    State.freeLock_unlocked, State.freeLock_of_unlocked, State.unlocked_of_no_conflict⟩⟩
  case taken => exact State.conflict_ne_none (List.mem_append_right _ (List.mem_singleton_self _)) (State.bars_own rfl rfl)
  case recovery => exact State.conflict_ne_none hl (State.bars_pkgRecovery hcls)

/-! Deckles made and destroyed (R312-R314). -/

section
variable {s : State} {r : CmdRef} {k : Cmd}

theorem execDeckleCreate_asked (h : Takes s r 0x40 k) (hok : s.askOk (deckleAsk k) = true) :
    execDeckleCreate r s = .next (
      match s.conflict 3 (deckleAsk k).d (deckleAsk k).given with
      | some l => s.lockRefuse k l
      | none =>
        if s.askTaken (deckleAsk k) then s.finish k 0x0C
        else ((s.begin k).takeLock 3 (deckleAsk k).d k.holder k.id).giveDeckle (deckleAsk k)) := by
  rw [execDeckleCreate, cmdRow_takes h]
  simp only [hok, Bool.not_true, Bool.false_eq_true, if_false] <;> rfl

theorem execDeckleCreate_invalid (h : Takes s r 0x40 k) (hbad : s.askOk (deckleAsk k) = false) :
    execDeckleCreate r s = .next (s.finish k 0x0B) := by
  rw [execDeckleCreate, cmdRow_takes h]
  simp only [hbad, Bool.not_false, if_true]

theorem execDeckleZeroingDone_zeroed {d : Nat} (hd : d < 16) (hstate : s.fget F.DECKLE_STATE_state 0 (ofDeckle d) = 1)
    (hservice : s.inService = true) : execDeckleZeroingDone d s =
      .next (((((s.zeroDeckle d).fset F.DECKLE_STATE_state 2 0 (ofDeckle d)).freeLock 3 d).resetView (4 + d)).finishAll
        (fun k => k.begun && k.opcode == 0x40 && k.op 0x10 0 4 == d) 0) := by
  simp only [execDeckleZeroingDone, guardUnit, hd, hstate, hservice, decide_true, if_true, ne_eq, not_true_eq_false,
    Bool.not_true, Bool.false_eq_true, or_self, if_false]

theorem execDeckleDestroy_free (h : Takes s r 0x41 k) (hexists : s.deckleExists (k.op 0x10 0 4) = true)
    (hfree : s.conflict 3 (k.op 0x10 0 4) = none) : execDeckleDestroy r s =
      .next (if s.ctxsOf (k.op 0x10 0 4) = [] then (s.dropDeckle (k.op 0x10 0 4)).finish k 0 else s.finish k 0x07) := by
  rw [execDeckleDestroy, cmdRow_takes h]
  simp only [hexists, hfree, Bool.not_true, Bool.false_eq_true, if_false]

end

theorem State.hbm_zeroDeckle_get {s : State} {d key : Nat} (howned : s.ownsHalf d (key / 2 ^ 37) (key / 2 ^ 36 % 2) = true) :
    (s.zeroDeckle d).hbm.get (fun _ => 0) key = 0 :=
  (Sparse.get_clear _ (fun key => s.ownsHalf d (key / 2 ^ 37) (key / 2 ^ 36 % 2)) ..).trans (if_pos howned)

/-- Settles O27: a request is judged by its limits, then the deckle's lock, then what is taken; zeroing clears what the deckle
owns. -/
theorem deckleCommands : Obligations.DeckleCommands := by
  intro s r k
  refine ⟨fun h => ?create, fun _ => execDeckleZeroingDone_zeroed, execDeckleDestroy_free, fun h => cmdRow_takes h _,
    fun t d key => State.hbm_zeroDeckle_get⟩
  case create =>
    intro a
    refine ⟨execDeckleCreate_invalid h, fun l hok hlock => ?locked, fun hok hlock htaken => ?taken,
      fun hok hlock hfree => ?given⟩
    all_goals refine (execDeckleCreate_asked h hok).trans (congrArg _ ?_)
    case locked => rw [hlock]
    case taken => rw [hlock]; exact if_pos htaken
    case given => rw [hlock]; exact if_neg (Bool.eq_false_iff.mp hfree)

end Sys2Proof.Machine

namespace Sys2Proof.Machine

open Sys2Proof.Claims

/-! Receiving a Duntus message (R431, R443-R445, R452): what a row answers before its message has its effect, and when it has. -/

section
variable {s : State} {h : DHdr} {code : Nat} {i : Waiting} {f : State → State}

theorem State.orInbox_runs (hruns : s.controlRuns = true) : s.orInbox i f = f s := by
  simp [State.orInbox, hruns]

theorem State.orInbox_early (hearly : s.answers = false) : s.orInbox i f = f s := by
  simp [State.orInbox, hearly]

/-- The state whose inbox holds the message too (R431, R452). -/
def State.keepWaiting (s : State) (i : Waiting) : State :=
  { s with mgt := { s.mgt with inbox := s.mgt.inbox ++ [(i, s.beatCount, s.ms)] } }

theorem State.orInbox_waits (hanswers : s.answers = true) (hstands : s.controlRuns = false) :
    s.orInbox i f = s.keepWaiting i := by
  simp [State.orInbox, State.keepWaiting, hanswers, hstands]

theorem mgtRow_waits {isOpen : Bool} (hanswers : s.answers = true) (hstands : s.controlRuns = false) :
    mgtRow code isOpen h i f s = .next (s.keepWaiting i) :=
  congrArg Host.Outcome.next (State.orInbox_waits hanswers hstands)

variable {isOpen lenOk : Bool} (hpower : s.bring.powered = true)

section
include hpower

theorem State.receive_early (hearly : s.answers = false) : s.receive h code isOpen lenOk f = s.respond h 0x0B := by
  simp [State.receive, hpower, hearly]

theorem mgtRow_early (hearly : s.answers = false) : mgtRow code isOpen h i f s = .next (s.respond h 0x0B) :=
  congrArg Host.Outcome.next ((State.orInbox_early hearly).trans (State.receive_early hpower hearly))

theorem State.receive_repeated (hanswers : s.answers = true) (hrepeat : s.repeated h = true) :
    s.receive h code isOpen lenOk f = s.bump C.MGT_MSG_ERR_CNT := by
  simp [State.receive, hpower, hanswers, hrepeat]

theorem mgtRow_repeated (hanswers : s.answers = true) (hruns : s.controlRuns = true) (hrepeat : s.repeated h = true) :
    mgtRow code isOpen h i f s = .next (s.bump C.MGT_MSG_ERR_CNT) :=
  congrArg Host.Outcome.next ((State.orInbox_runs hruns).trans (State.receive_repeated hpower hanswers hrepeat))

theorem execMalformedDuntusMessage_refused {n : Nat} (hanswers : s.answers = true) (hruns : s.controlRuns = true)
    (hnew : s.repeated h = false) (hbad : duntusHeadOk h = false ∨ h.len ≠ n) :
    execMalformedDuntusMessage h n s = .next ((s.bump C.MGT_MSG_ERR_CNT).respond h 0x0B) := by
  refine congrArg Host.Outcome.next ((State.orInbox_runs hruns).trans ?_)
  rcases hbad with hhead | hlen
  · simp [State.receive, hpower, hanswers, hnew, hhead]
  · simp [State.receive, hpower, hanswers, hnew, hlen]

end

/-- A message that is neither early, nor repeated, nor malformed has its effect if it needs no session or finds one (R445). -/
theorem State.receive_msg (hmsg : Msg s h code) : s.receive h code isOpen true f =
    if !isOpen && !s.mgtSession then (kept s h).respond h 0x08 else f (kept s h) := by
  obtain ⟨hpower, hanswers, -, hnew, hhead, hcode⟩ := hmsg
  simp only [State.receive, hpower, hanswers, hnew, hhead, hcode, Bool.not_true, Bool.false_eq_true, ne_eq, not_true_eq_false,
    or_self, if_false]
  rfl

theorem mgtRow_msg (hmsg : Msg s h code) : mgtRow code isOpen h i f s =
    .next (if !isOpen && !s.mgtSession then (kept s h).respond h 0x08 else f (kept s h)) := by
  have hruns := hmsg.2.2.1
  exact congrArg Host.Outcome.next ((State.orInbox_runs hruns).trans (State.receive_msg hmsg))

theorem mgtRow_open (hmsg : Msg s h code) : mgtRow code true h i f s = .next (f (kept s h)) :=
  (mgtRow_msg hmsg).trans (congrArg _ (if_neg (by simp)))

theorem mgtRow_session (hsession : s.mgtSession = true) (hmsg : Msg s h code) :
    mgtRow code false h i f s = .next (f (kept s h)) :=
  (mgtRow_msg hmsg).trans (congrArg _ (if_neg (by simp [hsession])))

theorem mgtRow_closed (hclosed : s.mgtSession = false) (hmsg : Msg s h code) :
    mgtRow code false h i f s = .next ((kept s h).respond h 0x08) :=
  (mgtRow_msg hmsg).trans (congrArg _ (if_pos (by simp [hclosed])))

end

/-- Settles O45: a message is refused before it has its effect, the same way in every row of a message. -/
theorem duntusRefusals : Obligations.DuntusRefusals := by
  intro s h hpower
  refine ⟨fun hearly => ⟨mgtRow_early hpower hearly, mgtRow_early hpower hearly⟩,
    fun hanswers hruns hrepeat => ⟨mgtRow_repeated hpower hanswers hruns hrepeat,
      fun _ _ => mgtRow_repeated hpower hanswers hruns hrepeat⟩,
    fun hanswers hruns hnew => ⟨fun hhead n => ?head, fun n _ hlen => ?length⟩,
    fun hanswers hstands => ⟨mgtRow_waits hanswers hstands, mgtRow_waits hanswers hstands,
      fun _ => mgtRow_waits hanswers hstands⟩, fun hclosed => ?closed⟩
  case head => exact execMalformedDuntusMessage_refused hpower hanswers hruns hnew (.inl hhead)
  case length => exact execMalformedDuntusMessage_refused hpower hanswers hruns hnew (.inr hlen)
  case closed =>
    have hrow {code : Nat} {i : Waiting} {f : State → State} (hmsg : Msg s h code) :
        mgtRow code false h i f s = .next ((kept s h).respond h 0x08) := mgtRow_closed hclosed hmsg
    exact ⟨hrow, fun hmsg _ _ => hrow hmsg, fun hmsg _ _ _ => hrow hmsg, fun hmsg _ _ => hrow hmsg, fun hmsg _ => hrow hmsg,
      fun hmsg _ => hrow hmsg, hrow, fun hmsg _ _ => hrow hmsg⟩

/-! Messages that are accepted (R445), each in the state that keeps its seq. -/

section
variable {s : State} {h : DHdr}

theorem State.length_word4 (s : State) (page off : Nat) : (s.word4 page off).length = 4 := leBytes_length ..

section
variable {tag : List Byte} (hmsg : Msg s h 0x02)
include hmsg

theorem execMgtSessionOpen_busy (hopen : (s.session 20).opened = true) :
    execMgtSessionOpen h tag s = .next ((kept s h).respond h 0x07) :=
  (mgtRow_open hmsg).trans (congrArg _ (if_pos hopen))

theorem execMgtSessionOpen_closed (hclosed : (s.session 20).opened = false) : execMgtSessionOpen h tag s =
    .next (match s.nonceFor 20 0xFF 0xFE tag with
      | some n =>
        let s1 := (kept s h).openSession 20 n
        ({ s1 with mgt := { s1.mgt with opener := h.src } }).respond h 0
      | none => ((kept s h).authFail 20).respond h 0x08) :=
  (mgtRow_open hmsg).trans (congrArg _ (if_neg (Bool.eq_false_iff.mp hclosed)))

theorem execMgtSessionOpen_fails (hclosed : (s.session 20).opened = false) (hnone : s.nonceFor 20 0xFF 0xFE tag = none) :
    execMgtSessionOpen h tag s = .next (((kept s h).authFail 20).respond h 0x08) := by
  rw [execMgtSessionOpen_closed hmsg hclosed, hnone]

theorem execMgtSessionOpen_opens {n : List Byte} {t : Nat} (hclosed : (s.session 20).opened = false)
    (hsome : s.nonceFor 20 0xFF 0xFE tag = some n) (honly : (s.session 20).nonces = [(n, t)]) :
    execMgtSessionOpen h tag s = .next (
      let s1 := (kept s h).setSession 20 { s.session 20 with opened := true, nonces := [], used := n, loads := 0 }
      ({ s1 with mgt := { s1.mgt with opener := h.src } }).respond h 0) := by
  have hused : ((s.session 20).nonces.filter fun m => m.1 != n) = [] := by simp [honly]
  rw [execMgtSessionOpen_closed hmsg hclosed, hsome, ← hused]
  rfl

end

section
variable (hsession : s.mgtSession = true)
include hsession

theorem execRegRead_value {off n v : Nat} (hmsg : Msg s h 0x10)
    (hvalue : ((kept s h).regRead 20 (off % 2 ^ 25) n).1 = .inl v) : execRegRead h off n s =
      .next (((kept s h).regRead 20 (off % 2 ^ 25) n).2.respond h 0 (leBytes n v)) := by
  refine (mgtRow_session hsession hmsg).trans (congrArg _ ?_)
  simp only [hvalue]

theorem execPlanDeliver_last {n : Nat} {pl : Plan} (hmsg : Msg s h 0x30) : execPlanDeliver h 0 n n true pl s =
    .next (let m1 := { kept s h with mgt := { (kept s h).mgt with plan := none } }
      if m1.planStatus pl ≠ 0 then m1.respond h (m1.planStatus pl) else (m1.putPlan (some pl)).respond h 0) := by
  refine (mgtRow_session hsession hmsg).trans (congrArg _ ?_)
  simp

theorem execPlanWithdraw_held {pl : Plan} (hplan : s.plan = some pl) (hmsg : Msg s h 0x31) :
    execPlanWithdraw h pl.planSeq s = .next (((kept s h).putPlan none).respond h 0) := by
  refine (mgtRow_session hsession hmsg).trans (congrArg _ ?_)
  have hkept : (kept s h).plan = some pl := hplan
  simp only [hkept, if_true]

theorem execResetReq_package (hmsg : Msg s h 0x40) (hmay : s.tierBarred = false) (hfree : s.conflict 7 0 = none) :
    execResetReq h 1 s = .next (((kept s h).startPkg 9 0 (3, 0)).respond h 0) := by
  refine (mgtRow_session hsession hmsg).trans (congrArg _ ?_)
  have hmay' : (kept s h).tierBarred = false := hmay
  have hfree' : (kept s h).conflict 7 0 = none := hfree
  simp [hmay', State.askTier, hfree', holderOf]

end

theorem execStatusGet_status (hmsg : Msg s h 0x04) :
    ∃ body, execStatusGet h s = .next ((kept s h).respond h 0 body) ∧ body.length = 20 :=
  ⟨_, mgtRow_open hmsg, by simp [State.length_word4]⟩

theorem execPowerReportGet_report (hmsg : Msg s h 0x21) : ∃ body, execPowerReportGet h s =
    .next (((kept s h).fset F.CALENDER_PEAK_peak_w 0).respond h 0 body) ∧ body.length = 13 :=
  ⟨_, mgtRow_open hmsg, by simp [State.length_word4]⟩

theorem execLiveness_heard (hmsg : Msg s h 0x05) : execLiveness h false false s =
    .next (({ kept s h with ctl := { (kept s h).ctl with live := 0 } }).checkPaths) :=
  congrArg Host.Outcome.next ((State.receive_msg hmsg).trans (if_neg (by simp)))

end

/-- Settles O46: a message accepted has its row's effect on the state that keeps its seq. -/
theorem duntusRows : Obligations.DuntusRows := by
  intro s h m
  refine ⟨fun _ hmsg => mgtRow_open hmsg, fun tag hmsg => ⟨execMgtSessionOpen_busy hmsg, fun hclosed =>
    ⟨fun hbarred => execMgtSessionOpen_fails hmsg hclosed (State.nonceFor_barred hbarred), fun key hfree hkey =>
      ⟨fun hnone => execMgtSessionOpen_fails hmsg hclosed (State.nonceFor_none hkey hfree hnone), fun n t honly hfresh htag =>
        execMgtSessionOpen_opens hmsg hclosed (State.nonceFor_only hkey hfree honly hfresh htag) honly⟩⟩⟩,
    execStatusGet_status, execLiveness_heard, fun hsession => ?session, execPowerReportGet_report, fun hmsg => ?poweroff⟩
  case session =>
    refine ⟨mgtRow_session hsession, fun _ _ _ => execRegRead_value hsession, fun _ _ _ => mgtRow_session hsession,
      fun _ => mgtRow_session hsession, fun _ _ _ _ => mgtRow_session hsession, fun pl n hmsg => ⟨fun hok => ?_, fun hbad => ?_⟩,
      fun _ => execPlanWithdraw_held hsession, execResetReq_package hsession, mgtRow_session hsession, fun w n hmsg hn => ?_⟩
    · exact (execPlanDeliver_last hsession hmsg).trans (congrArg _ (if_neg (not_not_intro hok)))
    · exact (execPlanDeliver_last hsession hmsg).trans (congrArg _ (if_pos hbad))
    · exact (mgtRow_session hsession hmsg).trans (congrArg _ (if_neg (Nat.not_lt.mpr hn)))
  case poweroff =>
    exact ⟨fun hpending => (mgtRow_open hmsg).trans (congrArg _ (if_pos hpending)),
      fun hfirst => (mgtRow_open hmsg).trans (congrArg _ (if_neg (Bool.eq_false_iff.mp hfirst)))⟩

end Sys2Proof.Machine

namespace Sys2Proof.Machine

/-! MCTP control messages and I3C common command codes (R442). -/

theorem State.duntusEvent_shows (s : State) (code : Nat) (body : List Byte) : Shows s (s.duntusEvent code body) := by
  unfold State.duntusEvent
  exact Shows.ite (State.duntus_shows ..) (.refl s)

section
variable {s : State} (hpower : s.bring.powered = true)
include hpower

/-- A row of the management port acts where the port has power. -/
theorem guardUnit_powered (f : State → State) : guardUnit true (s.when s.bring.powered f) = .next (f s) :=
  congrArg Host.Outcome.next (if_pos hpower)

theorem portRow_answers (code : Nat) (body : List Byte) : portRow code body s = .next (s.emit (.mctp code body)) :=
  guardUnit_powered hpower _

theorem execSetEndpointId_assigned {eid src : Nat} (hlow : 0 < eid) (hhigh : eid < 0xFF) : execSetEndpointId eid src s =
    .next ((({ s with mgt := { s.mgt with assigner := src, rxSeq := s.mgt.rxSeq.set (fun _ => none) src none } }).fset
      F.MGT_I3C_eid eid).emit (.mctp 0x01 [0, 0, BitVec.ofNat 8 eid, 0])) := by
  have hvalid : ¬ (eid = 0 ∨ 0xFF ≤ eid) := by omega
  simp only [execSetEndpointId, guardUnit, hpower, Bool.not_true, Bool.false_eq_true, if_false, if_true, if_neg hvalid]

theorem execEntdaa_assigns (a : Nat) : execEntdaa a s = .next (if s.flag F.MGT_I3C_addr_valid then s
    else (s.fset F.MGT_I3C_addr_valid 1).fset F.MGT_I3C_dyn_addr a) := by
  simp only [execEntdaa, guardUnit, State.when, hpower, Bool.true_and, if_true]
  cases s.flag F.MGT_I3C_addr_valid <;> rfl

theorem execGetVendorMessageSupport_answers :
    ∃ b, execGetVendorMessageSupport s = .next (s.emit (.mctp 0x06 b)) ∧ b.length = 9 :=
  ⟨_, portRow_answers hpower .., by simp⟩

theorem execGetstatus_answers : ∃ b,
    execGetstatus s = .next { s with freeCtr := s.freeCtr + 1, out := s.out ++ [.mctp 0x90 b] } ∧ b.length = 2 :=
  ⟨_, (if_pos hpower).trans (portRow_answers (s := s.free.2) hpower ..), leBytes_length ..⟩

end

/-! The grace period and the slack report (R391, R450). -/

section
variable {s : State}

theorem execPoweroffGraceEnd_expired (hgrace : s.mgt.grace = true) (hready : s.flag F.MGT_OFF_ready = false)
    (hleft : s.fget F.MGT_OFF_remaining_ms = 0) (hruns : s.controlRuns = true) :
    execPoweroffGraceEnd s = .next (s.sendPoweroffReady true) := by
  simp [execPoweroffGraceEnd, guardUnit, hgrace, hready, hleft, hruns]

theorem execPoweroffGraceEnd_none (hgrace : s.mgt.grace = false) : execPoweroffGraceEnd s = .next s := by
  simp [execPoweroffGraceEnd, guardUnit, hgrace]

theorem execSlackReport_early (hearly : s.cal.slackAge < s.fget F.CALENDER_SLACK_CFG_interval) :
    execSlackReport s = .next s := by
  simp [execSlackReport, guardUnit, hearly]

/-- The calender with the report's interval begun anew. -/
def Cal.slackAnew (k : Cal) : Cal :=
  { k with slackMin := Cal.reset.slackMin, slackSum := 0, slackN := 0, slackIdle := 0, slackOver := 0, slackAge := 0 }

theorem Shows.withCal {t : State} (h : Shows s t) (c : Cal) : Shows { s with cal := c } { t with cal := c } := by
  obtain ⟨_, _, _, _, rfl⟩ := h
  exact ⟨_, _, _, _, rfl⟩

theorem execSlackReport_due (hinterval : 0 < s.fget F.CALENDER_SLACK_CFG_interval)
    (hdue : s.fget F.CALENDER_SLACK_CFG_interval ≤ s.cal.slackAge) :
    ∃ c u, execSlackReport s = .next u ∧ Shows { s with cal := s.cal.slackAnew, freeCtr := c } u := by
  have hgoes : ¬ (s.fget F.CALENDER_SLACK_CFG_interval = 0 ∨ s.cal.slackAge < s.fget F.CALENDER_SLACK_CFG_interval) := by omega
  obtain ⟨c, hfree⟩ : ∃ c, (if s.cal.slackN = 0 then s.free.2 else s) = { s with freeCtr := c } := by
    split
    · exact ⟨s.freeCtr + 1, rfl⟩
    · exact ⟨s.freeCtr, rfl⟩
  simp only [execSlackReport, guardUnit, if_true, if_neg hgoes, hfree, State.fset_cal]
  refine ⟨c, _, rfl, Shows.trans (Shows.withCal (s := { s with freeCtr := c }) ?_ s.cal.slackAnew) (State.duntusEvent_shows ..)⟩
  exact (((State.fset_shows ..).trans (State.fset_shows ..)).trans (State.fset_shows ..)).trans (State.fset_shows ..)

end

/-- Settles O47: each answer is that of a port with power, and a slack report that is due shows and begins its interval anew. -/
theorem managementPortRows : Obligations.ManagementPortRows := by
  intro s hpower
  refine ⟨fun _ _ => execSetEndpointId_assigned hpower, portRow_answers hpower .., portRow_answers hpower ..,
    portRow_answers hpower .., execGetVendorMessageSupport_answers hpower,
    fun _ => ⟨guardUnit_powered hpower _, guardUnit_powered hpower _⟩, guardUnit_powered hpower _, execEntdaa_assigns hpower,
    fun _ => ⟨guardUnit_powered hpower _, guardUnit_powered hpower _⟩, portRow_answers hpower .., portRow_answers hpower ..,
    portRow_answers hpower .., execGetstatus_answers hpower, portRow_answers hpower .., portRow_answers hpower ..,
    execPoweroffGraceEnd_expired, execPoweroffGraceEnd_none, execSlackReport_early, fun hinterval hdue => ?report⟩
  case report =>
    obtain ⟨c, u, hexec, _, _, _, _, rfl⟩ := execSlackReport_due hinterval hdue
    exact ⟨_, hexec, rfl, rfl, rfl, rfl⟩

end Sys2Proof.Machine

namespace Sys2Proof.Machine

/-! State copies (R433, R434). -/

theorem State.beatCount_fset_mgt (s : State) {g : Fld} (v : Nat) (hpage : g.page = Page.MGT) (hoff : g.off < 4096) :
    (s.fset g v).beatCount = s.beatCount :=
  s.fget_fset_other v (by rw [hpage]; decide) hoff (by decide) (by decide)
    (by rw [hpage]; exact fun h => absurd (Prod.mk.inj (Prod.mk.inj h).2).1 (by decide))

theorem unitF_page (u : Nat) : (unitF u).page = Page.MGT ∧ (unitF u).off = 0x80 := by
  unfold unitF
  split <;> exact ⟨rfl, rfl⟩

theorem State.beatCount_setUnit (s : State) (u st : Nat) : (s.setUnit u st).beatCount = s.beatCount := by
  obtain ⟨hpage, hoff⟩ := unitF_page u
  exact (State.beatCount_fset_mgt _ _ rfl (by decide)).trans (State.beatCount_fset_mgt _ _ hpage (by rw [hoff]; decide))

section
variable {s : State}

theorem execStateCopy_none {b : Word} {ok : Bool} (hnone : s.unit s.standby ≠ cuStandby) : execStateCopy b ok s = .next s :=
  congrArg Host.Outcome.next (if_pos hnone)

theorem execStateCopy_standby (b : Word) (ok : Bool) (hstandby : s.unit s.standby = cuStandby) : execStateCopy b ok s =
    .next (if ok = true ∧ b.toNat + 1 = s.beatCount then
        ({ s with ctl := { s.ctl with copied := b.toNat } }).fset F.MGT_CU_couch_ok 1
      else s.copyFails) :=
  congrArg Host.Outcome.next (if_neg (not_not_intro hstandby))

theorem execSyncComplete_idle (hsync : s.unit s.standby = cuSync) (hquiet : s.ctl.quiet = []) (hhalted : s.ctl.halted = [])
    (hphase : ((s.setUnit s.standby cuStandby).fset F.MGT_CU_couch_ok 1).nvm.phase = .none) : execSyncComplete s =
    .next (let s1 := (s.setUnit s.standby cuStandby).fset F.MGT_CU_couch_ok 1
      { s1 with ctl := { s1.ctl with full := true, copied := s1.beatCount - 1, stand := 0 } }) := by
  have hbeat : ((s.setUnit s.standby cuStandby).fset F.MGT_CU_couch_ok 1).beatCount = s.beatCount :=
    (State.beatCount_fset_mgt _ _ rfl (by decide)).trans (State.beatCount_setUnit ..)
  have hgoes : ¬ (s.unit s.standby ≠ cuSync ∨ s.ctl.quiet.contains s.standby = true ∨
      s.ctl.halted.contains s.standby = true) := by simp [hsync, hquiet, hhalted]
  simp only [execSyncComplete, guardUnit, if_true, if_neg hgoes, hphase, hbeat]

end

/-! Heartbeats, islands and boots (R435, R440, R466, R486). -/

theorem State.setAges_frame (s : State) (u ondie pin : Nat) : (s.setAges u ondie pin).ctl.isle = s.ctl.isle ∧
    (s.setAges u ondie pin).ctl.full = s.ctl.full ∧ (s.setAges u ondie pin).hbm = s.hbm ∧
      (s.setAges u ondie pin).ctxs = s.ctxs := by
  unfold State.setAges
  dsimp only
  split <;> exact ⟨rfl, rfl, rfl, rfl⟩

theorem State.setUnit_shows (s : State) (u st : Nat) : Shows s (s.setUnit u st) :=
  (State.fset_shows ..).trans (State.fset_shows ..)

section
variable {s : State} {u : Nat}

theorem State.bootUp_factory {b : BootResult} (hbad : b.factoryOk = false) : s.bootUp u b = s.failUp 1 0x08 :=
  if_pos (by simp [hbad])

theorem State.bootUp_puf {b : BootResult} (hok : b.factoryOk = true) (hbad : b.pufOk = false) :
    s.bootUp u b = s.failUp 2 0x08 := by
  simp only [State.bootUp, hok, hbad, Bool.not_true, Bool.not_false, Bool.false_eq_true, if_false, if_true]

variable (hu : u < 2)
include hu

theorem guardUnit_unit (t : State) : guardUnit (unitOk u) t = .next t := if_pos (decide_eq_true hu)

theorem execPinPathSilent_known (hknown : s.pinUnknown = false) : execPinPathSilent u s =
    .next ((s.setAges u (s.ondieAge u) (max 32 (s.pinAge u))).checkPaths) :=
  (guardUnit_unit hu _).trans (congrArg _ (if_neg (Bool.eq_false_iff.mp hknown)))

theorem execIslandReset_other (hother : s.ctl.isle ≠ some (u, 0)) : execIslandReset u s = .next s :=
  (guardUnit_unit hu _).trans (congrArg _ (if_pos (.inl hother)))

/-- The island of a unit that is not the standby is reset: the unit boots, and the copy held is kept (R440). -/
theorem execIslandReset_active (hisle : s.ctl.isle = some (u, 0)) (hworks : s.unit u ≠ cuFailed) (hactive : u ≠ s.standby) :
    execIslandReset u s = .next ((({ s with ctl := { s.ctl with
      isle := none, quiet := s.ctl.quiet.filter fun v => v != u } } : State).setUnit u cuBoot).setAges u 0 0) := by
  have hgoes : ¬ (s.ctl.isle ≠ some (u, 0) ∨ s.unit u = cuFailed) := by simp [hisle, hworks]
  have hkept : (u == s.standby) = false := beq_eq_false_iff_ne.mpr hactive
  refine (guardUnit_unit hu _).trans (congrArg _ ?_)
  simp only [if_neg hgoes, hkept, State.when, Bool.false_eq_true, if_false]

theorem execUnitBootDone_first {b : BootResult} (hfirst : s.inFirstBoot u = true) (hworks : s.unit u ≠ cuFailed) :
    execUnitBootDone u b s = .next (s.bootUp u b) :=
  (guardUnit_unit hu _).trans (congrArg _ (if_pos ⟨hfirst, hworks⟩))

theorem execUnitBootDone_again {b : BootResult} (hlater : s.inFirstBoot u = false) (hboot : s.unit u = cuBoot) :
    execUnitBootDone u b s = .next (let s1 := (s.loadRegion u (s.unitRegion u) b).setUnit u cuSync
      ({ s1 with ctl := { s1.ctl with full := false } }).setAges u 0 0) := by
  have hnotUpdating : s.unit u ≠ cuUpdating := by rw [hboot]; decide
  simp only [execUnitBootDone, guardUnit_unit hu, hlater, hboot, ne_eq, Bool.false_eq_true, false_and, if_false,
    not_true_eq_false, show cuBoot ≠ cuUpdating by decide]

theorem execBootTimeout_boot (hlater : s.inFirstBoot u = false) (hboot : s.unit u = cuBoot) :
    execBootTimeout u s = .next (s.unitFails u cuBoot) := by
  simp only [execBootTimeout, guardUnit_unit hu, hlater, hboot, Bool.false_eq_true, false_and, if_false, if_true,
    show cuBoot ≠ cuUpdating by decide]

end

/-! The end of an operation and of an update (R471, R472, R476). -/

section
variable {s : State}

theorem execNvmOpDone_none (fail : Bool) (hnone : s.nvm.op = none) : execNvmOpDone fail s = .next s := by
  simp only [execNvmOpDone, guardUnit, hnone, if_true]

/-- An operation that writes nothing to the device ends with its result, whatever the device reports. -/
theorem execNvmOpDone_unwritten {op : NvmOp} (fail : Bool) (hop : s.nvm.op = some op) (herase : op.code ≠ 1)
    (hprogram : op.code ≠ 2) (hother : op.code < 10) : execNvmOpDone fail s =
    .next (let s1 := ({ s with nvm := { s.nvm with op := none } }).fset F.NVM_STATE_busy 0
      (s1.endOp op).2.nvmResult (s1.endOp op).1) := by
  have hsound : (fail && (op.code == 1 || op.code == 2 || decide (10 ≤ op.code ∧ op.code ≤ 12))) = false := by
    simp only [Bool.and_eq_false_imp, Bool.or_eq_false_iff, beq_eq_false_iff_ne, decide_eq_false_iff_not]
    exact fun _ => ⟨⟨herase, hprogram⟩, fun h => by omega⟩
  simp only [execNvmOpDone, guardUnit, hop, hsound, if_true, Bool.false_eq_true, if_false]

theorem execUpdateSecondUnit_due (hphase : s.nvm.phase = .second) (hwait : s.nvm.wait = 0)
    (hidle : s.unit s.standby ≠ cuUpdating) (hold : s.unitRegion s.standby ≠ s.unitRegion s.active) :
    execUpdateSecondUnit s =
      .next ((s.setUnitRegion s.standby (s.unitRegion s.active)).setUnit s.standby cuUpdating) := by
  refine congrArg Host.Outcome.next (if_neg ?_)
  simp [hphase, hwait, hidle, hold]

end

/-- Settles O48: each row is one branch, judged by the unit's state, the boot in progress, or the update's phase. -/
theorem controlUnitRows : Obligations.ControlUnitRows := by
  intro s u hu
  refine ⟨fun b hstandby => ⟨fun hbeat => ?copy, ?bad⟩, fun _ _ => execStateCopy_none, rfl,
    fun hsync hquiet hhalted => execSyncComplete_idle hsync hquiet hhalted, execPinPathSilent_known hu, execIslandReset_other hu,
    fun hisle hworks hactive => ⟨_, execIslandReset_active hu hisle hworks hactive, ?island⟩, fun b hfirst hworks => ?first,
    fun b => execUnitBootDone_again hu, execBootTimeout_boot hu, fun hnone f => execNvmOpDone_none f hnone,
    fun op hop herase hprogram hother f => execNvmOpDone_unwritten f hop herase hprogram hother, execUpdateSecondUnit_due,
    fun hphase => congrArg Host.Outcome.next (if_pos hphase), fun hphase => congrArg Host.Outcome.next (if_neg hphase)⟩
  case copy => exact (execStateCopy_standby b true hstandby).trans (congrArg _ (if_pos ⟨rfl, hbeat⟩))
  case bad => exact (execStateCopy_standby b false hstandby).trans (congrArg _ (if_neg (fun h => Bool.false_ne_true h.1)))
  case first =>
    have hexec := execUnitBootDone_first (b := b) hu hfirst hworks
    exact ⟨fun hbad => hexec.trans (congrArg _ (State.bootUp_factory hbad)),
      fun hok hbad => hexec.trans (congrArg _ (State.bootUp_puf hok hbad))⟩
  case island =>
    obtain ⟨hisle', hfull, hhbm, hctxs⟩ := State.setAges_frame (({ s with ctl := { s.ctl with
      isle := none, quiet := s.ctl.quiet.filter fun v => v != u } } : State).setUnit u cuBoot) u 0 0
    obtain ⟨_, _, _, _, hunit⟩ := ({ s with ctl := { s.ctl with
      isle := none, quiet := s.ctl.quiet.filter fun v => v != u } } : State).setUnit_shows u cuBoot
    rw [hunit] at hisle' hfull hhbm hctxs
    rw [hunit]
    exact ⟨hisle', hfull, hhbm, hctxs⟩

end Sys2Proof.Machine

namespace Sys2Proof.Machine

open Sys2Proof.Claims

/-! A write in a view by what the access finds (R339, R345-R349). -/

theorem toNat_zeroExtend_half (d : BitVec 32) : (d.zeroExtend 64).toNat = d.toNat :=
  (BitVec.toNat_setWidth 64 d).trans (Nat.mod_eq_of_lt (d.isLt.trans (by decide)))

section
variable {s : State} {view off bytes : Nat} {data : Word} (hok : s.viewOk view = true) (hup : s.viewUp view = true)
include hok hup

theorem writeRow_eq {cond : Bool} (hc : cond = true) :
    writeRow view off bytes data cond s = .next (s.regWrite view off bytes data.toNat).2 := by
  simp [writeRow, guardUnit, hok, hup, hc]

theorem execRegisterWrite_served (hs : s.access view off bytes true = .served) :
    execRegisterWrite view off bytes data s = .next (s.writeAt view off bytes data.toNat) := by
  rw [execRegisterWrite, writeRow_eq hok hup rfl, State.regWrite, hs]

theorem execRegisterWrite_quiet (hq : s.access view off bytes true = .quiet) :
    execRegisterWrite view off bytes data s = .next s := by
  rw [execRegisterWrite, writeRow_eq hok hup rfl, State.regWrite, hq]

theorem execRegisterWrite_refused {e : Nat} (hr : s.access view off bytes true = .refused e) :
    execRegisterWrite view off bytes data s =
      .next ((s.setHeld view (off / 4096) none).refuse view off bytes true e) := by
  rw [execRegisterWrite, writeRow_eq hok hup rfl, State.regWrite, hr]

theorem execSplitLowWrite_served {d : BitVec 32} (hs : s.access view off 4 true = .served)
    (hw : wide (off / 4096) (off % 4096) = true) : execSplitLowWrite view off d s =
      .next ((s.setHeld view (off / 4096) none).setHeld view (off / 4096)
        (some ⟨view, off / 4096, off % 4096, d.toNat⟩)) := by
  rw [execSplitLowWrite, writeRow_eq hok hup hw, State.regWrite, hs, toNat_zeroExtend_half]
  simp [State.writeAt, hw, Nat.mod_eq_of_lt d.isLt]

theorem execSplitHighWrite_served {d : BitVec 32} {h : Half} (hs : s.access view off 4 true = .served)
    (ho : off % 4096 % 8 = 4) (hw : wide (off / 4096) (off % 4096 - 4) = true) (hn : wide (off / 4096) (off % 4096) = false)
    (hheld : s.heldHalf view (off / 4096) = some h) (hoff : h.off = off % 4096 - 4) : execSplitHighWrite view off d s =
      .next ((s.setHeld view (off / 4096) none).writeReg view off 4 (off / 4096) (off % 4096 - 4) mask64
        (h.val + d.toNat * 2 ^ 32)) := by
  have ho' : off % 8 = 4 := by omega
  rw [execSplitHighWrite, writeRow_eq hok hup (by simp [ho', hw]), State.regWrite, hs, toNat_zeroExtend_half]
  simp [State.writeAt, hw, hn, ho, hheld, hoff, Nat.mod_eq_of_lt d.isLt]

end

/-- Settles O41: each row is one write in its view, by what the access finds there and by where 64-bit registers start. -/
theorem registerWriteRows : Obligations.RegisterWriteRows := by
  intro s view off bytes data hok hup page o
  exact ⟨execRegisterWrite_served hok hup, execRegisterWrite_quiet hok hup, fun e => execRegisterWrite_refused hok hup,
    fun d => execSplitLowWrite_served hok hup, fun d h => execSplitHighWrite_served hok hup⟩

/-! Registers of a page's header (R342): no table lists them, and no counter lies there. -/

theorem regTable_above_header : (regTable.all fun r => decide (0x80 ≤ r.off)) = true := by decide

theorem counterPages_above_header : (counterPages.all fun c => decide (0x80 ≤ c.2.2.2)) = true := by decide

theorem specAt_header {page reg : Nat} (hreg : reg < 0x80) : specAt page reg = none := by
  refine List.find?_eq_none.mpr fun r hr hmatch => ?_
  have habove : 0x80 ≤ r.off := of_decide_eq_true (List.all_eq_true.mp regTable_above_header r hr)
  have hoff : r.off = reg := beq_iff_eq.mp (Bool.and_eq_true_iff.mp hmatch).2
  omega

theorem counterAt_header {page reg : Nat} (hreg : reg < 0x80) : counterAt page reg = none := by
  refine if_neg fun h => ?_
  unfold countersOf at h
  split at h
  · rename_i c hfind
    have habove : 0x80 ≤ c.2.2.2 := of_decide_eq_true
      (List.all_eq_true.mp counterPages_above_header c (List.mem_of_find?_eq_some hfind))
    omega
  · omega

/-- A header's 64-bit registers start at 0x08, 0x28 and 0x30. -/
theorem wide_header {page reg : Nat} (hreg : reg < 0x80) (h08 : reg ≠ 0x08) (h28 : reg ≠ 0x28) (h30 : reg ≠ 0x30) :
    wide page reg = false := by
  simp [wide, counterAt_header hreg, specAt_header hreg, h08, h28, h30]

section
variable {s : State} {view page reg : Nat} {data : Word}

theorem State.writeAt_header {v : Nat} (hmay : s.viewMayWrite view page reg = true) (hreg : reg < 0x80)
    (hnarrow : wide page reg = false) (hprev : wide page (reg - 4) = false) : s.writeAt view (page * 4096 + reg) 4 v =
      (s.setHeld view page none).writeHeader view page reg (v % 2 ^ 32) := by
  have hreg' : reg < 4096 := by omega
  simp [State.writeAt, State.writeReg, offset_page hreg', offset_reg hreg', hnarrow, hprev, hmay, hreg]

theorem execCtrlWrite_header (h : Writes s view 4 page reg) (hreg : reg = 0x10 ∨ reg = 0x1C) :
    execCtrlWrite view (page * 4096 + reg) 4 data s =
      .next ((s.setHeld view page none).writeHeader view page reg (data.toNat % 2 ^ 32)) := by
  have hhead : reg < 0x80 := by omega
  have ⟨_, _, _, hmay, hlt⟩ := h
  have hcover : (covers (page * 4096 + reg) 4 ((page * 4096 + reg) / 4096) 0x10 ||
      covers (page * 4096 + reg) 4 ((page * 4096 + reg) / 4096) 0x1C) = true := by
    rw [offset_page hlt, Bool.or_eq_true_iff]
    rcases hreg with rfl | rfl
    · exact .inl (covers_self hlt (by decide))
    · exact .inr (covers_self hlt (by decide))
  rw [execCtrlWrite, writeRow_served h hcover, State.writeAt_header hmay hhead]
  · exact wide_header hhead (by omega) (by omega) (by omega)
  · exact wide_header (by omega) (by omega) (by omega) (by omega)

end

/-! Registers of RSTCTL (R355, R409, R411, R412, R422). -/

section
variable {s : State} {view : Nat} {data : Word}

theorem State.writeBody_rstctl (s : State) (view off bytes reg mask v : Nat) :
    s.writeBody view off bytes Page.RSTCTL reg mask v = s.writeRstctl view off bytes reg mask v := if_pos rfl

theorem writeRow_rstctl {reg : Nat} {cond : Bool} (h : Writes s view 4 Page.RSTCTL reg) (hc : cond = true)
    (hbody : bodyReg Page.RSTCTL reg 4 = true) : writeRow view (Page.RSTCTL * 4096 + reg) 4 data cond s =
      .next ((s.setHeld view Page.RSTCTL none).writeRstctl view (Page.RSTCTL * 4096 + reg) 4 reg mask32
        (data.toNat % 2 ^ 32)) := by
  rw [writeRow_narrow h hc hbody, State.writeBody_rstctl]

theorem execFlogIdxWrite_served (h : Writes s view 4 Page.RSTCTL 0x808) :
    execFlogIdxWrite view (Page.RSTCTL * 4096 + 0x808) 4 data s =
      .next ((s.setHeld view Page.RSTCTL none).writeFlogIdx view (data.toNat % 2 ^ 32)) :=
  writeRow_rstctl h (by decide) (by decide)

theorem execBrokeIdxWrite_served (h : Writes s view 4 Page.RSTCTL 0x94) :
    execBrokeIdxWrite view (Page.RSTCTL * 4096 + 0x94) 4 data s =
      .next ((s.setHeld view Page.RSTCTL none).writeBrokeIdx view (data.toNat % 2 ^ 32)) :=
  writeRow_rstctl h (by decide) (by decide)

theorem execDumpValidClear_served (h : Writes s view 4 Page.RSTCTL 0xA8) (hclear : (data.toNat % 2 ^ 32).testBit 31 = true) :
    execDumpValidClear view (Page.RSTCTL * 4096 + 0xA8) 4 data s =
      .next ((s.setHeld view Page.RSTCTL none).writeDumpValid view mask32 (data.toNat % 2 ^ 32)) := by
  refine writeRow_rstctl h ?_ (by decide)
  rw [covers_self (by decide) (by decide), dataFor_self (by decide), hclear]
  rfl

section
variable (h : Writes s view 4 Page.RSTCTL 0x84)
include h

theorem execCdReset_served (hask : data.toNat % 2 ^ 32 % 4 = 1) : execCdReset view (Page.RSTCTL * 4096 + 0x84) 4 data s =
    .next ((s.setHeld view Page.RSTCTL none).writeReset view (Page.RSTCTL * 4096 + 0x84) 4 (data.toNat % 2 ^ 32)) := by
  refine writeRow_rstctl h ?_ (by decide)
  rw [covers_self (by decide) (by decide), dataFor_self (by decide), Bool.true_and, beq_iff_eq, bits, Nat.pow_zero, Nat.div_one]
  exact hask

theorem execPkgRecovery_served (hask : (data.toNat % 2 ^ 32).testBit 1 = true) :
    execPkgRecovery view (Page.RSTCTL * 4096 + 0x84) 4 data s =
      .next ((s.setHeld view Page.RSTCTL none).writeReset view (Page.RSTCTL * 4096 + 0x84) 4 (data.toNat % 2 ^ 32)) := by
  refine writeRow_rstctl h ?_ (by decide)
  rw [covers_self (by decide) (by decide), dataFor_self (by decide), hask]
  rfl

theorem execDumpRequest_served (hask : (data.toNat % 2 ^ 32).testBit 2 = true) :
    execDumpRequest view (Page.RSTCTL * 4096 + 0x84) 4 data s =
      .next ((s.setHeld view Page.RSTCTL none).writeReset view (Page.RSTCTL * 4096 + 0x84) 4 (data.toNat % 2 ^ 32)) := by
  refine writeRow_rstctl h ?_ (by decide)
  rw [covers_self (by decide) (by decide), dataFor_self (by decide), hask]
  rfl

end

section
variable (h : Writes s view 4 Page.RSTCTL 0x8C) (htile : data.toNat % 2 ^ 32 % 2 ^ 14 < 12288)
include h htile

theorem writeRow_tfence {op : Nat} (hop : bits (data.toNat % 2 ^ 32) 16 2 = op) :
    writeRow view (Page.RSTCTL * 4096 + 0x8C) 4 data (covers (Page.RSTCTL * 4096 + 0x8C) 4 Page.RSTCTL 0x8C &&
        bits (dataFor (Page.RSTCTL * 4096 + 0x8C) 0x8C data) 16 2 == op) s =
      .next (let s1 := s.setHeld view Page.RSTCTL none
        if op = 1 then s1.askFence view (Page.RSTCTL * 4096 + 0x8C) 4 (data.toNat % 2 ^ 32 % 2 ^ 14)
        else if op = 2 then s1.askReturn view (Page.RSTCTL * 4096 + 0x8C) 4 (data.toNat % 2 ^ 32 % 2 ^ 14)
        else s1.regFault view (Page.RSTCTL * 4096 + 0x8C) 4 true 0x0B) := by
  refine (writeRow_rstctl h ?_ (by decide)).trans (congrArg _ ?_)
  · rw [covers_self (by decide) (by decide), dataFor_self (by decide), hop]
    simp
  · refine (if_neg (Nat.not_le.mpr htile)).trans ?_
    rw [hop]

theorem execTileFenceRequest_served (hop : bits (data.toNat % 2 ^ 32) 16 2 = 1) :
    execTileFenceRequest view (Page.RSTCTL * 4096 + 0x8C) 4 data s = .next ((s.setHeld view Page.RSTCTL none).askFence view
      (Page.RSTCTL * 4096 + 0x8C) 4 (data.toNat % 2 ^ 32 % 2 ^ 14)) := writeRow_tfence h htile hop

theorem execTileReturn_served (hop : bits (data.toNat % 2 ^ 32) 16 2 = 2) :
    execTileReturn view (Page.RSTCTL * 4096 + 0x8C) 4 data s = .next ((s.setHeld view Page.RSTCTL none).askReturn view
      (Page.RSTCTL * 4096 + 0x8C) 4 (data.toNat % 2 ^ 32 % 2 ^ 14)) := writeRow_tfence h htile hop

end

/-! Registers of the clocks and of the calender (R363, R372, R390). -/

theorem execClkctlSrcWrite_served (h : Writes s view 4 Page.CLKCTL 0x84) :
    execClkctlSrcWrite view (Page.CLKCTL * 4096 + 0x84) 4 data s =
      .next ((s.setHeld view Page.CLKCTL none).writeSrc view 4 (data.toNat % 2 ^ 32)) := by
  rw [execClkctlSrcWrite, writeRow_narrow h (by decide) (by decide)]
  rfl

theorem execClkctlEnWrite_served (h : Writes s view 8 Page.CLKCTL 0x90) :
    execClkctlEnWrite view (Page.CLKCTL * 4096 + 0x90) 8 data s =
      .next ((s.setHeld view Page.CLKCTL none).writeEnables view (Page.CLKCTL * 4096 + 0x90) 8 mask64 data.toNat) := by
  rw [execClkctlEnWrite, writeRow_whole h (by decide) (by decide)]
  rfl

theorem bodyReg_dlim : ∀ d < 16, bodyReg Page.CALENDER (0x100 + 4 * d) 4 = true := by decide

theorem execCalenderDlimWrite_served {d : Nat} (hd : d < 16) (h : Writes s view 4 Page.CALENDER (0x100 + 4 * d)) :
    execCalenderDlimWrite view (Page.CALENDER * 4096 + (0x100 + 4 * d)) 4 data s =
      .next (let s1 := s.setHeld view Page.CALENDER none
        if s.mayLimit view d then s1.writePlain view Page.CALENDER (0x100 + 4 * d) mask32 (data.toNat % 2 ^ 32)
        else s1.regFault view (Page.CALENDER * 4096 + (0x100 + 4 * d)) 4 true 0x08) := by
  have hreg : 0x100 + 4 * d < 4096 := by omega
  have hdeckle : (0x100 + 4 * d - 0x100) / 4 = d := by omega
  have hfirst : 0x100 + 4 * d ≠ 0x84 := by omega
  have hlimits : 0x100 ≤ 0x100 + 4 * d ∧ 0x100 + 4 * d < 0x140 := by omega
  have hkept : (s.setHeld view Page.CALENDER none).mayLimit view d = s.mayLimit view d := rfl
  have hcond : ((Page.CALENDER * 4096 + (0x100 + 4 * d)) / 4096 == Page.CALENDER &&
      decide (0x100 ≤ (Page.CALENDER * 4096 + (0x100 + 4 * d)) % 4096 ∧
        (Page.CALENDER * 4096 + (0x100 + 4 * d)) % 4096 < 0x140)) = true := by
    rw [offset_page hreg, offset_reg hreg, decide_eq_true hlimits]
    rfl
  rw [execCalenderDlimWrite, writeRow_narrow h hcond (bodyReg_dlim d hd)]
  refine congrArg Host.Outcome.next ?_
  change State.writeCalender _ _ _ _ _ _ _ = _
  simp only [State.writeCalender, if_neg hfirst, hdeckle, hkept, hlimits, true_and]
  cases s.mayLimit view d <;> rfl

/-- A request of RSTCTL_RESET that asks for nothing does nothing. -/
theorem State.writeReset_none (t : State) (view off bytes w : Nat) : t.writeReset view off bytes (8 * w) = t :=
  if_pos (Nat.mul_mod_right 8 w)

end

/-- Settles O42: each row is one served write of its register, which reaches the register's own helper. -/
theorem controlRegisterRows : Obligations.ControlRegisterRows := by
  intro s view data v
  refine ⟨fun page _ => ⟨fun h => execCtrlWrite_header h (.inl rfl), fun h => execCtrlWrite_header h (.inr rfl)⟩,
    execFlogIdxWrite_served, execBrokeIdxWrite_served, execDumpValidClear_served,
    fun h => ⟨execCdReset_served h, execPkgRecovery_served h, execDumpRequest_served h⟩,
    fun h => ?fence, execClkctlSrcWrite_served,
    execClkctlEnWrite_served, fun d hd h hbarred => ?barred, fun d hd h hmay => ?limited,
    fun t w _ => t.writeReset_none view _ _ w⟩
  case fence =>
    intro s1 htile
    exact ⟨execTileFenceRequest_served h htile, execTileReturn_served h htile⟩
  case barred => exact (execCalenderDlimWrite_served hd h).trans (congrArg _ (if_neg (Bool.eq_false_iff.mp hbarred)))
  case limited => exact (execCalenderDlimWrite_served hd h).trans (congrArg _ (if_pos hmay))

end Sys2Proof.Machine

namespace Sys2Proof.Machine

/-! What a register read may change (R346, R349, R401, R428). -/

/-- `t` is `s` but for what Shows allows, the latches of split reads, the cycle reached in the beat, and the free values used. -/
def ReadOf (s t : State) : Prop := ∃ regs latches flog beat mgt out freeCtr,
  t = { s with regs := regs, latches := latches, flog := flog, beat := beat, mgt := mgt, out := out, freeCtr := freeCtr }

section
variable {s t u : State}

theorem ReadOf.refl (s : State) : ReadOf s s := ⟨_, _, _, _, _, _, _, rfl⟩

theorem ReadOf.trans (h : ReadOf s t) (k : ReadOf t u) : ReadOf s u := by
  obtain ⟨_, _, _, _, _, _, _, rfl⟩ := h
  obtain ⟨r, l, f, b, m, o, c, rfl⟩ := k
  exact ⟨r, l, f, b, m, o, c, rfl⟩

theorem Shows.readOf (h : Shows s t) : ReadOf s t := by
  obtain ⟨r, f, o, m, rfl⟩ := h
  exact ⟨r, _, f, _, m, o, _, rfl⟩

theorem ReadOf.when {c : Bool} {f : State → State} (hf : ReadOf s (f s)) : ReadOf s (s.when c f) := by
  unfold State.when
  split
  · exact hf
  · exact .refl s

end

section
variable (s : State) (view off bytes : Nat)

theorem State.setLatch_readOf (page : Nat) (h : Option Half) : ReadOf s (s.setLatch view page h) := ⟨_, _, _, _, _, _, _, rfl⟩

theorem State.readEffect_readOf (page off : Nat) : ReadOf s (s.readEffect view page off) := by
  unfold State.readEffect
  split
  · exact (State.fset_shows ..).readOf
  · split
    · exact (State.fset_shows ..).readOf
    · split
      · exact (State.fset_shows ..).readOf
      · split
        · exact ⟨_, _, _, _, _, _, _, rfl⟩
        · exact .refl s

theorem State.readAt_readOf (page off bytes : Nat) : ReadOf s (s.readAt view page off bytes).2 := by
  unfold State.readAt
  split
  · dsimp only
    exact (s.readEffect_readOf view page off).trans (.when (State.readEffect_readOf ..))
  · split
    · exact (s.readEffect_readOf ..).trans (State.setLatch_readOf ..)
    · split
      · split
        · split
          · exact s.setLatch_readOf ..
          · exact .refl s
        · exact .refl s
      · exact s.readEffect_readOf ..

theorem State.refuse_shows (write : Bool) (status : Nat) : Shows s (s.refuse view off bytes write status) := by
  unfold State.refuse
  split
  · exact .refl s
  · exact Shows.when (Shows.when (State.regFault_shows ..) (State.bump_shows ..)) (State.bump_shows ..)

theorem State.regRead_readOf : ReadOf s (s.regRead view off bytes).2 := by
  unfold State.regRead
  split
  · exact s.readAt_readOf ..
  · exact .refl s
  · exact (s.refuse_shows ..).readOf

theorem State.answerRead_readOf : ReadOf s (s.answerRead view off bytes) := by
  unfold State.answerRead
  dsimp only
  split <;> exact (s.regRead_readOf view off bytes).trans (State.emit_shows ..).readOf

end

section
variable {s t : State} {view off bytes : Nat}

theorem readRow_readOf {cond : Bool} (h : readRow view off bytes cond s = .next t) : ReadOf s t := by
  rw [guardUnit_next h]
  split
  · exact s.answerRead_readOf view off bytes
  · exact .refl s

theorem execCalenderPeakRead_readOf {same : Bool} (h : execCalenderPeakRead view off bytes same s = .next t) : ReadOf s t := by
  rw [guardUnit_next h]
  split
  · exact (s.answerRead_readOf view off bytes).trans (.when (State.fset_shows ..).readOf)
  · exact .refl s

/-- The parts of the state that a read leaves. -/
theorem ReadOf.frame (h : ReadOf s t) : t.hbm = s.hbm ∧ t.poison = s.poison ∧ t.spad = s.spad ∧ t.tiles = s.tiles ∧
    t.ctxs = s.ctxs ∧ t.deckles = s.deckles ∧ t.queues = s.queues ∧ t.sessions = s.sessions ∧ t.cmds = s.cmds ∧
      t.routers = s.routers ∧ t.ports = s.ports ∧ t.nvm = s.nvm ∧ t.locks = s.locks ∧ t.broke = s.broke := by
  obtain ⟨_, _, _, _, _, _, _, rfl⟩ := h
  exact ⟨rfl, rfl, rfl, rfl, rfl, rfl, rfl, rfl, rfl, rfl, rfl, rfl, rfl, rfl⟩

end

/-- Settles O58: each of these rows is one read in its view, or none. -/
theorem readFrame : Obligations.ReadFrame := by
  intro s t view off bytes
  simp only [List.forall_mem_cons]
  have hrow {cond : Bool} (h : readRow view off bytes cond s = .next t) := (readRow_readOf h).frame
  exact ⟨hrow, hrow, hrow, hrow, fun h => (execCalenderPeakRead_readOf h).frame, fun h => (execCalenderPeakRead_readOf h).frame,
    hrow, List.forall_mem_nil _⟩

end Sys2Proof.Machine

namespace Sys2Proof.Machine

/-! REFCLK and the roots (R357-R359, R364). -/

section
variable {s : State}

theorem execRefclkLoss_present (hpresent : s.rst.refLost = false) (hpower : s.bring.powered = true) : execRefclkLoss s =
    .next (let s1 := ((s.fset F.CLKCTL_ROOT_refclk_ok 0).fset F.CLKCTL_ROOT_a_ready 0).fset F.CLKCTL_ROOT_b_ready 0
      let s2 := (s1.bump C.CLKCTL_REFCLK_LOSS_CNT).raise E.CLKCTL_refclk_loss
      ((({ s2 with rst := { s2.rst with refLost := true } } : State).each (List.range 4) fun s d =>
        s.endDroop d).fenceAll.selfRefresh)) := by
  simp only [execRefclkLoss, guardUnit, hpower, hpresent, Bool.not_true, Bool.false_eq_true, if_false, if_true]

theorem execRefclkReturn_noRoot (ha : s.rootReady 0 = false) (hb : s.rootReady 1 = false) : execRefclkReturn s = .next s := by
  simp [execRefclkReturn, guardUnit, ha, hb]

theorem execRefclkReturn_ready (hlost : s.rst.refLost = true) (hroot : s.rootReady 0 = true ∨ s.rootReady 1 = true) :
    execRefclkReturn s =
      .next ((({ s with rst := { s.rst with refLost := false } } : State).fset F.CLKCTL_ROOT_refclk_ok 1).recoverAll
        fun t => t.startPkg 1 0x09 byModule) := by
  refine congrArg Host.Outcome.next (if_neg ?_)
  rcases hroot with h | h <;> simp [hlost, h]

section
variable {r : Nat} (hr : r < 2)
include hr

theorem guardUnit_root (t : State) : guardUnit (rootOk r) t = .next t := if_pos (decide_eq_true hr)

theorem execRootLock_used (hused : s.flag F.CLKCTL_ROOT_bypass = false) :
    execRootLock r s = .next (s.fset (lockF r) 1) :=
  (guardUnit_root hr _).trans (congrArg _ (if_neg (Bool.eq_false_iff.mp hused)))

theorem execRootReady_unlocked (hlock : s.flag (lockF r) = false) : execRootReady r s = .next s :=
  (guardUnit_root hr _).trans (congrArg _ (if_pos (by simp [hlock])))

theorem execRootLockLoss_unlocked (hlock : s.flag (lockF r) = false) : execRootLockLoss r s = .next s :=
  (guardUnit_root hr _).trans (congrArg _ (if_pos (by simp [hlock])))

/-- A root is ready where no domain waits for one. -/
theorem execRootReady_locked (hlock : s.flag (lockF r) = true) (hruns : s.clk.stopped = false) (hhalted : s.ctl.halted = []) :
    execRootReady r s = .next (s.fset (readyF r) 1) := by
  have hnone (p : Nat → Bool) : s.ctl.halted.filter p = s.ctl.halted := by rw [hhalted]; rfl
  simp only [execRootReady, guardUnit_root hr, hlock, hruns, hnone, Bool.not_true, Bool.false_and, Bool.false_eq_true, if_false]

end

/-! Droop responses (R368-R370). -/

section
variable {die : Nat}

theorem State.endDroop_responding (hdroop : s.flag (droopF die) = true) : s.endDroop die =
    (({ s with clk := { s.clk with before := s.clk.before.set (fun _ => 0) die 0 } }).fset (droopF die) 0).fset
      (divF die) (s.clk.before.get (fun _ => 0) die - 1) :=
  if_neg (by simp [hdroop])

theorem State.endDroop_idle (hidle : s.flag (droopF die) = false) : s.endDroop die = s := if_pos (by simp [hidle])

theorem State.before_droop (hidle : s.flag (droopF die) = false) :
    (s.droop die).clk.before.get (fun _ => 0) die = s.fget (divF die) + 1 := by
  simp [State.droop, hidle]

variable (hdie : die < 4)
include hdie

theorem State.flag_droop (hidle : s.flag (droopF die) = false) : (s.droop die).flag (droopF die) = true := by
  have hbits : (droopF die).lo + (droopF die).w ≤ 64 := show 4 * die + 3 + 1 ≤ 64 by omega
  simp only [State.droop, hidle, Bool.false_eq_true, if_false]
  rw [State.flag, State.fget_fset_same _ _ _ _ hbits]
  rfl

theorem execDroopTrigger_eq (rail : Nat) : execDroopTrigger die rail s =
    .next (if rail * 100 < (100 - s.fget F.SENS_DROOP_pct die) * coreMv (s.fget (divF die)) then s.droop die else s) :=
  if_pos (decide_eq_true hdie)

theorem execDroopEnd_eq : execDroopEnd die s = .next (s.endDroop die) := if_pos (decide_eq_true hdie)

end

/-! Clock enables (R372). -/

theorem execClockEnableDone_started {page : Nat} (hbit : (clockBit page).isSome = true) (hfitted : s.pageFitted page = true)
    (hwritten : (s.clk.enables.find? fun e => e.1 == page) = some (page, true)) (hopen : s.pageFenced page = false) :
    execClockEnableDone page s =
      .next ((({ s with clk := { s.clk with enables := s.clk.enables.filter fun x => x != (page, true) } } : State).setReady
        page 1).ungate page) := by
  simp only [execClockEnableDone, guardUnit, hbit, hfitted, hwritten, hopen, State.when, decide_true, Bool.and_self, if_true,
    Bool.not_false]

end

/-- Settles O33: each row is one branch, judged by REFCLK, the root's lock, the die's response or the enable written. -/
theorem clockRows : Obligations.ClockRows := by
  intro s r die hr hdie
  refine ⟨execRefclkLoss_present, fun _ => execRefclkReturn_noRoot, execRefclkReturn_ready, execRootLock_used hr,
    fun hlock => ⟨execRootReady_unlocked hr hlock, execRootLockLoss_unlocked hr hlock⟩, execRootReady_locked hr,
    fun hlock => ?loss, fun rail => ⟨fun hlow => ?droops, fun hhigh => ?holds⟩, fun hdroop => ?ends, fun hidle => ?idle,
    fun rail hlow hidle => ⟨s.droop die, ?responds, State.before_droop hidle, State.flag_droop hdie hidle⟩,
    fun page hbit hfitted hwritten => execClockEnableDone_started hbit hfitted hwritten⟩
  case loss =>
    intro recent s1 s2
    let third := decide (2 ≤ (recent.filter fun l => l.1 == r).length) && !s.rootRetired r
    have hexec : execRootLockLoss r s = .next ((s2.when third (·.brokeAdd 0x9 r 0x09 true)).loseRoot r) :=
      (guardUnit_root hr _).trans (congrArg _ (if_neg (by simp [hlock])))
    refine ⟨fun hfew => hexec.trans (congrArg (fun t : State => Host.Outcome.next (t.loseRoot r)) (if_neg ?_)),
      fun hthird hkept => hexec.trans (congrArg (fun t : State => Host.Outcome.next (t.loseRoot r)) (if_pos ?_))⟩
    · simp [third, hfew]
    · simp [third, hthird, hkept]
  case droops => exact (execDroopTrigger_eq hdie rail).trans (congrArg _ (if_pos hlow))
  case holds => exact (execDroopTrigger_eq hdie rail).trans (congrArg _ (if_neg (Nat.not_lt.mpr hhigh)))
  case ends => exact (execDroopEnd_eq hdie).trans (congrArg _ (State.endDroop_responding hdroop))
  case idle => exact (execDroopEnd_eq hdie).trans (congrArg _ (State.endDroop_idle hidle))
  case responds => exact (execDroopTrigger_eq hdie rail).trans (congrArg _ (if_pos hlow))

end Sys2Proof.Machine

namespace Sys2Proof.Machine

/-! An event and a counter leave the fields of other registers (R344, R55). -/

section
variable {s t : State}

theorem State.fget_raise (s : State) {e : Ev} {f : Fld} (he : e.page < 8192) (hpage : f.page < 8192) (hoff : f.off < 4096)
    (hevent : f.off ≠ 0x18) : (s.raise e).fget f = s.fget f := by
  unfold State.fget
  exact congrArg (bits · f.lo f.w) (State.reg_raiseBit s _ _ he hpage hoff hevent)

theorem State.fget_bump (s : State) {c : Cnt} {f : Fld} (hc : c.page < 8192) (hco : c.off < 4096) (hpage : f.page < 8192)
    (hoff : f.off < 4096) (hevent : f.off ≠ 0x18) (hother : f.off ≠ c.off) : (s.bump c).fget f = s.fget f := by
  unfold State.fget
  refine congrArg (bits · f.lo f.w) (State.reg_bumpBy_other s _ hc hco hpage hoff hevent fun h => hother ?_)
  exact (Prod.mk.inj (Prod.mk.inj h).2).2

theorem State.fget_powerEvent (s : State) (cause : Nat) (f : Fld) : (s.powerEvent cause).fget f = s.fget f := rfl

theorem State.fget_alarm (s : State) (cause : Nat) (f : Fld) : (s.alarm cause).fget f = s.fget f := rfl

theorem Shows.ms (h : Shows s t) : t.ms = s.ms := by obtain ⟨_, _, _, _, rfl⟩ := h; rfl

theorem Shows.cal (h : Shows s t) : t.cal = s.cal := by obtain ⟨_, _, _, _, rfl⟩ := h; rfl

/-! Buckets and decisions (R380, R385). -/

theorem State.tickMs_shows (s : State) : Shows s s.tickMs := by
  unfold State.tickMs
  exact Shows.when (Shows.when (Shows.refl s) (by exact State.fset_shows ..)) (by exact State.fset_shows ..)

theorem execEnergyBucketClose_shows (mj : Nat) (s : State) : ∃ u, execEnergyBucketClose mj s = .next u ∧ Shows
    { s.tickMs with
      ms := s.tickMs.ms + 1, cal := { s.tickMs.cal with buckets := (mj :: s.tickMs.cal.buckets).take 10000 } } u :=
  ⟨_, rfl, (State.fset_shows ..).trans (State.fset_shows ..)⟩

section
variable {w : Nat} {pred : List PointPower} {stalls : List PhaseStall} {loads : List LoadPower} {meters : List Nat}

theorem execCalenderDecision_none (h : s.cal.made = true ∨ s.controlRuns = false) :
    execCalenderDecision w pred stalls loads meters s = .next s := by
  have hgoes : s.cal.made = true ∨ (!s.controlRuns) = true := by simpa using h
  unfold execCalenderDecision
  cases predOf pred 4 4 with
  | none => rfl
  | some low => exact congrArg Host.Outcome.next (if_pos hgoes)

theorem execCalenderDecision_made {low : PointPower} (hmade : s.cal.made = false) (hruns : s.controlRuns = true)
    (hlow : predOf pred 4 4 = some low) : execCalenderDecision w pred stalls loads meters s =
    .next (
      let s1 := s.takeMeasures w meters
      let s2 := ((s1.each (List.range 4) fun s die => s.learnDie stalls die).each loads State.learnLoad).choosePoint pred
        stalls low
      { s2 with cal := { s2.cal with made := true, fell := false } }) := by
  have hgoes : ¬ (s.cal.made = true ∨ (!s.controlRuns) = true) := by simp [hmade, hruns]
  unfold execCalenderDecision
  rw [hlow]
  exact congrArg Host.Outcome.next (if_neg hgoes)

end

/-! The release of a trip (R397). -/

theorem execThermtripRelease_calm (htripped : s.rst.tripped = true) (hcalm : 10000 ≤ s.cal.calm) (hup : s.upDone = true) :
    execThermtripRelease s =
      .next (({ s with rst := { s.rst with tripped := false } } : State).startPkg 3 0 byModule) := by
  have hup' : ({ s with rst := { s.rst with tripped := false } } : State).upDone = true := hup
  have hgoes : ¬ ((!s.rst.tripped) = true ∨ s.cal.calm < 10000) := by simp [htripped, hcalm]
  refine congrArg Host.Outcome.next ((if_neg hgoes).trans ?_)
  simp only [State.when, hup', Bool.not_true, Bool.false_eq_true, if_false, State.recoverAll, if_true]

/-! The leak loop (R399). -/

/-- The sample of the leak loop noted and shown: `n` in a row of its range. -/
def State.noteLeak (s : State) (ohms n : Nat) : State :=
  { s with cal := { s.cal with leak := (leakRange ohms, n) } }.fset F.CALENDER_LEAK_ohms_100
    (if 25000 < ohms then 0xFFFF else min 0xFFFF (ohms / 100))

theorem execLeakSample_first {ohms : Nat} (hnew : s.cal.leak.1 ≠ leakRange ohms) :
    execLeakSample ohms s = .next (s.noteLeak ohms 1) := by
  simp only [execLeakSample, guardUnit, if_neg hnew, if_true, show (1 : Nat) < 3 by decide, true_or]
  rfl

/-- The third sample below 8,000 ohms in a row: the loop is wet. -/
theorem execLeakSample_wet {ohms n : Nat} (hlow : ohms < 8000) (hleak : s.cal.leak = (1, n)) (hn : 2 ≤ n)
    (hdry : s.fget F.CALENDER_LEAK_state ≠ 1) : execLeakSample ohms s =
    .next (((((s.noteLeak ohms 3).fset F.CALENDER_LEAK_state 1).raise E.CALENDER_leak_wet).alarm 2).powerEvent 1).updateCap := by
  have hrange : leakRange ohms = 1 := if_pos hlow
  have hthird : min 3 (n + 1) = 3 := Nat.min_eq_left (Nat.succ_le_succ hn)
  simp only [execLeakSample, guardUnit, hrange, hleak, if_true, hthird, hdry, Nat.lt_irrefl, or_self, if_false, State.noteLeak]

theorem State.leak_updateCap (s : State) : s.updateCap.fget F.CALENDER_LEAK_state = s.fget F.CALENDER_LEAK_state := by
  have hcap (t : State) {g : Fld} (v : Nat) (hpage : g.page = Page.CALENDER) (hoff : g.off = 0x80) :
      (t.fset g v).fget F.CALENDER_LEAK_state = t.fget F.CALENDER_LEAK_state :=
    t.fget_fset_other v (by rw [hpage]; decide) (by rw [hoff]; decide) (by decide) (by decide)
      (by rw [hoff]; exact fun h => absurd (Prod.mk.inj (Prod.mk.inj h).2).2 (by decide))
  have hbuckets (t : State) (c : Bool) (cal : State → Cal) :
      (t.when c fun t => { t with cal := cal t }).fget F.CALENDER_LEAK_state = t.fget F.CALENDER_LEAK_state := by
    cases c <;> rfl
  unfold State.updateCap
  dsimp only
  split
  · exact hcap s _ rfl rfl
  · rw [State.fget_powerEvent, State.fget_raise _ (by decide) (by decide) (by decide) (by decide),
      State.fget_bump _ (by decide) (by decide) (by decide) (by decide) (by decide) (by decide), hbuckets,
      hcap _ _ rfl rfl, hcap _ _ rfl rfl]

end

/-- Settles O34: each sample is one branch, judged by the decision made, the calm spots or the samples of the loop in a row. -/
theorem calenderRows : Obligations.CalenderRows := by
  intro s
  refine ⟨fun mj => ?bucket, fun _ _ _ _ _ => execCalenderDecision_none, fun _ _ _ _ _ _ => execCalenderDecision_made,
    fun rs power => rfl, fun hearly => congrArg Host.Outcome.next (if_pos (.inr hearly)), execThermtripRelease_calm,
    fun ohms => execLeakSample_first, fun ohms n hlow hleak hn hdry => ⟨_, execLeakSample_wet hlow hleak hn hdry, ?wet⟩⟩
  case bucket =>
    obtain ⟨u, hexec, hu⟩ := execEnergyBucketClose_shows mj s
    have htick := s.tickMs_shows
    refine ⟨u, hexec, hu.ms.trans (congrArg (· + 1) htick.ms), ?_, hu.reports.hbm.trans htick.reports.hbm,
      hu.ctxs.trans htick.ctxs⟩
    rw [hu.cal, htick.cal]
  case wet =>
    rw [State.leak_updateCap, State.fget_powerEvent, State.fget_alarm,
      State.fget_raise _ (by decide) (by decide) (by decide) (by decide), State.fget_fset_same _ _ _ _ (by decide)]
    rfl

end Sys2Proof.Machine

namespace Sys2Proof.Machine

/-! The start of a tier (R412, R415, R416). -/

section
variable {s : State} {cause status : Nat} {holder : Nat × Nat}

theorem State.startCd_ready (hup : s.upDone = true) (hready : s.rsState = rsReady) : s.startCd cause status holder =
    ((((s.takeLock 6 0 holder 0).setTier rsFencing 1 cause).bump C.RSTCTL_CDRESET_CNT).planDump 1 cause
      status).fenceCompute :=
  if_neg (by simp [hup, hready])

theorem State.startCd_busy (hbusy : s.rsState ≠ rsReady) : s.startCd cause status holder = s := if_pos (.inr hbusy)

theorem State.startPkg_failed (hfailed : s.rsState = rsFailed) : s.startPkg cause status holder = s := if_pos (.inr hfailed)

/-- The package recoveries of the last 60 s (R412). -/
def State.recentRecoveries (s : State) : List Nat := s.rst.recoveries.filter fun t => decide (s.ms < t + 60000)

section
variable (hup : s.upDone = true) (hworks : s.rsState ≠ rsFailed)
include hup hworks

theorem State.startPkg_third (hthird : 2 ≤ s.recentRecoveries.length) : s.startPkg cause status holder = s.fail :=
  (if_neg (by simp [hup, hworks])).trans (if_pos hthird)

theorem State.startPkg_starts (hfew : s.recentRecoveries.length < 2) : s.startPkg cause status holder =
    (let s2 := ((((s.freeLock 6 0).freeLock 7 0).takeLock 7 0 holder 0)).setTier rsFencing 2 cause
     let s3 := ({ s2 with rst := { s2.rst with recoveries := s.recentRecoveries ++ [s.ms] } }).bump C.RSTCTL_PKGREC_CNT
     (s3.planDump 2 cause status).fenceCompute.dropLinks.fencePages ioPages) :=
  (if_neg (by simp [hup, hworks])).trans (if_neg (Nat.not_le.mpr hfew))

end

end

/-! The end of the drain (R417). -/

section
variable {s t : State}

theorem Shows.rst (h : Shows s t) : t.rst = s.rst := by obtain ⟨_, _, _, _, rfl⟩ := h; rfl

theorem State.selfRefresh_shows (s : State) : Shows s s.selfRefresh :=
  Shows.foldl (fun _ _ => Shows.ite (State.fset_shows ..) (Shows.refl _)) (Shows.refl s)

theorem execDrainLimit_undumped (n : Nat) (htier : s.tierRuns 1 = true) (hfencing : s.rsState = rsFencing)
    (hrails : s.rst.railHold = false) (hdumping : s.rst.dumping = none) (hdumpDue : s.rst.dumpDue = none) :
    execDrainLimit n s = .next (((s.bumpBy C.RSTCTL_DRAIN_TO_CNT n).selfRefresh).enterReset) := by
  have hgoes : ¬ ((!(s.tierRuns 1 || s.tierRuns 2)) = true ∨ s.rsState ≠ rsFencing ∨ s.rst.railHold = true) := by
    simp [htier, hfencing, hrails]
  have hrst : (s.bumpBy C.RSTCTL_DRAIN_TO_CNT n).selfRefresh.rst = s.rst :=
    ((State.bumpBy_shows ..).trans (State.selfRefresh_shows _)).rst
  have hnone : ((s.bumpBy C.RSTCTL_DRAIN_TO_CNT n).selfRefresh.rst.dumping.orElse fun _ =>
      (s.bumpBy C.RSTCTL_DRAIN_TO_CNT n).selfRefresh.rst.dumpDue) = none := by
    rw [hrst, hdumping, hdumpDue]
    rfl
  unfold State.selfRefresh at hnone ⊢
  simp only [execDrainLimit, guardUnit, if_true, if_neg hgoes, hnone]

/-! The end of a tier (R415, R416). -/

theorem State.fget_freeLock (s : State) {cls inst : Nat} {f : Fld} (hlock : lockPage cls inst < 8192) (hpage : f.page < 8192)
    (hoff : f.off < 4096) (hevent : f.off ≠ 0x18) : (s.freeLock cls inst).fget f = s.fget f := by
  unfold State.freeLock
  split
  · exact congrArg (bits · f.lo f.w) (State.reg_raiseBit _ _ _ hlock hpage hoff hevent)
  · rfl

/-- A tier has reached READY: its event is raised and its lock let go. -/
def State.endTier (s : State) (ms : Nat) (e : Ev) (cls : Nat) : State := ((s.tierReady ms).raise e).freeLock cls 0

section
variable (s) (ms : Nat) {e : Ev} {cls : Nat}

theorem State.hbm_endTier : (s.endTier ms e cls).hbm = s.hbm := by
  obtain ⟨locks, hfree⟩ := State.freeLock_shows ((s.tierReady ms).raise e) cls 0
  have hready : Shows s (s.tierReady ms) := (State.fset_shows ..).trans (State.fset_shows ..)
  have hraise := State.raise_shows (s.tierReady ms) e 0
  exact hfree.reports.hbm.trans (hraise.reports.hbm.trans hready.reports.hbm)

theorem State.unlocked_endTier : (s.endTier ms e cls).unlocked cls 0 := State.freeLock_unlocked

variable (he : e.page < 8192) (hlock : lockPage cls 0 < 8192)
include he hlock

theorem State.fget_endTier {f : Fld} (hpage : f.page < 8192) (hoff : f.off < 4096) (hevent : f.off ≠ 0x18) :
    (s.endTier ms e cls).fget f = (s.tierReady ms).fget f :=
  (State.fget_freeLock _ hlock hpage hoff hevent).trans (State.fget_raise _ he hpage hoff hevent)

theorem State.rsState_endTier : (s.endTier ms e cls).rsState = rsReady := by
  rw [State.rsState, State.fget_endTier _ _ he hlock (by decide) (by decide) (by decide), State.tierReady,
    State.fget_fset_above _ _ _ _ (by decide) (by decide) (by decide) (by decide), State.fget_fset_same _ _ _ _ (by decide)]
  rfl

theorem State.lastMs_endTier : (s.endTier ms e cls).fget F.RSTCTL_STATE_last_ms = min 0xFFFF ms := by
  rw [State.fget_endTier _ _ he hlock (by decide) (by decide) (by decide), State.tierReady,
    State.fget_fset_same _ _ _ _ (by decide)]
  exact Nat.mod_eq_of_lt (Nat.lt_succ_of_le (Nat.min_le_left ..))

end

theorem State.unfencePages_shows (s : State) (ps : List Nat) : Shows s (s.unfencePages ps) :=
  Shows.foldl (fun _ _ => State.setReg_shows ..) (Shows.refl s)

theorem State.applyCd_shows (s : State) : Shows s s.applyCd :=
  (State.fset_shows ..).trans ((State.fset_shows ..).trans (State.fset_shows ..))

/-- The stacks leave self-refresh as the compute domain's reset ends (R415). -/
def State.leaveRefresh (s : State) : State :=
  s.each (List.range 12) fun s i => if s.memState i = memRefresh then s.fset F.HBMC_STATE_state memActive i else s

theorem State.leaveRefresh_shows (s : State) : Shows s s.leaveRefresh :=
  Shows.foldl (fun _ _ => Shows.ite (State.fset_shows ..) (Shows.refl _)) (Shows.refl s)

theorem execCdResetReady_resetting (ms : Nat) (htier : s.tierRuns 1 = true) (hresetting : s.rsState = rsResetting) :
    ∃ t, Shows s t ∧ execCdResetReady ms s = .next (t.endTier ms E.RSTCTL_cd_reset 6) := by
  have hgoes : ¬ ((!s.tierRuns 1) = true ∨ s.rsState ≠ rsResetting) := by simp [htier, hresetting]
  exact ⟨(s.leaveRefresh.unfencePages (computePages ++ memoryPages)).applyCd,
    s.leaveRefresh_shows.trans ((State.unfencePages_shows ..).trans (State.applyCd_shows _)),
    congrArg Host.Outcome.next (if_neg hgoes)⟩

theorem execPkgRecoveryReady_trained (ms : Nat) (htier : s.tierRuns 2 = true) (htraining : s.rsState = rsTraining)
    (hstacks : ∀ i < 12, s.stackFitted i = true → s.memState i = memActive ∨ s.memState i = memFailed) :
    ∃ t : State, execPkgRecoveryReady ms s = .next (t.endTier ms E.RSTCTL_pkg_recovery 7) := by
  have htrained : ((List.range 12).all fun i =>
      !s.stackFitted i || s.memState i == memActive || s.memState i == memFailed) = true := by
    simp only [List.all_eq_true, List.mem_range, Bool.or_eq_true, Bool.not_eq_true', beq_iff_eq, or_assoc]
    intro i hi
    cases hfitted : s.stackFitted i with
    | false => exact .inl rfl
    | true => exact .inr (hstacks i hi hfitted)
  have hgoes : ¬ ((!s.tierRuns 2) = true ∨ s.rsState ≠ rsTraining ∨ (!(List.range 12).all fun i =>
      !s.stackFitted i || s.memState i == memActive || s.memState i == memFailed) = true) := by
    simp only [htier, htraining, htrained, Bool.not_true, Bool.false_eq_true, ne_eq, not_true, or_self, not_false_eq_true]
  exact ⟨_, congrArg Host.Outcome.next (if_neg hgoes)⟩

end

/-- Settles O31: each row is one branch of a tier's start, drain or end, judged by the reset state and the tier that runs. -/
theorem recoveryTierRows : Obligations.RecoveryTierRows := by
  intro s cause status
  refine ⟨fun hup hready => congrArg Host.Outcome.next (State.startCd_ready hup hready),
    fun hbusy => congrArg Host.Outcome.next (State.startCd_busy hbusy),
    fun hup hworks hthird => congrArg Host.Outcome.next (State.startPkg_third hup hworks hthird),
    fun hfailed => congrArg Host.Outcome.next (State.startPkg_failed hfailed),
    fun hup hworks hfew => congrArg Host.Outcome.next (State.startPkg_starts hup hworks hfew),
    fun n => execDrainLimit_undumped n, fun ms htier hresetting => ?cdReady, fun ms htier htraining hstacks => ?pkgReady,
    fun htier => congrArg Host.Outcome.next (if_pos htier), fun htier => congrArg Host.Outcome.next (if_pos htier), rfl⟩
  case cdReady =>
    obtain ⟨t, hshows, hexec⟩ := execCdResetReady_resetting ms htier hresetting
    exact ⟨_, hexec, State.rsState_endTier t ms (by decide) (by decide),
      (State.hbm_endTier t ms).trans hshows.reports.hbm, State.lastMs_endTier t ms (by decide) (by decide),
      State.unlocked_endTier t ms⟩
  case pkgReady =>
    obtain ⟨t, hexec⟩ := execPkgRecoveryReady_trained ms htier htraining hstacks
    exact ⟨_, hexec, State.rsState_endTier t ms (by decide) (by decide), State.unlocked_endTier t ms⟩

end Sys2Proof.Machine
